-- ==== Sys2Proof/Word.lean ====
section
/-! DEFINITION. The word types of the model and the numbers that name registers. -/

namespace Sys2Proof

/-- A byte of memory. -/
abbrev Byte := BitVec 8

/-- A 64-bit register or memory word (R72, R203). -/
abbrev Word := BitVec 64

/-- An origin label: one bit for each of the 32 partitions (R72, R79). -/
abbrev Label := BitVec 32

/-- The number of a general register, g0 to g31 (R72). -/
abbrev Reg := Fin 32

/-- The number of a vector register, v0 to v15 (R77). -/
abbrev VReg := Fin 16

/-- The number of a mask register, m0 to m7 (R77). -/
abbrev MReg := Fin 8

/-- The number of a general register below 16, as `vmv.bc` and `vmv.x` name it (R196). -/
abbrev LowReg := Fin 16

/-- The number of a control register (R78). -/
abbrev CregNum := BitVec 12

end Sys2Proof
end

