-- ==== Sys2Proof/Config.lean ====
section
/-! DEFINITION. What an implementation fixes and the spec does not: the free values of the model. None of these
constants has a body, so no proof can use a value of theirs. -/

namespace Sys2Proof.Config

/-- Free values, drawn with the state's counter: values that the spec leaves open after an instruction that goes on
(assumption 2). -/
opaque freeValue : Nat → BitVec 64

/-- Which entry of a full translation cache is replaced (R236, assumption 5). -/
opaque victim : Nat → Nat

/-- The results of `vsfu` by function number and operand, where the spec gives an error bound (R199, assumption 4). -/
opaque sfuResult : Nat → BitVec 32 → BitVec 32

/-- The key whose digest the ROM holds for the vendor's signatures (R422, assumption 6). -/
opaque vendorKey : List Byte

/-- The platform owner key (R407, assumption 6). -/
opaque ownerKey : List Byte

/-- The bytes, by their places, of a signature of the security controller on a message (R423, assumption 6). -/
opaque deviceSign : List Byte → Nat → Byte

/-- The random boot number of a power-on, by count (R422, assumption 6). -/
opaque bootId : Nat → List Byte

/-- The package power in watts that the device manager measures in a period (R426, assumption 9). -/
opaque power : Nat → Nat

/-- The temperature in degrees of a die that the device manager measures in a period (R426, assumption 9). -/
opaque dieTemp : Nat → Nat → Nat

/-- The seed of the identity key and its public part, as the security controller derives them (R423, assumption 6). -/
opaque identityKey : List Byte

/-- Whether the part is the CZ-M module, which ignores PLIMIT, or the CZ-P package (R407, R426, assumption 79). -/
opaque isModule : Bool

/-- The addresses in device space of the device-wide counts, which the spec does not give (R413, assumption 12). -/
opaque perfVa : Nat → BitVec 64

/-- The addresses in device space of the Rake's registers RAKEJOB, RAKEPROG and RAKESTAT, which the spec does not give (R420,
assumption 12). -/
opaque rakejobVa : BitVec 64
/-- The address of RAKEPROG. -/
opaque rakeprogVa : BitVec 64
/-- The address of RAKESTAT. -/
opaque rakestatVa : BitVec 64

end Sys2Proof.Config
end

