-- ==== Sys2Proof/Syntax.lean ====
section
/-! DEFINITION. The instructions and steps of the part: one constructor for each row of the opcode table.
The first 92 are the steps that have no bits, whose
arguments say which queue, packet, launch or outside input the step is about; the other 286 are the encoded
instructions (R92 to R98). -/

namespace Sys2Proof

/-- Lane width of a packed operation on general registers (R117). -/
inductive PWidth where
  | b8 | h16 | w32
  deriving DecidableEq, Repr

/-- Format of a scalar or vector floating-point operation (R166, R197). -/
inductive FpFmt where
  | fp32 | fp16 | bf16
  deriving DecidableEq, Repr

/-- A rounding mode, in the coding of STATUS.RM (R81, R156). -/
inductive Rm where
  | rne | rtz | rdn | rup | sr
  deriving DecidableEq, Repr

/-- The rounding field of `cvt`: STATUS.RM or a mode of its own (R94). -/
inductive CvtRound where
  | status
  | fixed (m : Rm)
  deriving DecidableEq, Repr

/-- The 32 number formats, in the order of their codes (R148). -/
inductive Fmt where
  | int8 | uint8 | int16 | uint16 | int32 | int4 | uint4 | int2
  | bps8 | bpu8 | bps16 | bpu16 | fp32 | fp16 | bf16 | fp8a
  | fp8b | fp6a | fp6b | fp4 | ci16 | ci8 | cf16 | bsint8
  | bsfp8a | bsfp6a | bsfp4 | bsint4 | acc32f | acc32i | acc64i | e8
  deriving DecidableEq, Repr

/-- The ordering field of the M format (R90, R219). -/
inductive MemOrder where
  | plain | acquire | release | sequential
  deriving DecidableEq, Repr

/-- The size field of the M format (R90). -/
inductive MemSize where
  | byte | half | word | double
  deriving DecidableEq, Repr

/-- An invocation as it arrives (R50, R147): the chip it comes from and the port, or none for this chip; the partition
that its sender's is mapped to here, if any; its handler, priority, arguments g1 to g6 and their labels as the sender
gives them; and the sender's number for the answer. -/
structure Invocation where
  fromChip : Nat
  port     : Option Nat
  part     : Option Nat
  handler  : Nat
  prio     : Nat
  data     : List Word
  labels   : List Label
  reply    : Nat
  deriving DecidableEq, Repr

/-- A message of a collective (R283, R284), with its port where it comes from another chip. `role` is 0 for a
contribution to rank 0, 1 for a result, 2 for an abort and 3 for the failure of a member; `part` is the local partition,
`kind` 0 all-reduce, 1 all-gather, 2 reduce-scatter. -/
structure CollMsg where
  port    : Option Nat
  chip    : Nat
  part    : Nat
  role    : Nat
  rank    : Nat
  tag     : Nat
  epoch   : Nat
  kind    : Nat
  members : Nat
  count   : Nat
  fmt     : Nat
  op      : Nat
  round   : Nat
  timeout : Nat
  chips   : List Nat
  data    : List Byte
  label   : Label
  deriving DecidableEq, Repr

/-- A packet that arrives over Saurn Link (R347, R373, R375), with its port, the local partition that the link maps the
sender's to, if any, and the label as the sender gives it: a posted write, the answer to an invocation, or the notice
that a write was refused. -/
inductive FabricPacket where
  | write (port : Nat) (part : Option Nat) (addr : Word) (data : List Byte) (label : Label)
  | answer (port reply status : Nat)
  | refused (port part : Nat) (addr : Word) (label : Label) (chip : Nat)
  deriving DecidableEq, Repr

/-- A request to the security controller (R379, R383): the requester, the result word's address, and the body with its
signatures. -/
structure PolicyBody where
  part  : Nat
  dst   : Word
  bytes : List Byte
  deriving DecidableEq, Repr

/-- A fault-queue event as its source hands it over (R393): CODE, SUB, DETAIL and words 1 to 7. -/
structure FaultEvent where
  code   : Nat
  sub    : Nat
  detail : Nat
  words  : List Word
  deriving DecidableEq, Repr

/-- One constructor for each row of the opcode table. -/
inductive Instr where
  /-- `ASYNC_TRAP_DELIVERY` (R386): At a ready turn, the highest-priority pending asynchronous trap not deferred is taken. -/
  | asyncTrapDelivery
  /-- `FETCH_LINE_INSTALL` (R87): A fetch-merger block reply arrives and the missing line is installed in the instruction cache. -/
  | fetchLineInstall (read : Nat)
  /-- `BANK_ARBITRATION` (R210): In a cycle with requests, a bank arbiter grants the next input and performs the access with combined reads. -/
  | bankArbitration (pan bank : Nat)
  /-- `RESULT_FILL` (R106): A delayed result arrives and fills its pending destination register. -/
  | resultFill (fill : Nat)
  /-- `MIGRATION_ARRIVAL` (R248): A migration packet arrives and takes a slot, waits in the arrival buffer, or is refused. -/
  | migrationArrival (uid : Nat)
  /-- `ARRIVAL_BUFFER_PLACE` (R248): A slot frees and the oldest buffered packet of the partition takes it. -/
  | arrivalBufferPlace (core part : Nat)
  /-- `MIGRATION_RESEND` (R248): 64 cycles after a refusal the departing core sends the packet again. -/
  | migrationResend (uid : Nat)
  /-- `MIGRATION_PLACED_NOTICE` (R249): The destination's placement notice reaches the departing core, which frees or holds the old slot. -/
  | migrationPlacedNotice (core slot : Nat)
  /-- `MIGRATION_FALLBACK` (R252): 4,096 cycles after the migrating turn without placement, the thread proxies the access instead. -/
  | migrationFallback (uid : Nat)
  /-- `PROXIED_ACCESS` (R252): A proxied request arrives at its home and is performed there with the semantics of the migrated access. -/
  | proxiedAccess (acc : Nat)
  /-- `POSTED_WRITE_ARRIVAL` (R255): A posted write arrives at its bank or slice, is label-checked and performed or discarded. -/
  | postedWriteArrival (acc : Nat)
  /-- `POSTED_WRITE_ACK` (R254): An acknowledgement returns and the thread's outstanding posted-write count falls. -/
  | postedWriteAck (acc : Nat)
  /-- `POSTED_WAKE_ARRIVAL` (R329): A wake to another Pan's core arrives and sets the named wake bits. -/
  | postedWakeArrival (acc : Nat)
  /-- `TRANSLATION_REQUEST` (R236): A translation request reaches a hub cache and is answered on a hit or given a walker. -/
  | translationRequest (req : Nat)
  /-- `TRANSLATION_WALK_DONE` (R235): A five-level table walk ends with a translation or a fault answer. -/
  | translationWalkDone (walk : Nat)
  /-- `L2_FILL_BURST` (R239): 16 cycles after a fill opens, the slice reads all listed sectors as one HBM burst. -/
  | l2FillBurst (fill : Nat)
  /-- `HBM_FILL_RETURN` (R240): HBM sector data returns, is integrity-checked, and serves waiting accesses. -/
  | hbmFillReturn (fill : Nat)
  /-- `CROSS_DIE_WRITE_APPLY` (R343): An arriving cross-die write is applied once its causal predecessors are applied. -/
  | crossDieWriteApply (src dst : Nat)
  /-- `CLOCK_BEAT` (R344): Every 256 cycles a die sends SENT counts to every other die, which raises APPLIED. -/
  | clockBeat
  /-- `DCLOCK_REPORT` (R344): Every 256 cycles each die reports DCLOCK to hub 0, which updates STABLE. -/
  | dclockReport (die : Nat) (counts : List Nat)
  /-- `VCLOCK_ZEROING` (R344): Every 65,536 cycles VCLOCK entries reached by STABLE are set to 0. -/
  | vclockZeroing
  /-- `GLOBAL_FENCE_ORDERING` (R346): A global fence reaches hub 0, takes its number and joins clock G. -/
  | globalFenceOrdering (uid : Nat)
  /-- `BARRIER_REQUEST` (R330): A barrier unit performs one arrival or wait request, completing phases and releasing waiters. -/
  | barrierRequest (pan cycle : Nat)
  /-- `PARK_TIMEOUT` (R326): A watch's timeout expires and the park returns TIMEOUT. -/
  | parkTimeout (uid stamp : Nat)
  /-- `SLEEP_TIMEOUT` (R328): A sleep's timeout expires and it returns TIMEOUT. -/
  | sleepTimeout (uid stamp : Nat)
  /-- `LAUNCH_WINDOW_SUBMIT` (R40): A host write including byte 0x3F of a staging slot submits the record and decides its outcome. -/
  | launchWindowSubmit (vf off : Nat) (data : List Byte)
  /-- `INVOCATION_ARRIVAL` (R50): An invocation packet arrives and is accepted into a queue or refused. -/
  | invocationArrival (inv : Invocation)
  /-- `LAUNCH_PLACEMENT_PASS` (R47): The launch unit orders candidates and places, folds for, or checks gangs Pan by Pan. -/
  | launchPlacementPass (part : Nat)
  /-- `WAITON_POLL` (R46): At least every 4,096 cycles the launch unit re-reads a waiting launch's wait-on word. -/
  | waitonPoll (part : Nat)
  /-- `PRIORITY_AGING` (R47): Every 2^20 cycles of eligible waiting a launch's effective priority rises by one. -/
  | priorityAging
  /-- `COMPLETION_WRITE` (R44): When a launch's writes are visible at system scope the completion word is written. -/
  | completionWrite (part seq : Nat)
  /-- `MSIX_RAISE` (R45): After the completion word is visible at system scope the requested MSI-X vector is raised. -/
  | msixRaise (vf vec : Nat)
  /-- `HANDLER_ERROR_COMPLETION` (R52): An error completion of a policy-0 handler reaches the sending chip and enters its fault queue. -/
  | handlerErrorCompletion (part : Nat) (ev : FaultEvent)
  /-- `FOLD` (R64): A gang is stopped, saved with its commands and barriers into fold records, and its slots freed. -/
  | fold (part gang why : Nat)
  /-- `OWNERSHIP` (R66): A service request writes a complete new ownership set, accepted or refused at once. -/
  | ownership (part slot : Nat)
  /-- `SLOT_HANDOVER` (R67): At its first turn after acceptance, a slot changing owner enters SCRUB or folds its gang. -/
  | slotHandover (core slot : Nat)
  /-- `SLOT_SCRUB_DONE` (R67): The Rake finishes clearing a SCRUB slot and makes it FREE for the new owner. -/
  | slotScrubDone (core slot : Nat)
  /-- `PAGE_MOVE` (R69): Once earlier commands on the page have retired, its data and tags are copied to the new frame. -/
  | pageMove (part pan page : Nat)
  /-- `PAGE_MOVE_RETIRE` (R69): The copy retires, the entry is rewritten and its moving bit cleared in one cycle. -/
  | pageMoveRetire (part pan page : Nat)
  /-- `CELLAR_CLEAR` (R71): After its last page moves, a departing cellar is cleared and passes to its new owner. -/
  | cellarClear (pan cellar : Nat)
  /-- `RESIZED` (R71): When every part of a resize ends, GEN rises, RESIZING clears and RESIZED events go out. -/
  | resized (part : Nat)
  /-- `ROOT` (R408): A service request replaces the partition's translation root. -/
  | root (part slot : Nat)
  /-- `FRAMES` (R408): A service request allots HBM frames of given colours. -/
  | frames (part slot : Nat)
  /-- `RELEASE` (R408): A service request releases frames and sets their cleared bits. -/
  | release (part slot : Nat)
  /-- `RETIRE` (R416): A service request retires a partition, aborting, erasing and raking its resources. -/
  | retire (part slot : Nat)
  /-- `RACK_SEGMENT` (R261): The engine starts a segment of a ready queue head, translating, checking, converting and moving elements. -/
  | rackSegment (trellis cmd : Nat)
  /-- `RACK_RETIRE` (R261): A command's last segment lands, ranges are released and it retires. -/
  | rackRetire (trellis cmd : Nat)
  /-- `FOLLOW_ON_ENQUEUE` (R276): A landed copy enqueues its bound Press command once a PRESSQ entry is free. -/
  | followOnEnqueue (trellis cmd : Nat)
  /-- `RACK_WATCHDOG` (R406): A segment running 16,384 cycles is stopped with ABORTED and WATCHDOG. -/
  | rackWatchdog (trellis cmd : Nat)
  /-- `COLL_CONTRIBUTION` (R283): A contribution reaches rank 0, which commits and computes results when all have arrived. -/
  | collContribution (msg : CollMsg)
  /-- `COLL_TIMEOUT` (R284): TIMEOUT expires at rank 0 before commit and the collective aborts. -/
  | collTimeout (tag epoch : Nat)
  /-- `LINK_FAILURE` (R284): A fabric link fails, aborting uncommitted collectives and failing outstanding invocations. -/
  | linkFailure (port : Nat)
  /-- `PRESS_OP_START` (R299): The Press starts a command, translating first pages and making the start checks. -/
  | pressOpStart (trellis : Nat)
  /-- `PRESS_KBLOCK` (R299): The Press checks and computes one k-block of an operation. -/
  | pressKblock (trellis : Nat)
  /-- `PRESS_OP_RETIRE` (R297): The Press writes C back and the block fields, and retires the command. -/
  | pressOpRetire (trellis : Nat)
  /-- `PRESS_WATCHDOG` (R303): An operation running 16,384 cycles stops at its k-block with ABORTED. -/
  | pressWatchdog (trellis : Nat)
  /-- `TDIR_PERFORM` (R357): A tdir request is performed at its directory and its status returned. -/
  | tdirPerform (trellis req : Nat)
  /-- `TMOVE_PERFORM` (R358): A tmove request at the source directory reserves, marks OUTBOUND and starts the copy. -/
  | tmovePerform (trellis req : Nat)
  /-- `ENTRY_LANDING` (R363): A moved entry lands, starting late responders for censuses already passed. -/
  | entryLanding (trellis req : Nat)
  /-- `CENSUS_REQUEST` (R359): A solicit reaches the root, takes a CSEQ and slot when free, and is broadcast. -/
  | censusRequest (req : Nat)
  /-- `CENSUS_BROADCAST` (R359): A broadcast is processed at a trellis, matching entries and starting responders. -/
  | censusBroadcast (trellis census : Nat)
  /-- `RESPONDER_START` (R360): A freed slot starts a queued or pending responder. -/
  | responderStart (trellis : Nat)
  /-- `TRELLIS_REPORT` (R362): When all matches for a census have answered or quit, the trellis reports. -/
  | trellisReport (trellis census : Nat)
  /-- `PAN_NODE_REPORT` (R353): A Pan node forwards its combined report once all 128 trellises reported. -/
  | panNodeReport (pan census : Nat)
  /-- `LANDING_NOTICE` (R363): Late answers and a landing notice reach the root, which removes the move. -/
  | landingNotice (part move : Nat)
  /-- `CENSUS_COMPLETE` (R364): A complete census's result is sent to the asker and its slot freed. -/
  | censusComplete (part census : Nat)
  /-- `POLICY_INSTALL` (R379): The security controller verifies and installs a release policy entry. -/
  | policyInstall (pol : PolicyBody)
  /-- `POLICY_REVOKE` (R379): The security controller removes a policy entry on one signer's request. -/
  | policyRevoke (pol : PolicyBody)
  /-- `LABEL_GRANT` (R380): The security controller zeroes pages and relabels or rekeys them. -/
  | labelGrant (pol : PolicyBody)
  /-- `POLICY_EXPIRY` (R378): A policy entry lapses at EXPIRY and its place frees. -/
  | policyExpiry (id : Nat)
  /-- `FAULT_QUEUE_EVENT` (R392): An event reaches the launch unit and is written to the fault queue, buffered or lost. -/
  | faultQueueEvent (part : Nat) (ev : FaultEvent)
  /-- `FAULT_QUEUE_RETRY` (R392): Every 1,024 cycles the buffered head event is retried. -/
  | faultQueueRetry (part : Nat)
  /-- `SLOT_TIMER_EXPIRY` (R399): SLOTTIMER.COUNT reaches 0 and TIMER becomes pending. -/
  | slotTimerExpiry (uid : Nat)
  /-- `HEARTBEAT_MISS` (R401): HBCNT reaches HBINT, the slot is fenced and its thread saved. -/
  | heartbeatMiss (uid : Nat)
  /-- `BUDGET_PERIOD` (R405): At each 100 µs boundary each budget account is replenished by f × B. -/
  | budgetPeriod
  /-- `THERMTRIP` (R426): A die at 115 °C asserts THERMTRIP# and holds every die in reset. -/
  | thermtrip (temp : Nat)
  /-- `REGULATOR_WINDOW` (R409): Every 1 µs each memory controller regulator restarts its sector counts. -/
  | regulatorWindow
  /-- `CHANNEL_DERATE` (R411): A channel whose corrected error rate passes 64/s is derated and its regulators reset. -/
  | channelDerate (slice : Nat)
  /-- `WAY_SWEEP` (R412): Every 4 cycles a slice sweeps one line of removed ways, writing back and invalidating. -/
  | waySweep (slice : Nat)
  /-- `TELEMETRY_EXPORT` (R414): Every period each partition's counters are exported through the Sluice. -/
  | telemetryExport (part : Nat)
  /-- `FUNCTION_LEVEL_RESET` (R417): A virtual function reset cancels its launches, clears its window and may retire its partition. -/
  | functionLevelReset (vf : Nat)
  /-- `RAKEJOB` (R420): A write appends one clearing item to the Rake's list. -/
  | rakejob (value : Word)
  /-- `RAKE_ITEM_DONE` (R420): The Rake finishes clearing one item and DONE rises. -/
  | rakeItemDone
  /-- `RAKESTAT` (R420): A write of 1 clears RESTARTED. -/
  | rakestat (value : Word)
  /-- `DEVICE_RESET` (R421): A device reset restarts the whole-device scrub and erases keys. -/
  | deviceReset
  /-- `POWER_ON` (R425): Power rises and bring-up runs measurement, scrub and configuration, then asserts PWRGD. -/
  | powerOn (fw dm cfg : List Byte)
  /-- `ATTESTATION_REQUEST` (R423): A measurement request is answered with a signed attestation report. -/
  | attestationRequest (nonce : List Byte)
  /-- `PORT_ATTESTATION` (R374): Two security controllers attest a link port and agree its label map. -/
  | portAttestation (port : Nat)
  /-- `FABRIC_PACKET_ARRIVAL` (R375): A packet arrives by Saurn Link and its labels are mapped or it is refused. -/
  | fabricPacketArrival (pkt : FabricPacket)
  /-- `HOST_WRITE` (R452): A host write through a virtual function is translated, label-checked and performed or discarded. -/
  | hostWrite (vf addr : Nat) (data : List Byte)
  /-- `HOST_READ` (R452): A host read is translated, passed by the Sluice, and completed or aborted. -/
  | hostRead (vf addr len : Nat)
  /-- `SIGNED_CONFIGURATION_RECORD` (R407): The device manager verifies a signed configuration record presented while the device runs, and applies it or leaves the previous configuration in force. -/
  | signedConfigurationRecord (rec : List Byte)
  /-- `ADD` (R112): Writes a + b modulo 2^64 to d. -/
  | add (d a b : Reg) (ta tb : Bool)
  /-- `SUB` (R112): Writes a − b to d. -/
  | sub (d a b : Reg) (ta tb : Bool)
  /-- `AND` (R112): Writes the bitwise AND of a and b to d. -/
  | and (d a b : Reg) (ta tb : Bool)
  /-- `OR` (R112): Writes the bitwise OR of a and b to d. -/
  | or (d a b : Reg) (ta tb : Bool)
  /-- `XOR` (R112): Writes the bitwise XOR of a and b to d. -/
  | xor (d a b : Reg) (ta tb : Bool)
  /-- `SLL` (R112): Shifts a left by b[5:0]. -/
  | sll (d a b : Reg) (ta tb : Bool)
  /-- `SRL` (R112): Shifts a right logically by b[5:0]. -/
  | srl (d a b : Reg) (ta tb : Bool)
  /-- `SRA` (R112): Shifts a right arithmetically by b[5:0]. -/
  | sra (d a b : Reg) (ta tb : Bool)
  /-- `ROT` (R112): Rotates a right by b[5:0]. -/
  | rot (d a b : Reg) (ta tb : Bool)
  /-- `MIN` (R112): Writes the signed minimum of a and b. -/
  | min (d a b : Reg) (ta tb : Bool)
  /-- `MAX` (R112): Writes the signed maximum of a and b. -/
  | max (d a b : Reg) (ta tb : Bool)
  /-- `MINU` (R112): Writes the unsigned minimum of a and b. -/
  | minu (d a b : Reg) (ta tb : Bool)
  /-- `MAXU` (R112): Writes the unsigned maximum of a and b. -/
  | maxu (d a b : Reg) (ta tb : Bool)
  /-- `SLT` (R112): Writes 1 if a < b signed, else 0. -/
  | slt (d a b : Reg) (ta tb : Bool)
  /-- `SLTU` (R112): Writes 1 if a < b unsigned, else 0. -/
  | sltu (d a b : Reg) (ta tb : Bool)
  /-- `SEQ` (R112): Writes 1 if a = b, else 0. -/
  | seq (d a b : Reg) (ta tb : Bool)
  /-- `SEL` (R112): Writes a if d is nonzero, else b, reading d. -/
  | sel (d a b : Reg) (ta tb : Bool)
  /-- `EXT_S_B` (R112): Sign-extends a[7:0] into d. -/
  | extSB (d a : Reg) (ta tb : Bool)
  /-- `EXT_S_H` (R112): Sign-extends a[15:0] into d. -/
  | extSH (d a : Reg) (ta tb : Bool)
  /-- `EXT_S_W` (R112): Sign-extends a[31:0] into d. -/
  | extSW (d a : Reg) (ta tb : Bool)
  /-- `EXT_Z_B` (R112): Zero-extends a[7:0] into d. -/
  | extZB (d a : Reg) (ta tb : Bool)
  /-- `EXT_Z_H` (R112): Zero-extends a[15:0] into d. -/
  | extZH (d a : Reg) (ta tb : Bool)
  /-- `EXT_Z_W` (R112): Zero-extends a[31:0] into d. -/
  | extZW (d a : Reg) (ta tb : Bool)
  /-- `ADDI` (R113): Writes a plus the sign-extended imm14 to d. -/
  | addi (d a : Reg) (imm : BitVec 14) (ta : Bool)
  /-- `ANDI` (R113): Writes a AND the sign-extended imm14. -/
  | andi (d a : Reg) (imm : BitVec 14) (ta : Bool)
  /-- `ORI` (R113): Writes a OR the sign-extended imm14. -/
  | ori (d a : Reg) (imm : BitVec 14) (ta : Bool)
  /-- `XORI` (R113): Writes a XOR the sign-extended imm14. -/
  | xori (d a : Reg) (imm : BitVec 14) (ta : Bool)
  /-- `SLTI` (R113): Writes 1 if a is signed-less than the immediate. -/
  | slti (d a : Reg) (imm : BitVec 14) (ta : Bool)
  /-- `SLTIU` (R113): Writes 1 if a is unsigned-less than the immediate. -/
  | sltiu (d a : Reg) (imm : BitVec 14) (ta : Bool)
  /-- `SLLI` (R114): Shifts a left by an immediate amount. -/
  | slli (d a : Reg) (n : BitVec 6) (ta : Bool)
  /-- `SRLI` (R114): Shifts a right logically by an immediate amount. -/
  | srli (d a : Reg) (n : BitVec 6) (ta : Bool)
  /-- `SRAI` (R114): Shifts a right arithmetically by an immediate amount. -/
  | srai (d a : Reg) (n : BitVec 6) (ta : Bool)
  /-- `ROTI` (R114): Rotates a right by an immediate amount. -/
  | roti (d a : Reg) (n : BitVec 6) (ta : Bool)
  /-- `LUI` (R115): Writes SignExtend(imm20) << 14 to d. -/
  | lui (d : Reg) (imm : BitVec 20)
  /-- `ADDPC` (R115): Writes PC plus SignExtend(imm20) << 14 to d. -/
  | addpc (d : Reg) (imm : BitVec 20)
  /-- `MUL` (R116): Writes the low 64 bits of a × b. -/
  | mul (d a b : Reg) (ta tb : Bool)
  /-- `MULH` (R116): Writes the high 64 bits of the signed product. -/
  | mulh (d a b : Reg) (ta tb : Bool)
  /-- `MULHU` (R116): Writes the high 64 bits of the unsigned product. -/
  | mulhu (d a b : Reg) (ta tb : Bool)
  /-- `DIV` (R116): Writes the signed quotient rounded toward zero, with defined borderline cases. -/
  | div (d a b : Reg) (ta tb : Bool)
  /-- `DIVU` (R116): Writes the unsigned quotient. -/
  | divu (d a b : Reg) (ta tb : Bool)
  /-- `REM` (R116): Writes the signed remainder of div. -/
  | rem (d a b : Reg) (ta tb : Bool)
  /-- `REMU` (R116): Writes the unsigned remainder of divu. -/
  | remu (d a b : Reg) (ta tb : Bool)
  /-- `PADD` (R118): Adds packed lanes modulo 2^w. -/
  | padd (d a b : Reg) (w : PWidth) (ta tb : Bool)
  /-- `PADD_SS` (R118): Adds packed lanes with signed saturation. -/
  | paddSs (d a b : Reg) (w : PWidth) (ta tb : Bool)
  /-- `PADD_US` (R118): Adds packed lanes with unsigned saturation. -/
  | paddUs (d a b : Reg) (w : PWidth) (ta tb : Bool)
  /-- `PSUB` (R118): Subtracts packed lanes modulo 2^w. -/
  | psub (d a b : Reg) (w : PWidth) (ta tb : Bool)
  /-- `PSUB_SS` (R118): Subtracts packed lanes with signed saturation. -/
  | psubSs (d a b : Reg) (w : PWidth) (ta tb : Bool)
  /-- `PSUB_US` (R118): Subtracts packed lanes with unsigned saturation. -/
  | psubUs (d a b : Reg) (w : PWidth) (ta tb : Bool)
  /-- `PMUL` (R118): Multiplies packed lanes modulo 2^w. -/
  | pmul (d a b : Reg) (w : PWidth) (ta tb : Bool)
  /-- `PMUL_SS` (R118): Multiplies packed lanes with signed saturation. -/
  | pmulSs (d a b : Reg) (w : PWidth) (ta tb : Bool)
  /-- `PMIN` (R118): Takes the signed minimum per lane. -/
  | pmin (d a b : Reg) (w : PWidth) (ta tb : Bool)
  /-- `PMIN_U` (R118): Takes the unsigned minimum per lane. -/
  | pminU (d a b : Reg) (w : PWidth) (ta tb : Bool)
  /-- `PMAX` (R118): Takes the signed maximum per lane. -/
  | pmax (d a b : Reg) (w : PWidth) (ta tb : Bool)
  /-- `PMAX_U` (R118): Takes the unsigned maximum per lane. -/
  | pmaxU (d a b : Reg) (w : PWidth) (ta tb : Bool)
  /-- `PSH_LL` (R118): Shifts every lane left by the low bits of b. -/
  | pshLl (d a b : Reg) (w : PWidth) (ta tb : Bool)
  /-- `PSH_RL` (R118): Shifts every lane right logically. -/
  | pshRl (d a b : Reg) (w : PWidth) (ta tb : Bool)
  /-- `PSH_RA` (R118): Shifts every lane right arithmetically. -/
  | pshRa (d a b : Reg) (w : PWidth) (ta tb : Bool)
  /-- `PCMP_EQ` (R118): Sets each lane to all ones where lanes are equal. -/
  | pcmpEq (d a b : Reg) (w : PWidth) (ta tb : Bool)
  /-- `PCMP_LT` (R118): Sets each lane to all ones where signed less. -/
  | pcmpLt (d a b : Reg) (w : PWidth) (ta tb : Bool)
  /-- `PCMP_LTU` (R118): Sets each lane to all ones where unsigned less. -/
  | pcmpLtu (d a b : Reg) (w : PWidth) (ta tb : Bool)
  /-- `PABSD` (R118): Writes the absolute difference per lane. -/
  | pabsd (d a b : Reg) (w : PWidth) (ta tb : Bool)
  /-- `PPACK` (R119): Narrows lanes of a and b to half width by truncation. -/
  | ppack (d a b : Reg) (w : PWidth) (ta tb : Bool)
  /-- `PPACK_SS` (R119): Narrows lanes with signed saturation. -/
  | ppackSs (d a b : Reg) (w : PWidth) (ta tb : Bool)
  /-- `PPACK_US` (R119): Narrows lanes with unsigned saturation. -/
  | ppackUs (d a b : Reg) (w : PWidth) (ta tb : Bool)
  /-- `CMUL` (R121): Writes the two-term CI16 complex dot product into the pair d, d+1. -/
  | cmul (d a b : Reg) (ta tb : Bool)
  /-- `CMAC` (R121): Accumulates the complex dot product into the pair d, d+1. -/
  | cmac (d a b : Reg) (ta tb : Bool)
  /-- `CMACJ` (R121): Accumulates the complex dot product with b conjugated. -/
  | cmacj (d a b : Reg) (ta tb : Bool)
  /-- `CABS2` (R122): Writes the squared magnitudes of the two CI16 elements. -/
  | cabs2 (d a : Reg) (ta tb : Bool)
  /-- `MULQ` (R122): Multiplies four Q15 lanes with rounding and saturation. -/
  | mulq (d a b : Reg) (ta tb : Bool)
  /-- `SAT` (R123): Saturates a signed value to n bits, sign-extended. -/
  | sat (d a : Reg) (n : BitVec 5) (ta tb : Bool)
  /-- `SATU` (R123): Saturates a signed value to n unsigned bits. -/
  | satu (d a : Reg) (n : BitVec 5) (ta tb : Bool)
  /-- `CLZ` (R124): Counts leading zero bits of a. -/
  | clz (d a : Reg) (ta tb : Bool)
  /-- `CTZ` (R124): Counts trailing zero bits of a. -/
  | ctz (d a : Reg) (ta tb : Bool)
  /-- `POPC` (R124): Counts one bits of a. -/
  | popc (d a : Reg) (ta tb : Bool)
  /-- `BSWAP` (R124): Reverses the byte order of a. -/
  | bswap (d a : Reg) (ta tb : Bool)
  /-- `BEXT` (R125): Extracts a sign-extended bit field of a described by b. -/
  | bext (d a b : Reg) (ta tb : Bool)
  /-- `BEXTU` (R125): Extracts a zero-extended bit field of a. -/
  | bextu (d a b : Reg) (ta tb : Bool)
  /-- `BINS` (R125): Inserts the low bits of a into a field of d. -/
  | bins (d a b : Reg) (ta tb : Bool)
  /-- `FADD` (R167): Adds two floating values, rounding once by STATUS.RM. -/
  | fadd (d a b : Reg) (f : FpFmt) (ta tb : Bool)
  /-- `FSUB` (R167): Subtracts two floating values, rounding once. -/
  | fsub (d a b : Reg) (f : FpFmt) (ta tb : Bool)
  /-- `FMUL` (R167): Multiplies two floating values, rounding once. -/
  | fmul (d a b : Reg) (f : FpFmt) (ta tb : Bool)
  /-- `FMA` (R167): Computes a × b + d with one rounding. -/
  | fma (d a b : Reg) (f : FpFmt) (ta tb : Bool)
  /-- `FDIV` (R167): Divides two floating values, rounding once. -/
  | fdiv (d a b : Reg) (f : FpFmt) (ta tb : Bool)
  /-- `FSQRT` (R167): Takes the square root, rounding once. -/
  | fsqrt (d a : Reg) (f : FpFmt) (ta tb : Bool)
  /-- `FMIN` (R168): Returns the lesser floating operand. -/
  | fmin (d a b : Reg) (f : FpFmt) (ta tb : Bool)
  /-- `FMAX` (R168): Returns the greater floating operand. -/
  | fmax (d a b : Reg) (f : FpFmt) (ta tb : Bool)
  /-- `FCMP_EQ` (R168): Writes 1 if the floating operands are equal. -/
  | fcmpEq (d a b : Reg) (f : FpFmt) (ta tb : Bool)
  /-- `FCMP_LT` (R168): Writes 1 if a is less than b. -/
  | fcmpLt (d a b : Reg) (f : FpFmt) (ta tb : Bool)
  /-- `FCMP_LE` (R168): Writes 1 if a is less than or equal to b. -/
  | fcmpLe (d a b : Reg) (f : FpFmt) (ta tb : Bool)
  /-- `FCLASS` (R168): Writes a one-hot class mask of the floating value. -/
  | fclass (d a : Reg) (f : FpFmt) (ta tb : Bool)
  /-- `RND` (R169): Rounds a floating value to an integral value in a given mode. -/
  | rnd (d a : Reg) (f : FpFmt) (rm : Rm) (ta tb : Bool)
  /-- `RSEED` (R170): Reseeds the stochastic-rounding generator and returns the old state. -/
  | rseed (d a : Reg) (ta tb : Bool)
  /-- `CVT` (R171): Converts one value between format codes with a selected rounding. -/
  | cvt (d a : Reg) (rnd : CvtRound) (dst src : Fmt) (ta tb : Bool)
  /-- `LD` (R218): Loads 1 to 8 bytes, locally or by migration, filling d later. -/
  | ld (d a : Reg) (imm : BitVec 9) (sz : MemSize) (sx : Bool) (ord : MemOrder) (ta : Bool)
  /-- `ST` (R218): Stores 1 to 8 bytes, locally or posted. -/
  | st (d a : Reg) (imm : BitVec 9) (sz : MemSize) (ord : MemOrder) (ta : Bool)
  /-- `LDM` (R221): Loads a burst of 1 to 8 words into consecutive registers. -/
  | ldm (a b : Reg) (off : BitVec 8) (n : BitVec 3) (q ta tb : Bool)
  /-- `STM` (R221): Stores a burst of 1 to 8 words from consecutive registers. -/
  | stm (a b : Reg) (off : BitVec 8) (n : BitVec 3) (q ta tb : Bool)
  /-- `LDFE` (R226): Waits for a full word, reads it and empties its tag. -/
  | ldfe (d a : Reg) (imm : BitVec 9) (ord : MemOrder) (ta : Bool)
  /-- `LDFF` (R226): Waits for a full word and reads it. -/
  | ldff (d a : Reg) (imm : BitVec 9) (ord : MemOrder) (ta : Bool)
  /-- `STFE` (R226): Waits for an empty word, writes it and sets it full. -/
  | stfe (d a : Reg) (imm : BitVec 9) (ord : MemOrder) (ta : Bool)
  /-- `STFF` (R226): Writes a word and sets its tag full. -/
  | stff (d a : Reg) (imm : BitVec 9) (ord : MemOrder) (ta : Bool)
  /-- `TAGR` (R226): Reads a word's full/empty tag. -/
  | tagr (d a : Reg) (imm : BitVec 9) (ord : MemOrder) (ta : Bool)
  /-- `TAGW` (R226): Writes a word's full/empty tag. -/
  | tagw (d a : Reg) (imm : BitVec 9) (ord : MemOrder) (ta : Bool)
  /-- `SETVAT` (R230): Writes the format register of a vat. -/
  | setvat (d a : Reg) (imm : BitVec 9) (ta : Bool)
  /-- `AMO_ADD` (R312): Atomically adds and returns the old value. -/
  | amoAdd (d a b : Reg) (dbl r o ta tb : Bool)
  /-- `AMO_AND` (R312): Atomically ANDs and returns the old value. -/
  | amoAnd (d a b : Reg) (dbl r o ta tb : Bool)
  /-- `AMO_OR` (R312): Atomically ORs and returns the old value. -/
  | amoOr (d a b : Reg) (dbl r o ta tb : Bool)
  /-- `AMO_XOR` (R312): Atomically XORs and returns the old value. -/
  | amoXor (d a b : Reg) (dbl r o ta tb : Bool)
  /-- `AMO_MIN` (R312): Atomic signed minimum returning the old value. -/
  | amoMin (d a b : Reg) (dbl r o ta tb : Bool)
  /-- `AMO_MAX` (R312): Atomic signed maximum returning the old value. -/
  | amoMax (d a b : Reg) (dbl r o ta tb : Bool)
  /-- `AMO_MINU` (R312): Atomic unsigned minimum returning the old value. -/
  | amoMinu (d a b : Reg) (dbl r o ta tb : Bool)
  /-- `AMO_MAXU` (R312): Atomic unsigned maximum returning the old value. -/
  | amoMaxu (d a b : Reg) (dbl r o ta tb : Bool)
  /-- `AMO_SWAP` (R312): Atomically swaps and returns the old value. -/
  | amoSwap (d a b : Reg) (dbl r o ta tb : Bool)
  /-- `AMO_FADD32` (R313): Atomically adds FP32 by RNE and returns the old value. -/
  | amoFadd32 (d a b : Reg) (r o ta tb : Bool)
  /-- `RED_ADD` (R314): Posted or local atomic add returning nothing. -/
  | redAdd (a b : Reg) (dbl r o ta tb : Bool)
  /-- `RED_AND` (R314): Reduction AND returning nothing. -/
  | redAnd (a b : Reg) (dbl r o ta tb : Bool)
  /-- `RED_OR` (R314): Reduction OR returning nothing. -/
  | redOr (a b : Reg) (dbl r o ta tb : Bool)
  /-- `RED_XOR` (R314): Reduction XOR returning nothing. -/
  | redXor (a b : Reg) (dbl r o ta tb : Bool)
  /-- `RED_MIN` (R314): Reduction signed minimum. -/
  | redMin (a b : Reg) (dbl r o ta tb : Bool)
  /-- `RED_MAX` (R314): Reduction signed maximum. -/
  | redMax (a b : Reg) (dbl r o ta tb : Bool)
  /-- `RED_MINU` (R314): Reduction unsigned minimum. -/
  | redMinu (a b : Reg) (dbl r o ta tb : Bool)
  /-- `RED_MAXU` (R314): Reduction unsigned maximum. -/
  | redMaxu (a b : Reg) (dbl r o ta tb : Bool)
  /-- `RED_SWAP` (R314): Reduction that writes the operand. -/
  | redSwap (a b : Reg) (dbl r o ta tb : Bool)
  /-- `RED_FADD32` (R314): Reduction FP32 add by RNE. -/
  | redFadd32 (a b : Reg) (r o ta tb : Bool)
  /-- `CAS` (R318): Compares a doubleword with d and writes b if equal, returning the old value. -/
  | cas (d a b : Reg) (r o ta tb : Bool)
  /-- `CAS2` (R319): Compares and swaps a 16-byte pair in one step. -/
  | cas2 (d a b : Reg) (r o ta tb : Bool)
  /-- `PARK` (R324): Waits while a word equals b, registering a watch at its home. -/
  | park (d a b : Reg) (ta tb : Bool)
  /-- `WAKE` (R329): Sets the wake bits of named slots of a core. -/
  | wake (a b : Reg) (ta tb : Bool)
  /-- `SLEEP` (R328): Waits for the placement slot's wake bit or a timeout. -/
  | sleep (d a : Reg) (ta tb : Bool)
  /-- `BAR` (R331): Arrives at a barrier as a release and returns the phase token. -/
  | bar (d : Reg) (n : Fin 4) (ta tb : Bool)
  /-- `BARW` (R332): Waits until the barrier phase of a token has passed. -/
  | barw (d b : Reg) (n : Fin 4) (ta tb : Bool)
  /-- `FENCE_PAN` (R335): Holds the thread until its earlier work is visible at Pan scope. -/
  | fencePan (ta tb : Bool)
  /-- `FENCE_TENANT` (R335): Holds the thread until its earlier work is visible at tenant scope. -/
  | fenceTenant (ta tb : Bool)
  /-- `FENCE_SYSTEM` (R335): Holds the thread until its earlier work is visible at system scope, or demotes. -/
  | fenceSystem (ta tb : Bool)
  /-- `FENCE_GLOBAL` (R346): System fence then numbered at the global ordering point. -/
  | fenceGlobal (ta tb : Bool)
  /-- `HOP` (R257): Moves the thread to the home of an address without accessing memory. -/
  | hop (a : Reg) (ta tb : Bool)
  /-- `LIVE` (R258): Exchanges the live-register mask. -/
  | live (d a : Reg) (ta tb : Bool)
  /-- `TLBINV_TRELLIS` (R259): Discards engine micro-cache translations of the origin trellis. -/
  | tlbinvTrellis (a b : Reg) (ta tb : Bool)
  /-- `TLBINV_PAN` (R259): Discards engine micro-cache translations of the origin Pan. -/
  | tlbinvPan (a b : Reg) (ta tb : Bool)
  /-- `TLBINV_PARTITION` (R259): Discards the partition's translations in engines and all hubs. -/
  | tlbinvPartition (a b : Reg) (ta tb : Bool)
  /-- `TLBINV_PACKAGE` (R259): Discards translations everywhere and waits for work translated under them. -/
  | tlbinvPackage (a b : Reg) (ta tb : Bool)
  /-- `BEQ` (R128): Branches if a equals b, joining labels to CLABEL. -/
  | beq (a b : Reg) (imm : BitVec 12)
  /-- `BNE` (R128): Branches if a differs from b. -/
  | bne (a b : Reg) (imm : BitVec 12)
  /-- `BLT` (R128): Branches if a is signed less than b. -/
  | blt (a b : Reg) (imm : BitVec 12)
  /-- `BGE` (R128): Branches if a is signed at least b. -/
  | bge (a b : Reg) (imm : BitVec 12)
  /-- `BLTU` (R128): Branches if a is unsigned less than b. -/
  | bltu (a b : Reg) (imm : BitVec 12)
  /-- `BGEU` (R128): Branches if a is unsigned at least b. -/
  | bgeu (a b : Reg) (imm : BitVec 12)
  /-- `JAL` (R129): Writes the link and jumps PC-relative. -/
  | jal (d : Reg) (imm : BitVec 20)
  /-- `JALR` (R129): Writes the link and jumps to a register plus offset. -/
  | jalr (d a : Reg) (imm : BitVec 14) (ta : Bool)
  /-- `NEST` (R133): Reads a nest descriptor and opens the iteration fetcher state. -/
  | nest (d a : Reg) (ta tb : Bool)
  /-- `NEXT` (R134): Delivers the next iteration, claiming a chunk at the bank when needed. -/
  | next (d : Reg) (ta tb : Bool)
  /-- `FORK` (R138): Counts a frame and pushes an arm on the own deque, or runs it inline. -/
  | fork (d a b : Reg) (ta tb : Bool)
  /-- `JOIN` (R139): Waits for a frame counter, running popped or stolen arms meanwhile. -/
  | join (d a b : Reg) (ta tb : Bool)
  /-- `JDONE` (R140): Ends an arm by decrementing the frame counter and jumping to the link. -/
  | jdone (a b : Reg) (ta tb : Bool)
  /-- `SPAWN` (R142): Adds a thread to the gang in a free slot. -/
  | spawn (d a b : Reg) (ta tb : Bool)
  /-- `QUIT` (R143): Ends the thread once its work drains and frees its slot. -/
  | quit (ta tb : Bool)
  /-- `BEAT` (R144): Sets HBCNT to 0. -/
  | beat (ta tb : Bool)
  /-- `IFENCE` (R144): Drains writes and invalidates the core's instruction cache and merger blocks. -/
  | ifence (ta tb : Bool)
  /-- `MFC` (R389): Reads a control register into d. -/
  | mfc (d : Reg) (c : BitVec 12)
  /-- `MTC` (R389): Writes the RW fields of a control register without its own row. -/
  | mtc (a : Reg) (c : BitVec 12)
  /-- `MTC_STATUS` (R81): Writes STATUS fields, trapping on a bad rounding mode and clearing FENCE_DEMOTED by W1C. -/
  | mtcStatus (a : Reg)
  /-- `MTC_LIVE` (R258): Writes LIVE and joins the source label to CLABEL. -/
  | mtcLive (a : Reg)
  /-- `MTC_SEED` (R162): Writes SEED, storing 1 for 0, and sets SEED's label. -/
  | mtcSeed (a : Reg)
  /-- `MTC_DEFTRAPVEC` (R80): Writes the partition's default trap vector at the launch unit, holding the thread. -/
  | mtcDeftrapvec (a : Reg)
  /-- `MTC_HTBASE` (R49): Writes the handler table base, trapping PROT on a bad value. -/
  | mtcHtbase (a : Reg)
  /-- `MTC_FQBASE` (R392): Writes the fault queue base, resetting WR and writing the header. -/
  | mtcFqbase (a : Reg)
  /-- `MTC_WMDATA` (R206): Writes a Pan window-map entry at its Pan after checks, waiting for a move and old translations. -/
  | mtcWmdata (a : Reg)
  /-- `TRAP` (R390): Takes BREAK with TRAPINFO n. -/
  | trap (n : BitVec 12)
  /-- `SYS` (R390): Takes SYSCALL with TRAPINFO n. -/
  | sys (n : BitVec 12)
  /-- `ERET` (R391): Returns from a handler to TRAPPC in the mode of TRAPCODE.PMODE. -/
  | eret
  /-- `VADD` (R193): Adds INT32 elements. -/
  | vadd (d a b : VReg) (k : MReg) (e z : Bool)
  /-- `VSUB` (R193): Subtracts INT32 elements. -/
  | vsub (d a b : VReg) (k : MReg) (e z : Bool)
  /-- `VMUL` (R193): Multiplies INT32 elements, low 32 bits. -/
  | vmul (d a b : VReg) (k : MReg) (e z : Bool)
  /-- `VMAC` (R193): Multiply-accumulates INT32 elements into vd. -/
  | vmac (d a b : VReg) (k : MReg) (e z : Bool)
  /-- `VMIN` (R193): Signed minimum per element. -/
  | vmin (d a b : VReg) (k : MReg) (e z : Bool)
  /-- `VMAX` (R193): Signed maximum per element. -/
  | vmax (d a b : VReg) (k : MReg) (e z : Bool)
  /-- `VAND` (R193): Bitwise AND per element. -/
  | vand (d a b : VReg) (k : MReg) (e z : Bool)
  /-- `VOR` (R193): Bitwise OR per element. -/
  | vor (d a b : VReg) (k : MReg) (e z : Bool)
  /-- `VXOR` (R193): Bitwise XOR per element. -/
  | vxor (d a b : VReg) (k : MReg) (e z : Bool)
  /-- `VSH_LL` (R193): Shifts elements left. -/
  | vshLl (d a b : VReg) (k : MReg) (e z : Bool)
  /-- `VSH_RL` (R193): Shifts elements right logically. -/
  | vshRl (d a b : VReg) (k : MReg) (e z : Bool)
  /-- `VSH_RA` (R193): Shifts elements right arithmetically. -/
  | vshRa (d a b : VReg) (k : MReg) (e z : Bool)
  /-- `VCMP_EQ` (R193): Sets mask bits where elements are equal. -/
  | vcmpEq (d : MReg) (a b : VReg) (k : MReg) (e z : Bool)
  /-- `VCMP_LT` (R193): Sets mask bits where elements are signed less. -/
  | vcmpLt (d : MReg) (a b : VReg) (k : MReg) (e z : Bool)
  /-- `VCMP_LTU` (R193): Sets mask bits where elements are unsigned less. -/
  | vcmpLtu (d : MReg) (a b : VReg) (k : MReg) (e z : Bool)
  /-- `VSEL` (R193): Selects elements of va or vb by a mask register. -/
  | vsel (d a b : VReg) (k : MReg)
  /-- `VCMUL` (R194): Multiplies CI16 elements in Q15 with rounding and saturation. -/
  | vcmul (d a b : VReg) (k : MReg) (e z : Bool)
  /-- `VCMAC` (R194): Multiply-accumulates CI16 elements in Q15. -/
  | vcmac (d a b : VReg) (k : MReg) (e z : Bool)
  /-- `VRED_ADD` (R195): Sums active elements into element 0. -/
  | vredAdd (d a : VReg) (k : MReg) (e : Bool)
  /-- `VRED_MIN` (R195): Signed minimum of active elements into element 0. -/
  | vredMin (d a : VReg) (k : MReg) (e : Bool)
  /-- `VRED_MAX` (R195): Signed maximum of active elements into element 0. -/
  | vredMax (d a : VReg) (k : MReg) (e : Bool)
  /-- `VRED_FADD` (R195): Sums FP32 elements over a fixed pairwise tree. -/
  | vredFadd (d a : VReg) (k : MReg) (e : Bool)
  /-- `VPERM` (R196): Permutes elements of va by indices in vb. -/
  | vperm (d a b : VReg) (k : MReg) (e z : Bool)
  /-- `VMV` (R196): Copies active elements of va to vd. -/
  | vmv (d a : VReg) (k : MReg) (e z : Bool)
  /-- `VMV_BC` (R196): Broadcasts a general register's low word to active elements. -/
  | vmvBc (d : VReg) (a : LowReg) (k : MReg) (e z : Bool)
  /-- `VMV_X` (R196): Writes element 0 of va sign-extended to a general register. -/
  | vmvX (d : LowReg) (a : VReg)
  /-- `VFADD` (R197): Adds floating elements with one rounding. -/
  | vfadd (d a b : VReg) (k : MReg) (e z : Bool) (f : FpFmt)
  /-- `VFMUL` (R197): Multiplies floating elements with one rounding. -/
  | vfmul (d a b : VReg) (k : MReg) (e z : Bool) (f : FpFmt)
  /-- `VFMA` (R197): Fused multiply-add of floating elements. -/
  | vfma (d a b : VReg) (k : MReg) (e z : Bool) (f : FpFmt)
  /-- `VFMIN` (R197): Floating minimum per element. -/
  | vfmin (d a b : VReg) (k : MReg) (e z : Bool) (f : FpFmt)
  /-- `VFMAX` (R197): Floating maximum per element. -/
  | vfmax (d a b : VReg) (k : MReg) (e z : Bool) (f : FpFmt)
  /-- `VCVT` (R198): Converts active elements between a listed pair of formats. -/
  | vcvt (d a : VReg) (c : Fin 12) (k : MReg) (e z : Bool)
  /-- `VLD` (R188): Loads a unit-stride vector, decoding its vat format. -/
  | vld (d : VReg) (a : Reg) (k : MReg) (e z ta tb : Bool)
  /-- `VST` (R190): Stores a unit-stride vector, encoding its vat format. -/
  | vst (d : VReg) (a : Reg) (k : MReg) (e ta tb : Bool)
  /-- `VLDS` (R188): Loads a strided vector. -/
  | vlds (d : VReg) (a b : Reg) (k : MReg) (e z ta tb : Bool)
  /-- `VLDX` (R188): Gathers elements by an index vector. -/
  | vldx (d : VReg) (a : Reg) (b : VReg) (k : MReg) (e z ta tb : Bool)
  /-- `VSTX` (R190): Scatters elements by an index vector. -/
  | vstx (d : VReg) (a : Reg) (b : VReg) (k : MReg) (e ta tb : Bool)
  /-- `VCLAIM` (R178): Claims vector lanes of the origin trellis pool. -/
  | vclaim (d a b : Reg) (ta tb : Bool)
  /-- `VREL` (R180): Drains vector work and releases the claim. -/
  | vrel (ta tb : Bool)
  /-- `VSYNC` (R179): Drains vector work and optionally resizes the claim. -/
  | vsync (d a b : Reg) (ta tb : Bool)
  /-- `MAND` (R201): ANDs two mask registers. -/
  | mand (d a b : MReg) (ta tb : Bool)
  /-- `MOR` (R201): ORs two mask registers. -/
  | mor (d a b : MReg) (ta tb : Bool)
  /-- `MNOT` (R201): Complements a mask register. -/
  | mnot (d a : MReg) (ta tb : Bool)
  /-- `VSFU_EXP2` (R199): Computes 2^x per FP32 element. -/
  | vsfuExp2 (d a : VReg) (k : MReg) (e z : Bool)
  /-- `VSFU_LOG2` (R199): Computes log2 per element. -/
  | vsfuLog2 (d a : VReg) (k : MReg) (e z : Bool)
  /-- `VSFU_RCP` (R199): Computes the reciprocal per element. -/
  | vsfuRcp (d a : VReg) (k : MReg) (e z : Bool)
  /-- `VSFU_RSQRT` (R199): Computes the reciprocal square root per element. -/
  | vsfuRsqrt (d a : VReg) (k : MReg) (e z : Bool)
  /-- `VSFU_SIN` (R199): Computes the sine per element. -/
  | vsfuSin (d a : VReg) (k : MReg) (e z : Bool)
  /-- `VSFU_COS` (R199): Computes the cosine per element. -/
  | vsfuCos (d a : VReg) (k : MReg) (e z : Bool)
  /-- `VSFU_TANH` (R199): Computes tanh per element. -/
  | vsfuTanh (d a : VReg) (k : MReg) (e z : Bool)
  /-- `VSFU_SIGMOID` (R199): Computes the sigmoid per element. -/
  | vsfuSigmoid (d a : VReg) (k : MReg) (e z : Bool)
  /-- `VBFLY_R2` (R200): Performs radix-2 CI16 butterflies with optional scaling. -/
  | vbflyR2 (d a b : VReg) (scl : Bool)
  /-- `VBFLY_R4` (R200): Performs radix-4 CI16 butterflies with optional scaling. -/
  | vbflyR4 (d a b : VReg) (scl : Bool)
  /-- `RACK` (R279): Submits a copy command block to the origin trellis's racking engine. -/
  | rack (d a : Reg)
  /-- `RACKV` (R280): Submits a raw byte copy with length and queue in d+1. -/
  | rackv (d a b : Reg)
  /-- `RFENCE_ENGINE` (R270): Discards the partition's cached shape records in the origin engine. -/
  | rfenceEngine
  /-- `RFENCE_PARTITION` (R270): Discards the partition's cached shape records in every engine of its Pans. -/
  | rfencePartition
  /-- `QFENCE` (R275): Orders later commands of named queues after earlier ones. -/
  | qfence (d a : Reg)
  /-- `QWAIT` (R266): Fills d when the ticket's command retires, abandoning a halted copy. -/
  | qwait (d a : Reg)
  /-- `RSTAT` (R266): Returns a ticket's current status. -/
  | rstat (d a : Reg)
  /-- `COLL_ALLREDUCE` (R283): Submits an all-reduce collective into QC. -/
  | collAllreduce (d a : Reg)
  /-- `COLL_ALLGATHER` (R283): Submits an all-gather collective into QC. -/
  | collAllgather (d a : Reg)
  /-- `COLL_REDUCESCATTER` (R283): Submits a reduce-scatter collective into QC. -/
  | collReducescatter (d a : Reg)
  /-- `PMM` (R305): Submits a Press command block, or resumes a halted one. -/
  | pmm (d a : Reg)
  /-- `PZERO` (R306): Submits a Press command that zeroes C. -/
  | pzero (d a : Reg)
  /-- `PWAIT` (R307): Fills d when the Press command ends, abandoning a halted one. -/
  | pwait (d a : Reg)
  /-- `PPROG` (R307): Returns a Press ticket's current status. -/
  | pprog (d a : Reg)
  /-- `TDIR_PUT` (R357): Files a tile under a key in its trellis directory. -/
  | tdirPut (d a : Reg)
  /-- `TDIR_DEL` (R357): Removes a tile's directory entry. -/
  | tdirDel (d a : Reg)
  /-- `TMOVE` (R358): Moves a directory entry and its tile to another trellis. -/
  | tmove (d a b : Reg)
  /-- `SOLICIT_SUM` (R359): Starts a census combining answers by sum. -/
  | solicitSum (d a b : Reg)
  /-- `SOLICIT_MIN` (R359): Starts a census combining answers by signed minimum. -/
  | solicitMin (d a b : Reg)
  /-- `SOLICIT_MAX` (R359): Starts a census combining answers by signed maximum. -/
  | solicitMax (d a b : Reg)
  /-- `SOLICIT_OR` (R359): Starts a census combining answers by OR. -/
  | solicitOr (d a b : Reg)
  /-- `SOLICIT_COUNT` (R359): Starts a census that counts answers. -/
  | solicitCount (d a b : Reg)
  /-- `ANSWER` (R362): Sends a responder's contribution to its census. -/
  | answer (a : Reg)
  /-- `CWAIT` (R365): Waits for every census result of the thread. -/
  | cwait (d : Reg)
  /-- `LBL` (R382): Reads the label of a general register. -/
  | lbl (d a : Reg) (ta tb : Bool)
  /-- `LBL_V` (R382): Reads the label of a vector register. -/
  | lblV (d : Reg) (a : VReg) (ta tb : Bool)
  /-- `LBL_M` (R382): Reads the label of a mask register. -/
  | lblM (d : Reg) (a : MReg) (ta tb : Bool)
  /-- `LBL_S` (R382): Reads the label of SEED. -/
  | lblS (d : Reg) (ta tb : Bool)
  /-- `SLUICE` (R383): Exports data through the Sluice or queues a security request. -/
  | sluice (d a : Reg) (ta tb : Bool)
  /-- `LAUNCH` (R146): Submits a launch record to the partition's launch unit. -/
  | launch (d a : Reg)
  /-- `INVOKE` (R147): Sends an invocation with g1–g6 to a handler of a chip. -/
  | invoke (d a b : Reg) (prio : Fin 4)
  /-- `C_ADD` (R126): Compact add d := d + s. -/
  | cAdd (d r : Reg)
  /-- `C_SUB` (R126): Compact subtract. -/
  | cSub (d r : Reg)
  /-- `C_AND` (R126): Compact AND. -/
  | cAnd (d r : Reg)
  /-- `C_OR` (R126): Compact OR. -/
  | cOr (d r : Reg)
  /-- `C_XOR` (R126): Compact XOR. -/
  | cXor (d r : Reg)
  /-- `C_SLL` (R126): Compact shift left. -/
  | cSll (d r : Reg)
  /-- `C_SRL` (R126): Compact logical shift right. -/
  | cSrl (d r : Reg)
  /-- `C_SRA` (R126): Compact arithmetic shift right. -/
  | cSra (d r : Reg)
  /-- `C_MUL` (R126): Compact multiply. -/
  | cMul (d r : Reg)
  /-- `C_MIN` (R126): Compact signed minimum. -/
  | cMin (d r : Reg)
  /-- `C_MAX` (R126): Compact signed maximum. -/
  | cMax (d r : Reg)
  /-- `MV` (R126): Compact move d := s. -/
  | mv (d r : Reg)
  /-- `C_ADDI` (R126): Compact add of a 5-bit signed immediate. -/
  | cAddi (d : Reg) (imm : BitVec 5)
  /-- `C_CMAC` (R126): Compact complex accumulate of s and s+1 into d, d+1. -/
  | cCmac (d r : Reg)
  /-- `C_FADD` (R126): Compact FP32 add. -/
  | cFadd (d r : Reg)
  /-- `C_FMUL` (R126): Compact FP32 multiply. -/
  | cFmul (d r : Reg)
  /-- `CV_ADD` (R202): Compact vadd vd, vd, vs. -/
  | cvAdd (d r : VReg)
  /-- `CV_SUB` (R202): Compact vsub. -/
  | cvSub (d r : VReg)
  /-- `CV_AND` (R202): Compact vand. -/
  | cvAnd (d r : VReg)
  /-- `CV_OR` (R202): Compact vor. -/
  | cvOr (d r : VReg)
  /-- `CV_XOR` (R202): Compact vxor. -/
  | cvXor (d r : VReg)
  /-- `CV_SLL` (R202): Compact vsh.ll. -/
  | cvSll (d r : VReg)
  /-- `CV_SRL` (R202): Compact vsh.rl. -/
  | cvSrl (d r : VReg)
  /-- `CV_SRA` (R202): Compact vsh.ra. -/
  | cvSra (d r : VReg)
  /-- `CV_MUL` (R202): Compact vmul. -/
  | cvMul (d r : VReg)
  /-- `CV_MIN` (R202): Compact vmin. -/
  | cvMin (d r : VReg)
  /-- `CV_MAX` (R202): Compact vmax. -/
  | cvMax (d r : VReg)
  /-- `CV_MV` (R202): Compact vmv. -/
  | cvMv (d r : VReg)
  /-- `CV_ADDI` (R202): Adds a 5-bit immediate to every vector element. -/
  | cvAddi (d : VReg) (imm : BitVec 5)
  /-- `CV_CMAC` (R202): Compact vcmac vd, vd, vs, v(s+1). -/
  | cvCmac (d r : VReg)
  /-- `CV_FADD` (R202): Compact vfadd on FP32. -/
  | cvFadd (d r : VReg)
  /-- `CV_FMUL` (R202): Compact vfmul on FP32. -/
  | cvFmul (d r : VReg)
  deriving DecidableEq, Repr

end Sys2Proof
end

