-- ==== Sys2Proof/WellFormed.lean ====
section
/-! DEFINITION. The limits an encoding must keep beyond the values of its fields (R92 to R99), each by a name
of its own. A word that breaks one traps with ILLEGAL (R99). -/

namespace Sys2Proof

/-- Why an instruction has no legal encoding. -/
inductive IllFormed where
  | oddPair          -- a register pair that is odd, or out of its range (R94, R95, R126)
  | wideSignExtend   -- `ld` of a double with sign-extend (R95)
  | readRelease      -- a reading form with release ordering (R95, R225)
  | writeAcquire     -- a writing form with acquire ordering (R95, R225)
  | registerRun      -- a run of registers past the last (R95, R202)
  | joinLink         -- `join` with d = 0 or d = 31 (R137)
  | pairRange        -- `rackv` or `solicit` with d = 0 or d = 31 (R263, R356)
  | formatPair       -- a pair of formats absent from the table of R171
  | packByte         -- `ppack` of byte lanes (R94)
  | unusedMask       -- a mask or zero field without mask-enable (R185)
  | zeroHalfword     -- the halfword 0x0000 (R92)
  | ownRow           -- an `mtc` whose register has a row, and so a constructor, of its own
  deriving DecidableEq, Repr

/-- A pair d, d + 1 with d even and from 2 to 30 (R94). -/
def pairOk (d : Reg) : Bool := d.val % 2 = 0 && 2 ≤ d.val

/-- Mask-enable, or a mask and zero field of 0 (R185). -/
def maskOk (k : MReg) (e z : Bool) : Option IllFormed :=
  if e ∨ (k = 0 ∧ z = false) then none else some .unusedMask

/-- The integer formats of the table of R171. -/
def Fmt.cvtInt : Fmt → Bool
  | .int8 | .uint8 | .int16 | .uint16 | .int32 | .int4 | .uint4 | .int2 | .acc32i | .acc64i => true
  | .bps8 | .bpu8 | .bps16 | .bpu16 | .fp32 | .fp16 | .bf16 | .fp8a | .fp8b | .fp6a | .fp6b | .fp4 | .ci16 | .ci8
  | .cf16 | .bsint8 | .bsfp8a | .bsfp6a | .bsfp4 | .bsint4 | .acc32f | .e8 => false

/-- The floating formats of the table of R171. -/
def Fmt.cvtFloat : Fmt → Bool
  | .fp32 | .fp16 | .bf16 | .fp8a | .fp8b | .fp6a | .fp6b | .fp4 | .acc32f => true
  | .int8 | .uint8 | .int16 | .uint16 | .int32 | .int4 | .uint4 | .int2 | .acc32i | .acc64i
  | .bps8 | .bpu8 | .bps16 | .bpu16 | .ci16 | .ci8 | .cf16 | .bsint8 | .bsfp8a | .bsfp6a | .bsfp4 | .bsint4
  | .e8 => false

/-- The complex formats of the table of R171. -/
def Fmt.cvtComplex : Fmt → Bool
  | .ci16 | .ci8 | .cf16 => true
  | .int8 | .uint8 | .int16 | .uint16 | .int32 | .int4 | .uint4 | .int2 | .acc32i | .acc64i
  | .bps8 | .bpu8 | .bps16 | .bpu16 | .fp32 | .fp16 | .bf16 | .fp8a | .fp8b | .fp6a | .fp6b | .fp4
  | .bsint8 | .bsfp8a | .bsfp6a | .bsfp4 | .bsint4 | .acc32f | .e8 => false

/-- The pairs of formats that `cvt` converts (R171). -/
def cvtPair (src dst : Fmt) : Bool :=
  ((src.cvtInt || src.cvtFloat) && (dst.cvtInt || dst.cvtFloat))
    || (src.cvtComplex && dst.cvtComplex)
    || (src = .e8 && dst = .fp32) || (src = .fp32 && dst = .e8)

/-- The control registers whose `mtc` is a row of its own. -/
def ownMtc (c : CregNum) : Bool :=
  c = 0x000 || c = 0x002 || c = 0x003 || c = 0x050 || c = 0x051 || c = 0x053 || c = 0x061

/-- Why an instruction has no encoding; nothing where it has one. -/
def Instr.illFormed (i : Instr) : Option IllFormed :=
  match i with
  | .add _ _ _ _ _ => none
  | .sub _ _ _ _ _ => none
  | .and _ _ _ _ _ => none
  | .or _ _ _ _ _ => none
  | .xor _ _ _ _ _ => none
  | .sll _ _ _ _ _ => none
  | .srl _ _ _ _ _ => none
  | .sra _ _ _ _ _ => none
  | .rot _ _ _ _ _ => none
  | .min _ _ _ _ _ => none
  | .max _ _ _ _ _ => none
  | .minu _ _ _ _ _ => none
  | .maxu _ _ _ _ _ => none
  | .slt _ _ _ _ _ => none
  | .sltu _ _ _ _ _ => none
  | .seq _ _ _ _ _ => none
  | .sel _ _ _ _ _ => none
  | .extSB _ _ _ _ => none
  | .extSH _ _ _ _ => none
  | .extSW _ _ _ _ => none
  | .extZB _ _ _ _ => none
  | .extZH _ _ _ _ => none
  | .extZW _ _ _ _ => none
  | .addi _ _ _ _ => none
  | .andi _ _ _ _ => none
  | .ori _ _ _ _ => none
  | .xori _ _ _ _ => none
  | .slti _ _ _ _ => none
  | .sltiu _ _ _ _ => none
  | .slli _ _ _ _ => none
  | .srli _ _ _ _ => none
  | .srai _ _ _ _ => none
  | .roti _ _ _ _ => none
  | .lui _ _ => none
  | .addpc _ _ => none
  | .mul _ _ _ _ _ => none
  | .mulh _ _ _ _ _ => none
  | .mulhu _ _ _ _ _ => none
  | .div _ _ _ _ _ => none
  | .divu _ _ _ _ _ => none
  | .rem _ _ _ _ _ => none
  | .remu _ _ _ _ _ => none
  | .padd _ _ _ _ _ _ => none
  | .paddSs _ _ _ _ _ _ => none
  | .paddUs _ _ _ _ _ _ => none
  | .psub _ _ _ _ _ _ => none
  | .psubSs _ _ _ _ _ _ => none
  | .psubUs _ _ _ _ _ _ => none
  | .pmul _ _ _ _ _ _ => none
  | .pmulSs _ _ _ _ _ _ => none
  | .pmin _ _ _ _ _ _ => none
  | .pminU _ _ _ _ _ _ => none
  | .pmax _ _ _ _ _ _ => none
  | .pmaxU _ _ _ _ _ _ => none
  | .pshLl _ _ _ _ _ _ => none
  | .pshRl _ _ _ _ _ _ => none
  | .pshRa _ _ _ _ _ _ => none
  | .pcmpEq _ _ _ _ _ _ => none
  | .pcmpLt _ _ _ _ _ _ => none
  | .pcmpLtu _ _ _ _ _ _ => none
  | .pabsd _ _ _ _ _ _ => none
  | .ppack _ _ _ w _ _ => if w = .b8 then some .packByte else none
  | .ppackSs _ _ _ w _ _ => if w = .b8 then some .packByte else none
  | .ppackUs _ _ _ w _ _ => if w = .b8 then some .packByte else none
  | .cmul d _ _ _ _ => if pairOk d then none else some .oddPair
  | .cmac d _ _ _ _ => if pairOk d then none else some .oddPair
  | .cmacj d _ _ _ _ => if pairOk d then none else some .oddPair
  | .cabs2 _ _ _ _ => none
  | .mulq _ _ _ _ _ => none
  | .sat _ _ _ _ _ => none
  | .satu _ _ _ _ _ => none
  | .clz _ _ _ _ => none
  | .ctz _ _ _ _ => none
  | .popc _ _ _ _ => none
  | .bswap _ _ _ _ => none
  | .bext _ _ _ _ _ => none
  | .bextu _ _ _ _ _ => none
  | .bins _ _ _ _ _ => none
  | .fadd _ _ _ _ _ _ => none
  | .fsub _ _ _ _ _ _ => none
  | .fmul _ _ _ _ _ _ => none
  | .fma _ _ _ _ _ _ => none
  | .fdiv _ _ _ _ _ _ => none
  | .fsqrt _ _ _ _ _ => none
  | .fmin _ _ _ _ _ _ => none
  | .fmax _ _ _ _ _ _ => none
  | .fcmpEq _ _ _ _ _ _ => none
  | .fcmpLt _ _ _ _ _ _ => none
  | .fcmpLe _ _ _ _ _ _ => none
  | .fclass _ _ _ _ _ => none
  | .rnd _ _ _ _ _ _ => none
  | .rseed _ _ _ _ => none
  | .cvt _ _ _ dst src _ _ => if cvtPair src dst then none else some .formatPair
  | .ld _ _ _ sz sx ord _ => if sz = .double ∧ sx then some .wideSignExtend else if ord = .release then some .readRelease else none
  | .st _ _ _ _ ord _ => if ord = .acquire then some .writeAcquire else none
  | .ldm _ b _ n _ _ _ => if b.val + n.toNat ≤ 31 then none else some .registerRun
  | .stm _ b _ n _ _ _ => if b.val + n.toNat ≤ 31 then none else some .registerRun
  | .ldfe _ _ _ ord _ => if ord = .release then some .readRelease else none
  | .ldff _ _ _ ord _ => if ord = .release then some .readRelease else none
  | .stfe _ _ _ ord _ => if ord = .acquire then some .writeAcquire else none
  | .stff _ _ _ ord _ => if ord = .acquire then some .writeAcquire else none
  | .tagr _ _ _ ord _ => if ord = .release then some .readRelease else none
  | .tagw _ _ _ ord _ => if ord = .acquire then some .writeAcquire else none
  | .setvat _ _ _ _ => none
  | .amoAdd _ _ _ _ _ _ _ _ => none
  | .amoAnd _ _ _ _ _ _ _ _ => none
  | .amoOr _ _ _ _ _ _ _ _ => none
  | .amoXor _ _ _ _ _ _ _ _ => none
  | .amoMin _ _ _ _ _ _ _ _ => none
  | .amoMax _ _ _ _ _ _ _ _ => none
  | .amoMinu _ _ _ _ _ _ _ _ => none
  | .amoMaxu _ _ _ _ _ _ _ _ => none
  | .amoSwap _ _ _ _ _ _ _ _ => none
  | .amoFadd32 _ _ _ _ _ _ _ => none
  | .redAdd _ _ _ _ _ _ _ => none
  | .redAnd _ _ _ _ _ _ _ => none
  | .redOr _ _ _ _ _ _ _ => none
  | .redXor _ _ _ _ _ _ _ => none
  | .redMin _ _ _ _ _ _ _ => none
  | .redMax _ _ _ _ _ _ _ => none
  | .redMinu _ _ _ _ _ _ _ => none
  | .redMaxu _ _ _ _ _ _ _ => none
  | .redSwap _ _ _ _ _ _ _ => none
  | .redFadd32 _ _ _ _ _ _ => none
  | .cas _ _ _ _ _ _ _ => none
  | .cas2 d _ b _ _ _ _ => if pairOk d ∧ pairOk b then none else some .oddPair
  | .park _ _ _ _ _ => none
  | .wake _ _ _ _ => none
  | .sleep _ _ _ _ => none
  | .bar _ _ _ _ => none
  | .barw _ _ _ _ _ => none
  | .fencePan _ _ => none
  | .fenceTenant _ _ => none
  | .fenceSystem _ _ => none
  | .fenceGlobal _ _ => none
  | .hop _ _ _ => none
  | .live _ _ _ _ => none
  | .tlbinvTrellis _ _ _ _ => none
  | .tlbinvPan _ _ _ _ => none
  | .tlbinvPartition _ _ _ _ => none
  | .tlbinvPackage _ _ _ _ => none
  | .beq _ _ _ => none
  | .bne _ _ _ => none
  | .blt _ _ _ => none
  | .bge _ _ _ => none
  | .bltu _ _ _ => none
  | .bgeu _ _ _ => none
  | .jal _ _ => none
  | .jalr _ _ _ _ => none
  | .nest _ _ _ _ => none
  | .next _ _ _ => none
  | .fork _ _ _ _ _ => none
  | .join d _ _ _ _ => if d = 0 ∨ d = 31 then some .joinLink else none
  | .jdone _ _ _ _ => none
  | .spawn _ _ _ _ _ => none
  | .quit _ _ => none
  | .beat _ _ => none
  | .ifence _ _ => none
  | .mfc _ _ => none
  | .mtc _ c => if ownMtc c then some .ownRow else none
  | .mtcStatus _ => none
  | .mtcLive _ => none
  | .mtcSeed _ => none
  | .mtcDeftrapvec _ => none
  | .mtcHtbase _ => none
  | .mtcFqbase _ => none
  | .mtcWmdata _ => none
  | .trap _ => none
  | .sys _ => none
  | .eret => none
  | .vadd _ _ _ k e z => maskOk k e z
  | .vsub _ _ _ k e z => maskOk k e z
  | .vmul _ _ _ k e z => maskOk k e z
  | .vmac _ _ _ k e z => maskOk k e z
  | .vmin _ _ _ k e z => maskOk k e z
  | .vmax _ _ _ k e z => maskOk k e z
  | .vand _ _ _ k e z => maskOk k e z
  | .vor _ _ _ k e z => maskOk k e z
  | .vxor _ _ _ k e z => maskOk k e z
  | .vshLl _ _ _ k e z => maskOk k e z
  | .vshRl _ _ _ k e z => maskOk k e z
  | .vshRa _ _ _ k e z => maskOk k e z
  | .vcmpEq _ _ _ k e z => maskOk k e z
  | .vcmpLt _ _ _ k e z => maskOk k e z
  | .vcmpLtu _ _ _ k e z => maskOk k e z
  | .vsel _ _ _ _ => none
  | .vcmul _ _ _ k e z => maskOk k e z
  | .vcmac _ _ _ k e z => maskOk k e z
  | .vredAdd _ _ k e => maskOk k e false
  | .vredMin _ _ k e => maskOk k e false
  | .vredMax _ _ k e => maskOk k e false
  | .vredFadd _ _ k e => maskOk k e false
  | .vperm _ _ _ k e z => maskOk k e z
  | .vmv _ _ k e z => maskOk k e z
  | .vmvBc _ _ k e z => maskOk k e z
  | .vmvX _ _ => none
  | .vfadd _ _ _ k e z _ => maskOk k e z
  | .vfmul _ _ _ k e z _ => maskOk k e z
  | .vfma _ _ _ k e z _ => maskOk k e z
  | .vfmin _ _ _ k e z _ => maskOk k e z
  | .vfmax _ _ _ k e z _ => maskOk k e z
  | .vcvt _ _ _ k e z => maskOk k e z
  | .vld _ _ k e z _ _ => maskOk k e z
  | .vst _ _ k e _ _ => maskOk k e false
  | .vlds _ _ _ k e z _ _ => maskOk k e z
  | .vldx _ _ _ k e z _ _ => maskOk k e z
  | .vstx _ _ _ k e _ _ => maskOk k e false
  | .vclaim _ _ _ _ _ => none
  | .vrel _ _ => none
  | .vsync _ _ _ _ _ => none
  | .mand _ _ _ _ _ => none
  | .mor _ _ _ _ _ => none
  | .mnot _ _ _ _ => none
  | .vsfuExp2 _ _ k e z => maskOk k e z
  | .vsfuLog2 _ _ k e z => maskOk k e z
  | .vsfuRcp _ _ k e z => maskOk k e z
  | .vsfuRsqrt _ _ k e z => maskOk k e z
  | .vsfuSin _ _ k e z => maskOk k e z
  | .vsfuCos _ _ k e z => maskOk k e z
  | .vsfuTanh _ _ k e z => maskOk k e z
  | .vsfuSigmoid _ _ k e z => maskOk k e z
  | .vbflyR2 _ _ _ _ => none
  | .vbflyR4 _ _ _ _ => none
  | .rack _ _ => none
  | .rackv d _ _ => if d = 0 ∨ d = 31 then some .pairRange else none
  | .rfenceEngine => none
  | .rfencePartition => none
  | .qfence _ _ => none
  | .qwait _ _ => none
  | .rstat _ _ => none
  | .collAllreduce _ _ => none
  | .collAllgather _ _ => none
  | .collReducescatter _ _ => none
  | .pmm _ _ => none
  | .pzero _ _ => none
  | .pwait _ _ => none
  | .pprog _ _ => none
  | .tdirPut _ _ => none
  | .tdirDel _ _ => none
  | .tmove _ _ _ => none
  | .solicitSum d _ _ => if d = 0 ∨ d = 31 then some .pairRange else none
  | .solicitMin d _ _ => if d = 0 ∨ d = 31 then some .pairRange else none
  | .solicitMax d _ _ => if d = 0 ∨ d = 31 then some .pairRange else none
  | .solicitOr d _ _ => if d = 0 ∨ d = 31 then some .pairRange else none
  | .solicitCount d _ _ => if d = 0 ∨ d = 31 then some .pairRange else none
  | .answer _ => none
  | .cwait _ => none
  | .lbl _ _ _ _ => none
  | .lblV _ _ _ _ => none
  | .lblM _ _ _ _ => none
  | .lblS _ _ _ => none
  | .sluice _ _ _ _ => none
  | .launch _ _ => none
  | .invoke _ _ _ _ => none
  | .cAdd d r => if d = 0 ∧ r = 0 then some .zeroHalfword else none
  | .cSub _ _ => none
  | .cAnd _ _ => none
  | .cOr _ _ => none
  | .cXor _ _ => none
  | .cSll _ _ => none
  | .cSrl _ _ => none
  | .cSra _ _ => none
  | .cMul _ _ => none
  | .cMin _ _ => none
  | .cMax _ _ => none
  | .mv _ _ => none
  | .cAddi _ _ => none
  | .cCmac d r => if pairOk d ∧ r.val ≤ 30 then none else some .oddPair
  | .cFadd _ _ => none
  | .cFmul _ _ => none
  | .cvAdd _ _ => none
  | .cvSub _ _ => none
  | .cvAnd _ _ => none
  | .cvOr _ _ => none
  | .cvXor _ _ => none
  | .cvSll _ _ => none
  | .cvSrl _ _ => none
  | .cvSra _ _ => none
  | .cvMul _ _ => none
  | .cvMin _ _ => none
  | .cvMax _ _ => none
  | .cvMv _ _ => none
  | .cvAddi _ _ => none
  | .cvCmac _ r => if r.val ≤ 14 then none else some .registerRun
  | .cvFadd _ _ => none
  | .cvFmul _ _ => none
  | .asyncTrapDelivery => none
  | .fetchLineInstall _ => none
  | .bankArbitration _ _ => none
  | .resultFill _ => none
  | .migrationArrival _ => none
  | .arrivalBufferPlace _ _ => none
  | .migrationResend _ => none
  | .migrationPlacedNotice _ _ => none
  | .migrationFallback _ => none
  | .proxiedAccess _ => none
  | .postedWriteArrival _ => none
  | .postedWriteAck _ => none
  | .postedWakeArrival _ => none
  | .translationRequest _ => none
  | .translationWalkDone _ => none
  | .l2FillBurst _ => none
  | .hbmFillReturn _ => none
  | .crossDieWriteApply _ _ => none
  | .clockBeat => none
  | .dclockReport _ _ => none
  | .vclockZeroing => none
  | .globalFenceOrdering _ => none
  | .barrierRequest _ _ => none
  | .parkTimeout _ _ => none
  | .sleepTimeout _ _ => none
  | .launchWindowSubmit _ _ _ => none
  | .invocationArrival _ => none
  | .launchPlacementPass _ => none
  | .waitonPoll _ => none
  | .priorityAging => none
  | .completionWrite _ _ => none
  | .msixRaise _ _ => none
  | .handlerErrorCompletion _ _ => none
  | .fold _ _ _ => none
  | .ownership _ _ => none
  | .slotHandover _ _ => none
  | .slotScrubDone _ _ => none
  | .pageMove _ _ _ => none
  | .pageMoveRetire _ _ _ => none
  | .cellarClear _ _ => none
  | .resized _ => none
  | .root _ _ => none
  | .frames _ _ => none
  | .release _ _ => none
  | .retire _ _ => none
  | .rackSegment _ _ => none
  | .rackRetire _ _ => none
  | .followOnEnqueue _ _ => none
  | .rackWatchdog _ _ => none
  | .collContribution _ => none
  | .collTimeout _ _ => none
  | .linkFailure _ => none
  | .pressOpStart _ => none
  | .pressKblock _ => none
  | .pressOpRetire _ => none
  | .pressWatchdog _ => none
  | .tdirPerform _ _ => none
  | .tmovePerform _ _ => none
  | .entryLanding _ _ => none
  | .censusRequest _ => none
  | .censusBroadcast _ _ => none
  | .responderStart _ => none
  | .trellisReport _ _ => none
  | .panNodeReport _ _ => none
  | .landingNotice _ _ => none
  | .censusComplete _ _ => none
  | .policyInstall _ => none
  | .policyRevoke _ => none
  | .labelGrant _ => none
  | .policyExpiry _ => none
  | .faultQueueEvent _ _ => none
  | .faultQueueRetry _ => none
  | .slotTimerExpiry _ => none
  | .heartbeatMiss _ => none
  | .budgetPeriod => none
  | .thermtrip _ => none
  | .regulatorWindow => none
  | .channelDerate _ => none
  | .waySweep _ => none
  | .telemetryExport _ => none
  | .functionLevelReset _ => none
  | .rakejob _ => none
  | .rakeItemDone => none
  | .rakestat _ => none
  | .deviceReset => none
  | .powerOn _ _ _ => none
  | .attestationRequest _ => none
  | .portAttestation _ => none
  | .fabricPacketArrival _ => none
  | .hostWrite _ _ _ => none
  | .hostRead _ _ _ => none
  | .signedConfigurationRecord _ => none

/-- An instruction that keeps every limit of its encoding. -/
def Instr.wellFormed (i : Instr) : Bool := i.illFormed.isNone

/-- The rows of the table that have bits, as against the steps of the part that have none. -/
def Instr.encoded (i : Instr) : Bool :=
  match i with
  | .add _ _ _ _ _ => true
  | .sub _ _ _ _ _ => true
  | .and _ _ _ _ _ => true
  | .or _ _ _ _ _ => true
  | .xor _ _ _ _ _ => true
  | .sll _ _ _ _ _ => true
  | .srl _ _ _ _ _ => true
  | .sra _ _ _ _ _ => true
  | .rot _ _ _ _ _ => true
  | .min _ _ _ _ _ => true
  | .max _ _ _ _ _ => true
  | .minu _ _ _ _ _ => true
  | .maxu _ _ _ _ _ => true
  | .slt _ _ _ _ _ => true
  | .sltu _ _ _ _ _ => true
  | .seq _ _ _ _ _ => true
  | .sel _ _ _ _ _ => true
  | .extSB _ _ _ _ => true
  | .extSH _ _ _ _ => true
  | .extSW _ _ _ _ => true
  | .extZB _ _ _ _ => true
  | .extZH _ _ _ _ => true
  | .extZW _ _ _ _ => true
  | .addi _ _ _ _ => true
  | .andi _ _ _ _ => true
  | .ori _ _ _ _ => true
  | .xori _ _ _ _ => true
  | .slti _ _ _ _ => true
  | .sltiu _ _ _ _ => true
  | .slli _ _ _ _ => true
  | .srli _ _ _ _ => true
  | .srai _ _ _ _ => true
  | .roti _ _ _ _ => true
  | .lui _ _ => true
  | .addpc _ _ => true
  | .mul _ _ _ _ _ => true
  | .mulh _ _ _ _ _ => true
  | .mulhu _ _ _ _ _ => true
  | .div _ _ _ _ _ => true
  | .divu _ _ _ _ _ => true
  | .rem _ _ _ _ _ => true
  | .remu _ _ _ _ _ => true
  | .padd _ _ _ _ _ _ => true
  | .paddSs _ _ _ _ _ _ => true
  | .paddUs _ _ _ _ _ _ => true
  | .psub _ _ _ _ _ _ => true
  | .psubSs _ _ _ _ _ _ => true
  | .psubUs _ _ _ _ _ _ => true
  | .pmul _ _ _ _ _ _ => true
  | .pmulSs _ _ _ _ _ _ => true
  | .pmin _ _ _ _ _ _ => true
  | .pminU _ _ _ _ _ _ => true
  | .pmax _ _ _ _ _ _ => true
  | .pmaxU _ _ _ _ _ _ => true
  | .pshLl _ _ _ _ _ _ => true
  | .pshRl _ _ _ _ _ _ => true
  | .pshRa _ _ _ _ _ _ => true
  | .pcmpEq _ _ _ _ _ _ => true
  | .pcmpLt _ _ _ _ _ _ => true
  | .pcmpLtu _ _ _ _ _ _ => true
  | .pabsd _ _ _ _ _ _ => true
  | .ppack _ _ _ _ _ _ => true
  | .ppackSs _ _ _ _ _ _ => true
  | .ppackUs _ _ _ _ _ _ => true
  | .cmul _ _ _ _ _ => true
  | .cmac _ _ _ _ _ => true
  | .cmacj _ _ _ _ _ => true
  | .cabs2 _ _ _ _ => true
  | .mulq _ _ _ _ _ => true
  | .sat _ _ _ _ _ => true
  | .satu _ _ _ _ _ => true
  | .clz _ _ _ _ => true
  | .ctz _ _ _ _ => true
  | .popc _ _ _ _ => true
  | .bswap _ _ _ _ => true
  | .bext _ _ _ _ _ => true
  | .bextu _ _ _ _ _ => true
  | .bins _ _ _ _ _ => true
  | .fadd _ _ _ _ _ _ => true
  | .fsub _ _ _ _ _ _ => true
  | .fmul _ _ _ _ _ _ => true
  | .fma _ _ _ _ _ _ => true
  | .fdiv _ _ _ _ _ _ => true
  | .fsqrt _ _ _ _ _ => true
  | .fmin _ _ _ _ _ _ => true
  | .fmax _ _ _ _ _ _ => true
  | .fcmpEq _ _ _ _ _ _ => true
  | .fcmpLt _ _ _ _ _ _ => true
  | .fcmpLe _ _ _ _ _ _ => true
  | .fclass _ _ _ _ _ => true
  | .rnd _ _ _ _ _ _ => true
  | .rseed _ _ _ _ => true
  | .cvt _ _ _ _ _ _ _ => true
  | .ld _ _ _ _ _ _ _ => true
  | .st _ _ _ _ _ _ => true
  | .ldm _ _ _ _ _ _ _ => true
  | .stm _ _ _ _ _ _ _ => true
  | .ldfe _ _ _ _ _ => true
  | .ldff _ _ _ _ _ => true
  | .stfe _ _ _ _ _ => true
  | .stff _ _ _ _ _ => true
  | .tagr _ _ _ _ _ => true
  | .tagw _ _ _ _ _ => true
  | .setvat _ _ _ _ => true
  | .amoAdd _ _ _ _ _ _ _ _ => true
  | .amoAnd _ _ _ _ _ _ _ _ => true
  | .amoOr _ _ _ _ _ _ _ _ => true
  | .amoXor _ _ _ _ _ _ _ _ => true
  | .amoMin _ _ _ _ _ _ _ _ => true
  | .amoMax _ _ _ _ _ _ _ _ => true
  | .amoMinu _ _ _ _ _ _ _ _ => true
  | .amoMaxu _ _ _ _ _ _ _ _ => true
  | .amoSwap _ _ _ _ _ _ _ _ => true
  | .amoFadd32 _ _ _ _ _ _ _ => true
  | .redAdd _ _ _ _ _ _ _ => true
  | .redAnd _ _ _ _ _ _ _ => true
  | .redOr _ _ _ _ _ _ _ => true
  | .redXor _ _ _ _ _ _ _ => true
  | .redMin _ _ _ _ _ _ _ => true
  | .redMax _ _ _ _ _ _ _ => true
  | .redMinu _ _ _ _ _ _ _ => true
  | .redMaxu _ _ _ _ _ _ _ => true
  | .redSwap _ _ _ _ _ _ _ => true
  | .redFadd32 _ _ _ _ _ _ => true
  | .cas _ _ _ _ _ _ _ => true
  | .cas2 _ _ _ _ _ _ _ => true
  | .park _ _ _ _ _ => true
  | .wake _ _ _ _ => true
  | .sleep _ _ _ _ => true
  | .bar _ _ _ _ => true
  | .barw _ _ _ _ _ => true
  | .fencePan _ _ => true
  | .fenceTenant _ _ => true
  | .fenceSystem _ _ => true
  | .fenceGlobal _ _ => true
  | .hop _ _ _ => true
  | .live _ _ _ _ => true
  | .tlbinvTrellis _ _ _ _ => true
  | .tlbinvPan _ _ _ _ => true
  | .tlbinvPartition _ _ _ _ => true
  | .tlbinvPackage _ _ _ _ => true
  | .beq _ _ _ => true
  | .bne _ _ _ => true
  | .blt _ _ _ => true
  | .bge _ _ _ => true
  | .bltu _ _ _ => true
  | .bgeu _ _ _ => true
  | .jal _ _ => true
  | .jalr _ _ _ _ => true
  | .nest _ _ _ _ => true
  | .next _ _ _ => true
  | .fork _ _ _ _ _ => true
  | .join _ _ _ _ _ => true
  | .jdone _ _ _ _ => true
  | .spawn _ _ _ _ _ => true
  | .quit _ _ => true
  | .beat _ _ => true
  | .ifence _ _ => true
  | .mfc _ _ => true
  | .mtc _ _ => true
  | .mtcStatus _ => true
  | .mtcLive _ => true
  | .mtcSeed _ => true
  | .mtcDeftrapvec _ => true
  | .mtcHtbase _ => true
  | .mtcFqbase _ => true
  | .mtcWmdata _ => true
  | .trap _ => true
  | .sys _ => true
  | .eret => true
  | .vadd _ _ _ _ _ _ => true
  | .vsub _ _ _ _ _ _ => true
  | .vmul _ _ _ _ _ _ => true
  | .vmac _ _ _ _ _ _ => true
  | .vmin _ _ _ _ _ _ => true
  | .vmax _ _ _ _ _ _ => true
  | .vand _ _ _ _ _ _ => true
  | .vor _ _ _ _ _ _ => true
  | .vxor _ _ _ _ _ _ => true
  | .vshLl _ _ _ _ _ _ => true
  | .vshRl _ _ _ _ _ _ => true
  | .vshRa _ _ _ _ _ _ => true
  | .vcmpEq _ _ _ _ _ _ => true
  | .vcmpLt _ _ _ _ _ _ => true
  | .vcmpLtu _ _ _ _ _ _ => true
  | .vsel _ _ _ _ => true
  | .vcmul _ _ _ _ _ _ => true
  | .vcmac _ _ _ _ _ _ => true
  | .vredAdd _ _ _ _ => true
  | .vredMin _ _ _ _ => true
  | .vredMax _ _ _ _ => true
  | .vredFadd _ _ _ _ => true
  | .vperm _ _ _ _ _ _ => true
  | .vmv _ _ _ _ _ => true
  | .vmvBc _ _ _ _ _ => true
  | .vmvX _ _ => true
  | .vfadd _ _ _ _ _ _ _ => true
  | .vfmul _ _ _ _ _ _ _ => true
  | .vfma _ _ _ _ _ _ _ => true
  | .vfmin _ _ _ _ _ _ _ => true
  | .vfmax _ _ _ _ _ _ _ => true
  | .vcvt _ _ _ _ _ _ => true
  | .vld _ _ _ _ _ _ _ => true
  | .vst _ _ _ _ _ _ => true
  | .vlds _ _ _ _ _ _ _ _ => true
  | .vldx _ _ _ _ _ _ _ _ => true
  | .vstx _ _ _ _ _ _ _ => true
  | .vclaim _ _ _ _ _ => true
  | .vrel _ _ => true
  | .vsync _ _ _ _ _ => true
  | .mand _ _ _ _ _ => true
  | .mor _ _ _ _ _ => true
  | .mnot _ _ _ _ => true
  | .vsfuExp2 _ _ _ _ _ => true
  | .vsfuLog2 _ _ _ _ _ => true
  | .vsfuRcp _ _ _ _ _ => true
  | .vsfuRsqrt _ _ _ _ _ => true
  | .vsfuSin _ _ _ _ _ => true
  | .vsfuCos _ _ _ _ _ => true
  | .vsfuTanh _ _ _ _ _ => true
  | .vsfuSigmoid _ _ _ _ _ => true
  | .vbflyR2 _ _ _ _ => true
  | .vbflyR4 _ _ _ _ => true
  | .rack _ _ => true
  | .rackv _ _ _ => true
  | .rfenceEngine => true
  | .rfencePartition => true
  | .qfence _ _ => true
  | .qwait _ _ => true
  | .rstat _ _ => true
  | .collAllreduce _ _ => true
  | .collAllgather _ _ => true
  | .collReducescatter _ _ => true
  | .pmm _ _ => true
  | .pzero _ _ => true
  | .pwait _ _ => true
  | .pprog _ _ => true
  | .tdirPut _ _ => true
  | .tdirDel _ _ => true
  | .tmove _ _ _ => true
  | .solicitSum _ _ _ => true
  | .solicitMin _ _ _ => true
  | .solicitMax _ _ _ => true
  | .solicitOr _ _ _ => true
  | .solicitCount _ _ _ => true
  | .answer _ => true
  | .cwait _ => true
  | .lbl _ _ _ _ => true
  | .lblV _ _ _ _ => true
  | .lblM _ _ _ _ => true
  | .lblS _ _ _ => true
  | .sluice _ _ _ _ => true
  | .launch _ _ => true
  | .invoke _ _ _ _ => true
  | .cAdd _ _ => true
  | .cSub _ _ => true
  | .cAnd _ _ => true
  | .cOr _ _ => true
  | .cXor _ _ => true
  | .cSll _ _ => true
  | .cSrl _ _ => true
  | .cSra _ _ => true
  | .cMul _ _ => true
  | .cMin _ _ => true
  | .cMax _ _ => true
  | .mv _ _ => true
  | .cAddi _ _ => true
  | .cCmac _ _ => true
  | .cFadd _ _ => true
  | .cFmul _ _ => true
  | .cvAdd _ _ => true
  | .cvSub _ _ => true
  | .cvAnd _ _ => true
  | .cvOr _ _ => true
  | .cvXor _ _ => true
  | .cvSll _ _ => true
  | .cvSrl _ _ => true
  | .cvSra _ _ => true
  | .cvMul _ _ => true
  | .cvMin _ _ => true
  | .cvMax _ _ => true
  | .cvMv _ _ => true
  | .cvAddi _ _ => true
  | .cvCmac _ _ => true
  | .cvFadd _ _ => true
  | .cvFmul _ _ => true
  | .asyncTrapDelivery => false
  | .fetchLineInstall _ => false
  | .bankArbitration _ _ => false
  | .resultFill _ => false
  | .migrationArrival _ => false
  | .arrivalBufferPlace _ _ => false
  | .migrationResend _ => false
  | .migrationPlacedNotice _ _ => false
  | .migrationFallback _ => false
  | .proxiedAccess _ => false
  | .postedWriteArrival _ => false
  | .postedWriteAck _ => false
  | .postedWakeArrival _ => false
  | .translationRequest _ => false
  | .translationWalkDone _ => false
  | .l2FillBurst _ => false
  | .hbmFillReturn _ => false
  | .crossDieWriteApply _ _ => false
  | .clockBeat => false
  | .dclockReport _ _ => false
  | .vclockZeroing => false
  | .globalFenceOrdering _ => false
  | .barrierRequest _ _ => false
  | .parkTimeout _ _ => false
  | .sleepTimeout _ _ => false
  | .launchWindowSubmit _ _ _ => false
  | .invocationArrival _ => false
  | .launchPlacementPass _ => false
  | .waitonPoll _ => false
  | .priorityAging => false
  | .completionWrite _ _ => false
  | .msixRaise _ _ => false
  | .handlerErrorCompletion _ _ => false
  | .fold _ _ _ => false
  | .ownership _ _ => false
  | .slotHandover _ _ => false
  | .slotScrubDone _ _ => false
  | .pageMove _ _ _ => false
  | .pageMoveRetire _ _ _ => false
  | .cellarClear _ _ => false
  | .resized _ => false
  | .root _ _ => false
  | .frames _ _ => false
  | .release _ _ => false
  | .retire _ _ => false
  | .rackSegment _ _ => false
  | .rackRetire _ _ => false
  | .followOnEnqueue _ _ => false
  | .rackWatchdog _ _ => false
  | .collContribution _ => false
  | .collTimeout _ _ => false
  | .linkFailure _ => false
  | .pressOpStart _ => false
  | .pressKblock _ => false
  | .pressOpRetire _ => false
  | .pressWatchdog _ => false
  | .tdirPerform _ _ => false
  | .tmovePerform _ _ => false
  | .entryLanding _ _ => false
  | .censusRequest _ => false
  | .censusBroadcast _ _ => false
  | .responderStart _ => false
  | .trellisReport _ _ => false
  | .panNodeReport _ _ => false
  | .landingNotice _ _ => false
  | .censusComplete _ _ => false
  | .policyInstall _ => false
  | .policyRevoke _ => false
  | .labelGrant _ => false
  | .policyExpiry _ => false
  | .faultQueueEvent _ _ => false
  | .faultQueueRetry _ => false
  | .slotTimerExpiry _ => false
  | .heartbeatMiss _ => false
  | .budgetPeriod => false
  | .thermtrip _ => false
  | .regulatorWindow => false
  | .channelDerate _ => false
  | .waySweep _ => false
  | .telemetryExport _ => false
  | .functionLevelReset _ => false
  | .rakejob _ => false
  | .rakeItemDone => false
  | .rakestat _ => false
  | .deviceReset => false
  | .powerOn _ _ _ => false
  | .attestationRequest _ => false
  | .portAttestation _ => false
  | .fabricPacketArrival _ => false
  | .hostWrite _ _ _ => false
  | .hostRead _ _ _ => false
  | .signedConfigurationRecord _ => false

end Sys2Proof
end

