-- ==== Sys2Proof/Decode.lean ====
section
/-! DEFINITION. The decoder, from bits to an instruction or a named rejection, and the encoder (R89 to R99).
Bit n of an instruction is bit n of the number: the halfword at the PC is bits [15:0], the next one bits [31:16].
The decoder is marked noncomputable only because compiled Lean code cannot hold a type of more than 244
constructors that carry data; Lean's kernel evaluates it. -/

namespace Sys2Proof

/-- Why bits are no instruction. Every one of them traps with ILLEGAL (R99), except `truncated`. -/
inductive Reject where
  | reservedMajor              -- a major opcode of 0x2A to 0x3F
  | reservedFunction           -- an fn, cond, op or flags value not listed for its group
  | unusedField                -- a field that the instruction does not use is not 0
  | reservedValue              -- a field whose value is reserved: a format, rounding or width
  | limit (r : IllFormed)      -- a limit stated for a register or immediate field
  | truncated                  -- fewer bytes than the instruction has
  deriving DecidableEq, Repr

/-- Bits [lo + n - 1 : lo] of a number. -/
def bitsAt (w lo n : Nat) : Nat := w / 2 ^ lo % 2 ^ n

/-- A field of n bits as a number below 2^n. -/
def finAt (w lo n : Nat) : Fin (2 ^ n) := ⟨bitsAt w lo n, Nat.mod_lt _ (Nat.two_pow_pos n)⟩

/-- A field of n bits as a bit vector. -/
def bvAt (w lo n : Nat) : BitVec n := BitVec.ofNat n (bitsAt w lo n)

/-- A field of one bit. -/
def bitAt (w lo : Nat) : Bool := bitsAt w lo 1 = 1

/-- The code of each value (R117). -/
def PWidth.code : PWidth → Nat
  | .b8 => 0
  | .h16 => 1
  | .w32 => 2

/-- The value with a code, or nothing for a reserved code (R117). -/
def PWidth.ofCode : Nat → Option PWidth
  | 0 => some .b8
  | 1 => some .h16
  | 2 => some .w32
  | _ => none

/-- The code of each value (R166). -/
def FpFmt.code : FpFmt → Nat
  | .fp32 => 0
  | .fp16 => 1
  | .bf16 => 2

/-- The value with a code, or nothing for a reserved code (R166). -/
def FpFmt.ofCode : Nat → Option FpFmt
  | 0 => some .fp32
  | 1 => some .fp16
  | 2 => some .bf16
  | _ => none

/-- The code of each value (R81). -/
def Rm.code : Rm → Nat
  | .rne => 0
  | .rtz => 1
  | .rdn => 2
  | .rup => 3
  | .sr => 4

/-- The value with a code, or nothing for a reserved code (R81). -/
def Rm.ofCode : Nat → Option Rm
  | 0 => some .rne
  | 1 => some .rtz
  | 2 => some .rdn
  | 3 => some .rup
  | 4 => some .sr
  | _ => none

/-- The code of each value (R90). -/
def MemOrder.code : MemOrder → Nat
  | .plain => 0
  | .acquire => 1
  | .release => 2
  | .sequential => 3

/-- The value with a code; every code of the field has one (R90). -/
def MemOrder.ofCode : Nat → MemOrder
  | 0 => .plain
  | 1 => .acquire
  | 2 => .release
  | _ => .sequential

/-- The code of each value (R90). -/
def MemSize.code : MemSize → Nat
  | .byte => 0
  | .half => 1
  | .word => 2
  | .double => 3

/-- The value with a code; every code of the field has one (R90). -/
def MemSize.ofCode : Nat → MemSize
  | 0 => .byte
  | 1 => .half
  | 2 => .word
  | _ => .double

/-- The code of each value (R148). -/
def Fmt.code : Fmt → Nat
  | .int8 => 0
  | .uint8 => 1
  | .int16 => 2
  | .uint16 => 3
  | .int32 => 4
  | .int4 => 5
  | .uint4 => 6
  | .int2 => 7
  | .bps8 => 8
  | .bpu8 => 9
  | .bps16 => 10
  | .bpu16 => 11
  | .fp32 => 12
  | .fp16 => 13
  | .bf16 => 14
  | .fp8a => 15
  | .fp8b => 16
  | .fp6a => 17
  | .fp6b => 18
  | .fp4 => 19
  | .ci16 => 20
  | .ci8 => 21
  | .cf16 => 22
  | .bsint8 => 23
  | .bsfp8a => 24
  | .bsfp6a => 25
  | .bsfp4 => 26
  | .bsint4 => 27
  | .acc32f => 28
  | .acc32i => 29
  | .acc64i => 30
  | .e8 => 31

/-- The value with a code; every code of the field has one (R148). -/
def Fmt.ofCode : Nat → Fmt
  | 0 => .int8
  | 1 => .uint8
  | 2 => .int16
  | 3 => .uint16
  | 4 => .int32
  | 5 => .int4
  | 6 => .uint4
  | 7 => .int2
  | 8 => .bps8
  | 9 => .bpu8
  | 10 => .bps16
  | 11 => .bpu16
  | 12 => .fp32
  | 13 => .fp16
  | 14 => .bf16
  | 15 => .fp8a
  | 16 => .fp8b
  | 17 => .fp6a
  | 18 => .fp6b
  | 19 => .fp4
  | 20 => .ci16
  | 21 => .ci8
  | 22 => .cf16
  | 23 => .bsint8
  | 24 => .bsfp8a
  | 25 => .bsfp6a
  | 26 => .bsfp4
  | 27 => .bsint4
  | 28 => .acc32f
  | 29 => .acc32i
  | 30 => .acc64i
  | _ => .e8

/-- The code of the rounding field of `cvt` (R94). -/
def CvtRound.code : CvtRound → Nat
  | .status => 0
  | .fixed m => m.code + 1

/-- The rounding field with a code; 6 and 7 are reserved (R94). -/
def CvtRound.ofCode : Nat → Option CvtRound
  | 0 => some .status
  | n + 1 => (Rm.ofCode n).map .fixed

/-- The pair of formats of `vcvt`, a number below 12 (R97). -/
def vcvtCode (n : Nat) : Option (Fin 12) := if h : n < 12 then some ⟨n, h⟩ else none

/-- An instruction that keeps its limits, or the limit that it breaks (R99). -/
def checked (i : Instr) : Except Reject Instr :=
  match i.illFormed with
  | none => .ok i
  | some r => .error (.limit r)

/-- An instruction with a field whose value may be reserved (R99). -/
def withField {α : Type} (o : Option α) (k : α → Except Reject Instr) : Except Reject Instr :=
  match o with
  | some x => k x
  | none => .error .reservedValue

/-- Decodes the group of major opcode 0x00 (R93 to R98). -/
noncomputable def decodeAluR (w : Nat) : Except Reject Instr :=
  match bitsAt w 24 8 with
  | 0 => checked (.add (finAt w 7 5) (finAt w 12 5) (finAt w 17 5) (bitAt w 22) (bitAt w 23))
  | 1 => checked (.sub (finAt w 7 5) (finAt w 12 5) (finAt w 17 5) (bitAt w 22) (bitAt w 23))
  | 2 => checked (.and (finAt w 7 5) (finAt w 12 5) (finAt w 17 5) (bitAt w 22) (bitAt w 23))
  | 3 => checked (.or (finAt w 7 5) (finAt w 12 5) (finAt w 17 5) (bitAt w 22) (bitAt w 23))
  | 4 => checked (.xor (finAt w 7 5) (finAt w 12 5) (finAt w 17 5) (bitAt w 22) (bitAt w 23))
  | 5 => checked (.sll (finAt w 7 5) (finAt w 12 5) (finAt w 17 5) (bitAt w 22) (bitAt w 23))
  | 6 => checked (.srl (finAt w 7 5) (finAt w 12 5) (finAt w 17 5) (bitAt w 22) (bitAt w 23))
  | 7 => checked (.sra (finAt w 7 5) (finAt w 12 5) (finAt w 17 5) (bitAt w 22) (bitAt w 23))
  | 8 => checked (.rot (finAt w 7 5) (finAt w 12 5) (finAt w 17 5) (bitAt w 22) (bitAt w 23))
  | 9 => checked (.min (finAt w 7 5) (finAt w 12 5) (finAt w 17 5) (bitAt w 22) (bitAt w 23))
  | 10 => checked (.max (finAt w 7 5) (finAt w 12 5) (finAt w 17 5) (bitAt w 22) (bitAt w 23))
  | 11 => checked (.minu (finAt w 7 5) (finAt w 12 5) (finAt w 17 5) (bitAt w 22) (bitAt w 23))
  | 12 => checked (.maxu (finAt w 7 5) (finAt w 12 5) (finAt w 17 5) (bitAt w 22) (bitAt w 23))
  | 13 => checked (.slt (finAt w 7 5) (finAt w 12 5) (finAt w 17 5) (bitAt w 22) (bitAt w 23))
  | 14 => checked (.sltu (finAt w 7 5) (finAt w 12 5) (finAt w 17 5) (bitAt w 22) (bitAt w 23))
  | 15 => checked (.seq (finAt w 7 5) (finAt w 12 5) (finAt w 17 5) (bitAt w 22) (bitAt w 23))
  | 16 => checked (.sel (finAt w 7 5) (finAt w 12 5) (finAt w 17 5) (bitAt w 22) (bitAt w 23))
  | 17 => if bitsAt w 17 5 = 0 then checked (.extSB (finAt w 7 5) (finAt w 12 5) (bitAt w 22) (bitAt w 23))
    else .error .unusedField
  | 18 => if bitsAt w 17 5 = 0 then checked (.extSH (finAt w 7 5) (finAt w 12 5) (bitAt w 22) (bitAt w 23))
    else .error .unusedField
  | 19 => if bitsAt w 17 5 = 0 then checked (.extSW (finAt w 7 5) (finAt w 12 5) (bitAt w 22) (bitAt w 23))
    else .error .unusedField
  | 20 => if bitsAt w 17 5 = 0 then checked (.extZB (finAt w 7 5) (finAt w 12 5) (bitAt w 22) (bitAt w 23))
    else .error .unusedField
  | 21 => if bitsAt w 17 5 = 0 then checked (.extZH (finAt w 7 5) (finAt w 12 5) (bitAt w 22) (bitAt w 23))
    else .error .unusedField
  | 22 => if bitsAt w 17 5 = 0 then checked (.extZW (finAt w 7 5) (finAt w 12 5) (bitAt w 22) (bitAt w 23))
    else .error .unusedField
  | _ => .error .reservedFunction

/-- Decodes the group of major opcode 0x01 (R93 to R98). -/
noncomputable def decodeAddi (w : Nat) : Except Reject Instr :=
  checked (.addi (finAt w 7 5) (finAt w 12 5) (bvAt w 18 14) (bitAt w 17))

/-- Decodes the group of major opcode 0x02 (R93 to R98). -/
noncomputable def decodeAndi (w : Nat) : Except Reject Instr :=
  checked (.andi (finAt w 7 5) (finAt w 12 5) (bvAt w 18 14) (bitAt w 17))

/-- Decodes the group of major opcode 0x03 (R93 to R98). -/
noncomputable def decodeOri (w : Nat) : Except Reject Instr :=
  checked (.ori (finAt w 7 5) (finAt w 12 5) (bvAt w 18 14) (bitAt w 17))

/-- Decodes the group of major opcode 0x04 (R93 to R98). -/
noncomputable def decodeXori (w : Nat) : Except Reject Instr :=
  checked (.xori (finAt w 7 5) (finAt w 12 5) (bvAt w 18 14) (bitAt w 17))

/-- Decodes the group of major opcode 0x05 (R93 to R98). -/
noncomputable def decodeShiftImm (w : Nat) : Except Reject Instr :=
  match bitsAt w 24 8 with
  | 0 => checked (.slli (finAt w 7 5) (finAt w 12 5) (bvAt w 18 6) (bitAt w 17))
  | 1 => checked (.srli (finAt w 7 5) (finAt w 12 5) (bvAt w 18 6) (bitAt w 17))
  | 2 => checked (.srai (finAt w 7 5) (finAt w 12 5) (bvAt w 18 6) (bitAt w 17))
  | 3 => checked (.roti (finAt w 7 5) (finAt w 12 5) (bvAt w 18 6) (bitAt w 17))
  | _ => .error .reservedFunction

/-- Decodes the group of major opcode 0x06 (R93 to R98). -/
noncomputable def decodeSlti (w : Nat) : Except Reject Instr :=
  checked (.slti (finAt w 7 5) (finAt w 12 5) (bvAt w 18 14) (bitAt w 17))

/-- Decodes the group of major opcode 0x07 (R93 to R98). -/
noncomputable def decodeSltiu (w : Nat) : Except Reject Instr :=
  checked (.sltiu (finAt w 7 5) (finAt w 12 5) (bvAt w 18 14) (bitAt w 17))

/-- Decodes the group of major opcode 0x08 (R93 to R98). -/
noncomputable def decodeLui (w : Nat) : Except Reject Instr :=
  checked (.lui (finAt w 7 5) (bvAt w 12 20))

/-- Decodes the group of major opcode 0x09 (R93 to R98). -/
noncomputable def decodeAddpc (w : Nat) : Except Reject Instr :=
  checked (.addpc (finAt w 7 5) (bvAt w 12 20))

/-- Decodes the group of major opcode 0x0A (R93 to R98). -/
noncomputable def decodeMulDiv (w : Nat) : Except Reject Instr :=
  match bitsAt w 24 8 with
  | 0 => checked (.mul (finAt w 7 5) (finAt w 12 5) (finAt w 17 5) (bitAt w 22) (bitAt w 23))
  | 1 => checked (.mulh (finAt w 7 5) (finAt w 12 5) (finAt w 17 5) (bitAt w 22) (bitAt w 23))
  | 2 => checked (.mulhu (finAt w 7 5) (finAt w 12 5) (finAt w 17 5) (bitAt w 22) (bitAt w 23))
  | 3 => checked (.div (finAt w 7 5) (finAt w 12 5) (finAt w 17 5) (bitAt w 22) (bitAt w 23))
  | 4 => checked (.divu (finAt w 7 5) (finAt w 12 5) (finAt w 17 5) (bitAt w 22) (bitAt w 23))
  | 5 => checked (.rem (finAt w 7 5) (finAt w 12 5) (finAt w 17 5) (bitAt w 22) (bitAt w 23))
  | 6 => checked (.remu (finAt w 7 5) (finAt w 12 5) (finAt w 17 5) (bitAt w 22) (bitAt w 23))
  | _ => .error .reservedFunction

/-- Decodes the group of major opcode 0x0B (R93 to R98). -/
noncomputable def decodePsimd (w : Nat) : Except Reject Instr :=
  match bitsAt w 26 6 with
  | 0 => withField (PWidth.ofCode (bitsAt w 24 2)) fun xw => checked (.padd (finAt w 7 5) (finAt w 12 5) (finAt w 17 5) xw (bitAt w 22) (bitAt w 23))
  | 1 => withField (PWidth.ofCode (bitsAt w 24 2)) fun xw => checked (.paddSs (finAt w 7 5) (finAt w 12 5) (finAt w 17 5) xw (bitAt w 22) (bitAt w 23))
  | 2 => withField (PWidth.ofCode (bitsAt w 24 2)) fun xw => checked (.paddUs (finAt w 7 5) (finAt w 12 5) (finAt w 17 5) xw (bitAt w 22) (bitAt w 23))
  | 3 => withField (PWidth.ofCode (bitsAt w 24 2)) fun xw => checked (.psub (finAt w 7 5) (finAt w 12 5) (finAt w 17 5) xw (bitAt w 22) (bitAt w 23))
  | 4 => withField (PWidth.ofCode (bitsAt w 24 2)) fun xw => checked (.psubSs (finAt w 7 5) (finAt w 12 5) (finAt w 17 5) xw (bitAt w 22) (bitAt w 23))
  | 5 => withField (PWidth.ofCode (bitsAt w 24 2)) fun xw => checked (.psubUs (finAt w 7 5) (finAt w 12 5) (finAt w 17 5) xw (bitAt w 22) (bitAt w 23))
  | 6 => withField (PWidth.ofCode (bitsAt w 24 2)) fun xw => checked (.pmul (finAt w 7 5) (finAt w 12 5) (finAt w 17 5) xw (bitAt w 22) (bitAt w 23))
  | 7 => withField (PWidth.ofCode (bitsAt w 24 2)) fun xw => checked (.pmulSs (finAt w 7 5) (finAt w 12 5) (finAt w 17 5) xw (bitAt w 22) (bitAt w 23))
  | 8 => withField (PWidth.ofCode (bitsAt w 24 2)) fun xw => checked (.pmin (finAt w 7 5) (finAt w 12 5) (finAt w 17 5) xw (bitAt w 22) (bitAt w 23))
  | 9 => withField (PWidth.ofCode (bitsAt w 24 2)) fun xw => checked (.pminU (finAt w 7 5) (finAt w 12 5) (finAt w 17 5) xw (bitAt w 22) (bitAt w 23))
  | 10 => withField (PWidth.ofCode (bitsAt w 24 2)) fun xw => checked (.pmax (finAt w 7 5) (finAt w 12 5) (finAt w 17 5) xw (bitAt w 22) (bitAt w 23))
  | 11 => withField (PWidth.ofCode (bitsAt w 24 2)) fun xw => checked (.pmaxU (finAt w 7 5) (finAt w 12 5) (finAt w 17 5) xw (bitAt w 22) (bitAt w 23))
  | 12 => withField (PWidth.ofCode (bitsAt w 24 2)) fun xw => checked (.pshLl (finAt w 7 5) (finAt w 12 5) (finAt w 17 5) xw (bitAt w 22) (bitAt w 23))
  | 13 => withField (PWidth.ofCode (bitsAt w 24 2)) fun xw => checked (.pshRl (finAt w 7 5) (finAt w 12 5) (finAt w 17 5) xw (bitAt w 22) (bitAt w 23))
  | 14 => withField (PWidth.ofCode (bitsAt w 24 2)) fun xw => checked (.pshRa (finAt w 7 5) (finAt w 12 5) (finAt w 17 5) xw (bitAt w 22) (bitAt w 23))
  | 15 => withField (PWidth.ofCode (bitsAt w 24 2)) fun xw => checked (.pcmpEq (finAt w 7 5) (finAt w 12 5) (finAt w 17 5) xw (bitAt w 22) (bitAt w 23))
  | 16 => withField (PWidth.ofCode (bitsAt w 24 2)) fun xw => checked (.pcmpLt (finAt w 7 5) (finAt w 12 5) (finAt w 17 5) xw (bitAt w 22) (bitAt w 23))
  | 17 => withField (PWidth.ofCode (bitsAt w 24 2)) fun xw => checked (.pcmpLtu (finAt w 7 5) (finAt w 12 5) (finAt w 17 5) xw (bitAt w 22) (bitAt w 23))
  | 18 => withField (PWidth.ofCode (bitsAt w 24 2)) fun xw => checked (.pabsd (finAt w 7 5) (finAt w 12 5) (finAt w 17 5) xw (bitAt w 22) (bitAt w 23))
  | 19 => withField (PWidth.ofCode (bitsAt w 24 2)) fun xw => checked (.ppack (finAt w 7 5) (finAt w 12 5) (finAt w 17 5) xw (bitAt w 22) (bitAt w 23))
  | 20 => withField (PWidth.ofCode (bitsAt w 24 2)) fun xw => checked (.ppackSs (finAt w 7 5) (finAt w 12 5) (finAt w 17 5) xw (bitAt w 22) (bitAt w 23))
  | 21 => withField (PWidth.ofCode (bitsAt w 24 2)) fun xw => checked (.ppackUs (finAt w 7 5) (finAt w 12 5) (finAt w 17 5) xw (bitAt w 22) (bitAt w 23))
  | _ => .error .reservedFunction

/-- Decodes the group of major opcode 0x0C (R93 to R98). -/
noncomputable def decodeCplx (w : Nat) : Except Reject Instr :=
  match bitsAt w 24 8 with
  | 0 => checked (.cmul (finAt w 7 5) (finAt w 12 5) (finAt w 17 5) (bitAt w 22) (bitAt w 23))
  | 1 => checked (.cmac (finAt w 7 5) (finAt w 12 5) (finAt w 17 5) (bitAt w 22) (bitAt w 23))
  | 2 => checked (.cmacj (finAt w 7 5) (finAt w 12 5) (finAt w 17 5) (bitAt w 22) (bitAt w 23))
  | 3 => if bitsAt w 17 5 = 0 then checked (.cabs2 (finAt w 7 5) (finAt w 12 5) (bitAt w 22) (bitAt w 23))
    else .error .unusedField
  | 4 => checked (.mulq (finAt w 7 5) (finAt w 12 5) (finAt w 17 5) (bitAt w 22) (bitAt w 23))
  | 5 => checked (.sat (finAt w 7 5) (finAt w 12 5) (bvAt w 17 5) (bitAt w 22) (bitAt w 23))
  | 6 => checked (.satu (finAt w 7 5) (finAt w 12 5) (bvAt w 17 5) (bitAt w 22) (bitAt w 23))
  | _ => .error .reservedFunction

/-- Decodes the group of major opcode 0x0D (R93 to R98). -/
noncomputable def decodeBitf (w : Nat) : Except Reject Instr :=
  match bitsAt w 24 8 with
  | 0 => if bitsAt w 17 5 = 0 then checked (.clz (finAt w 7 5) (finAt w 12 5) (bitAt w 22) (bitAt w 23))
    else .error .unusedField
  | 1 => if bitsAt w 17 5 = 0 then checked (.ctz (finAt w 7 5) (finAt w 12 5) (bitAt w 22) (bitAt w 23))
    else .error .unusedField
  | 2 => if bitsAt w 17 5 = 0 then checked (.popc (finAt w 7 5) (finAt w 12 5) (bitAt w 22) (bitAt w 23))
    else .error .unusedField
  | 3 => if bitsAt w 17 5 = 0 then checked (.bswap (finAt w 7 5) (finAt w 12 5) (bitAt w 22) (bitAt w 23))
    else .error .unusedField
  | 4 => checked (.bext (finAt w 7 5) (finAt w 12 5) (finAt w 17 5) (bitAt w 22) (bitAt w 23))
  | 5 => checked (.bextu (finAt w 7 5) (finAt w 12 5) (finAt w 17 5) (bitAt w 22) (bitAt w 23))
  | 6 => checked (.bins (finAt w 7 5) (finAt w 12 5) (finAt w 17 5) (bitAt w 22) (bitAt w 23))
  | _ => .error .reservedFunction

/-- Decodes the group of major opcode 0x0E (R93 to R98). -/
noncomputable def decodeFp (w : Nat) : Except Reject Instr :=
  match bitsAt w 26 6 with
  | 0 => withField (FpFmt.ofCode (bitsAt w 24 2)) fun xf => checked (.fadd (finAt w 7 5) (finAt w 12 5) (finAt w 17 5) xf (bitAt w 22) (bitAt w 23))
  | 1 => withField (FpFmt.ofCode (bitsAt w 24 2)) fun xf => checked (.fsub (finAt w 7 5) (finAt w 12 5) (finAt w 17 5) xf (bitAt w 22) (bitAt w 23))
  | 2 => withField (FpFmt.ofCode (bitsAt w 24 2)) fun xf => checked (.fmul (finAt w 7 5) (finAt w 12 5) (finAt w 17 5) xf (bitAt w 22) (bitAt w 23))
  | 3 => withField (FpFmt.ofCode (bitsAt w 24 2)) fun xf => checked (.fma (finAt w 7 5) (finAt w 12 5) (finAt w 17 5) xf (bitAt w 22) (bitAt w 23))
  | 4 => withField (FpFmt.ofCode (bitsAt w 24 2)) fun xf => checked (.fdiv (finAt w 7 5) (finAt w 12 5) (finAt w 17 5) xf (bitAt w 22) (bitAt w 23))
  | 5 => if bitsAt w 17 5 = 0 then withField (FpFmt.ofCode (bitsAt w 24 2)) fun xf => checked (.fsqrt (finAt w 7 5) (finAt w 12 5) xf (bitAt w 22) (bitAt w 23))
    else .error .unusedField
  | 6 => withField (FpFmt.ofCode (bitsAt w 24 2)) fun xf => checked (.fmin (finAt w 7 5) (finAt w 12 5) (finAt w 17 5) xf (bitAt w 22) (bitAt w 23))
  | 7 => withField (FpFmt.ofCode (bitsAt w 24 2)) fun xf => checked (.fmax (finAt w 7 5) (finAt w 12 5) (finAt w 17 5) xf (bitAt w 22) (bitAt w 23))
  | 8 => withField (FpFmt.ofCode (bitsAt w 24 2)) fun xf => checked (.fcmpEq (finAt w 7 5) (finAt w 12 5) (finAt w 17 5) xf (bitAt w 22) (bitAt w 23))
  | 9 => withField (FpFmt.ofCode (bitsAt w 24 2)) fun xf => checked (.fcmpLt (finAt w 7 5) (finAt w 12 5) (finAt w 17 5) xf (bitAt w 22) (bitAt w 23))
  | 10 => withField (FpFmt.ofCode (bitsAt w 24 2)) fun xf => checked (.fcmpLe (finAt w 7 5) (finAt w 12 5) (finAt w 17 5) xf (bitAt w 22) (bitAt w 23))
  | 11 => if bitsAt w 17 5 = 0 then withField (FpFmt.ofCode (bitsAt w 24 2)) fun xf => checked (.fclass (finAt w 7 5) (finAt w 12 5) xf (bitAt w 22) (bitAt w 23))
    else .error .unusedField
  | 12 => withField (FpFmt.ofCode (bitsAt w 24 2)) fun xf => withField (Rm.ofCode (bitsAt w 17 5)) fun xrm => checked (.rnd (finAt w 7 5) (finAt w 12 5) xf xrm (bitAt w 22) (bitAt w 23))
  | 13 => if bitsAt w 17 5 = 0 ∧ bitsAt w 24 2 = 0 then checked (.rseed (finAt w 7 5) (finAt w 12 5) (bitAt w 22) (bitAt w 23))
    else .error .unusedField
  | _ => .error .reservedFunction

/-- Decodes the group of major opcode 0x0F (R93 to R98). -/
noncomputable def decodeCvt (w : Nat) : Except Reject Instr :=
  withField (CvtRound.ofCode (bitsAt w 29 3)) fun xrnd => checked (.cvt (finAt w 7 5) (finAt w 12 5) xrnd (Fmt.ofCode (bitsAt w 24 5)) (Fmt.ofCode (bitsAt w 17 5)) (bitAt w 22) (bitAt w 23))

/-- Decodes the group of major opcode 0x10 (R93 to R98). -/
noncomputable def decodeLd (w : Nat) : Except Reject Instr :=
  checked (.ld (finAt w 7 5) (finAt w 12 5) (bvAt w 23 9) (MemSize.ofCode (bitsAt w 17 2)) (bitAt w 19) (MemOrder.ofCode (bitsAt w 20 2)) (bitAt w 22))

/-- Decodes the group of major opcode 0x11 (R93 to R98). -/
noncomputable def decodeSt (w : Nat) : Except Reject Instr :=
  if bitsAt w 19 1 = 0 then checked (.st (finAt w 7 5) (finAt w 12 5) (bvAt w 23 9) (MemSize.ofCode (bitsAt w 17 2)) (MemOrder.ofCode (bitsAt w 20 2)) (bitAt w 22))
  else .error .unusedField

/-- Decodes the group of major opcode 0x12 (R93 to R98). -/
noncomputable def decodeBurst (w : Nat) : Except Reject Instr :=
  match bitsAt w 10 1 with
  | 0 => checked (.ldm (finAt w 12 5) (finAt w 17 5) (bvAt w 24 8) (bvAt w 7 3) (bitAt w 11) (bitAt w 22) (bitAt w 23))
  | _ => checked (.stm (finAt w 12 5) (finAt w 17 5) (bvAt w 24 8) (bvAt w 7 3) (bitAt w 11) (bitAt w 22) (bitAt w 23))

/-- Decodes the group of major opcode 0x13 (R93 to R98). -/
noncomputable def decodeSyncMem (w : Nat) : Except Reject Instr :=
  match bitsAt w 17 3 with
  | 0 => checked (.ldfe (finAt w 7 5) (finAt w 12 5) (bvAt w 23 9) (MemOrder.ofCode (bitsAt w 20 2)) (bitAt w 22))
  | 1 => checked (.ldff (finAt w 7 5) (finAt w 12 5) (bvAt w 23 9) (MemOrder.ofCode (bitsAt w 20 2)) (bitAt w 22))
  | 2 => checked (.stfe (finAt w 7 5) (finAt w 12 5) (bvAt w 23 9) (MemOrder.ofCode (bitsAt w 20 2)) (bitAt w 22))
  | 3 => checked (.stff (finAt w 7 5) (finAt w 12 5) (bvAt w 23 9) (MemOrder.ofCode (bitsAt w 20 2)) (bitAt w 22))
  | 4 => checked (.tagr (finAt w 7 5) (finAt w 12 5) (bvAt w 23 9) (MemOrder.ofCode (bitsAt w 20 2)) (bitAt w 22))
  | 5 => checked (.tagw (finAt w 7 5) (finAt w 12 5) (bvAt w 23 9) (MemOrder.ofCode (bitsAt w 20 2)) (bitAt w 22))
  | 6 => if bitsAt w 20 2 = 0 then checked (.setvat (finAt w 7 5) (finAt w 12 5) (bvAt w 23 9) (bitAt w 22))
    else .error .unusedField
  | _ => .error .reservedFunction

/-- Decodes the group of major opcode 0x14 (R93 to R98). -/
noncomputable def decodeAmo (w : Nat) : Except Reject Instr :=
  match bitsAt w 28 4 with
  | 0 => if bitsAt w 25 1 = 0 then checked (.amoAdd (finAt w 7 5) (finAt w 12 5) (finAt w 17 5) (bitAt w 24) (bitAt w 26) (bitAt w 27) (bitAt w 22) (bitAt w 23))
    else .error .unusedField
  | 1 => if bitsAt w 25 1 = 0 then checked (.amoAnd (finAt w 7 5) (finAt w 12 5) (finAt w 17 5) (bitAt w 24) (bitAt w 26) (bitAt w 27) (bitAt w 22) (bitAt w 23))
    else .error .unusedField
  | 2 => if bitsAt w 25 1 = 0 then checked (.amoOr (finAt w 7 5) (finAt w 12 5) (finAt w 17 5) (bitAt w 24) (bitAt w 26) (bitAt w 27) (bitAt w 22) (bitAt w 23))
    else .error .unusedField
  | 3 => if bitsAt w 25 1 = 0 then checked (.amoXor (finAt w 7 5) (finAt w 12 5) (finAt w 17 5) (bitAt w 24) (bitAt w 26) (bitAt w 27) (bitAt w 22) (bitAt w 23))
    else .error .unusedField
  | 4 => if bitsAt w 25 1 = 0 then checked (.amoMin (finAt w 7 5) (finAt w 12 5) (finAt w 17 5) (bitAt w 24) (bitAt w 26) (bitAt w 27) (bitAt w 22) (bitAt w 23))
    else .error .unusedField
  | 5 => if bitsAt w 25 1 = 0 then checked (.amoMax (finAt w 7 5) (finAt w 12 5) (finAt w 17 5) (bitAt w 24) (bitAt w 26) (bitAt w 27) (bitAt w 22) (bitAt w 23))
    else .error .unusedField
  | 6 => if bitsAt w 25 1 = 0 then checked (.amoMinu (finAt w 7 5) (finAt w 12 5) (finAt w 17 5) (bitAt w 24) (bitAt w 26) (bitAt w 27) (bitAt w 22) (bitAt w 23))
    else .error .unusedField
  | 7 => if bitsAt w 25 1 = 0 then checked (.amoMaxu (finAt w 7 5) (finAt w 12 5) (finAt w 17 5) (bitAt w 24) (bitAt w 26) (bitAt w 27) (bitAt w 22) (bitAt w 23))
    else .error .unusedField
  | 8 => if bitsAt w 25 1 = 0 then checked (.amoSwap (finAt w 7 5) (finAt w 12 5) (finAt w 17 5) (bitAt w 24) (bitAt w 26) (bitAt w 27) (bitAt w 22) (bitAt w 23))
    else .error .unusedField
  | 9 => if bitsAt w 24 2 = 0 then checked (.amoFadd32 (finAt w 7 5) (finAt w 12 5) (finAt w 17 5) (bitAt w 26) (bitAt w 27) (bitAt w 22) (bitAt w 23))
    else .error .unusedField
  | _ => .error .reservedFunction

/-- Decodes the group of major opcode 0x15 (R93 to R98). -/
noncomputable def decodeRed (w : Nat) : Except Reject Instr :=
  match bitsAt w 28 4 with
  | 0 => if bitsAt w 7 5 = 0 ∧ bitsAt w 25 1 = 0 then checked (.redAdd (finAt w 12 5) (finAt w 17 5) (bitAt w 24) (bitAt w 26) (bitAt w 27) (bitAt w 22) (bitAt w 23))
    else .error .unusedField
  | 1 => if bitsAt w 7 5 = 0 ∧ bitsAt w 25 1 = 0 then checked (.redAnd (finAt w 12 5) (finAt w 17 5) (bitAt w 24) (bitAt w 26) (bitAt w 27) (bitAt w 22) (bitAt w 23))
    else .error .unusedField
  | 2 => if bitsAt w 7 5 = 0 ∧ bitsAt w 25 1 = 0 then checked (.redOr (finAt w 12 5) (finAt w 17 5) (bitAt w 24) (bitAt w 26) (bitAt w 27) (bitAt w 22) (bitAt w 23))
    else .error .unusedField
  | 3 => if bitsAt w 7 5 = 0 ∧ bitsAt w 25 1 = 0 then checked (.redXor (finAt w 12 5) (finAt w 17 5) (bitAt w 24) (bitAt w 26) (bitAt w 27) (bitAt w 22) (bitAt w 23))
    else .error .unusedField
  | 4 => if bitsAt w 7 5 = 0 ∧ bitsAt w 25 1 = 0 then checked (.redMin (finAt w 12 5) (finAt w 17 5) (bitAt w 24) (bitAt w 26) (bitAt w 27) (bitAt w 22) (bitAt w 23))
    else .error .unusedField
  | 5 => if bitsAt w 7 5 = 0 ∧ bitsAt w 25 1 = 0 then checked (.redMax (finAt w 12 5) (finAt w 17 5) (bitAt w 24) (bitAt w 26) (bitAt w 27) (bitAt w 22) (bitAt w 23))
    else .error .unusedField
  | 6 => if bitsAt w 7 5 = 0 ∧ bitsAt w 25 1 = 0 then checked (.redMinu (finAt w 12 5) (finAt w 17 5) (bitAt w 24) (bitAt w 26) (bitAt w 27) (bitAt w 22) (bitAt w 23))
    else .error .unusedField
  | 7 => if bitsAt w 7 5 = 0 ∧ bitsAt w 25 1 = 0 then checked (.redMaxu (finAt w 12 5) (finAt w 17 5) (bitAt w 24) (bitAt w 26) (bitAt w 27) (bitAt w 22) (bitAt w 23))
    else .error .unusedField
  | 8 => if bitsAt w 7 5 = 0 ∧ bitsAt w 25 1 = 0 then checked (.redSwap (finAt w 12 5) (finAt w 17 5) (bitAt w 24) (bitAt w 26) (bitAt w 27) (bitAt w 22) (bitAt w 23))
    else .error .unusedField
  | 9 => if bitsAt w 7 5 = 0 ∧ bitsAt w 24 2 = 0 then checked (.redFadd32 (finAt w 12 5) (finAt w 17 5) (bitAt w 26) (bitAt w 27) (bitAt w 22) (bitAt w 23))
    else .error .unusedField
  | _ => .error .reservedFunction

/-- Decodes the group of major opcode 0x16 (R93 to R98). -/
noncomputable def decodeCas (w : Nat) : Except Reject Instr :=
  match bitsAt w 28 4 with
  | 0 => if bitsAt w 24 2 = 1 then checked (.cas (finAt w 7 5) (finAt w 12 5) (finAt w 17 5) (bitAt w 26) (bitAt w 27) (bitAt w 22) (bitAt w 23))
    else if bitsAt w 24 2 = 2 then checked (.cas2 (finAt w 7 5) (finAt w 12 5) (finAt w 17 5) (bitAt w 26) (bitAt w 27) (bitAt w 22) (bitAt w 23))
    else .error .unusedField
  | _ => .error .reservedFunction

/-- Decodes the group of major opcode 0x17 (R93 to R98). -/
noncomputable def decodeWait (w : Nat) : Except Reject Instr :=
  match bitsAt w 24 8 with
  | 0 => checked (.park (finAt w 7 5) (finAt w 12 5) (finAt w 17 5) (bitAt w 22) (bitAt w 23))
  | 1 => if bitsAt w 7 5 = 0 then checked (.wake (finAt w 12 5) (finAt w 17 5) (bitAt w 22) (bitAt w 23))
    else .error .unusedField
  | 2 => if bitsAt w 17 5 = 0 then checked (.sleep (finAt w 7 5) (finAt w 12 5) (bitAt w 22) (bitAt w 23))
    else .error .unusedField
  | 3 => if bitsAt w 14 8 = 0 then checked (.bar (finAt w 7 5) (finAt w 12 2) (bitAt w 22) (bitAt w 23))
    else .error .unusedField
  | 4 => if bitsAt w 14 3 = 0 then checked (.barw (finAt w 7 5) (finAt w 17 5) (finAt w 12 2) (bitAt w 22) (bitAt w 23))
    else .error .unusedField
  | _ => .error .reservedFunction

/-- Decodes the group of major opcode 0x18 (R93 to R98). -/
noncomputable def decodeFence (w : Nat) : Except Reject Instr :=
  match bitsAt w 24 8 with
  | 0 => if bitsAt w 7 15 = 0 then checked (.fencePan (bitAt w 22) (bitAt w 23))
    else .error .unusedField
  | 1 => if bitsAt w 7 15 = 0 then checked (.fenceTenant (bitAt w 22) (bitAt w 23))
    else .error .unusedField
  | 2 => if bitsAt w 7 15 = 0 then checked (.fenceSystem (bitAt w 22) (bitAt w 23))
    else .error .unusedField
  | 3 => if bitsAt w 7 15 = 0 then checked (.fenceGlobal (bitAt w 22) (bitAt w 23))
    else .error .unusedField
  | _ => .error .reservedFunction

/-- Decodes the group of major opcode 0x19 (R93 to R98). -/
noncomputable def decodeMigr (w : Nat) : Except Reject Instr :=
  match bitsAt w 24 8 with
  | 0 => if bitsAt w 7 5 = 0 ∧ bitsAt w 17 5 = 0 then checked (.hop (finAt w 12 5) (bitAt w 22) (bitAt w 23))
    else .error .unusedField
  | 1 => if bitsAt w 17 5 = 0 then checked (.live (finAt w 7 5) (finAt w 12 5) (bitAt w 22) (bitAt w 23))
    else .error .unusedField
  | 2 => if bitsAt w 7 5 = 0 then checked (.tlbinvTrellis (finAt w 12 5) (finAt w 17 5) (bitAt w 22) (bitAt w 23))
    else .error .unusedField
  | 3 => if bitsAt w 7 5 = 0 then checked (.tlbinvPan (finAt w 12 5) (finAt w 17 5) (bitAt w 22) (bitAt w 23))
    else .error .unusedField
  | 4 => if bitsAt w 7 5 = 0 then checked (.tlbinvPartition (finAt w 12 5) (finAt w 17 5) (bitAt w 22) (bitAt w 23))
    else .error .unusedField
  | 5 => if bitsAt w 7 5 = 0 then checked (.tlbinvPackage (finAt w 12 5) (finAt w 17 5) (bitAt w 22) (bitAt w 23))
    else .error .unusedField
  | _ => .error .reservedFunction

/-- Decodes the group of major opcode 0x1A (R93 to R98). -/
noncomputable def decodeBranch (w : Nat) : Except Reject Instr :=
  match bitsAt w 7 3 with
  | 0 => checked (.beq (finAt w 10 5) (finAt w 15 5) (bvAt w 20 12))
  | 1 => checked (.bne (finAt w 10 5) (finAt w 15 5) (bvAt w 20 12))
  | 2 => checked (.blt (finAt w 10 5) (finAt w 15 5) (bvAt w 20 12))
  | 3 => checked (.bge (finAt w 10 5) (finAt w 15 5) (bvAt w 20 12))
  | 4 => checked (.bltu (finAt w 10 5) (finAt w 15 5) (bvAt w 20 12))
  | 5 => checked (.bgeu (finAt w 10 5) (finAt w 15 5) (bvAt w 20 12))
  | _ => .error .reservedFunction

/-- Decodes the group of major opcode 0x1B (R93 to R98). -/
noncomputable def decodeJal (w : Nat) : Except Reject Instr :=
  checked (.jal (finAt w 7 5) (bvAt w 12 20))

/-- Decodes the group of major opcode 0x1C (R93 to R98). -/
noncomputable def decodeJalr (w : Nat) : Except Reject Instr :=
  checked (.jalr (finAt w 7 5) (finAt w 12 5) (bvAt w 18 14) (bitAt w 17))

/-- Decodes the group of major opcode 0x1D (R93 to R98). -/
noncomputable def decodeLoop (w : Nat) : Except Reject Instr :=
  match bitsAt w 24 8 with
  | 0 => if bitsAt w 17 5 = 0 then checked (.nest (finAt w 7 5) (finAt w 12 5) (bitAt w 22) (bitAt w 23))
    else .error .unusedField
  | 1 => if bitsAt w 12 10 = 0 then checked (.next (finAt w 7 5) (bitAt w 22) (bitAt w 23))
    else .error .unusedField
  | _ => .error .reservedFunction

/-- Decodes the group of major opcode 0x1E (R93 to R98). -/
noncomputable def decodeTask (w : Nat) : Except Reject Instr :=
  match bitsAt w 24 8 with
  | 0 => checked (.fork (finAt w 7 5) (finAt w 12 5) (finAt w 17 5) (bitAt w 22) (bitAt w 23))
  | 1 => checked (.join (finAt w 7 5) (finAt w 12 5) (finAt w 17 5) (bitAt w 22) (bitAt w 23))
  | 2 => if bitsAt w 7 5 = 0 then checked (.jdone (finAt w 12 5) (finAt w 17 5) (bitAt w 22) (bitAt w 23))
    else .error .unusedField
  | 3 => checked (.spawn (finAt w 7 5) (finAt w 12 5) (finAt w 17 5) (bitAt w 22) (bitAt w 23))
  | 4 => if bitsAt w 7 15 = 0 then checked (.quit (bitAt w 22) (bitAt w 23))
    else .error .unusedField
  | 5 => if bitsAt w 7 15 = 0 then checked (.beat (bitAt w 22) (bitAt w 23))
    else .error .unusedField
  | 6 => if bitsAt w 7 15 = 0 then checked (.ifence (bitAt w 22) (bitAt w 23))
    else .error .unusedField
  | _ => .error .reservedFunction

/-- Decodes the group of major opcode 0x1F (R93 to R98). -/
noncomputable def decodeSys (w : Nat) : Except Reject Instr :=
  match bitsAt w 17 3 with
  | 0 => if bitsAt w 12 5 = 0 then checked (.mfc (finAt w 7 5) (bvAt w 20 12))
    else .error .unusedField
  | 1 => if bitsAt w 7 5 = 0 ∧ bitsAt w 20 12 = 0 then checked (.mtcStatus (finAt w 12 5))
    else if bitsAt w 7 5 = 0 ∧ bitsAt w 20 12 = 2 then checked (.mtcLive (finAt w 12 5))
    else if bitsAt w 7 5 = 0 ∧ bitsAt w 20 12 = 3 then checked (.mtcSeed (finAt w 12 5))
    else if bitsAt w 7 5 = 0 ∧ bitsAt w 20 12 = 80 then checked (.mtcDeftrapvec (finAt w 12 5))
    else if bitsAt w 7 5 = 0 ∧ bitsAt w 20 12 = 81 then checked (.mtcHtbase (finAt w 12 5))
    else if bitsAt w 7 5 = 0 ∧ bitsAt w 20 12 = 83 then checked (.mtcFqbase (finAt w 12 5))
    else if bitsAt w 7 5 = 0 ∧ bitsAt w 20 12 = 97 then checked (.mtcWmdata (finAt w 12 5))
    else if bitsAt w 7 5 = 0 then checked (.mtc (finAt w 12 5) (bvAt w 20 12))
    else .error .unusedField
  | 2 => if bitsAt w 7 10 = 0 then checked (.trap (bvAt w 20 12))
    else .error .unusedField
  | 3 => if bitsAt w 7 10 = 0 then checked (.sys (bvAt w 20 12))
    else .error .unusedField
  | 4 => if bitsAt w 7 10 = 0 ∧ bitsAt w 20 12 = 0 then checked .eret
    else .error .unusedField
  | _ => .error .reservedFunction

/-- Decodes the group of major opcode 0x20 (R93 to R98). -/
noncomputable def decodeValu (w : Nat) : Except Reject Instr :=
  match bitsAt w 24 8 with
  | 0 => checked (.vadd (finAt w 7 4) (finAt w 12 4) (finAt w 17 4) (finAt w 21 3) (bitAt w 11) (bitAt w 16))
  | 1 => checked (.vsub (finAt w 7 4) (finAt w 12 4) (finAt w 17 4) (finAt w 21 3) (bitAt w 11) (bitAt w 16))
  | 2 => checked (.vmul (finAt w 7 4) (finAt w 12 4) (finAt w 17 4) (finAt w 21 3) (bitAt w 11) (bitAt w 16))
  | 3 => checked (.vmac (finAt w 7 4) (finAt w 12 4) (finAt w 17 4) (finAt w 21 3) (bitAt w 11) (bitAt w 16))
  | 4 => checked (.vmin (finAt w 7 4) (finAt w 12 4) (finAt w 17 4) (finAt w 21 3) (bitAt w 11) (bitAt w 16))
  | 5 => checked (.vmax (finAt w 7 4) (finAt w 12 4) (finAt w 17 4) (finAt w 21 3) (bitAt w 11) (bitAt w 16))
  | 6 => checked (.vand (finAt w 7 4) (finAt w 12 4) (finAt w 17 4) (finAt w 21 3) (bitAt w 11) (bitAt w 16))
  | 7 => checked (.vor (finAt w 7 4) (finAt w 12 4) (finAt w 17 4) (finAt w 21 3) (bitAt w 11) (bitAt w 16))
  | 8 => checked (.vxor (finAt w 7 4) (finAt w 12 4) (finAt w 17 4) (finAt w 21 3) (bitAt w 11) (bitAt w 16))
  | 9 => checked (.vshLl (finAt w 7 4) (finAt w 12 4) (finAt w 17 4) (finAt w 21 3) (bitAt w 11) (bitAt w 16))
  | 10 => checked (.vshRl (finAt w 7 4) (finAt w 12 4) (finAt w 17 4) (finAt w 21 3) (bitAt w 11) (bitAt w 16))
  | 11 => checked (.vshRa (finAt w 7 4) (finAt w 12 4) (finAt w 17 4) (finAt w 21 3) (bitAt w 11) (bitAt w 16))
  | 12 => if bitsAt w 10 1 = 0 then checked (.vcmpEq (finAt w 7 3) (finAt w 12 4) (finAt w 17 4) (finAt w 21 3) (bitAt w 11) (bitAt w 16))
    else .error .unusedField
  | 13 => if bitsAt w 10 1 = 0 then checked (.vcmpLt (finAt w 7 3) (finAt w 12 4) (finAt w 17 4) (finAt w 21 3) (bitAt w 11) (bitAt w 16))
    else .error .unusedField
  | 14 => if bitsAt w 10 1 = 0 then checked (.vcmpLtu (finAt w 7 3) (finAt w 12 4) (finAt w 17 4) (finAt w 21 3) (bitAt w 11) (bitAt w 16))
    else .error .unusedField
  | 15 => if bitsAt w 11 1 = 0 ∧ bitsAt w 16 1 = 0 then checked (.vsel (finAt w 7 4) (finAt w 12 4) (finAt w 17 4) (finAt w 21 3))
    else .error .unusedField
  | 16 => checked (.vcmul (finAt w 7 4) (finAt w 12 4) (finAt w 17 4) (finAt w 21 3) (bitAt w 11) (bitAt w 16))
  | 17 => checked (.vcmac (finAt w 7 4) (finAt w 12 4) (finAt w 17 4) (finAt w 21 3) (bitAt w 11) (bitAt w 16))
  | 18 => if bitsAt w 16 5 = 0 then checked (.vredAdd (finAt w 7 4) (finAt w 12 4) (finAt w 21 3) (bitAt w 11))
    else .error .unusedField
  | 19 => if bitsAt w 16 5 = 0 then checked (.vredMin (finAt w 7 4) (finAt w 12 4) (finAt w 21 3) (bitAt w 11))
    else .error .unusedField
  | 20 => if bitsAt w 16 5 = 0 then checked (.vredMax (finAt w 7 4) (finAt w 12 4) (finAt w 21 3) (bitAt w 11))
    else .error .unusedField
  | 21 => if bitsAt w 16 5 = 0 then checked (.vredFadd (finAt w 7 4) (finAt w 12 4) (finAt w 21 3) (bitAt w 11))
    else .error .unusedField
  | 22 => checked (.vperm (finAt w 7 4) (finAt w 12 4) (finAt w 17 4) (finAt w 21 3) (bitAt w 11) (bitAt w 16))
  | 23 => if bitsAt w 11 1 = 0 ∧ bitsAt w 16 8 = 4 then checked (.vmvX (finAt w 7 4) (finAt w 12 4))
    else if bitsAt w 17 4 = 0 then checked (.vmv (finAt w 7 4) (finAt w 12 4) (finAt w 21 3) (bitAt w 11) (bitAt w 16))
    else if bitsAt w 17 4 = 1 then checked (.vmvBc (finAt w 7 4) (finAt w 12 4) (finAt w 21 3) (bitAt w 11) (bitAt w 16))
    else .error .unusedField
  | _ => .error .reservedFunction

/-- Decodes the group of major opcode 0x21 (R93 to R98). -/
noncomputable def decodeVfp (w : Nat) : Except Reject Instr :=
  match bitsAt w 26 6 with
  | 0 => withField (FpFmt.ofCode (bitsAt w 24 2)) fun xf => checked (.vfadd (finAt w 7 4) (finAt w 12 4) (finAt w 17 4) (finAt w 21 3) (bitAt w 11) (bitAt w 16) xf)
  | 1 => withField (FpFmt.ofCode (bitsAt w 24 2)) fun xf => checked (.vfmul (finAt w 7 4) (finAt w 12 4) (finAt w 17 4) (finAt w 21 3) (bitAt w 11) (bitAt w 16) xf)
  | 2 => withField (FpFmt.ofCode (bitsAt w 24 2)) fun xf => checked (.vfma (finAt w 7 4) (finAt w 12 4) (finAt w 17 4) (finAt w 21 3) (bitAt w 11) (bitAt w 16) xf)
  | 3 => withField (FpFmt.ofCode (bitsAt w 24 2)) fun xf => checked (.vfmin (finAt w 7 4) (finAt w 12 4) (finAt w 17 4) (finAt w 21 3) (bitAt w 11) (bitAt w 16) xf)
  | 4 => withField (FpFmt.ofCode (bitsAt w 24 2)) fun xf => checked (.vfmax (finAt w 7 4) (finAt w 12 4) (finAt w 17 4) (finAt w 21 3) (bitAt w 11) (bitAt w 16) xf)
  | 16 => if bitsAt w 17 4 = 0 then withField (vcvtCode (bitsAt w 24 4)) fun xc => checked (.vcvt (finAt w 7 4) (finAt w 12 4) xc (finAt w 21 3) (bitAt w 11) (bitAt w 16))
    else .error .unusedField
  | 17 => if bitsAt w 17 4 = 0 then withField (vcvtCode (bitsAt w 24 4)) fun xc => checked (.vcvt (finAt w 7 4) (finAt w 12 4) xc (finAt w 21 3) (bitAt w 11) (bitAt w 16))
    else .error .unusedField
  | 18 => if bitsAt w 17 4 = 0 then withField (vcvtCode (bitsAt w 24 4)) fun xc => checked (.vcvt (finAt w 7 4) (finAt w 12 4) xc (finAt w 21 3) (bitAt w 11) (bitAt w 16))
    else .error .unusedField
  | _ => .error .reservedFunction

/-- Decodes the group of major opcode 0x22 (R93 to R98). -/
noncomputable def decodeVmem (w : Nat) : Except Reject Instr :=
  match bitsAt w 24 3 with
  | 0 => if bitsAt w 11 1 = 0 ∧ bitsAt w 17 5 = 0 then checked (.vld (finAt w 7 4) (finAt w 12 5) (finAt w 28 3) (bitAt w 27) (bitAt w 31) (bitAt w 22) (bitAt w 23))
    else .error .unusedField
  | 1 => if bitsAt w 11 1 = 0 ∧ bitsAt w 17 5 = 0 ∧ bitsAt w 31 1 = 0 then checked (.vst (finAt w 7 4) (finAt w 12 5) (finAt w 28 3) (bitAt w 27) (bitAt w 22) (bitAt w 23))
    else .error .unusedField
  | 2 => if bitsAt w 11 1 = 0 then checked (.vlds (finAt w 7 4) (finAt w 12 5) (finAt w 17 5) (finAt w 28 3) (bitAt w 27) (bitAt w 31) (bitAt w 22) (bitAt w 23))
    else .error .unusedField
  | 3 => if bitsAt w 11 1 = 0 ∧ bitsAt w 21 1 = 0 then checked (.vldx (finAt w 7 4) (finAt w 12 5) (finAt w 17 4) (finAt w 28 3) (bitAt w 27) (bitAt w 31) (bitAt w 22) (bitAt w 23))
    else .error .unusedField
  | 4 => if bitsAt w 11 1 = 0 ∧ bitsAt w 21 1 = 0 ∧ bitsAt w 31 1 = 0 then checked (.vstx (finAt w 7 4) (finAt w 12 5) (finAt w 17 4) (finAt w 28 3) (bitAt w 27) (bitAt w 22) (bitAt w 23))
    else .error .unusedField
  | _ => .error .reservedFunction

/-- Decodes the group of major opcode 0x23 (R93 to R98). -/
noncomputable def decodeVctl (w : Nat) : Except Reject Instr :=
  match bitsAt w 24 8 with
  | 0 => checked (.vclaim (finAt w 7 5) (finAt w 12 5) (finAt w 17 5) (bitAt w 22) (bitAt w 23))
  | 1 => if bitsAt w 7 15 = 0 then checked (.vrel (bitAt w 22) (bitAt w 23))
    else .error .unusedField
  | 2 => checked (.vsync (finAt w 7 5) (finAt w 12 5) (finAt w 17 5) (bitAt w 22) (bitAt w 23))
  | 3 => if bitsAt w 10 2 = 0 ∧ bitsAt w 15 2 = 0 ∧ bitsAt w 20 2 = 0 then checked (.mand (finAt w 7 3) (finAt w 12 3) (finAt w 17 3) (bitAt w 22) (bitAt w 23))
    else .error .unusedField
  | 4 => if bitsAt w 10 2 = 0 ∧ bitsAt w 15 2 = 0 ∧ bitsAt w 20 2 = 0 then checked (.mor (finAt w 7 3) (finAt w 12 3) (finAt w 17 3) (bitAt w 22) (bitAt w 23))
    else .error .unusedField
  | 5 => if bitsAt w 10 2 = 0 ∧ bitsAt w 15 7 = 0 then checked (.mnot (finAt w 7 3) (finAt w 12 3) (bitAt w 22) (bitAt w 23))
    else .error .unusedField
  | _ => .error .reservedFunction

/-- Decodes the group of major opcode 0x24 (R93 to R98). -/
noncomputable def decodeVsfu (w : Nat) : Except Reject Instr :=
  match bitsAt w 24 8 with
  | 0 => if bitsAt w 17 4 = 0 then checked (.vsfuExp2 (finAt w 7 4) (finAt w 12 4) (finAt w 21 3) (bitAt w 11) (bitAt w 16))
    else .error .unusedField
  | 1 => if bitsAt w 17 4 = 0 then checked (.vsfuLog2 (finAt w 7 4) (finAt w 12 4) (finAt w 21 3) (bitAt w 11) (bitAt w 16))
    else .error .unusedField
  | 2 => if bitsAt w 17 4 = 0 then checked (.vsfuRcp (finAt w 7 4) (finAt w 12 4) (finAt w 21 3) (bitAt w 11) (bitAt w 16))
    else .error .unusedField
  | 3 => if bitsAt w 17 4 = 0 then checked (.vsfuRsqrt (finAt w 7 4) (finAt w 12 4) (finAt w 21 3) (bitAt w 11) (bitAt w 16))
    else .error .unusedField
  | 4 => if bitsAt w 17 4 = 0 then checked (.vsfuSin (finAt w 7 4) (finAt w 12 4) (finAt w 21 3) (bitAt w 11) (bitAt w 16))
    else .error .unusedField
  | 5 => if bitsAt w 17 4 = 0 then checked (.vsfuCos (finAt w 7 4) (finAt w 12 4) (finAt w 21 3) (bitAt w 11) (bitAt w 16))
    else .error .unusedField
  | 6 => if bitsAt w 17 4 = 0 then checked (.vsfuTanh (finAt w 7 4) (finAt w 12 4) (finAt w 21 3) (bitAt w 11) (bitAt w 16))
    else .error .unusedField
  | 7 => if bitsAt w 17 4 = 0 then checked (.vsfuSigmoid (finAt w 7 4) (finAt w 12 4) (finAt w 21 3) (bitAt w 11) (bitAt w 16))
    else .error .unusedField
  | 8 => if bitsAt w 11 1 = 0 ∧ bitsAt w 21 3 = 0 then checked (.vbflyR2 (finAt w 7 4) (finAt w 12 4) (finAt w 17 4) (bitAt w 16))
    else .error .unusedField
  | 9 => if bitsAt w 11 1 = 0 ∧ bitsAt w 21 3 = 0 then checked (.vbflyR4 (finAt w 7 4) (finAt w 12 4) (finAt w 17 4) (bitAt w 16))
    else .error .unusedField
  | _ => .error .reservedFunction

/-- Decodes the group of major opcode 0x25 (R93 to R98). -/
noncomputable def decodeRack (w : Nat) : Except Reject Instr :=
  match bitsAt w 24 8 with
  | 0 => if bitsAt w 17 7 = 0 then checked (.rack (finAt w 7 5) (finAt w 12 5))
    else .error .unusedField
  | 1 => if bitsAt w 22 2 = 0 then checked (.rackv (finAt w 7 5) (finAt w 12 5) (finAt w 17 5))
    else .error .unusedField
  | 2 => if bitsAt w 7 17 = 0 then checked .rfenceEngine
    else if bitsAt w 7 17 = 32768 then checked .rfencePartition
    else .error .unusedField
  | 3 => if bitsAt w 17 7 = 0 then checked (.qfence (finAt w 7 5) (finAt w 12 5))
    else .error .unusedField
  | 4 => if bitsAt w 17 7 = 0 then checked (.qwait (finAt w 7 5) (finAt w 12 5))
    else .error .unusedField
  | 5 => if bitsAt w 17 7 = 0 then checked (.rstat (finAt w 7 5) (finAt w 12 5))
    else .error .unusedField
  | 6 => if bitsAt w 17 7 = 0 then checked (.collAllreduce (finAt w 7 5) (finAt w 12 5))
    else if bitsAt w 17 7 = 32 then checked (.collAllgather (finAt w 7 5) (finAt w 12 5))
    else if bitsAt w 17 7 = 64 then checked (.collReducescatter (finAt w 7 5) (finAt w 12 5))
    else .error .unusedField
  | _ => .error .reservedFunction

/-- Decodes the group of major opcode 0x26 (R93 to R98). -/
noncomputable def decodePress (w : Nat) : Except Reject Instr :=
  match bitsAt w 24 8 with
  | 0 => if bitsAt w 17 7 = 0 then checked (.pmm (finAt w 7 5) (finAt w 12 5))
    else .error .unusedField
  | 1 => if bitsAt w 17 7 = 0 then checked (.pzero (finAt w 7 5) (finAt w 12 5))
    else .error .unusedField
  | 2 => if bitsAt w 17 7 = 0 then checked (.pwait (finAt w 7 5) (finAt w 12 5))
    else .error .unusedField
  | 3 => if bitsAt w 17 7 = 0 then checked (.pprog (finAt w 7 5) (finAt w 12 5))
    else .error .unusedField
  | _ => .error .reservedFunction

/-- Decodes the group of major opcode 0x27 (R93 to R98). -/
noncomputable def decodeDir (w : Nat) : Except Reject Instr :=
  match bitsAt w 24 8 with
  | 0 => if bitsAt w 17 7 = 0 then checked (.tdirPut (finAt w 7 5) (finAt w 12 5))
    else if bitsAt w 17 7 = 32 then checked (.tdirDel (finAt w 7 5) (finAt w 12 5))
    else .error .unusedField
  | 1 => if bitsAt w 22 2 = 0 then checked (.tmove (finAt w 7 5) (finAt w 12 5) (finAt w 17 5))
    else .error .unusedField
  | 2 => if bitsAt w 22 2 = 0 then checked (.solicitSum (finAt w 7 5) (finAt w 12 5) (finAt w 17 5))
    else .error .unusedField
  | 3 => if bitsAt w 22 2 = 0 then checked (.solicitMin (finAt w 7 5) (finAt w 12 5) (finAt w 17 5))
    else .error .unusedField
  | 4 => if bitsAt w 22 2 = 0 then checked (.solicitMax (finAt w 7 5) (finAt w 12 5) (finAt w 17 5))
    else .error .unusedField
  | 5 => if bitsAt w 22 2 = 0 then checked (.solicitOr (finAt w 7 5) (finAt w 12 5) (finAt w 17 5))
    else .error .unusedField
  | 6 => if bitsAt w 22 2 = 0 then checked (.solicitCount (finAt w 7 5) (finAt w 12 5) (finAt w 17 5))
    else .error .unusedField
  | 7 => if bitsAt w 7 5 = 0 ∧ bitsAt w 17 7 = 0 then checked (.answer (finAt w 12 5))
    else .error .unusedField
  | 8 => if bitsAt w 12 12 = 0 then checked (.cwait (finAt w 7 5))
    else .error .unusedField
  | _ => .error .reservedFunction

/-- Decodes the group of major opcode 0x28 (R93 to R98). -/
noncomputable def decodeLabelGroup (w : Nat) : Except Reject Instr :=
  match bitsAt w 24 8 with
  | 0 => if bitsAt w 12 10 = 96 then checked (.lblS (finAt w 7 5) (bitAt w 22) (bitAt w 23))
    else if bitsAt w 15 7 = 8 then checked (.lblM (finAt w 7 5) (finAt w 12 3) (bitAt w 22) (bitAt w 23))
    else if bitsAt w 16 6 = 2 then checked (.lblV (finAt w 7 5) (finAt w 12 4) (bitAt w 22) (bitAt w 23))
    else if bitsAt w 17 5 = 0 then checked (.lbl (finAt w 7 5) (finAt w 12 5) (bitAt w 22) (bitAt w 23))
    else .error .unusedField
  | 1 => if bitsAt w 17 5 = 0 then checked (.sluice (finAt w 7 5) (finAt w 12 5) (bitAt w 22) (bitAt w 23))
    else .error .unusedField
  | _ => .error .reservedFunction

/-- Decodes the group of major opcode 0x29 (R93 to R98). -/
noncomputable def decodeLaunch (w : Nat) : Except Reject Instr :=
  match bitsAt w 24 8 with
  | 0 => if bitsAt w 17 7 = 0 then checked (.launch (finAt w 7 5) (finAt w 12 5))
    else .error .unusedField
  | 1 => checked (.invoke (finAt w 7 5) (finAt w 12 5) (finAt w 17 5) (finAt w 22 2))
  | _ => .error .reservedFunction

/-- Decodes a 32-bit word by its major opcode, bits [6:1] (R93). -/
noncomputable def decodeWord (w : Nat) : Except Reject Instr :=
  match bitsAt w 1 6 with
  | 0 => decodeAluR w
  | 1 => decodeAddi w
  | 2 => decodeAndi w
  | 3 => decodeOri w
  | 4 => decodeXori w
  | 5 => decodeShiftImm w
  | 6 => decodeSlti w
  | 7 => decodeSltiu w
  | 8 => decodeLui w
  | 9 => decodeAddpc w
  | 10 => decodeMulDiv w
  | 11 => decodePsimd w
  | 12 => decodeCplx w
  | 13 => decodeBitf w
  | 14 => decodeFp w
  | 15 => decodeCvt w
  | 16 => decodeLd w
  | 17 => decodeSt w
  | 18 => decodeBurst w
  | 19 => decodeSyncMem w
  | 20 => decodeAmo w
  | 21 => decodeRed w
  | 22 => decodeCas w
  | 23 => decodeWait w
  | 24 => decodeFence w
  | 25 => decodeMigr w
  | 26 => decodeBranch w
  | 27 => decodeJal w
  | 28 => decodeJalr w
  | 29 => decodeLoop w
  | 30 => decodeTask w
  | 31 => decodeSys w
  | 32 => decodeValu w
  | 33 => decodeVfp w
  | 34 => decodeVmem w
  | 35 => decodeVctl w
  | 36 => decodeVsfu w
  | 37 => decodeRack w
  | 38 => decodePress w
  | 39 => decodeDir w
  | 40 => decodeLabelGroup w
  | 41 => decodeLaunch w
  | _ => .error .reservedMajor

/-- Decodes a compact halfword with V = 0 by op4, bits [4:1] (R92). -/
noncomputable def decodeCompactScalar (w : Nat) : Except Reject Instr :=
  match bitsAt w 1 4 with
  | 0 => checked (.cAdd (finAt w 5 5) (finAt w 10 5))
  | 1 => checked (.cSub (finAt w 5 5) (finAt w 10 5))
  | 2 => checked (.cAnd (finAt w 5 5) (finAt w 10 5))
  | 3 => checked (.cOr (finAt w 5 5) (finAt w 10 5))
  | 4 => checked (.cXor (finAt w 5 5) (finAt w 10 5))
  | 5 => checked (.cSll (finAt w 5 5) (finAt w 10 5))
  | 6 => checked (.cSrl (finAt w 5 5) (finAt w 10 5))
  | 7 => checked (.cSra (finAt w 5 5) (finAt w 10 5))
  | 8 => checked (.cMul (finAt w 5 5) (finAt w 10 5))
  | 9 => checked (.cMin (finAt w 5 5) (finAt w 10 5))
  | 10 => checked (.cMax (finAt w 5 5) (finAt w 10 5))
  | 11 => checked (.mv (finAt w 5 5) (finAt w 10 5))
  | 12 => checked (.cAddi (finAt w 5 5) (bvAt w 10 5))
  | 13 => checked (.cCmac (finAt w 5 5) (finAt w 10 5))
  | 14 => checked (.cFadd (finAt w 5 5) (finAt w 10 5))
  | _ => checked (.cFmul (finAt w 5 5) (finAt w 10 5))

/-- Decodes a compact halfword with V = 1 by op4, bits [4:1] (R92). -/
noncomputable def decodeCompactVector (w : Nat) : Except Reject Instr :=
  match bitsAt w 1 4 with
  | 0 => if bitsAt w 9 1 = 0 ∧ bitsAt w 14 1 = 0 then checked (.cvAdd (finAt w 5 4) (finAt w 10 4))
    else .error .unusedField
  | 1 => if bitsAt w 9 1 = 0 ∧ bitsAt w 14 1 = 0 then checked (.cvSub (finAt w 5 4) (finAt w 10 4))
    else .error .unusedField
  | 2 => if bitsAt w 9 1 = 0 ∧ bitsAt w 14 1 = 0 then checked (.cvAnd (finAt w 5 4) (finAt w 10 4))
    else .error .unusedField
  | 3 => if bitsAt w 9 1 = 0 ∧ bitsAt w 14 1 = 0 then checked (.cvOr (finAt w 5 4) (finAt w 10 4))
    else .error .unusedField
  | 4 => if bitsAt w 9 1 = 0 ∧ bitsAt w 14 1 = 0 then checked (.cvXor (finAt w 5 4) (finAt w 10 4))
    else .error .unusedField
  | 5 => if bitsAt w 9 1 = 0 ∧ bitsAt w 14 1 = 0 then checked (.cvSll (finAt w 5 4) (finAt w 10 4))
    else .error .unusedField
  | 6 => if bitsAt w 9 1 = 0 ∧ bitsAt w 14 1 = 0 then checked (.cvSrl (finAt w 5 4) (finAt w 10 4))
    else .error .unusedField
  | 7 => if bitsAt w 9 1 = 0 ∧ bitsAt w 14 1 = 0 then checked (.cvSra (finAt w 5 4) (finAt w 10 4))
    else .error .unusedField
  | 8 => if bitsAt w 9 1 = 0 ∧ bitsAt w 14 1 = 0 then checked (.cvMul (finAt w 5 4) (finAt w 10 4))
    else .error .unusedField
  | 9 => if bitsAt w 9 1 = 0 ∧ bitsAt w 14 1 = 0 then checked (.cvMin (finAt w 5 4) (finAt w 10 4))
    else .error .unusedField
  | 10 => if bitsAt w 9 1 = 0 ∧ bitsAt w 14 1 = 0 then checked (.cvMax (finAt w 5 4) (finAt w 10 4))
    else .error .unusedField
  | 11 => if bitsAt w 9 1 = 0 ∧ bitsAt w 14 1 = 0 then checked (.cvMv (finAt w 5 4) (finAt w 10 4))
    else .error .unusedField
  | 12 => if bitsAt w 9 1 = 0 then checked (.cvAddi (finAt w 5 4) (bvAt w 10 5))
    else .error .unusedField
  | 13 => if bitsAt w 9 1 = 0 ∧ bitsAt w 14 1 = 0 then checked (.cvCmac (finAt w 5 4) (finAt w 10 4))
    else .error .unusedField
  | 14 => if bitsAt w 9 1 = 0 ∧ bitsAt w 14 1 = 0 then checked (.cvFadd (finAt w 5 4) (finAt w 10 4))
    else .error .unusedField
  | _ => if bitsAt w 9 1 = 0 ∧ bitsAt w 14 1 = 0 then checked (.cvFmul (finAt w 5 4) (finAt w 10 4))
    else .error .unusedField

/-- Decodes a compact halfword (R92). -/
noncomputable def decodeHalf (w : Nat) : Except Reject Instr :=
  if bitsAt w 15 1 = 1 then decodeCompactVector w else decodeCompactScalar w

/-- The instruction whose first halfword is h0 and, when that has bit 0 set, whose second is h1 (R89). -/
noncomputable def decodeHalves (h0 h1 : Nat) : Except Reject Instr :=
  if h0 % 2 = 0 then decodeHalf (h0 % 65536) else decodeWord (h0 % 65536 + h1 % 65536 * 65536)

/-- The instruction at the head of a list of bytes, and the bytes after it (R89). -/
noncomputable def decodeBytes : List Byte → Except Reject (Instr × List Byte)
  | b0 :: b1 :: rest =>
    let h0 := b0.toNat + b1.toNat * 256
    if h0 % 2 = 0 then (decodeHalf h0).map fun i => (i, rest)
    else
      match rest with
      | b2 :: b3 :: rest' => (decodeWord (h0 + (b2.toNat + b3.toNat * 256) * 65536)).map fun i => (i, rest')
      | _ => .error .truncated
  | _ => .error .truncated

/-- The bytes of n little-endian bytes of a number (R6). -/
def natBytes : Nat → Nat → List Byte
  | 0, _ => []
  | n + 1, w => BitVec.ofNat 8 w :: natBytes n (w / 256)

/-- What the decoder reads from an instruction whose bits are w, laid out as code bytes (R89). -/
noncomputable def decodeTableWord (nbits w : Nat) : Option Instr :=
  match decodeBytes (natBytes 4 (w % 2 ^ nbits)) with
  | .ok (i, _) => some i
  | .error _ => none

/-- Puts fields, given as width and value from the least significant up, into one number. -/
def pack : List (Nat × Nat) → Nat
  | [] => 0
  | (n, v) :: fs => v % 2 ^ n + 2 ^ n * pack fs

/-- The length of an instruction in bits (R89). -/
def Instr.bits (i : Instr) : Nat :=
  match i with
  | .add _ _ _ _ _ => 32
  | .sub _ _ _ _ _ => 32
  | .and _ _ _ _ _ => 32
  | .or _ _ _ _ _ => 32
  | .xor _ _ _ _ _ => 32
  | .sll _ _ _ _ _ => 32
  | .srl _ _ _ _ _ => 32
  | .sra _ _ _ _ _ => 32
  | .rot _ _ _ _ _ => 32
  | .min _ _ _ _ _ => 32
  | .max _ _ _ _ _ => 32
  | .minu _ _ _ _ _ => 32
  | .maxu _ _ _ _ _ => 32
  | .slt _ _ _ _ _ => 32
  | .sltu _ _ _ _ _ => 32
  | .seq _ _ _ _ _ => 32
  | .sel _ _ _ _ _ => 32
  | .extSB _ _ _ _ => 32
  | .extSH _ _ _ _ => 32
  | .extSW _ _ _ _ => 32
  | .extZB _ _ _ _ => 32
  | .extZH _ _ _ _ => 32
  | .extZW _ _ _ _ => 32
  | .addi _ _ _ _ => 32
  | .andi _ _ _ _ => 32
  | .ori _ _ _ _ => 32
  | .xori _ _ _ _ => 32
  | .slti _ _ _ _ => 32
  | .sltiu _ _ _ _ => 32
  | .slli _ _ _ _ => 32
  | .srli _ _ _ _ => 32
  | .srai _ _ _ _ => 32
  | .roti _ _ _ _ => 32
  | .lui _ _ => 32
  | .addpc _ _ => 32
  | .mul _ _ _ _ _ => 32
  | .mulh _ _ _ _ _ => 32
  | .mulhu _ _ _ _ _ => 32
  | .div _ _ _ _ _ => 32
  | .divu _ _ _ _ _ => 32
  | .rem _ _ _ _ _ => 32
  | .remu _ _ _ _ _ => 32
  | .padd _ _ _ _ _ _ => 32
  | .paddSs _ _ _ _ _ _ => 32
  | .paddUs _ _ _ _ _ _ => 32
  | .psub _ _ _ _ _ _ => 32
  | .psubSs _ _ _ _ _ _ => 32
  | .psubUs _ _ _ _ _ _ => 32
  | .pmul _ _ _ _ _ _ => 32
  | .pmulSs _ _ _ _ _ _ => 32
  | .pmin _ _ _ _ _ _ => 32
  | .pminU _ _ _ _ _ _ => 32
  | .pmax _ _ _ _ _ _ => 32
  | .pmaxU _ _ _ _ _ _ => 32
  | .pshLl _ _ _ _ _ _ => 32
  | .pshRl _ _ _ _ _ _ => 32
  | .pshRa _ _ _ _ _ _ => 32
  | .pcmpEq _ _ _ _ _ _ => 32
  | .pcmpLt _ _ _ _ _ _ => 32
  | .pcmpLtu _ _ _ _ _ _ => 32
  | .pabsd _ _ _ _ _ _ => 32
  | .ppack _ _ _ _ _ _ => 32
  | .ppackSs _ _ _ _ _ _ => 32
  | .ppackUs _ _ _ _ _ _ => 32
  | .cmul _ _ _ _ _ => 32
  | .cmac _ _ _ _ _ => 32
  | .cmacj _ _ _ _ _ => 32
  | .cabs2 _ _ _ _ => 32
  | .mulq _ _ _ _ _ => 32
  | .sat _ _ _ _ _ => 32
  | .satu _ _ _ _ _ => 32
  | .clz _ _ _ _ => 32
  | .ctz _ _ _ _ => 32
  | .popc _ _ _ _ => 32
  | .bswap _ _ _ _ => 32
  | .bext _ _ _ _ _ => 32
  | .bextu _ _ _ _ _ => 32
  | .bins _ _ _ _ _ => 32
  | .fadd _ _ _ _ _ _ => 32
  | .fsub _ _ _ _ _ _ => 32
  | .fmul _ _ _ _ _ _ => 32
  | .fma _ _ _ _ _ _ => 32
  | .fdiv _ _ _ _ _ _ => 32
  | .fsqrt _ _ _ _ _ => 32
  | .fmin _ _ _ _ _ _ => 32
  | .fmax _ _ _ _ _ _ => 32
  | .fcmpEq _ _ _ _ _ _ => 32
  | .fcmpLt _ _ _ _ _ _ => 32
  | .fcmpLe _ _ _ _ _ _ => 32
  | .fclass _ _ _ _ _ => 32
  | .rnd _ _ _ _ _ _ => 32
  | .rseed _ _ _ _ => 32
  | .cvt _ _ _ _ _ _ _ => 32
  | .ld _ _ _ _ _ _ _ => 32
  | .st _ _ _ _ _ _ => 32
  | .ldm _ _ _ _ _ _ _ => 32
  | .stm _ _ _ _ _ _ _ => 32
  | .ldfe _ _ _ _ _ => 32
  | .ldff _ _ _ _ _ => 32
  | .stfe _ _ _ _ _ => 32
  | .stff _ _ _ _ _ => 32
  | .tagr _ _ _ _ _ => 32
  | .tagw _ _ _ _ _ => 32
  | .setvat _ _ _ _ => 32
  | .amoAdd _ _ _ _ _ _ _ _ => 32
  | .amoAnd _ _ _ _ _ _ _ _ => 32
  | .amoOr _ _ _ _ _ _ _ _ => 32
  | .amoXor _ _ _ _ _ _ _ _ => 32
  | .amoMin _ _ _ _ _ _ _ _ => 32
  | .amoMax _ _ _ _ _ _ _ _ => 32
  | .amoMinu _ _ _ _ _ _ _ _ => 32
  | .amoMaxu _ _ _ _ _ _ _ _ => 32
  | .amoSwap _ _ _ _ _ _ _ _ => 32
  | .amoFadd32 _ _ _ _ _ _ _ => 32
  | .redAdd _ _ _ _ _ _ _ => 32
  | .redAnd _ _ _ _ _ _ _ => 32
  | .redOr _ _ _ _ _ _ _ => 32
  | .redXor _ _ _ _ _ _ _ => 32
  | .redMin _ _ _ _ _ _ _ => 32
  | .redMax _ _ _ _ _ _ _ => 32
  | .redMinu _ _ _ _ _ _ _ => 32
  | .redMaxu _ _ _ _ _ _ _ => 32
  | .redSwap _ _ _ _ _ _ _ => 32
  | .redFadd32 _ _ _ _ _ _ => 32
  | .cas _ _ _ _ _ _ _ => 32
  | .cas2 _ _ _ _ _ _ _ => 32
  | .park _ _ _ _ _ => 32
  | .wake _ _ _ _ => 32
  | .sleep _ _ _ _ => 32
  | .bar _ _ _ _ => 32
  | .barw _ _ _ _ _ => 32
  | .fencePan _ _ => 32
  | .fenceTenant _ _ => 32
  | .fenceSystem _ _ => 32
  | .fenceGlobal _ _ => 32
  | .hop _ _ _ => 32
  | .live _ _ _ _ => 32
  | .tlbinvTrellis _ _ _ _ => 32
  | .tlbinvPan _ _ _ _ => 32
  | .tlbinvPartition _ _ _ _ => 32
  | .tlbinvPackage _ _ _ _ => 32
  | .beq _ _ _ => 32
  | .bne _ _ _ => 32
  | .blt _ _ _ => 32
  | .bge _ _ _ => 32
  | .bltu _ _ _ => 32
  | .bgeu _ _ _ => 32
  | .jal _ _ => 32
  | .jalr _ _ _ _ => 32
  | .nest _ _ _ _ => 32
  | .next _ _ _ => 32
  | .fork _ _ _ _ _ => 32
  | .join _ _ _ _ _ => 32
  | .jdone _ _ _ _ => 32
  | .spawn _ _ _ _ _ => 32
  | .quit _ _ => 32
  | .beat _ _ => 32
  | .ifence _ _ => 32
  | .mfc _ _ => 32
  | .mtc _ _ => 32
  | .mtcStatus _ => 32
  | .mtcLive _ => 32
  | .mtcSeed _ => 32
  | .mtcDeftrapvec _ => 32
  | .mtcHtbase _ => 32
  | .mtcFqbase _ => 32
  | .mtcWmdata _ => 32
  | .trap _ => 32
  | .sys _ => 32
  | .eret => 32
  | .vadd _ _ _ _ _ _ => 32
  | .vsub _ _ _ _ _ _ => 32
  | .vmul _ _ _ _ _ _ => 32
  | .vmac _ _ _ _ _ _ => 32
  | .vmin _ _ _ _ _ _ => 32
  | .vmax _ _ _ _ _ _ => 32
  | .vand _ _ _ _ _ _ => 32
  | .vor _ _ _ _ _ _ => 32
  | .vxor _ _ _ _ _ _ => 32
  | .vshLl _ _ _ _ _ _ => 32
  | .vshRl _ _ _ _ _ _ => 32
  | .vshRa _ _ _ _ _ _ => 32
  | .vcmpEq _ _ _ _ _ _ => 32
  | .vcmpLt _ _ _ _ _ _ => 32
  | .vcmpLtu _ _ _ _ _ _ => 32
  | .vsel _ _ _ _ => 32
  | .vcmul _ _ _ _ _ _ => 32
  | .vcmac _ _ _ _ _ _ => 32
  | .vredAdd _ _ _ _ => 32
  | .vredMin _ _ _ _ => 32
  | .vredMax _ _ _ _ => 32
  | .vredFadd _ _ _ _ => 32
  | .vperm _ _ _ _ _ _ => 32
  | .vmv _ _ _ _ _ => 32
  | .vmvBc _ _ _ _ _ => 32
  | .vmvX _ _ => 32
  | .vfadd _ _ _ _ _ _ _ => 32
  | .vfmul _ _ _ _ _ _ _ => 32
  | .vfma _ _ _ _ _ _ _ => 32
  | .vfmin _ _ _ _ _ _ _ => 32
  | .vfmax _ _ _ _ _ _ _ => 32
  | .vcvt _ _ _ _ _ _ => 32
  | .vld _ _ _ _ _ _ _ => 32
  | .vst _ _ _ _ _ _ => 32
  | .vlds _ _ _ _ _ _ _ _ => 32
  | .vldx _ _ _ _ _ _ _ _ => 32
  | .vstx _ _ _ _ _ _ _ => 32
  | .vclaim _ _ _ _ _ => 32
  | .vrel _ _ => 32
  | .vsync _ _ _ _ _ => 32
  | .mand _ _ _ _ _ => 32
  | .mor _ _ _ _ _ => 32
  | .mnot _ _ _ _ => 32
  | .vsfuExp2 _ _ _ _ _ => 32
  | .vsfuLog2 _ _ _ _ _ => 32
  | .vsfuRcp _ _ _ _ _ => 32
  | .vsfuRsqrt _ _ _ _ _ => 32
  | .vsfuSin _ _ _ _ _ => 32
  | .vsfuCos _ _ _ _ _ => 32
  | .vsfuTanh _ _ _ _ _ => 32
  | .vsfuSigmoid _ _ _ _ _ => 32
  | .vbflyR2 _ _ _ _ => 32
  | .vbflyR4 _ _ _ _ => 32
  | .rack _ _ => 32
  | .rackv _ _ _ => 32
  | .rfenceEngine => 32
  | .rfencePartition => 32
  | .qfence _ _ => 32
  | .qwait _ _ => 32
  | .rstat _ _ => 32
  | .collAllreduce _ _ => 32
  | .collAllgather _ _ => 32
  | .collReducescatter _ _ => 32
  | .pmm _ _ => 32
  | .pzero _ _ => 32
  | .pwait _ _ => 32
  | .pprog _ _ => 32
  | .tdirPut _ _ => 32
  | .tdirDel _ _ => 32
  | .tmove _ _ _ => 32
  | .solicitSum _ _ _ => 32
  | .solicitMin _ _ _ => 32
  | .solicitMax _ _ _ => 32
  | .solicitOr _ _ _ => 32
  | .solicitCount _ _ _ => 32
  | .answer _ => 32
  | .cwait _ => 32
  | .lbl _ _ _ _ => 32
  | .lblV _ _ _ _ => 32
  | .lblM _ _ _ _ => 32
  | .lblS _ _ _ => 32
  | .sluice _ _ _ _ => 32
  | .launch _ _ => 32
  | .invoke _ _ _ _ => 32
  | .cAdd _ _ => 16
  | .cSub _ _ => 16
  | .cAnd _ _ => 16
  | .cOr _ _ => 16
  | .cXor _ _ => 16
  | .cSll _ _ => 16
  | .cSrl _ _ => 16
  | .cSra _ _ => 16
  | .cMul _ _ => 16
  | .cMin _ _ => 16
  | .cMax _ _ => 16
  | .mv _ _ => 16
  | .cAddi _ _ => 16
  | .cCmac _ _ => 16
  | .cFadd _ _ => 16
  | .cFmul _ _ => 16
  | .cvAdd _ _ => 16
  | .cvSub _ _ => 16
  | .cvAnd _ _ => 16
  | .cvOr _ _ => 16
  | .cvXor _ _ => 16
  | .cvSll _ _ => 16
  | .cvSrl _ _ => 16
  | .cvSra _ _ => 16
  | .cvMul _ _ => 16
  | .cvMin _ _ => 16
  | .cvMax _ _ => 16
  | .cvMv _ _ => 16
  | .cvAddi _ _ => 16
  | .cvCmac _ _ => 16
  | .cvFadd _ _ => 16
  | .cvFmul _ _ => 16
  | .asyncTrapDelivery => 0
  | .fetchLineInstall _ => 0
  | .bankArbitration _ _ => 0
  | .resultFill _ => 0
  | .migrationArrival _ => 0
  | .arrivalBufferPlace _ _ => 0
  | .migrationResend _ => 0
  | .migrationPlacedNotice _ _ => 0
  | .migrationFallback _ => 0
  | .proxiedAccess _ => 0
  | .postedWriteArrival _ => 0
  | .postedWriteAck _ => 0
  | .postedWakeArrival _ => 0
  | .translationRequest _ => 0
  | .translationWalkDone _ => 0
  | .l2FillBurst _ => 0
  | .hbmFillReturn _ => 0
  | .crossDieWriteApply _ _ => 0
  | .clockBeat => 0
  | .dclockReport _ _ => 0
  | .vclockZeroing => 0
  | .globalFenceOrdering _ => 0
  | .barrierRequest _ _ => 0
  | .parkTimeout _ _ => 0
  | .sleepTimeout _ _ => 0
  | .launchWindowSubmit _ _ _ => 0
  | .invocationArrival _ => 0
  | .launchPlacementPass _ => 0
  | .waitonPoll _ => 0
  | .priorityAging => 0
  | .completionWrite _ _ => 0
  | .msixRaise _ _ => 0
  | .handlerErrorCompletion _ _ => 0
  | .fold _ _ _ => 0
  | .ownership _ _ => 0
  | .slotHandover _ _ => 0
  | .slotScrubDone _ _ => 0
  | .pageMove _ _ _ => 0
  | .pageMoveRetire _ _ _ => 0
  | .cellarClear _ _ => 0
  | .resized _ => 0
  | .root _ _ => 0
  | .frames _ _ => 0
  | .release _ _ => 0
  | .retire _ _ => 0
  | .rackSegment _ _ => 0
  | .rackRetire _ _ => 0
  | .followOnEnqueue _ _ => 0
  | .rackWatchdog _ _ => 0
  | .collContribution _ => 0
  | .collTimeout _ _ => 0
  | .linkFailure _ => 0
  | .pressOpStart _ => 0
  | .pressKblock _ => 0
  | .pressOpRetire _ => 0
  | .pressWatchdog _ => 0
  | .tdirPerform _ _ => 0
  | .tmovePerform _ _ => 0
  | .entryLanding _ _ => 0
  | .censusRequest _ => 0
  | .censusBroadcast _ _ => 0
  | .responderStart _ => 0
  | .trellisReport _ _ => 0
  | .panNodeReport _ _ => 0
  | .landingNotice _ _ => 0
  | .censusComplete _ _ => 0
  | .policyInstall _ => 0
  | .policyRevoke _ => 0
  | .labelGrant _ => 0
  | .policyExpiry _ => 0
  | .faultQueueEvent _ _ => 0
  | .faultQueueRetry _ => 0
  | .slotTimerExpiry _ => 0
  | .heartbeatMiss _ => 0
  | .budgetPeriod => 0
  | .thermtrip _ => 0
  | .regulatorWindow => 0
  | .channelDerate _ => 0
  | .waySweep _ => 0
  | .telemetryExport _ => 0
  | .functionLevelReset _ => 0
  | .rakejob _ => 0
  | .rakeItemDone => 0
  | .rakestat _ => 0
  | .deviceReset => 0
  | .powerOn _ _ _ => 0
  | .attestationRequest _ => 0
  | .portAttestation _ => 0
  | .fabricPacketArrival _ => 0
  | .hostWrite _ _ _ => 0
  | .hostRead _ _ _ => 0
  | .signedConfigurationRecord _ => 0

/-- The word of an instruction, from the tables of R90 to R98; a step that has no bits gives 0. -/
def encode (i : Instr) : Nat :=
  match i with
  | .add d a b ta tb => pack [(1, 1), (6, 0), (5, d.val), (5, a.val), (5, b.val), (1, ta.toNat), (1, tb.toNat), (8, 0)]
  | .sub d a b ta tb => pack [(1, 1), (6, 0), (5, d.val), (5, a.val), (5, b.val), (1, ta.toNat), (1, tb.toNat), (8, 1)]
  | .and d a b ta tb => pack [(1, 1), (6, 0), (5, d.val), (5, a.val), (5, b.val), (1, ta.toNat), (1, tb.toNat), (8, 2)]
  | .or d a b ta tb => pack [(1, 1), (6, 0), (5, d.val), (5, a.val), (5, b.val), (1, ta.toNat), (1, tb.toNat), (8, 3)]
  | .xor d a b ta tb => pack [(1, 1), (6, 0), (5, d.val), (5, a.val), (5, b.val), (1, ta.toNat), (1, tb.toNat), (8, 4)]
  | .sll d a b ta tb => pack [(1, 1), (6, 0), (5, d.val), (5, a.val), (5, b.val), (1, ta.toNat), (1, tb.toNat), (8, 5)]
  | .srl d a b ta tb => pack [(1, 1), (6, 0), (5, d.val), (5, a.val), (5, b.val), (1, ta.toNat), (1, tb.toNat), (8, 6)]
  | .sra d a b ta tb => pack [(1, 1), (6, 0), (5, d.val), (5, a.val), (5, b.val), (1, ta.toNat), (1, tb.toNat), (8, 7)]
  | .rot d a b ta tb => pack [(1, 1), (6, 0), (5, d.val), (5, a.val), (5, b.val), (1, ta.toNat), (1, tb.toNat), (8, 8)]
  | .min d a b ta tb => pack [(1, 1), (6, 0), (5, d.val), (5, a.val), (5, b.val), (1, ta.toNat), (1, tb.toNat), (8, 9)]
  | .max d a b ta tb => pack [(1, 1), (6, 0), (5, d.val), (5, a.val), (5, b.val), (1, ta.toNat), (1, tb.toNat), (8, 10)]
  | .minu d a b ta tb => pack [(1, 1), (6, 0), (5, d.val), (5, a.val), (5, b.val), (1, ta.toNat), (1, tb.toNat), (8, 11)]
  | .maxu d a b ta tb => pack [(1, 1), (6, 0), (5, d.val), (5, a.val), (5, b.val), (1, ta.toNat), (1, tb.toNat), (8, 12)]
  | .slt d a b ta tb => pack [(1, 1), (6, 0), (5, d.val), (5, a.val), (5, b.val), (1, ta.toNat), (1, tb.toNat), (8, 13)]
  | .sltu d a b ta tb => pack [(1, 1), (6, 0), (5, d.val), (5, a.val), (5, b.val), (1, ta.toNat), (1, tb.toNat), (8, 14)]
  | .seq d a b ta tb => pack [(1, 1), (6, 0), (5, d.val), (5, a.val), (5, b.val), (1, ta.toNat), (1, tb.toNat), (8, 15)]
  | .sel d a b ta tb => pack [(1, 1), (6, 0), (5, d.val), (5, a.val), (5, b.val), (1, ta.toNat), (1, tb.toNat), (8, 16)]
  | .extSB d a ta tb => pack [(1, 1), (6, 0), (5, d.val), (5, a.val), (5, 0), (1, ta.toNat), (1, tb.toNat), (8, 17)]
  | .extSH d a ta tb => pack [(1, 1), (6, 0), (5, d.val), (5, a.val), (5, 0), (1, ta.toNat), (1, tb.toNat), (8, 18)]
  | .extSW d a ta tb => pack [(1, 1), (6, 0), (5, d.val), (5, a.val), (5, 0), (1, ta.toNat), (1, tb.toNat), (8, 19)]
  | .extZB d a ta tb => pack [(1, 1), (6, 0), (5, d.val), (5, a.val), (5, 0), (1, ta.toNat), (1, tb.toNat), (8, 20)]
  | .extZH d a ta tb => pack [(1, 1), (6, 0), (5, d.val), (5, a.val), (5, 0), (1, ta.toNat), (1, tb.toNat), (8, 21)]
  | .extZW d a ta tb => pack [(1, 1), (6, 0), (5, d.val), (5, a.val), (5, 0), (1, ta.toNat), (1, tb.toNat), (8, 22)]
  | .addi d a imm ta => pack [(1, 1), (6, 1), (5, d.val), (5, a.val), (1, ta.toNat), (14, imm.toNat)]
  | .andi d a imm ta => pack [(1, 1), (6, 2), (5, d.val), (5, a.val), (1, ta.toNat), (14, imm.toNat)]
  | .ori d a imm ta => pack [(1, 1), (6, 3), (5, d.val), (5, a.val), (1, ta.toNat), (14, imm.toNat)]
  | .xori d a imm ta => pack [(1, 1), (6, 4), (5, d.val), (5, a.val), (1, ta.toNat), (14, imm.toNat)]
  | .slti d a imm ta => pack [(1, 1), (6, 6), (5, d.val), (5, a.val), (1, ta.toNat), (14, imm.toNat)]
  | .sltiu d a imm ta => pack [(1, 1), (6, 7), (5, d.val), (5, a.val), (1, ta.toNat), (14, imm.toNat)]
  | .slli d a n ta => pack [(1, 1), (6, 5), (5, d.val), (5, a.val), (1, ta.toNat), (6, n.toNat), (8, 0)]
  | .srli d a n ta => pack [(1, 1), (6, 5), (5, d.val), (5, a.val), (1, ta.toNat), (6, n.toNat), (8, 1)]
  | .srai d a n ta => pack [(1, 1), (6, 5), (5, d.val), (5, a.val), (1, ta.toNat), (6, n.toNat), (8, 2)]
  | .roti d a n ta => pack [(1, 1), (6, 5), (5, d.val), (5, a.val), (1, ta.toNat), (6, n.toNat), (8, 3)]
  | .lui d imm => pack [(1, 1), (6, 8), (5, d.val), (20, imm.toNat)]
  | .addpc d imm => pack [(1, 1), (6, 9), (5, d.val), (20, imm.toNat)]
  | .mul d a b ta tb => pack [(1, 1), (6, 10), (5, d.val), (5, a.val), (5, b.val), (1, ta.toNat), (1, tb.toNat), (8, 0)]
  | .mulh d a b ta tb => pack [(1, 1), (6, 10), (5, d.val), (5, a.val), (5, b.val), (1, ta.toNat), (1, tb.toNat), (8, 1)]
  | .mulhu d a b ta tb => pack [(1, 1), (6, 10), (5, d.val), (5, a.val), (5, b.val), (1, ta.toNat), (1, tb.toNat), (8, 2)]
  | .div d a b ta tb => pack [(1, 1), (6, 10), (5, d.val), (5, a.val), (5, b.val), (1, ta.toNat), (1, tb.toNat), (8, 3)]
  | .divu d a b ta tb => pack [(1, 1), (6, 10), (5, d.val), (5, a.val), (5, b.val), (1, ta.toNat), (1, tb.toNat), (8, 4)]
  | .rem d a b ta tb => pack [(1, 1), (6, 10), (5, d.val), (5, a.val), (5, b.val), (1, ta.toNat), (1, tb.toNat), (8, 5)]
  | .remu d a b ta tb => pack [(1, 1), (6, 10), (5, d.val), (5, a.val), (5, b.val), (1, ta.toNat), (1, tb.toNat), (8, 6)]
  | .padd d a b w ta tb => pack [(1, 1), (6, 11), (5, d.val), (5, a.val), (5, b.val), (1, ta.toNat), (1, tb.toNat), (2, w.code), (6, 0)]
  | .paddSs d a b w ta tb => pack [(1, 1), (6, 11), (5, d.val), (5, a.val), (5, b.val), (1, ta.toNat), (1, tb.toNat), (2, w.code), (6, 1)]
  | .paddUs d a b w ta tb => pack [(1, 1), (6, 11), (5, d.val), (5, a.val), (5, b.val), (1, ta.toNat), (1, tb.toNat), (2, w.code), (6, 2)]
  | .psub d a b w ta tb => pack [(1, 1), (6, 11), (5, d.val), (5, a.val), (5, b.val), (1, ta.toNat), (1, tb.toNat), (2, w.code), (6, 3)]
  | .psubSs d a b w ta tb => pack [(1, 1), (6, 11), (5, d.val), (5, a.val), (5, b.val), (1, ta.toNat), (1, tb.toNat), (2, w.code), (6, 4)]
  | .psubUs d a b w ta tb => pack [(1, 1), (6, 11), (5, d.val), (5, a.val), (5, b.val), (1, ta.toNat), (1, tb.toNat), (2, w.code), (6, 5)]
  | .pmul d a b w ta tb => pack [(1, 1), (6, 11), (5, d.val), (5, a.val), (5, b.val), (1, ta.toNat), (1, tb.toNat), (2, w.code), (6, 6)]
  | .pmulSs d a b w ta tb => pack [(1, 1), (6, 11), (5, d.val), (5, a.val), (5, b.val), (1, ta.toNat), (1, tb.toNat), (2, w.code), (6, 7)]
  | .pmin d a b w ta tb => pack [(1, 1), (6, 11), (5, d.val), (5, a.val), (5, b.val), (1, ta.toNat), (1, tb.toNat), (2, w.code), (6, 8)]
  | .pminU d a b w ta tb => pack [(1, 1), (6, 11), (5, d.val), (5, a.val), (5, b.val), (1, ta.toNat), (1, tb.toNat), (2, w.code), (6, 9)]
  | .pmax d a b w ta tb => pack [(1, 1), (6, 11), (5, d.val), (5, a.val), (5, b.val), (1, ta.toNat), (1, tb.toNat), (2, w.code), (6, 10)]
  | .pmaxU d a b w ta tb => pack [(1, 1), (6, 11), (5, d.val), (5, a.val), (5, b.val), (1, ta.toNat), (1, tb.toNat), (2, w.code), (6, 11)]
  | .pshLl d a b w ta tb => pack [(1, 1), (6, 11), (5, d.val), (5, a.val), (5, b.val), (1, ta.toNat), (1, tb.toNat), (2, w.code), (6, 12)]
  | .pshRl d a b w ta tb => pack [(1, 1), (6, 11), (5, d.val), (5, a.val), (5, b.val), (1, ta.toNat), (1, tb.toNat), (2, w.code), (6, 13)]
  | .pshRa d a b w ta tb => pack [(1, 1), (6, 11), (5, d.val), (5, a.val), (5, b.val), (1, ta.toNat), (1, tb.toNat), (2, w.code), (6, 14)]
  | .pcmpEq d a b w ta tb => pack [(1, 1), (6, 11), (5, d.val), (5, a.val), (5, b.val), (1, ta.toNat), (1, tb.toNat), (2, w.code), (6, 15)]
  | .pcmpLt d a b w ta tb => pack [(1, 1), (6, 11), (5, d.val), (5, a.val), (5, b.val), (1, ta.toNat), (1, tb.toNat), (2, w.code), (6, 16)]
  | .pcmpLtu d a b w ta tb => pack [(1, 1), (6, 11), (5, d.val), (5, a.val), (5, b.val), (1, ta.toNat), (1, tb.toNat), (2, w.code), (6, 17)]
  | .pabsd d a b w ta tb => pack [(1, 1), (6, 11), (5, d.val), (5, a.val), (5, b.val), (1, ta.toNat), (1, tb.toNat), (2, w.code), (6, 18)]
  | .ppack d a b w ta tb => pack [(1, 1), (6, 11), (5, d.val), (5, a.val), (5, b.val), (1, ta.toNat), (1, tb.toNat), (2, w.code), (6, 19)]
  | .ppackSs d a b w ta tb => pack [(1, 1), (6, 11), (5, d.val), (5, a.val), (5, b.val), (1, ta.toNat), (1, tb.toNat), (2, w.code), (6, 20)]
  | .ppackUs d a b w ta tb => pack [(1, 1), (6, 11), (5, d.val), (5, a.val), (5, b.val), (1, ta.toNat), (1, tb.toNat), (2, w.code), (6, 21)]
  | .cmul d a b ta tb => pack [(1, 1), (6, 12), (5, d.val), (5, a.val), (5, b.val), (1, ta.toNat), (1, tb.toNat), (8, 0)]
  | .cmac d a b ta tb => pack [(1, 1), (6, 12), (5, d.val), (5, a.val), (5, b.val), (1, ta.toNat), (1, tb.toNat), (8, 1)]
  | .cmacj d a b ta tb => pack [(1, 1), (6, 12), (5, d.val), (5, a.val), (5, b.val), (1, ta.toNat), (1, tb.toNat), (8, 2)]
  | .cabs2 d a ta tb => pack [(1, 1), (6, 12), (5, d.val), (5, a.val), (5, 0), (1, ta.toNat), (1, tb.toNat), (8, 3)]
  | .mulq d a b ta tb => pack [(1, 1), (6, 12), (5, d.val), (5, a.val), (5, b.val), (1, ta.toNat), (1, tb.toNat), (8, 4)]
  | .sat d a n ta tb => pack [(1, 1), (6, 12), (5, d.val), (5, a.val), (5, n.toNat), (1, ta.toNat), (1, tb.toNat), (8, 5)]
  | .satu d a n ta tb => pack [(1, 1), (6, 12), (5, d.val), (5, a.val), (5, n.toNat), (1, ta.toNat), (1, tb.toNat), (8, 6)]
  | .clz d a ta tb => pack [(1, 1), (6, 13), (5, d.val), (5, a.val), (5, 0), (1, ta.toNat), (1, tb.toNat), (8, 0)]
  | .ctz d a ta tb => pack [(1, 1), (6, 13), (5, d.val), (5, a.val), (5, 0), (1, ta.toNat), (1, tb.toNat), (8, 1)]
  | .popc d a ta tb => pack [(1, 1), (6, 13), (5, d.val), (5, a.val), (5, 0), (1, ta.toNat), (1, tb.toNat), (8, 2)]
  | .bswap d a ta tb => pack [(1, 1), (6, 13), (5, d.val), (5, a.val), (5, 0), (1, ta.toNat), (1, tb.toNat), (8, 3)]
  | .bext d a b ta tb => pack [(1, 1), (6, 13), (5, d.val), (5, a.val), (5, b.val), (1, ta.toNat), (1, tb.toNat), (8, 4)]
  | .bextu d a b ta tb => pack [(1, 1), (6, 13), (5, d.val), (5, a.val), (5, b.val), (1, ta.toNat), (1, tb.toNat), (8, 5)]
  | .bins d a b ta tb => pack [(1, 1), (6, 13), (5, d.val), (5, a.val), (5, b.val), (1, ta.toNat), (1, tb.toNat), (8, 6)]
  | .fadd d a b f ta tb => pack [(1, 1), (6, 14), (5, d.val), (5, a.val), (5, b.val), (1, ta.toNat), (1, tb.toNat), (2, f.code), (6, 0)]
  | .fsub d a b f ta tb => pack [(1, 1), (6, 14), (5, d.val), (5, a.val), (5, b.val), (1, ta.toNat), (1, tb.toNat), (2, f.code), (6, 1)]
  | .fmul d a b f ta tb => pack [(1, 1), (6, 14), (5, d.val), (5, a.val), (5, b.val), (1, ta.toNat), (1, tb.toNat), (2, f.code), (6, 2)]
  | .fma d a b f ta tb => pack [(1, 1), (6, 14), (5, d.val), (5, a.val), (5, b.val), (1, ta.toNat), (1, tb.toNat), (2, f.code), (6, 3)]
  | .fdiv d a b f ta tb => pack [(1, 1), (6, 14), (5, d.val), (5, a.val), (5, b.val), (1, ta.toNat), (1, tb.toNat), (2, f.code), (6, 4)]
  | .fsqrt d a f ta tb => pack [(1, 1), (6, 14), (5, d.val), (5, a.val), (5, 0), (1, ta.toNat), (1, tb.toNat), (2, f.code), (6, 5)]
  | .fmin d a b f ta tb => pack [(1, 1), (6, 14), (5, d.val), (5, a.val), (5, b.val), (1, ta.toNat), (1, tb.toNat), (2, f.code), (6, 6)]
  | .fmax d a b f ta tb => pack [(1, 1), (6, 14), (5, d.val), (5, a.val), (5, b.val), (1, ta.toNat), (1, tb.toNat), (2, f.code), (6, 7)]
  | .fcmpEq d a b f ta tb => pack [(1, 1), (6, 14), (5, d.val), (5, a.val), (5, b.val), (1, ta.toNat), (1, tb.toNat), (2, f.code), (6, 8)]
  | .fcmpLt d a b f ta tb => pack [(1, 1), (6, 14), (5, d.val), (5, a.val), (5, b.val), (1, ta.toNat), (1, tb.toNat), (2, f.code), (6, 9)]
  | .fcmpLe d a b f ta tb => pack [(1, 1), (6, 14), (5, d.val), (5, a.val), (5, b.val), (1, ta.toNat), (1, tb.toNat), (2, f.code), (6, 10)]
  | .fclass d a f ta tb => pack [(1, 1), (6, 14), (5, d.val), (5, a.val), (5, 0), (1, ta.toNat), (1, tb.toNat), (2, f.code), (6, 11)]
  | .rnd d a f rm ta tb => pack [(1, 1), (6, 14), (5, d.val), (5, a.val), (5, rm.code), (1, ta.toNat), (1, tb.toNat), (2, f.code), (6, 12)]
  | .rseed d a ta tb => pack [(1, 1), (6, 14), (5, d.val), (5, a.val), (5, 0), (1, ta.toNat), (1, tb.toNat), (2, 0), (6, 13)]
  | .cvt d a rnd dst src ta tb => pack [(1, 1), (6, 15), (5, d.val), (5, a.val), (5, src.code), (1, ta.toNat), (1, tb.toNat), (5, dst.code), (3, rnd.code)]
  | .ld d a imm sz sx ord ta => pack [(1, 1), (6, 16), (5, d.val), (5, a.val), (2, sz.code), (1, sx.toNat), (2, ord.code), (1, ta.toNat), (9, imm.toNat)]
  | .st d a imm sz ord ta => pack [(1, 1), (6, 17), (5, d.val), (5, a.val), (2, sz.code), (1, 0), (2, ord.code), (1, ta.toNat), (9, imm.toNat)]
  | .ldm a b off n q ta tb => pack [(1, 1), (6, 18), (3, n.toNat), (1, 0), (1, q.toNat), (5, a.val), (5, b.val), (1, ta.toNat), (1, tb.toNat), (8, off.toNat)]
  | .stm a b off n q ta tb => pack [(1, 1), (6, 18), (3, n.toNat), (1, 1), (1, q.toNat), (5, a.val), (5, b.val), (1, ta.toNat), (1, tb.toNat), (8, off.toNat)]
  | .ldfe d a imm ord ta => pack [(1, 1), (6, 19), (5, d.val), (5, a.val), (3, 0), (2, ord.code), (1, ta.toNat), (9, imm.toNat)]
  | .ldff d a imm ord ta => pack [(1, 1), (6, 19), (5, d.val), (5, a.val), (3, 1), (2, ord.code), (1, ta.toNat), (9, imm.toNat)]
  | .stfe d a imm ord ta => pack [(1, 1), (6, 19), (5, d.val), (5, a.val), (3, 2), (2, ord.code), (1, ta.toNat), (9, imm.toNat)]
  | .stff d a imm ord ta => pack [(1, 1), (6, 19), (5, d.val), (5, a.val), (3, 3), (2, ord.code), (1, ta.toNat), (9, imm.toNat)]
  | .tagr d a imm ord ta => pack [(1, 1), (6, 19), (5, d.val), (5, a.val), (3, 4), (2, ord.code), (1, ta.toNat), (9, imm.toNat)]
  | .tagw d a imm ord ta => pack [(1, 1), (6, 19), (5, d.val), (5, a.val), (3, 5), (2, ord.code), (1, ta.toNat), (9, imm.toNat)]
  | .setvat d a imm ta => pack [(1, 1), (6, 19), (5, d.val), (5, a.val), (3, 6), (2, 0), (1, ta.toNat), (9, imm.toNat)]
  | .amoAdd d a b dbl r o ta tb => pack [(1, 1), (6, 20), (5, d.val), (5, a.val), (5, b.val), (1, ta.toNat), (1, tb.toNat), (1, dbl.toNat), (1, 0), (1, r.toNat), (1, o.toNat), (4, 0)]
  | .amoAnd d a b dbl r o ta tb => pack [(1, 1), (6, 20), (5, d.val), (5, a.val), (5, b.val), (1, ta.toNat), (1, tb.toNat), (1, dbl.toNat), (1, 0), (1, r.toNat), (1, o.toNat), (4, 1)]
  | .amoOr d a b dbl r o ta tb => pack [(1, 1), (6, 20), (5, d.val), (5, a.val), (5, b.val), (1, ta.toNat), (1, tb.toNat), (1, dbl.toNat), (1, 0), (1, r.toNat), (1, o.toNat), (4, 2)]
  | .amoXor d a b dbl r o ta tb => pack [(1, 1), (6, 20), (5, d.val), (5, a.val), (5, b.val), (1, ta.toNat), (1, tb.toNat), (1, dbl.toNat), (1, 0), (1, r.toNat), (1, o.toNat), (4, 3)]
  | .amoMin d a b dbl r o ta tb => pack [(1, 1), (6, 20), (5, d.val), (5, a.val), (5, b.val), (1, ta.toNat), (1, tb.toNat), (1, dbl.toNat), (1, 0), (1, r.toNat), (1, o.toNat), (4, 4)]
  | .amoMax d a b dbl r o ta tb => pack [(1, 1), (6, 20), (5, d.val), (5, a.val), (5, b.val), (1, ta.toNat), (1, tb.toNat), (1, dbl.toNat), (1, 0), (1, r.toNat), (1, o.toNat), (4, 5)]
  | .amoMinu d a b dbl r o ta tb => pack [(1, 1), (6, 20), (5, d.val), (5, a.val), (5, b.val), (1, ta.toNat), (1, tb.toNat), (1, dbl.toNat), (1, 0), (1, r.toNat), (1, o.toNat), (4, 6)]
  | .amoMaxu d a b dbl r o ta tb => pack [(1, 1), (6, 20), (5, d.val), (5, a.val), (5, b.val), (1, ta.toNat), (1, tb.toNat), (1, dbl.toNat), (1, 0), (1, r.toNat), (1, o.toNat), (4, 7)]
  | .amoSwap d a b dbl r o ta tb => pack [(1, 1), (6, 20), (5, d.val), (5, a.val), (5, b.val), (1, ta.toNat), (1, tb.toNat), (1, dbl.toNat), (1, 0), (1, r.toNat), (1, o.toNat), (4, 8)]
  | .amoFadd32 d a b r o ta tb => pack [(1, 1), (6, 20), (5, d.val), (5, a.val), (5, b.val), (1, ta.toNat), (1, tb.toNat), (2, 0), (1, r.toNat), (1, o.toNat), (4, 9)]
  | .redAdd a b dbl r o ta tb => pack [(1, 1), (6, 21), (5, 0), (5, a.val), (5, b.val), (1, ta.toNat), (1, tb.toNat), (1, dbl.toNat), (1, 0), (1, r.toNat), (1, o.toNat), (4, 0)]
  | .redAnd a b dbl r o ta tb => pack [(1, 1), (6, 21), (5, 0), (5, a.val), (5, b.val), (1, ta.toNat), (1, tb.toNat), (1, dbl.toNat), (1, 0), (1, r.toNat), (1, o.toNat), (4, 1)]
  | .redOr a b dbl r o ta tb => pack [(1, 1), (6, 21), (5, 0), (5, a.val), (5, b.val), (1, ta.toNat), (1, tb.toNat), (1, dbl.toNat), (1, 0), (1, r.toNat), (1, o.toNat), (4, 2)]
  | .redXor a b dbl r o ta tb => pack [(1, 1), (6, 21), (5, 0), (5, a.val), (5, b.val), (1, ta.toNat), (1, tb.toNat), (1, dbl.toNat), (1, 0), (1, r.toNat), (1, o.toNat), (4, 3)]
  | .redMin a b dbl r o ta tb => pack [(1, 1), (6, 21), (5, 0), (5, a.val), (5, b.val), (1, ta.toNat), (1, tb.toNat), (1, dbl.toNat), (1, 0), (1, r.toNat), (1, o.toNat), (4, 4)]
  | .redMax a b dbl r o ta tb => pack [(1, 1), (6, 21), (5, 0), (5, a.val), (5, b.val), (1, ta.toNat), (1, tb.toNat), (1, dbl.toNat), (1, 0), (1, r.toNat), (1, o.toNat), (4, 5)]
  | .redMinu a b dbl r o ta tb => pack [(1, 1), (6, 21), (5, 0), (5, a.val), (5, b.val), (1, ta.toNat), (1, tb.toNat), (1, dbl.toNat), (1, 0), (1, r.toNat), (1, o.toNat), (4, 6)]
  | .redMaxu a b dbl r o ta tb => pack [(1, 1), (6, 21), (5, 0), (5, a.val), (5, b.val), (1, ta.toNat), (1, tb.toNat), (1, dbl.toNat), (1, 0), (1, r.toNat), (1, o.toNat), (4, 7)]
  | .redSwap a b dbl r o ta tb => pack [(1, 1), (6, 21), (5, 0), (5, a.val), (5, b.val), (1, ta.toNat), (1, tb.toNat), (1, dbl.toNat), (1, 0), (1, r.toNat), (1, o.toNat), (4, 8)]
  | .redFadd32 a b r o ta tb => pack [(1, 1), (6, 21), (5, 0), (5, a.val), (5, b.val), (1, ta.toNat), (1, tb.toNat), (2, 0), (1, r.toNat), (1, o.toNat), (4, 9)]
  | .cas d a b r o ta tb => pack [(1, 1), (6, 22), (5, d.val), (5, a.val), (5, b.val), (1, ta.toNat), (1, tb.toNat), (2, 1), (1, r.toNat), (1, o.toNat), (4, 0)]
  | .cas2 d a b r o ta tb => pack [(1, 1), (6, 22), (5, d.val), (5, a.val), (5, b.val), (1, ta.toNat), (1, tb.toNat), (2, 2), (1, r.toNat), (1, o.toNat), (4, 0)]
  | .park d a b ta tb => pack [(1, 1), (6, 23), (5, d.val), (5, a.val), (5, b.val), (1, ta.toNat), (1, tb.toNat), (8, 0)]
  | .wake a b ta tb => pack [(1, 1), (6, 23), (5, 0), (5, a.val), (5, b.val), (1, ta.toNat), (1, tb.toNat), (8, 1)]
  | .sleep d a ta tb => pack [(1, 1), (6, 23), (5, d.val), (5, a.val), (5, 0), (1, ta.toNat), (1, tb.toNat), (8, 2)]
  | .bar d n ta tb => pack [(1, 1), (6, 23), (5, d.val), (2, n.val), (8, 0), (1, ta.toNat), (1, tb.toNat), (8, 3)]
  | .barw d b n ta tb => pack [(1, 1), (6, 23), (5, d.val), (2, n.val), (3, 0), (5, b.val), (1, ta.toNat), (1, tb.toNat), (8, 4)]
  | .fencePan ta tb => pack [(1, 1), (6, 24), (15, 0), (1, ta.toNat), (1, tb.toNat), (8, 0)]
  | .fenceTenant ta tb => pack [(1, 1), (6, 24), (15, 0), (1, ta.toNat), (1, tb.toNat), (8, 1)]
  | .fenceSystem ta tb => pack [(1, 1), (6, 24), (15, 0), (1, ta.toNat), (1, tb.toNat), (8, 2)]
  | .fenceGlobal ta tb => pack [(1, 1), (6, 24), (15, 0), (1, ta.toNat), (1, tb.toNat), (8, 3)]
  | .hop a ta tb => pack [(1, 1), (6, 25), (5, 0), (5, a.val), (5, 0), (1, ta.toNat), (1, tb.toNat), (8, 0)]
  | .live d a ta tb => pack [(1, 1), (6, 25), (5, d.val), (5, a.val), (5, 0), (1, ta.toNat), (1, tb.toNat), (8, 1)]
  | .tlbinvTrellis a b ta tb => pack [(1, 1), (6, 25), (5, 0), (5, a.val), (5, b.val), (1, ta.toNat), (1, tb.toNat), (8, 2)]
  | .tlbinvPan a b ta tb => pack [(1, 1), (6, 25), (5, 0), (5, a.val), (5, b.val), (1, ta.toNat), (1, tb.toNat), (8, 3)]
  | .tlbinvPartition a b ta tb => pack [(1, 1), (6, 25), (5, 0), (5, a.val), (5, b.val), (1, ta.toNat), (1, tb.toNat), (8, 4)]
  | .tlbinvPackage a b ta tb => pack [(1, 1), (6, 25), (5, 0), (5, a.val), (5, b.val), (1, ta.toNat), (1, tb.toNat), (8, 5)]
  | .beq a b imm => pack [(1, 1), (6, 26), (3, 0), (5, a.val), (5, b.val), (12, imm.toNat)]
  | .bne a b imm => pack [(1, 1), (6, 26), (3, 1), (5, a.val), (5, b.val), (12, imm.toNat)]
  | .blt a b imm => pack [(1, 1), (6, 26), (3, 2), (5, a.val), (5, b.val), (12, imm.toNat)]
  | .bge a b imm => pack [(1, 1), (6, 26), (3, 3), (5, a.val), (5, b.val), (12, imm.toNat)]
  | .bltu a b imm => pack [(1, 1), (6, 26), (3, 4), (5, a.val), (5, b.val), (12, imm.toNat)]
  | .bgeu a b imm => pack [(1, 1), (6, 26), (3, 5), (5, a.val), (5, b.val), (12, imm.toNat)]
  | .jal d imm => pack [(1, 1), (6, 27), (5, d.val), (20, imm.toNat)]
  | .jalr d a imm ta => pack [(1, 1), (6, 28), (5, d.val), (5, a.val), (1, ta.toNat), (14, imm.toNat)]
  | .nest d a ta tb => pack [(1, 1), (6, 29), (5, d.val), (5, a.val), (5, 0), (1, ta.toNat), (1, tb.toNat), (8, 0)]
  | .next d ta tb => pack [(1, 1), (6, 29), (5, d.val), (10, 0), (1, ta.toNat), (1, tb.toNat), (8, 1)]
  | .fork d a b ta tb => pack [(1, 1), (6, 30), (5, d.val), (5, a.val), (5, b.val), (1, ta.toNat), (1, tb.toNat), (8, 0)]
  | .join d a b ta tb => pack [(1, 1), (6, 30), (5, d.val), (5, a.val), (5, b.val), (1, ta.toNat), (1, tb.toNat), (8, 1)]
  | .jdone a b ta tb => pack [(1, 1), (6, 30), (5, 0), (5, a.val), (5, b.val), (1, ta.toNat), (1, tb.toNat), (8, 2)]
  | .spawn d a b ta tb => pack [(1, 1), (6, 30), (5, d.val), (5, a.val), (5, b.val), (1, ta.toNat), (1, tb.toNat), (8, 3)]
  | .quit ta tb => pack [(1, 1), (6, 30), (15, 0), (1, ta.toNat), (1, tb.toNat), (8, 4)]
  | .beat ta tb => pack [(1, 1), (6, 30), (15, 0), (1, ta.toNat), (1, tb.toNat), (8, 5)]
  | .ifence ta tb => pack [(1, 1), (6, 30), (15, 0), (1, ta.toNat), (1, tb.toNat), (8, 6)]
  | .mfc d c => pack [(1, 1), (6, 31), (5, d.val), (5, 0), (3, 0), (12, c.toNat)]
  | .mtc a c => pack [(1, 1), (6, 31), (5, 0), (5, a.val), (3, 1), (12, c.toNat)]
  | .mtcStatus a => pack [(1, 1), (6, 31), (5, 0), (5, a.val), (3, 1), (12, 0)]
  | .mtcLive a => pack [(1, 1), (6, 31), (5, 0), (5, a.val), (3, 1), (12, 2)]
  | .mtcSeed a => pack [(1, 1), (6, 31), (5, 0), (5, a.val), (3, 1), (12, 3)]
  | .mtcDeftrapvec a => pack [(1, 1), (6, 31), (5, 0), (5, a.val), (3, 1), (12, 80)]
  | .mtcHtbase a => pack [(1, 1), (6, 31), (5, 0), (5, a.val), (3, 1), (12, 81)]
  | .mtcFqbase a => pack [(1, 1), (6, 31), (5, 0), (5, a.val), (3, 1), (12, 83)]
  | .mtcWmdata a => pack [(1, 1), (6, 31), (5, 0), (5, a.val), (3, 1), (12, 97)]
  | .trap n => pack [(1, 1), (6, 31), (10, 0), (3, 2), (12, n.toNat)]
  | .sys n => pack [(1, 1), (6, 31), (10, 0), (3, 3), (12, n.toNat)]
  | .eret => pack [(1, 1), (6, 31), (10, 0), (3, 4), (12, 0)]
  | .vadd d a b k e z => pack [(1, 1), (6, 32), (4, d.val), (1, e.toNat), (4, a.val), (1, z.toNat), (4, b.val), (3, k.val), (8, 0)]
  | .vsub d a b k e z => pack [(1, 1), (6, 32), (4, d.val), (1, e.toNat), (4, a.val), (1, z.toNat), (4, b.val), (3, k.val), (8, 1)]
  | .vmul d a b k e z => pack [(1, 1), (6, 32), (4, d.val), (1, e.toNat), (4, a.val), (1, z.toNat), (4, b.val), (3, k.val), (8, 2)]
  | .vmac d a b k e z => pack [(1, 1), (6, 32), (4, d.val), (1, e.toNat), (4, a.val), (1, z.toNat), (4, b.val), (3, k.val), (8, 3)]
  | .vmin d a b k e z => pack [(1, 1), (6, 32), (4, d.val), (1, e.toNat), (4, a.val), (1, z.toNat), (4, b.val), (3, k.val), (8, 4)]
  | .vmax d a b k e z => pack [(1, 1), (6, 32), (4, d.val), (1, e.toNat), (4, a.val), (1, z.toNat), (4, b.val), (3, k.val), (8, 5)]
  | .vand d a b k e z => pack [(1, 1), (6, 32), (4, d.val), (1, e.toNat), (4, a.val), (1, z.toNat), (4, b.val), (3, k.val), (8, 6)]
  | .vor d a b k e z => pack [(1, 1), (6, 32), (4, d.val), (1, e.toNat), (4, a.val), (1, z.toNat), (4, b.val), (3, k.val), (8, 7)]
  | .vxor d a b k e z => pack [(1, 1), (6, 32), (4, d.val), (1, e.toNat), (4, a.val), (1, z.toNat), (4, b.val), (3, k.val), (8, 8)]
  | .vshLl d a b k e z => pack [(1, 1), (6, 32), (4, d.val), (1, e.toNat), (4, a.val), (1, z.toNat), (4, b.val), (3, k.val), (8, 9)]
  | .vshRl d a b k e z => pack [(1, 1), (6, 32), (4, d.val), (1, e.toNat), (4, a.val), (1, z.toNat), (4, b.val), (3, k.val), (8, 10)]
  | .vshRa d a b k e z => pack [(1, 1), (6, 32), (4, d.val), (1, e.toNat), (4, a.val), (1, z.toNat), (4, b.val), (3, k.val), (8, 11)]
  | .vcmpEq d a b k e z => pack [(1, 1), (6, 32), (3, d.val), (1, 0), (1, e.toNat), (4, a.val), (1, z.toNat), (4, b.val), (3, k.val), (8, 12)]
  | .vcmpLt d a b k e z => pack [(1, 1), (6, 32), (3, d.val), (1, 0), (1, e.toNat), (4, a.val), (1, z.toNat), (4, b.val), (3, k.val), (8, 13)]
  | .vcmpLtu d a b k e z => pack [(1, 1), (6, 32), (3, d.val), (1, 0), (1, e.toNat), (4, a.val), (1, z.toNat), (4, b.val), (3, k.val), (8, 14)]
  | .vsel d a b k => pack [(1, 1), (6, 32), (4, d.val), (1, 0), (4, a.val), (1, 0), (4, b.val), (3, k.val), (8, 15)]
  | .vcmul d a b k e z => pack [(1, 1), (6, 32), (4, d.val), (1, e.toNat), (4, a.val), (1, z.toNat), (4, b.val), (3, k.val), (8, 16)]
  | .vcmac d a b k e z => pack [(1, 1), (6, 32), (4, d.val), (1, e.toNat), (4, a.val), (1, z.toNat), (4, b.val), (3, k.val), (8, 17)]
  | .vredAdd d a k e => pack [(1, 1), (6, 32), (4, d.val), (1, e.toNat), (4, a.val), (5, 0), (3, k.val), (8, 18)]
  | .vredMin d a k e => pack [(1, 1), (6, 32), (4, d.val), (1, e.toNat), (4, a.val), (5, 0), (3, k.val), (8, 19)]
  | .vredMax d a k e => pack [(1, 1), (6, 32), (4, d.val), (1, e.toNat), (4, a.val), (5, 0), (3, k.val), (8, 20)]
  | .vredFadd d a k e => pack [(1, 1), (6, 32), (4, d.val), (1, e.toNat), (4, a.val), (5, 0), (3, k.val), (8, 21)]
  | .vperm d a b k e z => pack [(1, 1), (6, 32), (4, d.val), (1, e.toNat), (4, a.val), (1, z.toNat), (4, b.val), (3, k.val), (8, 22)]
  | .vmv d a k e z => pack [(1, 1), (6, 32), (4, d.val), (1, e.toNat), (4, a.val), (1, z.toNat), (4, 0), (3, k.val), (8, 23)]
  | .vmvBc d a k e z => pack [(1, 1), (6, 32), (4, d.val), (1, e.toNat), (4, a.val), (1, z.toNat), (4, 1), (3, k.val), (8, 23)]
  | .vmvX d a => pack [(1, 1), (6, 32), (4, d.val), (1, 0), (4, a.val), (8, 4), (8, 23)]
  | .vfadd d a b k e z f => pack [(1, 1), (6, 33), (4, d.val), (1, e.toNat), (4, a.val), (1, z.toNat), (4, b.val), (3, k.val), (2, f.code), (6, 0)]
  | .vfmul d a b k e z f => pack [(1, 1), (6, 33), (4, d.val), (1, e.toNat), (4, a.val), (1, z.toNat), (4, b.val), (3, k.val), (2, f.code), (6, 1)]
  | .vfma d a b k e z f => pack [(1, 1), (6, 33), (4, d.val), (1, e.toNat), (4, a.val), (1, z.toNat), (4, b.val), (3, k.val), (2, f.code), (6, 2)]
  | .vfmin d a b k e z f => pack [(1, 1), (6, 33), (4, d.val), (1, e.toNat), (4, a.val), (1, z.toNat), (4, b.val), (3, k.val), (2, f.code), (6, 3)]
  | .vfmax d a b k e z f => pack [(1, 1), (6, 33), (4, d.val), (1, e.toNat), (4, a.val), (1, z.toNat), (4, b.val), (3, k.val), (2, f.code), (6, 4)]
  | .vcvt d a c k e z => pack [(1, 1), (6, 33), (4, d.val), (1, e.toNat), (4, a.val), (1, z.toNat), (4, 0), (3, k.val), (4, c.val), (4, 4)]
  | .vld d a k e z ta tb => pack [(1, 1), (6, 34), (4, d.val), (1, 0), (5, a.val), (5, 0), (1, ta.toNat), (1, tb.toNat), (3, 0), (1, e.toNat), (3, k.val), (1, z.toNat)]
  | .vst d a k e ta tb => pack [(1, 1), (6, 34), (4, d.val), (1, 0), (5, a.val), (5, 0), (1, ta.toNat), (1, tb.toNat), (3, 1), (1, e.toNat), (3, k.val), (1, 0)]
  | .vlds d a b k e z ta tb => pack [(1, 1), (6, 34), (4, d.val), (1, 0), (5, a.val), (5, b.val), (1, ta.toNat), (1, tb.toNat), (3, 2), (1, e.toNat), (3, k.val), (1, z.toNat)]
  | .vldx d a b k e z ta tb => pack [(1, 1), (6, 34), (4, d.val), (1, 0), (5, a.val), (4, b.val), (1, 0), (1, ta.toNat), (1, tb.toNat), (3, 3), (1, e.toNat), (3, k.val), (1, z.toNat)]
  | .vstx d a b k e ta tb => pack [(1, 1), (6, 34), (4, d.val), (1, 0), (5, a.val), (4, b.val), (1, 0), (1, ta.toNat), (1, tb.toNat), (3, 4), (1, e.toNat), (3, k.val), (1, 0)]
  | .vclaim d a b ta tb => pack [(1, 1), (6, 35), (5, d.val), (5, a.val), (5, b.val), (1, ta.toNat), (1, tb.toNat), (8, 0)]
  | .vrel ta tb => pack [(1, 1), (6, 35), (15, 0), (1, ta.toNat), (1, tb.toNat), (8, 1)]
  | .vsync d a b ta tb => pack [(1, 1), (6, 35), (5, d.val), (5, a.val), (5, b.val), (1, ta.toNat), (1, tb.toNat), (8, 2)]
  | .mand d a b ta tb => pack [(1, 1), (6, 35), (3, d.val), (2, 0), (3, a.val), (2, 0), (3, b.val), (2, 0), (1, ta.toNat), (1, tb.toNat), (8, 3)]
  | .mor d a b ta tb => pack [(1, 1), (6, 35), (3, d.val), (2, 0), (3, a.val), (2, 0), (3, b.val), (2, 0), (1, ta.toNat), (1, tb.toNat), (8, 4)]
  | .mnot d a ta tb => pack [(1, 1), (6, 35), (3, d.val), (2, 0), (3, a.val), (7, 0), (1, ta.toNat), (1, tb.toNat), (8, 5)]
  | .vsfuExp2 d a k e z => pack [(1, 1), (6, 36), (4, d.val), (1, e.toNat), (4, a.val), (1, z.toNat), (4, 0), (3, k.val), (8, 0)]
  | .vsfuLog2 d a k e z => pack [(1, 1), (6, 36), (4, d.val), (1, e.toNat), (4, a.val), (1, z.toNat), (4, 0), (3, k.val), (8, 1)]
  | .vsfuRcp d a k e z => pack [(1, 1), (6, 36), (4, d.val), (1, e.toNat), (4, a.val), (1, z.toNat), (4, 0), (3, k.val), (8, 2)]
  | .vsfuRsqrt d a k e z => pack [(1, 1), (6, 36), (4, d.val), (1, e.toNat), (4, a.val), (1, z.toNat), (4, 0), (3, k.val), (8, 3)]
  | .vsfuSin d a k e z => pack [(1, 1), (6, 36), (4, d.val), (1, e.toNat), (4, a.val), (1, z.toNat), (4, 0), (3, k.val), (8, 4)]
  | .vsfuCos d a k e z => pack [(1, 1), (6, 36), (4, d.val), (1, e.toNat), (4, a.val), (1, z.toNat), (4, 0), (3, k.val), (8, 5)]
  | .vsfuTanh d a k e z => pack [(1, 1), (6, 36), (4, d.val), (1, e.toNat), (4, a.val), (1, z.toNat), (4, 0), (3, k.val), (8, 6)]
  | .vsfuSigmoid d a k e z => pack [(1, 1), (6, 36), (4, d.val), (1, e.toNat), (4, a.val), (1, z.toNat), (4, 0), (3, k.val), (8, 7)]
  | .vbflyR2 d a b scl => pack [(1, 1), (6, 36), (4, d.val), (1, 0), (4, a.val), (1, scl.toNat), (4, b.val), (3, 0), (8, 8)]
  | .vbflyR4 d a b scl => pack [(1, 1), (6, 36), (4, d.val), (1, 0), (4, a.val), (1, scl.toNat), (4, b.val), (3, 0), (8, 9)]
  | .rack d a => pack [(1, 1), (6, 37), (5, d.val), (5, a.val), (7, 0), (8, 0)]
  | .rackv d a b => pack [(1, 1), (6, 37), (5, d.val), (5, a.val), (5, b.val), (2, 0), (8, 1)]
  | .rfenceEngine => pack [(1, 1), (6, 37), (17, 0), (8, 2)]
  | .rfencePartition => pack [(1, 1), (6, 37), (17, 32768), (8, 2)]
  | .qfence d a => pack [(1, 1), (6, 37), (5, d.val), (5, a.val), (7, 0), (8, 3)]
  | .qwait d a => pack [(1, 1), (6, 37), (5, d.val), (5, a.val), (7, 0), (8, 4)]
  | .rstat d a => pack [(1, 1), (6, 37), (5, d.val), (5, a.val), (7, 0), (8, 5)]
  | .collAllreduce d a => pack [(1, 1), (6, 37), (5, d.val), (5, a.val), (7, 0), (8, 6)]
  | .collAllgather d a => pack [(1, 1), (6, 37), (5, d.val), (5, a.val), (7, 32), (8, 6)]
  | .collReducescatter d a => pack [(1, 1), (6, 37), (5, d.val), (5, a.val), (7, 64), (8, 6)]
  | .pmm d a => pack [(1, 1), (6, 38), (5, d.val), (5, a.val), (7, 0), (8, 0)]
  | .pzero d a => pack [(1, 1), (6, 38), (5, d.val), (5, a.val), (7, 0), (8, 1)]
  | .pwait d a => pack [(1, 1), (6, 38), (5, d.val), (5, a.val), (7, 0), (8, 2)]
  | .pprog d a => pack [(1, 1), (6, 38), (5, d.val), (5, a.val), (7, 0), (8, 3)]
  | .tdirPut d a => pack [(1, 1), (6, 39), (5, d.val), (5, a.val), (7, 0), (8, 0)]
  | .tdirDel d a => pack [(1, 1), (6, 39), (5, d.val), (5, a.val), (7, 32), (8, 0)]
  | .tmove d a b => pack [(1, 1), (6, 39), (5, d.val), (5, a.val), (5, b.val), (2, 0), (8, 1)]
  | .solicitSum d a b => pack [(1, 1), (6, 39), (5, d.val), (5, a.val), (5, b.val), (2, 0), (8, 2)]
  | .solicitMin d a b => pack [(1, 1), (6, 39), (5, d.val), (5, a.val), (5, b.val), (2, 0), (8, 3)]
  | .solicitMax d a b => pack [(1, 1), (6, 39), (5, d.val), (5, a.val), (5, b.val), (2, 0), (8, 4)]
  | .solicitOr d a b => pack [(1, 1), (6, 39), (5, d.val), (5, a.val), (5, b.val), (2, 0), (8, 5)]
  | .solicitCount d a b => pack [(1, 1), (6, 39), (5, d.val), (5, a.val), (5, b.val), (2, 0), (8, 6)]
  | .answer a => pack [(1, 1), (6, 39), (5, 0), (5, a.val), (7, 0), (8, 7)]
  | .cwait d => pack [(1, 1), (6, 39), (5, d.val), (12, 0), (8, 8)]
  | .lbl d a ta tb => pack [(1, 1), (6, 40), (5, d.val), (5, a.val), (5, 0), (1, ta.toNat), (1, tb.toNat), (8, 0)]
  | .lblV d a ta tb => pack [(1, 1), (6, 40), (5, d.val), (4, a.val), (6, 2), (1, ta.toNat), (1, tb.toNat), (8, 0)]
  | .lblM d a ta tb => pack [(1, 1), (6, 40), (5, d.val), (3, a.val), (7, 8), (1, ta.toNat), (1, tb.toNat), (8, 0)]
  | .lblS d ta tb => pack [(1, 1), (6, 40), (5, d.val), (10, 96), (1, ta.toNat), (1, tb.toNat), (8, 0)]
  | .sluice d a ta tb => pack [(1, 1), (6, 40), (5, d.val), (5, a.val), (5, 0), (1, ta.toNat), (1, tb.toNat), (8, 1)]
  | .launch d a => pack [(1, 1), (6, 41), (5, d.val), (5, a.val), (7, 0), (8, 0)]
  | .invoke d a b prio => pack [(1, 1), (6, 41), (5, d.val), (5, a.val), (5, b.val), (2, prio.val), (8, 1)]
  | .cAdd d r => pack [(1, 0), (4, 0), (5, d.val), (5, r.val), (1, 0)]
  | .cSub d r => pack [(1, 0), (4, 1), (5, d.val), (5, r.val), (1, 0)]
  | .cAnd d r => pack [(1, 0), (4, 2), (5, d.val), (5, r.val), (1, 0)]
  | .cOr d r => pack [(1, 0), (4, 3), (5, d.val), (5, r.val), (1, 0)]
  | .cXor d r => pack [(1, 0), (4, 4), (5, d.val), (5, r.val), (1, 0)]
  | .cSll d r => pack [(1, 0), (4, 5), (5, d.val), (5, r.val), (1, 0)]
  | .cSrl d r => pack [(1, 0), (4, 6), (5, d.val), (5, r.val), (1, 0)]
  | .cSra d r => pack [(1, 0), (4, 7), (5, d.val), (5, r.val), (1, 0)]
  | .cMul d r => pack [(1, 0), (4, 8), (5, d.val), (5, r.val), (1, 0)]
  | .cMin d r => pack [(1, 0), (4, 9), (5, d.val), (5, r.val), (1, 0)]
  | .cMax d r => pack [(1, 0), (4, 10), (5, d.val), (5, r.val), (1, 0)]
  | .mv d r => pack [(1, 0), (4, 11), (5, d.val), (5, r.val), (1, 0)]
  | .cAddi d imm => pack [(1, 0), (4, 12), (5, d.val), (5, imm.toNat), (1, 0)]
  | .cCmac d r => pack [(1, 0), (4, 13), (5, d.val), (5, r.val), (1, 0)]
  | .cFadd d r => pack [(1, 0), (4, 14), (5, d.val), (5, r.val), (1, 0)]
  | .cFmul d r => pack [(1, 0), (4, 15), (5, d.val), (5, r.val), (1, 0)]
  | .cvAdd d r => pack [(1, 0), (4, 0), (4, d.val), (1, 0), (4, r.val), (2, 2)]
  | .cvSub d r => pack [(1, 0), (4, 1), (4, d.val), (1, 0), (4, r.val), (2, 2)]
  | .cvAnd d r => pack [(1, 0), (4, 2), (4, d.val), (1, 0), (4, r.val), (2, 2)]
  | .cvOr d r => pack [(1, 0), (4, 3), (4, d.val), (1, 0), (4, r.val), (2, 2)]
  | .cvXor d r => pack [(1, 0), (4, 4), (4, d.val), (1, 0), (4, r.val), (2, 2)]
  | .cvSll d r => pack [(1, 0), (4, 5), (4, d.val), (1, 0), (4, r.val), (2, 2)]
  | .cvSrl d r => pack [(1, 0), (4, 6), (4, d.val), (1, 0), (4, r.val), (2, 2)]
  | .cvSra d r => pack [(1, 0), (4, 7), (4, d.val), (1, 0), (4, r.val), (2, 2)]
  | .cvMul d r => pack [(1, 0), (4, 8), (4, d.val), (1, 0), (4, r.val), (2, 2)]
  | .cvMin d r => pack [(1, 0), (4, 9), (4, d.val), (1, 0), (4, r.val), (2, 2)]
  | .cvMax d r => pack [(1, 0), (4, 10), (4, d.val), (1, 0), (4, r.val), (2, 2)]
  | .cvMv d r => pack [(1, 0), (4, 11), (4, d.val), (1, 0), (4, r.val), (2, 2)]
  | .cvAddi d imm => pack [(1, 0), (4, 12), (4, d.val), (1, 0), (5, imm.toNat), (1, 1)]
  | .cvCmac d r => pack [(1, 0), (4, 13), (4, d.val), (1, 0), (4, r.val), (2, 2)]
  | .cvFadd d r => pack [(1, 0), (4, 14), (4, d.val), (1, 0), (4, r.val), (2, 2)]
  | .cvFmul d r => pack [(1, 0), (4, 15), (4, d.val), (1, 0), (4, r.val), (2, 2)]
  | .asyncTrapDelivery => 0
  | .fetchLineInstall _ => 0
  | .bankArbitration _ _ => 0
  | .resultFill _ => 0
  | .migrationArrival _ => 0
  | .arrivalBufferPlace _ _ => 0
  | .migrationResend _ => 0
  | .migrationPlacedNotice _ _ => 0
  | .migrationFallback _ => 0
  | .proxiedAccess _ => 0
  | .postedWriteArrival _ => 0
  | .postedWriteAck _ => 0
  | .postedWakeArrival _ => 0
  | .translationRequest _ => 0
  | .translationWalkDone _ => 0
  | .l2FillBurst _ => 0
  | .hbmFillReturn _ => 0
  | .crossDieWriteApply _ _ => 0
  | .clockBeat => 0
  | .dclockReport _ _ => 0
  | .vclockZeroing => 0
  | .globalFenceOrdering _ => 0
  | .barrierRequest _ _ => 0
  | .parkTimeout _ _ => 0
  | .sleepTimeout _ _ => 0
  | .launchWindowSubmit _ _ _ => 0
  | .invocationArrival _ => 0
  | .launchPlacementPass _ => 0
  | .waitonPoll _ => 0
  | .priorityAging => 0
  | .completionWrite _ _ => 0
  | .msixRaise _ _ => 0
  | .handlerErrorCompletion _ _ => 0
  | .fold _ _ _ => 0
  | .ownership _ _ => 0
  | .slotHandover _ _ => 0
  | .slotScrubDone _ _ => 0
  | .pageMove _ _ _ => 0
  | .pageMoveRetire _ _ _ => 0
  | .cellarClear _ _ => 0
  | .resized _ => 0
  | .root _ _ => 0
  | .frames _ _ => 0
  | .release _ _ => 0
  | .retire _ _ => 0
  | .rackSegment _ _ => 0
  | .rackRetire _ _ => 0
  | .followOnEnqueue _ _ => 0
  | .rackWatchdog _ _ => 0
  | .collContribution _ => 0
  | .collTimeout _ _ => 0
  | .linkFailure _ => 0
  | .pressOpStart _ => 0
  | .pressKblock _ => 0
  | .pressOpRetire _ => 0
  | .pressWatchdog _ => 0
  | .tdirPerform _ _ => 0
  | .tmovePerform _ _ => 0
  | .entryLanding _ _ => 0
  | .censusRequest _ => 0
  | .censusBroadcast _ _ => 0
  | .responderStart _ => 0
  | .trellisReport _ _ => 0
  | .panNodeReport _ _ => 0
  | .landingNotice _ _ => 0
  | .censusComplete _ _ => 0
  | .policyInstall _ => 0
  | .policyRevoke _ => 0
  | .labelGrant _ => 0
  | .policyExpiry _ => 0
  | .faultQueueEvent _ _ => 0
  | .faultQueueRetry _ => 0
  | .slotTimerExpiry _ => 0
  | .heartbeatMiss _ => 0
  | .budgetPeriod => 0
  | .thermtrip _ => 0
  | .regulatorWindow => 0
  | .channelDerate _ => 0
  | .waySweep _ => 0
  | .telemetryExport _ => 0
  | .functionLevelReset _ => 0
  | .rakejob _ => 0
  | .rakeItemDone => 0
  | .rakestat _ => 0
  | .deviceReset => 0
  | .powerOn _ _ _ => 0
  | .attestationRequest _ => 0
  | .portAttestation _ => 0
  | .fabricPacketArrival _ => 0
  | .hostWrite _ _ _ => 0
  | .hostRead _ _ _ => 0
  | .signedConfigurationRecord _ => 0

/-- The bytes of an instruction, the first at the lowest address (R89, R6). -/
def encodeBytes (i : Instr) : List Byte := natBytes (i.bits / 8) (encode i)

end Sys2Proof
end

