-- ==== Sys2Proof/Machine/Bits.lean ====
section
/-! DEFINITION. Bit-field, byte-order and integer helpers shared by every family, and the results of the scalar
integer instructions as functions of the values read (R109 to R126). -/

namespace Sys2Proof.Machine

open Sys2Proof

/-- The number whose little-endian bytes are given (R6). -/
def bytesNat : List Byte → Nat
  | [] => 0
  | b :: bs => b.toNat + 256 * bytesNat bs

/-- Puts x before the first element that it may stand before. -/
def insertBy {α : Type} (le : α → α → Bool) (x : α) : List α → List α
  | [] => [x]
  | y :: ys => if le x y then x :: y :: ys else y :: insertBy le x ys

/-- The elements in order, with equal ones as they stood. -/
def sortBy {α : Type} (le : α → α → Bool) : List α → List α
  | [] => []
  | x :: xs => insertBy le x (sortBy le xs)

/-- One or zero as a word. -/
def boolWord (b : Bool) : Word := if b then 1 else 0

/-- SatS(v, w): v clamped to the signed range of w bits (R109). -/
def satS (v : Int) (w : Nat) : Int := max (-(2 ^ (w - 1) : Int)) (min v (2 ^ (w - 1) - 1))

/-- SatU(v, w): v clamped to the unsigned range of w bits (R109). -/
def satU (v : Int) (w : Nat) : Int := max 0 (min v (2 ^ w - 1))

/-- A number of w bits read as two's complement. -/
def signedNat (w v : Nat) : Int := if v % 2 ^ w < 2 ^ (w - 1) then (v % 2 ^ w : Nat) else ((v % 2 ^ w : Nat) : Int) - 2 ^ w

/-- The low w bits of an integer in two's complement. -/
def wrapInt (w : Nat) (v : Int) : Nat := (v % (2 ^ w : Int)).toNat

/-- An integer as a word, modulo 2^64. -/
def wordOfInt (v : Int) : Word := BitVec.ofInt 64 v

/-- The low w bits of a word, sign-extended (R109). -/
def signExtendW (w : Nat) (x : Word) : Word := BitVec.ofInt 64 (signedNat w x.toNat)

/-- The low w bits of a word, zero-extended (R109). -/
def zeroExtendW (w : Nat) (x : Word) : Word := BitVec.ofNat 64 (x.toNat % 2 ^ w)

/-- Field [lo + n - 1 : lo] of a word, as a number. -/
def fieldOf (x : Word) (lo n : Nat) : Nat := bitsAt x.toNat lo n

/-- A word with field [lo + n - 1 : lo] replaced. -/
def putField (x : Word) (lo n v : Nat) : Word :=
  BitVec.ofNat 64 (x.toNat - bitsAt x.toNat lo n * 2 ^ lo + v % 2 ^ n * 2 ^ lo)

/-- The word whose lane i, of w bits, is f i, for n lanes. -/
def lanesWord (w n : Nat) (f : Nat → Nat) : Word :=
  BitVec.ofNat 64 ((List.range n).foldr (fun i acc => acc ||| ((f i % 2 ^ w) <<< (w * i))) 0)

/-- Lane i, of w bits, of a word. -/
def laneOf (w : Nat) (x : Word) (i : Nat) : Nat := bitsAt x.toNat (w * i) w

/-- The number of one bits among the low n bits of a number. -/
def onesBelow : Nat → Nat → Nat
  | 0, _ => 0
  | n + 1, x => x % 2 + onesBelow n (x / 2)

/-- The number of zero bits below the lowest one bit, among the low n bits. -/
def zerosBelow : Nat → Nat → Nat
  | 0, _ => 0
  | n + 1, x => if x % 2 = 1 then 0 else 1 + zerosBelow n (x / 2)

/-- The number of leading zero bits of a 64-bit number (R124). -/
def leadingZeros (x : Nat) : Nat := if x = 0 then 64 else 63 - Nat.log2 x

/-- The set bits of a mask below n, in ascending order. -/
def bitsOf (n x : Nat) : List Nat := (List.range n).filter fun i => x.testBit i

/-! ## The scalar integer results -/

/-- The rotation of a word to the right (R112). -/
def rotr (a : Word) (n : Nat) : Word := a.rotateRight n

/-- `sll` by b[5:0] (R112). -/
def aluSll (a b : Word) : Word := a <<< (b.toNat % 64)
/-- `srl` by b[5:0] (R112). -/
def aluSrl (a b : Word) : Word := a >>> (b.toNat % 64)
/-- `sra` by b[5:0] (R112). -/
def aluSra (a b : Word) : Word := a.sshiftRight (b.toNat % 64)
/-- `rot` by b[5:0] (R112). -/
def aluRot (a b : Word) : Word := rotr a (b.toNat % 64)
/-- `min` (R112). -/
def aluMin (a b : Word) : Word := if a.slt b then a else b
/-- `max` (R112). -/
def aluMax (a b : Word) : Word := if b.slt a then a else b
/-- `minu` (R112). -/
def aluMinu (a b : Word) : Word := if a.ult b then a else b
/-- `maxu` (R112). -/
def aluMaxu (a b : Word) : Word := if b.ult a then a else b
/-- `slt` (R112). -/
def aluSlt (a b : Word) : Word := boolWord (a.slt b)
/-- `sltu` (R112). -/
def aluSltu (a b : Word) : Word := boolWord (a.ult b)
/-- `seq` (R112). -/
def aluSeq (a b : Word) : Word := boolWord (a == b)

/-- `mulh`: the upper half of the signed product (R116). -/
def aluMulh (a b : Word) : Word := wordOfInt ((a.toInt * b.toInt) / 2 ^ 64)
/-- `mulhu`: the upper half of the unsigned product (R116). -/
def aluMulhu (a b : Word) : Word := BitVec.ofNat 64 (a.toNat * b.toNat / 2 ^ 64)
/-- `div`, with the borderline cases of R116. -/
def aluDiv (a b : Word) : Word := if b = 0 then -1 else wordOfInt (a.toInt.tdiv b.toInt)
/-- `divu`, with the borderline cases of R116. -/
def aluDivu (a b : Word) : Word := if b = 0 then -1 else BitVec.ofNat 64 (a.toNat / b.toNat)
/-- `rem`, with the borderline cases of R116. -/
def aluRem (a b : Word) : Word := if b = 0 then a else wordOfInt (a.toInt.tmod b.toInt)
/-- `remu`, with the borderline cases of R116. -/
def aluRemu (a b : Word) : Word := if b = 0 then a else BitVec.ofNat 64 (a.toNat % b.toNat)

/-- The lane width of a packed operation, in bits (R117). -/
def pbits : PWidth → Nat
  | .b8 => 8
  | .h16 => 16
  | .w32 => 32

/-- A packed operation whose lanes are given as numbers of w bits (R117). -/
def packed (w : PWidth) (f : Nat → Nat → Nat) (a b : Word) : Word :=
  lanesWord (pbits w) (64 / (pbits w)) fun i => f (laneOf (pbits w) a i) (laneOf (pbits w) b i)

/-- A packed operation on lanes read as signed, its result wrapped (R118). -/
def packedS (w : PWidth) (f : Int → Int → Int) (a b : Word) : Word :=
  packed w (fun x y => wrapInt (pbits w) (f (signedNat (pbits w) x) (signedNat (pbits w) y))) a b

/-- A packed operation on lanes read as unsigned, its result wrapped (R118). -/
def packedU (w : PWidth) (f : Int → Int → Int) (a b : Word) : Word :=
  packed w (fun x y => wrapInt (pbits w) (f x y)) a b

/-- A packed comparison: all ones in a lane where it holds (R118). -/
def packedCmp (w : PWidth) (p : Nat → Nat → Bool) (a b : Word) : Word :=
  packed w (fun x y => if p x y then 2 ^ (pbits w) - 1 else 0) a b

/-- A packed shift of every lane by the low bits of the whole register b (R118). -/
def packedShift (w : PWidth) (f : Nat → Nat → Nat) (a b : Word) : Word :=
  packed w (fun x _ => f x (b.toNat % (pbits w))) a b

/-- A packing operation: the narrowed lanes of a below those of b (R119). -/
def packLanes (w : PWidth) (narrow : Nat → Int) (a b : Word) : Word :=
  lanesWord ((pbits w) / 2) (2 * (64 / (pbits w))) fun i =>
    let n := 64 / (pbits w)
    wrapInt ((pbits w) / 2) (if i < n then narrow (laneOf (pbits w) a i) else narrow (laneOf (pbits w) b (i - n)))

/-- The real part of CI16 element k of a register (R120). -/
def ciRe (x : Word) (k : Nat) : Int := signedNat 16 (laneOf 16 x (2 * k))
/-- The imaginary part of CI16 element k of a register (R120). -/
def ciIm (x : Word) (k : Nat) : Int := signedNat 16 (laneOf 16 x (2 * k + 1))

/-- The two-term complex dot product of a and b, with b conjugated when asked (R121). -/
def cdot (conj : Bool) (a b : Word) : Int × Int :=
  let bi (k : Nat) : Int := if conj then - ciIm b k else ciIm b k
  ( (ciRe a 0 * ciRe b 0 - ciIm a 0 * bi 0) + (ciRe a 1 * ciRe b 1 - ciIm a 1 * bi 1),
    (ciRe a 0 * bi 0 + ciIm a 0 * ciRe b 0) + (ciRe a 1 * bi 1 + ciIm a 1 * ciRe b 1) )

/-- `cabs2` (R122). -/
def aluCabs2 (a : Word) : Word :=
  lanesWord 32 2 fun k => (ciRe a k * ciRe a k + ciIm a k * ciIm a k).toNat

/-- `mulq`: a packed Q15 multiply with rounding (R122). -/
def aluMulq (a b : Word) : Word :=
  lanesWord 16 4 fun i =>
    wrapInt 16 (satS ((signedNat 16 (laneOf 16 a i) * signedNat 16 (laneOf 16 b i) + 0x4000) / 2 ^ 15) 16)

/-- `sat` to n bits (R123). -/
def aluSat (n : Nat) (a : Word) : Word := wordOfInt (satS a.toInt n)
/-- `satu` to n bits (R123). -/
def aluSatu (n : Nat) (a : Word) : Word := wordOfInt (satU a.toInt n)

/-- `bswap` (R124). -/
def aluBswap (a : Word) : Word := lanesWord 8 8 fun j => laneOf 8 a (7 - j)

/-- The position and the cut length of the field of `bext`, `bextu` and `bins` (R125). -/
def bitField (b : Word) : Nat × Nat :=
  let p := fieldOf b 0 6
  (p, min (fieldOf b 8 6 + 1) (64 - p))
/-- `bextu` (R125). -/
def aluBextu (a b : Word) : Word := BitVec.ofNat 64 (fieldOf a (bitField b).1 (bitField b).2)
/-- `bext` (R125). -/
def aluBext (a b : Word) : Word := wordOfInt (signedNat (bitField b).2 (fieldOf a (bitField b).1 (bitField b).2))
/-- `bins` (R125). -/
def aluBins (d a b : Word) : Word := putField d (bitField b).1 (bitField b).2 a.toNat

/-- The generator of R159: the state after one draw, which is also the value drawn. -/
def xorshift (s : Word) : Word :=
  let s := s ^^^ (s <<< 13)
  let s := s ^^^ (s >>> 7)
  s ^^^ (s <<< 17)

/-- The state of a generator after n draws (R161). -/
def xorshiftN : Nat → Word → Word
  | 0, s => s
  | n + 1, s => xorshiftN n (xorshift s)

/-- The golden-ratio multiplier of R159. -/
def goldenMul : Word := 0x9E3779B97F4A7C15

/-- The seed of a thread: JS XOR (n x multiplier), with 0 replaced by 1 (R159). -/
def seedOf (js : Word) (n : Nat) : Word :=
  let s := js ^^^ (BitVec.ofNat 64 n * goldenMul)
  if s = 0 then 1 else s

/-- Bits [hi - 1 : lo] of a word, in place. -/
def keepBits (v : Word) (lo hi : Nat) : Word := BitVec.ofNat 64 (fieldOf v lo (hi - lo) * 2 ^ lo)

end Sys2Proof.Machine
end

