-- ==== Sys2Proof/Machine/State.lean ====
section
/-! DEFINITION. The state of the part: its threads, stores, fabric and units, all as plain data, and the reasons
an instruction can stop. Where a field is the model's own and not the spec's, its docstring says so. -/

namespace Sys2Proof.Machine

open Sys2Proof

/-- Why the machine stops: no step of this machine ends in a fault, as the spec gives every instruction an effect. -/
inductive Fault where
  deriving DecidableEq, Repr

/-- Why an instruction has no meaning. -/
inductive Refusal where
  /-- Raised by an arm of `exec` whose instruction has no meaning yet. Safe: nothing is claimed of it. -/
  | notModelled (mnemonic : String)
  deriving DecidableEq, Repr

/-! ## Threads -/

/-- A general register with its tags (R72). -/
structure GReg where
  val    : Word
  full   : Bool
  poison : Bool
  label  : Label
  deriving DecidableEq, Repr

/-- A vector register: its elements, one F/E bit and one label (R77). -/
structure VecReg where
  elems : List (BitVec 32)
  full  : Bool
  label : Label
  deriving DecidableEq, Repr

/-- A mask register: one bit per element and one label (R77). -/
structure MaskReg where
  bits  : List Bool
  label : Label
  deriving DecidableEq, Repr

/-- A vector claim: its lanes and the registers that exist while it is held (R174, R178). No lanes: no claim. -/
structure Claim where
  lanes : Nat
  regs  : List VecReg
  masks : List MaskReg
  stamp : Nat
  deriving DecidableEq, Repr

/-- The trap registers and the save pointer (R387). -/
structure TrapRegs where
  pc      : Word
  code    : Word
  addr    : Word
  info    : Word
  vec     : Word
  saveptr : Word
  deriving DecidableEq, Repr

/-- The other control registers of a thread (R79, R83, R131, R159). -/
structure Ctl where
  status    : Word
  clabel    : Label
  live      : BitVec 32
  seed      : Word
  seedLabel : Label
  nest      : List Word
  vclock    : List Nat
  hbint     : Nat
  hbcnt     : Nat
  slotTimer : Nat
  wmsel     : Word
  pendred   : Nat
  deriving DecidableEq, Repr

/-- The kinds of asynchronous trap, in the order of their priority (R386). -/
inductive AsyncKind where
  | dataerr | watchdog | pressfault | rackfault | beat | timer
  deriving DecidableEq, Repr

/-- A pending asynchronous trap (R386, R396), with the label that CLABEL joins when it is taken (R370). -/
structure AsyncTrap where
  kind  : AsyncKind
  addr  : Word
  info  : Word
  label : Label
  deriving DecidableEq, Repr

/-- Who a thread is and where it was placed (R11, R15, R83). The gang is named by its number in this model; partition
32 stands for none (R82). `js` and `spawns` are the job seed and the spawn count of R159; `census` is the census
that a responder answers, with 0 for a thread that is no responder (R361). -/
structure Ident where
  uid     : Nat
  part    : Nat
  gang    : Nat
  gangid  : Word
  lthread : Nat
  pan     : Nat
  trellis : Nat
  core0   : Nat
  slot0   : Nat
  js      : Word
  spawns  : Nat
  census  : Nat
  answered : Bool
  deriving DecidableEq, Repr

/-- Whether a thread reaches the checks of R101 at its turns, and why not (R103). -/
inductive Run where
  | ready
  | reply       -- awaits the reply of a returning atomic or of a unit
  | waiting     -- in a bank waiter list or the Pan waiter table (R223)
  | parked      -- in `park` or the park of `join` (R324, R139)
  | barred      -- in `barw` (R332)
  | sleeping    -- in `sleep` (R328)
  | transit     -- between homes (R245)
  | stopping    -- being stopped for a fold or a fence; issues nothing (R394)
  | fencing     -- fenced by the heartbeat; its outstanding work still completes (R401)
  | fenced      -- fenced and stopped, its context in its slot (R401)
  | fencedAway  -- fenced and stopped, its context in its save record (R401)
  | saved       -- folded, its context in its save record (R64)
  | quitting    -- after `quit`, until its slot is freed (R143)
  | ended
  deriving DecidableEq, Repr

/-- The discard of a `tlbinv.package` that waits for the work under the discarded entries (R259): the first page that they
cover and the page after the last, and the model's number and the cycle from which work is translated anew. -/
structure Discard where
  first : Nat
  next  : Nat
  id    : Nat
  cycle : Nat
  deriving DecidableEq, Repr

/-- How far an instruction has come that holds its thread over several turns (R105). -/
inductive Progress where
  | fresh
  | counting (till : Nat)            -- completes at the first turn at or after this cycle
  | asked (id : Nat)                 -- a request with this number is with a unit
  | answered (value : Word) (label : Label)   -- the unit's answer, which completes the instruction
  | stage (n : Nat) (a b : Word)     -- a stage of the instruction's own rule, with two values it keeps
  | results (d : Reg) (n : Nat) (l : Label)    -- `cwait`: d, the censuses it waits for and the labels of their results (R365)
  | waits                            -- held by its own rule, which is looked at again at the next turn
  | discards (d : Option Discard)    -- `tlbinv`: it waits for its thread's own writes, or, having discarded, for others' work (R259)
  deriving DecidableEq, Repr

/-- A migration in progress (R245, R249, R252): where the thread goes, the cycle of the migrating instruction's first
attempt, the registers carried, whether `hop` moves it, whether it is held in an arrival buffer, the cycles of its way, the labels
of the registers that its instruction reads (R370), and, where a hub translates it on its way, the address and kind (R247). -/
structure Transit where
  core     : Nat
  since    : Nat
  carried  : BitVec 32
  hop      : Bool
  buffered : Bool
  legs     : Nat
  label    : Label
  via      : Option (Word × Nat)
  deriving DecidableEq, Repr

/-- A fault found after the instruction left its turn, taken at the thread's next turn (R247, R252, R217). -/
structure LateFault where
  code  : Nat
  addr  : Word
  info  : Word
  label : Label
  deriving DecidableEq, Repr

/-- One thread: its context and its place (R11). `core` and `slot` are its home; while it is in transit they are the
departing ones. `proxy` lets the instruction at the PC be performed by proxy after a fallback (R252); `patched` is the
label of the patch on the instruction at its turn (R24); `acqFill` and `acqAcc` are what an acquire or sequential
access waits for (R219); `lastPerf` is the cycle in which the last of its work was performed (R335); `stamp` tells
one wait from the next, so that an old timeout is known to be over (the model's own). -/
structure Thread where
  regs    : Vector GReg 32
  pc      : Word
  ctl     : Ctl
  trap    : TrapRegs
  claim   : Claim
  ident   : Ident
  core    : Nat
  slot    : Nat
  run     : Run
  prog    : Progress
  pending : List AsyncTrap
  second  : List AsyncTrap
  late    : Option LateFault
  transit : Option Transit
  proxy   : Bool
  patched : Label
  acqFill : Option Nat
  acqAcc  : Option Nat
  lastPerf : Nat
  stamp   : Nat
  deriving DecidableEq, Repr

/-! ## Places of memory and accesses -/

/-- Where an access is performed: a byte of a Pan store, or a byte of HBM at its home slice (R203, R237). -/
inductive Loc where
  | pan (n : Nat) (pa : Nat)
  | hbm (pa : Nat)
  deriving DecidableEq, Repr

/-- The functions of the atomic groups (R313). -/
inductive AmoFn where
  | add | and | or | xor | min | max | minu | maxu | swap | fadd32
  deriving DecidableEq, Repr

/-- What an access does where it is performed, in one step. The numbers of `load` and `store` are bytes. -/
inductive MemOp where
  | load (n : Nat) (sx : Bool)             -- R218
  | store (n : Nat) (v : Word)             -- R218
  | loadWord (i : Nat)                     -- word i of a burst (R221) or of a descriptor (R133)
  | storeWords (vs : List Word)            -- words of a burst (R221)
  | ldfe | ldff                            -- R226
  | stfe (v : Word) | stff (v : Word)      -- R226
  | tagr                                   -- R226
  | tagw (full : Bool)                     -- R226
  | amo (fn : AmoFn) (dbl : Bool) (x : Word)   -- R312
  | red (fn : AmoFn) (dbl : Bool) (x : Word)   -- R314
  | cas (exp new : Word)                   -- R318
  | cas2 (exp0 exp1 new0 new1 : Word)      -- R318
  | park (expect : Word) (timeout : Nat)   -- R324
  | claimNest (total : Nat) (divisor : Nat) (chunk : Nat)   -- R134
  | push (pc frame : Word) | pop | steal                    -- of a task deque, at its TOP word (R136)
  | vload (i : Nat) (fmt : Fmt) (bit : Nat) (places : List (Nat × Nat))    -- an element's window offsets and places (R189)
  | vstore (width bit code : Nat)          -- an element's code at a bit of its byte (R190)
  | wakeSlots (core : Nat) (slots : Nat) (sup : Bool)       -- a posted wake (R329)
  | setvat (vat : Nat) (v : Word)          -- a proxied `setvat` (R230, R252)
  deriving DecidableEq, Repr

/-- How far an access has come. -/
inductive AccState where
  | sent        -- on its way
  | arrived     -- at the destination die, before its causal past is applied there (R343)
  | queued      -- at its bank
  | filling     -- at its slice, waiting for a fill (R239)
  | listed      -- in a waiter list or watching (R223, R325)
  | held        -- held by a moving page, a scoreboard range or its causal past (R70, R273, R343)
  | performed   -- performed, its acknowledgement or fill on the way
  deriving DecidableEq, Repr

/-- One access on its way (R208, R254). `uid` is its thread. `label` is the label checked at the destination when the
access is posted (R255), `plabel` the page's label as it was translated. `clock` is the VCLOCK it carries and `num`,
`pair` its numbers as a cross-die write (R343). `input`, `trellis` and `source` say where it queues at its bank (R209,
R211); `klass` is 0 near, 1 quadrant, 2 far, 3 slice (R213, R241); `legs` are the cycles of its way back. `asked` is the
cycle it was issued and `due` the cycle it reaches its bank; `came` is the cycle it reached it first; `kept` says that
it waits in its slot's entry of the hold buffer (R70, R273); `port` is the fabric port that a write came by (R347). -/
structure Acc where
  id      : Nat
  uid     : Nat
  part    : Nat
  op      : MemOp
  loc     : Loc
  va      : Word
  pc      : Word
  label   : Label
  plabel  : Label
  posted  : Bool
  ordered : Bool
  clock   : List Nat
  srcDie  : Nat
  num     : Nat
  pair    : Nat
  cross   : Bool
  input   : Nat
  trellis : Nat
  source  : Nat
  klass   : Nat
  legs    : Nat
  asked   : Nat
  due     : Nat
  fill    : Option Nat
  noalloc : Bool
  kept    : Bool
  came    : Nat
  port    : Option Nat
  state   : AccState
  deriving DecidableEq, Repr

/-- How far a `join` has come (R139): its counter is being read; it pops its own deque, the counter having held a value; or it
steals, with H of R139, the attempts left after this one and the generator's state. -/
inductive JoinStep where
  | count
  | pop (c : Word)
  | steal (c : Word) (h left : Nat) (x : Word)
  deriving DecidableEq, Repr

/-- What a result does when it arrives, beyond filling its registers. -/
inductive FillKind where
  | plain
  | nest (a : Word) (alabel : Label)       -- opens a nest (R133)
  | claim                                  -- delivers a claimed chunk (R134)
  | vector (v : VReg) (zero : Bool) (mask : List Bool)   -- fills a vector register (R184)
  | reply                                  -- ends a hold without a register
  | phase (gang n : Nat)                   -- a status beside the phase of a barrier at the fill (R332)
  | ticket (place : Nat) (word : Word) (press : Bool)   -- the status of a command, once it ends (R266, R307)
  | census (id : Nat)                      -- a census's result (R364), or with 0 a status of `tdir` or `tmove`
  | partRead (n : Nat)                     -- an `mfc` of a partition register on its way to the launch unit (R80)
  | partWrite (n : Nat) (v : Word)         -- an `mtc` of one on its way there (R80)
  | fork (pushed : Bool) (d a b : Reg)     -- `fork`: its count, or its push (R138)
  | join (step : JoinStep) (d a b : Reg)   -- `join`: its count, its pop or a steal (R139)
  deriving DecidableEq, Repr

/-- A result that is outstanding (R73): its thread, its registers in order, their values as they are performed, how
many parts are still to come, its label, the label that joins CLABEL at the fill, and whether the thread returns to
rotation with it. `err` is an uncorrectable error met by a part: the
address, the part, and whether the register is filled (R217). A discarded fill belongs to registers that a
migration left behind (R245). -/
structure Fill where
  id      : Nat
  uid     : Nat
  regs    : List Reg
  vals    : List Word
  parts   : Nat
  label   : Label
  join    : Label
  kind    : FillKind
  resume  : Bool
  advance : Bool
  err     : Option (Word × Nat × Bool)
  discard : Bool
  legs    : Nat
  velems  : List (BitVec 32)
  deriving DecidableEq, Repr

/-- A range of a scoreboard (R273): the trellis of the package whose engine holds it, the command, the partition, Pan and
window pages, whether it is a destination, whether it is active, and its place in the order of acceptance. -/
structure Range where
  engine : Nat
  cmd    : Nat
  part   : Nat
  pan    : Nat
  first  : Nat
  last   : Nat
  dest   : Bool
  active : Bool
  order  : Nat
  deriving DecidableEq, Repr

/-- A bank with requests or with state of its own (R209 to R211): its arbiter pointer, the round-robin state of its
lanes and uplinks, the requests waiting in order of arrival, the first cycle in which it serves again (R208), the cycle in
which it serves the upper word of a pair, and the pair whose lower word it has read (R319). -/
structure Bank where
  pan     : Nat
  bank    : Nat
  pointer : Nat
  lanes   : List (Nat × Nat)
  uplinks : List (Nat × Nat)
  queue   : List Nat
  busyTo  : Nat
  pairAt  : Nat
  pair    : Option Nat
  deriving DecidableEq, Repr

/-- A request in a waiter list, or a watch (R223, R325): its access, the word it waits on, whether it takes an entry of
the Pan waiter table, whether it is a watch, and the cycle at which it was listed. -/
structure Waiter where
  acc   : Nat
  part  : Nat
  word  : Loc
  table : Bool
  watch : Bool
  since : Nat
  deriving DecidableEq, Repr

/-- An L2 line (R238): its slice, way, line number PA[43:8], sector bits, bytes, and its last use. -/
structure L2Line where
  slice : Nat
  way   : Nat
  line  : Nat
  valid : Nat
  dirty : Nat
  data  : List Byte
  used  : Nat
  deriving DecidableEq, Repr

/-- An open or sent fill of a line (R239): its sectors, whether its burst has been sent, the partition whose ways it
takes, the accesses that wait for it in order, and the cycle from which its burst asks the controller (R409). -/
structure L2Fill where
  id      : Nat
  line    : Nat
  sectors : Nat
  sent    : Bool
  part    : Nat
  noalloc : Bool
  waiting : List Nat
  due     : Nat
  deriving DecidableEq, Repr

/-- A window map entry that is not 0 (R205): the partition, Pan and page it belongs to, and its fields. -/
structure MapEntry where
  part   : Nat
  pan    : Nat
  page   : Nat
  valid  : Bool
  read   : Bool
  write  : Bool
  moving : Bool
  cellar : Nat
  frame  : Nat
  label  : Label
  deriving DecidableEq, Repr

/-- An entry of the frame owner table (R234), for a frame number PA[43:13]. -/
structure FrameOwner where
  frame  : Nat
  valid  : Bool
  owner  : Nat
  key    : Nat
  labels : Label
  deriving DecidableEq, Repr

/-- A cached leaf (R236): its partition, the first page VA[55:13] it covers, the pages it covers, and the leaf. -/
structure CachedLeaf where
  part    : Nat
  page    : Nat
  pages   : Nat
  frame   : Nat
  level   : Nat
  read    : Bool
  write   : Bool
  exec    : Bool
  task    : Bool
  label   : Label
  keyslot : Nat
  layout  : Nat
  lesize  : Nat
  noalloc : Bool
  deriving DecidableEq, Repr

/-- What a translation is made for, and where its answer goes (R236). -/
inductive TransFor where
  | posted (uid : Nat)       -- a posted write of a compute-core thread (R254)
  | hop (uid : Nat)          -- `hop` (R257)
  | migrate (uid : Nat)      -- a migration to a global home (R247)
  | fetch (read : Nat)       -- a fetch (R87)
  deriving DecidableEq, Repr

/-- The outcome of a translation: a leaf with the physical address, or a trap code with TRAPINFO (R235). -/
inductive TransAnswer where
  | leaf (pa : Nat) (l : CachedLeaf)
  | fail (code : Nat) (info : Word)
  deriving DecidableEq, Repr

/-- A translation request at a hub (R236). Kinds: 0 read, 1 write, 2 fetch. -/
structure TransReq where
  id      : Nat
  hub     : Nat
  part    : Nat
  va      : Word
  kind    : Nat
  task    : Bool
  dest    : TransFor
  missed  : Bool
  walking : Bool
  answer  : Option TransAnswer
  deriving DecidableEq, Repr

/-- A line of an instruction cache (R85): its core, VA[55:5], the partition that filled it, its bytes, the cycle of its last
use, and the TRAPINFO of the PROT that a fetch in task mode meets where its page is not task-accessible (R84). -/
structure ILine where
  core : Nat
  line : Nat
  part : Nat
  data : List Byte
  used : Nat
  deny : Option Word
  deriving DecidableEq, Repr

/-- A 256-byte block kept by a fetch merger (R87), the latest first: as `ILine`, with the lines of it that have an uncorrectable
error (R84). -/
structure Block where
  trellis : Nat
  block   : Nat
  part    : Nat
  data    : List Byte
  deny    : Option Word
  errs    : List Nat
  deriving DecidableEq, Repr

/-- A block read outstanding (R87): who reads it, for which cores and lines, each with the mode that asks, and the fault a
fetch of it meets; `deny` is as for a line, `clock` the causal past of those who ask (R144, R343), and `gang` the gang of the
thread that began it (R413). -/
structure FetchRead where
  id      : Nat
  place   : Nat
  block   : Nat
  part    : Nat
  wants   : List (Nat × Nat × Bool)
  pa      : Option Nat
  noalloc : Bool
  failed  : Option (Nat × Word)
  deny    : Option Word
  clock   : List Nat
  gang    : Nat
  deriving DecidableEq, Repr

/-- A fetch fault found for a thread's PC, kept until the turn that takes it (R84). -/
structure FetchFault where
  core  : Nat
  part  : Nat
  task  : Bool
  line  : Nat
  code  : Nat
  info  : Word
  deriving DecidableEq, Repr

/-- The clock of a die (R343): SENT, APPLIED by source die, the cross-die writes sent to each die and applied from each
die, and the last beat sent and received. -/
structure DieClock where
  sent     : Nat
  applied  : List Nat
  pairSent : List Nat
  pairDone : List Nat
  beatAt   : Nat
  beats    : List (Nat × Nat × Nat)
  deriving DecidableEq, Repr

/-! ## Slots, gangs and partitions -/

/-- The states of a slot (R58). -/
inductive SlotState where
  | free | occupied | held | scrub
  deriving DecidableEq, Repr

/-- A slot that is not FREE with a cleared wake bit, or that has one (R58, R327). -/
structure Slot where
  core      : Nat
  slot      : Nat
  state     : SlotState
  wake      : Bool
  wakeLabel : Label
  wakeClock : List Nat
  deriving DecidableEq, Repr

/-- A barrier unit of a gang (R330). Waiters are threads with the token they wait with. -/
structure Barrier where
  phase   : Nat
  arrived : Nat
  parts   : Nat
  lb      : Label
  unit    : Nat
  deriving DecidableEq, Repr

/-- A request on its way to a barrier unit (R330): `listed` when it waits in the unit. -/
structure BarReq where
  uid   : Nat
  pan   : Nat
  gang  : Nat
  n     : Nat
  wait  : Bool
  token : Nat
  fill  : Nat
  due   : Nat
  label : Label
  listed : Bool
  deriving DecidableEq, Repr

/-- A patch kept for a launch (R24, R25): the VA of the word it overlays, its kind and its value. -/
structure Patch where
  va    : Nat
  kind  : Nat
  value : Word
  deriving DecidableEq, Repr

/-! ## Launches (R34 to R53) -/

/-- What the launch unit keeps of an image when it starts a launch (R19 to R24). -/
structure Header where
  entry     : Nat
  trapoff   : Nat
  gangmin   : Nat
  gangmax   : Nat
  barriers  : Nat
  vlanes    : Nat
  livemask  : BitVec 32
  paramsize : Nat
  patches   : List Patch
  plabel    : Label
  deriving DecidableEq, Repr

/-- An accepted launch record or invocation (R34, R42, R51): `num` is its arrival number, `vf` the virtual function that
submitted it, `eligible` the cycle since which it is eligible, `allPlaced` the cycle at which its last gang was first
placed (R47), `hdr` the image once it has started, `next` its next gang and `ended` its ended gangs; `closed` says that
it has completed with `status` and its completion word is still to be written, and `acked` is the cycle by which the writes of its
ended threads to host memory and other chips are acknowledged (R16). -/
structure Job where
  num        : Nat
  inv        : Option Invocation
  policy0    : Bool
  image      : Nat
  param      : Nat
  gangcount  : Nat
  gangsize   : Nat
  panmask    : Nat
  prio       : Nat
  completion : Nat
  waiton     : Nat
  jobseed    : Word
  affinity   : Nat
  flags      : Nat
  quantum    : Nat
  msivec     : Nat
  vf         : Option Nat
  eligible   : Option Nat
  allPlaced  : Option Nat
  hdr        : Option Header
  next       : Nat
  ended      : Nat
  status     : Nat
  cancelled  : Bool
  closed     : Bool
  acked      : Nat
  deriving DecidableEq, Repr

/-- A partition's launch unit (R42, R47): its arrival counter, what it has accepted in order of arrival, and the Pans in
which it waits for folds, each with the arrival number that they make room for (R48). -/
structure LaunchUnit where
  arrivals : Nat
  jobs     : List Job
  folds    : List (Nat × Nat)
  deriving DecidableEq, Repr

/-- A virtual function (R40, R41, R407): its binding, the bytes of its staging slots, the slot status words that differ
from their reset value, and the mask and pending bits of its 64 MSI-X vectors (R45). -/
structure VirtFn where
  num     : Nat
  part    : Nat
  valid   : Bool
  cap     : Bool
  capTrap : Bool
  ownsMem : Bool
  staging : List Host.Cell
  status  : List (Nat × Word)
  masked  : Word
  pending : Word
  deriving DecidableEq, Repr

/-! ## Engines (R260 to R310) -/

/-- The kinds of engine command. -/
inductive CmdKind where
  | copy       -- `rack` (R279)
  | rackv      -- `rackv` (R280)
  | tmove      -- the copy of a `tmove` (R358)
  | coll       -- `coll` (R283)
  | press      -- `pmm` (R305)
  | zero       -- `pzero` (R306)
  deriving DecidableEq, Repr

/-- How far a command has come: queued, started, halted by a fault (R278, R300), or landed with its follow-on waiting
for a Press entry (R276). -/
inductive CmdState where
  | queued | started | halted | landed
  deriving DecidableEq, Repr

/-- A command of an engine (R264 to R281, R287 to R303). `queue` is 0 to 3, 4 for QC, 6 for the Press; `label` is what
was bound at acceptance, `tlabel` the label of its ticket, `seed` the state its reserved draws are made from, `read` the
labels of the pages read so far, `after` the fences that hold it back, `src` the ticket of the copy that a follow-on
belongs to, `req` the request of a `tmove`, `gang` the gang that a fold of it moves with, 0 for the copy of a `tmove`, `fadr` the failing
address; `clock` is the causal past of its accesses (R343). -/
structure Cmd where
  id        : Nat
  part      : Nat
  uid       : Nat
  gang      : Nat
  gangid    : Word
  lthread   : Nat
  queue     : Nat
  seq       : Nat
  ticket    : Word
  kind      : CmdKind
  bva       : Word
  block     : List Byte
  shape     : List Byte
  follow    : List Byte
  label     : Label
  tlabel    : Label
  task      : Bool
  rm        : Nat
  seed      : Word
  seedLabel : Label
  draws     : Nat
  done      : Nat
  flags     : Nat
  read      : Label
  status    : Nat
  cause     : Nat
  state     : CmdState
  startAt   : Nat
  order     : Nat
  after     : List Nat
  src       : Option Word
  req       : Nat
  fadr      : Word
  owed      : Bool
  clock     : List Nat
  deriving DecidableEq, Repr

/-- A command that waits for room with its thread (R265), or a fence that does: the fill of its ticket. -/
structure CmdWait where
  cmd   : Cmd
  fence : Option Nat
  fill  : Nat
  deriving DecidableEq, Repr

/-- A fence of an engine (R275): its mask, what of its before-set has not retired, its thread with its gang, and the causal past
of the commands that have (R341). -/
structure QFence where
  id     : Nat
  part   : Nat
  seq    : Nat
  ticket : Word
  mask   : Nat
  before : List Nat
  gang   : Nat
  uid    : Nat
  clock  : List Nat
  deriving DecidableEq, Repr

/-- What is kept of a retired command or fence (R266): its status word, the label of its status, and the clock that a wait for
it joins (R343). -/
structure Retired where
  part   : Nat
  queue  : Nat
  seq    : Nat
  ticket : Word
  status : Word
  label  : Label
  src    : Option Word
  clock  : List Nat
  deriving DecidableEq, Repr

/-- A cached shape record (R269), the latest used first. -/
structure ShapeEntry where
  part  : Nat
  va    : Word
  data  : List Byte
  label : Label
  deriving DecidableEq, Repr

/-- The operation that a Press runs, or the accumulator it keeps for a chain (R288, R293): the command, the accumulators
of C in row-major order (both parts of a complex element one after the other), the k-block it has reached, that at which
it began, and whether it began as a continuation. -/
structure PressRun where
  cmd     : Nat
  acc     : List Int
  block   : Nat
  first   : Nat
  cont    : Bool
  label   : Label
  running : Bool
  deriving DecidableEq, Repr

/-- An entry of a tile directory that is not FREE (R351). `state` is 1 VALID, 2 OUTBOUND, 3 INBOUND. -/
structure DirEntry where
  idx     : Nat
  state   : Nat
  part    : Nat
  key     : Word
  tile    : Word
  length  : Nat
  resppc  : Word
  label   : Label
  lastcen : Nat
  pend    : Nat
  deriving DecidableEq, Repr

/-- A match of a census in a trellis that has not finished (R360): the entry, and its responder once started. `move` is
the move whose landing made a late match, or 0 (R363); `queued` says that it holds an entry of the responder queue. -/
structure Match where
  id     : Nat
  census : Nat
  part   : Nat
  entry  : Nat
  uid    : Option Nat
  queued : Bool
  move   : Nat
  deriving DecidableEq, Repr

/-- A census at a trellis that has processed its broadcast (R359, R362, R364): the answers combined so far. -/
structure TrellisCensus where
  id       : Nat
  part     : Nat
  cseq     : Nat
  slot     : Nat
  key      : Word
  mask     : Word
  op       : Nat
  label    : Label
  js       : Word
  value    : Word
  count    : Nat
  ansLabel : Label
  reported : Bool
  deriving DecidableEq, Repr

/-- What the late matches of a landing have answered for a census (R363). -/
structure LateAnswer where
  move   : Nat
  census : Nat
  value  : Word
  count  : Nat
  label  : Label
  deriving DecidableEq, Repr

/-- The engines of a trellis: its racking engine and Press (R260, R287), its directory and its part in the censuses
(R350, R354, R360). `next` gives the next SEQ by part x 8 + queue, 5 standing for fences; `turn` is the next
(partition, queue), as part x 5 + queue, in the order of R261; `past` is the clock of the commands that have left a queue, and
`fenced` that which retired fences pass to the later commands of one, by part x 8 + queue (R341); `above` are the partitions whose holdings have still to fall below a lowered quota (R273). -/
structure Engine where
  place   : Nat
  cmds    : List Cmd
  waits   : List CmdWait
  next    : List (Nat × Nat)
  retired : List Retired
  fences  : List QFence
  past    : List (Nat × List Nat)
  fenced  : List (Nat × List Nat)
  above   : List Nat
  shapes  : List ShapeEntry
  busyTo  : Nat
  turn    : Nat
  served  : Nat
  press   : Option PressRun
  dir     : List DirEntry
  trcen   : List (Nat × Nat)
  matched : List Match
  census  : List TrellisCensus
  late    : List LateAnswer
  deriving DecidableEq, Repr

/-- A gang (R12, R15): `gid` is its number in this model, `num` its GANGID, `seq` the arrival number of its launch,
`placed` the cycle of its last placement, `trapvec` none where its
threads begin with the default trap vector of their partition (R15). `handler` is the invocation of a handler gang, `policy0` its trap policy, and
`killed` the trap code, PC offset and g1 with its label that ended it (R52). A responder gang belongs to no launch (R361). `folding` is
set while it is being folded, `forced` when a retirement ends its threads (R416), and `folded` is its fold record; `cmds` are the
commands that a fold holds, of which its command list in memory keeps the fields of R64. -/
structure Gang where
  gid      : Nat
  part     : Nat
  pan      : Nat
  num      : Word
  seq      : Nat
  image    : Nat
  vlanes   : Nat
  nbars    : Nat
  trapvec  : Option Word
  livemask : BitVec 32
  patches  : List Patch
  plabel   : Label
  js       : Word
  size     : Nat
  affinity : Nat
  placed   : Nat
  handler  : Option Invocation
  policy0  : Bool
  killed   : Option (Nat × Nat × Word × Label)
  responder : Bool
  bars     : List Barrier
  perf     : List Nat
  folding  : Bool
  forced   : Bool
  folded   : Option Nat
  cmds     : List Cmd
  deriving DecidableEq, Repr

/-! ## The census network (R350 to R366) -/

/-- A request of `tdir` or `tmove` on its way, and the move that it has become (R357, R358). `kind` is 0 put, 1 delete,
2 move; `dest` is the VA that a move goes to, `srcAt` to `dstIdx` its trellises and entries; `landed` is set when its
copy has landed, and `cause` is that of the fault that stopped it. -/
structure DirReq where
  id      : Nat
  uid     : Nat
  part    : Nat
  gangid  : Word
  lthread : Nat
  pan     : Nat
  kind    : Nat
  block   : List Byte
  dest    : Word
  label   : Label
  clabel  : Label
  task    : Bool
  dlabel  : Label
  fill    : Nat
  srcAt   : Nat
  srcIdx  : Nat
  dstAt   : Nat
  dstIdx  : Nat
  landed  : Bool
  cause   : Nat
  deriving DecidableEq, Repr

/-- A census at the root, or one that waits there for a slot, when CSEQ is 0 (R355, R359); `clock` joins the causal pasts of its answers
(R365). -/
structure Census where
  id     : Nat
  part   : Nat
  cseq   : Nat
  slot   : Nat
  key    : Word
  mask   : Word
  op     : Nat
  uid    : Nat
  fill   : Nat
  js     : Word
  label  : Label
  value  : Word
  count  : Nat
  ansLabel : Label
  pans   : Nat
  sent   : Bool
  clock  : List Nat
  deriving DecidableEq, Repr

/-- A census at a Pan node: the trellises that have reported, and what they reported (R353, R364). -/
structure PanNode where
  pan    : Nat
  census : Nat
  value  : Word
  count  : Nat
  label  : Label
  reports : Nat
  deriving DecidableEq, Repr

/-- The census network: the next CSEQ of each partition that is not 1, the outstanding moves with their t, and what
stands at the root and at the Pan nodes (R354, R355). -/
structure CensusNet where
  next   : List (Nat × Nat)
  moves  : List (Nat × Nat × Nat)
  asked  : List Census
  nodes  : List PanNode
  reqs   : List DirReq
  deriving DecidableEq, Repr

/-! ## Collectives at rank 0 (R283, R284) -/

/-- A collective that rank 0 collects: the contributions by rank, chip and port, and the engine and command of rank 0
itself once it has contributed. -/
structure Coll where
  tag     : Nat
  epoch   : Nat
  kind    : Nat
  members : Nat
  count   : Nat
  fmt     : Nat
  op      : Nat
  part    : Nat
  since   : Nat
  timeout : Nat
  given   : List CollMsg
  deriving DecidableEq, Repr

/-! ## What leaves the package, security and the device manager -/

/-- What has left the package, or a signal it has given (R44, R45, R52, R147, R283, R377, R383, R423, R426). -/
inductive Outgoing where
  | host (vf : Nat) (addr : Word) (data : List Byte)
  | hostRead (vf : Nat) (addr : Word) (data : List Byte)
  | hostAbort (vf : Nat) (addr : Word)
  | fabric (port chip : Nat) (addr : Word) (data : List Byte) (label : Label)
  | telemetry (vf : Nat) (data : List Byte)
  | msix (vf vec : Nat)
  | refused (port : Nat) (part : Option Nat) (addr : Word) (label : Label) (chip : Nat)
  | invoke (port chip : Nat) (inv : Invocation)
  | answer (port : Nat) (reply status : Nat)
  | handlerError (port chip : Nat) (part : Nat) (ev : FaultEvent)
  | collective (port chip : Nat) (msg : CollMsg)
  | report (data : List Byte)
  | thermtrip
  deriving DecidableEq, Repr

/-- A Saurn Link port (R3, R374): whether it is attested and up, the chips its routes reach, its label map, and its partition
map, which gives for a sending partition of the peer the local one (R50). -/
structure Port where
  num      : Nat
  up       : Bool
  attested : Bool
  chips    : List Nat
  map      : List (Option Nat)
  parts    : List (Option Nat)
  deriving DecidableEq, Repr

/-- An installed release policy entry (R378) in its table place; one that has lapsed holds its place no longer, but is still the
entry that a refusal names until another takes the place (R377). -/
structure Policy where
  place    : Nat
  id       : Word
  labels   : Label
  dkind    : Nat
  dest     : Nat
  limit    : Nat
  expiry   : Nat
  used     : Nat
  owner    : Nat
  lapsed   : Bool
  deriving DecidableEq, Repr

/-- The security controller (R374, R378, R422): the boots so far, the boot's identifier and cycle, the measurement
registers, the ports, the policy entries, the POLICYIDs used in this boot, the requests queued by each partition, and
the error code on the status pins. -/
structure Security where
  boots    : Nat
  bootId   : Word
  bootAt   : Nat
  mrs      : List (List Byte)
  ports    : List Port
  policies : List Policy
  usedIds  : List Word
  requests : List (Nat × PolicyBody)
  error    : Nat
  deriving DecidableEq, Repr

/-- Items of the Rake's list: a kind, the first target and how many follow one another (R420). -/
structure RakeItem where
  kind   : Nat
  target : Nat
  count  : Nat
  deriving DecidableEq, Repr

/-- The Rake (R420, R421): the current job list in order, DONE, END and RESTARTED. -/
structure Rake where
  list      : List RakeItem
  done      : Nat
  fin       : Nat
  restarted : Bool
  deriving DecidableEq, Repr

/-- A page move of a resize (R68, R69). -/
structure PageMove where
  part   : Nat
  pan    : Nat
  page   : Nat
  cellar : Nat
  frame  : Nat
  begun  : Bool
  deriving DecidableEq, Repr

/-- A resize in progress (R66 to R71): the partitions it touches, the slots still to be handed over, the slots in
scrubbing, the page moves, the cellars that change owner with their new one (Pan, cellar, partition), the slices that
still sweep with the mask of their removed ways, and the gangs that it folds. -/
structure Resize where
  parts   : List Nat
  slots   : List (Nat × Nat)
  scrubs  : List (Nat × Nat)
  moves   : List PageMove
  cellars : List (Nat × Nat × Option Nat)
  sweeps  : List (Nat × Nat)
  folds   : List Nat
  deriving DecidableEq, Repr

/-- A retirement in progress (R408, R416 to R418): the partition, where its request stands with the TAG that was taken (partition,
slot, TAG), whether a reset of a function tears it down, and the cycle at which the erase of its key slot was ordered. -/
structure Retirement where
  part   : Nat
  answer : Option (Nat × Nat × Nat)
  reset  : Bool
  erased : Option Nat
  deriving DecidableEq, Repr

/-- The device manager and the power of the part (R407, R408, R425, R426): the chip's number, PLIMIT, HOSTPORT, the
digest of the owner key, whether power is good, f in sixteenths, the cause of a thermal trip, the Rake, the resize in
progress, the retirements in progress, and the count of periods. -/
structure Device where
  chip     : Nat
  plimit   : Nat
  hostPort : Nat
  owner    : List Byte
  pwrgd    : Bool
  halted   : Bool
  throttle : Nat
  tripped  : Option Nat
  rake     : Rake
  resize   : Option Resize
  retiring : List Retirement
  periods  : Nat
  deriving DecidableEq, Repr

/-- An ownership set (R55). `cellars` holds the cellar mask of each Pan. -/
structure Ownership where
  gen        : Nat
  panmask    : Nat
  keyslot    : Nat
  slotmask   : Nat
  chslotmask : Nat
  waymask    : Nat
  colours    : Nat
  vlaneq     : Nat
  pressq     : Nat
  flags      : Nat
  regmin     : Nat
  regcap     : Nat
  savearena  : Nat
  saverecs   : Nat
  cellars    : List Nat
  deriving DecidableEq, Repr

/-- A partition's control registers and translation root (R79, R80, R232). -/
structure PartRegs where
  deftrapvec : Word
  htbase     : Word
  ownbase    : Word
  fqbase     : Word
  root       : Option Nat
  deriving DecidableEq, Repr

/-- A partition's fault queue at its launch unit (R392): the write index, the lost count, the event count and the
events that wait, each with its number. -/
structure FaultQueue where
  wr    : Nat
  lost  : Nat
  seq   : Nat
  queue : List (Nat × FaultEvent)
  retry : Bool
  deriving DecidableEq, Repr

/-- A configured partition. `accounts` are the budget accounts of the Pans (R404), `budget` the figure B of each, and
`charged` what each Pan was charged in this period (R426); `unit` is its launch unit; `arena` holds the records of the save arena in use (R64); `fenceCap` and `fenceTrap` are the policy of R336;
`migFallback` is a
telemetry count (R252); `perf` are the counters of R413; `firm`, `manager` and `pubkey` come from the configuration
record (R407); `retiring` is set while the partition retires (R416); `used` are the Presses (KIND 4) and lane pools (KIND 5) whose
storage it has used, with their trellis (R416, R420), and `derates` the channels whose derate events the next export tells of
(R414). -/
structure Part where
  num       : Nat
  own       : Ownership
  regs      : PartRegs
  faults    : FaultQueue
  budget    : Nat
  accounts  : List Int
  charged   : List Nat
  unit      : LaunchUnit
  arena     : List Nat
  fenceCap  : Bool
  fenceTrap : Bool
  migFallback : Nat
  perf      : List Nat
  firm      : Bool
  manager   : Bool
  pubkey    : List Byte
  retiring  : Bool
  used      : List (Nat × Nat)
  derates   : List Nat
  deriving DecidableEq, Repr

/-! ## The whole state -/

/-- What became of the turn of the thread at its turn (R104): still to come, or its outcome; `held` is an idle turn of
an instruction that holds its thread by its own rule (R105). -/
inductive Turn where
  | open | issue | idle | held | trap | migrate
  deriving DecidableEq, Repr

/-- Time and order (the model's own but for the cycle count of R54): the turns left in this cycle, whether the turns of
the cycle have been listed, the steps due now, the steps due at later cycles, the next number for an object, and the
counter of free values. -/
structure Time where
  cycle    : Nat
  turn     : Turn
  todo     : List Nat
  closed   : Bool
  agenda   : List Instr
  calendar : List (Nat × Instr)
  next     : Nat
  draws    : Nat
  deriving DecidableEq, Repr

/-- The stores and what belongs to them. A Pan-store byte of Pan n stands at key n x 2^25 + PA. `empties` are the keys
of the words whose tag is empty (R222); `badWords` and `badSectors` have uncorrectable errors (R217, R240), `softWords` correctable ones (R217);
`dirtyFrames` are the frames whose cleared bit is 0 (R419); `keyLabels` are the key labels that are not empty (R372); `vats` are the format registers that are not 0 (R229). -/
structure Memory where
  hbm        : List Host.Cell
  pan        : List Host.Cell
  empties    : List Nat
  badWords   : List Nat
  badSectors : List Nat
  softWords  : List Nat
  dirtyFrames : List Nat
  vats       : List (Nat × Word)
  maps       : List MapEntry
  owners     : List FrameOwner
  lines      : List L2Line
  l2fills    : List L2Fill
  keyLabels  : List (Nat × Label)
  deriving DecidableEq, Repr

/-- The fabric: accesses, results, banks, waiters, barrier requests, the ranges of the scoreboards (R273), and for each thread
that has exported the cycle in which the last of its exports is acknowledged (R345). -/
structure Fabric where
  accs    : List Acc
  fills   : List Fill
  banks   : List Bank
  waiters : List Waiter
  bars    : List BarReq
  ranges  : List Range
  exports : List (Nat × Nat)
  deriving DecidableEq, Repr

/-- The memory controllers (R409 to R411): sectors moved in this window by channel and partition, bursts that wait for
the next window, derated channels, those that are derated from the next window, the cycle in which this window began, the
partition that each channel served last, and the figures (channel, partition, minimum and cap) that hold on to the end of this window. -/
structure Controllers where
  moved    : List (Nat × Nat × Nat)
  held     : List Nat
  derated  : List Nat
  derating : List Nat
  since    : Nat
  served   : List (Nat × Nat)
  kept     : List (Nat × Nat × Nat × Nat)
  deriving DecidableEq, Repr

/-- Translation: the cached leaves of each hub, the requests in progress, and the engines' micro-caches by trellis of
the package (R236). -/
structure Translation where
  hubs  : List (Nat × CachedLeaf)
  reqs  : List TransReq
  micro : List (Nat × CachedLeaf)
  deriving DecidableEq, Repr

/-- Code fetch (R85, R87). -/
structure Fetch where
  ilines : List ILine
  blocks : List Block
  reads  : List FetchRead
  faults : List FetchFault
  deriving DecidableEq, Repr

/-- The causal clocks (R343, R344, R346): one for each of the 12 dies, the reports and the stable clock of hub 0, the
clock G of the ordering point and the number of its fences. -/
structure Clocks where
  dies    : List DieClock
  reports : List (List Nat)
  stable  : List Nat
  gclock  : List Nat
  gcount  : Nat
  deriving DecidableEq, Repr

/-- The state of the part. `t` is the thread at its turn and `others` are the other threads; `out` is what has left the
package, in order (the model's own). -/
structure State where
  t      : Thread
  others : List Thread
  time   : Time
  mem    : Memory
  fab    : Fabric
  ctrl   : Controllers
  trans  : Translation
  fetch  : Fetch
  clocks : Clocks
  slots  : List Slot
  gangs  : List Gang
  parts  : List Part
  vfs    : List VirtFn
  engines : List Engine
  census : CensusNet
  colls  : List Coll
  sec    : Security
  dev    : Device
  out    : List Outgoing
  deriving DecidableEq, Repr

/-! ## Reset -/

/-- A register at the start of a thread: its value, full, not poisoned (R15). -/
def GReg.start (v : Word) (l : Label) : GReg := ⟨v, true, false, l⟩

/-- The claim of a thread that holds none. -/
def Claim.none : Claim := ⟨0, [], [], 0⟩

/-- The control registers of a thread at its start, where R15 gives nothing else (R79). -/
def Ctl.start : Ctl :=
  { status := 0, clabel := 0, live := 0, seed := 1, seedLabel := 0, nest := [0, 0, 0, 0]
    vclock := List.replicate 16 0, hbint := 0x01000000, hbcnt := 0, slotTimer := 0, wmsel := 0, pendred := 0 }

/-- The thread that runs the ROM code in slot 0 of the management core, in device mode (R82). Its registers and
vectors, which the spec leaves open, are those of assumption 1. -/
def Thread.management : Thread :=
  { regs := Vector.replicate 32 (GReg.start 0 0)
    pc := 0
    ctl := { Ctl.start with status := 2 }
    trap := ⟨0, 0, 0, 0, 0, 0⟩
    claim := Claim.none
    ident := { uid := 0, part := 32, gang := 0, gangid := 0, lthread := 0, pan := 0, trellis := 0, core0 := 8448
               slot0 := 0, js := 0, spawns := 0, census := 0, answered := false }
    core := 8448, slot := 0, run := .ready, prog := .fresh, pending := [], second := [], late := none
    transit := none, proxy := false, patched := 0, acqFill := none, acqAcc := none, lastPerf := 0, stamp := 0 }

/-- A die clock at reset (R343). -/
def DieClock.reset : DieClock :=
  ⟨0, List.replicate 12 0, List.replicate 12 0, List.replicate 12 0, 0, []⟩

/-- A virtual function at reset: bound to no partition, its window at the reset values of R40 and R41 (assumption 1 for
its MSI-X bits). -/
def VirtFn.reset (n : Nat) : VirtFn := ⟨n, 0, false, false, false, false, [], [], 0, 0⟩

/-- A fabric port at reset: up, without an attestation and so without maps (R374); the chip that its route reaches is
that of assumption 1. -/
def Port.reset (n : Nat) : Port := ⟨n, true, false, [n + 1], [], []⟩

/-- The machine right after reset: memory clear with every tag full (R421, R71), no partition configured, and the ROM
code's thread in slot 0 of the management core (R82). -/
def State.reset : State :=
  { t := Thread.management
    others := []
    time := ⟨0, .open, [], false, [],
      [(256, .clockBeat), (1400, .regulatorWindow), (65536, .vclockZeroing), (140000, .budgetPeriod)], 1, 0⟩
    mem := ⟨[], [], [], [], [], [], [], [], [], [], [], [], []⟩
    fab := ⟨[], [], [], [], [], [], []⟩
    ctrl := ⟨[], [], [], [], 0, [], []⟩
    trans := ⟨[], [], []⟩
    fetch := ⟨[], [], [], []⟩
    clocks := ⟨List.replicate 12 DieClock.reset, List.replicate 12 (List.replicate 12 0), List.replicate 16 0,
      List.replicate 16 0, 0⟩
    slots := [⟨8448, 0, .occupied, false, 0, []⟩]
    gangs := []
    parts := []
    vfs := (List.range 256).map VirtFn.reset
    engines := []
    census := ⟨[], [], [], [], []⟩
    colls := []
    sec := ⟨0, 0, 0, List.replicate 3 (List.replicate 64 0), (List.range 16).map Port.reset, [], [], [], 0⟩
    dev := ⟨0, 2400, 0, [], false, false, 16, none, ⟨[], 0, 0, false⟩, none, [], 0⟩
    out := [] }

end Sys2Proof.Machine
end

