-- ==== Sys2Proof/Machine/Ops.lean ====
section
/-! DEFINITION. The named operations over the state that every family uses: registers, labels, control fields,
threads, time, the taking of a trap (R385) and the return from one (R391). -/

namespace Sys2Proof.Machine

open Sys2Proof

/-- The outcome of a step of this machine. -/
abbrev Result := Host.Outcome State Fault Refusal

/-! ## Registers and labels -/

/-- g0: 0, full, not poisoned, with the empty label (R72). -/
def zeroReg : GReg := ⟨0, true, false, 0⟩

/-- A general register as it is read (R72). -/
def Thread.reg (t : Thread) (r : Reg) : GReg := if r = 0 then zeroReg else t.regs[r]

/-- Sets a general register and its tags; a write to g0 is discarded (R72). -/
def Thread.setReg (t : Thread) (r : Reg) (g : GReg) : Thread :=
  if r = 0 then t else { t with regs := t.regs.set r.val g r.isLt }

/-- The write of R73: value, full, not poisoned, and the result label. -/
def Thread.write (t : Thread) (r : Reg) (v : Word) (l : Label) : Thread := t.setReg r ⟨v, true, false, l⟩

/-- Marks a destination empty and clears its poison at issue (R73). -/
def Thread.markEmpty (t : Thread) (r : Reg) : Thread :=
  t.setReg r { t.reg r with full := false, poison := false }

/-- The value of a general register of the thread at its turn. -/
def State.val (s : State) (r : Reg) : Word := (s.t.reg r).val

/-- The label of a general register of the thread at its turn. -/
def State.lbl (s : State) (r : Reg) : Label := (s.t.reg r).label

/-- Writes a register of the thread at its turn (R73). -/
def State.write (s : State) (r : Reg) (v : Word) (l : Label) : State := { s with t := s.t.write r v l }

/-- The union of the labels of registers. -/
def labelsOf (t : Thread) (rs : List Reg) : Label := rs.foldr (fun r l => (t.reg r).label ||| l) 0

/-- The result label of R110 and R368: CLABEL, the sources' labels, and the label of a patch. -/
def State.resultLabel (s : State) (rs : List Reg) : Label :=
  s.t.ctl.clabel ||| s.t.patched ||| labelsOf s.t rs

/-- a is a subset of b, as labels. -/
def labelLe (a b : Label) : Bool := a &&& ~~~b == 0

/-- CLABEL := CLABEL joined with a label (R369). -/
def Thread.joinClabel (t : Thread) (l : Label) : Thread := { t with ctl := { t.ctl with clabel := t.ctl.clabel ||| l } }

/-- CLABEL of the thread at its turn joins a label. -/
def State.joinClabel (s : State) (l : Label) : State := { s with t := s.t.joinClabel l }

/-- The label of a partition's own bit; a thread of no partition has the empty label. -/
def partLabel (p : Nat) : Label := if p < 32 then BitVec.ofNat 32 (2 ^ p) else 0

/-! ## STATUS and modes (R81) -/

/-- STATUS.MODE: 0 task, 1 supervisor, 2 device (R81). -/
def Thread.mode (t : Thread) : Nat := fieldOf t.ctl.status 0 2
/-- Task mode. -/
def Thread.isTask (t : Thread) : Bool := t.mode = 0
/-- Device mode (R82). -/
def Thread.isDevice (t : Thread) : Bool := t.mode = 2
/-- STATUS.INTRAP (R81). -/
def Thread.inTrap (t : Thread) : Bool := fieldOf t.ctl.status 17 1 = 1
/-- Replaces a field of STATUS. -/
def Thread.setStatus (t : Thread) (lo n v : Nat) : Thread :=
  { t with ctl := { t.ctl with status := putField t.ctl.status lo n v } }

/-! ## The thread's turn -/

/-- The PC of the thread at its turn moves on by the length of its instruction, and the turn was an issue (R104). -/
def State.retire (s : State) (n : Nat) : State :=
  { s with t := { s.t with pc := s.t.pc + BitVec.ofNat 64 n, prog := .fresh, proxy := false }
           time := { s.time with turn := .issue } }

/-- The PC moves to a target, and the turn was an issue. -/
def State.jump (s : State) (pc : Word) : State :=
  { s with t := { s.t with pc := pc, prog := .fresh, proxy := false }, time := { s.time with turn := .issue } }

/-- The turn is idle: PC, registers and STATUS are unchanged (R104). -/
def State.idle (s : State) : State := { s with time := { s.time with turn := .idle } }

/-- The instruction holds its thread by its own rule and is looked at again at the next turn (R105). -/
def State.hold (s : State) (p : Progress) : State :=
  { s with t := { s.t with prog := p }, time := { s.time with turn := .held } }

/-- The instruction has issued and its thread leaves rotation until an event returns it (R103). -/
def State.leave (s : State) (r : Run) (p : Progress) : State :=
  { s with t := { s.t with run := r, prog := p }, time := { s.time with turn := .issue } }

/-- Changes the thread with a number, wherever it is. -/
def State.modThread (s : State) (uid : Nat) (f : Thread → Thread) : State :=
  if s.t.ident.uid = uid then { s with t := f s.t }
  else { s with others := s.others.map fun t => if t.ident.uid = uid then f t else t }

/-- The thread with a number. -/
def State.thread (s : State) (uid : Nat) : Option Thread :=
  if s.t.ident.uid = uid then some s.t else s.others.find? fun t => t.ident.uid = uid

/-- A thread that a result does not return to rotation: it ends, or it is stopped or saved (R143, R394). -/
def Run.stopped (r : Run) : Bool :=
  match r with
  | .quitting | .ended | .stopping | .fencing | .fenced | .fencedAway | .saved => true
  | .ready | .reply | .waiting | .parked | .barred | .sleeping | .transit => false

/-- A thread comes to its turn; the one before it goes back to the others, or is forgotten when it has ended. -/
def State.focus (s : State) (uid : Nat) : State :=
  if s.t.ident.uid = uid then s
  else
    match s.others.find? fun t => t.ident.uid = uid with
    | none => s
    | some t =>
      let rest := s.others.filter fun x => x.ident.uid ≠ uid
      { s with t := t, others := if s.t.run == .ended then rest else s.t :: rest }

/-- The cycle in which the last export of a thread so far is acknowledged by its destination (R345; assumption 95). -/
def State.ackedAt (s : State) (uid : Nat) : Nat := ((s.fab.exports.find? fun x => x.1 = uid).map Prod.snd).getD 0

/-- Every thread of the part. -/
def State.threads (s : State) : List Thread := s.t :: s.others

/-! ## Time and the agenda (assumption 3) -/

/-- A step that is due now, after those already due. -/
def State.push (s : State) (i : Instr) : State := { s with time := { s.time with agenda := s.time.agenda ++ [i] } }

/-- A step that is due at a later cycle. -/
def State.schedule (s : State) (c : Nat) (i : Instr) : State :=
  { s with time := { s.time with calendar := s.time.calendar ++ [(c, i)] } }

/-- A step that is due at a later cycle and stands in the calendar at most once for that cycle. -/
def State.scheduleOnce (s : State) (c : Nat) (i : Instr) : State :=
  if s.time.calendar.contains (c, i) then s else s.schedule c i

/-- A new number for an object of the model. -/
def State.fresh (s : State) : Nat × State := (s.time.next, { s with time := { s.time with next := s.time.next + 1 } })

/-- A free value (assumption 2). -/
def State.free (s : State) : Word × State :=
  (Config.freeValue s.time.draws, { s with time := { s.time with draws := s.time.draws + 1 } })

/-! ## Partitions, gangs and slots -/

/-- A configured partition. -/
def State.part? (s : State) (p : Nat) : Option Part := s.parts.find? fun x => x.num = p
/-- Changes a partition. -/
def State.modPart (s : State) (p : Nat) (f : Part → Part) : State :=
  { s with parts := s.parts.map fun x => if x.num = p then f x else x }
/-- A gang of the model's number. -/
def State.gang? (s : State) (g : Nat) : Option Gang := s.gangs.find? fun x => x.gid = g
/-- Changes a gang. -/
def State.modGang (s : State) (g : Nat) (f : Gang → Gang) : State :=
  { s with gangs := s.gangs.map fun x => if x.gid = g then f x else x }
/-- Whether bit n of a partition's PANMASK is set (R55). -/
def State.ownsPan (s : State) (p n : Nat) : Bool :=
  match s.part? p with
  | some x => x.own.panmask.testBit n
  | none => false

/-- Storage of a kind in a trellis, which the Rake clears when the partition retires, has been used (R416, R420). -/
def State.noteUse (s : State) (part kind place : Nat) : State :=
  s.modPart part fun p => if p.used.contains (kind, place) then p else { p with used := p.used ++ [(kind, place)] }

/-- The kinds of core (R54). -/
def isCompute (core : Nat) : Bool := core < 8192
/-- A channel core (R54). -/
def isChannel (core : Nat) : Bool := 8192 ≤ core && core < 8448
/-- The Pan of a compute core (R54). -/
def corePan (core : Nat) : Nat := core / 1024
/-- The trellis, within its Pan, of a compute core (R54). -/
def coreTrellis (core : Nat) : Nat := core % 1024 / 8
/-- The die of a core: Pan dies 0 to 7, hub dies 8 to 11 (R83, R343). -/
def coreDie (core : Nat) : Nat := if isCompute core then corePan core else if isChannel core then 8 + (core - 8192) / 64 else 8

/-- The Pan whose store the local window names: that of the home core, or the origin Pan on a channel core (R204). -/
def Thread.localPan (t : Thread) : Nat := if isCompute t.core then corePan t.core else t.ident.pan

/-- The thread runs in its origin trellis (R176). -/
def Thread.atOrigin (t : Thread) : Bool :=
  isCompute t.core && corePan t.core = t.ident.pan && coreTrellis t.core = t.ident.trellis

/-- The threads that a gang holds at a moment (R83). -/
def State.gangThreads (s : State) (g : Nat) : List Thread :=
  s.threads.filter fun t => t.ident.gang = g && t.run != .ended

/-- GANGSIZE.COUNT of a gang at a moment (R83). -/
def State.gangSize (s : State) (g : Nat) : Nat := (s.gangThreads g).length

/-- A slot's record; a slot with none is FREE with a cleared wake bit (R58). -/
def State.slot (s : State) (core slot : Nat) : Slot :=
  (s.slots.find? fun x => x.core = core && x.slot = slot).getD ⟨core, slot, .free, false, 0, []⟩

/-- Replaces a slot's record; a FREE slot needs none (R58, R327). -/
def State.setSlot (s : State) (x : Slot) : State :=
  let rest := s.slots.filter fun y => !(y.core = x.core && y.slot = x.slot)
  { s with slots := if x.state = .free then rest else x :: rest }

/-- The slots of a partition in a core (R55, R329). -/
def State.slotMask (s : State) (p core : Nat) : Nat :=
  match s.part? p with
  | some x => if isCompute core then (if x.own.panmask.testBit (corePan core) then x.own.slotmask else 0)
      else if isChannel core then x.own.chslotmask else 0
  | none => 0

/-- A slot whose owner changes and which has not been handed over yet; it counts as taken (R67). -/
def State.departing (s : State) (core slot : Nat) : Bool :=
  match s.dev.resize with
  | some r => r.slots.contains (core, slot)
  | none => false

/-- Changes the resize in progress. -/
def State.modResize (s : State) (f : Resize → Resize) : State :=
  match s.dev.resize with
  | some r => { s with dev := { s.dev with resize := some (f r) } }
  | none => s

/-- A resize with nothing left to do ends: each affected partition is told (R71). -/
def State.checkResize (s : State) : State :=
  match s.dev.resize with
  | none => s
  | some r =>
    if r.slots.isEmpty && r.scrubs.isEmpty && r.moves.isEmpty && r.cellars.isEmpty && r.sweeps.isEmpty && r.folds.isEmpty then
      r.parts.foldl (fun (s : State) p => s.push (.resized p)) { s with dev := { s.dev with resize := none } }
    else s

/-- A fold of a gang has ended, or the gang has: a resize that waits for it goes on (R71). -/
def State.foldOver (s : State) (gid : Nat) : State :=
  (s.modResize fun r => { r with folds := r.folds.filter fun g => g ≠ gid }).checkResize

/-- A slot is FREE for its partition (R58, R67). -/
def State.slotFree (s : State) (core slot : Nat) : Bool := (s.slot core slot).state == .free && !s.departing core slot

/-- The first FREE slot of a partition in a core, in ascending order (R248). -/
def State.freeSlot (s : State) (p core : Nat) : Option Nat :=
  (bitsOf 16 (s.slotMask p core)).find? fun n => s.slotFree core n

/-! ## Outstanding work of a thread -/

/-- The accesses of a thread not yet performed (R16, R335). -/
def State.unperformed (s : State) (uid : Nat) : List Acc :=
  s.fab.accs.filter fun a => a.uid = uid && a.state != .performed

/-- The posted writes of a thread not yet acknowledged (R254). -/
def State.unacked (s : State) (uid : Nat) : List Acc := s.fab.accs.filter fun a => a.uid = uid && a.posted

/-- The results a thread still awaits. -/
def State.fillsOf (s : State) (uid : Nat) : List Fill := s.fab.fills.filter fun f => f.uid = uid && !f.discard

/-- Every earlier access, reduction and posted store of the thread has been performed (R219, R316). -/
def State.drained (s : State) : Bool := (s.unperformed s.t.ident.uid).isEmpty && (s.unacked s.t.ident.uid).isEmpty

/-- An earlier acquire or sequential access still holds back the thread's memory accesses (R219). -/
def State.acquireHeld (s : State) : Bool :=
  (match s.t.acqFill with
   | some f => s.fab.fills.any fun x => x.id = f
   | none => false) ||
  (match s.t.acqAcc with
   | some a => s.fab.accs.any fun x => x.id = a && x.state != .performed
   | none => false)

/-! ## Traps -/

/-- The trap codes (R384). -/
inductive TrapCode where
  | illegal | priv | emptyreg | poisonreg | align | page | prot | label | format | dataerr | fpexc | syscall
  | break | timer | msg | beat | watchdog | pressfault | rackfault | vclaim | census | fencedem | sluice | folded
  | migrfallback
  deriving DecidableEq, Repr

/-- The value of a trap code (R384). -/
def trapNumber : TrapCode → Nat
  | .illegal => 0x01
  | .priv => 0x02
  | .emptyreg => 0x03
  | .poisonreg => 0x04
  | .align => 0x05
  | .page => 0x06
  | .prot => 0x07
  | .label => 0x08
  | .format => 0x09
  | .dataerr => 0x0A
  | .fpexc => 0x0B
  | .syscall => 0x0C
  | .break => 0x0D
  | .timer => 0x0E
  | .msg => 0x0F
  | .beat => 0x10
  | .watchdog => 0x11
  | .pressfault => 0x12
  | .rackfault => 0x13
  | .vclaim => 0x14
  | .census => 0x15
  | .fencedem => 0x16
  | .sluice => 0x17
  | .folded => 0x18
  | .migrfallback => 0x19

/-- The code of each kind of asynchronous trap (R386). -/
def asyncNumber : AsyncKind → Nat
  | .dataerr => 0x0A
  | .watchdog => 0x11
  | .pressfault => 0x12
  | .rackfault => 0x13
  | .beat => 0x10
  | .timer => 0x0E

/-- TRAPCODE as a trap sets it: CODE, PMODE, ASYNC and NESTED (R385, R387). -/
def trapCodeWord (t : Thread) (code : Nat) (async : Bool) : Word :=
  BitVec.ofNat 64 (code + t.mode * 64 + async.toNat * 256 + t.inTrap.toNat * 512)

/-- Taking a trap (R385): the trap registers, of whose TRAPPC bits [55:1] are kept (R387), CLABEL, the mode, INTRAP, and the PC at TRAPVEC. -/
def Thread.enterTrap (t : Thread) (code : Nat) (async : Bool) (pc addr info : Word) (join : Label) : Thread :=
  let mode := if t.isDevice then 2 else 1
  { t with
    trap := { t.trap with pc := keepBits pc 1 56, code := trapCodeWord t code async, addr := addr, info := info }
    ctl := { t.ctl with clabel := t.ctl.clabel ||| join
                        status := putField (putField t.ctl.status 0 2 mode) 17 1 1 }
    pc := t.trap.vec, run := .ready, prog := .fresh, proxy := false }

/-- A synchronous trap in a handler gang of trap policy 0 ends the gang instead (R52). -/
def State.abortsHandler (s : State) : Bool :=
  match s.gang? s.t.ident.gang with
  | some g => g.policy0 && g.gid != 0
  | none => false

/-- The gang of the thread at its turn ends by trap policy 0: the first trap is kept, with the g1 of that moment (assumption
44), and its threads stop at their next instruction boundary (R52). -/
def State.abortHandler (s : State) (code : Nat) (pc : Word) : State :=
  let g1 := s.val 1
  let l := s.lbl 1
  let s := s.modGang s.t.ident.gang fun g =>
    match g.killed with
    | some _ => g
    | none => { g with killed := some (code, pc.toNat - g.image, g1, l) }
  { s with t := { s.t with run := .quitting, prog := .fresh }, time := { s.time with turn := .trap } }

/-- The thread at its turn takes a synchronous trap (R385), or ends its handler gang (R52). -/
def State.takeTrap (s : State) (c : TrapCode) (pc addr info : Word) (join : Label) : State :=
  if s.abortsHandler then s.abortHandler (trapNumber c) pc
  else { s with t := s.t.enterTrap (trapNumber c) false pc addr info join, time := { s.time with turn := .trap } }

/-- A trap of the instruction at the PC, which has no effect; CLABEL joins the labels of the registers it read and of the
pages it accessed (R370). -/
def State.fail (s : State) (c : TrapCode) (addr info : Word) (rs : List Reg) (pages : Label) : State :=
  s.takeTrap c s.t.pc addr info (labelsOf s.t rs ||| s.t.patched ||| pages)

/-- Return from a handler (R391): the mode of PMODE, INTRAP 0, and the PC at TRAPPC; PRIV where PMODE is not one that the
mode may restore. -/
def State.returnFromTrap (s : State) (word : Word) : State :=
  let pmode := fieldOf s.t.trap.code 6 2
  if (s.t.mode = 1 ∧ 2 ≤ pmode) ∨ (s.t.isDevice ∧ pmode ≠ 2) then s.fail .priv 0 word [] 0
  else { (s.jump s.t.trap.pc) with t := { ((s.jump s.t.trap.pc).t.setStatus 0 2 pmode).setStatus 17 1 0 with
          pc := s.t.trap.pc } }

/-- A pending asynchronous trap arrives at a thread: it becomes pending, or stays at its source while one of its kind is
pending already or the thread is in transit or saved (R386, R251). -/
def Thread.addPending (t : Thread) (a : AsyncTrap) : Thread :=
  if t.run == .transit || t.run == .saved || t.run == .fencedAway || t.pending.any (fun x => x.kind == a.kind) then
    { t with second := t.second ++ [a] }
  else { t with pending := t.pending ++ [a] }

/-- The priority order of asynchronous traps, highest first (R386). -/
def asyncOrder : List AsyncKind := [.dataerr, .watchdog, .pressfault, .rackfault, .beat, .timer]

/-- The pending trap that would be taken at a turn: the highest in priority that is not deferred (R386). -/
def Thread.deliverable (t : Thread) : Option AsyncTrap :=
  asyncOrder.findSome? fun k =>
    if t.inTrap && k != .dataerr then none else t.pending.find? fun a => a.kind == k

/-- A pending trap is removed, and a second event of its kind takes its place (R386). -/
def Thread.dropPending (t : Thread) (k : AsyncKind) : Thread :=
  let t := { t with pending := t.pending.filter fun a => a.kind != k }
  match t.second.find? fun a => a.kind == k with
  | some a => { t with pending := t.pending ++ [a], second := t.second.erase a }
  | none => t

end Sys2Proof.Machine
end

