-- ==== Sys2Proof/Machine/Operands.lean ====
section
/-! DEFINITION. The operand forms and the checks of R101 that every instruction shares: mode, unit, claim, pending
destinations, poisoned and empty sources. -/

namespace Sys2Proof.Machine

open Sys2Proof

/-- What an instruction names, for the checks of R101. `srcs` pairs each general source with its T bit, in the order
a, b, d. `away` says that the current core lacks a unit the instruction needs; `vec` that it names vector or mask
registers; `mem` that it is a memory access which an earlier acquire holds back (R219). -/
structure Uses where
  word   : Word
  priv   : Bool
  away   : Bool
  vec    : Bool
  mem    : Bool
  dests  : List Reg
  vdests : List VReg
  srcs   : List (Reg × Bool)
  vsrcs  : List VReg

/-- An instruction that names nothing. -/
def Uses.none : Uses := ⟨0, false, false, false, false, [], [], [], []⟩

/-- The registers that an instruction reads. -/
def Uses.reads (u : Uses) : List Reg := u.srcs.map Prod.fst

/-- A general register is pending: empty because a fill is outstanding (R74). -/
def State.empty (s : State) (r : Reg) : Bool := !(s.t.reg r).full

/-- A vector register of the claim is empty (R184). -/
def State.vempty (s : State) (v : VReg) : Bool :=
  match s.t.claim.regs[v.val]? with
  | some x => !x.full
  | none => false

/-- The first source that is poisoned (R101). -/
def State.firstPoison (s : State) (u : Uses) : Option Reg := u.reads.find? fun r => (s.t.reg r).poison

/-- The first source that is empty under T = 1 (R101). -/
def State.firstEmptyT (s : State) (u : Uses) : Option Reg :=
  (u.srcs.find? fun x => x.2 && s.empty x.1).map Prod.fst

/-- Check 7 of R101: a destination is pending (R74). -/
def State.destPending (s : State) (u : Uses) : Bool := u.dests.any s.empty || u.vdests.any s.vempty

/-- Check 10 of R101: a source with T = 0 is empty, or an acquire holds the access back (R75, R219). -/
def State.sourceEmpty (s : State) (u : Uses) : Bool :=
  u.srcs.any (fun x => s.empty x.1) || u.vsrcs.any s.vempty || (u.mem && s.acquireHeld)

/-- What checks 4 to 10 of R101 decide. -/
inductive Check where
  | go
  | idle
  | trap (c : TrapCode) (info : Word)
  | home
  deriving DecidableEq, Repr

/-- Checks 4 to 10 of R101, in their order. -/
def State.check (s : State) (u : Uses) : Check :=
  if u.priv && s.t.isTask then .trap .priv u.word
  else if u.away then .home
  else if u.vec && s.t.claim.lanes == 0 then .trap .vclaim 0
  else if s.destPending u then .idle
  else match s.firstPoison u with
    | some r => .trap .poisonreg (BitVec.ofNat 64 r.val)
    | none =>
      match s.firstEmptyT u with
      | some r => .trap .emptyreg (BitVec.ofNat 64 r.val)
      | none => if s.sourceEmpty u then .idle else .go

/-- The size in 32-byte flits of a migration packet with n registers and m pending-trap entries (R246). -/
def packetFlits (n m : Nat) : Nat := (320 + 16 * n + 32 * m + 31) / 32

/-- The registers carried by a migration: those named in LIVE and those the instruction reads (R246). -/
def State.carried (s : State) (reads : List Reg) : BitVec 32 :=
  BitVec.ofNat 32 ((List.range 32).foldr (fun n m =>
    if n ≠ 0 ∧ (s.t.ctl.live.toNat.testBit n ∨ reads.any fun r => r.val = n) then m ||| 2 ^ n else m) 0)

/-- Whether the slot must idle before the thread departs (R245): every access must have been performed, so that the migration
orders it before those that follow (R339). -/
def State.departWaits (s : State) (reads : List Reg) : Bool :=
  let c := s.carried reads
  !(s.unperformed s.t.ident.uid).isEmpty || !(s.unacked s.t.ident.uid).isEmpty || (List.finRange 32).any fun r => c.toNat.testBit r.val && s.empty r

/-- The cycles of one leg for a packet of f flits (R450). -/
def leg (f : Nat) : Nat := 28 + f

/-- A result for a vector register, which stays in its pool while the thread is away (R176). -/
def Fill.isVector (f : Fill) : Bool :=
  match f.kind with
  | .vector _ _ _ => true
  | .plain | .nest _ _ | .claim | .reply | .phase _ _ | .ticket _ _ _ | .census _ | .partRead _ | .partWrite _ _
  | .fork _ _ _ _ | .join _ _ _ _ => false

/-- The thread at its turn departs for a core: its outcome of the turn is a migration (R245 to R247). `relay` is the
number of legs beyond the first and `extra` the cycles that a translation adds. A fill on a register that is not carried
is discarded when it arrives. -/
def State.depart (s : State) (core : Nat) (reads : List Reg) (hop : Bool) (relay extra : Nat) : State :=
  if s.departWaits reads then s.idle
  else
    let c := s.carried reads
    let f := packetFlits (onesBelow 32 c.toNat) (s.t.pending.filter fun a => a.kind != .timer).length
    let since := match s.t.transit with
      | some x => x.since
      | none => s.time.cycle
    let tr : Transit := ⟨core, since, c, hop, false, leg f * (relay + 1) + extra,
      labelsOf s.t reads ||| s.t.patched, none⟩
    let s := { s with
      t := { s.t with run := .transit, transit := some tr }
      time := { s.time with turn := .migrate }
      fab := { s.fab with fills := s.fab.fills.map fun (x : Fill) =>
        if x.uid = s.t.ident.uid && !x.isVector then { x with discard := true } else x } }
    (s.schedule (s.time.cycle + tr.legs) (.migrationArrival s.t.ident.uid)).schedule (since + 4096)
      (.migrationFallback s.t.ident.uid)

/-- The first core of a thread's origin trellis (R246). -/
def Thread.originCore (t : Thread) : Nat := 1024 * t.ident.pan + 8 * t.ident.trellis

/-- The legs of a route beyond its first (R247): a route between two hubs is relayed through the origin Pan, one between
two Pans through a hub. -/
def relayLegs (fromCore toCore : Nat) : Nat :=
  if isCompute fromCore && isCompute toCore then (if corePan fromCore = corePan toCore then 0 else 1)
  else if isChannel fromCore && isChannel toCore then (if coreDie fromCore = coreDie toCore then 0 else 1)
  else 0

/-- Check 5 of R101: the thread leaves for its origin trellis (R176). -/
def State.goHome (s : State) (u : Uses) : State :=
  s.depart s.t.originCore u.reads false (relayLegs s.t.core s.t.originCore) 0

/-- The turn of an instruction: checks 4 to 10 of R101, and its own effect when all of them pass. -/
def State.issue (s : State) (u : Uses) (k : State → Result) : Result :=
  match s.check u with
  | .go => k s
  | .idle => .next s.idle
  | .trap c info => .next (s.fail c 0 info u.reads 0)
  | .home => .next (s.goHome u)

/-! ## The shapes of scalar instructions -/

/-- R format with two sources: Write(d, f(a, b)) (R112). -/
def aluR (f : Word → Word → Word) (d a b : Reg) (ta tb : Bool) (s : State) : Result :=
  s.issue { Uses.none with dests := [d], srcs := [(a, ta), (b, tb)] } fun s =>
    .next ((s.write d (f (s.val a) (s.val b)) (s.resultLabel [a, b])).retire 4)

/-- R format with one source: Write(d, f(a)) (R112, R124). -/
def alu1 (f : Word → Word) (d a : Reg) (ta : Bool) (s : State) : Result :=
  s.issue { Uses.none with dests := [d], srcs := [(a, ta)] } fun s =>
    .next ((s.write d (f (s.val a)) (s.resultLabel [a])).retire 4)

/-- R format that also reads d, which blocks: Write(d, f(d, a, b)) (R75, R112). -/
def aluRd (f : Word → Word → Word → Word) (d a b : Reg) (ta tb : Bool) (s : State) : Result :=
  s.issue { Uses.none with dests := [d], srcs := [(a, ta), (b, tb), (d, false)] } fun s =>
    .next ((s.write d (f (s.val d) (s.val a) (s.val b)) (s.resultLabel [d, a, b])).retire 4)

/-- I format: Write(d, f(a, SignExtend(imm14))) (R113). -/
def aluI (f : Word → Word → Word) (d a : Reg) (imm : BitVec 14) (ta : Bool) (s : State) : Result :=
  alu1 (fun x => f x (imm.signExtend 64)) d a ta s

/-- U format: Write(d, f(PC, SignExtend(imm20) << 14)); no register is read (R115). -/
def aluU (f : Word → Word → Word) (d : Reg) (imm : BitVec 20) (s : State) : Result :=
  s.issue { Uses.none with dests := [d] } fun s =>
    .next ((s.write d (f s.t.pc (imm.signExtend 64 <<< 14)) (s.resultLabel [])).retire 4)

/-- Compact form: Write(d, f(d, s)), both blocking (R126). -/
def aluC (f : Word → Word → Word) (d r : Reg) (s : State) : Result :=
  s.issue { Uses.none with dests := [d], srcs := [(d, false), (r, false)] } fun s =>
    .next ((s.write d (f (s.val d) (s.val r)) (s.resultLabel [d, r])).retire 2)

/-- The register after d, for a pair (R94). -/
def nextReg (d : Reg) : Reg := ⟨(d.val + 1) % 32, Nat.mod_lt _ (by decide)⟩

/-- A complex dot product into the pair d, d + 1 (R121). `acc` adds the old pair, which is then read. -/
def cplx (acc conj : Bool) (d a b : Reg) (ta tb : Bool) (len : Nat) (s : State) : Result :=
  let pair := [d, nextReg d]
  let reads := [a, b] ++ (if acc then pair else [])
  s.issue { Uses.none with
      dests := pair, srcs := [(a, ta), (b, tb)] ++ (if acc then pair.map fun r => (r, false) else []) } fun s =>
    let (re, im) := cdot conj (s.val a) (s.val b)
    let old (r : Reg) : Word := if acc then s.val r else 0
    let l := s.resultLabel reads
    .next (((s.write d (old d + wordOfInt re) l).write (nextReg d) (old (nextReg d) + wordOfInt im) l).retire len)

end Sys2Proof.Machine
end

