-- ==== Sys2Proof/Machine/Alu.lean ====
section
/-! DEFINITION. The scalar integer instructions: register, immediate and shift operations, multiply and divide (R112 to R116). -/

namespace Sys2Proof.Machine

open Sys2Proof

/-- `add`: writes a + b modulo 2^64 to d (R112). -/
def execAdd (d a b : Reg) (ta tb : Bool) (s : State) : Result :=
  aluR (· + ·) d a b ta tb s

/-- `sub`: writes a − b to d (R112). -/
def execSub (d a b : Reg) (ta tb : Bool) (s : State) : Result :=
  aluR (· - ·) d a b ta tb s

/-- `and`: writes the bitwise AND of a and b to d (R112). -/
def execAnd (d a b : Reg) (ta tb : Bool) (s : State) : Result :=
  aluR (· &&& ·) d a b ta tb s

/-- `or`: writes the bitwise OR of a and b to d (R112). -/
def execOr (d a b : Reg) (ta tb : Bool) (s : State) : Result :=
  aluR (· ||| ·) d a b ta tb s

/-- `xor`: writes the bitwise XOR of a and b to d (R112). -/
def execXor (d a b : Reg) (ta tb : Bool) (s : State) : Result :=
  aluR (· ^^^ ·) d a b ta tb s

/-- `sll`: shifts a left by b[5:0] (R112). -/
def execSll (d a b : Reg) (ta tb : Bool) (s : State) : Result :=
  aluR aluSll d a b ta tb s

/-- `srl`: shifts a right logically by b[5:0] (R112). -/
def execSrl (d a b : Reg) (ta tb : Bool) (s : State) : Result :=
  aluR aluSrl d a b ta tb s

/-- `sra`: shifts a right arithmetically by b[5:0] (R112). -/
def execSra (d a b : Reg) (ta tb : Bool) (s : State) : Result :=
  aluR aluSra d a b ta tb s

/-- `rot`: rotates a right by b[5:0] (R112). -/
def execRot (d a b : Reg) (ta tb : Bool) (s : State) : Result :=
  aluR aluRot d a b ta tb s

/-- `min`: writes the signed minimum of a and b (R112). -/
def execMin (d a b : Reg) (ta tb : Bool) (s : State) : Result :=
  aluR aluMin d a b ta tb s

/-- `max`: writes the signed maximum of a and b (R112). -/
def execMax (d a b : Reg) (ta tb : Bool) (s : State) : Result :=
  aluR aluMax d a b ta tb s

/-- `minu`: writes the unsigned minimum of a and b (R112). -/
def execMinu (d a b : Reg) (ta tb : Bool) (s : State) : Result :=
  aluR aluMinu d a b ta tb s

/-- `maxu`: writes the unsigned maximum of a and b (R112). -/
def execMaxu (d a b : Reg) (ta tb : Bool) (s : State) : Result :=
  aluR aluMaxu d a b ta tb s

/-- `slt`: writes 1 if a < b signed, else 0 (R112). -/
def execSlt (d a b : Reg) (ta tb : Bool) (s : State) : Result :=
  aluR aluSlt d a b ta tb s

/-- `sltu`: writes 1 if a < b unsigned, else 0 (R112). -/
def execSltu (d a b : Reg) (ta tb : Bool) (s : State) : Result :=
  aluR aluSltu d a b ta tb s

/-- `seq`: writes 1 if a = b, else 0 (R112). -/
def execSeq (d a b : Reg) (ta tb : Bool) (s : State) : Result :=
  aluR aluSeq d a b ta tb s

/-- `sel`: writes a if d is nonzero, else b, reading d (R112). -/
def execSel (d a b : Reg) (ta tb : Bool) (s : State) : Result :=
  aluRd (fun d a b => if d ≠ 0 then a else b) d a b ta tb s

/-- `ext.s.b`: sign-extends a[7:0] into d (R112). -/
def execExtSB (d a : Reg) (ta _tb : Bool) (s : State) : Result :=
  alu1 (signExtendW 8) d a ta s

/-- `ext.s.h`: sign-extends a[15:0] into d (R112). -/
def execExtSH (d a : Reg) (ta _tb : Bool) (s : State) : Result :=
  alu1 (signExtendW 16) d a ta s

/-- `ext.s.w`: sign-extends a[31:0] into d (R112). -/
def execExtSW (d a : Reg) (ta _tb : Bool) (s : State) : Result :=
  alu1 (signExtendW 32) d a ta s

/-- `ext.z.b`: zero-extends a[7:0] into d (R112). -/
def execExtZB (d a : Reg) (ta _tb : Bool) (s : State) : Result :=
  alu1 (zeroExtendW 8) d a ta s

/-- `ext.z.h`: zero-extends a[15:0] into d (R112). -/
def execExtZH (d a : Reg) (ta _tb : Bool) (s : State) : Result :=
  alu1 (zeroExtendW 16) d a ta s

/-- `ext.z.w`: zero-extends a[31:0] into d (R112). -/
def execExtZW (d a : Reg) (ta _tb : Bool) (s : State) : Result :=
  alu1 (zeroExtendW 32) d a ta s

/-- `addi`: writes a plus the sign-extended imm14 to d (R113). -/
def execAddi (d a : Reg) (imm : BitVec 14) (ta : Bool) (s : State) : Result :=
  aluI (· + ·) d a imm ta s

/-- `andi`: writes a AND the sign-extended imm14 (R113). -/
def execAndi (d a : Reg) (imm : BitVec 14) (ta : Bool) (s : State) : Result :=
  aluI (· &&& ·) d a imm ta s

/-- `ori`: writes a OR the sign-extended imm14 (R113). -/
def execOri (d a : Reg) (imm : BitVec 14) (ta : Bool) (s : State) : Result :=
  aluI (· ||| ·) d a imm ta s

/-- `xori`: writes a XOR the sign-extended imm14 (R113). -/
def execXori (d a : Reg) (imm : BitVec 14) (ta : Bool) (s : State) : Result :=
  aluI (· ^^^ ·) d a imm ta s

/-- `slti`: writes 1 if a is signed-less than the immediate (R113). -/
def execSlti (d a : Reg) (imm : BitVec 14) (ta : Bool) (s : State) : Result :=
  aluI aluSlt d a imm ta s

/-- `sltiu`: writes 1 if a is unsigned-less than the immediate (R113). -/
def execSltiu (d a : Reg) (imm : BitVec 14) (ta : Bool) (s : State) : Result :=
  aluI aluSltu d a imm ta s

/-- `slli`: shifts a left by an immediate amount (R114). -/
def execSlli (d a : Reg) (n : BitVec 6) (ta : Bool) (s : State) : Result :=
  alu1 (fun x => x <<< n.toNat) d a ta s

/-- `srli`: shifts a right logically by an immediate amount (R114). -/
def execSrli (d a : Reg) (n : BitVec 6) (ta : Bool) (s : State) : Result :=
  alu1 (fun x => x >>> n.toNat) d a ta s

/-- `srai`: shifts a right arithmetically by an immediate amount (R114). -/
def execSrai (d a : Reg) (n : BitVec 6) (ta : Bool) (s : State) : Result :=
  alu1 (fun x => x.sshiftRight n.toNat) d a ta s

/-- `roti`: rotates a right by an immediate amount (R114). -/
def execRoti (d a : Reg) (n : BitVec 6) (ta : Bool) (s : State) : Result :=
  alu1 (fun x => rotr x n.toNat) d a ta s

/-- `lui`: writes SignExtend(imm20) << 14 to d (R115). -/
def execLui (d : Reg) (imm : BitVec 20) (s : State) : Result :=
  aluU (fun _ i => i) d imm s

/-- `addpc`: writes PC plus SignExtend(imm20) << 14 to d (R115). -/
def execAddpc (d : Reg) (imm : BitVec 20) (s : State) : Result :=
  aluU (fun pc i => pc + i) d imm s

/-- `mul`: writes the low 64 bits of a × b (R116). -/
def execMul (d a b : Reg) (ta tb : Bool) (s : State) : Result :=
  aluR (· * ·) d a b ta tb s

/-- `mulh`: writes the high 64 bits of the signed product (R116). -/
def execMulh (d a b : Reg) (ta tb : Bool) (s : State) : Result :=
  aluR aluMulh d a b ta tb s

/-- `mulhu`: writes the high 64 bits of the unsigned product (R116). -/
def execMulhu (d a b : Reg) (ta tb : Bool) (s : State) : Result :=
  aluR aluMulhu d a b ta tb s

/-- `div`: writes the signed quotient rounded toward zero, with defined borderline cases (R116). -/
def execDiv (d a b : Reg) (ta tb : Bool) (s : State) : Result :=
  aluR aluDiv d a b ta tb s

/-- `divu`: writes the unsigned quotient (R116). -/
def execDivu (d a b : Reg) (ta tb : Bool) (s : State) : Result :=
  aluR aluDivu d a b ta tb s

/-- `rem`: writes the signed remainder of div (R116). -/
def execRem (d a b : Reg) (ta tb : Bool) (s : State) : Result :=
  aluR aluRem d a b ta tb s

/-- `remu`: writes the unsigned remainder of divu (R116). -/
def execRemu (d a b : Reg) (ta tb : Bool) (s : State) : Result :=
  aluR aluRemu d a b ta tb s

end Sys2Proof.Machine
end

