-- ==== Sys2Proof/Machine/Memory.lean ====
section
/-! DEFINITION. The stores as lists of cells in one canonical form, the full/empty tags, the L2 lines in front of HBM,
and reads and writes of bytes at a place (R203, R222, R237 to R240, R419). -/

namespace Sys2Proof.Machine

open Sys2Proof

/-! ## Cells -/

/-- The byte at an address; an unlisted byte reads 0 (R71, R419, R421). -/
def cellGet : List Host.Cell → Nat → Byte
  | [], _ => 0
  | (b, w) :: m, a => if a = b then w else if a < b then 0 else cellGet m a

/-- Writes a byte, keeping the addresses rising and no listed byte 0. -/
def cellSet : List Host.Cell → Nat → Byte → List Host.Cell
  | [], a, v => if v = 0 then [] else [(a, v)]
  | (b, w) :: m, a, v =>
    if a < b then (if v = 0 then (b, w) :: m else (a, v) :: (b, w) :: m)
    else if a = b then (if v = 0 then m else (a, v) :: m)
    else (b, w) :: cellSet m a v

/-- The canonical form: addresses strictly rising, no listed byte 0. -/
def Cells.wf : List Host.Cell → Bool
  | [] => true
  | (a, v) :: m =>
    v ≠ 0 && (match m with
      | [] => true
      | (b, _) :: _ => a < b) && Cells.wf m

/-- The canonical form of both stores. -/
def Memory.wf (m : Memory) : Bool := Cells.wf m.hbm && Cells.wf m.pan

/-- n bytes from an address, as a little-endian number (R6). -/
def cellsRead (m : List Host.Cell) : Nat → Nat → Nat
  | _, 0 => 0
  | a, n + 1 => (cellGet m a).toNat + 256 * cellsRead m (a + 1) n

/-- Writes a list of bytes from an address up. -/
def cellsWrite (m : List Host.Cell) (a : Nat) : List Byte → List Host.Cell
  | [] => m
  | b :: bs => cellsWrite (cellSet m a b) (a + 1) bs

/-- Drops every byte from lo up to, not including, hi: they read 0. -/
def cellsClear (m : List Host.Cell) (lo hi : Nat) : List Host.Cell := m.filter fun c => !(lo ≤ c.1 && c.1 < hi)

/-! ## Sets of numbers in rising order -/

/-- Puts a number into a rising list. -/
def setPut : List Nat → Nat → List Nat
  | [], a => [a]
  | b :: m, a => if a < b then a :: b :: m else if a = b then b :: m else b :: setPut m a

/-- Takes a number out of a list. -/
def setDrop (m : List Nat) (a : Nat) : List Nat := m.filter fun b => b ≠ a

/-! ## Pan stores -/

/-- The key of a Pan-store byte. -/
def panKey (n pa : Nat) : Nat := n * 2 ^ 25 + pa % 2 ^ 25

/-- The tag of a word is full (R222). -/
def Memory.tagFull (m : Memory) (n pa : Nat) : Bool := !m.empties.contains (panKey n (pa / 8 * 8))

/-- Sets the tag of a word. -/
def Memory.setTag (m : Memory) (n pa : Nat) (full : Bool) : Memory :=
  let k := panKey n (pa / 8 * 8)
  { m with empties := if full then setDrop m.empties k else setPut m.empties k }

/-! ## HBM and the L2 (R237 to R240) -/

/-- The channel of a physical address, which is also its slice (R237). -/
def channelOf (pa : Nat) : Nat := bitsAt pa 13 8
/-- The home core of a physical address (R237). -/
def homeCore (pa : Nat) : Nat := 8192 + channelOf pa
/-- The set of a line number PA[43:8] (R238). -/
def l2Set (line : Nat) : Nat := Nat.xor (Nat.xor (bitsAt line 0 8) (bitsAt line 8 8)) (bitsAt line 16 8)
/-- The slice of a line number. -/
def lineSlice (line : Nat) : Nat := bitsAt line 5 8
/-- The sector of a byte within its line (R238). -/
def sectorOf (pa : Nat) : Nat := pa % 256 / 32

/-- The cached line with a number, if any way of its slice holds it (R238). -/
def Memory.line? (m : Memory) (line : Nat) : Option L2Line := m.lines.find? fun l => l.line = line

/-- A sector is valid in the L2 (R238). -/
def Memory.cached (m : Memory) (pa : Nat) : Bool :=
  match m.line? (pa / 256) with
  | some l => l.valid.testBit (sectorOf pa)
  | none => false

/-- A byte of global memory as its home slice reads it: from a valid sector, else from HBM. -/
def Memory.gbyte (m : Memory) (pa : Nat) : Byte :=
  match m.line? (pa / 256) with
  | some l => if l.valid.testBit (sectorOf pa) then l.data.getD (pa % 256) 0 else cellGet m.hbm pa
  | none => cellGet m.hbm pa

/-- n bytes of global memory, little-endian. -/
def Memory.gread (m : Memory) : Nat → Nat → Nat
  | _, 0 => 0
  | pa, n + 1 => (m.gbyte pa).toNat + 256 * m.gread (pa + 1) n

/-- Bytes of HBM are written: the frame's cleared bit becomes 0, and a whole sector ends a failure of that sector
(R240, R419). -/
def Memory.hbmWrite (m : Memory) (pa : Nat) (bs : List Byte) : Memory :=
  { m with
    hbm := cellsWrite m.hbm pa bs
    dirtyFrames := setPut m.dirtyFrames (pa / 8192)
    badSectors := if pa % 32 = 0 && bs.length = 32 then setDrop m.badSectors (pa / 32) else m.badSectors }

/-- A byte of global memory is written at its home slice: into a valid sector, which becomes dirty, else into HBM
(R238, R239). -/
def Memory.gpoke (m : Memory) (pa : Nat) (v : Byte) : Memory :=
  if m.cached pa then
    { m with lines := m.lines.map fun l =>
        if l.line = pa / 256 then
          { l with data := l.data.set (pa % 256) v, dirty := l.dirty ||| 2 ^ sectorOf pa }
        else l }
  else m.hbmWrite pa [v]

/-- Bytes of global memory are written from an address up. -/
def Memory.gwrite (m : Memory) (pa : Nat) : List Byte → Memory
  | [] => m
  | b :: bs => (m.gpoke pa b).gwrite (pa + 1) bs

/-- Bytes of global memory set to 0 wherever they are held; the cleared bits of whole frames are set by the caller. -/
def Memory.gclear (m : Memory) (lo hi : Nat) : Memory :=
  { m with
    hbm := cellsClear m.hbm lo hi
    lines := m.lines.filter fun l => !(lo ≤ l.line * 256 && l.line * 256 < hi)
    badSectors := m.badSectors.filter fun x => !(lo ≤ x * 32 && x * 32 < hi) }

/-- The dirty sectors of a line are written back to HBM, and stay valid (R239). -/
def Memory.writeBack (m : Memory) (l : L2Line) : Memory :=
  (List.range 8).foldl (fun m k =>
    if l.dirty.testBit k then m.hbmWrite (l.line * 256 + 32 * k) ((l.data.drop (32 * k)).take 32) else m) m

/-- A line leaves the L2, its dirty sectors written back. -/
def Memory.evict (m : Memory) (l : L2Line) : Memory :=
  { m.writeBack l with lines := m.lines.filter fun x => x.line ≠ l.line }

/-- The way a fill takes: the lowest-numbered invalid way of the mask, else the least recently used (R238). -/
def Memory.wayFor (m : Memory) (line mask : Nat) : Option (Nat × Option L2Line) :=
  let inSet := m.lines.filter fun l => lineSlice l.line = lineSlice line && l2Set l.line = l2Set line
  match (bitsOf 16 mask).find? fun w => !(inSet.any fun l => l.way = w) with
  | some w => some (w, none)
  | none =>
    let owned := inSet.filter fun l => mask.testBit l.way
    match owned with
    | [] => none
    | l :: ls =>
      let v := ls.foldl (fun (b : L2Line) x => if x.used < b.used then x else b) l
      some (v.way, some v)

/-- A fill delivers the sectors of a line that are not valid yet; a failed sector is not delivered (R239, R240). With
no way to take, nothing allocates, not in a line that is there either (R238). -/
def Memory.install (m : Memory) (line sectors mask stamp : Nat) : Memory :=
  let fresh (data : List Byte) (valid : Nat) : List Byte × Nat :=
    (List.range 8).foldl (fun (acc : List Byte × Nat) k =>
      if sectors.testBit k && !acc.2.testBit k && !m.badSectors.contains (line * 8 + k) then
        (acc.1.take (32 * k) ++ (List.range 32).map (fun i => cellGet m.hbm (line * 256 + 32 * k + i))
          ++ acc.1.drop (32 * k + 32), acc.2 ||| 2 ^ k)
      else acc) (data, valid)
  match m.line? line with
  | some l =>
    if mask = 0 then m
    else
      let (d, v) := fresh l.data l.valid
      { m with lines := m.lines.map fun x => if x.line = line then { x with data := d, valid := v, used := stamp } else x }
  | none =>
    match m.wayFor line mask with
    | none => m
    | some (w, old) =>
      let m := match old with
        | some o => m.evict o
        | none => m
      let (d, v) := fresh (List.replicate 256 0) 0
      { m with lines := ⟨lineSlice line, w, line, v, 0, d, stamp⟩ :: m.lines }

/-- A line has just been used (R238). -/
def Memory.touch (m : Memory) (line stamp : Nat) : Memory :=
  { m with lines := m.lines.map fun l => if l.line = line then { l with used := stamp } else l }

/-- A store that covers a whole sector makes it valid and dirty without a read of HBM (R239); the store then gives its bytes. One
that hits renews the line's use (R238). -/
def Memory.claimSector (m : Memory) (sector mask stamp : Nat) : Memory :=
  let line := sector / 8
  let bit := 2 ^ (sector % 8)
  if m.cached (sector * 32) then m.touch line stamp
  else if mask = 0 then m
  else
    match m.line? line with
    | some _ => { m with lines := m.lines.map fun x =>
        if x.line = line then { x with valid := x.valid ||| bit, dirty := x.dirty ||| bit, used := stamp } else x }
    | none =>
      match m.wayFor line mask with
      | none => m
      | some (w, old) =>
        let m := match old with
          | some o => m.evict o
          | none => m
        { m with lines := ⟨lineSlice line, w, line, bit, bit, List.replicate 256 0, stamp⟩ :: m.lines }

/-- Whole sectors that have been written at the controller are no longer failed (R240). -/
def Memory.healSectors (m : Memory) (pa n : Nat) : Memory :=
  { m with badSectors := m.badSectors.filter fun x => !(pa ≤ 32 * x && 32 * x + 32 ≤ pa + n) }

/-! ## Reads and writes at a place -/

/-- n bytes at a place, little-endian. -/
def Memory.readAt (m : Memory) (l : Loc) (n : Nat) : Nat :=
  match l with
  | .pan p pa => cellsRead m.pan (panKey p pa) n
  | .hbm pa => m.gread pa n

/-- Writes n bytes at a place. -/
def Memory.writeAt (m : Memory) (l : Loc) (n v : Nat) : Memory :=
  match l with
  | .pan p pa => { m with pan := cellsWrite m.pan (panKey p pa) (natBytes n v) }
  | .hbm pa => m.gwrite pa (natBytes n v)

/-- The place k bytes on. -/
def Loc.plus (l : Loc) (k : Nat) : Loc :=
  match l with
  | .pan n pa => .pan n (pa + k)
  | .hbm pa => .hbm (pa + k)

/-- The place of the aligned word that holds a place. -/
def Loc.word (l : Loc) : Loc :=
  match l with
  | .pan n pa => .pan n (pa / 8 * 8)
  | .hbm pa => .hbm (pa / 8 * 8)

/-- The die of a place (R83, R343). -/
def Loc.die (l : Loc) : Nat :=
  match l with
  | .pan n _ => n
  | .hbm pa => 8 + channelOf pa / 64

/-- A word or sector has an uncorrectable error (R217, R240). A sector held valid in the L2 has none. -/
def Memory.bad (m : Memory) (l : Loc) : Bool :=
  match l with
  | .pan n pa => m.badWords.contains (panKey n (pa / 8 * 8))
  | .hbm pa => m.badSectors.contains (pa / 32) && !m.cached pa

/-- A whole-word write ends the error of a Pan-store word (R217). -/
def Memory.healWord (m : Memory) (l : Loc) : Memory :=
  match l with
  | .pan n pa => { m with badWords := setDrop m.badWords (panKey n (pa / 8 * 8)) }
  | .hbm _ => m

end Sys2Proof.Machine
end

