-- ==== Sys2Proof/Machine/Regulator.lean ====
section
/-! DEFINITION. The counters of R413 and the bandwidth regulators of the memory controllers (R409 to R411). -/

namespace Sys2Proof.Machine

open Sys2Proof

/-- Adds to counter k of R413, for a partition and for the gang that caused the event. -/
def State.count (s : State) (part gang k n : Nat) : State :=
  let add (l : List Nat) : List Nat := l.set k ((l.getD k 0 + n) % 2 ^ 64)
  (s.modPart part fun p => { p with perf := add p.perf }).modGang gang fun g =>
    if g.gid = 0 then g else { g with perf := add g.perf }

/-- The gang of a thread, by its number; 0 for a thread that is gone. -/
def State.gangOf (s : State) (uid : Nat) : Nat :=
  match s.thread uid with
  | some t => t.ident.gang
  | none => 0

/-- A device-wide count of R413: the sum over the partitions that are configured. -/
def State.deviceCount (s : State) (k : Nat) : Nat := (s.parts.map fun p => p.perf.getD k 0).sum % 2 ^ 64

/-- The capacity of a channel in sectors of a window (R410, R411). -/
def State.channelCapacity (s : State) (ch : Nat) : Nat := if s.ctrl.derated.contains ch then 1600 else 3200

/-- The sum of REGMIN over the partitions that satisfy a test (R411). -/
def State.sumRegmin (s : State) (f : Part → Bool) : Nat := ((s.parts.filter f).map fun p => p.own.regmin).foldl (· + ·) 0

/-- The minimum and cap that a partition's record gives it on a live channel or a derated one (R410, R411). -/
def State.figures (s : State) (p : Part) (derated : Bool) : Nat × Nat :=
  if derated && 1600 < s.sumRegmin (fun _ => true) then
    let firm := s.sumRegmin Part.firm
    let rest := s.sumRegmin fun x => !x.firm
    let m := if p.firm then p.own.regmin else p.own.regmin * (1600 - firm) / rest
    (m, max m (min p.own.regcap 1600))
  else (p.own.regmin, max p.own.regmin (min p.own.regcap (if derated then 1600 else 3200)))

/-- The effective minimum and cap of a partition on a channel: on a derated one, those of before a change until the next window
(R410, R411). -/
def State.effective (s : State) (p : Part) (ch : Nat) : Nat × Nat :=
  match s.ctrl.kept.find? fun x => x.1 = ch && x.2.1 = p.num with
  | some x => x.2.2
  | none => s.figures p (s.ctrl.derated.contains ch)

/-- The sectors a partition has moved on a channel in this window (R409). -/
def State.movedBy (s : State) (ch part : Nat) : Nat :=
  match s.ctrl.moved.find? fun x => x.1 = ch && x.2.1 = part with
  | some x => x.2.2
  | none => 0

/-- Counts sectors that a partition moves on a channel (R409, R413). -/
def State.countSectors (s : State) (ch part gang n : Nat) : State :=
  let used := s.movedBy ch part + n
  let rest := s.ctrl.moved.filter fun x => !(x.1 = ch && x.2.1 = part)
  ({ s with ctrl := { s.ctrl with moved := (ch, part, used) :: rest } }).count part gang 5 n

/-- A partition may not move a sector before the next window: it is at its cap (R409). -/
def State.capped (s : State) (ch part : Nat) : Bool :=
  match s.part? part with
  | none => false
  | some p => (s.effective p ch).2 ≤ s.movedBy ch part

/-- A partition has used fewer sectors than its effective minimum (R409). -/
def State.belowMin (s : State) (ch part : Nat) : Bool :=
  match s.part? part with
  | none => false
  | some p => s.movedBy ch part < (s.effective p ch).1

/-- The cycles until a channel, at its rate, has moved what it was given in this window (R410, R411). -/
def State.behind (s : State) (ch : Nat) : Nat :=
  let used := ((s.ctrl.moved.filter fun x => x.1 = ch).map fun x => x.2.2).foldl (· + ·) 0
  let rate := s.channelCapacity ch
  s.ctrl.since + (used * 1400 + rate - 1) / rate - s.time.cycle

/-- The bursts that ask a channel now: those that are open long enough and that no cap holds (R239, R409). -/
def State.asking (s : State) (ch : Nat) : List L2Fill :=
  s.mem.l2fills.filter fun f => lineSlice f.line = ch && !f.sent && f.due ≤ s.time.cycle && !s.capped ch f.part

/-- The cycles that a sector of a partition waits at a channel: for the next window at its cap, for what the channel was given
before it, and, past its minimum, for the bursts of partitions below theirs (R409). The device manager, which is no partition,
waits for the channel alone (assumption 110). -/
def State.channelWait (s : State) (ch part : Nat) : Nat :=
  if s.capped ch part then max 1 (s.ctrl.since + 1400 - s.time.cycle)
  else if s.behind ch ≠ 0 then s.behind ch
  else if (s.part? part).isSome && !s.belowMin ch part && (s.asking ch).any fun f => s.belowMin ch f.part then 1
  else 0

/-- Counts the sectors of a line that a read must fetch, for a partition and the gang that asks (R409, R413). -/
def State.countMissing (s : State) (part gang line sectors : Nat) : State :=
  let miss := (List.range 8).filter fun k => sectors.testBit k && !s.mem.cached (line * 256 + 32 * k)
  if miss.isEmpty then s else s.countSectors (lineSlice line) part gang miss.length

end Sys2Proof.Machine
end

