-- ==== Sys2Proof/Machine/Float.lean ====
section
/-! DEFINITION. The number formats, rounding, and conversion (R148 to R173), as exact arithmetic on dyadic
numbers that is narrowed once at the end. -/

namespace Sys2Proof.Machine

open Sys2Proof

/-- Exception flags, in the bit order of STATUS.FLAGS: NV, DZ, OF, UF, NX (R81). -/
abbrev FFlags := BitVec 5

/-- NV, invalid (R81). -/
def flagNV : FFlags := 1
/-- DZ, divide by zero (R81). -/
def flagDZ : FFlags := 2
/-- OF, overflow (R81). -/
def flagOF : FFlags := 4
/-- UF, underflow (R81). -/
def flagUF : FFlags := 8
/-- NX, inexact (R81). -/
def flagNX : FFlags := 16

/-- The NaN encodings that a floating format has (R150, R151). -/
inductive NanKind where
  | ieee      -- E all ones with M not 0, with infinities
  | topOnly   -- only S.1111.111 (FP8A)
  | absent    -- no NaN
  deriving DecidableEq, Repr

/-- The parameters of a floating format (R150). -/
structure FloatFmt where
  ebits : Nat
  mbits : Nat
  bias  : Int
  nans  : NanKind
  deriving DecidableEq, Repr

def fmtFp32 : FloatFmt := ⟨8, 23, 127, .ieee⟩
def fmtFp16 : FloatFmt := ⟨5, 10, 15, .ieee⟩
def fmtBf16 : FloatFmt := ⟨8, 7, 127, .ieee⟩
def fmtFp8a : FloatFmt := ⟨4, 3, 7, .topOnly⟩
def fmtFp8b : FloatFmt := ⟨5, 2, 15, .ieee⟩
def fmtFp6a : FloatFmt := ⟨3, 2, 3, .absent⟩
def fmtFp6b : FloatFmt := ⟨2, 3, 1, .absent⟩
def fmtFp4 : FloatFmt := ⟨2, 1, 1, .absent⟩

/-- The format of a scalar or vector floating-point operation (R166). -/
def floatOf : FpFmt → FloatFmt
  | .fp32 => fmtFp32
  | .fp16 => fmtFp16
  | .bf16 => fmtBf16

/-- The width of a floating format in bits. -/
def fwidth (f : FloatFmt) : Nat := 1 + f.ebits + f.mbits

/-- The encoding of the largest finite magnitude (R150). -/
def maxCode (f : FloatFmt) : Nat :=
  match f.nans with
  | .ieee => (2 ^ f.ebits - 1) * 2 ^ f.mbits - 1
  | .topOnly => 2 ^ (f.ebits + f.mbits) - 2
  | .absent => 2 ^ (f.ebits + f.mbits) - 1

/-- The canonical NaN of a format that has NaNs (R150, R152). -/
def canonNan (f : FloatFmt) : Nat :=
  match f.nans with
  | .ieee => (2 ^ f.ebits - 1) * 2 ^ f.mbits + 2 ^ (f.mbits - 1)
  | .topOnly => 2 ^ (f.ebits + f.mbits) - 1
  | .absent => maxCode f

/-- A value: a NaN, an infinity, or (-1)^neg x m x 2^e exactly (R151). -/
inductive FVal where
  | nan (signalling : Bool)
  | inf (neg : Bool)
  | fin (neg : Bool) (m : Nat) (e : Int)
  deriving DecidableEq, Repr

/-- The value of an encoding (R151). -/
def decodeF (f : FloatFmt) (x : Nat) : FVal :=
  let M := bitsAt x 0 f.mbits
  let E := bitsAt x f.mbits f.ebits
  let S := bitAt x (f.mbits + f.ebits)
  let finite : FVal := if E = 0 then .fin S M (1 - f.bias - f.mbits)
    else .fin S (2 ^ f.mbits + M) (E - f.bias - f.mbits)
  match f.nans with
  | .ieee =>
    if E = 2 ^ f.ebits - 1 then (if M = 0 then .inf S else .nan (M < 2 ^ (f.mbits - 1))) else finite
  | .topOnly => if E = 2 ^ f.ebits - 1 ∧ M = 2 ^ f.mbits - 1 then .nan false else finite
  | .absent => finite

/-- An encoding's sign put on a magnitude code. -/
def signCode (f : FloatFmt) (neg : Bool) (c : Nat) : Nat := if neg then c + 2 ^ (f.ebits + f.mbits) else c

/-- Infinity, or the largest finite value in a format without infinities (R157, R163). -/
def infCode (f : FloatFmt) (neg : Bool) : Nat :=
  match f.nans with
  | .ieee => signCode f neg (maxCode f + 1)
  | .topOnly => signCode f neg (maxCode f)
  | .absent => signCode f neg (maxCode f)

/-- The number of bits of a number: 0 for 0. -/
def bitLen (m : Nat) : Nat := if m = 0 then 0 else Nat.log2 m + 1

/-- Whether a magnitude m x 2^e (and a little more, when sticky) cut at 2^q is raised by one unit, and whether
anything was cut (R156, R160). z is the draw under SR. -/
def roundAt (rm : Rm) (z : Word) (neg : Bool) (m : Nat) (e q : Int) (sticky : Bool) : Nat × Bool × Bool :=
  if q ≤ e then (m * 2 ^ (e - q).toNat, sticky, sticky && (rm == .rup && !neg || rm == .rdn && neg))
  else
    let k := (q - e).toNat
    let kept := m / 2 ^ k
    let rem := m % 2 ^ k
    let inexact := rem != 0 || sticky
    let up := match rm with
      | .rne => decide (2 * rem > 2 ^ k) || (decide (2 * rem = 2 ^ k) && (sticky || kept % 2 == 1))
      | .rtz => false
      | .rdn => neg && inexact
      | .rup => !neg && inexact
      | .sr => decide (rem * 2 ^ 32 / 2 ^ k + z.toNat / 2 ^ 32 ≥ 2 ^ 32)
    (kept, inexact, up)

/-- The result of an overflow (R157). -/
def overflowCode (f : FloatFmt) (rm : Rm) (neg : Bool) : Nat :=
  match rm with
  | .rne | .sr => infCode f neg
  | .rtz => signCode f neg (maxCode f)
  | .rdn => if neg then infCode f neg else signCode f neg (maxCode f)
  | .rup => if neg then signCode f neg (maxCode f) else infCode f neg

/-- Rounds (-1)^neg x m x 2^e to a format: the encoding and the flags raised (R156 to R160). -/
def roundF (f : FloatFmt) (rm : Rm) (z : Word) (neg : Bool) (m : Nat) (e : Int) (sticky : Bool) : Nat × FFlags :=
  if m = 0 then (signCode f neg 0, 0)
  else
    let top : Int := e + bitLen m - 1
    let emin : Int := 1 - f.bias
    let q : Int := max top emin - f.mbits
    let (kept, inexact, up) := roundAt rm z neg m e q sticky
    let kept' := if up then kept + 1 else kept
    let code := if top < emin then kept' else (top - emin).toNat * 2 ^ f.mbits + kept'
    if code > maxCode f then (overflowCode f rm neg, flagOF ||| flagNX)
    else
      let tiny := decide (top < emin) &&
        !(decide (top + 1 = emin) &&
          (let (k2, _, up2) := roundAt rm z neg m e (top - f.mbits) sticky
           (if up2 then k2 + 1 else k2) == 2 ^ (f.mbits + 1)))
      (signCode f neg code, (if inexact then flagNX else 0) ||| (if tiny && inexact then flagUF else 0))

/-- The NaN result of an operation, with NV when asked (R152, R163). -/
def nanF (f : FloatFmt) (nv : Bool) : Nat × FFlags := (canonNan f, if nv then flagNV else 0)

/-- Whether a value is a signalling NaN. -/
def isSnan : FVal → Bool
  | .nan s => s
  | .inf _ => false
  | .fin _ _ _ => false

/-- Whether a value is a NaN. -/
def isNan : FVal → Bool
  | .nan _ => true
  | .inf _ => false
  | .fin _ _ _ => false

/-- An exact sum of two finite values, as sign, magnitude and exponent; a zero sum takes the sign of R157. -/
def addExact (rm : Rm) (s1 : Bool) (m1 : Nat) (e1 : Int) (s2 : Bool) (m2 : Nat) (e2 : Int) : Bool × Nat × Int :=
  let e := min e1 e2
  let a : Int := (m1 * 2 ^ (e1 - e).toNat : Nat)
  let b : Int := (m2 * 2 ^ (e2 - e).toNat : Nat)
  let v := (if s1 then -a else a) + (if s2 then -b else b)
  if v = 0 then (if s1 = s2 then s1 else rm == .rdn, 0, e) else (decide (v < 0), v.natAbs, e)

/-- The sum of two values, rounded once (R167). -/
def fAdd (f : FloatFmt) (rm : Rm) (z : Word) (x y : FVal) : Nat × FFlags :=
  match x, y with
  | .nan s, v => nanF f (s || isSnan v)
  | v, .nan s => nanF f (s || isSnan v)
  | .inf a, .inf b => if a = b then (infCode f a, 0) else nanF f true
  | .inf a, .fin _ _ _ => (infCode f a, 0)
  | .fin _ _ _, .inf b => (infCode f b, 0)
  | .fin s1 m1 e1, .fin s2 m2 e2 =>
    let (s, m, e) := addExact rm s1 m1 e1 s2 m2 e2
    roundF f rm z s m e false

/-- A value with its sign changed. -/
def negF : FVal → FVal
  | .nan s => .nan s
  | .inf n => .inf (!n)
  | .fin n m e => .fin (!n) m e

/-- The product of two values, rounded once (R167). -/
def fMul (f : FloatFmt) (rm : Rm) (z : Word) (x y : FVal) : Nat × FFlags :=
  match x, y with
  | .nan s, v => nanF f (s || isSnan v)
  | v, .nan s => nanF f (s || isSnan v)
  | .inf a, .inf b => (infCode f (a != b), 0)
  | .inf a, .fin b m _ => if m = 0 then nanF f true else (infCode f (a != b), 0)
  | .fin a m _, .inf b => if m = 0 then nanF f true else (infCode f (a != b), 0)
  | .fin s1 m1 e1, .fin s2 m2 e2 => roundF f rm z (s1 != s2) (m1 * m2) (e1 + e2) false

/-- x x y + w, rounded once; 0 x infinity is invalid whatever w is (R167). -/
def fFma (f : FloatFmt) (rm : Rm) (z : Word) (x y w : FVal) : Nat × FFlags :=
  let snan := isSnan x || isSnan y || isSnan w
  let invalid := match x, y with
    | .inf _, .fin _ 0 _ => true
    | .fin _ 0 _, .inf _ => true
    | _, _ => false
  if isNan x || isNan y || isNan w || invalid then nanF f (snan || invalid)
  else
    let prod : FVal := match x, y with
      | .fin s1 m1 e1, .fin s2 m2 e2 => .fin (s1 != s2) (m1 * m2) (e1 + e2)
      | .inf a, .inf b => .inf (a != b)
      | .inf a, .fin b _ _ => .inf (a != b)
      | .fin a _ _, .inf b => .inf (a != b)
      | v, _ => v
    fAdd f rm z prod w

/-- The quotient of two values, rounded once (R167). -/
def fDiv (f : FloatFmt) (rm : Rm) (z : Word) (x y : FVal) : Nat × FFlags :=
  match x, y with
  | .nan s, v => nanF f (s || isSnan v)
  | v, .nan s => nanF f (s || isSnan v)
  | .inf _, .inf _ => nanF f true
  | .inf a, .fin b _ _ => (infCode f (a != b), 0)
  | .fin a _ _, .inf b => (signCode f (a != b) 0, 0)
  | .fin s1 m1 e1, .fin s2 m2 e2 =>
    if m2 = 0 then (if m1 = 0 then nanF f true else (infCode f (s1 != s2), flagDZ))
    else if m1 = 0 then (signCode f (s1 != s2) 0, 0)
    else
      let n := m1 * 2 ^ 128
      roundF f rm z (s1 != s2) (n / m2) (e1 - e2 - 128) (n % m2 != 0)

/-- The integer square root of a number below 4^n, bit by bit. -/
def isqrt : Nat → Nat → Nat
  | 0, _ => 0
  | n + 1, x =>
    let r := 2 * isqrt n (x / 4)
    if (r + 1) * (r + 1) ≤ x then r + 1 else r

/-- The square root of a value, rounded once (R167). -/
def fSqrt (f : FloatFmt) (rm : Rm) (z : Word) (x : FVal) : Nat × FFlags :=
  match x with
  | .nan s => nanF f s
  | .inf false => (infCode f false, 0)
  | .inf true => nanF f true
  | .fin s m e =>
    if m = 0 then (signCode f s 0, 0)
    else if s then nanF f true
    else
      let (m', e') := if e % 2 = 0 then (m, e) else (2 * m, e - 1)
      let n := m' * 2 ^ 128
      let r := isqrt (bitLen n / 2 + 1) n
      roundF f rm z false r ((e' - 128) / 2) (r * r != n)

/-- Compares two values that are no NaN: less, equal or greater; -0 equals +0 (R168). -/
def cmpF (x y : FVal) : Ordering :=
  match x, y with
  | .inf a, .inf b => if a = b then .eq else if a then .lt else .gt
  | .inf a, _ => if a then .lt else .gt
  | _, .inf b => if b then .gt else .lt
  | .fin s1 m1 e1, .fin s2 m2 e2 =>
    let e := min e1 e2
    let a : Int := (m1 * 2 ^ (e1 - e).toNat : Nat)
    let b : Int := (m2 * 2 ^ (e2 - e).toNat : Nat)
    compare (if s1 then -a else a) (if s2 then -b else b)
  | _, _ => .eq

/-- Whether a value carries the minus sign. -/
def isNeg : FVal → Bool
  | .nan _ => false
  | .inf n => n
  | .fin n _ _ => n

/-- `fmin` (least) or `fmax` of two encodings, with -0 below +0 (R168). -/
def fMinMax (least : Bool) (f : FloatFmt) (a b : Nat) : Nat × FFlags :=
  let x := decodeF f a
  let y := decodeF f b
  let a := a % 2 ^ fwidth f
  let b := b % 2 ^ fwidth f
  let fl := if isSnan x || isSnan y then flagNV else 0
  if isNan x && isNan y then (canonNan f, fl)
  else if isNan x then (b, fl)
  else if isNan y then (a, fl)
  else
    let aBelow := match cmpF x y with
      | .lt => true
      | .gt => false
      | .eq => isNeg x
    (if aBelow == least then a else b, fl)

/-- The comparisons of R168, with the flag that a NaN raises. -/
inductive FCmp where
  | eq | lt | le
  deriving DecidableEq, Repr

/-- `fcmp` on two encodings: the answer and the flags (R168). -/
def fCompare (c : FCmp) (f : FloatFmt) (a b : Nat) : Bool × FFlags :=
  let x := decodeF f a
  let y := decodeF f b
  if isNan x || isNan y then
    (false, if isSnan x || isSnan y || c ≠ .eq then flagNV else 0)
  else
    let o := cmpF x y
    (match c with
      | .eq => o == .eq
      | .lt => o == .lt
      | .le => o != .gt, 0)

/-- `fclass`: the one bit that names the class of an encoding (R168). -/
def fClass (f : FloatFmt) (a : Nat) : Nat :=
  match decodeF f a with
  | .inf true => 2 ^ 0
  | .inf false => 2 ^ 7
  | .nan true => 2 ^ 8
  | .nan false => 2 ^ 9
  | .fin neg m _ =>
    let normal := decide (bitsAt a f.mbits f.ebits ≠ 0)
    if m = 0 then (if neg then 2 ^ 3 else 2 ^ 4)
    else if normal then (if neg then 2 ^ 1 else 2 ^ 6)
    else (if neg then 2 ^ 2 else 2 ^ 5)

/-- Rounds a signed dyadic v x 2^e to an integer, the value and whether it was inexact. Under SR the retained part
is that of the two's complement value (R156, R160). -/
def roundInt (rm : Rm) (z : Word) (v : Int) (e : Int) : Int × Bool :=
  if 0 ≤ e then (v * 2 ^ e.toNat, false)
  else
    let d : Int := 2 ^ (-e).toNat
    let fl := v / d
    let rem := v % d
    let up := match rm with
      | .rne => decide (2 * rem > d) || (decide (2 * rem = d) && fl % 2 != 0)
      | .rtz => decide (v < 0) && rem != 0
      | .rdn => false
      | .rup => rem != 0
      | .sr => decide (rem * 2 ^ 32 / d + (z.toNat / 2 ^ 32 : Nat) ≥ 2 ^ 32)
    (if up then fl + 1 else fl, rem != 0)

/-- `rnd`: rounds an encoding to an integral value in the same format; under SR the parts are those of the
magnitude, since the target is a floating format (R169, R160). -/
def fRnd (f : FloatFmt) (rm : Rm) (z : Word) (a : Nat) : Nat × FFlags :=
  match decodeF f a with
  | .nan s => nanF f s
  | .inf n => (infCode f n, 0)
  | .fin neg m e =>
    if m = 0 ∨ 0 ≤ e then (a % 2 ^ fwidth f, 0)
    else
      let (kept, inexact, up) := roundAt rm z neg m e 0 false
      ((roundF f .rtz 0 neg (if up then kept + 1 else kept) 0 false).1, if inexact then flagNX else 0)

/-! ## Integer formats and conversion -/

/-- Width and signedness of an integer format (R148). -/
def intFmt : Fmt → Option (Nat × Bool)
  | .int8 => some (8, true)
  | .uint8 => some (8, false)
  | .int16 => some (16, true)
  | .uint16 => some (16, false)
  | .int32 => some (32, true)
  | .int4 => some (4, true)
  | .uint4 => some (4, false)
  | .int2 => some (2, true)
  | .acc32i => some (32, true)
  | .acc64i => some (64, true)
  | .bps8 => some (8, true)
  | .bpu8 => some (8, false)
  | .bps16 => some (16, true)
  | .bpu16 => some (16, false)
  | .bsint8 => some (8, true)
  | .bsint4 => some (4, true)
  | .fp32 | .fp16 | .bf16 | .fp8a | .fp8b | .fp6a | .fp6b | .fp4 | .ci16 | .ci8 | .cf16
  | .bsfp8a | .bsfp6a | .bsfp4 | .acc32f | .e8 => none

/-- The parameters of the element of a floating format (R148, R150). -/
def floatFmt : Fmt → Option FloatFmt
  | .fp32 | .acc32f => some fmtFp32
  | .fp16 => some fmtFp16
  | .bf16 => some fmtBf16
  | .fp8a | .bsfp8a => some fmtFp8a
  | .fp8b => some fmtFp8b
  | .fp6a | .bsfp6a => some fmtFp6a
  | .fp6b => some fmtFp6b
  | .fp4 | .bsfp4 => some fmtFp4
  | .int8 | .uint8 | .int16 | .uint16 | .int32 | .int4 | .uint4 | .int2 | .bps8 | .bpu8 | .bps16 | .bpu16
  | .ci16 | .ci8 | .cf16 | .bsint8 | .bsint4 | .acc32i | .acc64i | .e8 => none

/-- Bits of one element of a format (R148). -/
def fmtBits : Fmt → Nat
  | .int8 | .uint8 | .bps8 | .bpu8 | .fp8a | .fp8b | .bsint8 | .bsfp8a | .e8 => 8
  | .int16 | .uint16 | .bps16 | .bpu16 | .fp16 | .bf16 | .ci8 => 16
  | .int32 | .fp32 | .ci16 | .cf16 | .acc32f | .acc32i => 32
  | .int4 | .uint4 | .fp4 | .bsfp4 | .bsint4 => 4
  | .int2 => 2
  | .fp6a | .fp6b | .bsfp6a => 6
  | .acc64i => 64

/-- The least and greatest value of an integer format. -/
def intRange (w : Nat) (signed : Bool) : Int × Int :=
  if signed then (-(2 ^ (w - 1) : Int), 2 ^ (w - 1) - 1) else (0, 2 ^ w - 1)

/-- A value brought into the range of an integer format: NV and NX when it is out of range (R163). -/
def toIntRange (w : Nat) (signed : Bool) (v : Int) (inexact : Bool) : Int × FFlags :=
  let (lo, hi) := intRange w signed
  if v < lo then (lo, flagNV ||| flagNX)
  else if hi < v then (hi, flagNV ||| flagNX)
  else (v, if inexact then flagNX else 0)

/-- An integer result as a 64-bit pattern: sign-extended when signed, zero-extended otherwise (R172). -/
def intPattern (w : Nat) (signed : Bool) (v : Int) : Word :=
  if signed then wordOfInt v else BitVec.ofNat 64 (wrapInt w v)

/-- A floating value converted to an integer format (R163). -/
def floatToInt (w : Nat) (signed : Bool) (rm : Rm) (z : Word) (x : FVal) : Int × FFlags :=
  match x with
  | .nan _ => (0, flagNV)
  | .inf n => (if n then (intRange w signed).1 else (intRange w signed).2, flagNV)
  | .fin neg m e =>
    let (v, inexact) := roundInt rm z (if neg then -(m : Int) else m) e
    toIntRange w signed v inexact

/-- A floating value converted to a floating format (R163). -/
def floatToFloat (f : FloatFmt) (rm : Rm) (z : Word) (x : FVal) : Nat × FFlags :=
  match x with
  | .nan s =>
    match f.nans with
    | .absent => (maxCode f, flagNV)
    | .ieee => nanF f s
    | .topOnly => nanF f s
  | .inf n =>
    match f.nans with
    | .ieee => (infCode f n, 0)
    | .topOnly => (signCode f n (maxCode f), flagNV)
    | .absent => (signCode f n (maxCode f), flagNV)
  | .fin neg m e => roundF f rm z neg m e false

/-- FP32 to E8 (R172). -/
def fp32ToE8 (rm : Rm) (x : FVal) : Nat × FFlags :=
  match x with
  | .nan _ => (255, flagNV)
  | .inf _ => (255, flagNV)
  | .fin neg m e =>
    if neg ∨ m = 0 then (255, flagNV)
    else
      let fl : Int := e + bitLen m - 1
      let pow := decide (m = 2 ^ (bitLen m - 1))
      let ex : Int := 127 + (if rm = .rup && !pow then fl + 1 else fl)
      if ex > 254 then (254, flagOF ||| flagNX)
      else if ex < 0 then (0, flagUF ||| flagNX)
      else (ex.toNat, if pow then 0 else flagNX)

/-- The value of an E8 scale; 255 is a quiet NaN (R148, R152). -/
def e8Value (x : Nat) : FVal := if x % 256 = 255 then .nan false else .fin false 1 ((x % 256 : Nat) - 127)

/-- One conversion of a non-complex pair (R171, R172): the pattern written and the flags. -/
def cvtOne (src dst : Fmt) (rm : Rm) (z : Word) (a : Nat) : Word × FFlags :=
  match src, dst with
  | .e8, _ => let r := floatToFloat fmtFp32 rm z (e8Value a); (BitVec.ofNat 64 r.1, r.2)
  | _, .e8 => let r := fp32ToE8 rm (decodeF fmtFp32 a); (BitVec.ofNat 64 r.1, r.2)
  | _, _ =>
    match intFmt src, floatFmt src, intFmt dst, floatFmt dst with
    | some (w, sg), _, some (w', sg'), _ =>
      let v := if sg then signedNat w a else (bitsAt a 0 w : Nat)
      let r := toIntRange w' sg' v false
      (intPattern w' sg' r.1, r.2)
    | some (w, sg), _, _, some f =>
      let v := if sg then signedNat w a else (bitsAt a 0 w : Nat)
      let r := roundF f rm z (decide (v < 0)) v.natAbs 0 false
      (BitVec.ofNat 64 r.1, r.2)
    | _, some f, some (w', sg'), _ =>
      let r := floatToInt w' sg' rm z (decodeF f a)
      (intPattern w' sg' r.1, r.2)
    | _, some f, _, some f' =>
      if src = dst then
        let x := decodeF f a
        if isNan x then (BitVec.ofNat 64 (canonNan f), if isSnan x then flagNV else 0)
        else (BitVec.ofNat 64 (bitsAt a 0 (fwidth f)), 0)
      else
        let r := floatToFloat f' rm z (decodeF f a)
        (BitVec.ofNat 64 r.1, r.2)
    | _, _, _, _ => (BitVec.ofNat 64 a, 0)

/-- The format of each part of a complex format (R148). -/
def complexPart : Fmt → Option Fmt
  | .ci16 => some .int16
  | .ci8 => some .int8
  | .cf16 => some .fp16
  | .int8 | .uint8 | .int16 | .uint16 | .int32 | .int4 | .uint4 | .int2 | .bps8 | .bpu8 | .bps16 | .bpu16
  | .fp32 | .fp16 | .bf16 | .fp8a | .fp8b | .fp6a | .fp6b | .fp4 | .bsint8 | .bsfp8a | .bsfp6a | .bsfp4
  | .bsint4 | .acc32f | .acc32i | .acc64i | .e8 => none

/-- A conversion by any pair of the table of R171, with the two draws of a complex pair given, real part first. -/
def cvtValue (src dst : Fmt) (rm : Rm) (z1 z2 : Word) (a : Nat) : Word × FFlags :=
  match complexPart src, complexPart dst with
  | some s, some d =>
    let re := cvtOne s d rm z1 (bitsAt a 0 (fmtBits s))
    let im := cvtOne s d rm z2 (bitsAt a (fmtBits s) (fmtBits s))
    let n := fmtBits d
    (BitVec.ofNat 64 (bitsAt re.1.toNat 0 n + bitsAt im.1.toNat 0 n * 2 ^ n), re.2 ||| im.2)
  | _, _ => cvtOne src dst rm z1 a

/-- The number of draws of a conversion under SR: two for a complex pair, one otherwise (R161, R172). -/
def cvtDraws (src : Fmt) : Nat := if (complexPart src).isSome then 2 else 1

end Sys2Proof.Machine
end

