-- ==== Sys2Proof/Machine/Translate.lean ====
section
/-! DEFINITION. The address map, the Pan window map, the table walk and the translation caches (R204 to R207, R231 to
R236), and where an access of the thread at its turn goes (R244). -/

namespace Sys2Proof.Machine

open Sys2Proof

/-- What a virtual address names (R231). -/
inductive VaClass where
  | global
  | pan (n off : Nat)
  | device
  | none
  deriving DecidableEq, Repr

/-- The class of a virtual address; the local window is that of a Pan (R204, R231). -/
def classify (localPan va : Nat) : VaClass :=
  if va < 0x0080000000000000 then .global
  else if va < 0x0080000002000000 then .pan localPan (va % 2 ^ 25)
  else if 0x0081000000000000 ≤ va ∧ va < 0x0081000800000000 ∧ va % 2 ^ 32 < 2 ^ 25 then .pan (bitsAt va 32 3) (va % 2 ^ 25)
  else if 0x00FF000000000000 ≤ va ∧ va < 0x0100000000000000 then .device
  else .none

/-- The class of an address for the thread at its turn. -/
def State.vaClass (s : State) (va : Word) : VaClass := classify s.t.localPan va.toNat

/-- The named-window form of a Pan-store address (R131). -/
def namedVa (n off : Nat) : Word := BitVec.ofNat 64 (0x0081000000000000 + n * 2 ^ 32 + off % 2 ^ 25)

/-- A trap that a translation gives: code, TRAPINFO (R207, R235). -/
abbrev TransFault := TrapCode × Word

/-! ## The window map (R205 to R207) -/

/-- The entry of a partition's map; an entry that has never been written is 0 (R205). -/
def State.mapEntry (s : State) (p n page : Nat) : MapEntry :=
  (s.mem.maps.find? fun e => e.part = p && e.pan = n && e.page = page).getD
    ⟨p, n, page, false, false, false, false, 0, 0, 0⟩

/-- Replaces an entry of a map; an entry that is 0 is not listed. -/
def State.setMapEntry (s : State) (e : MapEntry) : State :=
  let rest := s.mem.maps.filter fun x => !(x.part = e.part && x.pan = e.pan && x.page = e.page)
  let zero := !e.valid && !e.read && !e.write && !e.moving && e.cellar = 0 && e.frame = 0 && e.label = 0
  { s with mem := { s.mem with maps := if zero then rest else e :: rest } }

/-- Window(ea, kind) for a partition (R207): the Pan, the physical address and the page label. -/
def State.window (s : State) (p n off : Nat) (r w : Bool) : Except TransFault (Nat × Label) :=
  if !s.ownsPan p n then .error (.prot, 0)
  else
    let e := s.mapEntry p n (off / 8192)
    if !e.valid then .error (.page, 0)
    else if (r && !e.read) || (w && !e.write) then .error (.prot, 0)
    else .ok (e.cellar * 2 ^ 18 + e.frame * 8192 + off % 8192, e.label)

/-! ## The walk (R232 to R235) -/

/-- The frame owner table's entry of a frame; a frame with none is not valid (R234). -/
def State.frameOwner (s : State) (frame : Nat) : FrameOwner :=
  (s.mem.owners.find? fun o => o.frame = frame).getD ⟨frame, false, 0, 0, 0⟩

/-- The key label of a key slot (R372). -/
def State.keyLabel (s : State) (k : Nat) : Label :=
  ((s.mem.keyLabels.find? fun x => x.1 = k).map Prod.snd).getD 0

/-- Index(L, va): the table index of a level (R232). -/
def walkIndex (level va : Nat) : Nat :=
  match level with
  | 0 => bitsAt va 49 7
  | 1 => bitsAt va 40 9
  | 2 => bitsAt va 31 9
  | 3 => bitsAt va 22 9
  | _ => bitsAt va 13 9

/-- The 8 KiB pages that a leaf of a level covers (R232). -/
def leafPages (level : Nat) : Nat := if level = 2 then 2 ^ 18 else if level = 3 then 2 ^ 9 else 1

/-- TRAPINFO of a translation fault: the level, a malformed entry, an ownership failure (R235). -/
def walkInfo (level : Nat) (malformed owner : Bool) : Word :=
  BitVec.ofNat 64 (level + malformed.toNat * 8 + owner.toNat * 16)

/-- The walk of R235 from a table at a level: a leaf as it may be cached, or the fault. Whether the leaf's key and
label fail the frame owner table is reported with it, since the permissions are checked first. -/
def State.walkFrom (s : State) (p va : Nat) : Nat → Nat → Nat → Except TransFault (CachedLeaf × Bool)
  | 0, _, level => .error (.page, walkInfo level true false)
  | fuel + 1, table, level =>
    let at_ := table + 16 * walkIndex level va
    if s.mem.bad (.hbm at_) then .error (.dataerr, walkInfo level false false)
    else
      let d0 := s.mem.gread at_ 8
      let d1 := s.mem.gread (at_ + 8) 8
      let leaf := bitAt d0 1
      let frame := bitsAt d0 13 31
      let pages := leafPages level
      let reserved := if leaf then bitAt d0 12 || bitsAt d0 49 15 != 0 || bitsAt d1 32 32 != 0
        else bitsAt d0 2 11 != 0 || bitsAt d0 44 20 != 0 || d1 != 0
      if !bitAt d0 0 then .error (.page, walkInfo level false false)
      else if reserved || (leaf && level < 2) || (!leaf && level == 4) || (leaf && frame % pages != 0)
          || (leaf && bitsAt d0 46 2 == 3) then .error (.page, walkInfo level true false)
      else
        let o := s.frameOwner frame
        if !o.valid || o.owner != p then .error (.prot, walkInfo level false true)
        else if leaf then
          let key := bitsAt d0 6 6
          let label := BitVec.ofNat 32 d1
          .ok (⟨p, va / 8192 / pages * pages, pages, frame, level, bitAt d0 2, bitAt d0 3, bitAt d0 4, bitAt d0 5,
            label, key, bitsAt d0 44 2, bitsAt d0 46 2, bitAt d0 48⟩, key != o.key || !labelLe label o.labels)
        else s.walkFrom p va fuel (frame * 8192) (level + 1)

/-- The root of a partition's tables (R232). -/
def State.root (s : State) (p : Nat) : Option Nat :=
  match s.part? p with
  | some x => x.regs.root
  | none => none

/-- The kinds of access for a translation. -/
structure AccKind where
  read  : Bool
  write : Bool
  exec  : Bool
  deriving DecidableEq, Repr

/-- The permission checks of R235 on a leaf, and the physical address. -/
def leafCheck (l : CachedLeaf) (bad : Bool) (va : Nat) (k : AccKind) (task : Bool) : Except TransFault (Nat × CachedLeaf) :=
  if (k.read && !l.read) || (k.write && !l.write) || (k.exec && !l.exec) then .error (.prot, walkInfo l.level false false)
  else if task && !l.task then .error (.prot, walkInfo l.level false false)
  else if bad then .error (.prot, walkInfo l.level false true)
  else .ok (l.frame * 8192 + va % (l.pages * 8192), l)

/-- The partition number that stands for the threads of the management core, which belong to no partition (R82). -/
def devicePart : Nat := 32

/-- What the management core reaches through the global range (R82): the byte of HBM with that number, as if an entry with the
label of the frame's owner mapped it for every access (assumption 98). -/
def State.deviceLeaf (s : State) (va : Nat) : CachedLeaf :=
  let frame := va / 8192 % 2 ^ 31
  let o := s.frameOwner frame
  ⟨devicePart, va / 8192, 1, frame, 4, true, true, true, true, o.labels, o.key, 0, 0, false⟩

/-- The leaf of an address for a partition, by a walk from its root (R235), and whether its key or label fails the frame owner
table. -/
def State.walkLeaf (s : State) (p va : Nat) : Except TransFault (CachedLeaf × Bool) :=
  if p = devicePart then .ok (s.deviceLeaf va, false)
  else
    match s.root p with
    | none => .error (.page, 0)
    | some r => s.walkFrom p va 5 r 0

/-- A whole walk (R235), which uses no cache. -/
def State.walk (s : State) (p va : Nat) (k : AccKind) (task : Bool) : Except TransFault (Nat × CachedLeaf) :=
  match s.walkLeaf p va with
  | .error e => .error e
  | .ok (l, bad) => leafCheck l bad va k task

/-- A leaf cached at a hub (R236). -/
def State.hubLeaf (s : State) (hub p va : Nat) : Option CachedLeaf :=
  (s.trans.hubs.find? fun x =>
    x.1 = hub && x.2.part = p && x.2.page ≤ va / 8192 && va / 8192 < x.2.page + x.2.pages).map Prod.snd

/-- Puts a leaf into a cache of limited size; which entry a full cache loses is not specified (R236). -/
def cachePut (cache : List (Nat × CachedLeaf)) (place size draw : Nat) (l : CachedLeaf) : List (Nat × CachedLeaf) :=
  let mine := cache.filter fun x => x.1 = place
  let cache := if mine.length < size then cache
    else match mine[Config.victim draw % mine.length]? with
      | some v => cache.erase v
      | none => cache
  (place, l) :: cache

/-- The translating hub of an address (R236). -/
def hubOf (va : Nat) : Nat := bitsAt va 13 2

/-- The label that a read of a page joins: the PTE's with its key slot's (R372). -/
def State.readLabel (s : State) (l : CachedLeaf) : Label := l.label ||| s.keyLabel l.keyslot

/-! ## The label of a page -/

/-- The page label of an address of a partition at this moment, for the check of a posted write (R255). -/
def State.pageLabelNow (s : State) (p : Nat) (va : Word) (loc : Loc) (known : Label) : Label :=
  match loc with
  | .pan n _ => (s.mapEntry p n (va.toNat % 2 ^ 25 / 8192)).label
  | .hbm _ =>
    match s.walk p va.toNat ⟨false, false, false⟩ false with
    | .ok (_, l) => l.label
    | .error _ => known

end Sys2Proof.Machine
end

