-- ==== Sys2Proof/Machine/Access.lean ====
section
/-! DEFINITION. Accesses: how they are sent, held, arbitrated, performed and answered (R208 to R217, R222 to R228,
R238 to R241, R254 to R256, R308 to R321, R324 to R326, R343). -/

namespace Sys2Proof.Machine

open Sys2Proof

/-! ## Clocks (R343) -/

/-- a is at least b in serial-number arithmetic (R343). -/
def serialGe (a b : Nat) : Bool := (a + 2 ^ 32 - b) % 2 ^ 32 < 2 ^ 31

/-- The later of two clock entries; an entry of 0 loses (R343). -/
def joinEntry (a b : Nat) : Nat := if a = 0 then b else if b = 0 then a else if serialGe a b then a else b

/-- The join of two clocks (R343). -/
def joinClock (a b : List Nat) : List Nat := List.zipWith joinEntry a b

/-- The clock of a die; every die has one. -/
def State.die (s : State) (z : Nat) : DieClock := s.clocks.dies.getD z DieClock.reset

/-- Changes the clock of a die. -/
def State.modDie (s : State) (z : Nat) (f : DieClock → DieClock) : State :=
  { s with clocks := { s.clocks with dies := s.clocks.dies.set z (f (s.die z)) } }

/-- DCLOCK of a die, in the order of VCLOCK's entries: SENT at its own entry, APPLIED at the others (R343). -/
def State.dclock (s : State) (z : Nat) : List Nat := ((s.die z).applied.set z (s.die z).sent) ++ [0, 0, 0, 0]

/-- A die has applied the causal past of a clock, except for the entries of the die itself and of a source (R343). -/
def State.causalOk (s : State) (z : Nat) (clock : List Nat) (src : Nat) : Bool :=
  (List.range 12).all fun y =>
    y = z || y = src || clock.getD y 0 = 0 || serialGe ((s.die z).applied.getD y 0) (clock.getD y 0)

/-- The counter after n; it never takes the value 0 (R343). -/
def serialNext (n : Nat) : Nat := if (n + 1) % 2 ^ 32 = 0 then 1 else (n + 1) % 2 ^ 32

/-- A cross-die write is issued from die x to die z: SENT rises, and the write's number and place among the writes of the
pair are given (R343). -/
def State.sendCross (s : State) (x z : Nat) : Nat × Nat × State :=
  let d := s.die x
  (serialNext d.sent, d.pairSent.getD z 0,
    s.modDie x fun d => { d with sent := serialNext d.sent, pairSent := d.pairSent.set z (d.pairSent.getD z 0 + 1) })

/-! ## Accesses and fills in the fabric -/

/-- An access by its number. -/
def State.acc? (s : State) (id : Nat) : Option Acc := s.fab.accs.find? fun a => a.id = id
/-- Changes an access. -/
def State.modAcc (s : State) (id : Nat) (f : Acc → Acc) : State :=
  { s with fab := { s.fab with accs := s.fab.accs.map fun a => if a.id = id then f a else a } }
/-- Removes an access. -/
def State.dropAcc (s : State) (id : Nat) : State :=
  { s with fab := { s.fab with accs := s.fab.accs.filter fun a => a.id ≠ id } }
/-- A fill by its number. -/
def State.fill? (s : State) (id : Nat) : Option Fill := s.fab.fills.find? fun f => f.id = id
/-- Changes a fill. -/
def State.modFill (s : State) (id : Nat) (f : Fill → Fill) : State :=
  { s with fab := { s.fab with fills := s.fab.fills.map fun x => if x.id = id then f x else x } }
/-- Removes a fill. -/
def State.dropFill (s : State) (id : Nat) : State :=
  { s with fab := { s.fab with fills := s.fab.fills.filter fun f => f.id ≠ id } }
/-- Hands an event to a partition's fault queue (R392). -/
def State.fault (s : State) (p : Nat) (e : FaultEvent) : State := s.push (.faultQueueEvent p e)

/-- A reading access, for the scoreboard and the combining of R208 and R273. -/
def MemOp.readsOnly (op : MemOp) : Bool :=
  match op with
  | .load _ _ | .loadWord _ | .ldff | .tagr | .vload _ _ _ _ => true
  | .store _ _ | .storeWords _ | .ldfe | .stfe _ | .stff _ | .tagw _ | .amo _ _ _ | .red _ _ _ | .cas _ _
  | .cas2 _ _ _ _ | .park _ _ | .claimNest _ _ _ | .push _ _ | .pop | .steal | .vstore _ _ _ | .wakeSlots _ _ _
  | .setvat _ _ => false

/-- A reduction (R314). -/
def MemOp.isRed (op : MemOp) : Bool :=
  match op with
  | .red _ _ _ => true
  | .load _ _ | .loadWord _ | .ldff | .tagr | .vload _ _ _ _ | .store _ _ | .storeWords _ | .ldfe | .stfe _ | .stff _
  | .tagw _ | .amo _ _ _ | .cas _ _ | .cas2 _ _ _ _ | .park _ _ | .claimNest _ _ _ | .push _ _ | .pop | .steal | .vstore _ _ _
  | .wakeSlots _ _ _ | .setvat _ _ => false

/-- A returning atomic, whose answer takes one cycle more than a load's (R213, R241). -/
def MemOp.isAtomic (op : MemOp) : Bool :=
  match op with
  | .amo _ _ _ | .cas _ _ | .cas2 _ _ _ _ | .park _ _ | .claimNest _ _ _ | .push _ _ | .pop | .steal => true
  | .red _ _ _ | .load _ _ | .loadWord _ | .ldff | .tagr | .vload _ _ _ _ | .store _ _ | .storeWords _ | .ldfe | .stfe _
  | .stff _ | .tagw _ | .vstore _ _ _ | .wakeSlots _ _ _ | .setvat _ _ => false

/-- The window page of a Pan-store access (R204). -/
def Acc.page (a : Acc) : Nat := a.va.toNat % 2 ^ 25 / 8192

/-- The window pages that an access touches: one, or those of an element's bytes or planes (R149, R153, R204). -/
def Acc.pages (a : Acc) : List Nat :=
  match a.op with
  | .vload _ _ _ places => places.map fun x => x.1 / 8192
  | .load _ _ | .loadWord _ | .ldff | .tagr | .store _ _ | .storeWords _ | .ldfe | .stfe _ | .stff _ | .tagw _
  | .amo _ _ _ | .red _ _ _ | .cas _ _ | .cas2 _ _ _ _ | .park _ _ | .claimNest _ _ _ | .push _ _ | .pop | .steal
  | .vstore _ _ _ => [a.page]
  | .wakeSlots _ _ _ | .setvat _ _ => []

/-- A range of a scoreboard holds an access (R273). -/
def Range.holds (r : Range) (a : Acc) (n : Nat) : Bool :=
  r.active && r.part = a.part && r.pan = n && (a.pages.any fun p => r.first ≤ p && p ≤ r.last) &&
    (r.dest || !a.op.readsOnly)

/-- The place at another physical address of the same store. -/
def Loc.at (l : Loc) (pa : Nat) : Loc :=
  match l with
  | .pan n _ => .pan n pa
  | .hbm _ => .hbm pa

/-- A place is in HBM. -/
def Loc.isHbm (l : Loc) : Bool :=
  match l with
  | .hbm _ => true
  | .pan _ _ => false

/-- The words that an access touches; a request of a deque may touch any of it (R135). -/
def Acc.words (a : Acc) : List Loc :=
  match a.op with
  | .vload _ _ _ places => places.map fun x => (a.loc.at x.2).word
  | .storeWords vs => (List.range vs.length).map fun k => (a.loc.plus (8 * k)).word
  | .cas2 _ _ _ _ => [a.loc.word, (a.loc.plus 8).word]
  | .vstore width bit _ => [a.loc.word, (a.loc.plus ((bit + width - 1) / 8)).word]
  | .push _ _ | .pop | .steal => (List.range 128).map fun k => (a.loc.plus (8 * k)).word
  | .load _ _ | .loadWord _ | .ldff | .tagr | .store _ _ | .ldfe | .stfe _ | .stff _ | .tagw _ | .amo _ _ _ | .red _ _ _
  | .cas _ _ | .park _ _ | .claimNest _ _ _ => [a.loc.word]
  | .wakeSlots _ _ _ | .setvat _ _ => []

/-- The ordering domain of an atomic: the cellar of a Pan-store place, or the slice of a global one (R317). -/
def Acc.domain (a : Acc) : Nat :=
  match a.loc with
  | .pan n pa => 128 * n + pa / 2 ^ 18
  | .hbm pa => 1024 + channelOf pa

/-- The bank or slice of an access (R203, R237). -/
def Acc.home (a : Acc) : Nat :=
  match a.loc with
  | .pan n pa => 4096 * n + pa / 2 ^ 18 % 128 * 32 + bitsAt pa 3 5
  | .hbm pa => 32768 + channelOf pa

/-- One access was issued before another of its thread. -/
def Acc.before (b a : Acc) : Bool := b.uid = a.uid && (b.asked < a.asked || (b.asked = a.asked && b.id < a.id))

/-- An earlier access of the same thread must be performed first: one to a word that both touch (R192, R212, R338), an ordered
one of the same domain (R317), or one that travels the same path to the same bank or slice (R256). -/
def Acc.follows (a b : Acc) : Bool :=
  b.before a && b.state != .performed && b.state != .listed &&
    ((a.words.any fun w => b.words.contains w) || (a.ordered && b.ordered && a.domain = b.domain) ||
      (a.legs ≠ 0 && b.legs ≠ 0 && a.home = b.home))

/-- A page of an access is moving, or a range of a scoreboard covers it (R70, R273). -/
def State.pageHeld (s : State) (a : Acc) : Bool :=
  match a.loc with
  | .pan n _ => (a.pages.any fun p => (s.mapEntry a.part n p).moving) || s.fab.ranges.any fun r => r.holds a n
  | .hbm _ => false

/-- A range belongs to a command that has halted or waits behind one that has (R273, R300). -/
def State.rangeHalted (s : State) (r : Range) : Bool :=
  match s.engines.find? fun e => e.place = r.engine with
  | none => false
  | some e =>
    match e.cmds.find? fun c => c.id = r.cmd with
    | none => false
    | some c => e.cmds.any fun x => x.part = c.part && x.queue = c.queue && x.state == .halted

/-- A load that only ranges of halted commands, or of commands behind them, hold: what a handler does to resume them passes it
(R440; assumption 104). -/
def State.haltHeld (s : State) (a : Acc) : Bool :=
  match a.loc with
  | .pan n _ =>
    a.state == .held && a.kept && a.op.readsOnly && !(a.pages.any fun p => (s.mapEntry a.part n p).moving) &&
      s.fab.ranges.all fun r => !r.holds a n || s.rangeHalted r
  | .hbm _ => false

/-- The slot's entry of the hold buffer is taken by an earlier access of the thread (R70, R273). -/
def State.slotHeld (s : State) (a : Acc) : Bool :=
  !a.loc.isHbm && a.legs = 0 && s.fab.accs.any fun b => b.before a && b.kept && b.state == .held && !s.haltHeld b

/-- A vat is read or written by a vector access that has not been performed, or has a page that is moving or in an active range
(R230). -/
def State.vatBusy (s : State) (part n vat : Nat) : Bool :=
  let es := s.mem.maps.filter fun e => e.part = part && e.pan = n && e.valid && e.cellar = vat / 4 && e.frame / 8 = vat % 4
  let typed (a : Acc) : Bool := match a.op with
    | .vload _ _ _ _ | .vstore _ _ _ => a.words.any fun w => match w with
        | .pan m pa => m = n && pa / 2 ^ 16 = vat
        | .hbm _ => false
    | _ => false
  (es.any fun e => e.moving) ||
    (s.fab.ranges.any fun r => r.active && r.part = part && r.pan = n && es.any fun e => r.first ≤ e.page && e.page ≤ r.last) ||
    s.fab.accs.any fun a => a.state != .performed && typed a

/-- An access is held: by a moving page (R70), a range (R273), its slot's hold, an earlier access of its thread, its causal past
(R343), or what its vat waits for (R230). -/
def State.blocked (s : State) (a : Acc) : Bool :=
  s.pageHeld a || s.slotHeld a || (s.fab.accs.any fun b => a.follows b) ||
    !s.causalOk a.loc.die a.clock (if a.cross then a.srcDie else a.loc.die) ||
    (match a.op, a.loc with
     | .setvat vat _, .pan n _ => s.vatBusy a.part n vat
     | _, _ => false)

/-- An access is held until what blocks it is over; in its slot's entry of the hold buffer where that is its page (R70, R273). -/
def State.holdAcc (s : State) (a : Acc) : State :=
  let kept := s.pageHeld a && a.legs = 0
  s.modAcc a.id fun a => { a with state := .held, kept := kept }

/-- The cycles from the grant at a bank, or the lookup at a slice, to the fill of a load (R213, R241). -/
def fillDelay (klass : Nat) : Nat :=
  match klass with
  | 0 => 3
  | 1 => 5
  | 2 => 8
  | _ => 12

/-- The cycles from the end of a watch to the fill of its `park` (R326). -/
def watchDelay (klass : Nat) : Nat :=
  match klass with
  | 0 => 2
  | 1 => 4
  | 2 => 7
  | _ => 11

/-! ## Results -/

/-- A part of a result has been performed: its value is kept, and the last part sets the time of the fill. -/
def State.deliver (s : State) (fid : Nat) (i : Nat) (v : Word) (err : Option (Word × Bool)) (delay : Nat) : State :=
  match s.fill? fid with
  | none => s
  | some f =>
    let f := { f with vals := f.vals.set i v, parts := f.parts - 1, err := if f.err.isSome then f.err else err.map fun e => (e.1, i, e.2) }
    let s := s.modFill fid fun _ => f
    if f.parts = 0 then s.schedule (s.time.cycle + delay + f.legs) (.resultFill fid) else s

/-- A thread's VCLOCK joins a clock (R343). -/
def Thread.joinPast (c : List Nat) (t : Thread) : Thread := { t with ctl := { t.ctl with vclock := joinClock t.ctl.vclock c } }

/-- A read that was performed joins the die's clock into its thread's VCLOCK (R343). -/
def State.readJoins (s : State) (a : Acc) : State :=
  let c := s.dclock a.loc.die
  s.modThread a.uid (Thread.joinPast c)

/-- A window page's physical address for an offset by the map as it now stands; an invalid entry leaves it (R70). -/
def State.mapped (s : State) (part n off pa : Nat) : Nat :=
  let e := s.mapEntry part n (off / 8192)
  if e.valid then e.cellar * 2 ^ 18 + e.frame * 8192 + pa % 8192 else pa

/-- An access by the map as it now stands: its place, and those of an element (R70). -/
def State.retarget (s : State) (a : Acc) : Acc :=
  match a.loc with
  | .hbm _ => a
  | .pan n pa =>
    let op := match a.op with
      | .vload i fmt bit places => .vload i fmt bit (places.map fun x => (x.1, s.mapped a.part n x.1 x.2))
      | op => op
    { a with loc := .pan n (s.mapped a.part n (8192 * a.page) pa), op := op }

/-- An access stands in its bank's queue in the order in which the bank's requests arrived (R210, R349). -/
def State.intoQueue (s : State) (b : Bank) (a : Acc) : Bank :=
  let sooner (x : Nat) : Bool := match s.acc? x with
    | some y => y.came < a.came || (y.came = a.came && (y.asked < a.asked || (y.asked = a.asked && y.id < a.id)))
    | none => true
  { b with queue := b.queue.takeWhile sooner ++ a.id :: b.queue.dropWhile sooner }

/-- The bank of a Pan-store place (R203). -/
def bankOf (pa : Nat) : Nat := pa / 2 ^ 18 % 128 * 32 + bitsAt pa 3 5

/-- A bank; one that has had no request is as at reset (R210). -/
def State.bank (s : State) (n b : Nat) : Bank :=
  (s.fab.banks.find? fun x => x.pan = n && x.bank = b).getD ⟨n, b, 0, [], [], [], 0, 0, none⟩

/-- Replaces a bank. -/
def State.setBank (s : State) (x : Bank) : State :=
  { s with fab := { s.fab with banks := x :: s.fab.banks.filter fun y => !(y.pan = x.pan && y.bank = x.bank) } }

/-- A held access is presented again, at the place that the map now gives (R70, R273, R343). -/
def State.unhold (s : State) (a : Acc) : State :=
  let c := s.time.cycle
  let a := { s.retarget a with kept := false }
  match a.loc with
  | .pan n pa =>
    let a := { a with state := .queued, due := c }
    let s := s.modAcc a.id fun _ => a
    (s.setBank (s.intoQueue (s.bank n (bankOf pa)) a)).scheduleOnce c (.bankArbitration n (bankOf pa))
  | .hbm _ => (s.modAcc a.id fun _ => { a with state := .sent }).schedule (c + 1) (.proxiedAccess a.id)

/-- Accesses that were held are presented again, each once nothing blocks it any more (R70, R273, R343). -/
def State.releaseHeld (s : State) : State :=
  (s.fab.accs.filter fun a => a.state == .held).foldl (fun (s : State) a => if s.blocked a then s else s.unhold a) s

/-- The accesses that are still to be performed go where the map now points (R69, R70, R349): those that wait at a bank of the old
frame wait at that of the new one. -/
def State.retargetAll (s : State) : State :=
  (s.fab.accs.filter fun a => a.state != .performed && a.state != .listed).foldl (fun (s : State) a =>
    let x := s.retarget a
    if x = a then s
    else
      let s := s.modAcc a.id fun _ => x
      match a.state, a.loc, x.loc with
      | .queued, .pan n pa, .pan _ pb =>
        let old := s.bank n (bankOf pa)
        let s := s.setBank { old with queue := old.queue.filter fun i => i ≠ a.id }
        (s.setBank (s.intoQueue (s.bank n (bankOf pb)) x)).scheduleOnce (max x.due (s.time.cycle + 1)) (.bankArbitration n (bankOf pb))
      | _, _, _ => s) s

/-- A die processes the beats whose writes it has applied, in the order sent (R344). -/
def State.processBeats (s : State) (z : Nat) : State :=
  let d := s.die z
  let done (b : Nat × Nat × Nat) : Bool := b.2.2 ≤ d.pairDone.getD b.1 0
  let d := d.beats.foldl (fun (d : DieClock) b => if done b then { d with applied := d.applied.set b.1 b.2.1 } else d) d
  s.modDie z fun _ => { d with beats := d.beats.filter fun b => !done b }

/-- A numbered write of die x has been applied at die z: APPLIED rises, and what waited for it is looked at again (R343, R347). -/
def State.applied (s : State) (x z num : Nat) : State :=
  let s := s.modDie z fun d => { d with
    applied := d.applied.set x num, pairDone := d.pairDone.set x (d.pairDone.getD x 0 + 1) }
  let s := s.processBeats z
  let waiting := s.fab.accs.filter fun b => b.state == .arrived && (b.loc.die = z || (b.srcDie = x && b.port.isSome))
  let pairs := (waiting.map fun b => (b.srcDie, b.loc.die)).eraseDups
  (pairs.foldl (fun (s : State) y => s.push (.crossDieWriteApply y.1 y.2)) s).releaseHeld

/-- A cross-die write is applied at its die, and with it every word of its burst (R254, R343). -/
def State.markApplied (s : State) (a : Acc) : State :=
  let sibling := s.fab.accs.any fun b =>
    b.cross && b.srcDie = a.srcDie && b.num = a.num && b.id ≠ a.id && b.state != .performed
  if !a.cross || sibling then s else s.applied a.srcDie a.loc.die a.num

/-- An access has been performed: a posted write sends its acknowledgement, any other one is done; the thread's last
performance is noted (R254, R315, R335), and what was held behind it is looked at again. -/
def State.finishAcc (s : State) (a : Acc) : State :=
  let c := s.time.cycle
  let s := s.modThread a.uid fun t => { t with lastPerf := c }
  let s := if a.posted then
      (s.modAcc a.id fun a => { a with state := .performed }).schedule (c + a.legs) (.postedWriteAck a.id)
    else
      let s := s.dropAcc a.id
      if a.op.isRed then s.modThread a.uid fun t => { t with ctl := { t.ctl with pendred := t.ctl.pendred - 1 } } else s
  let s := s.markApplied a
  if s.fab.accs.any fun b => b.state == .held then s.releaseHeld else s

/-! ## Waiters and watches (R223, R224, R325, R326) -/

/-- Takes a waiter off its list. -/
def State.dropWaiter (s : State) (acc : Nat) : State :=
  { s with fab := { s.fab with waiters := s.fab.waiters.filter fun w => w.acc ≠ acc } }

/-- The status values (R323). -/
def stOk : Word := 0
def stBusy : Word := 1
def stStale : Word := 0x11
def stTimeout : Word := 0x20

/-- A watch ends with a status: its `park` is filled after the time of its class (R326). -/
def State.endWatch (s : State) (acc : Nat) (status : Word) : State :=
  match s.acc? acc with
  | none => s.dropWaiter acc
  | some a =>
    let s := ((s.dropWaiter acc).dropAcc acc).readJoins a
    match a.fill with
    | some f => s.deliver f 0 status none (watchDelay a.klass)
    | none => s

/-- A write was performed to bytes of a word: every watch on it ends with OK (R326). -/
def State.wake (s : State) (l : Loc) : State :=
  (s.fab.waiters.filter fun w => w.watch && w.word == l.word).foldl (fun s w => s.endWatch w.acc stOk) s

/-- The frame of a place belongs to a partition whose key slot is being erased (R418). -/
def State.erasedAt (s : State) (l : Loc) : Bool :=
  match l with
  | .pan _ _ => false
  | .hbm pa => s.dev.retiring.any fun r => r.erased.isSome && (s.frameOwner (pa / 8192)).valid && (s.frameOwner (pa / 8192)).owner = r.part

/-- Writes n bytes at a place in one step, with the watches that this ends (R326); a write to a frame whose key is erased is
discarded (R418). -/
def State.store (s : State) (l : Loc) (n v : Nat) : State :=
  if s.erasedAt l then s
  else
    let m := s.mem.writeAt l n v
    let m := if n = 8 then m.healWord l else m
    { s with mem := m }.wake l

/-- Writes words one after the other from a place. -/
def State.storeWords (s : State) (l : Loc) : List Word → State
  | [] => s
  | v :: vs => (s.store l 8 v.toNat).storeWords (l.plus 8) vs

/-- The words of a burst of n words that cannot be written: those of a failed sector that the burst covers in part
(R240). A whole row of the Pan store can always be written (R217). -/
def State.lostWords (s : State) (l : Loc) (n : Nat) : List Nat :=
  match l with
  | .pan _ _ => []
  | .hbm pa => (List.range n).filter fun k =>
      let sector := (pa + 8 * k) / 32
      s.mem.bad (.hbm (pa + 8 * k)) && !(pa ≤ sector * 32 && sector * 32 + 32 ≤ pa + 8 * n)

/-- The whole sectors that a run of bytes of HBM covers have been written: their failures are over (R240). -/
def State.healRun (s : State) (l : Loc) (n : Nat) : State :=
  match l with
  | .hbm pa => { s with mem := s.mem.healSectors pa n }
  | .pan _ _ => s

/-- Writes the words of a burst but for those that are lost. -/
def State.storeGood (s : State) (l : Loc) (vs : List Word) (lost : List Nat) : State :=
  ((List.range vs.length).foldl (fun s k =>
    if lost.contains k then s else s.store (l.plus (8 * k)) 8 (vs.getD k 0).toNat) s).healRun l (8 * vs.length)

/-- A waiting request of SYNCMEM can be performed with the tag as it is (R226). -/
def MemOp.tagReady (op : MemOp) (full : Bool) : Bool :=
  match op with
  | .ldfe | .ldff => full
  | .stfe _ => !full
  | .load _ _ | .loadWord _ | .tagr | .vload _ _ _ _ | .store _ _ | .storeWords _ | .stff _ | .tagw _ | .amo _ _ _
  | .red _ _ _ | .cas _ _ | .cas2 _ _ _ _ | .park _ _ | .claimNest _ _ _ | .push _ _ | .pop | .steal | .vstore _ _ _
  | .wakeSlots _ _ _ | .setvat _ _ => true

/-- Writes the format register of a vat (R229). -/
def State.writeVat (s : State) (n vat : Nat) (v : Word) : State :=
  let rest := s.mem.vats.filter fun y => y.1 ≠ n * 512 + vat
  { s with mem := { s.mem with vats := if v = 0 then rest else (n * 512 + vat, v) :: rest } }

/-- A SYNCMEM request is performed with its tag in one step (R226); the word has no uncorrectable error. -/
def State.performTag (s : State) (a : Acc) : State :=
  match a.loc with
  | .hbm _ => s
  | .pan n pa =>
    let d := fillDelay a.klass
    let word : Word := BitVec.ofNat 64 (s.mem.readAt a.loc 8)
    let tag (s : State) (full : Bool) : State := { s with mem := s.mem.setTag n pa full }
    let give (s : State) (v : Word) : State :=
      match a.fill with
      | some f => s.deliver f 0 v none d
      | none => s
    match a.op with
    | .ldfe => give ((tag (s.readJoins a) false).wake a.loc) word
    | .ldff => give (s.readJoins a) word
    | .stfe v => give (tag (s.store a.loc 8 v.toNat) true) 0
    | .stff v => tag (s.store a.loc 8 v.toNat) true
    | .tagr => give (s.readJoins a) (boolWord (s.mem.tagFull n pa))
    | .tagw f => (tag s f).wake a.loc
    | .load _ _ | .loadWord _ | .vload _ _ _ _ | .store _ _ | .storeWords _ | .amo _ _ _ | .red _ _ _ | .cas _ _
    | .cas2 _ _ _ _ | .park _ _ | .claimNest _ _ _ | .push _ _ | .pop | .steal | .vstore _ _ _ | .wakeSlots _ _ _ | .setvat _ _ => s

/-- A thread that a SYNCMEM request holds returns to rotation when the request is performed, past the instruction, and CLABEL
joins the page's label then (R223, R226, R227); one that awaits a reply returns with it. -/
def State.resumeSync (s : State) (a : Acc) : State :=
  match a.fill.bind s.fill? with
  | none => s
  | some f =>
    if f.resume then s
    else
      let s := if f.regs.isEmpty then s.dropFill f.id else s
      s.modThread a.uid fun t => { t.joinClabel f.join with
        pc := t.pc + 4, prog := .fresh, run := if t.run.stopped then t.run else .ready }

/-- A request that holds its thread has met an uncorrectable error: the thread returns with the fill, which the trap precedes
(R217). -/
def State.syncFails (s : State) (a : Acc) : State :=
  match a.fill with
  | none => s
  | some f =>
    let load := a.op == .ldfe || a.op == .ldff
    let s := s.modFill f fun f => { f with resume := true, advance := true }
    s.deliver f 0 0 (some (a.va, load)) (fillDelay a.klass)

/-- `ldfe`, `ldff` or `stfe` is performed, its word being readable and its tag in the state it needs, or it meets an
uncorrectable error (R217, R226). -/
def State.syncDone (s : State) (a : Acc) : State :=
  if s.mem.bad a.loc then s.syncFails a else (s.performTag a).resumeSync a

/-- The requests waiting on a word, in order of arrival (R224). -/
def State.waitersOn (s : State) (l : Loc) : List Nat :=
  (s.fab.waiters.filter fun w => !w.watch && w.word == l.word).map Waiter.acc

/-- Takes a word's queue from its head after a tag change, performing each request whose required state the tag now
has, or which meets an error, and stops at the first that cannot be performed (R217, R224). -/
def State.serviceQueue (s : State) (l : Loc) : List Nat → State
  | [] => s
  | id :: ids =>
    match s.acc? id, l with
    | some a, .pan n pa =>
      if a.op.tagReady (s.mem.tagFull n pa) || s.mem.bad a.loc then
        (((s.dropWaiter id).syncDone a).finishAcc a).serviceQueue l ids
      else s
    | _, _ => s

/-- A word's tag has changed (R224). -/
def State.tagChanged (s : State) (l : Loc) : State := s.serviceQueue l (s.waitersOn l)

/-- The limit of a partition in the Pan waiter table: 256 for each bit of its SLOTMASK (R223). -/
def State.tableLimit (s : State) (p : Nat) : Nat :=
  match s.part? p with
  | some x => 256 * onesBelow 16 x.own.slotmask
  | none => 0

/-- Tags of words have been set by clearing their store: the requests that wait on them are served (R224). -/
def State.tagsSet (s : State) (n lo hi : Nat) : State :=
  let on := (s.fab.waiters.filterMap fun w => match w.word with
    | .pan m pa => if m = n && lo ≤ pa && pa < hi then some w.word else none
    | .hbm _ => none).eraseDups
  on.foldl (fun (s : State) l => (s.wake l).tagChanged l) s

/-- Where a waiter or watch on a place finds an entry: the bank's list, the Pan's table, or a slice's watch table; none
when it is refused (R223, R325). -/
def State.waitPlace (s : State) (p : Nat) (l : Loc) : Option Bool :=
  match l with
  | .pan n pa =>
    let inBank := s.fab.waiters.filter fun w =>
      !w.table && (match w.word with
        | .pan m pb => m = n && bankOf pb = bankOf pa
        | .hbm _ => false)
    if inBank.length < 4 then some false
    else
      let mine := s.fab.waiters.filter fun w =>
        w.table && w.part = p && (match w.word with
          | .pan m _ => m = n
          | .hbm _ => false)
      if mine.length < s.tableLimit p then some true else none
  | .hbm pa =>
    let inSlice := s.fab.waiters.filter fun w =>
      match w.word with
      | .pan _ _ => false
      | .hbm pb => channelOf pb = channelOf pa
    let mine := inSlice.filter fun w => w.part = p
    if inSlice.length < 64 ∧ mine.length < 16 then some false else none

/-! ## Performing -/

/-- Op of R313 on numbers of 4 or 8 bytes. -/
def amoOp (fn : AmoFn) (dbl : Bool) (old x : Nat) : Nat :=
  let w := if dbl then 64 else 32
  let x := x % 2 ^ w
  match fn with
  | .add => (old + x) % 2 ^ w
  | .and => Nat.land old x
  | .or => Nat.lor old x
  | .xor => Nat.xor old x
  | .min => if signedNat w x < signedNat w old then x else old
  | .max => if signedNat w old < signedNat w x then x else old
  | .minu => min old x
  | .maxu => max old x
  | .swap => x
  | .fadd32 => (fAdd fmtFp32 .rne 0 (decodeF fmtFp32 old) (decodeF fmtFp32 x)).1

/-- Extend of R312 and R313. -/
def amoExtend (fn : AmoFn) (dbl : Bool) (old : Nat) : Word :=
  if dbl then BitVec.ofNat 64 old
  else if fn = .fadd32 then BitVec.ofNat 64 (old % 2 ^ 32)
  else wordOfInt (signedNat 32 old)

/-- The bytes of an atomic's operand. -/
def amoBytes (dbl : Bool) : Nat := if dbl then 8 else 4

/-- The element of a register that a vector load decodes from the bits of a vat's format (R189). -/
def vecDecode (fmt : Fmt) (raw : Nat) : BitVec 32 :=
  match fmt with
  | .int8 | .int16 | .int32 | .int4 | .int2 | .acc32i | .bps8 | .bps16 =>
    BitVec.ofInt 32 (signedNat (fmtBits fmt) raw)
  | .fp32 | .acc32f => let x := decodeF fmtFp32 raw; if isNan x then BitVec.ofNat 32 (canonNan fmtFp32) else BitVec.ofNat 32 raw
  | .fp16 => let x := decodeF fmtFp16 raw; if isNan x then BitVec.ofNat 32 (canonNan fmtFp16) else BitVec.ofNat 32 raw
  | .bf16 => let x := decodeF fmtBf16 raw; if isNan x then BitVec.ofNat 32 (canonNan fmtBf16) else BitVec.ofNat 32 raw
  | .e8 => BitVec.ofNat 32 (cvtOne .e8 .fp32 .rne 0 raw).1.toNat
  | .fp8a | .fp8b | .fp6a | .fp6b | .fp4 => BitVec.ofNat 32 (cvtOne fmt .fp16 .rne 0 raw).1.toNat
  | .ci8 => BitVec.ofNat 32 (wrapInt 16 (signedNat 8 raw) + wrapInt 16 (signedNat 8 (raw / 256)) * 2 ^ 16)
  | .uint8 | .uint16 | .uint4 | .bpu8 | .bpu16 | .ci16 | .cf16 | .acc64i | .bsint8 | .bsfp8a | .bsfp6a | .bsfp4
  | .bsint4 => BitVec.ofNat 32 raw

/-- The bits of one element in memory: gathered from its planes, most significant first, for a bit-plane format, else
those from an offset on in the bytes at its places, lowest first (R149, R153). -/
def Memory.element (m : Memory) (fmt : Fmt) (bit : Nat) (locs : List Loc) : Nat :=
  match fmt with
  | .bps8 | .bpu8 | .bps16 | .bpu16 => locs.foldl (fun acc l => acc * 2 + bitsAt (m.readAt l 1) bit 1) 0
  | _ => bitsAt (locs.foldr (fun l acc => m.readAt l 1 + 256 * acc) 0) bit (fmtBits fmt)

/-- Puts the bits of one element into memory, its neighbours unchanged (R190). -/
def State.storeElement (s : State) (l : Loc) (off width code : Nat) : State :=
  let n := (off + width + 7) / 8
  let old := s.mem.readAt l n
  let new := old - bitsAt old off width * 2 ^ off + code % 2 ^ width * 2 ^ off
  if n ≤ 2 then (List.range n).foldl (fun (s : State) k => s.store (l.plus k) 1 (bitsAt new (8 * k) 8)) s
  else s.store l n new

/-! ## Task deques (R135, R136) -/

/-- TOP and BOTTOM of a deque, and its count (R135). -/
def State.dequeEnds (s : State) (l : Loc) : Nat × Nat × Nat :=
  let top := s.mem.readAt l 2
  let bottom := s.mem.readAt (l.plus 2) 2
  (top, bottom, (bottom + 2 ^ 16 - top) % 2 ^ 16)

/-- The place of the entry of an index (R135). -/
def entryAt (l : Loc) (i : Nat) : Loc := l.plus (16 * (1 + i % 63))

/-- The two doublewords of an entry: the arm's PC and its frame; none where one has an uncorrectable error (R217). -/
def State.dequeEntry (s : State) (l : Loc) (i : Nat) : Option (Word × Word) :=
  if s.mem.bad (entryAt l i) || s.mem.bad ((entryAt l i).plus 8) then none
  else some (BitVec.ofNat 64 (s.mem.readAt (entryAt l i) 8), BitVec.ofNat 64 (s.mem.readAt ((entryAt l i).plus 8) 8))

/-- A push (R136); whether it found room. -/
def State.dequePush (s : State) (l : Loc) (pc frame : Word) : Bool × State :=
  let (_, bottom, count) := s.dequeEnds l
  if 63 ≤ count then (false, s)
  else (true, (s.storeWords (entryAt l bottom) [pc, frame]).store (l.plus 2) 2 ((bottom + 1) % 2 ^ 16))

/-- What a pop or a steal finds: nothing, an entry that cannot be read, or a task (R136, R217). -/
inductive Taken where
  | nothing
  | lost
  | task (pc frame : Word)
  deriving DecidableEq, Repr

/-- A pop by the owner (R136). -/
def State.dequePop (s : State) (l : Loc) : Taken × State :=
  let (_, bottom, count) := s.dequeEnds l
  let b := (bottom + 2 ^ 16 - 1) % 2 ^ 16
  if count = 0 || 63 < count then (.nothing, s)
  else
    match s.dequeEntry l b with
    | none => (.lost, s)
    | some e => (.task e.1 e.2, s.store (l.plus 2) 2 b)

/-- A steal (R136). -/
def State.dequeSteal (s : State) (l : Loc) : Taken × State :=
  let (top, _, count) := s.dequeEnds l
  if count = 0 || 63 < count then (.nothing, s)
  else
    match s.dequeEntry l top with
    | none => (.lost, s)
    | some e => (.task e.1 e.2, s.store l 2 ((top + 1) % 2 ^ 16))

/-- What a pop or a steal took is delivered: whether there is a task, its arm's PC and its frame (R136, R139). -/
def State.deliverTask (s : State) (a : Acc) (x : Taken) (delay : Nat) : State :=
  match a.fill, x with
  | none, _ => s
  | some f, .nothing => s.deliver f 0 0 none delay
  | some f, .lost => s.deliver f 0 0 (some (a.va, true)) delay
  | some f, .task pc frame => (s.modFill f fun y => { y with vals := [1, pc, frame] }).deliver f 0 1 none delay

/-- A request of a deque. -/
def MemOp.onDeque (op : MemOp) : Bool :=
  match op with
  | .push _ _ | .pop | .steal => true
  | .load _ _ | .loadWord _ | .ldff | .tagr | .vload _ _ _ _ | .store _ _ | .storeWords _ | .ldfe | .stfe _ | .stff _
  | .tagw _ | .amo _ _ _ | .red _ _ _ | .cas _ _ | .cas2 _ _ _ _ | .park _ _ | .claimNest _ _ _ | .vstore _ _ _
  | .wakeSlots _ _ _ | .setvat _ _ => false

/-- A request of a deque comes before another of the same one: it has reached the bank before it, or in the same cycle as the
owner's pop (R136). -/
def Acc.dequeBefore (b a : Acc) : Bool :=
  a.op.onDeque && b.op.onDeque && a.loc = b.loc && a.id ≠ b.id &&
    (b.came < a.came || (b.came = a.came && b.op == .pop && a.op != .pop))

/-- An access that was held goes before one of a page in common that reached the bank after it (R70, R349). -/
def Acc.heldBefore (b a : Acc) : Bool :=
  b.came < b.due && b.came < a.came && b.part = a.part && b.pages.any fun p => a.pages.contains p

/-- The DATAERR event of a write that cannot read its word (R217, R321). -/
def State.dataErrEvent (s : State) (a : Acc) : State :=
  let gang := match s.thread a.uid with
    | some t => t.ident.gangid
    | none => 0
  s.fault a.part ⟨0x0A, 0, 0, [gang, a.pc, a.va]⟩

/-- The LABEL event of a posted write whose label is not within the page's (R255). -/
def State.labelEvent (s : State) (a : Acc) (page : Label) : State :=
  let (gang, lt) := match s.thread a.uid with
    | some t => (t.ident.gangid, t.ident.lthread)
    | none => (0, 0)
  s.fault a.part ⟨0x08, 0, lt, [gang, a.pc, a.va, BitVec.ofNat 64 (a.label.toNat + page.toNat * 2 ^ 32)]⟩

/-- A correctable error of a Pan-store word that is read is corrected, and counted for a partition and a gang; one that is
overwritten whole is only gone (R217, R413). -/
def State.correctWord (s : State) (part gang : Nat) (reads : Bool) (l : Loc) : State :=
  match l with
  | .hbm _ => s
  | .pan n pa =>
    let k := panKey n (pa / 8 * 8)
    if !s.mem.softWords.contains k then s
    else
      let s := { s with mem := { s.mem with softWords := setDrop s.mem.softWords k } }
      if reads then s.count part gang 7 1 else s

/-- The words that an access reads or overwrites where it is performed: of a deque, TOP's and those of the entry (R136). -/
def State.wordsRead (s : State) (a : Acc) : List Loc :=
  let entry (i : Nat) : List Loc := [(entryAt a.loc i).word, ((entryAt a.loc i).plus 8).word]
  let (top, bottom, _) := s.dequeEnds a.loc
  match a.op with
  | .push _ _ => [a.loc.word]
  | .pop => a.loc.word :: entry ((bottom + 2 ^ 16 - 1) % 2 ^ 16)
  | .steal => a.loc.word :: entry top
  | _ => a.words.eraseDups

/-- The correctable errors of the words that an access reads are corrected and counted (R217, R413). -/
def State.correct (s : State) (a : Acc) : State :=
  let reads : Bool := match a.op with
    | .store 8 _ | .stff _ | .storeWords _ => false
    | _ => true
  if s.mem.softWords.isEmpty then s
  else (s.wordsRead a).foldl (fun (s : State) l => s.correctWord a.part (s.gangOf a.uid) reads l) s

/-- A partition's way mask, which a page with NOALLOC does not use (R238). -/
def State.waysOf (s : State) (part : Nat) (noalloc : Bool) : Nat :=
  if noalloc then 0
  else match s.part? part with
    | some x => x.own.waymask
    | none => 0

/-- The way mask of an access. -/
def State.wayMask (s : State) (a : Acc) : Nat := s.waysOf a.part a.noalloc

/-- The way that a line's fill would take holds a line that a sweep of its slice has still to write back (R412). -/
def State.unswept (s : State) (line mask : Nat) : Bool :=
  match s.mem.line? line, s.mem.wayFor line mask, s.dev.resize with
  | none, some (w, some o), some r => r.sweeps.any fun x =>
      x.1 = o.slice && (x.2 % 2 ^ 16).testBit w && x.2 / 2 ^ 16 ≤ 256 * onesBelow w (x.2 % 2 ^ 16) + l2Set o.line
  | _, _, _ => false

/-- The cycles that a sector which a unit, a walk or a fetch reads or writes waits until it may be brought in: none where the L2
holds it; else for the channel, and for a sweep that has the line of its way still to write back (R409, R412). -/
def State.fillWait (s : State) (part pa : Nat) (noalloc : Bool) : Nat :=
  if s.mem.cached pa then 0
  else max (s.channelWait (channelOf pa) part) (if s.unswept (pa / 256) (s.waysOf part noalloc) then 4 else 0)

/-- A line makes way for another: its dirty sectors are written to HBM, and counted for the partition that owns them (R239,
R409). -/
def State.countVictim (s : State) (line mask : Nat) : State :=
  match s.mem.line? line, s.mem.wayFor line mask with
  | none, some (_, some o) =>
    if o.dirty = 0 then s
    else s.countSectors (lineSlice o.line) (s.frameOwner (o.line * 256 / 8192)).owner 0 (onesBelow 8 o.dirty)
  | _, _ => s

/-- Sectors of a line are filled for a partition (R238, R239). -/
def State.install (s : State) (line sectors mask : Nat) : State :=
  let (n, s) := (s.countVictim line mask).fresh
  { s with mem := s.mem.install line sectors mask n }

/-- The sectors that a burst of words covers whole become valid and dirty before it is written (R239). -/
def State.claimSectors (s : State) (a : Acc) (n : Nat) : State :=
  match a.loc with
  | .pan _ _ => s
  | .hbm pa =>
    ((List.range (n / 4 + 1)).map (fun k => pa / 32 + k)).foldl (fun (s : State) x =>
      if pa ≤ 32 * x && 32 * x + 32 ≤ pa + 8 * n then
        let (n, s) := (s.countVictim (x / 8) (s.wayMask a)).fresh
        { s with mem := s.mem.claimSector x (s.wayMask a) n }
      else s) s

/-- The bytes that an access touches at a slice, by their places. -/
def Acc.bytesAt (a : Acc) (pa : Nat) : List Nat :=
  let run (n : Nat) : List Nat := (List.range n).map fun k => pa + k
  match a.op with
  | .load n _ | .store n _ => run n
  | .amo _ dbl _ | .red _ dbl _ => run (amoBytes dbl)
  | .cas2 _ _ _ _ => run 16
  | .storeWords vs => run (8 * vs.length)
  | .vload _ _ _ places => places.map Prod.snd
  | .vstore width bit _ => run ((bit + width + 7) / 8)
  | .loadWord _ | .ldff | .tagr | .ldfe | .stfe _ | .stff _ | .tagw _ | .cas _ _ | .park _ _ | .claimNest _ _ _ | .push _ _
  | .pop | .steal => run 8
  | .wakeSlots _ _ _ | .setvat _ _ => []

/-- The sectors that must be valid, or have been read, before an access is performed: those that it touches and does not write
whole (R239). -/
def Acc.sectors (a : Acc) (pa : Nat) : List Nat :=
  let bs := a.bytesAt pa
  let whole (x : Nat) : Bool := match a.op with
    | .storeWords vs => pa ≤ 32 * x && 32 * x + 32 ≤ pa + 8 * vs.length
    | _ => false
  ((bs.map fun b => b / 32).eraseDups).filter fun x => !whole x

/-- The sectors that a write merges at the memory controller: those that the L2 neither holds nor takes in for it (R238, R239). -/
def State.mergedSectors (s : State) (a : Acc) (pa : Nat) : List Nat :=
  let all := ((a.bytesAt pa).map fun b => b / 32).eraseDups
  let taken (x : Nat) : Bool := s.wayMask a ≠ 0 && !(a.sectors pa).contains x
  let reads : Bool := match a.op with
    | .park _ _ => true
    | op => op.readsOnly
  if reads then [] else all.filter fun x => !s.mem.cached (32 * x) && !taken x

/-- A write that is merged at the memory controller moves its sectors (R238, R239, R409). -/
def State.countMerge (s : State) (a : Acc) : State :=
  match a.loc with
  | .pan _ _ => s
  | .hbm pa =>
    match s.mergedSectors a pa with
    | [] => s
    | x :: xs => s.countSectors (channelOf pa) a.part (s.gangOf a.uid) (x :: xs).length

/-- A wake, which is performed at its slots (R329). -/
def MemOp.isWake (op : MemOp) : Bool :=
  match op with
  | .wakeSlots _ _ _ => true
  | .push _ _ | .pop | .steal | .load _ _ | .loadWord _ | .ldff | .tagr | .vload _ _ _ _ | .store _ _ | .storeWords _ | .ldfe
  | .stfe _ | .stff _ | .tagw _ | .amo _ _ _ | .red _ _ _ | .cas _ _ | .cas2 _ _ _ _ | .park _ _ | .claimNest _ _ _
  | .vstore _ _ _ | .setvat _ _ => false

/-- A write that is about to be performed counts as applied, so that what it ends or wakes takes it in (R326, R343). -/
def State.markNow (s : State) (a : Acc) : State := if a.op.isWake then s else s.markApplied a

/-- Performs an access in one step where it lies. `d` is the time from now to the fill of a load (R213, R241). A posted
write is checked against the page's label at this moment (R255). -/
def State.perform (s : State) (a : Acc) (d : Nat) : State :=
  let s := ((s.correct a).countMerge a).markNow a
  let a := { a with cross := a.cross && a.op.isWake }
  let bad := s.mem.bad a.loc
  let atomicDelay := if d = 8 ∨ d = 5 ∨ d = 3 then d + 1 else d + 2
  let give (s : State) (i : Nat) (v : Word) (delay : Nat) : State :=
    match a.fill with
    | some f => if bad then s.deliver f i 0 (some (a.va, true)) delay else s.deliver f i v none delay
    | none => s
  let page := if a.posted then s.pageLabelNow a.part a.va a.loc a.plabel else a.plabel
  if a.posted && !labelLe a.label page then (s.labelEvent a page).finishAcc a
  else
    match a.op with
    | .load n sx =>
      let v := s.mem.readAt a.loc n
      (give (s.readJoins a) 0 (if sx then wordOfInt (signedNat (8 * n) v) else BitVec.ofNat 64 v) d).finishAcc a
    | .loadWord i => (give (s.readJoins a) i (BitVec.ofNat 64 (s.mem.readAt a.loc 8)) d).finishAcc a
    | .store n v =>
      if bad && (n < 8 || a.loc.isHbm) then (s.dataErrEvent a).finishAcc a else (s.store a.loc n v.toNat).finishAcc a
    | .storeWords vs =>
      let lost := s.lostWords a.loc vs.length
      let s := s.claimSectors a vs.length
      let s := s.storeGood a.loc vs lost
      (if lost.isEmpty then s else s.dataErrEvent a).finishAcc a
    | .ldfe | .ldff | .stfe _ =>
      match a.loc with
      | .hbm _ => s.finishAcc a
      | .pan n pa =>
        if bad || a.op.tagReady (s.mem.tagFull n pa) then
          let s := (s.syncDone a).finishAcc a
          if bad || a.op == .ldff then s else s.tagChanged a.loc
        else
          match s.waitPlace a.part a.loc with
          | some table =>
            let s := s.modAcc a.id fun a => { a with state := .listed }
            let s := s.modThread a.uid fun t => { t with run := if t.run.stopped then t.run else .waiting }
            { s with fab := { s.fab with waiters := s.fab.waiters ++ [⟨a.id, a.part, a.loc.word, table, false, s.time.cycle⟩] } }
          | none =>
            let regs := match a.fill.bind s.fill? with
              | some f => f.regs
              | none => []
            let s := match a.fill with
              | some f => s.dropFill f
              | none => s
            (s.modThread a.uid fun t =>
              { regs.foldl (fun t r => t.setReg r { t.reg r with full := true }) t with run := if t.run.stopped then t.run else .ready, prog := .fresh }).dropAcc a.id
    | .stff _ => ((s.performTag a).finishAcc a).tagChanged a.loc
    | .tagr => if bad then (give s 0 0 d).finishAcc a else (s.performTag a).finishAcc a
    | .tagw _ =>
      if bad then (s.dataErrEvent a).finishAcc a else ((s.performTag a).finishAcc a).tagChanged a.loc
    | .amo fn dbl x =>
      if bad then (give s 0 0 atomicDelay).finishAcc a
      else
        let n := amoBytes dbl
        let old := s.mem.readAt a.loc n
        (give ((s.readJoins a).store a.loc n (amoOp fn dbl old x.toNat)) 0 (amoExtend fn dbl old) atomicDelay).finishAcc a
    | .red fn dbl x =>
      if bad then (s.dataErrEvent a).finishAcc a
      else
        let n := amoBytes dbl
        (s.store a.loc n (amoOp fn dbl (s.mem.readAt a.loc n) x.toNat)).finishAcc a
    | .cas exp new =>
      if bad then (give s 0 0 atomicDelay).finishAcc a
      else
        let old : Word := BitVec.ofNat 64 (s.mem.readAt a.loc 8)
        let s := s.readJoins a
        (give (if old = exp then s.store a.loc 8 new.toNat else s) 0 old atomicDelay).finishAcc a
    | .cas2 e0 e1 n0 n1 =>
      let bad2 := s.mem.bad (a.loc.plus 8)
      if bad || bad2 then
        match a.fill with
        | some f =>
          let err (b : Bool) (va : Word) : Option (Word × Bool) := if b then some (va, true) else none
          ((s.deliver f 0 0 (err bad a.va) atomicDelay).deliver f 1 0 (err bad2 (a.va + 8)) atomicDelay).finishAcc a
        | none => s.finishAcc a
      else
        let o0 : Word := BitVec.ofNat 64 (s.mem.readAt a.loc 8)
        let o1 : Word := BitVec.ofNat 64 (s.mem.readAt (a.loc.plus 8) 8)
        let s := s.readJoins a
        let s := if o0 = e0 ∧ o1 = e1 then s.storeWords a.loc [n0, n1] else s
        (give (give s 0 o0 atomicDelay) 1 o1 atomicDelay).finishAcc a
    | .park expect timeout =>
      let v : Word := BitVec.ofNat 64 (s.mem.readAt a.loc 8)
      if bad ∨ v ≠ expect then (give (s.readJoins a) 0 stOk atomicDelay).finishAcc a
      else
        match s.waitPlace a.part a.loc with
        | none => (give s 0 stBusy atomicDelay).finishAcc a
        | some table =>
          let c := s.time.cycle
          let s := s.modAcc a.id fun a => { a with state := .listed }
          let s := s.modThread a.uid fun t => { t with run := if t.run.stopped then t.run else .parked, stamp := a.id }
          let s := { s with fab := { s.fab with waiters := s.fab.waiters ++ [⟨a.id, a.part, a.loc.word, table, true, c⟩] } }
          if timeout = 0 then s else s.schedule (c + timeout) (.parkTimeout a.uid a.id)
    | .claimNest total divisor chunk =>
      let cur := s.mem.readAt a.loc 8
      let left := total - cur
      let n := if total ≤ cur then 0 else min (max chunk ((left + divisor - 1) / divisor)) left
      let s := s.readJoins a
      let s := if n = 0 || bad then s else s.store a.loc 8 (cur + n)
      match a.fill with
      | some f =>
        if bad then ((s.deliver f 0 0 (some (a.va, true)) atomicDelay).deliver f 1 0 none atomicDelay).finishAcc a
        else ((s.deliver f 0 (BitVec.ofNat 64 cur) none atomicDelay).deliver f 1 (BitVec.ofNat 64 n) none atomicDelay).finishAcc a
      | none => s.finishAcc a
    | .push pc frame =>
      if bad then (give s 0 0 atomicDelay).finishAcc a
      else
        let x := s.dequePush a.loc pc frame
        (give x.2 0 (boolWord x.1) atomicDelay).finishAcc a
    | .pop =>
      let x := if bad then (.lost, s) else (s.readJoins a).dequePop a.loc
      (x.2.deliverTask a x.1 atomicDelay).finishAcc a
    | .steal =>
      let x := if bad then (.lost, s) else (s.readJoins a).dequeSteal a.loc
      (x.2.deliverTask a x.1 atomicDelay).finishAcc a
    | .vload i fmt bit places =>
      let s := s.readJoins a
      let locs := places.map fun x => a.loc.at x.2
      let lost := locs.any s.mem.bad
      match a.fill with
      | none => s.finishAcc a
      | some f =>
        let v : BitVec 32 := if lost then 0 else vecDecode fmt (s.mem.element fmt bit locs)
        let s := s.modFill f fun f => { f with velems := f.velems.set i v }
        (s.deliver f 0 0 (if lost then some (a.va, true) else none) d).finishAcc a
    | .vstore width bit code =>
      if a.words.any s.mem.bad then (s.dataErrEvent a).finishAcc a else (s.storeElement a.loc bit width code).finishAcc a
    | .wakeSlots _ _ _ => s.push (.postedWakeArrival a.id)
    | .setvat vat v =>
      match a.loc with
      | .hbm _ => s.finishAcc a
      | .pan n _ => (give (s.writeVat n vat v) 0 0 d).finishAcc a

/-! ## Banks (R208 to R211) -/

/-- The first member of a round-robin of n members, at or after a pointer, that satisfies a test. -/
def roundRobin (n pointer : Nat) (p : Nat → Bool) : Option Nat :=
  ((List.range n).map fun k => (pointer + k) % n).find? p

/-- The state of a round-robin point kept under a key; 0 at first. -/
def rrGet (l : List (Nat × Nat)) (k : Nat) : Nat := ((l.find? fun x => x.1 = k).map Prod.snd).getD 0
/-- Sets the state of a round-robin point. -/
def rrSet (l : List (Nat × Nat)) (k v : Nat) : List (Nat × Nat) := (k, v) :: l.filter fun x => x.1 ≠ k

/-- The request that an input presents: the oldest for an input of one source; for a lane, that of the trellis and then
of the source whose turn it is (R209 to R211). -/
def presented (b : Bank) (cands : List Acc) (input : Nat) : Option Acc :=
  let mine := cands.filter fun a => a.input = input
  if input < 16 then mine.head?
  else
    match roundRobin 128 (rrGet b.lanes input) fun t => mine.any fun a => a.trellis = t with
    | none => none
    | some t =>
      match roundRobin 16 (rrGet b.uplinks t) fun k => mine.any fun a => a.trellis = t && a.source = k with
      | none => none
      | some k => mine.find? fun a => a.trellis = t && a.source = k

/-- The bank's round-robin state after a grant to a request (R210, R211). -/
def Bank.granted (b : Bank) (a : Acc) : Bank :=
  let b := { b with queue := b.queue.filter fun x => x ≠ a.id }
  if a.input < 16 then b
  else { b with lanes := rrSet b.lanes a.input ((a.trellis + 1) % 128)
                uplinks := rrSet b.uplinks a.trellis ((a.source + 1) % 16) }

/-- A read that may combine with others of its word: one that changes nothing, an `ldff` only where it finds the tag full
(R208). -/
def State.plainRead (s : State) (a : Acc) : Bool :=
  a.op.readsOnly && (a.op != .ldff || (match a.loc with
    | .pan n pa => s.mem.tagFull n pa
    | .hbm _ => true))

/-- The further inputs whose reads combine with a granted read of a word: those in circular order that no write of the
word precedes (R208). -/
def State.combined (s : State) (b : Bank) (cands : List Acc) (a : Acc) : List Acc :=
  let order := (List.range 39).map fun k => (a.input + 1 + k) % 40
  let same (x : Acc) : Bool := x.loc.word == a.loc.word
  (order.foldl (fun (acc : List Acc × Bool) i =>
    if acc.2 then acc
    else match presented b cands i with
      | some x => if !same x then acc else if s.plainRead x then (acc.1 ++ [x], false) else (acc.1, true)
      | none => acc) ([], false)).1

/-- Sends an access to its bank, which it reaches at its due cycle. -/
def State.enqueue (s : State) (a : Acc) : State :=
  match a.loc with
  | .hbm _ => s
  | .pan n pa =>
    let b := s.bank n (bankOf pa)
    let s := s.modAcc a.id fun x => { x with state := .queued, due := a.due, came := a.due }
    (s.setBank { b with queue := b.queue ++ [a.id] }).scheduleOnce a.due (.bankArbitration n (bankOf pa))

/-! ## Slices (R238 to R241, R308) -/

/-- A sector that an access misses: a fill that lists it serves it, an open one of its line takes it in, or a new one opens
(R239). -/
def State.missSector (s : State) (a : Acc) (x : Nat) : State :=
  let line := x / 8
  let bit := x % 8
  let wait (f : L2Fill) : L2Fill := if f.waiting.contains a.id then f else { f with waiting := f.waiting ++ [a.id] }
  let change (s : State) (id : Nat) (g : L2Fill → L2Fill) : State :=
    { s with mem := { s.mem with l2fills := s.mem.l2fills.map fun f => if f.id = id then g f else f } }
  match s.mem.l2fills.find? fun f => f.line = line && f.sectors.testBit bit with
  | some f => change s f.id wait
  | none =>
    match s.mem.l2fills.find? fun f => f.line = line && !f.sent && s.time.cycle + 2 < f.due with
    | some f => change s f.id fun f => { wait f with sectors := f.sectors ||| 2 ^ bit }
    | none =>
      let (n, s) := s.fresh
      let due := s.time.cycle + 18
      { s with mem := { s.mem with l2fills := ⟨n, line, 2 ^ bit, false, a.part, s.wayMask a = 0, [a.id], due⟩ :: s.mem.l2fills } }.schedule
        due (.l2FillBurst n)

/-- Lines have just been used (R238). -/
def State.touchLines (s : State) (sectors : List Nat) : State :=
  ((sectors.map fun x => x / 8).eraseDups).foldl (fun (s : State) line =>
    let (n, s) := s.fresh
    { s with mem := s.mem.touch line n }) s

/-- An access reaches its slice: held by what blocks it, waiting for the fills of the sectors that it misses, or performed
(R239). A write that merges at the controller waits for the next window where its partition is at its cap (R409). -/
def State.sliceAccess (s : State) (a : Acc) : State :=
  match a.loc with
  | .pan _ _ => s
  | .hbm pa =>
    if s.blocked a then s.holdAcc a
    else
      let need := a.sectors pa
      let miss := need.filter fun x => !s.mem.cached (32 * x)
      if miss.isEmpty then
        if !(s.mergedSectors a pa).isEmpty && s.capped (channelOf pa) a.part then
          s.schedule (s.ctrl.since + 1400) (.proxiedAccess a.id)
        else (s.touchLines need).perform a 12
      else miss.foldl (fun (s : State) x => s.missSector a x) (s.modAcc a.id fun a => { a with state := .filling })

/-- An access reaches its bank or slice. -/
def State.present (s : State) (a : Acc) : State :=
  match a.loc with
  | .pan _ _ => s.enqueue { a with due := max a.due s.time.cycle }
  | .hbm _ => s.sliceAccess a

end Sys2Proof.Machine
end

