-- ==== Sys2Proof/Machine/Send.lean ====
section
/-! DEFINITION. How an instruction makes a memory access: locally, by migration, by proxy, or as a posted write (R219,
R220, R244 to R256, R450). -/

namespace Sys2Proof.Machine

open Sys2Proof

/-! ## Translation at a hub (R235, R236) -/

/-- The places of the table entries that a walk reads, from a table at a level (R232, R235). -/
def State.walkPath (s : State) (va : Nat) : Nat → Nat → Nat → List Nat
  | 0, _, _ => []
  | fuel + 1, table, level =>
    let at_ := table + 16 * walkIndex level va
    let d0 := s.mem.gread at_ 8
    if !bitAt d0 0 || bitAt d0 1 || s.mem.bad (.hbm at_) || level = 4 then [at_]
    else at_ :: s.walkPath va fuel (bitsAt d0 13 31 * 8192) (level + 1)

/-- The places that the walk of a partition's address reads. -/
def State.walkReads (s : State) (p va : Nat) : List Nat :=
  match s.root p with
  | some r => s.walkPath va 5 r 0
  | none => []

/-- A global place is in the L2 before a unit reads or writes it, as an access of a thread brings it there, and its line has just
been used (R238, R239); a sector moved is counted for the partition and the gang (R409, R413). -/
def State.fillSector (s : State) (part gang pa : Nat) (noalloc : Bool) : State :=
  if s.mem.cached pa then s.touchLines [pa / 32]
  else (s.countMissing part gang (pa / 256) (2 ^ sectorOf pa)).install (pa / 256) (2 ^ sectorOf pa) (s.waysOf part noalloc)

/-- The table entries that a walk read allocate in the partition's ways (R236, R238). -/
def State.walkInstall (s : State) (p gang va : Nat) : State :=
  (s.walkReads p va).foldl (fun (s : State) pa => s.fillSector p gang pa false) s

/-- Translates at a hub: by its cache, else by a walk whose leaf it keeps and whose table entries allocate in the partition's
ways (R235, R236). The management core's addresses are kept nowhere. -/
def State.translate (s : State) (hub p gang : Nat) (va : Word) (k : AccKind) (task : Bool) :
    Except TransFault (Nat × CachedLeaf) × State :=
  match s.hubLeaf hub p va.toNat with
  | some l => (leafCheck l false va.toNat k task, s)
  | none =>
    let w := s.walkInstall p gang va.toNat
    match s.walkLeaf p va.toNat with
    | .error e => (.error e, w)
    | .ok (l, bad) =>
      let w' := if bad || p = devicePart then w else
        { w with trans := { w.trans with hubs := cachePut w.trans.hubs hub 16384 w.time.draws l }
                 time := { w.time with draws := w.time.draws + 1 } }
      (leafCheck l bad va.toNat k task, w')

/-! ## Where an access goes (R244) -/

/-- A place of memory that an access has been checked for: the place, its page label as a write checks it and as a read
joins it, and NOALLOC. -/
structure Target where
  loc     : Loc
  label   : Label
  rlabel  : Label
  noalloc : Bool
  deriving DecidableEq, Repr

/-- Where an access of the thread at its turn goes. -/
inductive Route where
  | here (x : Target)                  -- performed from where the thread is
  | there (core : Nat) (x : Target)    -- remote, at this core or the trellis of this core
  | unknown                            -- remote and global, not yet translated (a compute core)
  deriving DecidableEq, Repr

/-- A device-mode thread reaches an address of device space, which is open to no other mode (R231). -/
def State.deviceAccess (s : State) (va : Word) : Bool := s.t.isDevice && s.vaClass va == .device

/-- Routes an access (R231, R244): the checks of R207 are made at the core, those of R235 where the thread translates. -/
def State.route (s : State) (va : Word) (r w : Bool) : Except TransFault Route × State :=
  match s.vaClass va with
  | .none => (.error (.prot, 0), s)
  | .device => (.error (.prot, 0), s)
  | .pan n off =>
    match s.window s.t.ident.part n off r w with
    | .error e => (.error e, s)
    | .ok (pa, l) =>
      let x : Target := ⟨.pan n pa, l, l, false⟩
      (.ok (if isCompute s.t.core && corePan s.t.core = n then .here x else .there (1024 * n + 8 * (pa / 2 ^ 18)) x), s)
  | .global =>
    if isCompute s.t.core then (.ok .unknown, s)
    else
      match s.translate (coreDie s.t.core - 8) s.t.ident.part s.t.ident.gang va ⟨r, w, false⟩ s.t.isTask with
      | (.error e, s) => (.error e, s)
      | (.ok (pa, l), s) =>
        let x : Target := ⟨.hbm pa, l.label, s.readLabel l, l.noalloc⟩
        (.ok (if homeCore pa = s.t.core then .here x else .there (homeCore pa) x), s)

/-- The page of an access, for a posted or proxied access that translates at the hub of its address (R236). -/
def State.target (s : State) (va : Word) (r w : Bool) : Except TransFault Target × State :=
  match s.route va r w with
  | (.error e, s) => (.error e, s)
  | (.ok (.here x), s) => (.ok x, s)
  | (.ok (.there _ x), s) => (.ok x, s)
  | (.ok .unknown, s) =>
    match s.translate (hubOf va.toNat) s.t.ident.part s.t.ident.gang va ⟨r, w, false⟩ s.t.isTask with
    | (.error e, s) => (.error e, s)
    | (.ok (pa, l), s) => (.ok ⟨.hbm pa, l.label, s.readLabel l, l.noalloc⟩, s)

/-! ## Sending -/

/-- The legs of the route between two places (R247, R450). An access to a global address from a compute core goes by
the hub that translates it. -/
def routeLegs (fromCore toCore va : Nat) : Nat :=
  if isCompute fromCore && isChannel toCore then (if hubOf va = coreDie toCore - 8 then 1 else 3)
  else relayLegs fromCore toCore + 1

/-- The core that stands for a place, for the route to it. -/
def Loc.core (l : Loc) : Nat :=
  match l with
  | .pan n pa => 1024 * n + 8 * (pa / 2 ^ 18)
  | .hbm pa => homeCore pa

/-- How an access is sent. -/
inductive Way where
  | direct | posted | proxied
  deriving DecidableEq, Repr

/-- The class, bank input, and cycles to the bank of an access of a core, or of its trellis's vector pool, to a cellar of
its own Pan (R209, R213). `unit` is the input of its wide port, or below 8 the core's own. -/
def panClass (core unit pa : Nat) : Nat × Nat × Nat :=
  let t := coreTrellis core
  let c := pa / 2 ^ 18
  if t = c then (0, min unit 8, 1)
  else if t / 32 = c / 32 then (1, 16 + t % 32 / 2, 4)
  else (2, 32 + t % 8, 6)

/-- The cycles by which a word of a burst that begins at a place is presented after the others: one when it lies beyond a row wrap
(R215). -/
def rowWrap (l : Loc) (off : Nat) : Nat :=
  match l with
  | .pan _ pa => if 32 ≤ pa / 8 % 32 + off / 8 then 1 else 0
  | .hbm _ => 0

/-- Sends one access of the thread at its turn, some cycles later than it could, from a source of its trellis's uplink: its core,
or 8 to 11 for a port of the vector pool (R209, R215). `n` bytes travel with it (R450). -/
def State.sendAfter (s : State) (later source : Nat) (op : MemOp) (x : Target) (va : Word) (label : Label) (way : Way)
    (ordered : Bool) (fill : Option Nat) (n : Nat) : Nat × State :=
  let (id, s) := s.fresh
  let c := s.time.cycle
  let t := s.t
  let src := coreDie t.core
  let cross := way == .posted && x.loc.die != src
  let (num, pair, s) := if cross then s.sendCross src x.loc.die else (0, 0, s)
  let clock := if cross then t.ctl.vclock.set src num else t.ctl.vclock
  let s := if cross then { s with t := { s.t with ctl := { s.t.ctl with vclock := clock } } } else s
  let legs := routeLegs t.core x.loc.core va.toNat
  let (klass, input, wait) := match way, x.loc with
    | .direct, .pan _ pa => panClass t.core source pa
    | .direct, .hbm _ => (3, 0, 0)
    | _, .pan _ _ => (0, 11, 0)
    | _, .hbm _ => (3, 0, 0)
  let back := match way with
    | .direct => 0
    | .posted => legs * leg 1
    | .proxied => legs * leg (1 + (n + 31) / 32)
  let out := legs * leg (1 + (n + 31) / 32)
  let a : Acc :=
    { id := id, uid := t.ident.uid, part := t.ident.part, op := op, loc := x.loc, va := va, pc := t.pc, label := label
      plabel := x.label, posted := way == .posted, ordered := ordered, clock := clock, srcDie := src, num := num
      pair := pair, cross := cross, input := input, trellis := coreTrellis t.core, source := source, klass := klass
      legs := back, asked := c, due := c + wait + later, fill := fill, noalloc := x.noalloc, kept := false, came := 0, port := none
      state := .sent }
  let s := { s with fab := { s.fab with accs := s.fab.accs ++ [a] } }
  (id, match way with
    | .direct => s.present a
    | .posted => s.schedule (c + out) (.postedWriteArrival id)
    | .proxied => s.schedule (c + out + later) (.proxiedAccess id))

/-- Sends one access of the thread at its turn from a source of its trellis's uplink (R209). -/
def State.sendFrom (s : State) (source : Nat) (op : MemOp) (x : Target) (va : Word) (label : Label) (way : Way)
    (ordered : Bool) (fill : Option Nat) (n : Nat) : Nat × State :=
  s.sendAfter 0 source op x va label way ordered fill n

/-- Sends one access of the thread at its turn from its core's port. -/
def State.send (s : State) (op : MemOp) (x : Target) (va : Word) (label : Label) (way : Way) (ordered : Bool)
    (fill : Option Nat) (n : Nat) : Nat × State :=
  s.sendFrom (s.t.core % 8) op x va label way ordered fill n

/-- A new result for which the thread at its turn is out of rotation: its registers stay as they are until it arrives (R73). -/
def State.newHeldFill (s : State) (regs : List Reg) (parts : Nat) (label join : Label) (kind : FillKind)
    (resume advance : Bool) : Nat × State :=
  let (id, s) := s.fresh
  let f : Fill :=
    { id := id, uid := s.t.ident.uid, regs := regs, vals := List.replicate (max parts regs.length) 0, parts := parts
      label := label, join := join, kind := kind, resume := resume, advance := advance, err := none, discard := false
      legs := 0, velems := [] }
  (id, { s with fab := { s.fab with fills := f :: s.fab.fills } })

/-- A new outstanding result of the thread at its turn: its registers become empty (R73). -/
def State.newFill (s : State) (regs : List Reg) (parts : Nat) (label join : Label) (kind : FillKind)
    (resume advance : Bool) : Nat × State :=
  { s with t := regs.foldl Thread.markEmpty s.t }.newHeldFill regs parts label join kind resume advance

/-- The reply of a proxied access travels back over the legs of its route: its fill waits for them (R252, R450). -/
def State.proxyLegs (s : State) (way : Way) (fid acc : Nat) : State :=
  match way, s.acc? acc with
  | .proxied, some a => s.modFill fid fun f => { f with legs := a.legs }
  | _, _ => s

/-- Departs for a core because of the address in a register, whose label joins CLABEL (R250). -/
def State.departFor (s : State) (core : Nat) (reads : List Reg) (join : Label) (legs : Nat) : State :=
  if s.departWaits reads then s.idle else (s.joinClabel join).depart core reads false (legs - 1) 0

/-- A request to a hub for a translation, which reaches it after one leg of f flits (R236, R450). -/
def State.askHub (s : State) (va : Word) (kind f : Nat) (dest : TransFor) : Nat × State :=
  let (id, s) := s.fresh
  let r : TransReq := ⟨id, hubOf va.toNat, s.t.ident.part, va, kind, s.t.isTask, dest, false, false, none⟩
  (id, { s with trans := { s.trans with reqs := s.trans.reqs ++ [r] } }.schedule (s.time.cycle + leg f)
    (.translationRequest id))

/-- Removes a translation request. -/
def State.dropReq (s : State) (id : Nat) : State :=
  { s with trans := { s.trans with reqs := s.trans.reqs.filter fun q => q.id ≠ id } }

/-- The code of an access kind in a translation request: 0 read, 1 write, 2 fetch, 3 read and write. -/
def kindCode (r w : Bool) : Nat := if r && w then 3 else if w then 1 else 0

/-- Departs for the home of a global address that a hub translates on the way (R247). -/
def State.departGlobal (s : State) (va : Word) (r w : Bool) (reads : List Reg) (join : Label) (hop : Bool) : State :=
  if s.departWaits reads then s.idle
  else
    let s := s.joinClabel join
    let c := s.carried reads
    let f := packetFlits (onesBelow 32 c.toNat) (s.t.pending.filter fun a => a.kind != .timer).length
    let since := match s.t.transit with
      | some x => x.since
      | none => s.time.cycle
    let uid := s.t.ident.uid
    let s := { s with
      t := { s.t with run := .transit, transit := some ⟨0, since, c, hop, false, leg f, labelsOf s.t reads ||| s.t.patched,
        some (va, kindCode r w)⟩ }
      time := { s.time with turn := .migrate }
      fab := { s.fab with fills := s.fab.fills.map fun (x : Fill) => if x.uid = uid && !x.isVector then { x with discard := true } else x } }
    ((s.askHub va (kindCode r w) f (if hop then .hop uid else .migrate uid)).2).schedule (since + 4096) (.migrationFallback uid)

/-- Whether the partition holds a slot where a thread would migrate to (R244). -/
def State.hasSlot (s : State) (core : Nat) : Bool := s.slotMask s.t.ident.part core != 0

/-- A device-mode access to a place of device space where the spec puts no register (R231, R420): it completes, what it writes is
lost, and its results are free values (assumption 12). -/
def State.deviceAnswer (s : State) (dests reads : List Reg) (len : Nat) : State :=
  (dests.foldl (fun (s : State) r => let (v, s) := s.free; s.write r v (s.resultLabel reads)) s).retire len

/-- A returning access of the thread at its turn: performed here, or after a migration, or by proxy where the partition
has no slot there or the migration fell back (R244, R252). `dests` are the registers of its results. -/
def State.returning (s : State) (va : Word) (r w : Bool) (dests reads : List Reg) (join : Label)
    (k : State → Target → Way → Result) : Result :=
  if s.deviceAccess va then .next (s.deviceAnswer dests reads 4)
  else match s.route va r w with
  | (.error (c, info), s) => .next (s.fail c va info reads 0)
  | (.ok (.here x), s) => k s x .direct
  | (.ok (.there core x), s) =>
    if s.t.proxy || !s.hasSlot core then k s x .proxied
    else .next (s.departFor core reads join (routeLegs s.t.core core va.toNat))
  | (.ok .unknown, s) =>
    if s.t.proxy || !s.hasSlot 8192 then
      match s.target va r w with
      | (.error (c, info), s) => .next (s.fail c va info reads 0)
      | (.ok x, s) => k s x .proxied
    else .next (s.departGlobal va r w reads join false)

/-- The release wait of R219 and R316: the slot idles until the thread's earlier work has been performed. -/
def State.releaseWait (s : State) (on : Bool) (k : State → Result) : Result :=
  if on && !s.drained then .next s.idle else k s

/-- The release wait of an engine command, which a load that halted commands hold does not keep from resuming them (R262, R296, R440;
assumption 104). -/
def State.commandWait (s : State) (k : State → Result) : Result :=
  if (s.unperformed s.t.ident.uid).all s.haltHeld && (s.unacked s.t.ident.uid).isEmpty then k s else .next s.idle

/-- Whether an ordering holds later accesses back, and whether it waits for earlier ones (R219). -/
def ordAcquires (o : MemOrder) : Bool := o == .acquire || o == .sequential
def ordReleases (o : MemOrder) : Bool := o == .release || o == .sequential

/-- A thread whose reply is awaited leaves rotation; otherwise it goes on. The PC has moved past the instruction. -/
def State.goOn (s : State) (hold : Bool) (len : Nat) : State :=
  let s := s.retire len
  if hold then { s with t := { s.t with run := .reply } } else s

/-- A thread that waits at its instruction until a result arrives (R223, R324). -/
def State.waitHere (s : State) : State := s.leave .reply .fresh

/-- A cross-die write leaves only after the thread's earlier accesses on its own die have been performed (R343). -/
def State.crossWaits (s : State) (x : Target) : Bool :=
  let d := coreDie s.t.core
  x.loc.die != d && (s.unperformed s.t.ident.uid).any fun a => a.loc.die = d

/-- The route of a writing access: a reduction of a global word at another home is translated as a write, one at its own home as a
read and a write (R254, R314). -/
def State.storeRoute (s : State) (va : Word) (r red : Bool) : Except TransFault Route × State :=
  match s.route va (r && !(red && s.vaClass va == .global)) true with
  | (.ok (.here x), s) => if red then s.route va r true else (.ok (.here x), s)
  | y => y

/-- A writing access that returns nothing: checked and sent to its bank when local, posted when remote (R218, R254).
`reads` are its registers, `n` its bytes. A global address is refused where words have tags (R244). -/
def State.storing (s : State) (va : Word) (r : Bool) (reads : List Reg) (op : MemOp) (ord : MemOrder) (ordered : Bool)
    (globalOk : Bool) (n len : Nat) : Result :=
  let l := s.resultLabel reads
  let red := op.isRed
  let finish (s : State) (x : Target) (way : Way) : Result :=
    if red && s.t.ctl.pendred = 16 then .next s.idle
    else s.releaseWait (ordReleases ord) fun s =>
      if way == .posted && s.crossWaits x then .next s.idle
      else
        let (id, s) := s.send op x va l way ordered none n
        let s := { s with t := { s.t with
          acqAcc := if ord == MemOrder.sequential then some id else s.t.acqAcc
          ctl := { s.t.ctl with pendred := s.t.ctl.pendred + (if red then 1 else 0) } } }
        .next (s.retire len)
  if s.deviceAccess va then .next (s.deviceAnswer [] reads len)
  else if !globalOk && s.vaClass va == .global then .next (s.fail .prot va 0 reads 0)
  else
    match s.storeRoute va r red with
    | (.error (c, info), s) => .next (s.fail c va info reads 0)
    | (.ok (.here x), s) => if labelLe l x.label then finish s x .direct else .next (s.fail .label va 0 reads 0)
    | (.ok (.there _ x), s) => finish s x .posted
    | (.ok .unknown, s) =>
      match s.t.prog with
      | .asked id =>
        match s.trans.reqs.find? fun q => q.id = id with
        | some q =>
          match q.answer with
          | some (.leaf pa lf) =>
            let x : Target := ⟨.hbm pa, lf.label, s.readLabel lf, lf.noalloc⟩
            finish (s.dropReq id) x .posted
          | some (.fail c info) => .next ((s.dropReq id).fail (if c = 6 then .page else if c = 7 then .prot else .dataerr) va info reads 0)
          | none => .next (s.hold (.asked id))
        | none => .next (s.hold .fresh)
      | _ =>
        let (id, s) := s.askHub va (kindCode (r && !red) true) 1 (.posted s.t.ident.uid)
        .next (s.leave .reply (.asked id))

/-- A load into one register (R218, R226): in rotation, or held until it is performed; by proxy, until the reply (R252). -/
def State.loading (s : State) (va : Word) (d : Reg) (reads : List Reg) (op : MemOp) (ord : MemOrder) (w join hold : Bool)
    (n : Nat) : Result :=
  s.returning va true w [d] reads (labelsOf s.t (reads.take 1)) fun s x way =>
    if w && !labelLe (s.resultLabel reads) x.label then .next (s.fail .label va 0 reads 0)
    else s.releaseWait (ord == MemOrder.sequential) fun s =>
      let away := way == .proxied
      let (fid, s) := s.newFill [d] 1 (s.resultLabel reads ||| x.rlabel) (if join then x.rlabel else 0) .plain away (hold && away)
      let (id, s) := s.send op x va (s.resultLabel reads) way false (some fid) n
      let s := s.proxyLegs way fid id
      let s := if ordAcquires ord then { s with t := { s.t with acqFill := some fid } } else s
      .next (if hold then s.waitHere else s.goOn away 4)

end Sys2Proof.Machine
end

