-- ==== Sys2Proof/Machine/CodeFetch.lean ====
section
/-! DEFINITION. Code fetch: the instruction caches, the fetch mergers and their block reads (R84 to R87). -/

namespace Sys2Proof.Machine

open Sys2Proof

/-- The line of a core's cache that holds an address for a partition (R85). -/
def State.iline (s : State) (core part va : Nat) : Option ILine :=
  s.fetch.ilines.find? fun l => l.core = core && l.part = part && l.line = va / 32

/-- Installs a line: 128 sets of four ways, the least recently used one replaced (R85). -/
def State.installLine (s : State) (core part line : Nat) (data : List Byte) (deny : Option Word) : State :=
  let rest := s.fetch.ilines.filter fun l => !(l.core = core && l.part = part && l.line = line)
  let inSet := rest.filter fun l => l.core = core && l.line % 128 = line % 128
  let rest :=
    match inSet with
    | [] => rest
    | l :: ls =>
      if inSet.length < 4 then rest
      else rest.erase (ls.foldl (fun (b : ILine) x => if x.used < b.used then x else b) l)
  { s with fetch := { s.fetch with ilines := ⟨core, line, part, data, s.time.cycle, deny⟩ :: rest } }

/-- The lines of a core that hold n bytes at an address have just been used for a partition (R85). -/
def State.touchCode (s : State) (core part va n : Nat) : State :=
  { s with fetch := { s.fetch with ilines := s.fetch.ilines.map fun (l : ILine) =>
      if l.core = core && l.part = part && (l.line = va / 32 || l.line = (va + n - 1) / 32) then { l with used := s.time.cycle }
      else l } }

/-- Where a core's fetches are merged: the trellis of the package of a compute core, or the channel core itself (R87). -/
def fetchPlace (core : Nat) : Nat := if isCompute core then core / 8 else core

/-- A block kept by a merger (R87). -/
def State.keptBlock (s : State) (place block part : Nat) : Option Block :=
  s.fetch.blocks.find? fun b => b.trellis = place && b.block = block && b.part = part

/-- The fault that a fetch of a line meets in a mode: PROT of a page that is not task-accessible comes first (R84). -/
def fetchFails (deny : Option Word) (task : Bool) (other : Option (Nat × Word)) : Option (Nat × Word) :=
  match deny with
  | some info => if task then some (trapNumber .prot, info) else other
  | none => other

/-- A core that asked for a line of a block is served: the line is installed, or its fetch meets a fault (R84). -/
def State.serveLine (s : State) (part core line : Nat) (task : Bool) (data : List Byte) (deny : Option Word)
    (other : Option (Nat × Word)) : State :=
  match fetchFails deny task other with
  | some (code, info) =>
    { s with fetch := { s.fetch with faults := s.fetch.faults ++ [(⟨core, part, task, line, code, info⟩ : FetchFault)] } }
  | none => s.installLine core part line ((data.drop (line % 8 * 32)).take 32) deny

/-- The thread at its turn asks for the line of its core that holds an address: from a kept block, by joining an outstanding
read, or by a new one (R87). -/
def State.startFetch (s : State) (core part va : Nat) (task : Bool) : State :=
  let place := fetchPlace core
  let block := va / 256
  let line := va / 32
  let clock := s.t.ctl.vclock
  let kept := if isCompute core then s.keptBlock place block part else none
  match kept with
  | some b =>
    s.serveLine part core line task b.data b.deny (if b.errs.contains (line % 8) then some (trapNumber .dataerr, 0) else none)
  | none =>
    match s.fetch.reads.find? fun r => r.place = place && r.block = block && r.part = part with
    | some r =>
      if r.wants.contains (core, line, task) then s
      else { s with fetch := { s.fetch with reads := s.fetch.reads.map fun (x : FetchRead) =>
          if x.id = r.id then { x with wants := x.wants ++ [(core, line, task)], clock := joinClock x.clock clock } else x } }
    | none =>
      let (id, s) := s.fresh
      let s := { s with fetch := { s.fetch with
        reads := s.fetch.reads ++ [(⟨id, place, block, part, [(core, line, task)], none, false, none, none, clock, s.t.ident.gang⟩ : FetchRead)] } }
      let (q, s) := s.fresh
      let hub := if isCompute core then hubOf va else coreDie core - 8
      let r : TransReq := ⟨q, hub, part, BitVec.ofNat 64 (block * 256), 2, false, .fetch id, false, false, none⟩
      let wait := if isCompute core then leg 1 else 0
      { s with trans := { s.trans with reqs := s.trans.reqs ++ [r] } }.schedule (s.time.cycle + wait)
        (.translationRequest q)

/-- The cycles from a fetch's translation to the block's arrival (R87): the legs to the home and back, and the slice's
time of R241. -/
def State.fetchTime (s : State) (place hub pa : Nat) : Nat :=
  let hit := (List.range 8).all fun k => s.mem.cached (pa + 32 * k)
  let far := if channelOf pa / 64 = hub then 0 else 2
  let back := if place < 1024 then (far + 1) * leg 9 else if far = 0 then leg 9 else 2 * leg 9
  let out := if place < 1024 then far * leg 1 else if far = 0 then leg 1 else 2 * leg 1
  out + (if hit then 12 else 168) + back

/-- The answer to a fetch's translation: the block's address with its checks (R84), and the time of the read. -/
def State.fetchAnswer (s : State) (id hub : Nat) (a : TransAnswer) : State :=
  match s.fetch.reads.find? fun r => r.id = id with
  | none => s
  | some r =>
    let set (s : State) (f : FetchRead → FetchRead) : State :=
      { s with fetch := { s.fetch with reads := s.fetch.reads.map fun x => if x.id = id then f x else x } }
    let back := if r.place < 1024 then leg 1 else 0
    match a with
    | .fail code info => (set s fun x => { x with failed := some (code, info) }).schedule (s.time.cycle + back) (.fetchLineInstall id)
    | .leaf pa l =>
      let s := set s fun x => { x with deny := if l.task then none else some (walkInfo l.level false false) }
      if !labelLe l.label (partLabel r.part) then
        (set s fun x => { x with failed := some (trapNumber .label, 0) }).schedule (s.time.cycle + back) (.fetchLineInstall id)
      else
        (set s fun x => { x with pa := some (pa / 256 * 256), noalloc := l.noalloc }).schedule
          (s.time.cycle + s.fetchTime r.place hub pa) (.fetchLineInstall id)

/-- Keeps a block at a merger, the last four of a trellis (R87). -/
def State.keepBlock (s : State) (b : Block) : State :=
  let mine := s.fetch.blocks.filter fun x => x.trellis = b.trellis
  let rest := s.fetch.blocks.filter fun x => x.trellis ≠ b.trellis
  { s with fetch := { s.fetch with blocks := (b :: mine).take 4 ++ rest } }

/-- Discards the kept blocks of a merger (R87). -/
def State.dropBlocks (s : State) (place : Nat) : State :=
  { s with fetch := { s.fetch with blocks := s.fetch.blocks.filter fun x => x.trellis ≠ place } }

/-- Serves the cores that wait for lines of a block, each line with the fault of R84 that it has in any mode. -/
def State.serveLines (s : State) (r : FetchRead) (data : List Byte) (other : Nat → Option (Nat × Word)) :
    List (Nat × Nat × Bool) → State
  | [] => s
  | (core, line, task) :: ws => (s.serveLine r.part core line task data r.deny (other line)).serveLines r data other ws

/-- The lines of a block with an uncorrectable error (R84, R240). -/
def Memory.badLines (m : Memory) (pa : Nat) : List Nat := (List.range 8).filter fun k => m.bad (.hbm (pa + 32 * k))

/-- A block is read at its home slice (R238, R239, R409). -/
def State.codeBlock (s : State) (part gang pa : Nat) (noalloc : Bool) : State :=
  let missing := (List.range 8).any fun k => !s.mem.cached (pa + 32 * k)
  if missing then (s.countMissing part gang (pa / 256) 0xFF).install (pa / 256) 0xFF (s.waysOf part noalloc)
  else
    let (n, s) := s.fresh
    { s with mem := s.mem.touch (pa / 256) n }

/-- The cycles that the read of a block waits at its home slice for sectors that the L2 does not hold (R409, R412). -/
def State.blockWait (s : State) (part pa : Nat) (noalloc : Bool) : Nat :=
  (List.range 8).foldl (fun n k => max n (s.fillWait part (pa + 32 * k) noalloc)) 0

/-- `FETCH_LINE_INSTALL`: a block's reply arrives; its lines are installed and the block is kept (R84, R87). A read whose
causal past is not yet applied at the block's home waits for it (R144, R343), as does one that its channel holds (R409). -/
def execFetchLineInstall (read : Nat) (s : State) : Result :=
  match s.fetch.reads.find? fun r => r.id = read with
  | none => .next s
  | some r =>
    let drop (s : State) : State := { s with fetch := { s.fetch with reads := s.fetch.reads.filter fun x => x.id ≠ read } }
    match r.failed, r.pa with
    | some f, _ => .next ((drop s).serveLines r [] (fun _ => some f) r.wants)
    | none, none => .next (drop s)
    | none, some pa =>
      let z := (Loc.hbm pa).die
      if !s.causalOk z r.clock z then .next (s.schedule (s.time.cycle + 1) (.fetchLineInstall read))
      else if s.blockWait r.part pa r.noalloc ≠ 0 then
        .next (s.schedule (s.time.cycle + s.blockWait r.part pa r.noalloc) (.fetchLineInstall read))
      else
        let s := (drop s).codeBlock r.part r.gang pa r.noalloc
        let data := (List.range 256).map fun k => s.mem.gbyte (pa + k)
        let errs := s.mem.badLines pa
        let other (line : Nat) : Option (Nat × Word) := if errs.contains (line % 8) then some (trapNumber .dataerr, 0) else none
        let s := s.serveLines r data other r.wants
        .next (if r.place < 1024 then s.keepBlock ⟨r.place, r.block, r.part, data, r.deny, errs⟩ else s)

end Sys2Proof.Machine
end

