-- ==== Sys2Proof/Machine/Deque.lean ====
section
/-! DEFINITION. The task deques of a Pan: the requests that `fork` and `join` send one after the other, and what their answers
lead to (R135, R136, R138, R139, assumption 18). -/

namespace Sys2Proof.Machine

open Sys2Proof

/-- The place of a Pan-store address of the gang's Pan that passes its window checks for a store, with its page's label (R138). -/
def State.taskSpot (s : State) (va : Word) : Except TransFault (Loc × Label) :=
  match s.vaClass va with
  | .pan n off =>
    if n ≠ s.t.ident.pan then .error (.prot, 0)
    else
      match s.window s.t.ident.part n off false true with
      | .error e => .error e
      | .ok (pa, l) => .ok (.pan n pa, l)
  | .global | .device | .none => .error (.prot, 0)

/-- The address of the deque of a thread number (R135). -/
def dequeVa (a : Word) (lthread : Nat) : Word := a + BitVec.ofNat 64 (1024 * lthread)

/-- The own deque of the thread at its turn in an array (R135). -/
def State.ownDeque (s : State) (a : Word) : Word := dequeVa a s.t.ident.lthread

/-- Sends one request of `fork` or `join`, for which the thread waits out of rotation. `got` is the label of what it takes, `join`
what CLABEL joins with its answer (R138, R139). -/
def State.taskSend (s : State) (op : MemOp) (va : Word) (x : Loc × Label) (kind : FillKind) (got join : Label) : State :=
  let (fid, s) := s.newFill [] 1 got join kind false false
  (s.send op ⟨x.1, x.2, x.2, false⟩ va (s.resultLabel []) .direct false (some fid) 16).2

/-- A deque instruction of the thread at its turn has ended, and the thread goes on at an address; one that is being stopped stays
so (R138, R139, R394). -/
def State.taskEnd (s : State) (pc : Word) : State :=
  { s with t := { s.t with pc := pc, prog := .fresh, proxy := false, transit := none
                           run := if s.t.run.stopped then s.t.run else .ready } }

/-- `fork` has pushed its arm, or runs it inline (R138). -/
def State.forkEnd (s : State) (d : Reg) (ok : Bool) : State :=
  let pc := s.val d
  let next := s.t.pc + 4
  if ok then s.taskEnd next else (s.write d next (s.resultLabel [])).taskEnd pc

/-- `fork` has counted its arm and pushes it; a deque that has lost its page since is taken as full (R138). -/
def State.forkPush (s : State) (d a b : Reg) : State :=
  let own := s.ownDeque (s.val a)
  match s.taskSpot own with
  | .ok x => s.taskSend (.push (s.val d) (s.val b)) own x (.fork true d a b) 0 x.2
  | .error _ => s.forkEnd d false

/-- The seed of a deque's generator (R139). -/
def stealSeed (gangid : Word) (lthread : Nat) : Word := seedOf gangid lthread

/-- The generator of the own deque as `StealRound` begins, or none where the deque has lost its page; whether its word has an
uncorrectable error, which is then read as 0 (R139, R217; assumption 101). -/
def State.stealState (s : State) (a : Word) : Option (Word × Bool) :=
  match s.taskSpot (s.ownDeque a) with
  | .ok x =>
    let bad := s.mem.bad (x.1.plus 8)
    let old : Word := if bad then 0 else BitVec.ofNat 64 (s.mem.readAt (x.1.plus 8) 8)
    some (if old = 0 then stealSeed s.t.ident.gangid s.t.ident.lthread else old, bad)
  | .error _ => none

/-- `StealRound` keeps the state of its generator (R139). -/
def State.keepSteal (s : State) (a x : Word) : State :=
  match s.taskSpot (s.ownDeque a) with
  | .ok q => s.store (q.1.plus 8) 8 x.toNat
  | .error _ => s

/-- `join` found no task and parks on its counter; a thread that is being stopped does not wait (R139, R141). -/
def State.joinPark (s : State) (b : Reg) (c : Word) : State :=
  match s.taskSpot (s.val b) with
  | .ok x =>
    if s.t.run.stopped then s
    else
      let (fid, s) := s.newFill [] 1 0 0 .reply true false
      (s.send (.park c 1024) ⟨x.1, x.2, x.2, false⟩ (s.val b) (s.resultLabel []) .direct false (some fid) 16).2
  | .error _ => s.taskEnd s.t.pc

/-- H of R139: 1 + the highest thread number that the gang holds. -/
def State.stealSpan (s : State) : Nat :=
  1 + (s.gangThreads s.t.ident.gang).foldl (fun (m : Nat) (t : Thread) => max m t.ident.lthread) 0

/-- The next attempts of `StealRound`, of which n are left: a steal is sent to the first victim whose deque can be reached; with
none left the generator is kept and `join` parks. `h` is H of the round (R139). -/
def State.stealNext (s : State) (d a b : Reg) (c : Word) (h : Nat) : Nat → Word → State
  | 0, x => (s.keepSteal (s.val b) x).joinPark a c
  | n + 1, x =>
    let x := xorshift x
    let v := (s.t.ident.lthread + 1 + x.toNat % (h - 1)) % h
    let va := dequeVa (s.val b) v
    match if 1 < h then s.taskSpot va else .error (.page, 0) with
    | .error _ => s.stealNext d a b c h n x
    | .ok q => s.taskSend .steal va q (.join (.steal c h n x) d a b) q.2 0

/-- `join` has a task: it links, takes the frame and goes to the arm; an odd address of one takes ALIGN (R139, assumption 70). -/
def State.joinTake (s : State) (d a b : Reg) (pc frame : Word) (l : Label) : State :=
  let reads := labelsOf s.t [a, b] ||| s.t.patched
  let s := s.joinClabel l
  let link := s.t.pc
  let label := s.resultLabel []
  let s := (s.write d link label).write (nextReg d) frame label
  if pc.toNat % 2 = 0 then s.taskEnd pc
  else
    let run := s.t.run
    let s := s.takeTrap .align (pc &&& ~~~1) pc 0 reads
    if run.stopped then { s with t := { s.t with run := run } } else s

/-- What the answer to a request of `fork` or `join` leads to, for the thread in focus (R138, R139). -/
def State.taskAnswer (s : State) (f : Fill) : State :=
  let w (k : Nat) : Word := f.vals.getD k 0
  match f.kind with
  | .fork false d a b => s.forkPush d a b
  | .fork true d _ _ => s.forkEnd d (w 0 ≠ 0)
  | .join .count d a b =>
    if w 0 = 0 then s.taskEnd (s.t.pc + 4)
    else
      let own := s.ownDeque (s.val b)
      match s.taskSpot own with
      | .ok q => s.taskSend .pop own q (.join (.pop (w 0)) d a b) q.2 0
      | .error _ => s.joinPark a (w 0)
  | .join (.pop c) d a b =>
    if w 0 ≠ 0 then s.joinTake d a b (w 1) (w 2) f.label
    else
      match s.stealState (s.val b) with
      | some (x, bad) =>
        let va := s.ownDeque (s.val b) + 8
        let s := if bad then { s with t := s.t.addPending ⟨.dataerr, va, 32, f.label⟩ } else s
        s.stealNext d a b c s.stealSpan 8 x
      | none => s.joinPark a c
  | .join (.steal c h n x) d a b =>
    if w 0 ≠ 0 then (s.keepSteal (s.val b) x).joinTake d a b (w 1) (w 2) f.label
    else s.stealNext d a b c h n x
  | .plain | .nest _ _ | .claim | .vector _ _ _ | .reply | .phase _ _ | .ticket _ _ _ | .census _ | .partRead _
  | .partWrite _ _ => s

/-- A result is the answer to a request of `fork` or `join`. -/
def FillKind.isTask (k : FillKind) : Bool :=
  match k with
  | .fork _ _ _ _ | .join _ _ _ _ => true
  | .plain | .nest _ _ | .claim | .vector _ _ _ | .reply | .phase _ _ | .ticket _ _ _ | .census _ | .partRead _
  | .partWrite _ _ => false

/-- The answer to a request of `fork` or `join` reaches its thread (R138, R139). -/
def State.taskFill (s : State) (f : Fill) : State :=
  let old := s.t.ident.uid
  match s.thread f.uid with
  | none => s
  | some t => if t.run == .ended || t.run == .quitting then s else ((s.focus f.uid).taskAnswer f).focus old

end Sys2Proof.Machine
end

