-- ==== Sys2Proof/Machine/LoadStore.lean ====
section
/-! DEFINITION. Loads and stores, bursts, SYNCMEM, `setvat`, the atomic groups, and the iteration fetcher (R130 to R134, R218 to R230, R311 to R321). -/

namespace Sys2Proof.Machine

open Sys2Proof

/-- The bytes of an access size (R90). -/
def sizeBytes : MemSize → Nat
  | .byte => 1
  | .half => 2
  | .word => 4
  | .double => 8

/-- A memory instruction with base a: the checks of R101, then ALIGN for an address that is no multiple of n. -/
def memIssue (dests : List Reg) (srcs : List (Reg × Bool)) (a : Reg) (off : Word) (n : Nat) (s : State)
    (k : State → Word → Result) : Result :=
  s.issue { Uses.none with dests := dests, srcs := srcs, mem := true } fun s =>
    let ea := s.val a + off
    if ea.toNat % n ≠ 0 then .next (s.fail .align ea 0 (srcs.map Prod.fst) 0)
    else k s ea

/-- What a register of device space reads as (R413, R420), at the addresses that the part gives them (assumption 12): the Rake's
RAKEPROG and RAKESTAT, and the device-wide counts. -/
def State.deviceReg (s : State) (va : Word) : Option Nat :=
  let r := s.dev.rake
  if va = Config.rakeprogVa then some (r.done + r.fin * 2 ^ 32)
  else if va = Config.rakestatVa then some ((decide (r.done < r.fin)).toNat + r.restarted.toNat * 2)
  else ((List.range 8).find? fun k => va = Config.perfVa k).map s.deviceCount

/-- A device-mode load: of a register of device space, whose byte that is addressed is its lowest, or of a place without one
(R231, R413, R420). -/
def State.deviceLoad (s : State) (va : Word) (d : Reg) (reads : List Reg) (n : Nat) (sx : Bool) : State :=
  match s.deviceReg (va - va % 8) with
  | some v =>
    let v := v / 2 ^ (8 * (va.toNat % 8)) % 2 ^ (8 * n)
    (s.write d (if sx then wordOfInt (signedNat (8 * n) v) else BitVec.ofNat 64 v) (s.resultLabel reads)).retire 4
  | none => s.deviceAnswer [d] reads 4

/-- A device-mode store of n bytes: a write of a register of the Rake (R420), or one that is lost. -/
def State.deviceStore (s : State) (va v : Word) (reads : List Reg) (n : Nat) : State :=
  let v : Word := BitVec.ofNat 64 (v.toNat % 2 ^ (8 * n))
  if va = Config.rakejobVa then (s.push (.rakejob v)).retire 4
  else if va = Config.rakestatVa then (s.push (.rakestat v)).retire 4
  else s.deviceAnswer [] reads 4

/-- `ld`: loads 1 to 8 bytes, locally or by migration, filling d later (R218). -/
def execLd (d a : Reg) (imm : BitVec 9) (sz : MemSize) (sx : Bool) (ord : MemOrder) (ta : Bool) (s : State) : Result :=
  memIssue [d] [(a, ta)] a (imm.signExtend 64 * BitVec.ofNat 64 (sizeBytes sz)) (sizeBytes sz) s fun s ea =>
    if s.deviceAccess ea then .next (s.deviceLoad ea d [a] (sizeBytes sz) sx)
    else s.loading ea d [a] (.load (sizeBytes sz) sx) ord false false false 8

/-- `st`: stores 1 to 8 bytes, locally or posted (R218). -/
def execSt (d a : Reg) (imm : BitVec 9) (sz : MemSize) (ord : MemOrder) (ta : Bool) (s : State) : Result :=
  memIssue [] [(a, ta), (d, ta)] a (imm.signExtend 64 * BitVec.ofNat 64 (sizeBytes sz)) (sizeBytes sz) s fun s ea =>
    if s.deviceAccess ea then .next (s.deviceStore ea (s.val d) [a, d] (sizeBytes sz))
    else s.storing ea false [a, d] (.store (sizeBytes sz) (s.val d)) ord false true (sizeBytes sz) 4

/-- The registers b to b + n - 1 (R221). -/
def regRun (b : Reg) (n : Nat) : List Reg := (List.range n).map fun k => ⟨(b.val + k) % 32, Nat.mod_lt _ (by decide)⟩

/-- The ALIGN check of a burst: 8-aligned, within one 8 KiB page (R221). -/
def burstOk (ea : Word) (n : Nat) : Bool := fieldOf ea 0 3 = 0 && fieldOf ea 3 10 + n ≤ 1024

/-- Sends the words of a burst of n words, each to its own bank (R215). One that goes by proxy travels as one access (R450). -/
def State.sendWords (s : State) (x : Target) (ea : Word) (l : Label) (way : Way) (fid : Nat) (op : Nat → MemOp) (n : Nat) :
    Nat → State
  | 0 => s
  | k + 1 =>
    let s := s.sendWords x ea l way fid op n k
    let off := 8 * k
    let bytes := if way == .proxied then 8 * n else 8
    let (id, s) := s.sendAfter (rowWrap x.loc off) (s.t.core % 8) (op k) { x with loc := x.loc.plus off } (ea + BitVec.ofNat 64 off)
      l way false (some fid) bytes
    s.proxyLegs way fid id

/-- `ldm`: loads a burst of 1 to 8 words into consecutive registers (R221). -/
def execLdm (a b : Reg) (off : BitVec 8) (n : BitVec 3) (q ta _tb : Bool) (s : State) : Result :=
  let cnt := n.toNat + 1
  let regs := regRun b cnt
  s.issue { Uses.none with dests := regs, srcs := [(a, ta)], mem := true } fun s =>
    let ea := s.val a + (off.signExtend 64) * 8
    if !burstOk ea cnt then .next (s.fail .align ea 0 [a] 0)
    else
      s.returning ea true false regs [a] (s.lbl a) fun s x way =>
        let (fid, s) := s.newFill regs cnt (s.resultLabel [a] ||| x.rlabel) 0 .plain (way == .proxied) false
        let s := s.sendWords x ea 0 way fid MemOp.loadWord cnt cnt
        let s := if q then { s with t := { s.t with acqFill := some fid } } else s
        .next (s.goOn (way == .proxied) 4)

/-- `stm`: stores a burst of 1 to 8 words from consecutive registers (R221), each word at its own bank of the Pan store (R215), or all
at the core's own slice (R239). -/
def execStm (a b : Reg) (off : BitVec 8) (n : BitVec 3) (q ta tb : Bool) (s : State) : Result :=
  let cnt := n.toNat + 1
  let regs := regRun b cnt
  let reads := a :: regs
  s.issue { Uses.none with srcs := (a, ta) :: regs.map (fun r => (r, tb)), mem := true } fun s =>
    let ea := s.val a + (off.signExtend 64) * 8
    if !burstOk ea cnt then .next (s.fail .align ea 0 reads 0)
    else
      let l := s.resultLabel reads
      let ord : MemOrder := if q then .release else .plain
      match s.route ea false true with
      | (.ok (.here x), s) =>
        if !labelLe l x.label then .next (s.fail .label ea 0 reads 0)
        else s.releaseWait q fun s =>
          if x.loc.isHbm then .next ((s.send (.storeWords (regs.map s.val)) x ea l .direct false none (8 * cnt)).2.retire 4)
          else .next ((s.sendWords x ea l .direct 0 (fun k => .store 8 (s.val (regs.getD k 0))) cnt cnt).retire 4)
      | _ => s.storing ea false reads (.storeWords (regs.map s.val)) ord false true (8 * cnt) 4

/-- `ldfe`: waits for a full word, reads it and empties its tag (R226). -/
def execLdfe (d a : Reg) (imm : BitVec 9) (ord : MemOrder) (ta : Bool) (s : State) : Result :=
  memIssue [d] [(a, ta)] a (imm.signExtend 64 * 8) 8 s fun s ea =>
    if s.vaClass ea == .global then .next (s.fail .prot ea 0 [a] 0)
    else s.loading ea d [a] .ldfe ord true true true 8

/-- `ldff`: waits for a full word and reads it (R226). -/
def execLdff (d a : Reg) (imm : BitVec 9) (ord : MemOrder) (ta : Bool) (s : State) : Result :=
  memIssue [d] [(a, ta)] a (imm.signExtend 64 * 8) 8 s fun s ea =>
    if s.vaClass ea == .global then .next (s.fail .prot ea 0 [a] 0)
    else s.loading ea d [a] .ldff ord false true true 8

/-- `tagr`: reads a word's full/empty tag (R226). -/
def execTagr (d a : Reg) (imm : BitVec 9) (ord : MemOrder) (ta : Bool) (s : State) : Result :=
  memIssue [d] [(a, ta)] a (imm.signExtend 64 * 8) 8 s fun s ea =>
    if s.vaClass ea == .global then .next (s.fail .prot ea 0 [a] 0)
    else s.loading ea d [a] .tagr ord false false false 8

/-- `stfe`: waits for an empty word, writes it and sets it full (R226). -/
def execStfe (d a : Reg) (imm : BitVec 9) (ord : MemOrder) (ta : Bool) (s : State) : Result :=
  memIssue [] [(a, ta), (d, ta)] a (imm.signExtend 64 * 8) 8 s fun s ea =>
    if s.vaClass ea == .global then .next (s.fail .prot ea 0 [a, d] 0)
    else
      s.returning ea false true [] [a, d] (s.lbl a) fun s x way =>
        if !labelLe (s.resultLabel [a, d]) x.label then .next (s.fail .label ea 0 [a, d] 0)
        else s.releaseWait (ordReleases ord) fun s =>
          let (fid, s) := s.newFill [] 1 (s.resultLabel [a, d] ||| x.rlabel) x.rlabel .reply (way == .proxied) (way == .proxied)
          let (id, s) := s.send (.stfe (s.val d)) x ea (s.resultLabel [a, d]) way false (some fid) 8
          .next (s.proxyLegs way fid id).waitHere

/-- `stff`: writes a word and sets its tag full (R226). -/
def execStff (d a : Reg) (imm : BitVec 9) (ord : MemOrder) (ta : Bool) (s : State) : Result :=
  memIssue [] [(a, ta), (d, ta)] a (imm.signExtend 64 * 8) 8 s fun s ea =>
    s.storing ea false [a, d] (.stff (s.val d)) ord false false 8 4

/-- `tagw`: writes a word's full/empty tag (R226). -/
def execTagw (d a : Reg) (imm : BitVec 9) (ord : MemOrder) (ta : Bool) (s : State) : Result :=
  memIssue [] [(a, ta), (d, ta)] a (imm.signExtend 64 * 8) 8 s fun s ea =>
    s.storing ea false [a, d] (.tagw (fieldOf (s.val d) 0 1 = 1)) ord false false 8 4

/-- The format register of a vat (R229): 0 unless it has been written. -/
def State.vat (s : State) (n vat : Nat) : Word :=
  ((s.mem.vats.find? fun x => x.1 = n * 512 + vat).map Prod.snd).getD 0

/-- The vat of a Pan-store physical address (R203). -/
def vatOf (pa : Nat) : Nat := pa / 2 ^ 16

/-- A run of window bytes lies within one vat: the pages that are mapped lie in the vat of the first, and no other page lies past
its end (R153). -/
def State.inOneVat (s : State) (p n off len : Nat) : Bool :=
  let vatAt (e : MapEntry) : Nat := vatOf (e.cellar * 2 ^ 18 + e.frame * 8192)
  let first := s.mapEntry p n (off / 8192)
  len ≤ 2 ^ 16 && (List.range ((off % 8192 + len + 8191) / 8192)).all fun k =>
    let e := s.mapEntry p n (off / 8192 + k)
    if e.valid then vatAt e = vatAt first else first.frame % 8 + k < 8

/-- The faults of a format value (R230). -/
def vatValueOk (v : Word) : Bool :=
  let f := Fmt.ofCode (fieldOf v 0 5)
  let plane := match f with
    | .bps8 | .bpu8 => 8
    | .bps16 | .bpu16 => 16
    | _ => 0
  fieldOf v 6 10 = 0 && fieldOf v 21 11 = 0 && fieldOf v 48 16 = 0 && fieldOf v 16 5 = plane
    && (if plane = 0 then fieldOf v 32 16 = 0 else fieldOf v 32 16 ≠ 0)

/-- The entries of a partition's map that name the frames of a vat (R230). -/
def State.vatEntries (s : State) (p n vat : Nat) : List MapEntry :=
  s.mem.maps.filter fun e => e.part = p && e.pan = n && e.valid && e.cellar = vat / 4 && e.frame / 8 = vat % 4

/-- `setvat`: writes the format register of a vat (R230). -/
def execSetvat (d a : Reg) (imm : BitVec 9) (ta : Bool) (s : State) : Result :=
  memIssue [] [(a, ta), (d, ta)] a (imm.signExtend 64 * 8) 8 s fun s ea =>
    if s.vaClass ea == .global then .next (s.fail .prot ea 0 [a, d] 0)
    else
      s.returning ea false true [] [a, d] (s.lbl a) fun s x way =>
        match x.loc with
        | .hbm _ => .next (s.fail .prot ea 0 [a, d] 0)
        | .pan n pa =>
          let v := s.val d
          let es := s.vatEntries s.t.ident.part n (vatOf pa)
          if !((List.range 8).all fun k => es.any fun e => e.frame % 8 = k && e.write) then .next (s.fail .prot ea 0 [a, d] 0)
          else if !vatValueOk v then .next (s.fail .format ea 0 [a, d] 0)
          else if !(es.all fun e => labelLe (s.resultLabel [a, d]) e.label) then .next (s.fail .label ea 0 [a, d] 0)
          else if !s.drained then .next s.idle
          else if way == .proxied then
            let (fid, s) := s.newFill [] 1 0 0 .reply true true
            let (id, s) := s.send (.setvat (vatOf pa) v) x ea (s.resultLabel [a, d]) way false (some fid) 8
            .next (s.proxyLegs way fid id).waitHere
          else if s.vatBusy s.t.ident.part n (vatOf pa) then .next s.idle
          else .next ((s.writeVat n (vatOf pa) v).retire 4)

/-- `amo` (R312, R313): the release wait, then one step at the atomic unit. -/
def amo (fn : AmoFn) (dbl : Bool) (d a b : Reg) (o r ta tb : Bool) (s : State) : Result :=
  memIssue [d] [(a, ta), (b, tb)] a 0 (amoBytes dbl) s fun s ea =>
    s.returning ea true true [d] [a, b] (s.lbl a) fun s x way =>
      let l := s.resultLabel [a, b]
      if !labelLe l x.label then .next (s.fail .label ea 0 [a, b] 0)
      else s.releaseWait r fun s =>
        let (fid, s) := s.newFill [d] 1 (l ||| x.rlabel) 0 .plain true false
        let (id, s) := s.send (.amo fn dbl (s.val b)) x ea l way o (some fid) 8
        .next ((s.proxyLegs way fid id).goOn true 4)

/-- `red` (R314): performed at its bank or posted, returning nothing. -/
def reduce (fn : AmoFn) (dbl : Bool) (a b : Reg) (o r ta tb : Bool) (s : State) : Result :=
  memIssue [] [(a, ta), (b, tb)] a 0 (amoBytes dbl) s fun s ea =>
    s.storing ea true [a, b] (.red fn dbl (s.val b)) (if r then .release else .plain) o true 8 4

/-- `amo.add`: atomically adds and returns the old value (R312). -/
def execAmoAdd (d a b : Reg) (dbl r o ta tb : Bool) (s : State) : Result :=
  amo .add dbl d a b o r ta tb s

/-- `amo.and`: atomically ANDs and returns the old value (R312). -/
def execAmoAnd (d a b : Reg) (dbl r o ta tb : Bool) (s : State) : Result :=
  amo .and dbl d a b o r ta tb s

/-- `amo.or`: atomically ORs and returns the old value (R312). -/
def execAmoOr (d a b : Reg) (dbl r o ta tb : Bool) (s : State) : Result :=
  amo .or dbl d a b o r ta tb s

/-- `amo.xor`: atomically XORs and returns the old value (R312). -/
def execAmoXor (d a b : Reg) (dbl r o ta tb : Bool) (s : State) : Result :=
  amo .xor dbl d a b o r ta tb s

/-- `amo.min`: atomic signed minimum returning the old value (R312). -/
def execAmoMin (d a b : Reg) (dbl r o ta tb : Bool) (s : State) : Result :=
  amo .min dbl d a b o r ta tb s

/-- `amo.max`: atomic signed maximum returning the old value (R312). -/
def execAmoMax (d a b : Reg) (dbl r o ta tb : Bool) (s : State) : Result :=
  amo .max dbl d a b o r ta tb s

/-- `amo.minu`: atomic unsigned minimum returning the old value (R312). -/
def execAmoMinu (d a b : Reg) (dbl r o ta tb : Bool) (s : State) : Result :=
  amo .minu dbl d a b o r ta tb s

/-- `amo.maxu`: atomic unsigned maximum returning the old value (R312). -/
def execAmoMaxu (d a b : Reg) (dbl r o ta tb : Bool) (s : State) : Result :=
  amo .maxu dbl d a b o r ta tb s

/-- `amo.swap`: atomically swaps and returns the old value (R312). -/
def execAmoSwap (d a b : Reg) (dbl r o ta tb : Bool) (s : State) : Result :=
  amo .swap dbl d a b o r ta tb s

/-- `amo.fadd32`: atomically adds FP32 by RNE and returns the old value (R313). -/
def execAmoFadd32 (d a b : Reg) (r o ta tb : Bool) (s : State) : Result :=
  amo .fadd32 false d a b o r ta tb s

/-- `red.add`: posted or local atomic add returning nothing (R314). -/
def execRedAdd (a b : Reg) (dbl r o ta tb : Bool) (s : State) : Result :=
  reduce .add dbl a b o r ta tb s

/-- `red.and`: reduction AND returning nothing (R314). -/
def execRedAnd (a b : Reg) (dbl r o ta tb : Bool) (s : State) : Result :=
  reduce .and dbl a b o r ta tb s

/-- `red.or`: reduction OR returning nothing (R314). -/
def execRedOr (a b : Reg) (dbl r o ta tb : Bool) (s : State) : Result :=
  reduce .or dbl a b o r ta tb s

/-- `red.xor`: reduction XOR returning nothing (R314). -/
def execRedXor (a b : Reg) (dbl r o ta tb : Bool) (s : State) : Result :=
  reduce .xor dbl a b o r ta tb s

/-- `red.min`: reduction signed minimum (R314). -/
def execRedMin (a b : Reg) (dbl r o ta tb : Bool) (s : State) : Result :=
  reduce .min dbl a b o r ta tb s

/-- `red.max`: reduction signed maximum (R314). -/
def execRedMax (a b : Reg) (dbl r o ta tb : Bool) (s : State) : Result :=
  reduce .max dbl a b o r ta tb s

/-- `red.minu`: reduction unsigned minimum (R314). -/
def execRedMinu (a b : Reg) (dbl r o ta tb : Bool) (s : State) : Result :=
  reduce .minu dbl a b o r ta tb s

/-- `red.maxu`: reduction unsigned maximum (R314). -/
def execRedMaxu (a b : Reg) (dbl r o ta tb : Bool) (s : State) : Result :=
  reduce .maxu dbl a b o r ta tb s

/-- `red.swap`: reduction that writes the operand (R314). -/
def execRedSwap (a b : Reg) (dbl r o ta tb : Bool) (s : State) : Result :=
  reduce .swap dbl a b o r ta tb s

/-- `red.fadd32`: reduction FP32 add by RNE (R314). -/
def execRedFadd32 (a b : Reg) (r o ta tb : Bool) (s : State) : Result :=
  reduce .fadd32 false a b o r ta tb s

/-- `cas`: compares a doubleword with d and writes b if equal, returning the old value (R318). -/
def execCas (d a b : Reg) (r o ta tb : Bool) (s : State) : Result :=
  memIssue [d] [(a, ta), (b, tb), (d, false)] a 0 8 s fun s ea =>
    s.returning ea true true [d] [a, b, d] (s.lbl a) fun s x way =>
      let l := s.resultLabel [a, b, d]
      if !labelLe l x.label then .next (s.fail .label ea 0 [a, b, d] 0)
      else s.releaseWait r fun s =>
        let op := MemOp.cas (s.val d) (s.val b)
        let (fid, s) := s.newFill [d] 1 (l ||| x.rlabel) 0 .plain true false
        let (id, s) := s.send op x ea l way o (some fid) 16
        .next ((s.proxyLegs way fid id).goOn true 4)

/-- `cas2`: compares and swaps a 16-byte pair in one step (R319). -/
def execCas2 (d a b : Reg) (r o ta tb : Bool) (s : State) : Result :=
  let d1 := nextReg d
  let b1 := nextReg b
  let reads := [a, b, b1, d, d1]
  memIssue [d, d1] [(a, ta), (b, tb), (b1, tb), (d, false), (d1, false)] a 0 16 s fun s ea =>
    s.returning ea true true [d, d1] reads (s.lbl a) fun s x way =>
      let l := s.resultLabel reads
      if !labelLe l x.label then .next (s.fail .label ea 0 reads 0)
      else s.releaseWait r fun s =>
        let op := MemOp.cas2 (s.val d) (s.val d1) (s.val b) (s.val b1)
        let (fid, s) := s.newFill [d, d1] 2 (l ||| x.rlabel) 0 .plain true false
        let (id, s) := s.send op x ea l way o (some fid) 32
        .next ((s.proxyLegs way fid id).goOn true 4)

/-! ## The iteration fetcher (R130 to R134) -/

/-- The Pan of a thread's gang, which is that of its origin trellis (R12, R15). -/
def Thread.gangPan (t : Thread) : Nat := t.ident.pan

/-- A word of NESTSTATE (R131). -/
def Thread.nestWord (t : Thread) (k : Nat) : Word := t.ctl.nest.getD k 0
/-- Replaces a word of NESTSTATE. -/
def Thread.setNest (t : Thread) (k : Nat) (v : Word) : Thread := { t with ctl := { t.ctl with nest := t.ctl.nest.set k v } }
/-- NESTSTATE2.CLAIMING (R131). -/
def Thread.claiming (t : Thread) : Bool := fieldOf (t.nestWord 2) 62 1 = 1
/-- NESTSTATE0.VALID (R131). -/
def Thread.nestValid (t : Thread) : Bool := fieldOf (t.nestWord 0) 63 1 = 1

/-- Extent k of the nest in force (R131). -/
def Thread.extent (t : Thread) (k : Nat) : Nat := fieldOf (t.nestWord 1) (16 * k) 16

/-- The number of iterations of a nest (R130). -/
def Thread.nestTotal (t : Thread) : Nat := t.extent 0 * t.extent 1 * t.extent 2 * t.extent 3

/-- Unpack(i): the indices of an iteration into g28 to g31, and d := 1 (R134). -/
def Thread.unpackNest (t : Thread) (d : Reg) (i : Nat) (l : Label) : Thread :=
  let e0 := t.extent 0
  let e1 := t.extent 1
  let e2 := t.extent 2
  let w (t : Thread) (r : Reg) (v : Nat) : Thread := t.write r (BitVec.ofNat 64 v) l
  (w (w (w (w t 28 (i % e0)) 29 (i / e0 % e1)) 30 (i / (e0 * e1) % e2)) 31 (i / (e0 * e1 * e2))).write d 1 l

/-- The label of the page that holds the nest descriptor (R134). -/
def State.nestPageLabel (s : State) : Label :=
  let desc := fieldOf (s.t.nestWord 0) 0 56
  (s.mapEntry s.t.ident.part (bitsAt desc 32 3) (desc % 2 ^ 25 / 8192)).label

/-- `nest`: reads a nest descriptor and opens the iteration fetcher state (R133). -/
def execNest (d a : Reg) (ta _tb : Bool) (s : State) : Result :=
  s.issue { Uses.none with dests := [d], srcs := [(a, ta)], mem := true } fun s =>
    let va := s.val a
    if s.t.claiming then .next s.idle
    else if fieldOf va 0 5 ≠ 0 then .next (s.fail .align va 0 [a] 0)
    else
      match s.vaClass va with
      | .pan n off =>
        if n ≠ s.t.gangPan then .next (s.fail .prot va 0 [a] 0)
        else
          s.returning va true true [d] [a] (s.lbl a) fun s x way =>
            let (fid, s) := s.newFill [d] 4 (s.resultLabel [a] ||| x.rlabel) (s.lbl a ||| x.rlabel)
              (.nest (namedVa n off) (s.lbl a)) (way == .proxied) false
            .next ((s.sendWords x va 0 way fid MemOp.loadWord 4 4).goOn (way == .proxied) 4)
      | .global | .device | .none => .next (s.fail .prot va 0 [a] 0)

/-- `next`: delivers the next iteration, claiming a chunk at the bank when needed (R134). -/
def execNext (d : Reg) (_ta _tb : Bool) (s : State) : Result :=
  let dests : List Reg := [d, 28, 29, 30, 31]
  s.issue { Uses.none with dests := dests } fun s =>
    if !s.t.nestValid then .next ((s.write d 0 (s.resultLabel [])).retire 4)
    else
      let cur := fieldOf (s.t.nestWord 2) 0 48
      if cur < fieldOf (s.t.nestWord 3) 0 48 then
        let l := s.resultLabel [] ||| s.nestPageLabel
        let t := (s.t.setNest 2 (putField (s.t.nestWord 2) 0 48 (cur + 1))).unpackNest d cur l
        .next ({ s with t := t.joinClabel s.nestPageLabel }.retire 4)
      else if s.acquireHeld then .next s.idle
      else
        let desc : Word := BitVec.ofNat 64 (fieldOf (s.t.nestWord 0) 0 56)
        s.returning desc true true dests [] 0 fun s x way =>
          let divisor := (fieldOf (s.t.nestWord 3) 56 4 + 1) * (fieldOf (s.t.nestWord 2) 48 14 + 1)
          let op := MemOp.claimNest s.t.nestTotal divisor (max 1 (fieldOf (s.t.nestWord 3) 48 8))
          if !labelLe (s.resultLabel []) x.label then .next (s.fail .label desc 0 [] 0)
          else
            let (fid, s) := s.newFill dests 2 (s.resultLabel [] ||| x.rlabel) x.rlabel .claim true false
            let s := { s with t := s.t.setNest 2 (putField (s.t.nestWord 2) 62 1 1) }
            let (id, s) := s.send op x desc (s.resultLabel []) way false (some fid) 8
            .next ((s.proxyLegs way fid id).goOn true 4)

end Sys2Proof.Machine
end

