-- ==== Sys2Proof/Machine/FaultQueue.lean ====
section
/-! DEFINITION. The fault queue of a partition (R392, R393). -/

namespace Sys2Proof.Machine

open Sys2Proof

/-- The Pan and window offset of a fault queue's base (R392). -/
def fqSplit (base : Word) : Nat × Nat := (bitsAt base.toNat 32 3, base.toNat % 2 ^ 25)

/-- The physical place of the fault queue's page, when a write there passes its checks and the page is not moving
(R392). -/
def State.fqPlace (s : State) (p : Part) : Option (Nat × Nat) :=
  if p.regs.fqbase = 0 then none
  else
    let (n, off) := fqSplit p.regs.fqbase
    let e := s.mapEntry p.num n (off / 8192)
    if e.valid && e.write && !e.moving && labelLe (partLabel p.num) e.label then
      some (n, e.cellar * 2 ^ 18 + e.frame * 8192 + off % 8192)
    else none

/-- Word 0 of an entry (R393). -/
def eventWord0 (e : FaultEvent) (seq : Nat) : Word :=
  BitVec.ofNat 64 (e.code % 256 + e.sub % 256 * 2 ^ 8 + seq % 2 ^ 16 * 2 ^ 16 + e.detail % 2 ^ 32 * 2 ^ 32)

/-- Writes the header, where it can be written: WR and the lost count (R392). -/
def State.fqHeader (s : State) (p : Nat) : State :=
  match s.part? p with
  | none => s
  | some x =>
    match s.fqPlace x with
    | none => s
    | some (n, pa) => s.store (.pan n pa) 8 (x.faults.wr % 2 ^ 16 + x.faults.lost * 2 ^ 16)

/-- Changes a partition's fault queue. -/
def State.modFq (s : State) (p : Nat) (f : FaultQueue → FaultQueue) : State :=
  s.modPart p fun x => { x with faults := f x.faults }

/-- Writes an event at its entry when the entry's word-0 tag is empty: words 1 to 7, then word 0 with a full tag, then WR
and the header (R392). -/
def State.fqWrite (s : State) (p : Nat) (e : Nat × FaultEvent) : Option State :=
  match s.part? p with
  | none => none
  | some x =>
    match s.fqPlace x with
    | none => none
    | some (n, base) =>
      let pa := base + 0x40 + 64 * (x.faults.wr % 64)
      if s.mem.tagFull n pa then none
      else
        let s := (List.range 7).foldl (fun (s : State) k =>
          s.store (.pan n (pa + 8 * (k + 1))) 8 (e.2.words.getD k 0).toNat) s
        let s := s.store (.pan n pa) 8 (eventWord0 e.2 e.1).toNat
        let s := ({ s with mem := s.mem.setTag n pa true }).tagChanged (.pan n pa)
        some ((s.modFq p fun q => { q with wr := (q.wr + 1) % 2 ^ 16 }).fqHeader p)

/-- An event is lost (R392). -/
def FaultQueue.lose (q : FaultQueue) : FaultQueue := { q with lost := min (q.lost + 1) 0xFFFF }

/-- The waiting events are written from the head while they can be (R392). -/
def State.fqDrain (s : State) (p : Nat) : List (Nat × FaultEvent) → State
  | [] => s
  | e :: es =>
    match s.fqWrite p e with
    | some s => (s.modFq p fun q => { q with queue := es }).fqDrain p es
    | none => s

/-- The head event is retried every 1,024 cycles while one waits (R392). -/
def State.fqArm (s : State) (p : Nat) : State :=
  match s.part? p with
  | some x =>
    if x.faults.queue.isEmpty || x.faults.retry then s
    else (s.modFq p fun q => { q with retry := true }).schedule (s.time.cycle + 1024) (.faultQueueRetry p)
  | none => s

/-- `FAULT_QUEUE_EVENT`: an event reaches the launch unit: written, buffered behind those that wait, or lost (R392). -/
def execFaultQueueEvent (part : Nat) (ev : FaultEvent) (s : State) : Result :=
  match s.part? part with
  | none => .next s
  | some x =>
    let e := (x.faults.seq, ev)
    let s := s.modFq part fun q => { q with seq := (q.seq + 1) % 2 ^ 16 }
    if x.regs.fqbase = 0 then .next (s.modFq part FaultQueue.lose)
    else if x.faults.queue.isEmpty then
      match s.fqWrite part e with
      | some s => .next s
      | none => .next ((s.modFq part fun q => { q with queue := [e] }).fqArm part)
    else if x.faults.queue.length < 16 then
      .next ((s.modFq part fun q => { q with queue := q.queue ++ [e] }).fqArm part)
    else .next (s.modFq part FaultQueue.lose)

/-- `FAULT_QUEUE_RETRY`: the buffered events are tried again (R392). -/
def execFaultQueueRetry (part : Nat) (s : State) : Result :=
  match s.part? part with
  | none => .next s
  | some x =>
    let s := s.modFq part fun q => { q with retry := false }
    .next ((s.fqDrain part x.faults.queue).fqArm part)

end Sys2Proof.Machine
end

