-- ==== Sys2Proof/Machine/Flags.lean ====
section
/-! DEFINITION. The exception flags, the rounding mode and the draws of the scalar floating-point instructions
(R81, R159 to R165). -/

namespace Sys2Proof.Machine

open Sys2Proof

/-- STATUS.RM (R81). -/
def Thread.rm (t : Thread) : Rm :=
  match fieldOf t.ctl.status 2 3 with
  | 0 => .rne
  | 1 => .rtz
  | 2 => .rdn
  | 3 => .rup
  | _ => .sr

/-- STATUS.FLAGS (R81). -/
def Thread.flags (t : Thread) : FFlags := BitVec.ofNat 5 (fieldOf t.ctl.status 5 5)
/-- STATUS.FPEN (R81). -/
def Thread.fpen (t : Thread) : FFlags := BitVec.ofNat 5 (fieldOf t.ctl.status 10 5)

/-- Flags are ORed into STATUS.FLAGS (R164). -/
def Thread.raise (t : Thread) (f : FFlags) : Thread := t.setStatus 5 5 (t.flags ||| f).toNat

/-- SEED after n draws (R159). -/
def Thread.draw (t : Thread) (n : Nat) : Thread := { t with ctl := { t.ctl with seed := xorshiftN n t.ctl.seed } }

/-- The label that SEED adds to a result rounded in a mode (R162). -/
def Thread.seedLabelFor (t : Thread) (rm : Rm) : Label := if rm = .sr then t.ctl.seedLabel else 0

/-- Completes a scalar floating-point instruction with a result, its flags and the draws it makes (R164): FPEXC where an
enabled flag is raised, with nothing written and SEED unchanged; otherwise the write, the flags and the draws. -/
def State.finishFp (s : State) (d : Reg) (v : Word) (fl : FFlags) (draws : Nat) (l : Label) (reads : List Reg)
    (len : Nat) : State :=
  if fl &&& s.t.fpen ≠ 0 then
    { s with t := s.t.raise fl }.fail .fpexc 0 (BitVec.ofNat 64 fl.toNat) reads l
  else
    (({ s with t := (s.t.raise fl).draw draws }).write d v l).retire len

/-- The value drawn by the next draw (R159). -/
def Thread.nextDraw (t : Thread) : Word := xorshift t.ctl.seed

/-- The draws of one rounding in a mode: one under SR (R160). -/
def drawsOf (rm : Rm) : Nat := if rm = .sr then 1 else 0

/-- An arithmetic operation of the FP group by STATUS.RM (R167). -/
def fpArith (f : Rm → Word → State → Nat × FFlags) (dests : List Reg) (srcs : List (Reg × Bool)) (d : Reg) (len : Nat)
    (s : State) : Result :=
  s.issue { Uses.none with dests := dests, srcs := srcs } fun s =>
    let rm := s.t.rm
    let r := f rm s.t.nextDraw s
    let reads := srcs.map Prod.fst
    .next (s.finishFp d (BitVec.ofNat 64 r.1) r.2 (drawsOf rm) (s.resultLabel reads ||| s.t.seedLabelFor rm) reads len)

/-- The value of a register's low bits in a format (R165). -/
def State.fval (s : State) (f : FpFmt) (r : Reg) : FVal := decodeF (floatOf f) (s.val r).toNat

/-- An operation of the FP group that does not round (R168). -/
def fpPlain (f : State → Word × FFlags) (srcs : List (Reg × Bool)) (d : Reg) (s : State) : Result :=
  s.issue { Uses.none with dests := [d], srcs := srcs } fun s =>
    let r := f s
    let reads := srcs.map Prod.fst
    .next (s.finishFp d r.1 r.2 0 (s.resultLabel reads) reads 4)

/-- A comparison of R168, its answer as an integer. -/
def fpCompare (c : FCmp) (f : FpFmt) (d a b : Reg) (ta tb : Bool) (s : State) : Result :=
  fpPlain (fun s =>
    let r := fCompare c (floatOf f) (s.val a).toNat (s.val b).toNat
    (boolWord r.1, r.2)) [(a, ta), (b, tb)] d s

/-- `fmin` or `fmax` (R168). -/
def fpMinMax (least : Bool) (f : FpFmt) (d a b : Reg) (ta tb : Bool) (s : State) : Result :=
  fpPlain (fun s =>
    let r := fMinMax least (floatOf f) (s.val a).toNat (s.val b).toNat
    (BitVec.ofNat 64 r.1, r.2)) [(a, ta), (b, tb)] d s

end Sys2Proof.Machine
end

