-- ==== Sys2Proof/Machine/Sys.lean ====
section
/-! DEFINITION. The control registers: `mfc` and `mtc` (R78 to R83, R131, R205, R206, R371, R387 to R389, R413), and `lbl`
(R382). -/

namespace Sys2Proof.Machine

open Sys2Proof

/-! ## Access (R78, R79) -/

/-- What a mode may do with a control register. -/
inductive CregAccess where
  | none      -- PRIV on every access
  | ro
  | rw
  deriving DecidableEq, Repr

/-- The rows of R79: a register's access in task and in supervisor mode; none for an unlisted number. -/
def cregRow (n : Nat) : Option (CregAccess × CregAccess) :=
  if n = 0x000 ∨ n = 0x002 ∨ n = 0x003 then some (.rw, .rw)
  else if n = 0x001 ∨ n = 0x004 ∨ n = 0x005 ∨ (0x008 ≤ n ∧ n ≤ 0x00C) then some (.ro, .ro)
  else if 0x010 ≤ n ∧ n ≤ 0x013 then some (.ro, .rw)
  else if (0x018 ≤ n ∧ n ≤ 0x01F) ∨ (0x020 ≤ n ∧ n ≤ 0x027) then some (.ro, .ro)
  else if n = 0x030 then some (.ro, .rw)
  else if n = 0x031 then some (.ro, .ro)
  else if n = 0x032 ∨ (0x040 ≤ n ∧ n ≤ 0x044) ∨ n = 0x048 then some (.none, .rw)
  else if n = 0x050 ∨ n = 0x051 ∨ n = 0x053 then some (.none, .rw)
  else if n = 0x052 then some (.none, .ro)
  else if n = 0x060 ∨ n = 0x061 then some (.none, .rw)
  else Option.none

/-- The trap that an access to a control register takes, by its number and mode (R78). -/
def cregFault (t : Thread) (n : Nat) (write : Bool) : Option TrapCode :=
  if 0xF00 ≤ n then some (if t.isDevice then .illegal else .priv)
  else
    match cregRow n with
    | Option.none => some .illegal
    | some (task, sup) =>
      if t.isDevice then Option.none
      else
        match (if t.isTask then task else sup) with
        | .none => some .priv
        | .ro => if write then some .priv else Option.none
        | .rw => Option.none

/-! ## Reading -/

/-- WMDATA of an entry (R205). -/
def MapEntry.word (e : MapEntry) : Word :=
  BitVec.ofNat 64 (e.valid.toNat + e.read.toNat * 2 + e.write.toNat * 4 + e.moving.toNat * 8 + e.cellar % 128 * 2 ^ 4
    + e.frame % 32 * 2 ^ 11 + e.label.toNat * 2 ^ 32)

/-- A partition register, as the launch unit holds it; 0 for no partition (R80, R82). -/
def State.partRegValue (s : State) (part n : Nat) : Word :=
  match s.part? part with
  | some p =>
    if n = 0x050 then p.regs.deftrapvec else if n = 0x051 then p.regs.htbase else if n = 0x052 then p.regs.ownbase else p.regs.fqbase
  | Option.none => 0

/-- PERFk as the mode reads it: the gang's sum in task mode, else the partition's (R413). -/
def State.perfValue (s : State) (k : Nat) : Nat :=
  if s.t.isTask then
    match s.gang? s.t.ident.gang with
    | some g => g.perf.getD k 0
    | Option.none => 0
  else
    match s.part? s.t.ident.part with
    | some p => p.perf.getD k 0
    | Option.none => 0

/-- The value of a control register (R79 to R83, R387). -/
def State.cregValue (s : State) (n : Nat) : Word :=
  let t := s.t
  let nat (v : Nat) : Word := BitVec.ofNat 64 v
  if n = 0x000 then t.ctl.status
  else if n = 0x001 then t.ctl.clabel.setWidth 64
  else if n = 0x002 then t.ctl.live.setWidth 64
  else if n = 0x003 then t.ctl.seed
  else if n = 0x004 then nat (16 * t.claim.lanes)
  else if n = 0x005 then nat t.ctl.pendred
  else if n = 0x008 then nat t.ident.lthread
  else if n = 0x009 then t.ident.gangid
  else if n = 0x00A then nat (s.gangSize t.ident.gang)
  else if n = 0x00B then nat (t.ident.trellis + t.ident.pan * 2 ^ 7)
  else if n = 0x00C then nat (t.core + t.slot * 2 ^ 16)
  else if 0x010 ≤ n ∧ n ≤ 0x013 then t.ctl.nest.getD (n - 0x010) 0
  else if 0x018 ≤ n ∧ n ≤ 0x01F then
    nat (t.ctl.vclock.getD (2 * (n - 0x018)) 0 + t.ctl.vclock.getD (2 * (n - 0x018) + 1) 0 * 2 ^ 32)
  else if 0x020 ≤ n ∧ n ≤ 0x027 then nat (s.perfValue (n - 0x020))
  else if n = 0x030 then nat t.ctl.hbint
  else if n = 0x031 then nat t.ctl.hbcnt
  else if n = 0x032 then nat t.ctl.slotTimer
  else if n = 0x040 then t.trap.pc
  else if n = 0x041 then t.trap.code
  else if n = 0x042 then t.trap.addr
  else if n = 0x043 then t.trap.info
  else if n = 0x044 then t.trap.vec
  else if n = 0x048 then t.trap.saveptr
  else if 0x050 ≤ n ∧ n ≤ 0x053 then s.partRegValue t.ident.part n
  else if n = 0x060 then t.ctl.wmsel
  else if n = 0x061 then (s.mapEntry t.ident.part (fieldOf t.ctl.wmsel 12 3) (fieldOf t.ctl.wmsel 0 12)).word
  else 0

/-- A partition register (R80). -/
def isPartReg (n : Nat) : Bool := 0x050 ≤ n && n ≤ 0x053

/-- A partition register is written at its launch unit (R80); a write of FQBASE makes WR 0 and writes the header of the queue
(R389, R392). A thread that belongs to no partition writes nothing (assumption 30). -/
def State.setPartReg (s : State) (part n : Nat) (v : Word) : State :=
  let set (f : PartRegs → PartRegs) : State := s.modPart part fun p => { p with regs := f p.regs }
  if n = 0x050 then set fun r => { r with deftrapvec := v }
  else if n = 0x051 then set fun r => { r with htbase := v }
  else if n = 0x052 then set fun r => { r with ownbase := v }
  else
    let s := (set fun r => { r with fqbase := v }).modFq part fun q => { q with wr := 0 }
    if v = 0 then s else s.fqHeader part

/-- The thread at its turn sends the value of a partition register to the launch unit, a packet of 2 flits, and goes on with the
answer (R80). -/
def State.sendPartReg (s : State) (n : Nat) (v : Word) : State :=
  let (id, s) := s.newFill [] 0 0 0 (.partWrite n v) true false
  (s.schedule (s.time.cycle + leg 2) (.resultFill id)).goOn true 4

/-- The checks of R78 come before those of the registers named. -/
def cregIssue (n : Nat) (write : Bool) (word : Nat) (dests : List Reg) (srcs : List (Reg × Bool)) (s : State)
    (k : State → Result) : Result :=
  match cregFault s.t n write with
  | some c => .next (s.fail c 0 (BitVec.ofNat 64 word) [] 0)
  | Option.none => s.issue { Uses.none with dests := dests, srcs := srcs } k

/-- The word of an `mfc` (R388). -/
def mfcWord (d : Reg) (c : BitVec 12) : Nat := 0x3F + d.val * 2 ^ 7 + c.toNat * 2 ^ 20
/-- The word of an `mtc` of register n (R388). -/
def mtcWord (a : Reg) (n : Nat) : Nat := 0x2003F + a.val * 2 ^ 12 + n * 2 ^ 20

/-- The Pan that WMSEL selects is not the partition's (R206). -/
def State.wmForeign (s : State) : Bool := !s.ownsPan s.t.ident.part (fieldOf s.t.ctl.wmsel 12 3)

/-- `mfc`: reads a control register; a partition register comes from the launch unit (R80, R206, R389). -/
def execMfc (d : Reg) (c : BitVec 12) (s : State) : Result :=
  let n := c.toNat
  cregIssue n false (mfcWord d c) [d] [] s fun s =>
    let l := s.resultLabel [] ||| (if n = 0x003 then s.t.ctl.seedLabel else 0)
    if n = 0x061 ∧ s.wmForeign then .next (s.fail .prot 0 0 [] 0)
    else if isPartReg n then
      let (fid, s) := s.newHeldFill [d] 0 l 0 (.partRead n) true false
      .next ((s.schedule (s.time.cycle + leg 1) (.resultFill fid)).goOn true 4)
    else .next ((s.write d (s.cregValue n) l).retire 4)

/-! ## Writing -/

/-- Replaces the control registers of the thread at its turn. -/
def State.setCtl (s : State) (c : Ctl) : State := { s with t := { s.t with ctl := c } }
/-- Replaces the trap registers of the thread at its turn. -/
def State.setTrap (s : State) (r : TrapRegs) : State := { s with t := { s.t with trap := r } }

/-- The clamped value of HBINT (R79). -/
def hbintOf (v : Word) : Nat := max (2 ^ 16) (min (2 ^ 30) (fieldOf v 0 31))

/-- NESTSTATEk with the RW fields of a value (R131). -/
def nestWrite (k : Nat) (old v : Word) : Word :=
  if k = 0 then keepBits v 0 56 ||| keepBits v 63 64
  else if k = 1 then v
  else if k = 2 then keepBits v 0 62 ||| keepBits old 62 63
  else keepBits v 0 60

/-- Replaces counter k of R413 for the partition of the thread at its turn, if it has one (assumption 30). -/
def State.setPerf (s : State) (k : Nat) (v : Word) : State :=
  s.modPart s.t.ident.part fun p => { p with perf := p.perf.set k v.toNat }

/-- Writes the RW fields of a control register that has no row of its own (R78, R79, R387). Device mode also writes the registers
that are read-only elsewhere, where they have no read-only fields of R83. -/
def State.cregWrite (s : State) (n : Nat) (v : Word) : State :=
  let c := s.t.ctl
  let r := s.t.trap
  if n = 0x001 then s.setCtl { c with clabel := v.setWidth 32 }
  else if 0x018 ≤ n ∧ n ≤ 0x01F then
    let k := 2 * (n - 0x018)
    s.setCtl { c with vclock := if k < 12 then (c.vclock.set k (fieldOf v 0 32)).set (k + 1) (fieldOf v 32 32) else c.vclock }
  else if 0x020 ≤ n ∧ n ≤ 0x027 then s.setPerf (n - 0x020) v
  else if 0x010 ≤ n ∧ n ≤ 0x013 then
    let k := n - 0x010
    s.setCtl { c with nest := c.nest.set k (nestWrite k (c.nest.getD k 0) v) }
  else if n = 0x030 then s.setCtl { c with hbint := hbintOf v }
  else if n = 0x032 then s.setCtl { c with slotTimer := fieldOf v 0 32 }
  else if n = 0x040 then s.setTrap { r with pc := keepBits v 1 56 }
  else if n = 0x041 then s.setTrap { r with code := keepBits v 0 10 }
  else if n = 0x042 then s.setTrap { r with addr := v }
  else if n = 0x043 then s.setTrap { r with info := v }
  else if n = 0x044 then s.setTrap { r with vec := keepBits v 1 56 }
  else if n = 0x048 then s.setTrap { r with saveptr := keepBits v 9 56 }
  else if n = 0x060 then s.setCtl { c with wmsel := keepBits v 0 15 }
  else s

/-- `mtc` (R389): the checks of R78, the source's label into CLABEL, and the write. -/
def mtc (n : Nat) (a : Reg) (s : State) (k : State → Word → Result) : Result :=
  cregIssue n true (mtcWord a n) [] [(a, false)] s fun s => k s (s.val a)

/-- `mtc` of a control register without a row of its own (R389). -/
def execMtc (a : Reg) (c : BitVec 12) (s : State) : Result :=
  mtc c.toNat a s fun s v =>
    let l := s.lbl a
    if isPartReg c.toNat then .next ((s.joinClabel l).sendPartReg c.toNat v)
    else .next (((s.cregWrite c.toNat v).joinClabel l).retire 4)

/-- `mtc STATUS`: RM, FLAGS and FPEN are written and FENCE_DEMOTED clears where a holds 1; a reserved rounding mode traps
with ILLEGAL (R81). -/
def execMtcStatus (a : Reg) (s : State) : Result :=
  mtc 0x000 a s fun s v =>
    if 5 ≤ fieldOf v 2 3 then .next (s.fail .illegal 0 (BitVec.ofNat 64 (mtcWord a 0x000)) [a] 0)
    else
      let old := s.t.ctl.status
      let new := putField old 2 13 (fieldOf v 2 13)
      let new := if fieldOf v 15 1 = 1 then putField new 15 1 0 else new
      let l := s.lbl a
      .next (((s.setCtl { s.t.ctl with status := new }).joinClabel l).retire 4)

/-- `mtc LIVE` (R258, R389). -/
def execMtcLive (a : Reg) (s : State) : Result :=
  mtc 0x002 a s fun s v =>
    let l := s.lbl a
    .next (((s.setCtl { s.t.ctl with live := v.setWidth 32 &&& ~~~1 }).joinClabel l).retire 4)

/-- `mtc SEED`: 0 is stored as 1, and SEED's label is that of the source joined with CLABEL (R162, R389). -/
def execMtcSeed (a : Reg) (s : State) : Result :=
  mtc 0x003 a s fun s v =>
    let l := s.lbl a ||| s.t.ctl.clabel
    .next ((s.setCtl { s.t.ctl with seed := if v = 0 then 1 else v, seedLabel := l }).retire 4)

/-- `mtc DEFTRAPVEC`, performed at the launch unit (R80, R387). -/
def execMtcDeftrapvec (a : Reg) (s : State) : Result :=
  mtc 0x050 a s fun s v =>
    let l := s.lbl a
    .next ((s.joinClabel l).sendPartReg 0x050 (keepBits v 1 56))

/-- `mtc HTBASE`: PROT unless the value is 0 or an 8 KiB-aligned global address (R49, R389). -/
def execMtcHtbase (a : Reg) (s : State) : Result :=
  mtc 0x051 a s fun s v =>
    let l := s.lbl a
    if v ≠ 0 ∧ (fieldOf v 0 13 ≠ 0 ∨ classify 0 v.toNat ≠ .global) then .next (s.fail .prot 0 0 [a] 0)
    else .next ((s.joinClabel l).sendPartReg 0x051 v)

/-- A base that a fault queue may have (R392). -/
def State.fqbaseOk (s : State) (v : Word) : Bool :=
  v = 0 || (0x0081000000000000 ≤ v.toNat && v.toNat < 0x0081000800000000 && v.toNat % 2 ^ 32 < 2 ^ 25 &&
    fieldOf v 0 6 = 0 && fieldOf v 0 13 ≤ 0x0FC0 && s.ownsPan s.t.ident.part (bitsAt v.toNat 32 3))

/-- `mtc FQBASE`: PROT unless the value is 0 or meets R392; WR becomes 0 and the header is written (R389, R392). -/
def execMtcFqbase (a : Reg) (s : State) : Result :=
  mtc 0x053 a s fun s v =>
    let l := s.lbl a
    if !s.fqbaseOk v then .next (s.fail .prot 0 0 [a] 0)
    else .next ((s.joinClabel l).sendPartReg 0x053 v)

/-- The entry that a value of WMDATA describes (R205). -/
def mapEntryOf (p n page : Nat) (v : Word) : MapEntry :=
  ⟨p, n, page, fieldOf v 0 1 = 1, fieldOf v 1 1 = 1, fieldOf v 2 1 = 1, false, fieldOf v 4 7, fieldOf v 11 5,
    BitVec.ofNat 32 (fieldOf v 32 32)⟩

/-- Zeroes a frame of a Pan store and sets its tags full (R371). -/
def Memory.clearFrame (m : Memory) (n cellar frame : Nat) : Memory :=
  let lo := panKey n (cellar * 2 ^ 18 + frame * 8192)
  { m with
    pan := cellsClear m.pan lo (lo + 8192)
    empties := m.empties.filter fun k => !(lo ≤ k && k < lo + 8192)
    badWords := m.badWords.filter fun k => !(lo ≤ k && k < lo + 8192)
    softWords := m.softWords.filter fun k => !(lo ≤ k && k < lo + 8192) }

/-- A frame of a Pan is zeroed with its tags full, and what waits on a tag or a word there goes on (R224, R326, R371). -/
def State.clearFrame (s : State) (n cellar frame : Nat) : State :=
  let lo := cellar * 2 ^ 18 + frame * 8192
  { s with mem := s.mem.clearFrame n cellar frame }.tagsSet n lo (lo + 8192)

/-- A range belongs to a command that runs: one that waits or has halted has translated nothing (R206, R440). -/
def State.rangeRuns (s : State) (r : Range) : Bool :=
  s.engines.any fun e => e.place = r.engine && e.cmds.any fun c => c.id = r.cmd && (c.state == .started || c.state == .landed)

/-- Work translated under a window-map entry has not yet been performed or retired (R206). -/
def State.underPage (s : State) (p n page : Nat) : Bool :=
  (s.fab.accs.any fun a => a.part = p && a.state != .performed && a.pages.contains page && (match a.loc with
    | .pan m _ => m = n
    | .hbm _ => false)) ||
  s.fab.ranges.any fun r => r.active && r.part = p && r.pan = n && r.first ≤ page && page ≤ r.last && s.rangeRuns r

/-- The refusals of a write to a map (R206). -/
def State.mapRefused (s : State) (old new : MapEntry) : Bool :=
  let cellars := match s.part? new.part with
    | some x => x.own.cellars.getD new.pan 0
    | Option.none => 0
  (new.valid && (!cellars.testBit new.cellar || s.mem.maps.any fun e =>
    e.part = new.part && e.pan = new.pan && e.page ≠ new.page && e.valid && e.cellar = new.cellar && e.frame = new.frame)) ||
  (new.label ≠ old.label && new.label ≠ partLabel new.part)

/-- `mtc WMDATA`: writes the selected entry of a Pan's map after the checks of R206, waiting while the page moves and for
what was translated under the old entry; replacing another partition's label clears the old frame (R371). -/
def execMtcWmdata (a : Reg) (s : State) : Result :=
  mtc 0x061 a s fun s v =>
    let p := s.t.ident.part
    let n := fieldOf s.t.ctl.wmsel 12 3
    let page := fieldOf s.t.ctl.wmsel 0 12
    let old := s.mapEntry p n page
    let new := mapEntryOf p n page v
    let l := s.lbl a
    if s.wmForeign || s.mapRefused old new then .next (s.fail .prot 0 0 [a] 0)
    else if old.moving then .next s.idle
    else if s.underPage p n page then .next (s.hold .waits)
    else
      let s := if new.label = partLabel p ∧ !labelLe old.label (partLabel p) then
          s.clearFrame n old.cellar old.frame
        else s
      .next (((s.setMapEntry new).joinClabel l).retire 4)

/-! ## Labels (R382) -/

/-- Writes the label of a register to d, labelled with itself and CLABEL (R382). -/
def State.writeLabel (s : State) (d : Reg) (l : Label) : State :=
  (s.write d (l.setWidth 64) (s.resultLabel [] ||| l)).retire 4

/-- `lbl` of a general register (R382). -/
def execLbl (d a : Reg) (ta _tb : Bool) (s : State) : Result :=
  s.issue { Uses.none with dests := [d], srcs := [(a, ta)] } fun s => .next (s.writeLabel d (s.lbl a))

/-- `lbl` of a vector register (R382). -/
def execLblV (d : Reg) (a : VReg) (_ta _tb : Bool) (s : State) : Result :=
  s.issue { Uses.none with away := !s.t.atOrigin, vec := true, dests := [d], vsrcs := [a] } fun s =>
    .next (s.writeLabel d (s.t.claim.regs.getD a.val ⟨[], true, 0⟩).label)

/-- `lbl` of a mask register (R382). -/
def execLblM (d : Reg) (a : MReg) (_ta _tb : Bool) (s : State) : Result :=
  s.issue { Uses.none with away := !s.t.atOrigin, vec := true, dests := [d] } fun s =>
    .next (s.writeLabel d (s.t.claim.masks.getD a.val ⟨[], 0⟩).label)

/-- `lbl` of SEED (R382). -/
def execLblS (d : Reg) (_ta _tb : Bool) (s : State) : Result :=
  s.issue { Uses.none with dests := [d] } fun s => .next (s.writeLabel d s.t.ctl.seedLabel)

end Sys2Proof.Machine
end

