-- ==== Sys2Proof/Machine/FabricEvents.lean ====
section
/-! DEFINITION. The steps of the fabric: bank grants, results, posted writes, translation, L2 fills, the causal clocks,
and migration (R106, R208 to R224, R235 to R256, R343 to R346). -/

namespace Sys2Proof.Machine

open Sys2Proof

/-! ## Banks and results -/

/-- The cycles that a granted request waited are counted (R413). -/
def State.countWait (s : State) (a : Acc) : State := s.count a.part (s.gangOf a.uid) 4 (s.time.cycle - a.due)

/-- A granted request is performed, and the cycles it waited are counted (R213, R413). -/
def State.grant (s : State) (id : Nat) : State :=
  match s.acc? id with
  | none => s
  | some a => (s.countWait a).perform a (fillDelay a.klass)

/-- A pair of words in two banks is served over two cycles (R319). -/
def MemOp.isPair (op : MemOp) : Bool :=
  match op with
  | .cas2 _ _ _ _ => true
  | .amo _ _ _ | .cas _ _ | .park _ _ | .claimNest _ _ _ | .push _ _ | .pop | .steal | .red _ _ _ | .load _ _ | .loadWord _
  | .ldff | .tagr
  | .vload _ _ _ _ | .store _ _ | .storeWords _ | .ldfe | .stfe _ | .stff _ | .tagw _ | .vstore _ _ _
  | .wakeSlots _ _ _ | .setvat _ _ => false

/-- One cycle of a bank's arbiter (R208 to R211): the requests that are held leave its queue, the first requesting input
at or after the pointer is granted with the reads that combine with it, and the bank is looked at again while requests
are left. It serves one cycle's grant in a cycle; a pair takes a second cycle, in which its upper bank serves nothing else
(R319). -/
def State.arbitrate (s : State) (pan bank : Nat) : State :=
  let b := s.bank pan bank
  let c := s.time.cycle
  match b.pair with
  | some id =>
    if c + 1 < b.busyTo then s.scheduleOnce (b.busyTo - 1) (.bankArbitration pan bank)
    else
    let s := (s.setBank { b with pair := none }).scheduleOnce (c + 1) (.bankArbitration pan bank)
    match s.acc? id with
    | some a => s.perform a (fillDelay a.klass)
    | none => s
  | none =>
    if c < b.busyTo || b.pairAt = c then s.scheduleOnce (max b.busyTo (c + 1)) (.bankArbitration pan bank)
    else
      let here := b.queue.filterMap s.acc?
      let away := here.filter fun a => a.due ≤ c && s.blocked a
      let s := away.foldl State.holdAcc s
      let b := { b with queue := b.queue.filter fun id => !away.any fun a => a.id = id }
      let cands := here.filter fun a => a.due ≤ c && !away.any fun x => x.id = a.id
      let cands := cands.filter fun a => !cands.any fun x => x.dequeBefore a || x.heldBefore a
      match (roundRobin 40 b.pointer fun i => (presented b cands i).isSome).bind (presented b cands) with
      | none => s.setBank b
      | some a =>
        let more := if s.plainRead a then s.combined b cands a else []
        let b := { (a :: more).foldl Bank.granted b with pointer := (a.input + 1) % 40, busyTo := c + 1 }
        let s := if (cands.filter fun x => x.id ≠ a.id && !more.any fun y => y.id = x.id).isEmpty then s
          else s.scheduleOnce (c + 1) (.bankArbitration pan bank)
        if a.op.isPair then
          let s := (s.setBank { b with busyTo := c + 2, pair := some a.id }).countWait a
          let s := s.scheduleOnce (c + 1) (.bankArbitration pan bank)
          s.setBank { s.bank pan (bank + 1) with pairAt := c + 1 }
        else (a :: more).foldl (fun (s : State) x => s.grant x.id) (s.setBank b)

/-- `BANK_ARBITRATION` (R208 to R211, R213, R224). -/
def execBankArbitration (pan bank : Nat) (s : State) : Result := .next (s.arbitrate pan bank)

/-- The DATAERR that a result with an uncorrectable error makes pending (R217). -/
def fillError (f : Fill) (va : Word) (part : Nat) : AsyncTrap :=
  let r := match f.kind with
    | .vector v _ _ => v.val
    | .plain | .nest _ _ | .claim | .reply | .phase _ _ | .ticket _ _ _ | .census _ | .partRead _ | .partWrite _ _
    | .fork _ _ _ _ | .join _ _ _ _ => ((f.regs[part]?).getD (f.regs.getD 0 0)).val
  ⟨.dataerr, va &&& ~~~7, BitVec.ofNat 64 (r + 32), f.label⟩

/-- The state that `nest` opens when its descriptor's words arrive (R133). -/
def Thread.openNest (t : Thread) (f : Fill) (desc : Word) : Thread :=
  let w (k : Nat) : Word := f.vals.getD k 0
  let e (k : Nat) : Nat := fieldOf (w 1) (16 * k) 16
  let total := e 0 * e 1 * e 2 * e 3
  let d := f.regs.getD 0 0
  let p := w 2
  let t := t.joinClabel f.join
  let l := f.label ||| t.ctl.clabel
  if fieldOf p 14 2 ≠ 0 ∨ fieldOf p 28 36 ≠ 0 ∨ w 3 ≠ 0 ∨ 2 ^ 48 ≤ total then
    (t.setNest 0 (putField (t.nestWord 0) 63 1 0)).write d (-1) l
  else
    let t := t.setNest 0 (putField desc 63 1 1)
    let t := t.setNest 1 (w 1)
    let t := t.setNest 2 (BitVec.ofNat 64 (fieldOf p 0 14 * 2 ^ 48))
    let t := t.setNest 3 (BitVec.ofNat 64 (fieldOf p 16 8 * 2 ^ 48 + fieldOf p 24 4 * 2 ^ 56))
    t.write d (BitVec.ofNat 64 total) l

/-- The chunk that a claim of `next` delivers (R134), or zeros where it met an uncorrectable error (R217, R321). -/
def Thread.takeChunk (t : Thread) (f : Fill) : Thread :=
  let base := (f.vals.getD 0 0).toNat
  let n := (f.vals.getD 1 0).toNat
  let d := f.regs.getD 0 0
  let t := (t.joinClabel f.join).setNest 2 (putField (t.nestWord 2) 62 1 0)
  let l := f.label ||| t.ctl.clabel
  if f.err.isSome then f.regs.foldl (fun (t : Thread) r => t.write r 0 l) t
  else if n = 0 then
    let t := t.setNest 0 (putField (t.nestWord 0) 63 1 0)
    f.regs.foldl (fun (t : Thread) r => t.write r 0 l) t
  else
    let t := t.setNest 2 (putField (t.nestWord 2) 0 48 (base + 1))
    let t := t.setNest 3 (putField (t.nestWord 3) 0 48 (base + n))
    t.unpackNest d base l

/-- A result reaches its thread: registers, labels, DATAERR, and the thread's return to rotation (R73, R106, R217). -/
def Thread.filled (t : Thread) (f : Fill) : Thread :=
  let t :=
    match f.kind with
    | .plain => (List.zip f.regs f.vals).foldl (fun (t : Thread) (x : Reg × Word) => t.write x.1 x.2 f.label) (t.joinClabel f.join)
    | .reply | .partRead _ | .partWrite _ _ | .fork _ _ _ _ | .join _ _ _ _ => t.joinClabel f.join
    | .phase _ _ | .ticket _ _ _ =>
      (List.zip f.regs f.vals).foldl (fun (t : Thread) (x : Reg × Word) => t.write x.1 x.2 f.label) (t.joinClabel f.join)
    | .census id =>
      let t := (List.zip f.regs f.vals).foldl (fun (t : Thread) (x : Reg × Word) => t.write x.1 x.2 f.label) t
      match t.prog with
      | .results d n l => if id = 0 then t else { t with prog := .results d n (l ||| f.label) }
      | .fresh | .counting _ | .asked _ | .answered _ _ | .stage _ _ _ | .waits | .discards _ => t
    | .nest desc _ => t.openNest f desc
    | .claim => t.takeChunk f
    | .vector v _ _ =>
      let t := t.joinClabel f.join
      { t with claim := { t.claim with regs := t.claim.regs.set v.val ⟨f.velems, true, f.label⟩ } }
  let fails : Bool := match f.err with
    | some (_, _, filled) => !filled
    | none => false
  let t :=
    match f.err with
    | some (va, _, false) => { t with late := some (⟨trapNumber .dataerr, va &&& ~~~7, 0, f.label⟩ : LateFault) }
    | some (_, _, true) | none => t
  let t :=
    match f.err with
    | some (va, k, true) => t.addPending (fillError f va k)
    | some (_, _, false) | none => t
  let advance := f.advance && !fails
  let t := if advance then { t with pc := t.pc + 4, proxy := false } else t
  if f.resume then
    { t with run := if t.run.stopped then t.run else .ready
             prog := if advance then .fresh else t.prog
             transit := none }
  else t

/-- PHASE of a gang's barrier (R330). -/
def State.phaseOf (s : State) (g n : Nat) : Nat :=
  match s.gang? g with
  | some x => ((x.bars[n]?).map Barrier.phase).getD 0
  | none => 0

/-- LB of a gang's barrier (R330). -/
def State.barLabel (s : State) (g n : Nat) : Label :=
  match s.gang? g with
  | some x => ((x.bars[n]?).map Barrier.lb).getD 0
  | none => 0

/-- A result stands for a request that has reached the launch unit (R80). -/
def FillKind.atUnit (k : FillKind) : Bool :=
  match k with
  | .partRead _ | .partWrite _ _ => true
  | .plain | .nest _ _ | .claim | .vector _ _ _ | .reply | .phase _ _ | .ticket _ _ _ | .census _ | .fork _ _ _ _ | .join _ _ _ _ => false

/-- A request for a partition register is performed at the launch unit, and its answer leaves a cycle later (R80). -/
def State.partRequest (s : State) (f : Fill) : State :=
  let part := match s.thread f.uid with
    | some t => t.ident.part
    | none => 32
  match f.kind with
  | .partRead n =>
    (s.modFill f.id fun x => { x with vals := [s.partRegValue part n], kind := .plain }).schedule (s.time.cycle + 1 + leg 2) (.resultFill f.id)
  | .partWrite n v =>
    ((s.setPartReg part n v).modFill f.id fun x => { x with kind := .reply }).schedule (s.time.cycle + 1 + leg 1) (.resultFill f.id)
  | _ => s

/-- `cwait` is over when no result of a census is outstanding for its thread: d becomes the count (R105, R365). -/
def Thread.endCwait (t : Thread) : Thread :=
  match t.run, t.prog with
  | .reply, .results d n l =>
    let t := t.joinClabel l
    { t.write d (BitVec.ofNat 64 n) (t.ctl.clabel ||| t.patched) with pc := t.pc + 4, run := .ready, prog := .fresh }
  | _, _ => t

/-- A result that a migration has discarded still counts for a `cwait` that awaits it, with its label (R245, R365). -/
def Thread.censusArrived (t : Thread) (f : Fill) : Thread :=
  match f.kind, t.prog with
  | .census id, .results d n l => if id = 0 then t else { t with prog := .results d n (l ||| f.label) }
  | _, _ => t

/-- The last result of a census has arrived for a thread that waits in `cwait` (R365). -/
def State.cwaitDone (s : State) (uid : Nat) : State :=
  let census (f : Fill) : Bool := f.uid = uid && (match f.kind with
    | .census id => id ≠ 0
    | _ => false)
  if s.fab.fills.any census then s else s.modThread uid Thread.endCwait

/-- `RESULT_FILL`: a delayed result arrives (R106); a discarded one changes nothing (R245), and one for a saved context
waits for its re-placement (R394, R397). -/
def execResultFill (fill : Nat) (s : State) : Result :=
  match s.fill? fill with
  | none => .next s
  | some f =>
    let away : Bool := match s.thread f.uid with
      | some t => t.run == .saved || t.run == .fencedAway
      | none => false
    if away then .next (s.schedule (s.time.cycle + 64) (.resultFill fill))
    else if f.kind.atUnit then .next (s.partRequest f)
    else
      let s := s.dropFill fill
      let f := match f.kind with
        | .phase g n => { f with
            vals := f.vals.map fun v => v ||| BitVec.ofNat 64 (s.phaseOf g n * 2 ^ 16)
            label := f.label ||| s.barLabel g n, join := f.join ||| s.barLabel g n }
        | .plain | .reply | .nest _ _ | .claim | .vector _ _ _ | .ticket _ _ _ | .census _ | .partRead _ | .partWrite _ _
        | .fork _ _ _ _ | .join _ _ _ _ => f
      let away : Bool := match s.thread f.uid with
        | some t => t.run == .transit
        | none => false
      if f.kind.isTask then .next ((s.modThread f.uid fun t => t.filled f).taskFill f)
      else .next (if f.discard && !away then (s.modThread f.uid fun t => t.censusArrived f).cwaitDone f.uid
        else (s.modThread f.uid fun t => t.filled (if f.discard then { f with err := none } else f)).cwaitDone f.uid)

/-! ## Posted writes and proxied accesses -/

/-- A burst that arrives at a Pan store is split into its words, each presented to its own bank, a cycle later beyond a row wrap
(R215, R254). -/
def State.splitWords (s : State) (a : Acc) (vs : List Word) : State :=
  (List.range vs.length).foldl (fun s k =>
    let v := vs.getD k 0
    let va := a.va + BitVec.ofNat 64 (8 * k)
    let due := s.time.cycle + rowWrap a.loc (8 * k)
    if k = 0 then
      let a := { a with op := .store 8 v }
      (s.modAcc a.id fun _ => a).present a
    else
      let (id, s) := s.fresh
      let b := { a with id := id, op := .store 8 v, va := va, loc := a.loc.plus (8 * k), due := max a.due due }
      { s with fab := { s.fab with accs := s.fab.accs ++ [b] } }.present b) s

/-- A posted write whose causal past and order allow it goes to its bank or slice (R254, R343). -/
def State.release (s : State) (a : Acc) : State :=
  let a := { a with due := max a.due s.time.cycle }
  match a.op, a.loc with
  | .wakeSlots _ _ _, _ => s.push (.postedWakeArrival a.id)
  | .storeWords vs, .pan _ _ => s.splitWords a vs
  | _, _ => s.present a

/-- A write that came by a link waits for an earlier one of its port, on whatever die it lies (R347). -/
def Acc.afterOnLink (a b : Acc) : Bool := a.port.isSome && b.port = a.port && b.id < a.id && b.state != .performed

/-- A cross-die write can be applied: it is next of its pair of dies, its causal past has been applied, and a write that came by
a link follows those before it (R343, R347). -/
def State.applicable (s : State) (a : Acc) : Bool :=
  !a.cross || (!(s.fab.accs.any a.afterOnLink) && (s.die a.loc.die).pairDone.getD a.srcDie 0 = a.pair && s.causalOk a.loc.die a.clock a.srcDie)

/-- An arrived posted write goes on, or waits for the writes before it (R343). -/
def State.arrive (s : State) (a : Acc) : State :=
  if s.applicable a then s.release a else s.modAcc a.id fun a => { a with state := .arrived }

/-- `POSTED_WRITE_ARRIVAL` (R254, R255, R343). -/
def execPostedWriteArrival (acc : Nat) (s : State) : Result :=
  match s.acc? acc with
  | none => .next s
  | some a => .next (s.arrive a)

/-- `CROSS_DIE_WRITE_APPLY`: the writes of a pair of dies that wait are released in their order (R343). -/
def execCrossDieWriteApply (src dst : Nat) (s : State) : Result :=
  match s.fab.accs.find? fun a => a.state == .arrived && a.srcDie = src && a.loc.die = dst && s.applicable a with
  | none => .next s
  | some a => .next ((s.modAcc a.id fun a => { a with state := .sent }).release a)

/-- `PROXIED_ACCESS`: a proxied request arrives at its home and is performed there (R252). -/
def execProxiedAccess (acc : Nat) (s : State) : Result :=
  match s.acc? acc with
  | none => .next s
  | some a => .next (s.present { a with due := max a.due s.time.cycle })

/-- `POSTED_WRITE_ACK`: an acknowledgement returns (R254, R315). -/
def execPostedWriteAck (acc : Nat) (s : State) : Result :=
  match s.acc? acc with
  | none => .next s
  | some a =>
    let s := s.dropAcc acc
    .next (if a.op.isRed then s.modThread a.uid fun t => { t with ctl := { t.ctl with pendred := t.ctl.pendred - 1 } }
      else s)

/-! ## Translation (R235, R236) -/

/-- The cycles of a walk: each read takes the time of R241 and its legs (R450). -/
def State.walkTime (s : State) (hub p va : Nat) : Nat :=
  (s.walkReads p va).foldl (fun n pa =>
    let n := n + (if s.mem.cached pa then 12 else 168)
    if channelOf pa / 64 = hub then n + leg 1 + leg 2 else n + 2 * (leg 1 + leg 2)) 0

/-- The kind of a translation request (R236). -/
def reqKind (k : Nat) : AccKind := ⟨k = 0 || k = 3, k = 1 || k = 3, k = 2⟩

/-- The gang that a translation request serves, to which the sectors of its walk are attributed (R413). -/
def State.reqGang (s : State) (q : TransReq) : Nat :=
  match q.dest with
  | .posted uid => s.gangOf uid
  | .hop uid => s.gangOf uid
  | .migrate uid => s.gangOf uid
  | .fetch r => ((s.fetch.reads.find? fun x => x.id = r).map FetchRead.gang).getD 0

/-- The cycles that a walk still waits at the memory controllers for the table entries that it reads (R409, R412). -/
def State.walkWait (s : State) (p va : Nat) : Nat := (s.walkReads p va).foldl (fun n pa => max n (s.fillWait p pa false)) 0

/-- The answer of a hub to a request, which its cache now holds (R235, R236). -/
def State.reqAnswer (s : State) (q : TransReq) : TransAnswer × State :=
  match s.translate q.hub q.part (s.reqGang q) q.va (reqKind q.kind) q.task with
  | (.ok (pa, l), s) => (.leaf pa l, s)
  | (.error (c, info), s) => (.fail (trapNumber c) info, s)

/-- A thread out of rotation returns to it at a cycle (R254, R247). -/
def State.replyAt (s : State) (uid c : Nat) : State :=
  let (id, s) := s.fresh
  let f : Fill := ⟨id, uid, [], [], 0, 0, 0, .reply, true, false, none, false, 0, []⟩
  { s with fab := { s.fab with fills := f :: s.fab.fills } }.schedule c (.resultFill id)

/-- The flits of a thread's migration packet (R246). -/
def Thread.flits (t : Thread) (carried : BitVec 32) : Nat :=
  packetFlits (onesBelow 32 carried.toNat) (t.pending.filter fun a => a.kind != .timer).length

/-- The results that a departing thread left behind fill its registers after all (R247, R252). -/
def State.keepFills (s : State) (uid : Nat) : State :=
  let back (f : Fill) : Fill := if f.uid = uid && !f.regs.isEmpty then { f with discard := false } else f
  { s with fab := { s.fab with fills := s.fab.fills.map back } }

/-- The answer to a translation that a thread in transit waits for: its packet goes on to the home hub, or the
instruction returns with its fault (R247). -/
def State.migrateAnswer (s : State) (q : TransReq) (uid : Nat) (a : TransAnswer) : State :=
  let s := s.dropReq q.id
  match s.thread uid with
  | none => s
  | some t =>
    match t.transit, a with
    | none, _ => s
    | some x, .leaf pa _ =>
      let f := t.flits x.carried
      let extra := if channelOf pa / 64 = q.hub then 0 else 2 * leg f
      let x := { x with core := homeCore pa, legs := leg f + 4 + extra }
      (s.modThread uid fun t => { t with transit := some x }).schedule (s.time.cycle + extra) (.migrationArrival uid)
    | some x, .fail code info =>
      let s := (s.keepFills uid).modThread uid fun t => { t with late := some ⟨code, q.va, info, x.label⟩ }
      s.replyAt uid (s.time.cycle + leg (t.flits x.carried))

/-- A hub's answer leaves for its requester (R236). -/
def State.deliverAnswer (s : State) (q : TransReq) (a : TransAnswer) : State :=
  match q.dest with
  | .posted uid =>
    let s := { s with trans := { s.trans with reqs := s.trans.reqs.map fun (x : TransReq) =>
      if x.id = q.id then { x with answer := some a, walking := false } else x } }
    s.replyAt uid (s.time.cycle + leg 1)
  | .hop uid => s.migrateAnswer q uid a
  | .migrate uid => s.migrateAnswer q uid a
  | .fetch r => (s.dropReq q.id).fetchAnswer r q.hub a

/-- A walk of a request begins when its hub has a walker free: 64 at each hub (R236). -/
def State.startWalk (s : State) (q : TransReq) : State :=
  if 64 ≤ (s.trans.reqs.filter fun x => x.hub = q.hub && x.walking).length then s
  else
    let s := { s with trans := { s.trans with reqs := s.trans.reqs.map fun (x : TransReq) =>
      if x.id = q.id then { x with walking := true } else x } }
    s.schedule (s.time.cycle + s.walkTime q.hub q.part q.va.toNat) (.translationWalkDone q.id)

/-- `TRANSLATION_REQUEST`: a request reaches its hub: a hit is answered 4 cycles later, a miss takes a walker, in the order of
arrival (R236). -/
def execTranslationRequest (req : Nat) (s : State) : Result :=
  match s.trans.reqs.find? fun q => q.id = req with
  | none => .next s
  | some q =>
    if (s.hubLeaf q.hub q.part q.va.toNat).isSome then
      .next (s.schedule (s.time.cycle + 4) (.translationWalkDone req))
    else
      let q := { q with missed := true }
      let s := { s with trans := { s.trans with reqs := (s.trans.reqs.filter fun (x : TransReq) => x.id ≠ req) ++ [q] } }
      .next (s.startWalk q)

/-- `TRANSLATION_WALK_DONE`: a walk, or the hub's lookup of a hit, ends: the answer leaves, and the oldest miss that
waits takes the walker (R235, R236). -/
def execTranslationWalkDone (walk : Nat) (s : State) : Result :=
  match s.trans.reqs.find? fun q => q.id = walk with
  | none => .next s
  | some q =>
    let wait := if q.walking then s.walkWait q.part q.va.toNat else 0
    if wait ≠ 0 then .next (s.schedule (s.time.cycle + wait) (.translationWalkDone walk))
    else
      let s := if q.walking && (s.hubLeaf q.hub q.part q.va.toNat).isSome then s.walkInstall q.part (s.reqGang q) q.va.toNat else s
      let (a, s) := s.reqAnswer q
      let s := s.deliverAnswer q a
      if q.walking then
        match s.trans.reqs.find? fun x => x.hub = q.hub && !x.walking && x.answer.isNone && x.missed with
        | some x => .next (s.startWalk x)
        | none => .next s
      else .next s

/-! ## L2 fills and the memory controllers (R239 to R241, R409 to R411) -/

/-- The burst that a channel serves: the device manager's before every partition's; of the partitions below their minimum, or of
all where there is none, that whose turn it is; and of it the oldest (R409). -/
def State.served (s : State) (ch : Nat) : Option L2Fill :=
  let all := s.asking ch
  let low := all.filter fun f => s.belowMin ch f.part
  let first := all.filter fun f => f.part = devicePart
  let pool := if !first.isEmpty then first else if low.isEmpty then all else low
  match roundRobin 33 (rrGet s.ctrl.served ch) fun p => pool.any fun f => f.part = p with
  | none => none
  | some p => (pool.filter fun f => f.part = p).foldl (fun (b : Option L2Fill) f => match b with
    | some x => if f.due < x.due || (f.due = x.due && f.id < x.id) then some f else b
    | none => some f) none

/-- The burst of a fill is read, unless the partition's regulator holds it until the next window, the channel is still moving
what it was given, or another burst comes first (R239, R409, R410). -/
def State.burst (s : State) (f : L2Fill) : State :=
  let ch := lineSlice f.line
  if s.capped ch f.part then { s with ctrl := { s.ctrl with held := s.ctrl.held ++ [f.id] } }
  else if s.behind ch ≠ 0 then s.schedule (s.time.cycle + s.behind ch) (.l2FillBurst f.id)
  else if (s.served ch).any fun x => x.id ≠ f.id then s.schedule (s.time.cycle + 1) (.l2FillBurst f.id)
  else
    let gang := match f.waiting.head?.bind s.acc? with
      | some a => s.gangOf a.uid
      | none => 0
    let s := s.countSectors ch f.part gang (onesBelow 8 f.sectors)
    let s := { s with ctrl := { s.ctrl with served := rrSet s.ctrl.served ch ((f.part + 1) % 33) } }
    { s with mem := { s.mem with l2fills := s.mem.l2fills.map fun (x : L2Fill) => if x.id = f.id then { x with sent := true } else x } }.schedule
      (s.time.cycle + 150) (.hbmFillReturn f.id)

/-- `L2_FILL_BURST`: 16 cycles after a fill opens its sectors are read as one burst (R239). -/
def execL2FillBurst (fill : Nat) (s : State) : Result :=
  match s.mem.l2fills.find? fun f => f.id = fill && !f.sent with
  | none => .next s
  | some f => .next (s.burst f)

/-- A waiting access of a fill is performed when the data of its last sector arrives, unless it is held (R239, R241). -/
def State.serveFill (s : State) : List Nat → State
  | [] => s
  | id :: ids =>
    match s.acc? id with
    | none => s.serveFill ids
    | some a =>
      let more := s.mem.l2fills.any fun f => f.waiting.contains id
      (if more then s else if s.blocked a then s.holdAcc a else s.perform a 0).serveFill ids

/-- The ways that a fill may take (R238). -/
def State.fillMask (s : State) (f : L2Fill) : Nat := s.waysOf f.part f.noalloc

/-- `HBM_FILL_RETURN`: the sectors of a fill return, are checked, and serve what waited for them (R239, R240); a fill that
chooses a way not yet swept waits (R412). -/
def execHbmFillReturn (fill : Nat) (s : State) : Result :=
  match s.mem.l2fills.find? fun f => f.id = fill with
  | none => .next s
  | some f =>
    if s.unswept f.line (s.fillMask f) then .next (s.schedule (s.time.cycle + 4) (.hbmFillReturn fill))
    else
      let mask := s.fillMask f
      let s := { s with mem := { s.mem with l2fills := s.mem.l2fills.filter fun x => x.id ≠ fill } }
      .next ((s.install f.line f.sectors mask).serveFill f.waiting)

/-- `REGULATOR_WINDOW`: a window of 1,400 cycles begins: counts restart, deratings take effect, and held bursts are
looked at again (R409, R411). -/
def execRegulatorWindow (s : State) : Result :=
  let c := s.ctrl
  let s := { s with ctrl := { c with moved := [], held := [], derated := c.derated ++ c.derating, derating := [], since := s.time.cycle, kept := [] } }.schedule
    (s.time.cycle + 1400) .regulatorWindow
  .next (c.held.foldl (fun (s : State) id => s.schedule s.time.cycle (.l2FillBurst id)) s)

/-- The REGULATOR event of a partition on a channel (R411). -/
def regulatorEvent (ch capacity : Nat) (e : Nat × Nat) : FaultEvent :=
  ⟨0x22, 1, ch, [BitVec.ofNat 64 e.1, BitVec.ofNat 64 e.2, BitVec.ofNat 64 capacity]⟩

/-- A partition's figures on a derated channel change: it receives the REGULATOR event, of which its next export tells (R411,
R414). -/
def State.tellRegulator (s : State) (part ch : Nat) (e : Nat × Nat) : State :=
  (s.modPart part fun p => { p with derates := if p.derates.contains ch then p.derates else p.derates ++ [ch] }).fault part
    (regulatorEvent ch 1600 e)

/-- `CHANNEL_DERATE`: a channel whose corrected error rate passed 64 per second is derated from the next window, and
each partition whose figures change receives a REGULATOR event (R411). -/
def execChannelDerate (slice : Nat) (s : State) : Result :=
  if s.ctrl.derated.contains slice || s.ctrl.derating.contains slice then .next s
  else
    let s := { s with ctrl := { s.ctrl with derating := slice :: s.ctrl.derating } }
    .next (s.parts.foldl (fun (r : State) p =>
      if s.figures p false = s.figures p true then r else r.tellRegulator p.num slice (s.figures p true)) s)

/-- After a change of the partitions' records, those whose figures on a derated channel change are told, and keep the old ones until
the next window (R411). -/
def State.regulated (s old : State) : State :=
  let changed := s.parts.filterMap fun p => (old.part? p.num).bind fun q =>
    if old.figures q true = s.figures p true then none else some (q, s.figures p true)
  (s.ctrl.derated ++ s.ctrl.derating).foldl (fun (r : State) ch => changed.foldl (fun (r : State) x =>
    let held := r.ctrl.kept.any fun y => y.1 = ch && y.2.1 = x.1.num
    let r := if held || !old.ctrl.derated.contains ch then r
      else { r with ctrl := { r.ctrl with kept := r.ctrl.kept ++ [(ch, x.1.num, old.effective x.1 ch)] } }
    r.tellRegulator x.1.num ch x.2) r) s

/-! ## The causal clocks (R343, R344) -/

/-- Every die has room for every beat; each sends one to every other die whose SENT has changed (R344). -/
def State.sendBeats (s : State) (x : Nat) : State :=
  let d := s.die x
  if d.sent = d.beatAt then s
  else
    let s := s.modDie x fun d => { d with beatAt := d.sent }
    (List.range 12).foldl (fun s z =>
      if z = x then s else s.modDie z fun e => { e with beats := e.beats ++ [(x, d.sent, d.pairSent.getD z 0)] }) s

/-- `CLOCK_BEAT`: every 256 cycles each die sends its beats and its report, and the beats whose writes are applied raise
APPLIED (R344). -/
def execClockBeat (s : State) : Result :=
  let s := (List.range 12).foldl State.sendBeats s
  let s := (List.range 12).foldl State.processBeats s
  let s := (List.range 12).foldl (fun s z =>
    s.schedule (s.time.cycle + leg 3) (.dclockReport z (s.dclock z))) s.releaseHeld
  let late := s.fab.accs.filter fun a => a.state == .arrived && s.applicable a
  let s := late.foldl (fun s a => s.push (.crossDieWriteApply a.srcDie a.loc.die)) s
  .next (s.schedule (s.time.cycle + 256) .clockBeat)

/-- The serial minimum of two counts, where 0 is no write at all (R343, R344). -/
def serialMin (a b : Nat) : Nat := if a = 0 ∨ b = 0 then 0 else if serialGe a b then b else a

/-- STABLE from the last reports: for each die the serial minimum over the other dies (R344). -/
def stableOf (reports : List (List Nat)) : List Nat :=
  (List.range 12).map (fun x =>
    match (List.range 12).filter (fun z => z ≠ x) with
    | [] => 0
    | z :: zs => zs.foldl (fun m z => serialMin m ((reports.getD z []).getD x 0)) ((reports.getD z []).getD x 0))
    ++ [0, 0, 0, 0]

/-- `DCLOCK_REPORT`: a die's report reaches hub 0, which updates STABLE (R344). -/
def execDclockReport (die : Nat) (counts : List Nat) (s : State) : Result :=
  let reports := s.clocks.reports.set die counts
  .next { s with clocks := { s.clocks with reports := reports, stable := stableOf reports } }

/-- Entries of a clock that STABLE has reached are set to 0 (R344, R346). -/
def zeroReached (stable clock : List Nat) : List Nat :=
  (List.range clock.length).map fun k =>
    let v := clock.getD k 0
    let m := stable.getD k 0
    if v ≠ 0 ∧ m ≠ 0 ∧ serialGe m v = true then 0 else v

/-- `VCLOCK_ZEROING`: every 65,536 cycles the entries of every thread's VCLOCK that STABLE has reached become 0 (R344). -/
def execVclockZeroing (s : State) : Result :=
  let z (t : Thread) : Thread := { t with ctl := { t.ctl with vclock := zeroReached s.clocks.stable t.ctl.vclock } }
  .next ({ s with t := z s.t, others := s.others.map z }.schedule (s.time.cycle + 65536) .vclockZeroing)

/-! ## Migration (R247 to R252) -/

/-- The trellis of the package, or the channel core, that a packet goes to. -/
def destPlace (core : Nat) : Nat := if isCompute core then core / 8 else core

/-- The cores in which an arriving thread looks for a slot (R248). -/
def destCores (core : Nat) : List Nat :=
  if isCompute core then (List.range 8).map fun k => core / 8 * 8 + k else [core]

/-- The first FREE slot for a thread of a partition at a destination (R248). -/
def State.arrivalSlot (s : State) (p core : Nat) : Option (Nat × Nat) :=
  (destCores core).findSome? fun c => (s.freeSlot p c).map fun k => (c, k)

/-- The traps of second events become pending where none of their kind is (R251, R386). -/
def Thread.settle (t : Thread) : Thread :=
  let later := t.second
  later.foldl Thread.addPending { t with second := [] }

/-- The context that a packet gives at its destination (R249): registers not carried are poisoned, `hop` is past its
instruction, WMSEL is open (assumption 7). -/
def Thread.placed (t : Thread) (x : Transit) (core slot : Nat) (draw : Word) : Thread :=
  let regs := Vector.ofFn fun r : Fin 32 =>
    if r.val = 0 ∨ x.carried.toNat.testBit r.val then t.regs[r] else ⟨0, true, true, 0⟩
  Thread.settle { t with
    regs := regs, core := core, slot := slot, run := .ready, prog := .fresh, transit := none, acqFill := none, acqAcc := none
    pc := if x.hop then t.pc + 4 else t.pc
    ctl := { t.ctl with wmsel := draw &&& 0x7FFF } }

/-- A thread in transit is placed in a slot, and the departing core is told; a result still outstanding for a register that was
not carried no longer fills it (R245, R248, R249). -/
def State.place (s : State) (t : Thread) (x : Transit) (core slot : Nat) : State :=
  let (v, s) := s.free
  let old := s.slot core slot
  let s := if old.state == .free then s.setSlot ⟨core, slot, .occupied, false, 0, []⟩ else s.setSlot { old with state := .occupied }
  let left (f : Fill) : Fill := if f.uid = t.ident.uid && f.discard then { f with regs := [], err := none } else f
  let s := { s with fab := { s.fab with fills := s.fab.fills.map left } }
  (s.modThread t.ident.uid fun t => t.placed x core slot v).schedule (s.time.cycle + leg 1)
    (.migrationPlacedNotice t.core t.slot)

/-- Packets that wait in the arrival buffers of a destination for a partition (R248). -/
def State.bufferedAt (s : State) (place part : Nat) : List Thread :=
  s.threads.filter fun t => t.ident.part = part && (match t.transit with
    | some x => x.buffered && destPlace x.core = place
    | none => false)

/-- A packet arrives: it returns to its HELD slot, takes a FREE one, waits in a buffer, or is refused (R248). -/
def State.arriveThread (s : State) (t : Thread) (x : Transit) : State :=
  let p := t.ident.part
  let home := isCompute x.core && destPlace x.core = t.originCore / 8
  if home then s.place t x t.ident.core0 t.ident.slot0
  else
    match s.arrivalSlot p x.core with
    | some (c, k) => s.place t x c k
    | none =>
      let room := if isCompute x.core then 128 else 16
      if (s.bufferedAt (destPlace x.core) p).length < room then
        let (n, s) := s.fresh
        s.modThread t.ident.uid fun t => { t with transit := some { x with buffered := true }, stamp := n }
      else s.schedule (s.time.cycle + leg (t.flits x.carried) + 64) (.migrationResend t.ident.uid)

/-- `MIGRATION_ARRIVAL` (R248). A packet whose migration falls back in this cycle is not placed (R252). -/
def execMigrationArrival (uid : Nat) (s : State) : Result :=
  match s.thread uid with
  | none => .next s
  | some t =>
    match t.transit with
    | none => .next s
    | some x => .next (if x.buffered || x.since + 4096 ≤ s.time.cycle then s else s.arriveThread t x)

/-- `MIGRATION_RESEND`: the departing core sends a refused packet again over its whole route, translation included (R248). -/
def execMigrationResend (uid : Nat) (s : State) : Result :=
  match s.thread uid with
  | none => .next s
  | some t =>
    match t.transit with
    | none => .next s
    | some x =>
      match x.via with
      | none => .next (s.schedule (s.time.cycle + x.legs) (.migrationArrival uid))
      | some (va, kind) =>
        let (id, s) := s.fresh
        let f := t.flits x.carried
        let r : TransReq := ⟨id, hubOf va.toNat, t.ident.part, va, kind, t.isTask, if x.hop then .hop uid else .migrate uid, false, false, none⟩
        .next ({ s with trans := { s.trans with reqs := s.trans.reqs ++ [r] } }.schedule (s.time.cycle + leg f) (.translationRequest id))

/-- `ARRIVAL_BUFFER_PLACE`: a slot has become FREE and the oldest buffered packet of the partition takes it (R248). -/
def execArrivalBufferPlace (core part : Nat) (s : State) : Result :=
  match s.bufferedAt (destPlace core) part with
  | [] => .next s
  | t :: ts =>
    let old := ts.foldl (fun (b : Thread) x => if x.stamp < b.stamp then x else b) t
    match old.transit, s.arrivalSlot part core with
    | some x, some (c, k) => .next (if x.since + 4096 ≤ s.time.cycle then s else s.place old x c k)
    | _, _ => .next s

/-- A slot becomes FREE with its wake bit and label cleared: responders that wait in its trellis, then buffered packets, take it
before anything else that is due, and the launch unit after the turns of the cycle (R47, R58, R63, R248, R327, R360). -/
def State.vacate (s : State) (core slot part : Nat) : State :=
  let s := s.setSlot ⟨core, slot, .free, false, 0, []⟩
  let waits := isCompute core && s.engines.any fun e => e.place = core / 8 && e.matched.any fun m => m.uid.isNone
  let first := (if waits then [Instr.responderStart (core / 8)] else []) ++ [.arrivalBufferPlace core part]
  let s := { s with time := { s.time with agenda := first ++ s.time.agenda } }
  if isCompute core then s.scheduleOnce s.time.cycle (.launchPlacementPass part) else s

/-- `MIGRATION_PLACED_NOTICE`: the departing core frees the slot, or leaves it HELD if it is a thread's placement slot
(R249); a slot in SCRUB stays with the Rake (R67), and a saved thread is placed nowhere (R64). -/
def execMigrationPlacedNotice (core slot : Nat) (s : State) : Result :=
  match s.threads.find? fun t => t.ident.core0 = core && t.ident.slot0 = slot && t.run != .ended && t.run != .saved with
  | some t =>
    if t.core = core ∧ t.slot = slot then .next s
    else .next (s.setSlot { s.slot core slot with state := .held })
  | none =>
    match s.threads.find? fun t => t.core = core && t.slot = slot && t.run != .ended && t.run != .saved with
    | some _ => .next s
    | none =>
      if (s.slot core slot).state == .scrub then .next s
      else
        match s.parts.find? fun p => (s.slotMask p.num core).testBit slot with
        | some p => .next (s.vacate core slot p.num)
        | none => .next (s.setSlot ⟨core, slot, .free, false, 0, []⟩)

/-- A transfer is over without a placement: nothing of it is left on the way, and the results of the thread's registers fill
them again (R252, R253). -/
def State.endTransit (s : State) (uid : Nat) : State :=
  let mine (q : TransReq) : Bool := q.dest == TransFor.migrate uid || q.dest == TransFor.hop uid
  let onWay (e : Nat × Instr) : Bool :=
    e.2 == .migrationArrival uid || e.2 == .migrationResend uid || e.2 == .migrationFallback uid
  { s.keepFills uid with
    trans := { s.trans with reqs := s.trans.reqs.filter fun q => !mine q }
    time := { s.time with calendar := s.time.calendar.filter fun e => !onWay e } }

/-- `MIGRATION_FALLBACK`: 4,096 cycles after its turn a thread that is not placed stays at its departing core and
performs its access by proxy (R252). -/
def execMigrationFallback (uid : Nat) (s : State) : Result :=
  match s.thread uid with
  | none => .next s
  | some t =>
    match t.transit with
    | none => .next s
    | some x =>
      if x.since + 4096 ≠ s.time.cycle then .next s
      else
        let s := s.endTransit uid
        let s := s.modThread uid fun t => Thread.settle { t with
          run := .ready, prog := .fresh, transit := none, proxy := !x.hop, pc := if x.hop then t.pc + 4 else t.pc }
        let s := s.modPart t.ident.part fun p => { p with migFallback := p.migFallback + 1 }
        .next (s.count t.ident.part t.ident.gang 3 1)

end Sys2Proof.Machine
end

