-- ==== Sys2Proof/Machine/Reach.lean ====
section
/-! DEFINITION. How the units of the part reach memory for a partition: the launch unit, the engines, the Sluice and the
host interface, by virtual address (R231, R235, R236), and how they read and write bytes there. -/

namespace Sys2Proof.Machine

open Sys2Proof

/-! ## Places -/

/-- The place of an address for a unit that acts for a partition, by a whole walk (R231, R207, R235). -/
def State.placeOf (s : State) (p localPan : Nat) (va : Word) (k : AccKind) (task : Bool) : Except TransFault Target :=
  match classify localPan va.toNat with
  | .global =>
    match s.walk p va.toNat k task with
    | .error e => .error e
    | .ok (pa, l) => .ok ⟨.hbm pa, l.label, s.readLabel l, l.noalloc⟩
  | .pan n off =>
    match s.window p n off k.read k.write with
    | .error e => .error e
    | .ok (pa, l) => .ok ⟨.pan n pa, l, l, false⟩
  | .device | .none => .error (.prot, 0)

/-- A read, and a write, as kinds of access. -/
def readKind : AccKind := ⟨true, false, false⟩
def writeKind : AccKind := ⟨false, true, false⟩

/-- The pieces of a run of n bytes that lie each within one 8 KiB page: address and length. -/
def pagePieces : Nat → Word → Nat → List (Word × Nat)
  | 0, _, _ => []
  | fuel + 1, va, n =>
    if n = 0 then []
    else
      let k := min n (8192 - va.toNat % 8192)
      (va, k) :: pagePieces fuel (va + BitVec.ofNat 64 k) (n - k)

/-- The pages that n bytes from an address touch, at most. -/
def pieceFuel (n : Nat) : Nat := n / 8192 + 2

/-- The bytes of a place, in order. -/
def Memory.bytesAt (m : Memory) (l : Loc) (n : Nat) : List Byte :=
  (List.range n).map fun k => BitVec.ofNat 8 (m.readAt (l.plus k) 1)

/-- The first word of a place, among n bytes, with an uncorrectable error. -/
def State.badIn (s : State) (l : Loc) (n : Nat) : Option Nat :=
  (List.range n).find? fun k => s.mem.bad (l.plus k)

/-- What a read of bytes by address gives: the bytes and the union of the labels read, or the fault with the failing
address. -/
abbrev Bytes := Except (TransFault × Word) (List Byte × Label)

/-- Reads n bytes by address for a partition (R235, R207, R217). -/
def State.readVa (s : State) (p localPan : Nat) (va : Word) (n : Nat) (task : Bool) : Bytes :=
  (pagePieces (pieceFuel n) va n).foldl (fun (acc : Bytes) x =>
    match acc with
    | .error e => .error e
    | .ok (bs, l) =>
      match s.placeOf p localPan x.1 readKind task with
      | .error e => .error (e, x.1)
      | .ok t =>
        match s.badIn t.loc x.2 with
        | some k => .error ((.dataerr, 0), x.1 + BitVec.ofNat 64 k)
        | none => .ok (bs ++ s.mem.bytesAt t.loc x.2, l ||| t.rlabel)) (.ok ([], 0))

/-- A run of bytes touches a page of a Pan store that is moving, or that is the destination of an active range (R70, R273). -/
def State.spanHeld (s : State) (p localPan : Nat) (va : Word) (n : Nat) : Bool :=
  match classify localPan va.toNat with
  | .pan m off =>
    let pages := (List.range ((off % 8192 + n + 8191) / 8192)).map fun k => off / 8192 + k
    pages.any fun k => (s.mapEntry p m k).moving || s.fab.ranges.any fun r =>
      r.active && r.dest && r.part = p && r.pan = m && r.first ≤ k && k ≤ r.last
  | .global | .device | .none => false

/-- The words that a run of n bytes of the thread at its turn names. -/
def State.wordsNamed (s : State) (va : Word) (n : Nat) : List Loc :=
  let r := va.toNat % 8
  (List.range ((r + n + 7) / 8)).filterMap fun k =>
    match s.placeOf s.t.ident.part s.t.localPan (va - BitVec.ofNat 64 r + BitVec.ofNat 64 (8 * k)) readKind s.t.isTask with
    | .ok x => some x.loc.word
    | .error _ => none

/-- Bytes that an instruction of the thread at its turn reads at its issue cannot be read yet: an earlier access of the thread to
them is on its way (R338), the thread's causal past has not been applied where they lie (R343), or their page is held (R70,
R273). -/
def State.readHeld (s : State) (va : Word) (n : Nat) : Bool :=
  let words := s.wordsNamed va n
  let own (a : Acc) : Bool := a.uid = s.t.ident.uid && a.state != .performed &&
    a.words.any fun w => words.contains w
  s.fab.accs.any own || (words.any fun w => !s.causalOk w.die s.t.ctl.vclock w.die) ||
    s.spanHeld s.t.ident.part s.t.localPan va n

/-- A number of a list of bytes, little-endian, from an offset (R6). -/
def fieldAt (bs : List Byte) (off n : Nat) : Nat := bytesNat ((bs.drop off).take n)

/-- A word of a list of bytes. -/
def wordAt (bs : List Byte) (off : Nat) : Word := BitVec.ofNat 64 (fieldAt bs off 8)

/-- Every byte of a list from an offset, n of them, is 0. -/
def zeroAt (bs : List Byte) (off n : Nat) : Bool := ((bs.drop off).take n).all fun b => b = 0

/-- Whether a number is that of a global address (R231). -/
def isGlobal (va : Nat) : Bool := va < 0x0080000000000000

/-- The Pan and offset of an address in a named window (R204). -/
def namedWindow (va : Nat) : Option (Nat × Nat) :=
  if 0x0081000000000000 ≤ va ∧ va < 0x0081000800000000 ∧ va % 2 ^ 32 < 2 ^ 25 then some (bitsAt va 32 3, va % 2 ^ 25)
  else none

/-! ## The places of runs of bytes -/

/-- The places of runs of bytes, page by page, as far as they can be translated. -/
def State.runPlaces (s : State) (p pan : Nat) (runs : List (Word × Nat)) (k : AccKind) (task : Bool) : List (Target × Nat) :=
  (runs.flatMap fun r => pagePieces (pieceFuel r.2) r.1 r.2).filterMap fun x =>
    match s.placeOf p pan x.1 k task with
    | .ok t => some (t, x.2)
    | .error _ => none

/-- The dies on which runs of bytes lie. -/
def State.runDies (s : State) (p pan : Nat) (runs : List (Word × Nat)) (k : AccKind) (task : Bool) : List Nat :=
  ((s.runPlaces p pan runs k task).map fun t => t.1.loc.die).eraseDups

/-- The sectors of HBM that places touch, each with NOALLOC of its page. -/
def sectorsOf (ts : List (Target × Nat)) : List (Nat × Bool) :=
  (ts.flatMap fun t => match t.1.loc with
    | .hbm pa => (List.range ((pa % 32 + t.2 + 31) / 32)).map fun k => (pa / 32 * 32 + 32 * k, t.1.noalloc)
    | .pan _ _ => []).eraseDups

/-- Global places are in the L2 before a unit reads or writes them (R239). -/
def State.fillPlaces (s : State) (part gang : Nat) (ts : List (Target × Nat)) : State :=
  (sectorsOf ts).foldl (fun (s : State) x => s.fillSector part gang x.1 x.2) s

/-- The cycles that the sectors which places need wait at the memory controllers (R409, R412). -/
def State.placesWait (s : State) (part : Nat) (ts : List (Target × Nat)) : Nat :=
  (sectorsOf ts).foldl (fun n x => max n (s.fillWait part x.1 x.2)) 0

/-- A unit reads, or writes, n bytes from a place: correctable errors of the words that it reads, or writes in part, are corrected
and counted, those of words that it overwrites are gone (R217, R413). -/
def State.correctRun (s : State) (part gang : Nat) (writes : Bool) (l : Loc) (n : Nat) : State :=
  if s.mem.softWords.isEmpty then s
  else
    let r := match l with
      | .pan _ pa => pa % 8
      | .hbm pa => pa % 8
    (List.range ((r + n + 7) / 8)).foldl (fun (s : State) k =>
      let whole := writes && r ≤ 8 * k && 8 * k + 8 ≤ r + n
      s.correctWord part gang (!whole) (l.plus (8 * k - r))) s

/-- The same for the places of runs of bytes. -/
def State.correctPlaces (s : State) (part gang : Nat) (writes : Bool) (ts : List (Target × Nat)) : State :=
  ts.foldl (fun (s : State) t => s.correctRun part gang writes t.1.loc t.2) s

/-- The thread at its turn has read n bytes at its issue: they came through the L2, their correctable errors are corrected, and its
VCLOCK takes in the clocks of the dies on which they lie (R217, R239, R343). -/
def State.blockRead (s : State) (va : Word) (n : Nat) : State :=
  let t := s.t
  let part := t.ident.part
  let ts := s.runPlaces part t.localPan [(va, n)] readKind t.isTask
  let s := (s.fillPlaces part t.ident.gang ts).correctPlaces part t.ident.gang false ts
  (ts.map fun x => x.1.loc.die).eraseDups.foldl (fun (s : State) z => { s with t := s.t.joinPast (s.dclock z) }) s

/-- The labels of the pages that a read had accessed when it failed at an address (R370). -/
def State.labelsBefore (s : State) (p pan : Nat) (va : Word) (n : Nat) (failed : Word) (task : Bool) : Label :=
  (pagePieces (pieceFuel n) va n).foldl (fun (l : Label) x =>
    if (failed - va).toNat < (x.1 - va).toNat then l
    else
      match s.placeOf p pan x.1 readKind task with
      | .ok t => l ||| t.rlabel
      | .error _ => l) 0

/-! ## Writing by place -/

/-- The byte of a place within its word. -/
def Loc.inWord (l : Loc) : Nat :=
  match l with
  | .pan _ pa => pa % 8
  | .hbm pa => pa % 8

/-- Writes bytes from a place up: whole words where it can (R217, R326), ending the failures of the sectors that they cover
(R240). -/
def State.putBytes (s : State) (l : Loc) (bs : List Byte) : State :=
  let r := l.inWord
  ((List.range ((r + bs.length + 7) / 8)).foldl (fun (s : State) k =>
    let i := 8 * k - r
    let w := (bs.drop i).take (8 * (k + 1) - r - i)
    if w.length = 8 then s.store (l.plus i) 8 (bytesNat w)
    else (List.range w.length).foldl (fun (s : State) j => s.store (l.plus (i + j)) 1 (w.getD j 0).toNat) s) s).healRun l bs.length

/-- Writes bytes by address for a partition, piece by piece; the first piece that cannot be written stops it with its
fault. `label` is checked against each page (R373). -/
def State.writeVa (s : State) (p localPan : Nat) (va : Word) (bs : List Byte) (label : Label) (task : Bool) :
    Option (TrapCode × Word) × State :=
  ((pagePieces (pieceFuel bs.length) va bs.length).foldl
    (fun (acc : Option (TrapCode × Word) × State × List Byte) x =>
      match acc with
      | (some e, s, r) => (some e, s, r)
      | (none, s, r) =>
        match s.placeOf p localPan x.1 writeKind task with
        | .error (c, _) => (some (c, x.1), s, r)
        | .ok t =>
          if !labelLe label t.label then (some (.label, x.1), s, r)
          else (none, s.putBytes t.loc (r.take x.2), r.drop x.2)) (none, s, bs)
    |> fun r => (r.1, r.2.1))

/-! ## Budgets (R404, R405) -/

/-- Whether the accounts of a partition are limited in this period (R404, R426). -/
def State.limited (s : State) (p : Part) : Bool := p.budget ≠ 0 || s.dev.throttle < 16

/-- A partition's account in a Pan is at or below 0, so that its work there waits (R405). -/
def State.throttled (s : State) (part pan : Nat) : Bool :=
  match s.part? part with
  | some p => s.limited p && p.accounts.getD pan 0 ≤ 0
  | none => false

/-- Charges units to a partition's account in a Pan (R404). -/
def State.charge (s : State) (part pan units : Nat) : State :=
  s.modPart part fun p => { p with
    accounts := p.accounts.set pan (p.accounts.getD pan 0 - units)
    charged := p.charged.set pan (p.charged.getD pan 0 + units) }

/-- Charges units of an engine to the account of a partition in a Pan, and counts them for the gang that caused them (R404,
R413). -/
def State.chargeUnits (s : State) (part gang pan units : Nat) : State := (s.charge part pan units).count part gang 6 units

end Sys2Proof.Machine
end

