-- ==== Sys2Proof/Machine/Engine.lean ====
section
/-! DEFINITION. The queues of the engines: tickets, acceptance, ranges, fences, retirement, and what becomes of a
command's status (R260 to R266, R273 to R275, R287, R301, R307). -/

namespace Sys2Proof.Machine

open Sys2Proof

/-! ## Engines and commands -/

/-- The engines of a trellis as they are at reset. The first partition that a Press serves is the lowest (R287). -/
def Engine.reset (place : Nat) : Engine :=
  { place := place, cmds := [], waits := [], next := [], retired := [], fences := [], past := [], fenced := [], above := [], shapes := [], busyTo := 0
    turn := 0, served := 31, press := none, dir := [], trcen := [], matched := [], census := [], late := [] }

/-- The engines of a trellis of the package (R260). -/
def State.engine (s : State) (place : Nat) : Engine :=
  (s.engines.find? fun e => e.place = place).getD (Engine.reset place)

/-- Changes the engines of a trellis. -/
def State.modEngine (s : State) (place : Nat) (f : Engine → Engine) : State :=
  let e := f (s.engine place)
  if s.engines.any fun x => x.place = place then
    { s with engines := s.engines.map fun x => if x.place = place then e else x }
  else { s with engines := s.engines ++ [e] }

/-- A command of an engine by its number. -/
def State.cmd? (s : State) (place id : Nat) : Option Cmd := (s.engine place).cmds.find? fun c => c.id = id

/-- Changes a command. -/
def State.modCmd (s : State) (place id : Nat) (f : Cmd → Cmd) : State :=
  s.modEngine place fun e => { e with cmds := e.cmds.map fun c => if c.id = id then f c else c }

/-- The Pan of a trellis of the package. -/
def placePan (place : Nat) : Nat := place / 128

/-- The number of partitions that own slots in a Pan (R273). -/
def State.sharers (s : State) (pan : Nat) : Nat :=
  (s.parts.filter fun p => p.own.panmask.testBit pan && p.own.slotmask ≠ 0).length

/-- The ranges that a partition may hold in a trellis of a Pan (R273). -/
def State.rangeQuota (s : State) (pan : Nat) : Nat := 64 / max 1 (s.sharers pan)

/-- The ranges that a partition holds in a trellis, those reserved included (R273). -/
def State.rangesHeld (s : State) (place part : Nat) : Nat :=
  (s.fab.ranges.filter fun r => r.engine = place && r.part = part).length

/-! ## Tickets (R264, R266) -/

/-- The kind in a ticket: the queue, with 5 for a fence and 6 for the Press (R264). -/
def ticketWord (seq kind place accept : Nat) : Word :=
  BitVec.ofNat 64 (seq % 2 ^ 16 + kind * 2 ^ 16 + place % 128 * 2 ^ 19 + place / 128 * 2 ^ 26 + accept * 2 ^ 32)

/-- The ticket of a refused command (R264). -/
def refusedTicket : Word := 0x300000000

/-- The next SEQ of a queue of a partition in an engine (R264). -/
def Engine.nextSeq (e : Engine) (part kind : Nat) : Nat :=
  ((e.next.find? fun x => x.1 = part * 8 + kind).map Prod.snd).getD 0

/-- Takes the next SEQ of a queue. -/
def Engine.takeSeq (e : Engine) (part kind : Nat) : Engine :=
  let n := (e.nextSeq part kind + 1) % 2 ^ 16
  { e with next := (part * 8 + kind, n) :: e.next.filter fun x => x.1 ≠ part * 8 + kind }

/-- The status values of R266. -/
def statusOk : Nat := 0
def statusRecord : Nat := 0x0003
def statusPending : Nat := 0x0010
def statusStale : Nat := 0x0011
def statusFault : Nat := 0x0012
def statusAborted : Nat := 0x010A

/-- A status word (R266). -/
def statusWord (status cause flags done : Nat) : Word :=
  BitVec.ofNat 64 (status + cause * 2 ^ 16 + flags % 32 * 2 ^ 24 + done % 2 ^ 32 * 2 ^ 32)

/-- The status word of a live command: PENDING, or FAULT while it is halted (R266, R278, R300). -/
def Cmd.word (c : Cmd) : Word :=
  match c.state with
  | .halted => statusWord statusFault c.cause c.flags c.done
  | .queued | .started | .landed => statusWord statusPending 0 c.flags c.done

/-- The causes of FAULT (R266). -/
def causeOf : TrapCode → Nat
  | .page => 1
  | .prot => 2
  | .label => 3
  | .format => 4
  | .align => 5
  | .dataerr => 6
  | .illegal | .priv | .emptyreg | .poisonreg | .fpexc | .syscall | .break | .timer | .msg | .beat | .watchdog
  | .pressfault | .rackfault | .vclaim | .census | .fencedem | .sluice | .folded | .migrfallback => 0

/-! ## What a command's end does -/

/-- A trap about a command goes to its issuer, or to the fault queue if the issuer has quit (R278, R300, R406). -/
def State.notify (s : State) (c : Cmd) (kind : AsyncKind) (cause : Nat) (addr : Word) : State :=
  let gone : Bool := match s.thread c.uid with
    | some t => t.run == .quitting || t.run == .ended
    | none => true
  if gone then s.fault c.part ⟨asyncNumber kind, cause, 0, [c.gangid, 0, addr, 0, c.ticket]⟩
  else s.modThread c.uid fun t => t.addPending ⟨kind, addr, c.ticket, c.label ||| c.read⟩

/-- The fills that wait for the end of a command: `qwait` on its ticket, `pwait` also on the ticket of its copy (R266,
R307). -/
def Fill.awaits (f : Fill) (ticket : Word) (src : Option Word) (press : Bool) : Bool :=
  match f.kind with
  | .ticket _ w q => if q then press && (w == ticket || src == some w) else w == ticket
  | .plain | .nest _ _ | .claim | .vector _ _ _ | .reply | .phase _ _ | .census _ | .partRead _ | .partWrite _ _
  | .fork _ _ _ _ | .join _ _ _ _ => false

/-- Answers the waits of a partition's threads for a ticket with a status, a label and a clock (R266, R307, R343). -/
def State.answerWaits (s : State) (part : Nat) (ticket : Word) (src : Option Word) (press : Bool) (word : Word)
    (label : Label) (clock : List Nat) : State :=
  let mine (uid : Nat) : Bool := match s.thread uid with
    | some t => t.ident.part = part
    | none => false
  (s.fab.fills.filter fun f => mine f.uid && f.awaits ticket src press && 0 < f.parts).foldl (fun (s : State) f =>
    ((s.modThread f.uid (Thread.joinPast clock)).modFill f.id fun f => { f with label := f.label ||| label }).deliver f.id 0 word
      none 0) s

/-- How many retired entries of a queue are kept: the latest, and those retired at most 64 commands or 8 fences before it (R266). -/
def keepRetired (kind : Nat) : Nat := if kind = 5 then 9 else 65

/-- Records a retired command or fence, the latest first (R266). -/
def Engine.record (e : Engine) (r : Retired) : Engine :=
  let mine := (e.retired.filter fun x => x.part = r.part && x.queue = r.queue).take (keepRetired r.queue - 1)
  { e with retired := r :: mine ++ e.retired.filter fun x => !(x.part = r.part && x.queue = r.queue) }

/-- The clock that is kept for a queue of a partition (R341). -/
def clockAt (l : List (Nat × List Nat)) (part queue : Nat) : List Nat :=
  ((l.find? fun x => x.1 = part * 8 + queue).map Prod.snd).getD (List.replicate 16 0)

/-- Joins a clock into that of a queue of a partition. -/
def clockInto (l : List (Nat × List Nat)) (part queue : Nat) (clock : List Nat) : List (Nat × List Nat) :=
  (part * 8 + queue, joinClock (clockAt l part queue) clock) :: l.filter fun x => x.1 ≠ part * 8 + queue

/-- The bit of a queue in the mask of a fence (R275). -/
def fenceBit (queue : Nat) : Nat :=
  match queue with
  | 6 => 4
  | 4 => 5
  | n => n

/-- The queues that the mask of a fence names (R275). -/
def fenceQueues (mask : Nat) : List Nat := [0, 1, 2, 3, 4, 6].filter fun q => mask.testBit (fenceBit q)

/-- A fence retires (R275): its waits are answered, what it held back may start, and what comes later in its queues has the causal
past of its before-set (R341). -/
def State.retireFence (s : State) (place : Nat) (f : QFence) : State :=
  let free (c : Cmd) : Cmd :=
    if c.after.contains f.id then { c with after := c.after.filter fun x => x ≠ f.id, clock := joinClock c.clock f.clock } else c
  let s := { s with engines := s.engines.map fun (e : Engine) => { e with cmds := e.cmds.map free } }
  let s := s.modEngine place fun e =>
    ({ e with fences := e.fences.filter (fun x => x.id ≠ f.id)
              fenced := (fenceQueues f.mask).foldl (fun (l : List (Nat × List Nat)) q => clockInto l f.part q f.clock) e.fenced }).record
      ⟨f.part, 5, f.seq, f.ticket, statusWord statusOk 0 0 0, 0, none, f.clock⟩
  s.answerWaits f.part f.ticket none false (statusWord statusOk 0 0 0) 0 f.clock

/-- A command no longer stands in the way of the fences that came after it, which pass on its causal past (R275, R341). -/
def State.leaveFences (s : State) (id : Nat) (clock : List Nat) : State :=
  let free (f : QFence) : QFence :=
    if f.before.contains id then { f with before := f.before.filter fun x => x ≠ id, clock := joinClock f.clock clock } else f
  let s := { s with engines := s.engines.map fun (e : Engine) => { e with fences := e.fences.map free } }
  let done := s.engines.flatMap fun e => (e.fences.filter fun f => f.before.isEmpty).map fun f => (e.place, f)
  done.foldl (fun (s : State) x => s.retireFence x.1 x.2) s

/-- A partition holds more ranges in a trellis than its quota, since an ownership set has lowered it, or its holdings have not
fallen below the quota since (R273). -/
def State.overQuota (s : State) (place part : Nat) : Bool :=
  s.rangeQuota (placePan place) < s.rangesHeld place part || (s.engine place).above.contains part

/-- Frees the ranges of a command, and looks again at the accesses that they held (R273). -/
def State.freeRanges (s : State) (place id : Nat) : State :=
  let mine (r : Range) : Bool := r.engine = place && r.cmd = id
  let above := ((s.fab.ranges.filter mine).map Range.part).eraseDups.filter fun p => s.overQuota place p
  let s := { s with fab := { s.fab with ranges := s.fab.ranges.filter fun r => !mine r } }
  let s := if above.isEmpty then s
    else s.modEngine place fun e => { e with
      above := (above.filter fun p => s.rangeQuota (placePan place) ≤ s.rangesHeld place p) ++ e.above.filter fun p => !above.contains p }
  s.releaseHeld

/-! ## Starting (R261, R274, R287) -/

/-- A gang is being folded: what its threads have queued does not start any more (R64). -/
def State.foldingGang (s : State) (g : Nat) : Bool :=
  match s.gang? g with
  | some x => x.folding
  | none => false

/-- A command of a copy queue or QC that may start: the first of its queue, no fence before it, its account above 0, its gang
not being folded (R64, R274, R275, R405). -/
def State.mayStart (s : State) (place : Nat) (c : Cmd) : Bool :=
  let e := s.engine place
  c.state == .queued && c.after.isEmpty && c.queue < 5 && !s.throttled c.part (placePan place) && !s.foldingGang c.gang &&
    !(e.cmds.any fun x => x.part = c.part && x.queue = c.queue && x.order < c.order)

/-- The cycles from a read of an engine to its first data (R213, R241, R450). -/
def State.readLatency (s : State) (place : Nat) (loc : Loc) : Nat :=
  match loc with
  | .pan _ pa =>
    let t := place % 128
    let c := pa / 2 ^ 18
    if t = c then 4 else if t / 32 = c / 32 then 9 else 14
  | .hbm pa => leg 1 + leg 9 + (if s.mem.cached pa then 12 else 168)

/-- A segment is begun: it will have been done after its latency and its transfer, one segment of the engine after the
other (R261). -/
def State.beginSegment (s : State) (place : Nat) (c : Cmd) (latency bytes : Nat) : State :=
  let now := s.time.cycle
  let till := max (now + latency) (s.engine place).busyTo + max 1 ((bytes + 255) / 256)
  let s := s.modEngine place fun e => { e with busyTo := till }
  let s := s.modCmd place c.id fun c => { c with state := .started, startAt := now }
  (s.schedule till (.rackSegment place c.id)).schedule (now + 16384) (.rackWatchdog place c.id)

/-- The Press of a trellis looks for an operation to start (R287). -/
def State.kickPress (s : State) (place : Nat) : State :=
  let idle := (s.engine place).press.isNone
  if idle && (s.engine place).cmds.any fun c => c.queue = 6 && c.state == .queued then s.push (.pressOpStart place) else s

/-- The place of a command's queue in the round of R261: part x 5 + queue. -/
def Cmd.round (c : Cmd) : Nat := c.part * 5 + c.queue

/-- The ready heads of an engine's queues start, from the queue whose turn it is on, in circular order (R261). -/
def State.kick (s : State) (place : Nat) (latency : State → Cmd → Nat × Nat) : State :=
  let e := s.engine place
  let heads := e.cmds.filter fun c => s.mayStart place c
  let away (c : Cmd) : Nat := (c.round + 160 - e.turn) % 160
  (sortBy (fun (x y : Cmd) => away x ≤ away y) heads).foldl (fun (s : State) c =>
    let x := latency s c
    (s.modEngine place fun e => { e with turn := (c.round + 1) % 160 }).beginSegment place c x.1 x.2) s

/-! ## The causal past of commands (R341, R343, R347) -/

/-- A command's accesses on some dies must wait: a read for its causal past, a write to another die also for the earlier writes of
that pair of dies (R343). -/
def State.pastMissing (s : State) (place : Nat) (c : Cmd) (reads writes : List Nat) : Bool :=
  let x := placePan place
  (reads.any fun z => !s.causalOk z c.clock z) || writes.any fun z =>
    !s.causalOk z c.clock (if z = x then z else x) || (z ≠ x && (s.die z).pairDone.getD x 0 ≠ (s.die x).pairSent.getD z 0)

/-- A command has read on a die: its causal past takes in what that die has applied (R341, R343). -/
def State.cmdRead (s : State) (place id z : Nat) : State :=
  let d := s.dclock z
  s.modCmd place id fun c => { c with clock := joinClock c.clock d }

/-- A command writes on another die than its engine's: the write is numbered by the engine's die, and is applied at once (R343,
assumption 26). -/
def State.cmdWrite (s : State) (place id z : Nat) : State :=
  let x := placePan place
  if z = x then s
  else
    let (num, _, s) := s.sendCross x z
    (s.modCmd place id fun c => { c with clock := c.clock.set x num }).applied x z num

/-- The die of a command's block, whose fields its engine writes (R278, R297): none where it cannot be written. -/
def State.blockDies (s : State) (place : Nat) (c : Cmd) : List Nat :=
  match c.kind with
  | .copy | .press | .zero => s.runDies c.part (placePan place) [(c.bva, 64)] writeKind c.task
  | .rackv | .tmove | .coll => []

/-- The fields of a command's block may not be written yet, for an earlier write to its die (R343). -/
def State.blockWaits (s : State) (place : Nat) (c : Cmd) : Bool := s.pastMissing place c [] (s.blockDies place c)

/-- Writes a field of a command's block, where its page accepts it, as a write of its engine's die (R278, R297, R343). -/
def State.writeBlock (s : State) (place : Nat) (c : Cmd) (off : Nat) (bs : List Byte) (label : Label) : State :=
  match s.writeVa c.part (placePan place) (c.bva + BitVec.ofNat 64 off) bs label c.task with
  | (some _, s) => s
  | (none, s) => (s.blockDies place c).foldl (fun (s : State) z => s.cmdWrite place c.id z) s

end Sys2Proof.Machine
end

