-- ==== Sys2Proof/Machine/Sfu.lean ====
section
/-! DEFINITION. The special functions of `vsfu`: their special values and flags, and their finite results, which are free
within the error bounds of R199 (assumption 4). Reals are held in fixed point with 200 fraction bits. -/

namespace Sys2Proof.Machine

open Sys2Proof

/-- The functions of `vsfu` (R199). -/
inductive SfuFn where
  | exp2 | log2 | rcp | rsqrt | sin | cos | tanh | sigmoid
  deriving DecidableEq, Repr

/-- The number of a function, as an argument of the free results. -/
def sfuNumber : SfuFn → Nat
  | .exp2 => 0
  | .log2 => 1
  | .rcp => 2
  | .rsqrt => 3
  | .sin => 4
  | .cos => 5
  | .tanh => 6
  | .sigmoid => 7

/-! ## Fixed-point references -/

/-- One, with 200 fraction bits. -/
def fxOne : Int := 2 ^ 200
/-- The product of two fixed-point numbers. -/
def fxMul (a b : Int) : Int := a * b / fxOne
/-- The natural logarithm of 2. -/
def fxLn2 : Int := 1113844574712631719546256151097547306333272293549090750737802
/-- The base-2 logarithm of e. -/
def fxLog2e : Int := 2318321547468254865173387471183990171487108758923299108729110
/-- Twice pi. -/
def fxTwoPi : Int := 10096689509235987743946820282484873672429286842977325943070736

/-- A dyadic number m x 2^e in fixed point. -/
def fxOf (neg : Bool) (m : Nat) (e : Int) : Int :=
  let v : Int := if 0 ≤ e + 200 then m * 2 ^ (e + 200).toNat else (m : Int) / 2 ^ (-(e + 200)).toNat
  if neg then -v else v

/-- The terms of a Taylor series: from a term t, each next one is t x y / (k x (k + 1)) with the sign given, or t x y / k for
`single`. -/
def fxSeries (single : Bool) (y : Int) (sign : Int) : Nat → Int → Nat → Int
  | 0, _, _ => 0
  | n + 1, t, k =>
    let d : Int := if single then k else k * (k + 1)
    t + fxSeries single y sign n (sign * (fxMul t y / d)) (if single then k + 1 else k + 2)

/-- 2 to a fixed-point power, 0 below 2^-200. -/
def fxExp2 (x : Int) : Int :=
  let n := x / fxOne
  let f := x % fxOne
  let p := fxSeries true (fxMul f fxLn2) 1 64 fxOne 1
  if n < -400 then 0 else if n < 0 then p / 2 ^ (-n).toNat else p * 2 ^ (min n 400).toNat

/-- e to a fixed-point power. -/
def fxExp (x : Int) : Int := fxExp2 (fxMul x fxLog2e)

/-- The fraction bits of the base-2 logarithm of a number from 1 to 2. -/
def fxLogBits : Nat → Int → Int → Int
  | 0, _, _ => 0
  | n + 1, m, w =>
    let q := fxMul m m
    if 2 * fxOne ≤ q then w + fxLogBits n (q / 2) (w / 2) else fxLogBits n q (w / 2)

/-- The base-2 logarithm of m x 2^e, for m not 0. -/
def fxLog2 (m : Nat) (e : Int) : Int :=
  let k : Int := Nat.log2 m
  (e + k) * fxOne + fxLogBits 100 ((m : Int) * fxOne / 2 ^ k.toNat) (fxOne / 2)

/-- The sine and the cosine of a fixed-point number. -/
def fxSin (x : Int) : Int := let r := x % fxTwoPi; fxSeries false (fxMul r r) (-1) 50 r 2
/-- The cosine of a fixed-point number. -/
def fxCos (x : Int) : Int := let r := x % fxTwoPi; fxSeries false (fxMul r r) (-1) 50 fxOne 1

/-- The square root of a natural number of fewer than 2n bits, rounded down. -/
def fxSqrt (x : Nat) : Nat := isqrt 400 x

/-- A function of a finite value (-1)^neg x m x 2^e, where R199 gives no special value, in fixed point. -/
def sfuExact (fn : SfuFn) (neg : Bool) (m : Nat) (e : Int) : Int :=
  let x := fxOf neg m e
  match fn with
  | .exp2 => fxExp2 x
  | .log2 => fxLog2 m e
  | .rcp => if neg then -(2 ^ 400 / (if x = 0 then 1 else -x)) else 2 ^ 400 / (if x = 0 then 1 else x)
  | .rsqrt => (2 ^ 400 : Int) / (max 1 (fxSqrt (x.toNat * 2 ^ 200) : Int))
  | .sin => fxSin x
  | .cos => fxCos x
  | .tanh =>
    let u := fxExp (-2 * (x.natAbs : Int))
    let v := (fxOne - u) * fxOne / (fxOne + u)
    if neg then -v else v
  | .sigmoid =>
    let u := fxExp (-(x.natAbs : Int))
    if neg then u * fxOne / (fxOne + u) else fxOne * fxOne / (fxOne + u)

/-- The unit in the last place of FP32 at a fixed-point magnitude. -/
def fxUlp (v : Int) : Int := 2 ^ (max (Nat.log2 v.natAbs) 74 - 23)

/-- The error bound of R199 at an exact value, in fixed point. -/
def sfuBound (fn : SfuFn) (m : Nat) (e : Int) (v : Int) : Int :=
  match fn with
  | .exp2 => 2 * fxUlp v
  | .log2 =>
    let x := fxOf false m e
    if fxOne ≤ 2 * x ∧ x ≤ 2 * fxOne then max (2 * fxUlp v) (2 ^ 178) else 2 * fxUlp v
  | .rcp | .rsqrt => fxUlp v
  | .sin | .cos => 2 ^ 179
  | .tanh | .sigmoid => 2 ^ 178

/-- The FP32 encoding nearest to a fixed-point number. -/
def fxRound (v : Int) : Nat × FFlags := roundF fmtFp32 .rne 0 (decide (v < 0)) v.natAbs (-200) false

/-- The finite result of a function: the free one where it is finite and within the bound, else the nearest encoding, which
is within it; an overflow gives infinity with OF and NX (R199). -/
def sfuFinite (fn : SfuFn) (a : BitVec 32) (neg : Bool) (m : Nat) (e : Int) : Nat × FFlags :=
  let v := sfuExact fn neg m e
  let near := fxRound v
  if 2 ^ 327 * 2 ≤ v.natAbs + 2 ^ 303 then (infCode fmtFp32 (decide (v < 0)), flagOF ||| flagNX)
  else
    let free := Config.sfuResult (sfuNumber fn) a
    match decodeF fmtFp32 free.toNat with
    | .fin s fm fe => if (fxOf s fm fe - v).natAbs ≤ (sfuBound fn m e v).toNat then (free.toNat, 0) else (near.1, 0)
    | .nan _ | .inf _ => (near.1, 0)

/-- A function of an FP32 encoding: its special values with their flags, else its finite result (R199). -/
def sfuValue (fn : SfuFn) (a : BitVec 32) : Nat × FFlags :=
  let inf (n : Bool) : Nat := infCode fmtFp32 n
  let zero : Nat := 0
  let one : Nat := 0x3F800000
  match decodeF fmtFp32 a.toNat with
  | .nan s => nanF fmtFp32 s
  | .inf n =>
    match fn with
    | .exp2 => (if n then zero else inf false, 0)
    | .log2 => if n then nanF fmtFp32 true else (inf false, 0)
    | .rcp => (signCode fmtFp32 n 0, 0)
    | .rsqrt => if n then nanF fmtFp32 true else (zero, 0)
    | .sin | .cos => nanF fmtFp32 true
    | .tanh => (signCode fmtFp32 n one, 0)
    | .sigmoid => (if n then zero else one, 0)
  | .fin n m e =>
    let large := decide (65536 * fxOne < (fxOf false m e))
    match fn with
    | .exp2 =>
      if !n && decide (128 * fxOne ≤ fxOf false m e) then (inf false, flagOF ||| flagNX) else sfuFinite .exp2 a n m e
    | .log2 => if m = 0 then (inf true, flagDZ) else if n then nanF fmtFp32 true else sfuFinite .log2 a n m e
    | .rcp => if m = 0 then (inf n, flagDZ) else sfuFinite .rcp a n m e
    | .rsqrt =>
      if m = 0 then (inf n, flagDZ) else if n then nanF fmtFp32 true else sfuFinite .rsqrt a n m e
    | .sin => if large then nanF fmtFp32 true else sfuFinite .sin a n m e
    | .cos => if large then nanF fmtFp32 true else sfuFinite .cos a n m e
    | .tanh => sfuFinite .tanh a n m e
    | .sigmoid => sfuFinite .sigmoid a n m e

end Sys2Proof.Machine
end

