-- ==== Sys2Proof/Machine/Vector.lean ====
section
/-! DEFINITION. The vector lane pool: claims, lane operations, conversions, special functions, and vector loads and stores (R174 to R202). -/

namespace Sys2Proof.Machine

open Sys2Proof

/-! ## Registers of a claim (R174, R185, R186) -/

/-- VLEN.VL (R174). -/
def Thread.vl (t : Thread) : Nat := 16 * t.claim.lanes
/-- A vector register of the claim. -/
def Thread.vreg (t : Thread) (v : VReg) : VecReg := t.claim.regs.getD v.val ⟨[], true, 0⟩
/-- A mask register of the claim. -/
def Thread.mreg (t : Thread) (k : MReg) : MaskReg := t.claim.masks.getD k.val ⟨[], 0⟩
/-- An element of a vector register. -/
def Thread.velem (t : Thread) (v : VReg) (i : Nat) : BitVec 32 := (t.vreg v).elems.getD i 0
/-- A bit of a mask register. -/
def Thread.mbit (t : Thread) (k : MReg) (i : Nat) : Bool := (t.mreg k).bits.getD i false
/-- Replaces a vector register. -/
def Thread.setVreg (t : Thread) (v : VReg) (x : VecReg) : Thread :=
  { t with claim := { t.claim with regs := t.claim.regs.set v.val x } }
/-- Replaces a mask register. -/
def Thread.setMreg (t : Thread) (k : MReg) (x : MaskReg) : Thread :=
  { t with claim := { t.claim with masks := t.claim.masks.set k.val x } }

/-- The mask fields of an instruction: the mask register, mask-enable, and zero (R185). -/
structure Masking where
  k : MReg
  e : Bool
  z : Bool

/-- No mask. -/
def unmasked : Masking := ⟨0, false, false⟩

/-- Element i is active (R185). -/
def Thread.active (t : Thread) (m : Masking) (i : Nat) : Bool := !m.e || t.mbit m.k i

/-- The active elements, in ascending order. -/
def Thread.actives (t : Thread) (m : Masking) : List Nat := (List.range t.vl).filter (t.active m)

/-- The labels of the vector and mask registers that an instruction reads (R186). -/
def Thread.vlabels (t : Thread) (vs : List VReg) (ms : List MReg) : Label :=
  vs.foldr (fun v l => (t.vreg v).label ||| l) 0 ||| ms.foldr (fun k l => (t.mreg k).label ||| l) 0

/-- The mask register that enables, if any. -/
def Masking.masks (m : Masking) : List MReg := if m.e then [m.k] else []
/-- A merged destination is read for its label (R186). -/
def Masking.merges (m : Masking) : Bool := m.e && !m.z

/-- The elements of a destination: new ones where active, else 0 or the old ones (R185). -/
def Thread.blend (t : Thread) (m : Masking) (d : VReg) (f : Nat → BitVec 32) : List (BitVec 32) :=
  (List.range t.vl).map fun i => if t.active m i then f i else if m.z then 0 else t.velem d i

/-! ## The shapes of vector instructions (R184, R187) -/

/-- A vector instruction: the checks of R101, at the origin trellis (R176), with its vector registers. -/
def vissue (vdests vsrcs : List VReg) (mem : Bool) (dests : List Reg) (srcs : List (Reg × Bool)) (s : State)
    (k : State → Result) : Result :=
  s.issue { Uses.none with
    away := !s.t.atOrigin, vec := true, mem := mem, dests := dests, vdests := vdests, srcs := srcs, vsrcs := vsrcs } k

/-- What an instruction computes: the elements of its destination, its flags, and its draws. -/
structure VecOut where
  elems : List (BitVec 32)
  flags : FFlags
  draws : Nat

/-- A trap with FPEXC of a vector instruction, at the slot's next turn (R187). -/
def State.vecTrap (s : State) (fl : FFlags) (l : Label) : State :=
  match s.t.prog with
  | .stage _ _ _ => { s with t := s.t.raise fl }.fail .fpexc 0 (BitVec.ofNat 64 fl.toNat) [] l
  | .fresh | .counting _ | .asked _ | .answered _ _ | .results _ _ _ | .waits | .discards _ => s.leave .ready (.stage 1 0 0)

/-- A rotation-class instruction: its destination and flags are written before the next turn (R184). -/
def vrotate (d : VReg) (srcs : List VReg) (masks : List MReg) (merges : Bool) (rs : List Reg) (rounds : Bool)
    (len : Nat) (f : Thread → VecOut) (s : State) : Result :=
  let reads := srcs ++ (if merges then [d] else [])
  vissue [d] reads false [] (rs.map fun r => (r, false)) s fun s =>
    let out := f s.t
    let l := s.resultLabel rs ||| s.t.vlabels reads masks ||| (if rounds then s.t.seedLabelFor s.t.rm else 0)
    if out.flags &&& s.t.fpen ≠ 0 then .next (s.vecTrap out.flags l)
    else .next ({ s with t := ((s.t.raise out.flags).draw out.draws).setVreg d ⟨out.elems, true, l⟩ }.retire len)

/-- An elementwise operation without flags. -/
def velementwise (d : VReg) (srcs : List VReg) (m : Masking) (readsD : Bool) (len : Nat)
    (f : Thread → Nat → BitVec 32) (s : State) : Result :=
  vrotate d srcs m.masks (readsD || m.merges) [] false len (fun t => ⟨t.blend m d (f t), 0, 0⟩) s

/-- An operation of two sources on each element (R193). -/
def vbinary (f : BitVec 32 → BitVec 32 → BitVec 32) (d a b : VReg) (m : Masking) (len : Nat) (s : State) : Result :=
  velementwise d [a, b] m false len (fun t i => f (t.velem a i) (t.velem b i)) s

/-- The active elements computed in ascending order, each with the next draw (R161, R187). -/
def vfoldDraws (step : Nat) (f : Word → Nat → BitVec 32 × FFlags) : List Nat → Word → List (Nat × BitVec 32) × FFlags
  | [], _ => ([], 0)
  | i :: is, seed =>
    let r := f (xorshift seed) i
    let (l, fl) := vfoldDraws step f is (xorshiftN step seed)
    ((i, r.1) :: l, r.2 ||| fl)

/-- An elementwise operation that rounds by STATUS.RM (R187, R197). -/
def vrounding (d : VReg) (srcs : List VReg) (m : Masking) (readsD draws : Bool) (len : Nat)
    (f : Thread → Word → Nat → BitVec 32 × FFlags) (s : State) : Result :=
  vrotate d srcs m.masks (readsD || m.merges) [] draws len (fun t =>
    let acts := t.actives m
    let n := if draws then drawsOf t.rm else 0
    let r := vfoldDraws n (f t) acts t.ctl.seed
    ⟨t.blend m d fun i => ((r.1.find? fun x => x.1 = i).map Prod.snd).getD 0, r.2, n * acts.length⟩) s

/-- A new outstanding result for a vector register of the thread at its turn, which becomes empty (R184). -/
def State.newVecFill (s : State) (d : VReg) (m : Masking) (parts : Nat) (label : Label) (resume : Bool)
    (elems : List (BitVec 32)) : Nat × State :=
  let (id, s) := s.fresh
  let f : Fill :=
    { id := id, uid := s.t.ident.uid, regs := [], vals := [], parts := parts, label := label, join := 0
      kind := .vector d m.z [], resume := resume, advance := false, err := none, discard := false, legs := 0
      velems := elems }
  (id, { s with t := s.t.setVreg d { s.t.vreg d with full := false }, fab := { s.fab with fills := f :: s.fab.fills } })

/-- A whole-register instruction: vd is empty until 31 cycles after its issue; one that can raise flags holds its thread
while a trap is enabled (R184, R187). -/
def vwhole (d : VReg) (srcs : List VReg) (m : Masking) (merges raises rounds : Bool) (f : Thread → VecOut) (s : State) : Result :=
  let reads := srcs ++ (if merges then [d] else [])
  vissue [d] reads false [] [] s fun s =>
    let out := f s.t
    let l := s.resultLabel [] ||| s.t.vlabels reads m.masks ||| (if rounds then s.t.seedLabelFor s.t.rm else 0)
    let done := s.time.cycle + 31
    if out.flags &&& s.t.fpen ≠ 0 then
      match s.t.prog with
      | .stage _ _ _ => .next (s.vecTrap out.flags l)
      | .fresh | .counting _ | .asked _ | .answered _ _ | .results _ _ _ | .waits | .discards _ =>
        .next ((s.replyAt s.t.ident.uid done).leave .reply (.stage 1 0 0))
    else
      let hold := raises && s.t.fpen ≠ 0
      let s := { s with t := (s.t.raise out.flags).draw out.draws }
      let (id, s) := s.newVecFill d m 0 l hold out.elems
      .next ((s.schedule done (.resultFill id)).goOn hold 4)

/-! ## Integer and complex elements (R193, R194) -/

/-- A comparison into a mask register (R193). -/
def vcompare (p : BitVec 32 → BitVec 32 → Bool) (d : MReg) (a b : VReg) (m : Masking) (s : State) : Result :=
  vissue [] [a, b] false [] [] s fun s =>
    let t := s.t
    let ms := m.masks ++ (if m.merges then [d] else [])
    let bits := (List.range t.vl).map fun i =>
      if t.active m i then p (t.velem a i) (t.velem b i) else if m.z then false else t.mbit d i
    .next ({ s with t := t.setMreg d ⟨bits, s.resultLabel [] ||| t.vlabels [a, b] ms⟩ }.retire 4)

/-- The parts of a CI16 element. -/
def partRe (x : BitVec 32) : Int := signedNat 16 x.toNat
/-- The imaginary part of a CI16 element. -/
def partIm (x : BitVec 32) : Int := signedNat 16 (x.toNat / 2 ^ 16)
/-- A CI16 element from its saturated parts. -/
def ofParts (re im : Int) : BitVec 32 :=
  BitVec.ofNat 32 (wrapInt 16 (satS re 16) + wrapInt 16 (satS im 16) * 2 ^ 16)

/-- The Q15 product with rounding, added to a CI16 accumulator (R194). -/
def cmulQ (x y acc : BitVec 32) : Int × Int :=
  let pr := partRe x * partRe y - partIm x * partIm y + partRe acc * 2 ^ 15
  let pi := partRe x * partIm y + partIm x * partRe y + partIm acc * 2 ^ 15
  (satS ((pr + 0x4000) / 2 ^ 15) 16, satS ((pi + 0x4000) / 2 ^ 15) 16)

/-- The element of `vcmul` and `vcmac` (R194). -/
def cmulElem (x y acc : BitVec 32) : BitVec 32 := let r := cmulQ x y acc; ofParts r.1 r.2

/-! ## Reductions (R195) -/

/-- A reduction whose result stands in element 0, with 0 elsewhere (R195). -/
def vreduce (d a : VReg) (m : Masking) (raises : Bool) (f : Thread → List (Option (BitVec 32)) → BitVec 32 × FFlags × Nat)
    (s : State) : Result :=
  vwhole d [a] m false raises raises (fun t =>
    let leaves := (List.range t.vl).map fun i => if t.active m i then some (t.velem a i) else none
    let r := f t leaves
    ⟨(List.range t.vl).map fun i => if i = 0 then r.1 else 0, r.2.1, r.2.2⟩) s

/-- The active values of a reduction's leaves. -/
def present (l : List (Option (BitVec 32))) : List (BitVec 32) := l.filterMap id

/-- One level of the tree of `vred.fadd`: pairs of neighbours, each addition with the next draw (R195). -/
def treeLevel (rm : Rm) : List (Option (BitVec 32)) → Word → List (Option (BitVec 32)) × FFlags × Nat
  | [], _ => ([], 0, 0)
  | [x], _ => ([x], 0, 0)
  | some x :: some y :: l, seed =>
    let n := drawsOf rm
    let r := fAdd fmtFp32 rm (xorshift seed) (decodeF fmtFp32 x.toNat) (decodeF fmtFp32 y.toNat)
    let (l, fl, k) := treeLevel rm l (xorshiftN n seed)
    (some (BitVec.ofNat 32 r.1) :: l, r.2 ||| fl, n + k)
  | some x :: none :: l, seed => let (l, fl, k) := treeLevel rm l seed; (some x :: l, fl, k)
  | none :: y :: l, seed => let (l, fl, k) := treeLevel rm l seed; (y :: l, fl, k)

/-- The tree of `vred.fadd`, level by level from the leaves; an absent root gives +0 (R195). -/
def treeSum (rm : Rm) : Nat → List (Option (BitVec 32)) → Word → BitVec 32 × FFlags × Nat
  | 0, l, _ => ((l.head?.join).getD 0, 0, 0)
  | n + 1, l, seed =>
    let (l, fl, k) := treeLevel rm l seed
    let (v, fl', k') := treeSum rm n l (xorshiftN k seed)
    (v, fl ||| fl', k + k')

/-! ## Floating elements (R197, R198) -/

/-- An element as a floating value of a format (R189). -/
def Thread.vfval (t : Thread) (f : FpFmt) (v : VReg) (i : Nat) : FVal := decodeF (floatOf f) (t.velem v i).toNat

/-- A result of a floating operation as an element. -/
def elemOf (r : Nat × FFlags) : BitVec 32 × FFlags := (BitVec.ofNat 32 r.1, r.2)

/-- The pairs of `vcvt`, source then destination, in the order of fn (R97). -/
def vcvtPairs : List (Fmt × Fmt) :=
  [(.fp32, .fp16), (.fp32, .bf16), (.fp32, .int32), (.fp16, .fp32), (.fp16, .bf16), (.fp16, .int32),
   (.bf16, .fp32), (.bf16, .fp16), (.bf16, .int32), (.int32, .fp32), (.int32, .fp16), (.int32, .bf16)]

/-- `vcvt` on one element (R198). -/
def vcvtElem (c : Fin 12) (rm : Rm) (z : Word) (x : BitVec 32) : BitVec 32 × FFlags :=
  let p := vcvtPairs.getD c.val (.fp32, .fp16)
  let r := cvtOne p.1 p.2 rm z x.toNat
  (r.1.setWidth 32, r.2)

/-! ## Special functions and butterflies (R199, R200) -/

/-- A function of `vsfu` on the active elements (R199). -/
def vsfu (fn : SfuFn) (d a : VReg) (m : Masking) (s : State) : Result :=
  vwhole d [a] m m.merges true false (fun t =>
    let fl := (t.actives m).foldl (fun (fl : FFlags) i => fl ||| (sfuValue fn (t.velem a i)).2) 0
    ⟨t.blend m d fun i => BitVec.ofNat 32 (sfuValue fn (t.velem a i)).1, fl, 0⟩) s

/-- An output of a butterfly of radix r: scaled when asked, then saturated (R200). -/
def flyOut (scl : Bool) (r : Int) (x : Int × Int) : BitVec 32 :=
  let sc (v : Int) : Int := if scl then (v + r / 2) / r else v
  ofParts (sc x.1) (sc x.2)

/-- Sums of complex numbers with integer parts. -/
def cAddI (x y : Int × Int) : Int × Int := (x.1 + y.1, x.2 + y.2)
/-- The negative of a complex number. -/
def cNegI (x : Int × Int) : Int × Int := (-x.1, -x.2)
/-- A complex number times j. -/
def cMulJ (x : Int × Int) : Int × Int := (-x.2, x.1)
/-- The parts of an element. -/
def partsOf (x : BitVec 32) : Int × Int := (partRe x, partIm x)

/-- Output i of `vbfly.r2` (R200). -/
def fly2 (t : Thread) (scl : Bool) (a b : VReg) (i : Nat) : BitVec 32 :=
  let j := i / 2
  let x := partsOf (t.velem a (2 * j))
  let u := cmulQ (t.velem a (2 * j + 1)) (t.velem b j) 0
  flyOut scl 2 (if i % 2 = 0 then cAddI x u else cAddI x (cNegI u))

/-- Output i of `vbfly.r4` (R200). -/
def fly4 (t : Thread) (scl : Bool) (a b : VReg) (i : Nat) : BitVec 32 :=
  let j := i / 4
  let x0 := partsOf (t.velem a (4 * j))
  let y1 := cmulQ (t.velem a (4 * j + 1)) (t.velem b (3 * j)) 0
  let y2 := cmulQ (t.velem a (4 * j + 2)) (t.velem b (3 * j + 1)) 0
  let y3 := cmulQ (t.velem a (4 * j + 3)) (t.velem b (3 * j + 2)) 0
  let sum (p q r : Int × Int) : Int × Int := cAddI (cAddI x0 p) (cAddI q r)
  flyOut scl 4 (
    if i % 4 = 0 then sum y1 y2 y3
    else if i % 4 = 1 then sum (cNegI (cMulJ y1)) (cNegI y2) (cMulJ y3)
    else if i % 4 = 2 then sum (cNegI y1) y2 (cNegI y3)
    else sum (cMulJ y1) (cNegI y2) (cNegI (cMulJ y3)))

/-- The trellis of the package that a thread's engines belong to (R262). -/
def Thread.place (t : Thread) : Nat := t.ident.pan * 128 + t.ident.trellis

/-! ## Claims (R175 to R180) -/

/-- The lanes that a partition holds in the pool of a trellis; a folded thread holds none there (R175, R182, R183),
and one that the heartbeat has saved keeps its own (assumption 109). -/
def State.lanesHeld (s : State) (part pan trellis : Nat) : Nat :=
  ((s.threads.filter fun t => t.ident.part = part && t.ident.pan = pan && t.ident.trellis = trellis && t.run != .saved).map
    fun t => t.claim.lanes).foldl (· + ·) 0

/-- VLANEQ of a partition (R55). -/
def State.vlaneq (s : State) (part : Nat) : Nat :=
  match s.part? part with
  | some p => p.own.vlaneq
  | none => 0

/-- VLANES of the image of the thread at its turn (R22). -/
def State.imageLanes (s : State) : Nat :=
  match s.gang? s.t.ident.gang with
  | some g => g.vlanes
  | none => 0

/-- The registers of a claim of some lanes: those of an old one up to their new length, with 0 and 1 beyond (R178, R179). -/
def Claim.sized (c : Claim) (lanes stamp : Nat) : Claim :=
  let n := 16 * lanes
  { lanes := lanes, stamp := stamp
    regs := c.regs.map fun x => { x with elems := (x.elems ++ List.replicate n 0).take n }
    masks := c.masks.map fun x => { x with bits := (x.bits ++ List.replicate n true).take n } }

/-- A fresh claim (R178). -/
def Claim.fresh (lanes stamp : Nat) (l : Label) : Claim :=
  ⟨lanes, List.replicate 16 ⟨List.replicate (16 * lanes) 0, true, l⟩, List.replicate 8 ⟨List.replicate (16 * lanes) true, l⟩, stamp⟩

/-- The operand checks of R178: VLANES, then the operands. -/
def State.claimFault (s : State) (a b : Word) : Option Word :=
  if s.imageLanes = 0 then some 2 else if a = 0 ∨ 64 < a.toNat ∨ a.toNat < b.toNat then some 3 else none

/-- The lanes that a claim is granted, when at least what it needs, with `own` lanes counted as free (R178, R179). -/
def State.claimGrant (s : State) (a b : Word) (own : Nat) : Option Nat :=
  let want := min a.toNat s.imageLanes
  let i := s.t.ident
  let g := min want (s.vlaneq i.part - (s.lanesHeld i.part i.pan i.trellis - own))
  if g < max b.toNat 1 then none else some g

/-- STATUS.VCLAIMED (R81). -/
def Thread.vclaimed (t : Thread) : Bool := t.claim.lanes ≠ 0

/-- The vector work of the thread at its turn is complete (R179). -/
def State.vecDrained (s : State) : Bool :=
  s.t.claim.regs.all VecReg.full && (s.unperformed s.t.ident.uid).all fun a =>
    match a.op with
    | .vstore _ _ _ => false
    | .vload _ _ _ _ | .load _ _ | .loadWord _ | .ldff | .tagr | .store _ _ | .storeWords _ | .ldfe | .stfe _ | .stff _
    | .tagw _ | .amo _ _ _ | .red _ _ _ | .cas _ _ | .cas2 _ _ _ _ | .park _ _ | .claimNest _ _ _ | .push _ _ | .pop | .steal
    | .wakeSlots _ _ _ | .setvat _ _ => true

/-- Releases a claim (R180). -/
def Thread.dropClaim (t : Thread) : Thread := { t.setStatus 16 1 0 with claim := Claim.none }

/-- `vadd`: adds INT32 elements (R193). -/
def execVadd (d a b : VReg) (k : MReg) (e z : Bool) (s : State) : Result :=
  vbinary (· + ·) d a b ⟨k, e, z⟩ 4 s

/-- `vsub`: subtracts INT32 elements (R193). -/
def execVsub (d a b : VReg) (k : MReg) (e z : Bool) (s : State) : Result :=
  vbinary (· - ·) d a b ⟨k, e, z⟩ 4 s

/-- `vmul`: multiplies INT32 elements, low 32 bits (R193). -/
def execVmul (d a b : VReg) (k : MReg) (e z : Bool) (s : State) : Result :=
  vbinary (· * ·) d a b ⟨k, e, z⟩ 4 s

/-- `vmin`: signed minimum per element (R193). -/
def execVmin (d a b : VReg) (k : MReg) (e z : Bool) (s : State) : Result :=
  vbinary (fun x y => if x.slt y then x else y) d a b ⟨k, e, z⟩ 4 s

/-- `vmax`: signed maximum per element (R193). -/
def execVmax (d a b : VReg) (k : MReg) (e z : Bool) (s : State) : Result :=
  vbinary (fun x y => if x.slt y then y else x) d a b ⟨k, e, z⟩ 4 s

/-- `vand`: bitwise AND per element (R193). -/
def execVand (d a b : VReg) (k : MReg) (e z : Bool) (s : State) : Result :=
  vbinary (· &&& ·) d a b ⟨k, e, z⟩ 4 s

/-- `vor`: bitwise OR per element (R193). -/
def execVor (d a b : VReg) (k : MReg) (e z : Bool) (s : State) : Result :=
  vbinary (· ||| ·) d a b ⟨k, e, z⟩ 4 s

/-- `vxor`: bitwise XOR per element (R193). -/
def execVxor (d a b : VReg) (k : MReg) (e z : Bool) (s : State) : Result :=
  vbinary (· ^^^ ·) d a b ⟨k, e, z⟩ 4 s

/-- `vsh.ll`: shifts elements left (R193). -/
def execVshLl (d a b : VReg) (k : MReg) (e z : Bool) (s : State) : Result :=
  vbinary (fun x y => x <<< (y.toNat % 32)) d a b ⟨k, e, z⟩ 4 s

/-- `vsh.rl`: shifts elements right logically (R193). -/
def execVshRl (d a b : VReg) (k : MReg) (e z : Bool) (s : State) : Result :=
  vbinary (fun x y => x >>> (y.toNat % 32)) d a b ⟨k, e, z⟩ 4 s

/-- `vsh.ra`: shifts elements right arithmetically (R193). -/
def execVshRa (d a b : VReg) (k : MReg) (e z : Bool) (s : State) : Result :=
  vbinary (fun x y => x.sshiftRight (y.toNat % 32)) d a b ⟨k, e, z⟩ 4 s

/-- `cv.add`: compact vadd vd, vd, vs (R202). -/
def execCvAdd (d r : VReg) (s : State) : Result :=
  vbinary (· + ·) d d r unmasked 2 s

/-- `cv.sub`: compact vsub (R202). -/
def execCvSub (d r : VReg) (s : State) : Result :=
  vbinary (· - ·) d d r unmasked 2 s

/-- `cv.and`: compact vand (R202). -/
def execCvAnd (d r : VReg) (s : State) : Result :=
  vbinary (· &&& ·) d d r unmasked 2 s

/-- `cv.or`: compact vor (R202). -/
def execCvOr (d r : VReg) (s : State) : Result :=
  vbinary (· ||| ·) d d r unmasked 2 s

/-- `cv.xor`: compact vxor (R202). -/
def execCvXor (d r : VReg) (s : State) : Result :=
  vbinary (· ^^^ ·) d d r unmasked 2 s

/-- `cv.sll`: compact vsh.ll (R202). -/
def execCvSll (d r : VReg) (s : State) : Result :=
  vbinary (fun x y => x <<< (y.toNat % 32)) d d r unmasked 2 s

/-- `cv.srl`: compact vsh.rl (R202). -/
def execCvSrl (d r : VReg) (s : State) : Result :=
  vbinary (fun x y => x >>> (y.toNat % 32)) d d r unmasked 2 s

/-- `cv.sra`: compact vsh.ra (R202). -/
def execCvSra (d r : VReg) (s : State) : Result :=
  vbinary (fun x y => x.sshiftRight (y.toNat % 32)) d d r unmasked 2 s

/-- `cv.mul`: compact vmul (R202). -/
def execCvMul (d r : VReg) (s : State) : Result :=
  vbinary (· * ·) d d r unmasked 2 s

/-- `cv.min`: compact vmin (R202). -/
def execCvMin (d r : VReg) (s : State) : Result :=
  vbinary (fun x y => if x.slt y then x else y) d d r unmasked 2 s

/-- `cv.max`: compact vmax (R202). -/
def execCvMax (d r : VReg) (s : State) : Result :=
  vbinary (fun x y => if x.slt y then y else x) d d r unmasked 2 s

/-- `vmac`: multiply-accumulates INT32 elements into vd (R193). -/
def execVmac (d a b : VReg) (k : MReg) (e z : Bool) (s : State) : Result :=
  velementwise d [a, b] ⟨k, e, z⟩ true 4 (fun t i => t.velem d i + t.velem a i * t.velem b i) s

/-- `vcmp.eq`: sets mask bits where elements are equal (R193). -/
def execVcmpEq (d : MReg) (a b : VReg) (k : MReg) (e z : Bool) (s : State) : Result :=
  vcompare (· == ·) d a b ⟨k, e, z⟩ s

/-- `vcmp.lt`: sets mask bits where elements are signed less (R193). -/
def execVcmpLt (d : MReg) (a b : VReg) (k : MReg) (e z : Bool) (s : State) : Result :=
  vcompare (fun x y => x.slt y) d a b ⟨k, e, z⟩ s

/-- `vcmp.ltu`: sets mask bits where elements are unsigned less (R193). -/
def execVcmpLtu (d : MReg) (a b : VReg) (k : MReg) (e z : Bool) (s : State) : Result :=
  vcompare (fun x y => x.ult y) d a b ⟨k, e, z⟩ s

/-- `vsel`: selects elements of va or vb by a mask register (R193). -/
def execVsel (d a b : VReg) (k : MReg) (s : State) : Result :=
  vrotate d [a, b] [k] false [] false 4 (fun t =>
    ⟨(List.range t.vl).map fun i => if t.mbit k i then t.velem a i else t.velem b i, 0, 0⟩) s

/-- `vcmul`: multiplies CI16 elements in Q15 with rounding and saturation (R194). -/
def execVcmul (d a b : VReg) (k : MReg) (e z : Bool) (s : State) : Result :=
  vbinary (fun x y => cmulElem x y 0) d a b ⟨k, e, z⟩ 4 s

/-- `vcmac`: multiply-accumulates CI16 elements in Q15 (R194). -/
def execVcmac (d a b : VReg) (k : MReg) (e z : Bool) (s : State) : Result :=
  velementwise d [a, b] ⟨k, e, z⟩ true 4 (fun t i => cmulElem (t.velem a i) (t.velem b i) (t.velem d i)) s

/-- `cv.cmac`: compact vcmac vd, vd, vs, v(s+1) (R202). -/
def execCvCmac (d r : VReg) (s : State) : Result :=
  let b : VReg := ⟨(r.val + 1) % 16, Nat.mod_lt _ (by decide)⟩
  velementwise d [r, b] unmasked true 2 (fun t i => cmulElem (t.velem r i) (t.velem b i) (t.velem d i)) s

/-- `vred.add`: sums active elements into element 0 (R195). -/
def execVredAdd (d a : VReg) (k : MReg) (e : Bool) (s : State) : Result :=
  vreduce d a ⟨k, e, false⟩ false (fun _ l => ((present l).foldl (· + ·) 0, 0, 0)) s

/-- `vred.min`: signed minimum of active elements into element 0 (R195). -/
def execVredMin (d a : VReg) (k : MReg) (e : Bool) (s : State) : Result :=
  vreduce d a ⟨k, e, false⟩ false (fun _ l =>
    ((present l).foldl (fun x y => if y.slt x then y else x) 0x7FFFFFFF, 0, 0)) s

/-- `vred.max`: signed maximum of active elements into element 0 (R195). -/
def execVredMax (d a : VReg) (k : MReg) (e : Bool) (s : State) : Result :=
  vreduce d a ⟨k, e, false⟩ false (fun _ l =>
    ((present l).foldl (fun x y => if x.slt y then y else x) 0x80000000, 0, 0)) s

/-- `vred.fadd`: sums FP32 elements over a fixed pairwise tree (R195). -/
def execVredFadd (d a : VReg) (k : MReg) (e : Bool) (s : State) : Result :=
  vreduce d a ⟨k, e, false⟩ true (fun t l => treeSum t.rm 10 l t.ctl.seed) s

/-- `vperm`: permutes elements of va by indices in vb (R196). -/
def execVperm (d a b : VReg) (k : MReg) (e z : Bool) (s : State) : Result :=
  vwhole d [a, b] ⟨k, e, z⟩ (e && !z) false false (fun t =>
    ⟨t.blend ⟨k, e, z⟩ d fun i => t.velem a ((t.velem b i).toNat % max t.vl 1), 0, 0⟩) s

/-- `vmv`: copies active elements of va to vd (R196). -/
def execVmv (d a : VReg) (k : MReg) (e z : Bool) (s : State) : Result :=
  velementwise d [a] ⟨k, e, z⟩ false 4 (fun t i => t.velem a i) s

/-- `cv.mv`: compact vmv (R202). -/
def execCvMv (d r : VReg) (s : State) : Result :=
  velementwise d [r] unmasked false 2 (fun t i => t.velem r i) s

/-- `cv.addi`: adds a 5-bit immediate to every vector element (R202). -/
def execCvAddi (d : VReg) (imm : BitVec 5) (s : State) : Result :=
  velementwise d [d] unmasked false 2 (fun t i => t.velem d i + imm.signExtend 32) s

/-- `vmv.bc`: broadcasts a general register's low word to active elements (R196). -/
def execVmvBc (d : VReg) (a : LowReg) (k : MReg) (e z : Bool) (s : State) : Result :=
  let r : Reg := a.castLE (by decide)
  vrotate d [] (Masking.masks ⟨k, e, z⟩) (e && !z) [r] false 4 (fun t => ⟨t.blend ⟨k, e, z⟩ d fun _ => (t.reg r).val.setWidth 32, 0, 0⟩) s

/-- `vmv.x`: writes element 0 of va sign-extended to a general register (R196). -/
def execVmvX (d : LowReg) (a : VReg) (s : State) : Result :=
  let r : Reg := d.castLE (by decide)
  vissue [] [a] false [r] [] s fun s =>
    .next ((s.write r ((s.t.velem a 0).signExtend 64) (s.resultLabel [] ||| s.t.vlabels [a] [])).retire 4)

/-- `vfadd`: adds floating elements with one rounding (R197). -/
def execVfadd (d a b : VReg) (k : MReg) (e z : Bool) (f : FpFmt) (s : State) : Result :=
  vrounding d [a, b] ⟨k, e, z⟩ false true 4 (fun t w i => elemOf (fAdd (floatOf f) t.rm w (t.vfval f a i) (t.vfval f b i))) s

/-- `vfmul`: multiplies floating elements with one rounding (R197). -/
def execVfmul (d a b : VReg) (k : MReg) (e z : Bool) (f : FpFmt) (s : State) : Result :=
  vrounding d [a, b] ⟨k, e, z⟩ false true 4 (fun t w i => elemOf (fMul (floatOf f) t.rm w (t.vfval f a i) (t.vfval f b i))) s

/-- `cv.fadd`: compact vfadd on FP32 (R202). -/
def execCvFadd (d r : VReg) (s : State) : Result :=
  vrounding d [d, r] unmasked false true 2 (fun t w i =>
    elemOf (fAdd fmtFp32 t.rm w (t.vfval .fp32 d i) (t.vfval .fp32 r i))) s

/-- `cv.fmul`: compact vfmul on FP32 (R202). -/
def execCvFmul (d r : VReg) (s : State) : Result :=
  vrounding d [d, r] unmasked false true 2 (fun t w i =>
    elemOf (fMul fmtFp32 t.rm w (t.vfval .fp32 d i) (t.vfval .fp32 r i))) s

/-- `vfma`: fused multiply-add of floating elements (R197). -/
def execVfma (d a b : VReg) (k : MReg) (e z : Bool) (f : FpFmt) (s : State) : Result :=
  vrounding d [a, b] ⟨k, e, z⟩ true true 4 (fun t w i =>
    elemOf (fFma (floatOf f) t.rm w (t.vfval f a i) (t.vfval f b i) (t.vfval f d i))) s

/-- `vfmin`: floating minimum per element (R197). -/
def execVfmin (d a b : VReg) (k : MReg) (e z : Bool) (f : FpFmt) (s : State) : Result :=
  vrounding d [a, b] ⟨k, e, z⟩ false false 4 (fun t _ i =>
    elemOf (fMinMax true (floatOf f) (t.velem a i).toNat (t.velem b i).toNat)) s

/-- `vfmax`: floating maximum per element (R197). -/
def execVfmax (d a b : VReg) (k : MReg) (e z : Bool) (f : FpFmt) (s : State) : Result :=
  vrounding d [a, b] ⟨k, e, z⟩ false false 4 (fun t _ i =>
    elemOf (fMinMax false (floatOf f) (t.velem a i).toNat (t.velem b i).toNat)) s

/-- `vcvt`: converts active elements between a listed pair of formats (R198). -/
def execVcvt (d a : VReg) (c : Fin 12) (k : MReg) (e z : Bool) (s : State) : Result :=
  vrounding d [a] ⟨k, e, z⟩ false true 4 (fun t w i => vcvtElem c t.rm w (t.velem a i)) s

/-- `vsfu.exp2`: computes 2^x per FP32 element (R199). -/
def execVsfuExp2 (d a : VReg) (k : MReg) (e z : Bool) (s : State) : Result :=
  vsfu .exp2 d a ⟨k, e, z⟩ s

/-- `vsfu.log2`: computes log2 per element (R199). -/
def execVsfuLog2 (d a : VReg) (k : MReg) (e z : Bool) (s : State) : Result :=
  vsfu .log2 d a ⟨k, e, z⟩ s

/-- `vsfu.rcp`: computes the reciprocal per element (R199). -/
def execVsfuRcp (d a : VReg) (k : MReg) (e z : Bool) (s : State) : Result :=
  vsfu .rcp d a ⟨k, e, z⟩ s

/-- `vsfu.rsqrt`: computes the reciprocal square root per element (R199). -/
def execVsfuRsqrt (d a : VReg) (k : MReg) (e z : Bool) (s : State) : Result :=
  vsfu .rsqrt d a ⟨k, e, z⟩ s

/-- `vsfu.sin`: computes the sine per element (R199). -/
def execVsfuSin (d a : VReg) (k : MReg) (e z : Bool) (s : State) : Result :=
  vsfu .sin d a ⟨k, e, z⟩ s

/-- `vsfu.cos`: computes the cosine per element (R199). -/
def execVsfuCos (d a : VReg) (k : MReg) (e z : Bool) (s : State) : Result :=
  vsfu .cos d a ⟨k, e, z⟩ s

/-- `vsfu.tanh`: computes tanh per element (R199). -/
def execVsfuTanh (d a : VReg) (k : MReg) (e z : Bool) (s : State) : Result :=
  vsfu .tanh d a ⟨k, e, z⟩ s

/-- `vsfu.sigmoid`: computes the sigmoid per element (R199). -/
def execVsfuSigmoid (d a : VReg) (k : MReg) (e z : Bool) (s : State) : Result :=
  vsfu .sigmoid d a ⟨k, e, z⟩ s

/-- `vbfly.r2`: performs radix-2 CI16 butterflies with optional scaling (R200). -/
def execVbflyR2 (d a b : VReg) (scl : Bool) (s : State) : Result :=
  vwhole d [a, b] unmasked false false false (fun t => ⟨(List.range t.vl).map (fly2 t scl a b), 0, 0⟩) s

/-- `vbfly.r4`: performs radix-4 CI16 butterflies with optional scaling (R200). -/
def execVbflyR4 (d a b : VReg) (scl : Bool) (s : State) : Result :=
  vwhole d [a, b] unmasked false false false (fun t => ⟨(List.range t.vl).map (fly4 t scl a b), 0, 0⟩) s

/-- `mand`: aNDs two mask registers (R201). -/
def execMand (d a b : MReg) (_ta _tb : Bool) (s : State) : Result :=
  vissue [] [] false [] [] s fun s =>
    let bits := (List.range s.t.vl).map fun i => s.t.mbit a i && s.t.mbit b i
    .next ({ s with t := s.t.setMreg d ⟨bits, s.resultLabel [] ||| s.t.vlabels [] [a, b]⟩ }.retire 4)

/-- `mor`: oRs two mask registers (R201). -/
def execMor (d a b : MReg) (_ta _tb : Bool) (s : State) : Result :=
  vissue [] [] false [] [] s fun s =>
    let bits := (List.range s.t.vl).map fun i => s.t.mbit a i || s.t.mbit b i
    .next ({ s with t := s.t.setMreg d ⟨bits, s.resultLabel [] ||| s.t.vlabels [] [a, b]⟩ }.retire 4)

/-- `mnot`: complements a mask register (R201). -/
def execMnot (d a : MReg) (_ta _tb : Bool) (s : State) : Result :=
  vissue [] [] false [] [] s fun s =>
    let bits := (List.range s.t.vl).map fun i => !s.t.mbit a i
    .next ({ s with t := s.t.setMreg d ⟨bits, s.resultLabel [] ||| s.t.vlabels [] [a]⟩ }.retire 4)

/-- `vclaim`: claims vector lanes of the origin trellis pool (R178). -/
def execVclaim (d a b : Reg) (ta tb : Bool) (s : State) : Result :=
  s.issue { Uses.none with away := !s.t.atOrigin, dests := [d], srcs := [(a, ta), (b, tb)] } fun s =>
    let va := s.val a
    let vb := s.val b
    let l := s.resultLabel [a, b]
    if s.t.vclaimed then .next (s.fail .vclaim 0 1 [a, b] 0)
    else
      match s.claimFault va vb with
      | some info => .next (s.fail .vclaim 0 info [a, b] 0)
      | none =>
        match s.claimGrant va vb 0 with
        | none => .next ((s.write d 0 l).retire 4)
        | some g =>
          let (n, s) := s.fresh
          let s := { s with t := { s.t.setStatus 16 1 1 with claim := Claim.fresh g n s.t.ctl.clabel } }
          let s := s.noteUse s.t.ident.part 5 s.t.place
          .next ((s.write d (BitVec.ofNat 64 g) l).retire 4)

/-- `vrel`: drains vector work and releases the claim (R180). -/
def execVrel (_ta _tb : Bool) (s : State) : Result :=
  vissue [] [] false [] [] s fun s =>
    if !s.vecDrained then .next (s.hold .waits) else .next ({ s with t := s.t.dropClaim }.retire 4)

/-- `vsync`: drains vector work and optionally resizes the claim (R179). -/
def execVsync (d a b : Reg) (ta tb : Bool) (s : State) : Result :=
  vissue [] [] false [d] [(a, ta), (b, tb)] s fun s =>
    let va := s.val a
    let vb := s.val b
    let l := s.resultLabel [a, b]
    if !s.vecDrained then .next (s.hold .waits)
    else if va = 0 then .next ((s.write d (BitVec.ofNat 64 s.t.claim.lanes) l).retire 4)
    else
      match s.claimFault va vb with
      | some info => .next (s.fail .vclaim 0 info [a, b] 0)
      | none =>
        match s.claimGrant va vb s.t.claim.lanes with
        | none => .next ((s.write d 0 l).retire 4)
        | some g =>
          let (n, s) := s.fresh
          let s := { s with t := { s.t with claim := s.t.claim.sized g n } }
          .next ((s.write d (BitVec.ofNat 64 g) l).retire 4)

/-! ## Vector loads and stores (R188 to R192) -/

/-- The addressing of a vector access: the packed or unit-stride positions, or an address for each element (R188). -/
inductive VecForm where
  | unit
  | strided (stride : Word)
  | indexed (v : VReg)

/-- A format packed below a byte (R149). -/
def isPacked (f : Fmt) : Bool := fmtBits f < 8
/-- A bit-plane format (R153). -/
def isPlane (f : Fmt) : Bool := f == .bps8 || f == .bpu8 || f == .bps16 || f == .bpu16

/-- The formats that a vector load decodes (R189). -/
def vecLoads (f : Fmt) : Bool :=
  match f with
  | .acc64i | .bsint8 | .bsfp8a | .bsfp6a | .bsfp4 | .bsint4 => false
  | .int8 | .uint8 | .int16 | .uint16 | .int32 | .int4 | .uint4 | .int2 | .bps8 | .bpu8 | .bps16 | .bpu16 | .fp32
  | .fp16 | .bf16 | .fp8a | .fp8b | .fp6a | .fp6b | .fp4 | .ci16 | .ci8 | .cf16 | .acc32f | .acc32i | .e8 => true

/-- The format of a vat's register, when it is typed (R32). -/
def typedFmt (v : Word) : Option Fmt := if fieldOf v 5 1 = 1 then some (Fmt.ofCode (fieldOf v 0 5)) else none

/-- An element's address and the bit of its byte at which it begins (R149, R188); for a bit-plane format, of plane 0. -/
def vecAddr (t : Thread) (form : VecForm) (base : Word) (f : Fmt) (i : Nat) : Word × Nat :=
  let size := BitVec.ofNat 64 (fmtBits f / 8)
  match form with
  | .unit =>
    if isPlane f then (base + BitVec.ofNat 64 (i / 8), i % 8)
    else (base + BitVec.ofNat 64 (fmtBits f * i / 8), fmtBits f * i % 8)
  | .strided st => (base + BitVec.ofNat 64 i * st, 0)
  | .indexed v => (base + (t.velem v i).setWidth 64 * size, 0)

/-- The addresses of the bytes at which an element's bits lie: one in each plane, or those from its first to its last bit (R149,
R153). -/
def vecPlaces (a : Word) (f : Fmt) (stride bit : Nat) : List Word :=
  if isPlane f then (List.range (fmtBits f)).map fun j => a + BitVec.ofNat 64 (j * 8 * stride)
  else (List.range ((bit + fmtBits f + 7) / 8)).map fun k => a + BitVec.ofNat 64 k

/-- An element of a vector access that has been checked: its number, address, bit, the places of its bytes (window offset,
physical address), and the labels of their pages. -/
structure VecElem where
  i      : Nat
  va     : Word
  bit    : Nat
  places : List (Nat × Nat)
  labels : List Label

/-- An address in the store of the thread's own Pan, by its offset (R191). -/
def State.ownOffset (s : State) (va : Word) : Option Nat :=
  match s.vaClass va with
  | .pan n off => if n = s.t.ident.pan then some off else none
  | .global | .device | .none => none

/-- The place of a base by the window map, where its page is mapped. -/
def State.basePlace (s : State) (base : Word) : Option (Nat × Nat) :=
  match s.vaClass base with
  | .pan n off =>
    let e := s.mapEntry s.t.ident.part n (off / 8192)
    if e.valid then some (n, e.cellar * 2 ^ 18 + e.frame * 8192 + off % 8192) else none
  | .global | .device | .none => none

/-- The format register of the vat that holds a base; without a place it is untyped (assumption 36). -/
def State.baseVat (s : State) (base : Word) : Word :=
  match s.basePlace base with
  | some (n, pa) => s.vat n (vatOf pa)
  | none => 0

/-- An element with its places by the window map, or the fault of its first byte that has none (R191). -/
def State.vecElem (s : State) (i : Nat) (va : Word) (bit : Nat) (vas : List Word) (w : Bool) : Except TrapCode VecElem :=
  let n := s.t.ident.pan
  vas.foldl (fun (r : Except TrapCode VecElem) va =>
    match r with
    | .error c => .error c
    | .ok x =>
      let off := (s.ownOffset va).getD 0
      match s.window s.t.ident.part n off (!w) w with
      | .error (c, _) => .error c
      | .ok (pa, l) => .ok { x with places := x.places ++ [(off, pa)], labels := x.labels ++ [l] })
    (.ok ⟨i, va, bit, [], []⟩)

/-- The FORMAT conditions of R191 (assumption 108). -/
def State.vecFormatBad (s : State) (form : VecForm) (base reg : Word) (elems : List VecElem) (w : Bool) : Bool :=
  let n := s.t.ident.pan
  let f := (typedFmt reg).getD .int8
  let stride := fieldOf reg 32 16
  let bpa := ((s.basePlace base).map Prod.snd).getD 0
  let unit := match form with
    | .unit => true
    | .strided _ | .indexed _ => false
  (typedFmt reg).isNone || !vecLoads f || (w && isPlane f) || (!unit && (isPacked f || isPlane f)) ||
    (elems.any fun x => x.places.any fun p => s.vat n (vatOf p.2) ≠ reg) ||
    (fmtBits f = 6 && bpa % 2 ^ 16 % 3 ≠ 0) ||
    (isPlane f && (8 * stride < (s.t.vl + 7) / 8 ||
      !s.inOneVat s.t.ident.part n ((s.ownOffset base).getD 0) (fmtBits f * 8 * stride)))

/-- The checks of R191 but for LABEL, in their order: ALIGN of the base, PROT, the window-map faults of the active elements, and
FORMAT. It gives the format of the base's vat and the elements, or the fault and its TRAPADDR (assumptions 36 and 108). -/
def State.vecCheck (s : State) (form : VecForm) (base : Word) (acts : List Nat) (w : Bool) :
    Except (TrapCode × Word) (Fmt × List VecElem) :=
  let reg := s.baseVat base
  let f := (typedFmt reg).getD .int8
  let align := if isPlane f then 8 else max (fmtBits f / 8) 1
  let at_ := acts.map fun i =>
    let a := vecAddr s.t form base f i
    (i, a.1, a.2, vecPlaces a.1 f (fieldOf reg 32 16) a.2)
  if base.toNat % align ≠ 0 then .error (.align, base)
  else if (s.ownOffset base).isNone then .error (.prot, base)
  else
    match at_.find? fun x => x.2.2.2.any fun va => (s.ownOffset va).isNone with
    | some x => .error (.prot, x.2.1)
    | none =>
      let elems := at_.map fun x => (x.2.1, s.vecElem x.1 x.2.1 x.2.2.1 x.2.2.2 w)
      let fault := elems.findSome? fun x => match x.2 with
        | .error c => some (c, x.1)
        | .ok _ => none
      match fault with
      | some e => .error e
      | none =>
        let out := elems.filterMap fun x => x.2.toOption
        if s.vecFormatBad form base reg out w then .error (.format, base) else .ok (f, out)

/-- The union of labels. -/
def unionOf (ls : List Label) : Label := ls.foldr (· ||| ·) 0

/-- A vector load (R188, R189): vd is empty until every active element has arrived. -/
def vload (form : VecForm) (d : VReg) (a : Reg) (bs : List (Reg × Bool)) (vs : List VReg) (m : Masking) (ta : Bool)
    (s : State) : Result :=
  let srcs := (a, ta) :: bs
  let regs := srcs.map Prod.fst
  let reads := vs ++ (if m.merges then [d] else [])
  vissue [d] reads true [] srcs s fun s =>
    let l := s.resultLabel regs ||| s.t.vlabels reads m.masks
    match s.vecCheck form (s.val a) (s.t.actives m) false with
    | .error (c, va) => .next (s.fail c va 0 regs (s.t.vlabels reads m.masks))
    | .ok (f, elems) =>
      let l := l ||| unionOf (elems.flatMap VecElem.labels)
      let start := s.t.blend m d fun _ => 0
      if elems.isEmpty then .next ({ s with t := s.t.setVreg d ⟨start, true, l⟩ }.retire 4)
      else
        let (fid, s) := s.newVecFill d m elems.length l false start
        let s := elems.foldl (fun (s : State) x =>
          let pa := ((x.places.head?).map Prod.snd).getD 0
          (s.sendFrom (8 + x.i % 4) (.vload x.i f x.bit x.places) ⟨.pan s.t.ident.pan pa, 0, 0, false⟩ x.va 0 .direct
            false (some fid) 4).2) s
        .next (s.retire 4)

/-- The element type that a vat's format gives its register elements, for the conversion of a store (R189, R190). -/
def vecElemFmt (f : Fmt) : Fmt :=
  match f with
  | .int8 | .uint8 | .int16 | .uint16 | .int32 | .int4 | .uint4 | .int2 | .acc32i => .int32
  | .e8 => .fp32
  | .fp8a | .fp8b | .fp6a | .fp6b | .fp4 => .fp16
  | .ci8 => .ci16
  | .fp32 | .acc32f | .fp16 | .bf16 | .ci16 | .cf16 | .bps8 | .bpu8 | .bps16 | .bpu16 | .acc64i | .bsint8 | .bsfp8a
  | .bsfp6a | .bsfp4 | .bsint4 => f

/-- The elements that a store writes as they are held (R190). -/
def vecHeld (f : Fmt) : Bool := f == .fp16 || f == .bf16 || f == .ci16 || f == .cf16

/-- The draws that a store makes for one element under SR, as `cvt` would (R161, R172, R173). -/
def vecDraws (f : Fmt) (rm : Rm) : Nat := if vecHeld f then 0 else drawsOf rm * cvtDraws (vecElemFmt f)

/-- An element encoded for a store (R190): written as held, or as `cvt` converts it (R173). -/
def vecEncode (f : Fmt) (rm : Rm) (z : Word) (x : BitVec 32) : BitVec 32 × FFlags :=
  if vecHeld f then (x, 0)
  else let r := cvtValue (vecElemFmt f) f rm z (xorshift z) x.toNat; (r.1.setWidth 32, r.2)

/-- A part of an element that a store writes in one step: its place and address, its first bit, width and code. -/
structure VecPiece where
  pa    : Nat
  va    : Word
  bit   : Nat
  width : Nat
  code  : Nat

/-- The parts of an element to be stored: one, or one in each of the two pages that it lies in (R190, R204). -/
def VecElem.pieces (x : VecElem) (width code : Nat) : List VecPiece :=
  let n := x.places.length
  let k := 8192 - x.va.toNat % 8192
  let pa (i : Nat) : Nat := ((x.places[i]?).map Prod.snd).getD 0
  if n ≤ k then [⟨pa 0, x.va, x.bit, width, code⟩]
  else
    let w := 8 * k - x.bit
    [⟨pa 0, x.va, x.bit, w, code % 2 ^ w⟩, ⟨pa k, x.va + BitVec.ofNat 64 k, 0, width - w, code / 2 ^ w⟩]

/-- A vector store (R190, R191; assumption 108). -/
def vstoreTo (form : VecForm) (d : VReg) (a : Reg) (vs : List VReg) (m : Masking) (ta : Bool) (s : State) : Result :=
  let reads := d :: vs
  vissue [] reads true [] [(a, ta)] s fun s =>
    let acts := s.t.actives m
    match s.vecCheck form (s.val a) acts true with
    | .error (c, va) => .next (s.fail c va 0 [a] (s.t.vlabels reads m.masks))
    | .ok (f, elems) =>
      let n := vecDraws f s.t.rm
      let l := s.resultLabel [a] ||| s.t.vlabels reads m.masks ||| (if n = 0 then 0 else s.t.seedLabelFor s.t.rm)
      match elems.find? fun x => x.labels.any fun p => !labelLe l p with
      | some x => .next (s.fail .label x.va 0 [a] (s.t.vlabels reads m.masks ||| unionOf (elems.flatMap VecElem.labels)))
      | none =>
        let out := vfoldDraws n (fun w i => vecEncode f s.t.rm w (s.t.velem d i)) acts s.t.ctl.seed
        if out.2 &&& s.t.fpen ≠ 0 then .next (s.vecTrap out.2 l)
        else
          let s := { s with t := (s.t.raise out.2).draw (n * acts.length) }
          let s := (List.zip elems out.1).foldl (fun (s : State) x =>
            (x.1.pieces (fmtBits f) x.2.2.toNat).foldl (fun (s : State) p =>
              (s.sendFrom (8 + x.1.i % 4) (.vstore p.width p.bit p.code)
                ⟨.pan s.t.ident.pan p.pa, 0, 0, false⟩ p.va l .direct false none 4).2) s) s
          .next (s.retire 4)

/-- `vld`: loads a unit-stride vector, decoding its vat format (R188). -/
def execVld (d : VReg) (a : Reg) (k : MReg) (e z ta _tb : Bool) (s : State) : Result :=
  vload .unit d a [] [] ⟨k, e, z⟩ ta s

/-- `vlds`: loads a strided vector (R188). -/
def execVlds (d : VReg) (a b : Reg) (k : MReg) (e z ta tb : Bool) (s : State) : Result :=
  vload (.strided (s.val b)) d a [(b, tb)] [] ⟨k, e, z⟩ ta s

/-- `vldx`: gathers elements by an index vector (R188). -/
def execVldx (d : VReg) (a : Reg) (b : VReg) (k : MReg) (e z ta _tb : Bool) (s : State) : Result :=
  vload (.indexed b) d a [] [b] ⟨k, e, z⟩ ta s

/-- `vst`: stores a unit-stride vector, encoding its vat format (R190). -/
def execVst (d : VReg) (a : Reg) (k : MReg) (e ta _tb : Bool) (s : State) : Result :=
  vstoreTo .unit d a [] ⟨k, e, false⟩ ta s

/-- `vstx`: scatters elements by an index vector (R190). -/
def execVstx (d : VReg) (a : Reg) (b : VReg) (k : MReg) (e ta _tb : Bool) (s : State) : Result :=
  vstoreTo (.indexed b) d a [b] ⟨k, e, false⟩ ta s

end Sys2Proof.Machine
end

