-- ==== Sys2Proof/Machine/Copy.lean ====
section
/-! DEFINITION. What a copy of the racking engine moves: its sides, their formats, the checks of R277 and the elements
(R242, R243, R267, R268, R271, R272, R277, R280). -/

namespace Sys2Proof.Machine

open Sys2Proof

/-- A copy as its command describes it. `shaped` names the shaped side, true for the destination; a `rackv` has none
and moves raw bytes; `fixed` says that the block gives the layout and not the source's pages (R267, R268, R280). -/
structure Copy where
  src    : Word
  dst    : Word
  elems  : Nat
  shaped : Option Bool
  base   : Word
  ext    : List Nat
  stride : List Word
  esize  : Nat
  raw    : Bool
  code   : Nat
  srcRaw : Bool
  srcCode : Nat
  layout : Nat
  lsize  : Nat
  fixed  : Bool
  deriving DecidableEq, Repr

/-- The copy of a command block and a shape record; without a record, of raw bytes (R267, R268, R280). -/
def copyOf (block shape : List Byte) : Copy :=
  if shape.isEmpty then
    { src := wordAt block 0, dst := wordAt block 8, elems := fieldAt block 0x20 4, shaped := none, base := 0, ext := []
      stride := [], esize := 1, raw := true, code := 0, srcRaw := true, srcCode := 0, layout := 0, lsize := 0
      fixed := true }
  else
    let lay := fieldAt block 0x2B 1
    { src := wordAt block 0, dst := wordAt block 8, elems := fieldAt block 0x20 4
      shaped := some (fieldAt block 0x2C 2 % 2 = 1), base := wordAt shape 0
      ext := (List.range 4).map fun k => fieldAt shape (8 + 4 * k) 4
      stride := (List.range 4).map fun k => wordAt shape (0x18 + 8 * k)
      esize := fieldAt shape 0x38 1, raw := bitsAt (fieldAt shape 0x39 1) 5 1 = 1, code := fieldAt shape 0x39 1 % 32
      srcRaw := bitsAt (fieldAt block 0x29 1) 7 1 = 1, srcCode := fieldAt block 0x29 1 % 32
      layout := lay % 4, lsize := bitsAt lay 2 2, fixed := lay % 4 ≠ 0 || lay.testBit 4 }

/-- The copy of a command. -/
def Cmd.copy (c : Cmd) : Copy := copyOf c.block c.shape

/-- DONE as the command was accepted (R267). -/
def Cmd.doneAtFirst (c : Cmd) : Nat := if c.shape.isEmpty then 0 else fieldAt c.block 0x24 4

/-- The address of a side. -/
def Copy.side (x : Copy) (dst : Bool) : Word := if dst then x.dst else x.src

/-- A side is the shaped one. -/
def Copy.isShaped (x : Copy) (dst : Bool) : Bool := x.shaped == some dst

/-- Where a side begins: the address of its first element, BASE included (R267, R268). -/
def Copy.origin (x : Copy) (dst : Bool) : Word := x.side dst + (if x.isShaped dst then x.base else 0)

/-- A side lies in a Pan store (R231). -/
def sideInPan (pan : Nat) (va : Word) : Bool :=
  match classify pan va.toNat with
  | .pan _ _ => true
  | .global | .device | .none => false

/-- The indices of an element within the extents, innermost first (R268). -/
def indices : List Nat → Nat → List Nat
  | [], _ => []
  | e :: es, i => i % e :: indices es (i / e)

/-- The offset of an element in a source whose tiles the base die rearranges (R242): e bytes an element. -/
def layoutOffset (layout e i : Nat) : Nat :=
  let o := i * e
  let q := o % 4096 / e
  let cols := 64 / e
  let (r, k) :=
    match layout with
    | 1 => (q % 64, q / 64)
    | 2 => (q % 512 / 8, q / 512 * 8 + q % 8)
    | 3 => (q / (8 * cols) * 8 + q % 8, q % (8 * cols) / 8)
    | _ => (q / cols, q % cols)
  o / 4096 * 4096 + 64 * r + e * k

/-- The bits of an element of a side: those of its format, or ESIZE bytes when raw. -/
def Copy.bits (x : Copy) (f : Option Fmt) : Nat :=
  match f with
  | some f => fmtBits f
  | none => 8 * x.esize

/-- The address of an element of a side, and the bit of its byte at which it begins; for a bit-plane format, in plane 0
(R149, R153, R242, R268). -/
def Copy.addr (x : Copy) (dst : Bool) (f : Option Fmt) (i : Nat) : Word × Nat :=
  let va := x.side dst
  if x.isShaped dst then
    let off := (List.zip (indices x.ext i) x.stride).foldl (fun (w : Word) k => w + BitVec.ofNat 64 k.1 * k.2) 0
    (va + x.base + off, 0)
  else if !dst && x.layout ≠ 0 then (va + BitVec.ofNat 64 (layoutOffset x.layout (2 ^ x.lsize) i), 0)
  else
    match f with
    | some f =>
      if isPlane f then (va + BitVec.ofNat 64 (i / 8), i % 8)
      else (va + BitVec.ofNat 64 (fmtBits f * i / 8), fmtBits f * i % 8)
    | none => (va + BitVec.ofNat 64 (i * x.esize), 0)

/-- The runs of bytes at which an element lies: one, or one byte in each plane. -/
def Copy.spans (x : Copy) (dst : Bool) (f : Option Fmt) (stride i : Nat) : List (Word × Nat) × Nat :=
  let (va, bit) := x.addr dst f i
  match f with
  | some g =>
    if isPlane g then ((List.range (fmtBits g)).map fun j => (va + BitVec.ofNat 64 (j * 8 * stride), 1), bit)
    else ([(va, (bit + fmtBits g + 7) / 8)], bit)
  | none => ([(va, x.esize)], 0)

/-- The offsets, from where a side begins, of its first byte and of its last (R268, R273). -/
def Copy.extent (x : Copy) (dst : Bool) (f : Option Fmt) (stride : Nat) : Int × Int :=
  if x.isShaped dst then
    let ends := (List.zip x.ext x.stride).map fun k => ((k.1 : Int) - 1) * k.2.toInt
    let lo := ends.foldl (fun (a : Int) d => a + min 0 d) 0
    let hi := ends.foldl (fun (a : Int) d => a + max 0 d) 0
    (lo, hi + x.esize - 1)
  else
    match f with
    | some g =>
      if isPlane g then (0, ((fmtBits g - 1) * 8 * stride + (x.elems + 7) / 8 : Nat) - 1)
      else (0, ((fmtBits g * x.elems + 7) / 8 : Nat) - 1)
    | none => (0, (x.elems * x.esize : Nat) - 1)

/-! ## Translation at an engine (R236) -/

/-- A leaf in an engine's micro-cache, or from the hub, which the micro-cache then keeps (R236). Keys below 1,024 are
racking engines, the others Presses; the sectors of a walk are attributed to a gang (R413). -/
def State.microLook (s : State) (key p gang : Nat) (va : Word) (k : AccKind) (task : Bool) :
    Except TransFault (Nat × CachedLeaf) × State :=
  match s.trans.micro.find? fun x =>
      x.1 = key && x.2.part = p && x.2.page ≤ va.toNat / 8192 && va.toNat / 8192 < x.2.page + x.2.pages with
  | some x => (leafCheck x.2 false va.toNat k task, s)
  | none =>
    match s.translate (hubOf va.toNat) p gang va k task with
    | (.ok (pa, l), s) =>
      (.ok (pa, l), { s with
        trans := { s.trans with micro := cachePut s.trans.micro key 64 s.time.draws l }
        time := { s.time with draws := s.time.draws + 1 } })
    | (.error e, s) => (.error e, s)

/-- The place of an address for an engine: its own Pan's store, or global memory (R277). -/
def State.engineSpot (s : State) (key p gang : Nat) (va : Word) (k : AccKind) (task : Bool) :
    Except TransFault Target × State :=
  let pan := key % 1024 / 128
  match classify pan va.toNat with
  | .pan n off =>
    if n ≠ pan then (.error (.prot, 0), s)
    else
      match s.window p n off k.read k.write with
      | .error e => (.error e, s)
      | .ok (pa, l) => (.ok ⟨.pan n pa, l, l, false⟩, s)
  | .global =>
    match s.microLook key p gang va k task with
    | (.error e, s) => (.error e, s)
    | (.ok (pa, l), s) => (.ok ⟨.hbm pa, l.label, s.readLabel l, l.noalloc⟩, s)
  | .device | .none => (.error (.prot, 0), s)

/-- The places of runs of bytes, each cut at page boundaries. -/
def State.engineSpots (s : State) (key p gang : Nat) (runs : List (Word × Nat)) (k : AccKind) (task : Bool) :
    Except (TrapCode × Word) (List (Target × Nat)) × State :=
  (runs.flatMap fun r => pagePieces (pieceFuel r.2) r.1 r.2).foldl
    (fun (acc : Except (TrapCode × Word) (List (Target × Nat)) × State) x =>
      match acc with
      | (.error e, s) => (.error e, s)
      | (.ok ts, s) =>
        match s.engineSpot key p gang x.1 k task with
        | (.error (c, _), s) => (.error (c, x.1), s)
        | (.ok t, s) => (.ok (ts ++ [(t, x.2)]), s)) (.ok [], s)

/-! ## Formats (R268, R271) -/

/-- A block-scaled format (R155). -/
def isScaled (f : Fmt) : Bool :=
  match f with
  | .bsint8 | .bsfp8a | .bsfp6a | .bsfp4 | .bsint4 => true
  | .int8 | .uint8 | .int16 | .uint16 | .int32 | .int4 | .uint4 | .int2 | .bps8 | .bpu8 | .bps16 | .bpu16 | .fp32
  | .fp16 | .bf16 | .fp8a | .fp8b | .fp6a | .fp6b | .fp4 | .ci16 | .ci8 | .cf16 | .acc32f | .acc32i | .acc64i | .e8 => false

/-- The format register of the vat that an engine's side begins in, where its page is mapped (R229). -/
def State.vatAt (s : State) (p pan : Nat) (va : Word) : Option Word :=
  match classify pan va.toNat with
  | .pan n off =>
    let e := s.mapEntry p n (off / 8192)
    if n = pan && e.valid then some (s.vat n (vatOf (e.cellar * 2 ^ 18 + e.frame * 8192))) else none
  | .global | .device | .none => none

/-- The formats that a vat may have, raw first (R149). -/
def vatFormats : List (Option Fmt) := none :: (List.range 32).map fun k => some (Fmt.ofCode k)

/-- The register of the vats that a side in the Pan store lies in: of a shaped side, that at element i; of a dense one, that at its
base, or, where the base is no longer mapped, that at element i as the side's format places it (R229, R271). -/
def State.sideVat (s : State) (p pan : Nat) (x : Copy) (dst : Bool) (i : Nat) : Option Word :=
  if x.isShaped dst then s.vatAt p pan (x.addr dst none i).1
  else
    match s.vatAt p pan (x.side dst) with
    | some r => some r
    | none => vatFormats.findSome? fun f => (s.vatAt p pan (x.addr dst f i).1).bind fun r => if typedFmt r = f then some r else none

/-- The format of a side as its data has it: none where it is not known because its page is not mapped; then raw, or a
format with its stride (R271). -/
def State.sideFmt (s : State) (p pan : Nat) (x : Copy) (dst : Bool) (i : Nat) : Option (Option Fmt × Word) :=
  let ofVat (dst : Bool) : Option (Option Fmt × Word) := (s.sideVat p pan x dst i).map fun r => (typedFmt r, r)
  let src : Option (Option Fmt × Word) :=
    if x.shaped.isNone then some (none, 0)
    else if sideInPan pan (x.origin false) then ofVat false
    else some (if x.srcRaw then none else some (Fmt.ofCode x.srcCode), 0)
  if !dst then src
  else if x.shaped.isNone then some (none, 0)
  else if sideInPan pan (x.origin true) then ofVat true
  else src

/-- The stride of a bit-plane side, from its register (R32). -/
def sideStride (f : Option (Option Fmt × Word)) : Nat :=
  match f with
  | some (_, r) => fieldOf r 32 16
  | none => 0

/-- A copy converts between two formats (R271). -/
def converts (sf df : Option Fmt) : Bool :=
  match sf, df with
  | some a, some b => a != b
  | _, _ => false

/-- The pairs of formats that a copy accepts (R271). -/
def pairOk (sf df : Option Fmt) (dstGlobal : Bool) : Bool :=
  match sf, df with
  | none, none => true
  | some a, some b =>
    if isPlane a && dstGlobal then false
    else if a = b then true
    else if isScaled a || isScaled b then false
    else if isPlane b || isPlane a then
      ((intFmt a).isSome || (floatFmt a).isSome) && (intFmt b).isSome
    else cvtPair a b
  | _, _ => false

/-- The shaped side is as its record says (R268). -/
def Copy.recordOk (x : Copy) (f : Option Fmt) : Bool :=
  match f with
  | none => x.raw
  | some g => !x.raw && g = Fmt.ofCode x.code && x.esize * 8 = fmtBits g && !isPlane g && !isScaled g && !isPacked g

/-- A bit-plane side lies in its vat with a stride that holds its elements, and six-bit data in a vat begins on a group
(R149, R153; assumption 107 for data in global memory). -/
def State.planesOk (s : State) (p pan : Nat) (x : Copy) (dst : Bool) (f : Option (Option Fmt × Word)) : Bool :=
  match f with
  | some (some g, r) =>
    if !sideInPan pan (x.side dst) || x.isShaped dst then true
    else
      let off := (x.side dst).toNat % 2 ^ 25
      let e := s.mapEntry p pan (off / 8192)
      let inVat := (e.cellar * 2 ^ 18 + e.frame * 8192 + off % 8192) % 2 ^ 16
      let n := (x.elems + 7) / 8
      let stride := fieldOf r 32 16
      if isPlane g then n ≤ 8 * stride && s.inOneVat p pan off (fmtBits g * 8 * stride)
      else fmtBits g ≠ 6 || inVat % 3 = 0
  | _ => true

/-- Every element of a side in the Pan store, from the first to be moved, lies in vats with the same register (R271). -/
def State.oneFormat (s : State) (p pan : Nat) (x : Copy) (dst : Bool) (f : Option (Option Fmt × Word)) (i : Nat) : Bool :=
  match f with
  | some (g, r) =>
    x.shaped.isNone || !sideInPan pan (x.origin dst) ||
      (List.range (x.elems - i)).all fun k =>
        (x.spans dst g (fieldOf r 32 16) (i + k)).1.all fun a =>
          match s.vatAt p pan a.1 with
          | some r' => r' == r
          | none => true
  | none => true

/-- The checks before any element: FORMAT by R268 and R271, then ALIGN by R243 and R271. -/
def State.copyStart (s : State) (p pan : Nat) (x : Copy) (i : Nat) : Option (TrapCode × Word) :=
  let sf := s.sideFmt p pan x false i
  let df := s.sideFmt p pan x true i
  let shapedBad : Bool := match x.shaped with
    | some d =>
      match if d then df else sf with
      | some (f, _) => !x.recordOk f
      | none => false
    | none => false
  let pairBad : Bool := match sf, df with
    | some (a, _), some (b, _) => !pairOk a b (!sideInPan pan (x.origin true))
    | _, _ => false
  let plane (f : Option (Option Fmt × Word)) : Bool := match f with
    | some (some g, _) => isPlane g
    | _ => false
  let layoutBad := x.layout ≠ 0 && (!isGlobal x.src.toNat || x.src.toNat % 4096 ≠ 0 ||
    x.elems * 2 ^ x.lsize % 4096 ≠ 0 || 3 ≤ x.lsize)
  if shapedBad || pairBad || !s.planesOk p pan x false sf || !s.planesOk p pan x true df
      || !s.oneFormat p pan x false sf i || !s.oneFormat p pan x true df i then some (.format, (x.addr false (sf.bind Prod.fst) i).1)
  else if layoutBad then some (.align, x.src)
  else if plane sf && x.src.toNat % 8 ≠ 0 then some (.align, x.src)
  else if plane df && x.dst.toNat % 8 ≠ 0 then some (.align, x.dst)
  else none

/-! ## Elements -/

/-- The number of the bytes of runs, little-endian, over all of them in order. -/
def State.spotsNat (s : State) (ts : List (Target × Nat)) : Nat :=
  bytesNat (ts.flatMap fun t => s.mem.bytesAt t.1.loc t.2)

/-- The bits of an element at its places (R149, R153). -/
def State.elemBits (s : State) (ts : List (Target × Nat)) (f : Option Fmt) (bit w : Nat) : Nat :=
  match f with
  | some g =>
    if isPlane g then ts.foldl (fun n t => n * 2 + bitsAt (s.mem.readAt t.1.loc 1) bit 1) 0
    else bitsAt (s.spotsNat ts) bit w
  | none => s.spotsNat ts

/-- Writes bytes over places in order. -/
def State.putSpots (s : State) : List (Target × Nat) → List Byte → State
  | [], _ => s
  | t :: ts, bs => (s.putBytes t.1.loc (bs.take t.2)).putSpots ts (bs.drop t.2)

/-- Writes the bits of an element at its places, its neighbours unchanged (R271). -/
def State.putElem (s : State) (ts : List (Target × Nat)) (f : Option Fmt) (bit w v : Nat) : State :=
  let total := (ts.map Prod.snd).foldl (· + ·) 0
  let replaced := let old := s.spotsNat ts; old - bitsAt old bit w * 2 ^ bit + v % 2 ^ w * 2 ^ bit
  match f with
  | some g =>
    if isPlane g then
      (List.zip (List.range ts.length) ts).foldl (fun (s : State) x =>
        let old := s.mem.readAt x.2.1.loc 1
        let b := bitsAt v (w - 1 - x.1) 1
        s.store x.2.1.loc 1 (old - bitsAt old bit 1 * 2 ^ bit + b * 2 ^ bit)) s
    else s.putSpots ts (natBytes total replaced)
  | none => s.putSpots ts (natBytes total v)

/-- How far a segment has come: the state, the next element, the seed for its draws, the flags raised, the labels read, the fault
that stopped it, and whether it waits for the next window of a regulator (R409). -/
structure CopyRun where
  s     : State
  i     : Nat
  seed  : Word
  flags : FFlags
  read  : Label
  fault : Option (TrapCode × Word)
  waits : Bool

/-- A copy as it reads an element of a global source: where its block leaves them to the source, the layout bits and element size
are those of the page that the element lies in (R242, R267). -/
def State.laidOut (s : State) (p : Nat) (x : Copy) (f : Option Fmt) (task : Bool) (i : Nat) : Copy :=
  if x.fixed || !isGlobal (x.origin false).toNat then x
  else
    match s.walk p ({ x with layout := 0 }.addr false f i).1.toNat readKind task with
    | .ok (_, l) => { x with layout := l.layout, lsize := l.lesize }
    | .error _ => x

/-- The dirty sectors of a tile's lines are written back to HBM, and stay valid (R242). -/
def Memory.cleanTile (m : Memory) (tile : Nat) : Memory :=
  let mine := m.lines.filter fun l => l.line / 16 = tile && l.dirty ≠ 0
  let m := mine.foldl Memory.writeBack m
  { m with lines := m.lines.map fun (l : L2Line) => if l.line / 16 = tile then { l with dirty := 0 } else l }

/-- The base die reads the tiles of a source's places: the slice first writes back what is dirty in them, and the sectors of both
are counted (R242, R409). -/
def State.readTiles (s : State) (part gang : Nat) (ts : List (Target × Nat)) : State :=
  ts.foldl (fun (s : State) t =>
    match t.1.loc with
    | .pan _ _ => s
    | .hbm pa =>
      let tile := pa / 4096
      let dirty := ((s.mem.lines.filter fun l => l.line / 16 = tile).map fun l => onesBelow 8 l.dirty).foldl (· + ·) 0
      let s := if dirty = 0 then s
        else s.countSectors (channelOf pa) (s.frameOwner (pa / 8192)).owner 0 dirty
      let s := { s with mem := s.mem.cleanTile tile }
      if pa % 4096 = 0 then s.countSectors (channelOf pa) part gang 128 else s) s

/-- An element's place needs a sector, or a tile, that the partition's cap holds until the next window (R242, R409). -/
def State.spotCapped (s : State) (part : Nat) (tile : Bool) (t : Target × Nat) : Bool :=
  match t.1.loc with
  | .pan _ _ => false
  | .hbm pa => s.capped (channelOf pa) part && (if tile then pa % 4096 = 0 else (sectorsOf [t]).any fun x => !s.mem.cached x.1)

/-- One element of a copy: the checks of R277 in their order, then its move (R271; one draw for both parts of a complex
element, assumption 53). -/
def moveElem (key : Nat) (c : Cmd) (x : Copy) (sf df : Option Fmt) (ss ds : Nat) (rm : Rm) (r : CopyRun) : CopyRun :=
  let x := r.s.laidOut c.part x sf c.task r.i
  let src := x.spans false sf ss r.i
  let dst := x.spans true df ds r.i
  let sva := (x.addr false sf r.i).1
  let dva := (x.addr true df r.i).1
  if x.isShaped false && sva.toNat % x.esize ≠ 0 then { r with fault := some (.align, sva) }
  else if x.isShaped true && dva.toNat % x.esize ≠ 0 then { r with fault := some (.align, dva) }
  else
    match r.s.engineSpots key c.part c.gang src.1 readKind c.task with
    | (.error e, s) => { r with s := s, fault := some e }
    | (.ok st, s) =>
      match s.engineSpots key c.part c.gang dst.1 writeKind c.task with
      | (.error e, s) => { r with s := s, fault := some e }
      | (.ok dt, s) =>
        let conv := converts sf df
        let slabel := st.foldl (fun (l : Label) t => l ||| t.1.rlabel) 0
        let l := slabel ||| c.label ||| (if conv && rm = .sr then c.seedLabel else 0)
        let r := { r with read := r.read ||| slabel }
        if dt.any fun t => !labelLe l t.1.label then { r with s := s, fault := some (.label, dva) }
        else if st.any fun t => (s.badIn t.1.loc t.2).isSome then { r with s := s, fault := some (.dataerr, sva) }
        else if (st.any (s.spotCapped c.part (x.layout ≠ 0))) || dt.any (s.spotCapped c.part false) then
          { r with s := s, waits := true }
        else
          let s := (if x.layout = 0 then s.fillPlaces c.part c.gang st else s.readTiles c.part c.gang st).fillPlaces c.part c.gang dt
          let s := (s.correctPlaces c.part c.gang false st).correctPlaces c.part c.gang true dt
          let v := s.elemBits st sf src.2 (x.bits sf)
          let z := xorshift r.seed
          let out : Nat × FFlags :=
            match sf, df with
            | some a, some b =>
              if a = b then (v, 0) else let o := cvtValue a b rm z z v; (o.1.toNat, o.2)
            | _, _ => (v, 0)
          let n := if conv && rm = .sr then 1 else 0
          let s := s.putElem dt df dst.2 (x.bits df) out.1
          { s := s, i := r.i + 1, seed := xorshiftN n r.seed, flags := r.flags ||| out.2, read := r.read, fault := none
            waits := false }

/-- Elements up to a limit, until one faults or waits. -/
def moveElems (key : Nat) (c : Cmd) (x : Copy) (sf df : Option Fmt) (ss ds : Nat) (rm : Rm) : Nat → CopyRun → CopyRun
  | 0, r => r
  | n + 1, r =>
    if r.fault.isSome || r.waits then r
    else moveElems key c x sf df ss ds rm n (moveElem key c x sf df ss ds rm r)

/-- The padding bytes of a bit-plane destination are written 0, in the pages that accept the label of what was copied (R153, R271,
R373; assumption 112). -/
def State.padPlanes (s : State) (key : Nat) (c : Cmd) (x : Copy) (g : Fmt) (stride : Nat) (label : Label) : State :=
  let n := (x.elems + 7) / 8
  (List.range (fmtBits g)).foldl (fun (s : State) j =>
    (pagePieces (pieceFuel (8 * stride - n)) (x.dst + BitVec.ofNat 64 (j * 8 * stride + n)) (8 * stride - n)).foldl
      (fun (s : State) y =>
        match s.engineSpots key c.part c.gang [y] writeKind c.task with
        | (.ok ts, s) =>
          if ts.any fun t => !labelLe label t.1.label then s
          else (s.correctPlaces c.part c.gang true ts).putSpots ts (List.replicate y.2 0)
        | (.error _, s) => s) s) s

/-- The rounding mode of a code (R81). -/
def rmOf (n : Nat) : Rm :=
  match n with
  | 0 => .rne
  | 1 => .rtz
  | 2 => .rdn
  | 3 => .rup
  | _ => .sr

/-- The elements of one segment: at most 16 KiB of destination bytes (R261). -/
def Copy.segment (x : Copy) (df : Option Fmt) : Nat := max 1 (16384 * 8 / max 1 (x.bits df))

/-- One segment of a copy from its element DONE on (R261, R277). -/
def State.runSegment (s : State) (place : Nat) (c : Cmd) : CopyRun :=
  let x := c.copy
  let pan := placePan place
  let start : CopyRun := ⟨s, c.done, c.seed, 0, 0, none, false⟩
  let source := (s.sideFmt c.part pan x false c.done).bind Prod.fst
  match s.copyStart c.part pan (s.laidOut c.part x source c.task c.done) c.done with
  | some e => if x.elems ≤ c.done then start else { start with fault := some e }
  | none =>
    let sf := s.sideFmt c.part pan x false c.done
    let df := s.sideFmt c.part pan x true c.done
    let f (y : Option (Option Fmt × Word)) : Option Fmt := y.bind Prod.fst
    let rm := rmOf c.rm
    let per := if converts (f sf) (f df) && rm = .sr then 1 else 0
    let start := { start with seed := xorshiftN ((c.done - c.doneAtFirst) * per) c.seed }
    let n := min (x.segment (f df)) (x.elems - c.done)
    let r := moveElems place c x (f sf) (f df) (sideStride sf) (sideStride df) rm n start
    match f df with
    | some g =>
      if r.fault.isNone && r.i = x.elems && isPlane g && sideInPan pan (x.origin true) && c.done < x.elems then
        let draws := if converts (f sf) (f df) && rm = .sr then c.seedLabel else 0
        { r with s := r.s.padPlanes place c x g (sideStride df) (c.label ||| c.read ||| r.read ||| draws) }
      else r
    | none => r

/-- The draws that a copy reserves when it is accepted (R272): one for each element from DONE, where it converts under SR, or where
the format of a side is not known yet (assumption 93). -/
def State.copyDraws (s : State) (p pan : Nat) (x : Copy) (done : Nat) (rm : Nat) : Nat :=
  let may : Bool := match s.sideFmt p pan x false done, s.sideFmt p pan x true done with
    | some a, some b => converts a.1 b.1
    | _, _ => true
  if rmOf rm = .sr && may then x.elems - done else 0

/-- The window pages of a side in the Pan store: the Pan, the first page and the last (R273). -/
def State.sidePages (s : State) (p pan : Nat) (x : Copy) (dst : Bool) (done : Nat) : Option (Nat × Nat × Nat) :=
  match classify pan (x.origin dst).toNat with
  | .pan n off =>
    let f := s.sideFmt p pan x dst done
    let e := x.extent dst (f.bind Prod.fst) (sideStride f)
    let at_ (d : Int) : Nat := min 4095 (((off : Int) + d).toNat / 8192)
    some (n, at_ e.1, at_ e.2)
  | .global | .device | .none => none

/-- The runs of two global sides share a byte: their elements are compared, where a record strides one of them (R279). -/
def Copy.sharesByte (x : Copy) (sf df : Option Fmt) : Bool :=
  x.shaped.isNone || (List.range x.elems).any fun i =>
    let src := (x.spans false sf 0 i).1
    (List.range x.elems).any fun j => src.any fun a => (x.spans true df 0 j).1.any fun b =>
      a.1.toNat < b.1.toNat + b.2 && b.1.toNat < a.1.toNat + a.2

/-- Two sides overlap: they share a window page of a Pan or a global byte (R279). -/
def State.sidesOverlap (s : State) (p pan : Nat) (x : Copy) (done : Nat) : Bool :=
  match s.sidePages p pan x false done, s.sidePages p pan x true done with
  | some a, some b => a.1 = b.1 && a.2.1 ≤ b.2.2 && b.2.1 ≤ a.2.2
  | none, none =>
    let f (dst : Bool) : Option Fmt := (s.sideFmt p pan x dst done).bind Prod.fst
    let e (dst : Bool) : Int × Int :=
      let d := x.extent dst (f dst) 0
      (((x.origin dst).toNat : Int) + d.1, ((x.origin dst).toNat : Int) + d.2)
    (e false).1 ≤ (e true).2 && (e true).1 ≤ (e false).2 && x.sharesByte (f false) (f true)
  | _, _ => false

end Sys2Proof.Machine
end

