-- ==== Sys2Proof/Machine/Block.lean ====
section
/-! DEFINITION. The Press command block: its fields, the checks at acceptance, the ranges and the draws that it takes
(R289, R294, R296, R306). -/

namespace Sys2Proof.Machine

open Sys2Proof

/-- A Press command block (R289). -/
structure PressBlock where
  a       : Word
  b       : Word
  c       : Word
  ascale  : Word
  bscale  : Word
  sa      : Nat
  sb      : Nat
  sc      : Nat
  m       : Nat
  n       : Nat
  k       : Nat
  da      : Nat
  db      : Nat
  mode    : Nat
  accfmt  : Nat
  round   : Nat
  progress : Nat
  deriving DecidableEq, Repr

/-- The fields of a block's bytes (R289). -/
def pressBlock (bs : List Byte) : PressBlock :=
  { a := wordAt bs 0, b := wordAt bs 8, c := wordAt bs 0x10, ascale := wordAt bs 0x18, bscale := wordAt bs 0x20
    sa := fieldAt bs 0x28 2, sb := fieldAt bs 0x2A 2, sc := fieldAt bs 0x2C 2, m := fieldAt bs 0x2E 1
    n := fieldAt bs 0x2F 1, k := fieldAt bs 0x30 2, da := fieldAt bs 0x32 1, db := fieldAt bs 0x33 1
    mode := fieldAt bs 0x34 1, accfmt := fieldAt bs 0x35 1, round := fieldAt bs 0x36 1, progress := fieldAt bs 0x38 2 }

/-- MODE[1:0]: 0 accumulate, 1 overwrite, 2 refine. -/
def PressBlock.fn (b : PressBlock) : Nat := b.mode % 4
/-- MODE.CHAIN. -/
def PressBlock.chain (b : PressBlock) : Bool := b.mode.testBit 2
/-- MODE.RESUME. -/
def PressBlock.resume (b : PressBlock) : Bool := b.mode.testBit 3
/-- MODE.COMPLEX. -/
def PressBlock.complex (b : PressBlock) : Bool := b.mode.testBit 4

/-- A depth that a block may hold (R289). -/
def depthOk (d : Nat) : Bool := d ≤ 8 || d = 16

/-- A range that a command needs: the Pan, its first and last window page, and whether it is a destination (R273). -/
structure Span where
  pan   : Nat
  first : Nat
  last  : Nat
  dest  : Bool
  deriving DecidableEq, Repr

/-- The window pages of n bytes from a Pan-store address (R296). -/
def spanOf (pan : Nat) (va : Word) (n : Nat) (dest : Bool) : Option Span :=
  match classify pan va.toNat with
  | .pan m off => some ⟨m, off / 8192, min 4095 ((off + max 1 n - 1) / 8192), dest⟩
  | .global | .device | .none => none

/-- The window pages of an operand: eight for a bit-plane operand (R296). -/
def operandSpan (pan : Nat) (va : Word) (n depth : Nat) : Option Span :=
  (spanOf pan va n false).map fun x => if depth = 0 then x else { x with last := min 4095 (x.first + 7) }

/-- C's range (R296). -/
def PressBlock.destSpan (b : PressBlock) (pan : Nat) : Option Span := spanOf pan b.c (b.m * b.sc) true

/-- The bytes of a scale array of A, and of B (R291). -/
def PressBlock.scaleBytes (b : PressBlock) : Nat × Nat := (b.m * ((b.k + 31) / 32), b.k)

/-- The ranges of a command (R296, R306). -/
def PressBlock.spans (b : PressBlock) (pan : Nat) (zero : Bool) : List Span :=
  if zero then (b.destSpan pan).toList
  else
    (operandSpan pan b.a (b.m * b.sa) b.da).toList ++ (operandSpan pan b.b (b.k * b.sb) b.db).toList ++
      (b.destSpan pan).toList ++
      (if b.ascale = 0 then [] else (spanOf pan b.ascale b.scaleBytes.1 false).toList) ++
      (if b.bscale = 0 then [] else (spanOf pan b.bscale b.scaleBytes.2 false).toList)

/-- Two ranges of one partition overlap (R273). -/
def Span.meets (x y : Span) : Bool := x.pan = y.pan && x.first ≤ y.last && y.first ≤ x.last

/-- The checks of R289 that a `pzero` makes: those of the fields it uses (R306). -/
def PressBlock.zeroOk (b : PressBlock) (pan quota : Nat) : Bool :=
  1 ≤ b.sc && 1 ≤ b.m && b.m ≤ 64 && 1 ≤ b.n && b.n ≤ 32 && sideInPan pan b.c && (b.spans pan true).length ≤ quota

/-- The checks of R289 that a `pmm` makes at its acceptance; all but that of the number of ranges. -/
def PressBlock.fieldsOk (b : PressBlock) (bs : List Byte) (pan : Nat) : Bool :=
  1 ≤ b.sa && 1 ≤ b.sb && 1 ≤ b.sc && 1 ≤ b.m && b.m ≤ 64 && 1 ≤ b.n && b.n ≤ 32 && 8 ≤ b.k && b.k ≤ 4096 &&
    b.k % 8 = 0 && depthOk b.da && depthOk b.db && b.fn ≠ 3 && b.mode < 32 && 28 ≤ b.accfmt && b.accfmt ≤ 30 &&
    b.round < 8 && b.round ≠ 5 && b.round ≠ 6 && zeroAt bs 0x3A 2 &&
    (b.fn ≠ 2 || (5 ≤ b.da && b.da ≤ 8 && 5 ≤ b.db && b.db ≤ 8)) && (!b.resume || b.progress < b.k / 8) &&
    sideInPan pan b.a && sideInPan pan b.b && sideInPan pan b.c &&
    (match b.destSpan pan with
      | some c =>
        !((operandSpan pan b.a (b.m * b.sa) b.da).toList ++ (operandSpan pan b.b (b.k * b.sb) b.db).toList).any c.meets
      | none => false)

/-- The checks of R289, those of the ranges included. -/
def PressBlock.ok (b : PressBlock) (bs : List Byte) (pan quota : Nat) : Bool :=
  b.fieldsOk bs pan && (b.spans pan false).length ≤ quota

/-- The draws that a command reserves in a rounding mode (R294). -/
def PressBlock.draws (b : PressBlock) (rm : Nat) : Nat := if rm = 4 then b.m * b.n * (if b.complex then 2 else 1) else 0

/-- A rounding field with STATUS.RM at issue put in place of 0b111 (R267, R289). -/
def boundRound (field rm : Nat) : Nat := if field = 7 then rm else field

/-- A block with its rounding field bound. -/
def bindRound (bs : List Byte) (off rm : Nat) : List Byte :=
  bs.set off (BitVec.ofNat 8 (boundRound (fieldAt bs off 1) rm))

end Sys2Proof.Machine
end

