-- ==== Sys2Proof/Machine/Queue.lean ====
section
/-! DEFINITION. Acceptance into the queues of the engines and the Press, the end of a command, and what a ticket reports
(R264 to R266, R273 to R278, R287, R301, R307). -/

namespace Sys2Proof.Machine

open Sys2Proof

/-! ## Ranges (R273, R296) -/

/-- The command is a copy: of `rack`, `rackv` or `tmove`. -/
def CmdKind.isCopy (k : CmdKind) : Bool :=
  match k with
  | .copy | .rackv | .tmove => true
  | .coll | .press | .zero => false

/-- The ranges of a copy's sides (R273). -/
def State.copySpans (s : State) (place : Nat) (c : Cmd) : List Span :=
  let side (dst : Bool) : List Span :=
    ((s.sidePages c.part (placePan place) c.copy dst c.done).map fun x => (⟨x.1, x.2.1, x.2.2, dst⟩ : Span)).toList
  side false ++ side true

/-- The ranges that a follow-on's Press command will take (R273, R276). -/
def Cmd.followSpans (c : Cmd) (pan : Nat) : List Span :=
  if c.follow.isEmpty then [] else (pressBlock c.follow).spans pan false

/-- The ranges of a command and those it reserves (R273, R296, R306). -/
def State.cmdSpans (s : State) (place : Nat) (c : Cmd) : List Span × List Span :=
  match c.kind with
  | .copy | .rackv | .tmove => (s.copySpans place c, c.followSpans (placePan place))
  | .coll => ([], [])
  | .press => ((pressBlock c.block).spans (placePan place) false, [])
  | .zero => ((pressBlock c.block).spans (placePan place) true, [])

/-- Takes ranges for a command of a place in the order of acceptance. -/
def State.takeRanges (s : State) (place : Nat) (c : Cmd) (order : Nat) : State :=
  let x := s.cmdSpans place c
  let range (active : Bool) (y : Span) : Range :=
    ⟨place, c.id, c.part, y.pan, y.first, y.last, y.dest, active, order⟩
  { s with fab := { s.fab with ranges := s.fab.ranges ++ x.1.map (range true) ++ x.2.map (range false) } }

/-- The system queues' mark among the ranges of the scoreboards: no trellis has this number. -/
def systemQueue : Nat := 1024

/-- When the command of a range was accepted, or accepted again, as moves of pages see it: what replaces a halted command keeps its
order among the commands, and is later than a move that began before it was issued again (R70, R278). -/
def Range.accepted (r : Range) : Nat := max r.order r.cmd

/-- A command is held by the ranges of commands accepted before it, or by the move of a page that began before (R70, R273). -/
def State.heldBack (s : State) (place : Nat) (c : Cmd) : Bool :=
  let own (r : Range) : Bool := r.engine = place && r.cmd = c.id
  let sameQueue (r : Range) : Bool :=
    c.queue = 6 && r.engine = place && (s.engine place).cmds.any fun x => x.id = r.cmd && x.queue = 6
  (s.fab.ranges.filter fun r => own r && r.active).any fun m =>
    s.fab.ranges.any fun r =>
      r.active && !own r && r.order < (if r.engine = systemQueue then m.accepted else m.order) && r.part = m.part && r.pan = m.pan && r.first ≤ m.last &&
        m.first ≤ r.last && (r.dest || m.dest) && !sameQueue r

/-! ## Acceptance (R264, R265, R272, R275) -/

/-- A command of the thread at its turn, before its acceptance. -/
def State.newCmd (s : State) (kind : CmdKind) (queue : Nat) (bva : Word) (block shape follow : List Byte)
    (label tlabel : Label) (rm : Nat) : Cmd :=
  let t := s.t
  { id := 0, part := t.ident.part, uid := t.ident.uid, gang := t.ident.gang, gangid := t.ident.gangid, lthread := t.ident.lthread
    queue := queue, seq := 0, ticket := 0, kind := kind, bva := bva, block := block, shape := shape, follow := follow
    label := label, tlabel := tlabel, task := t.isTask, rm := rm, seed := 0, seedLabel := 0, draws := 0, done := 0
    flags := 0, read := 0, status := 0, cause := 0, state := .queued, startAt := 0, order := 0, after := []
    src := none, req := 0, fadr := 0, owed := false, clock := t.ctl.vclock }

/-- The commands that a queue of a partition holds at most (R260, R287). -/
def State.queueLimit (s : State) (part queue : Nat) : Nat :=
  if queue = 6 then
    match s.part? part with
    | some p => p.own.pressq
    | none => 0
  else if queue = 4 then 8 else 16

/-- A queue of a partition has room (R265, R287). -/
def State.queueRoom (s : State) (place part queue : Nat) : Bool :=
  ((s.engine place).cmds.filter fun x => x.part = part && x.queue = queue).length < s.queueLimit part queue

/-- There is room for a command: in its queue and among the ranges (R265, R273). -/
def State.roomFor (s : State) (place : Nat) (c : Cmd) : Bool :=
  let x := s.cmdSpans place c
  let n := x.1.length + x.2.length
  s.queueRoom place c.part c.queue && !s.overQuota place c.part &&
    s.rangesHeld place c.part + n ≤ s.rangeQuota (placePan place) &&
    (s.fab.ranges.filter fun r => r.engine = place).length + n ≤ 64

/-- The fences that hold a new command of a queue back (R275). -/
def Engine.fencesOn (e : Engine) (part queue : Nat) : List Nat :=
  (e.fences.filter fun f => f.part = part && f.mask.testBit (fenceBit queue)).map QFence.id

/-- Accepts a command: its SEQ and ticket, its ranges, the fences before it, its issuer's causal past, and the advance of its
issuer's SEED (R264, R265, R272, R273, R275, R294, R343). -/
def State.accept (s : State) (place : Nat) (c : Cmd) : Cmd × State :=
  let e := s.engine place
  let seq := e.nextSeq c.part c.queue
  let (id, s) := s.fresh
  let seeds : Word × Label := match s.thread c.uid with
    | some t => (t.ctl.seed, t.ctl.seedLabel)
    | none => (1, 0)
  let clock := joinClock (match s.thread c.uid with
    | some t => t.ctl.vclock
    | none => c.clock) (clockAt e.fenced c.part c.queue)
  let c := { c with
    id := id, seq := seq, ticket := ticketWord seq c.queue place 0, order := id, seed := seeds.1, seedLabel := seeds.2
    after := e.fencesOn c.part c.queue, clock := clock }
  let s := s.takeRanges place c id
  let s := if c.draws = 0 then s else s.modThread c.uid fun t => t.draw c.draws
  let s := s.modEngine place fun e => { e.takeSeq c.part c.queue with cmds := e.cmds ++ [c] }
  (c, s)

/-- A fence of a partition is accepted: its before-set, with the clock of the commands that have already left its queues, and its
end at once when nothing of that set is left (R275, R341). -/
def State.acceptFence (s : State) (place part gang uid mask : Nat) : Word × State :=
  let e := s.engine place
  let seq := e.nextSeq part 5
  let (id, s) := s.fresh
  let before := (e.cmds.filter fun c => c.part = part && mask.testBit (fenceBit c.queue)).map Cmd.id
  let f : QFence := ⟨id, part, seq, ticketWord seq 5 place 0, mask, before, gang, uid,
    (fenceQueues mask).foldl (fun (k : List Nat) q => joinClock k (clockAt e.past part q)) (List.replicate 16 0)⟩
  let s := s.modEngine place fun e => { e.takeSeq part 5 with fences := e.fences ++ [f] }
  (f.ticket, if before.isEmpty then s.retireFence place f else s)

/-- The partition may have one fence more outstanding in an engine (R265). -/
def State.fenceRoom (s : State) (place part : Nat) : Bool :=
  ((s.engine place).fences.filter fun f => f.part = part).length < 8

/-! ## The first read of a segment (R261) -/

/-- The latency of a command's next segment, and its bytes (R261). -/
def segmentOf (place : Nat) (s : State) (c : Cmd) : Nat × Nat :=
  let pan := placePan place
  let latency (va : Word) : Nat :=
    match s.placeOf c.part pan va readKind c.task with
    | .ok t => s.readLatency place t.loc
    | .error _ => 4
  if c.kind.isCopy then
    let x := c.copy
    let f := (s.sideFmt c.part pan x true c.done).bind Prod.fst
    let n := min (x.segment f) (x.elems - c.done)
    (if n = 0 then 0 else latency (x.addr false ((s.sideFmt c.part pan x false c.done).bind Prod.fst) c.done).1, (n * x.bits f + 7) / 8)
  else (latency (wordAt c.block 0), 0)

/-- The ready commands of an engine and of its Press start (R261, R274, R287). -/
def State.kickAll (s : State) (place : Nat) : State := (s.kick place (segmentOf place)).kickPress place

/-- A waiting command or fence is tried again (R265). -/
def State.tryWait (s : State) (place : Nat) (w : CmdWait) : State :=
  let drop (s : State) : State := s.modEngine place fun e => { e with waits := e.waits.filter fun x => x.fill ≠ w.fill }
  match w.fence with
  | some mask =>
    if s.fenceRoom place w.cmd.part then
      let (t, s) := (drop s).acceptFence place w.cmd.part w.cmd.gang w.cmd.uid mask
      s.deliver w.fill 0 t none 0
    else s
  | none =>
    if s.roomFor place w.cmd then
      let (c, s) := (drop s).accept place w.cmd
      s.deliver w.fill 0 c.ticket none 0
    else s

/-- What waits for room is tried again in its order, and what is ready starts (R265, R274). -/
def State.turnQueues (s : State) (place : Nat) : State :=
  ((s.engine place).waits.foldl (fun (s : State) w => s.tryWait place w) s).kickAll place

/-! ## The end of a command (R261, R266, R275) -/

/-- Copies that have landed try to hand their follow-ons over: in the order they landed, then by queue (R276). -/
def State.pushFollowOns (s : State) (place part : Nat) : State :=
  let landed := (s.engine place).cmds.filter fun c => c.part = part && c.state == .landed && !c.follow.isEmpty
  let before (x y : Cmd) : Bool := x.startAt < y.startAt || (x.startAt = y.startAt && x.queue ≤ y.queue)
  (sortBy before landed).foldl (fun (s : State) c => s.scheduleOnce s.time.cycle (.followOnEnqueue place c.id)) s

/-- A command leaves its engine with a status: its record, its ranges, the fences and waits for it, and what it kept
waiting (R266, R273, R275, R278, R301). A copy that ends without its follow-on answers the waits for that too. -/
def State.endCmd (s : State) (place id : Nat) (status cause : Nat) : State :=
  match s.cmd? place id with
  | none => s
  | some c =>
    let word := statusWord status cause c.flags c.done
    let src := if c.follow.isEmpty then c.src else some c.ticket
    let s := s.modEngine place fun e =>
      { e with cmds := e.cmds.filter (fun x => x.id ≠ id), past := clockInto e.past c.part c.queue c.clock }.record ⟨c.part, c.queue, c.seq, c.ticket, word, c.read, src, c.clock⟩
    let s := (s.freeRanges place id).leaveFences id c.clock
    let lost := !c.follow.isEmpty && status ≠ statusOk
    let s := s.answerWaits c.part c.ticket c.src (c.queue = 6 || lost) word c.read c.clock
    let s := if c.queue = 6 then s.pushFollowOns place c.part else s
    s.turnQueues place

/-! ## Submission (R262, R264, R265) -/

/-- Fills d with the ticket of a refused command (R264). -/
def State.refuse (s : State) (d : Reg) (label : Label) : State :=
  let (fid, s) := s.newFill [d] 1 label 0 .plain true false
  (s.deliver fid 0 refusedTicket none 4).goOn true 4

/-- Submits a command of the thread at its turn: accepted at once, or when there is room (R264, R265). -/
def State.submit (s : State) (d : Reg) (c : Cmd) : State :=
  let place := s.t.place
  let (fid, s) := s.newFill [d] 1 c.tlabel 0 .plain true false
  let s := if s.roomFor place c then
      let (c, s) := s.accept place c
      (s.deliver fid 0 c.ticket none 4).kickAll place
    else s.modEngine place fun e => { e with waits := e.waits ++ [⟨c, none, fid⟩] }
  s.goOn true 4

/-- Fills d with the ticket of a command that takes the place and the ticket of a halted one; its number and ranges are
given (R278, R301). -/
def State.replaceHalted (s : State) (d : Reg) (old new : Cmd) : State :=
  let place := s.t.place
  let (fid, s) := s.newFill [d] 1 new.tlabel 0 .plain true false
  let c := { new with
    seq := old.seq, ticket := old.ticket, order := old.order, src := old.src
    clock := joinClock (joinClock new.clock old.clock) (clockAt (s.engine place).fenced old.part old.queue) }
  let s := s.modEngine place fun e => { e with
    cmds := e.cmds.map fun x => if x.id = old.id then c else x
    fences := e.fences.map fun (f : QFence) => { f with before := f.before.map fun x => if x = old.id then c.id else x } }
  (((s.deliver fid 0 c.ticket none 4).turnQueues place).goOn true 4)

/-! ## What a ticket reports (R266, R307) -/

/-- What a ticket stands for: a status already final with its label and the clock that a wait joins, a live command, or a live
fence. -/
inductive Standing where
  | final (word : Word) (label : Label) (clock : List Nat)
  | live (c : Cmd)
  | fence

/-- A status that is no command's. -/
def bareStatus (n : Nat) : Word := statusWord n 0 0 0

/-- SEQ s has been issued (R266). -/
def Engine.issued (e : Engine) (part kind seq : Nat) : Bool :=
  let d := (e.nextSeq part kind + 2 ^ 16 - seq) % 2 ^ 16
  1 ≤ d && d ≤ 2 ^ 15

/-- A ticket that stands for nothing more than a status (R266). -/
def Standing.bare (n : Nat) : Standing := .final (bareStatus n) 0 (List.replicate 16 0)

/-- What a ticket stands for in the engines of the thread at its turn, where a fold has moved what its gang had there (R266,
R281). -/
def State.standing (s : State) (w : Word) : Standing :=
  let place := s.t.place
  let part := s.t.ident.part
  let e := s.engine place
  let kind := fieldOf w 16 3
  if fieldOf w 32 16 ≠ 0 || kind = 7 then Standing.bare statusRecord
  else
    match e.cmds.find? fun c => c.part = part && c.ticket = w with
    | some c => .live c
    | none =>
      if e.fences.any fun f => f.part = part && f.ticket = w then .fence
      else
        match e.retired.find? fun r => r.part = part && r.ticket = w with
        | some r => .final r.status r.label r.clock
        | none =>
          if fieldOf w 19 10 ≠ place || fieldOf w 29 3 ≠ 0 || fieldOf w 48 16 ≠ 0 then
            Standing.bare statusRecord
          else if e.issued part kind (fieldOf w 0 16) then Standing.bare statusStale
          else Standing.bare statusRecord

/-- What a ticket stands for to `pwait` and `pprog`: a Press command, or the follow-on of a copy, STALE once it is no longer kept
(R307). -/
def State.pressStanding (s : State) (w : Word) : Standing :=
  let part := s.t.ident.part
  let e := s.engine s.t.place
  let kind := fieldOf w 16 3
  if kind = 6 then s.standing w
  else if kind = 4 || kind = 5 then Standing.bare statusRecord
  else
    match e.cmds.find? fun c => c.part = part && (c.queue = 6 && c.src = some w) with
    | some c => .live c
    | none =>
      match e.retired.find? fun r => r.part = part && r.queue = 6 && r.src = some w with
      | some r => .final r.status r.label r.clock
      | none =>
        match s.standing w with
        | .live c => if c.follow.isEmpty then Standing.bare statusRecord else .live { c with state := .queued, done := 0, flags := 0 }
        | .final word l k =>
          match e.retired.find? fun r => r.part = part && r.ticket = w with
          | some r =>
            if r.src.isNone then Standing.bare statusRecord
            else if fieldOf word 0 16 = statusOk then Standing.bare statusStale
            else .final word l k
          | none => .final word l k
        | .fence => Standing.bare statusRecord

/-- Gives d a status as a load from the engine's own cellar would fill it (R266, R307). -/
def State.giveStatus (s : State) (d : Reg) (word : Word) (label : Label) : State :=
  let (fid, s) := s.newFill [d] 1 label 0 .plain false false
  s.deliver fid 0 word none 4

/-- Fills d with a status, and the thread goes on (R266, R307). -/
def State.fillStatus (s : State) (d : Reg) (word : Word) (label : Label) : State := (s.giveStatus d word label).retire 4

/-- The status of a ticket now (R266, R307). -/
def State.report (s : State) (d : Reg) (x : Standing) (label : Label) : State :=
  match x with
  | .final w l _ => s.fillStatus d w (label ||| l)
  | .live c => s.fillStatus d c.word label
  | .fence => s.fillStatus d (bareStatus statusPending) label

/-- A result of the thread at its turn waits for the end of a ticket; a halted command is abandoned (R266, R278, R301, R307). -/
def State.watchTicket (s : State) (d : Reg) (w : Word) (press : Bool) (x : Standing) (label : Label) : State :=
  let place := s.t.place
  let wait (s : State) : State := (s.newFill [d] 1 label 0 (.ticket place w press) false false).2
  match x with
  | .final word l k => { s with t := s.t.joinPast k }.giveStatus d word (label ||| l)
  | .fence => wait s
  | .live c =>
    let s := wait s
    if c.state == .halted then s.endCmd place c.id statusFault c.cause else s

/-- Waits for the end of a ticket, with the thread in rotation (R266, R307). -/
def State.awaitTicket (s : State) (d : Reg) (w : Word) (press : Bool) (x : Standing) (label : Label) : State :=
  (s.watchTicket d w press x label).retire 4

end Sys2Proof.Machine
end

