-- ==== Sys2Proof/Machine/Rack.lean ====
section
/-! DEFINITION. The instructions of the racking engine but for the collectives (R262, R263, R267 to R270, R275, R277 to
R280). -/

namespace Sys2Proof.Machine

open Sys2Proof

/-! ## Reading blocks at issue (R277, R305) -/

/-- Reads a 64-byte block, or longer, for the thread at its turn: with the traps of R277 and R305, once the bytes can be read (R70,
R273, R338, R343). -/
def State.readBlock (s : State) (va : Word) (n : Nat) (reads : List Reg) (k : State → List Byte → Label → Result) : Result :=
  let t := s.t
  if s.readHeld va n then .next (s.hold .waits)
  else match s.readVa t.ident.part t.localPan va n t.isTask with
  | .error ((c, info), addr) => .next (s.fail c addr info reads (s.labelsBefore t.ident.part t.localPan va n addr t.isTask))
  | .ok (bs, l) =>
    let s := s.blockRead va n
    if !labelLe (l ||| t.ctl.clabel) (partLabel t.ident.part) then .next (s.fail .label va 0 reads l) else k s bs l

/-- Puts a shape record into an engine's cache of 16, the latest used first (R269). -/
def Engine.keepShape (e : Engine) (x : ShapeEntry) : Engine :=
  { e with shapes := (x :: e.shapes.filter fun y => !(y.part = x.part && y.va = x.va)).take 16 }

/-- The shape record of a command: from the engine's cache, or read and cached (R269). -/
def State.shapeRecord (s : State) (va : Word) (reads : List Reg) (k : State → List Byte → Label → Result) : Result :=
  let part := s.t.ident.part
  let place := s.t.place
  match (s.engine place).shapes.find? fun x => x.part = part && x.va = va with
  | some x =>
    let s := s.modEngine place fun e => e.keepShape x
    if !labelLe (x.label ||| s.t.ctl.clabel) (partLabel part) then .next (s.fail .label va 0 reads x.label)
    else k s x.data x.label
  | none =>
    s.readBlock va 64 reads fun s bs l => k (s.modEngine place fun e => e.keepShape ⟨part, va, bs, l⟩) bs l

/-! ## The checks at acceptance (R265 to R268, R271) -/

/-- The extents of a shape record lie within their limits and give ELEMS. -/
def extentsOk (x : Copy) : Bool :=
  (x.ext.all fun e => 1 ≤ e && e ≤ 2 ^ 24) && x.ext.foldl (· * ·) 1 = x.elems

/-- The fields of a shape record (R268). -/
def shapeOk (bs : List Byte) : Bool :=
  let e := fieldAt bs 0x38 1
  (e = 1 || e = 2 || e = 4 || e = 8) && fieldAt bs 0x39 1 < 64 && zeroAt bs 0x3A 6

/-- A layout that is not 0b00 is of a global source read densely, with the element size of the source (R267). -/
def Copy.layoutOk (x : Copy) : Bool :=
  x.layout = 0 || (isGlobal (x.origin false).toNat && x.isShaped true &&
    (if x.srcRaw then 2 ^ x.lsize = x.esize else 8 * 2 ^ x.lsize = fmtBits (Fmt.ofCode x.srcCode)))

/-- The fields of a command block, with its record bound (R267, R271). -/
def copyBlockOk (pan : Nat) (bs shape : List Byte) : Bool :=
  let x := copyOf bs shape
  let sf := fieldAt bs 0x29 1
  let round := fieldAt bs 0x2A 1
  let lay := fieldAt bs 0x2B 1
  1 ≤ x.elems && x.elems ≤ 2 ^ 24 && extentsOk x && fieldAt bs 0x24 4 ≤ x.elems && fieldAt bs 0x28 1 < 4 &&
    (if sideInPan pan (x.origin false) then sf = 0 else bitsAt sf 5 2 = 0 && !(8 ≤ sf % 32 && sf % 32 ≤ 11)) &&
    round < 8 && round ≠ 5 && round ≠ 6 && lay < 32 && bitsAt lay 2 2 ≠ 3 && fieldAt bs 0x2C 2 < 2 &&
    zeroAt bs 0x2E 18 && x.layoutOk && shapeOk shape

/-! ## `rack` (R279) -/

/-- The halted copy of the same block and queue that a `rack` of its own thread resumes (R278). -/
def State.haltedCopy (s : State) (place part queue : Nat) (va : Word) : Option Cmd :=
  (s.engine place).cmds.find? fun c =>
    c.part = part && c.uid = s.t.ident.uid && c.queue = queue && c.kind == CmdKind.copy && c.state == .halted && c.bva = va

/-- An address in no range of R231 that is open to the thread's mode (R277, R305). -/
def State.outside (s : State) (va : Word) : Bool :=
  s.vaClass va == .none || (s.vaClass va == .device && !s.t.isDevice)

/-- `rack` with its three blocks read: PROT for a side outside the ranges of R231, the refusals, the resumption of a halted copy,
and the submission (R265, R272, R277 to R279). `own` is the label of the command block's page. -/
def rackWith (d a : Reg) (va : Word) (bs shape follow : List Byte) (own labels : Label) (s : State) : Result :=
  let t := s.t
  let pan := t.ident.pan
  let place := t.place
  let part := t.ident.part
  let stRm := fieldOf t.ctl.status 2 3
  let tlabel := s.resultLabel [a] ||| own
  let rm := boundRound (fieldAt bs 0x2A 1) stRm
  let block := bindRound bs 0x2A stRm
  let follow := if follow.isEmpty then follow else bindRound follow 0x36 stRm
  let fb := pressBlock follow
  let x := copyOf block shape
  let sourceFmt := (s.sideFmt part pan x false 0).bind Prod.fst
  let done := fieldAt block 0x24 4
  let c := { s.newCmd .copy (fieldAt block 0x28 1) va block shape follow (t.ctl.clabel ||| labels) tlabel rm with
    done := done }
  let ok := copyBlockOk pan bs shape && (s.laidOut part x sourceFmt t.isTask 0).layoutOk &&
    (follow.isEmpty || fb.ok follow pan (s.rangeQuota pan)) && !s.sidesOverlap part pan x done
  if s.outside (x.origin false) then .next (s.fail .prot (x.origin false) 0 [a] labels)
  else if s.outside (x.origin true) then .next (s.fail .prot (x.origin true) 0 [a] labels)
  else if !ok then .next (s.refuse d tlabel)
  else
    let draws := s.copyDraws part pan x done rm + (if follow.isEmpty then 0 else fb.draws fb.round)
    let c := { c with draws := draws }
    match s.haltedCopy place part c.queue va with
    | some old =>
      let seed := t.ctl.seed
      let s := { s with t := s.t.draw draws }
      let s := { s with fab := { s.fab with ranges := s.fab.ranges.filter fun r => !(r.engine = place && r.cmd = old.id) } }
      let (id, s) := s.fresh
      let c := { c with id := id, seed := seed, seedLabel := t.ctl.seedLabel }
      let s := (s.takeRanges place c old.order).releaseHeld
      .next (s.replaceHalted d old c)
    | none => .next (s.submit d c)

/-- `rack`: submits a copy command block (R279). -/
def execRack (d a : Reg) (s : State) : Result :=
  s.issue { Uses.none with away := !s.t.atOrigin, dests := [d], srcs := [(a, false)], mem := true } fun s =>
    s.commandWait fun s =>
      let va := s.val a
      if va.toNat % 64 ≠ 0 then .next (s.fail .align va 0 [a] 0)
      else
        s.readBlock va 64 [a] fun s bs l1 =>
          let shapeVa := wordAt bs 0x10
          let followVa := wordAt bs 0x18
          if shapeVa = 0 || shapeVa.toNat % 64 ≠ 0 || followVa.toNat % 64 ≠ 0 then
            .next (s.refuse d (s.resultLabel [a] ||| l1))
          else
            s.shapeRecord shapeVa [a] fun s shape l2 =>
              if followVa = 0 then rackWith d a va bs shape [] l1 (l1 ||| l2) s
              else
                s.readBlock followVa 64 [a] fun s follow l3 =>
                  rackWith d a va bs shape follow l1 (l1 ||| l2 ||| l3) s

/-! ## `rackv` (R280) -/

/-- The block that stands for a `rackv`: source, destination and length. -/
def rackvBlock (src dst : Word) (n : Nat) : List Byte :=
  natBytes 8 src.toNat ++ natBytes 8 dst.toNat ++ List.replicate 16 0 ++ natBytes 4 n ++ List.replicate 28 0

/-- `rackv`: submits a copy of raw bytes, with length and queue in d + 1 (R280). -/
def execRackv (d a b : Reg) (s : State) : Result :=
  let r2 := nextReg d
  s.issue { Uses.none with away := !s.t.atOrigin, dests := [d], mem := true
                           srcs := [(a, false), (b, false), (r2, false)] } fun s =>
    s.commandWait fun s =>
      let dst := s.val a
      let src := s.val b
      let w := s.val r2
      let n := fieldOf w 0 25
      let queue := fieldOf w 32 2
      let tlabel := s.resultLabel [a, b, r2]
      if s.outside dst then .next (s.fail .prot dst 0 [a, b, r2] 0)
      else if s.outside src then .next (s.fail .prot src 0 [a, b, r2] 0)
      else
        let c := s.newCmd .rackv queue 0 (rackvBlock src dst n) [] [] s.t.ctl.clabel tlabel 0
        let bad := n = 0 || 2 ^ 24 < n || fieldOf w 25 7 ≠ 0 || fieldOf w 34 30 ≠ 0 ||
          s.sidesOverlap s.t.ident.part s.t.ident.pan c.copy 0
        if bad then .next (s.refuse d tlabel)
        else .next (s.submit d c)

/-! ## `rfence` (R270) -/

/-- Discards the cached shape records of a partition in the engines of some places (R270). -/
def State.dropShapes (s : State) (part : Nat) (f : Nat → Bool) : State :=
  let clear (e : Engine) : Engine :=
    if f e.place then { e with shapes := e.shapes.filter fun x => x.part ≠ part } else e
  { s with engines := s.engines.map clear }

/-- `rfence.engine`: in the origin trellis's engine (R270). -/
def execRfenceEngine (s : State) : Result :=
  s.issue { Uses.none with away := !s.t.atOrigin } fun s =>
    s.releaseWait true fun s =>
      let place := s.t.place
      .next ((s.dropShapes s.t.ident.part fun k => k = place).retire 4)

/-- `rfence.partition`: in every engine of the partition's Pans (R270). -/
def execRfencePartition (s : State) : Result :=
  s.issue { Uses.none with away := !s.t.atOrigin } fun s =>
    s.releaseWait true fun s =>
      let part := s.t.ident.part
      .next ((s.dropShapes part fun k => s.ownsPan part (placePan k)).retire 4)

/-! ## Fences and tickets (R266, R275) -/

/-- `qfence`: orders later commands of the named queues after earlier ones (R275). -/
def execQfence (d a : Reg) (s : State) : Result :=
  s.issue { Uses.none with away := !s.t.atOrigin, dests := [d], srcs := [(a, false)], mem := true } fun s =>
    let mask := fieldOf (s.val a) 0 6
    let part := s.t.ident.part
    let place := s.t.place
    let l := s.resultLabel [a]
    let c := s.newCmd .copy 5 0 [] [] [] 0 l 0
    let (fid, s) := s.newFill [d] 1 l 0 .plain true false
    let s := if s.fenceRoom place part then
        let (t, s) := s.acceptFence place part s.t.ident.gang s.t.ident.uid mask
        s.deliver fid 0 t none 4
      else s.modEngine place fun e => { e with waits := e.waits ++ [⟨c, some mask, fid⟩] }
    .next (s.goOn true 4)

/-- `qwait`: fills d when the ticket's command retires; a halted copy is abandoned (R266, R278). -/
def execQwait (d a : Reg) (s : State) : Result :=
  s.issue { Uses.none with away := !s.t.atOrigin, dests := [d], srcs := [(a, false)] } fun s =>
    let w := s.val a
    let press := fieldOf w 16 3 = 6
    .next (s.awaitTicket d w press (s.standing w) (s.resultLabel [a]))

/-- `rstat`: the status of a ticket now (R266). -/
def execRstat (d a : Reg) (s : State) : Result :=
  s.issue { Uses.none with away := !s.t.atOrigin, dests := [d], srcs := [(a, false)] } fun s =>
    .next (s.report d (s.standing (s.val a)) (s.resultLabel [a]))

end Sys2Proof.Machine
end

