-- ==== Sys2Proof/Machine/Signature.lean ====
section
/-! DEFINITION. SHAKE256 (FIPS 202) and the verification of SLH-DSA-SHAKE-256s (FIPS 205), the external standards by which the
security controller digests and verifies (R379, R407, R422; assumption 6). -/

namespace Sys2Proof.Machine

open Sys2Proof

/-! ## SHAKE256 -/

/-- The rotations of the 25 lanes, by x + 5y (FIPS 202). -/
def keccakRotations : List Nat :=
  [0, 1, 62, 28, 27, 36, 44, 6, 55, 20, 3, 10, 43, 25, 39, 41, 45, 15, 21, 8, 18, 2, 61, 56, 14]

/-- The constants of the 24 rounds (FIPS 202). -/
def keccakConstants : List Word :=
  [0x0000000000000001, 0x0000000000008082, 0x800000000000808A, 0x8000000080008000, 0x000000000000808B, 0x0000000080000001,
   0x8000000080008081, 0x8000000000008009, 0x000000000000008A, 0x0000000000000088, 0x0000000080008009, 0x000000008000000A,
   0x000000008000808B, 0x800000000000008B, 0x8000000000008089, 0x8000000000008003, 0x8000000000008002, 0x8000000000000080,
   0x000000000000800A, 0x800000008000000A, 0x8000000080008081, 0x8000000000008080, 0x0000000080000001, 0x8000000080008008]

/-- One round of the permutation on 25 lanes (FIPS 202). -/
def keccakRound (a : List Word) (rc : Word) : List Word :=
  let lane (l : List Word) (x y : Nat) : Word := l.getD (x % 5 + 5 * (y % 5)) 0
  let c := (List.range 5).map fun x => lane a x 0 ^^^ lane a x 1 ^^^ lane a x 2 ^^^ lane a x 3 ^^^ lane a x 4
  let d := (List.range 5).map fun x => c.getD ((x + 4) % 5) 0 ^^^ (c.getD ((x + 1) % 5) 0).rotateLeft 1
  let t := (List.range 25).map fun i => (a.getD i 0 ^^^ d.getD (i % 5) 0).rotateLeft (keccakRotations.getD i 0)
  let b := (List.range 25).map fun i => lane t (i % 5 + 3 * (i / 5)) (i % 5)
  (List.range 25).map fun i =>
    let x := i % 5
    let y := i / 5
    lane b x y ^^^ (~~~lane b (x + 1) y &&& lane b (x + 2) y) ^^^ (if i = 0 then rc else 0)

/-- The permutation (FIPS 202). -/
def keccak (a : List Word) : List Word := keccakConstants.foldl keccakRound a

/-- A block of 136 bytes is taken in (FIPS 202). -/
def keccakAbsorb (a : List Word) (block : List Byte) : List Word :=
  keccak ((List.range 25).map fun i => a.getD i 0 ^^^ BitVec.ofNat 64 (bytesNat ((block.drop (8 * i)).take 8)))

/-- A message with its domain bits and padding (FIPS 202). -/
def shakePadded (m : List Byte) : List Byte :=
  let k := 136 - m.length % 136
  m ++ (if k = 1 then [0x9F] else 0x1F :: List.replicate (k - 2) 0 ++ [0x80])

/-- The lanes after all blocks of a padded message. -/
def shakeLanes (m : List Byte) : List Word :=
  let p := shakePadded m
  (List.range (p.length / 136)).foldl (fun (a : List Word) k => keccakAbsorb a ((p.drop (136 * k)).take 136)) (List.replicate 25 0)

/-- The output, block by block. -/
def shakeSqueeze : Nat → List Word → List Byte
  | 0, _ => []
  | fuel + 1, a => (a.take 17).flatMap (fun w => natBytes 8 w.toNat) ++ shakeSqueeze fuel (keccak a)

/-- SHAKE256 with an output of n bytes (FIPS 202). -/
def shake256 (m : List Byte) (n : Nat) : List Byte := (shakeSqueeze ((n + 135) / 136) (shakeLanes m)).take n

/-! ## SLH-DSA-SHAKE-256s: n = 32, h = 64, d = 8, a = 14, k = 22, w = 16 -/

/-- A number as bytes, the most significant first. -/
def bigBytes (n v : Nat) : List Byte := (natBytes n v).reverse

/-- The number of bytes, the most significant first. -/
def bigNat (bs : List Byte) : Nat := bytesNat bs.reverse

/-- The first integers of b bits in bytes, the most significant first (FIPS 205). -/
def baseTwo (bs : List Byte) (b n : Nat) : List Nat :=
  let v := bigNat bs
  (List.range n).map fun k => v / 2 ^ (8 * bs.length - b * (k + 1)) % 2 ^ b

/-- The address of a hash: layer, tree and type, and the three words that a type gives a meaning (FIPS 205). -/
structure SlhAddr where
  layer : Nat
  tree  : Nat
  type  : Nat
  w1    : Nat
  w2    : Nat
  w3    : Nat
  deriving DecidableEq, Repr

/-- The 32 bytes of an address (FIPS 205). -/
def SlhAddr.bytes (a : SlhAddr) : List Byte :=
  bigBytes 4 a.layer ++ bigBytes 12 a.tree ++ bigBytes 4 a.type ++ bigBytes 4 a.w1 ++ bigBytes 4 a.w2 ++ bigBytes 4 a.w3

/-- The hash of values at an address: F, H and T of FIPS 205. -/
def slhHash (seed : List Byte) (a : SlhAddr) (m : List Byte) : List Byte := shake256 (seed ++ a.bytes ++ m) 32

/-- The element of 32 bytes at a place. -/
def slhElem (bs : List Byte) (i : Nat) : List Byte := (bs.drop (32 * i)).take 32

/-- The root that a leaf and its authentication path give, from the index of the leaf at a height (FIPS 205). -/
def slhRoot (seed : List Byte) (a : SlhAddr) (path : List Byte) (height index : Nat) (leaf : List Byte) : List Byte :=
  ((List.range height).foldl (fun (x : List Byte × Nat) j =>
    let up := x.2 / 2
    let pair := if x.2 % 2 = 0 then x.1 ++ slhElem path j else slhElem path j ++ x.1
    (slhHash seed { a with w2 := j + 1, w3 := up } pair, up)) (leaf, index)).1

/-- The digits of a WOTS+ message with those of its checksum (FIPS 205). -/
def wotsDigits (m : List Byte) : List Nat :=
  let ds := baseTwo m 4 64
  let sum := ds.foldl (fun n x => n + (15 - x)) 0
  ds ++ baseTwo (bigBytes 2 (sum * 16)) 4 3

/-- The WOTS+ public key that a signature of a message gives, for a leaf (FIPS 205). -/
def wotsKey (seed : List Byte) (a : SlhAddr) (sig m : List Byte) (leaf : Nat) : List Byte :=
  let a := { a with type := 0, w1 := leaf }
  let ds := wotsDigits m
  let chain (i : Nat) : List Byte :=
    let from_ := ds.getD i 0
    (List.range (15 - from_)).foldl (fun (x : List Byte) j => slhHash seed { a with w2 := i, w3 := from_ + j } x) (slhElem sig i)
  slhHash seed { a with type := 1, w2 := 0, w3 := 0 } ((List.range 67).flatMap chain)

/-- The root that an XMSS signature of a message gives, for a leaf (FIPS 205). -/
def xmssRoot (seed : List Byte) (a : SlhAddr) (sig m : List Byte) (leaf : Nat) : List Byte :=
  slhRoot seed { a with type := 2, w1 := 0 } (sig.drop (32 * 67)) 8 leaf (wotsKey seed a sig m leaf)

/-- The FORS public key that a signature of a digest gives (FIPS 205). -/
def forsKey (seed : List Byte) (a : SlhAddr) (sig md : List Byte) : List Byte :=
  let ds := baseTwo md 14 22
  let root (i : Nat) : List Byte :=
    let part := sig.drop (32 * 15 * i)
    let index := i * 2 ^ 14 + ds.getD i 0
    slhRoot seed a (part.drop 32) 14 index (slhHash seed { a with w2 := 0, w3 := index } (slhElem part 0))
  slhHash seed { a with type := 4, w2 := 0, w3 := 0 } ((List.range 22).flatMap root)

/-- A signature of a message by the holder of a key: pure SLH-DSA-SHAKE-256s with an empty context (R379; FIPS 205). -/
def signatureOk (key m sig : List Byte) : Bool :=
  let seed := key.take 32
  let top := slhElem key 1
  let r := slhElem sig 0
  let fors := sig.drop 32
  let ht := fors.drop (32 * 15 * 22)
  let digest := shake256 (r ++ seed ++ top ++ [0, 0] ++ m) 47
  let tree := bigNat ((digest.drop 39).take 7)
  let leaf := bigNat ((digest.drop 46).take 1)
  let start := forsKey seed ⟨0, tree, 3, leaf, 0, 0⟩ fors (digest.take 39)
  let out := (List.range 8).foldl (fun (x : List Byte × Nat × Nat) j =>
    let part := ht.drop (32 * 75 * j)
    (xmssRoot seed ⟨j, x.2.1, 0, 0, 0, 0⟩ part x.1 x.2.2, x.2.1 / 2 ^ 8, x.2.1 % 2 ^ 8)) (start, tree, leaf)
  key.length = 64 && sig.length = 29792 && out.1 == top

end Sys2Proof.Machine
end

