-- ==== Sys2Proof/Machine/Sluice.lean ====
section
/-! DEFINITION. The Sluice, the label maps of the ports, release policies and label grants (R374 to R380, R383). -/

namespace Sys2Proof.Machine

open Sys2Proof

/-! ## Labels across a link (R374, R375) -/

/-- The port whose route reaches a chip, when it is up (R374). -/
def State.portFor (s : State) (chip : Nat) : Option Port := s.sec.ports.find? fun p => p.up && p.chips.contains chip

/-- A port by its number. -/
def State.port? (s : State) (n : Nat) : Option Port := s.sec.ports.find? fun p => p.num = n

/-- The local partition that a port's partition map gives for a sending partition of its peer; none where it gives none
(R50). -/
def State.localOf (s : State) (port : Nat) (sender : Option Nat) : Option Nat :=
  match s.port? port, sender with
  | some q, some p => (q.parts[p]?).join
  | _, _ => none

/-- The bits of a label, in ascending order. -/
def labelBits (l : Label) : List Nat := bitsOf 32 l.toNat

/-- A label from its bits. -/
def labelOfBits (bs : List Nat) : Label := bs.foldl (fun (l : Label) b => l ||| BitVec.ofNat 32 (2 ^ b)) 0

/-- A label leaving by a port, or the reason it is refused: 4 on a port without a map, 5 for a bit without an entry
(R375). -/
def mapOut (p : Port) (sender : Nat) (l : Label) : Except Nat Label :=
  if p.attested then
    let bits := (labelBits l).map fun b => (p.map[b]?).join
    if bits.all Option.isSome then .ok (labelOfBits (bits.filterMap id)) else .error 5
  else if labelLe l (partLabel sender) then .ok l
  else .error 4

/-- A label arriving by a port for a local partition; none where the packet is refused (R375). -/
def mapIn (p : Port) (part : Nat) (l : Label) : Option Label :=
  if p.attested then
    let bits := (labelBits l).map fun b => (List.range 32).find? fun k => (p.map[k]?).join = some b
    if bits.all Option.isSome then some (labelOfBits (bits.filterMap id)) else none
  else some (partLabel part)

/-! ## The decision (R377) -/

/-- A destination outside the package: a host virtual function, a chip, or a telemetry receiver (R376, R378). -/
inductive Dest where
  | host (vf : Nat)
  | chip (n : Nat)
  | telemetry (vf : Nat)
  deriving DecidableEq, Repr

/-- DKIND of a destination (R378). -/
def Dest.kind (d : Dest) : Nat :=
  match d with
  | .host _ => 0
  | .chip _ => 1
  | .telemetry _ => 2

/-- DEST of a destination (R378). -/
def Dest.num (d : Dest) : Nat :=
  match d with
  | .host n | .chip n | .telemetry n => n

/-- The destination of a DKIND and DEST. -/
def destOfKind (kind num : Nat) : Dest :=
  match kind with
  | 0 => .host num
  | 1 => .chip num
  | _ => .telemetry num

/-- A virtual function by its number. -/
def State.vf? (s : State) (n : Nat) : Option VirtFn := s.vfs.find? fun v => v.num = n && v.valid

/-- The partition that owns a destination, for a sending partition; none where it is unbound or unreachable (R377,
R383). -/
def State.destOwner (s : State) (part : Nat) (d : Dest) : Option Nat :=
  match d with
  | .host vf | .telemetry vf => (s.vf? vf).map VirtFn.part
  | .chip n => (s.portFor n).map fun _ => part

/-- The microseconds since the boot of the security controller (R378). -/
def State.bootMicros (s : State) : Nat := (s.time.cycle - s.sec.bootAt) / 1400

/-- A policy entry matches a label and a destination (R377). -/
def Policy.fits (e : Policy) (l : Label) (d : Dest) : Bool := labelLe l e.labels && e.dkind = d.kind && e.dest = d.num

/-- The policy entries in ascending table index. -/
def State.policyOrder (s : State) : List Policy := sortBy (fun x y => x.place ≤ y.place) s.sec.policies

/-- Adds to the count of an entry. -/
def State.usePolicy (s : State) (place n : Nat) : State :=
  { s with sec := { s.sec with policies := s.sec.policies.map fun (e : Policy) =>
    if e.place = place then { e with used := e.used + n } else e } }

/-- The Sluice decides an egress of n bytes (R377): the label as it leaves, or the reason of the refusal. -/
def State.sluice (s : State) (part : Nat) (l : Label) (d : Dest) (n : Nat) : Except Nat (Label × State) :=
  let out : Except Nat Label :=
    match d with
    | .chip c =>
      match s.portFor c with
      | some p => mapOut p part l
      | none => .error 7
    | .host _ | .telemetry _ => .ok l
  match out, s.destOwner part d with
  | .error r, _ => .error r
  | .ok _, none => .error 7
  | .ok m, some p =>
    if labelLe l (partLabel p) then .ok (m, s)
    else
      let now := s.bootMicros
      let mine := s.policyOrder.filter fun e => e.fits l d
      match mine.find? fun e => !e.lapsed && now < e.expiry && e.used + n ≤ e.limit with
      | some e => .ok (m, s.usePolicy e.place n)
      | none =>
        match mine.head? with
        | none => .error 1
        | some e => .error (if !e.lapsed && now < e.expiry then 2 else 3)

/-- A SLUICE event for a partition (R375, R377, R393). -/
def State.sluiceEvent (s : State) (part reason : Nat) (addr : Word) (label : Label) (dest : Nat) : State :=
  s.fault part ⟨trapNumber .sluice, reason, 0, [0, 0, addr, label.setWidth 64, BitVec.ofNat 64 dest]⟩

/-- Something leaves the package. -/
def State.emit (s : State) (o : Outgoing) : State := { s with out := s.out ++ [o] }

/-- What an export sends (R383). -/
def State.exported (s : State) (d : Dest) (addr : Word) (bs : List Byte) (l : Label) : State :=
  match d with
  | .host vf => s.emit (.host vf addr bs)
  | .telemetry vf => s.emit (.telemetry vf bs)
  | .chip n =>
    match s.portFor n with
    | some p => s.emit (.fabric p.num n addr bs l)
    | none => s

/-- A write to host memory or another chip will be acknowledged after a time that the spec leaves to its destination (R345;
assumption 95). -/
def State.noteExport (s : State) (d : Dest) : State :=
  match d with
  | .telemetry _ => s
  | .host _ | .chip _ =>
    let uid := s.t.ident.uid
    let (v, s) := s.free
    let due := max (s.ackedAt uid) (s.time.cycle + v.toNat)
    { s with fab := { s.fab with exports := (uid, due) :: s.fab.exports.filter fun x => x.1 ≠ uid } }

/-! ## `sluice` (R383) -/

/-- A status word of `sluice` (R383). -/
def sluiceWord (status reason : Nat) : Word := BitVec.ofNat 64 (status + reason * 2 ^ 16)

/-- DENIED (R44, R383). -/
def statusDenied : Nat := 2
/-- BUSY. -/
def statusBusy : Nat := 1

/-- The bytes of a signature (R379). -/
def signatureBytes : Nat := 29792

/-- The fields of a `sluice` block are within the table (R383); `store` tells whether SRC lies in the global range or a Pan store. -/
def sluiceBlockOk (bs : List Byte) (store : Bool) : Bool :=
  let src := wordAt bs 0
  let dst := wordAt bs 8
  let n := fieldAt bs 0x10 4
  let op := fieldAt bs 0x14 1
  let kind := fieldAt bs 0x15 1
  let dest := fieldAt bs 0x16 2
  bitsAt op 2 5 = 0 && zeroAt bs 0x18 40 &&
    (if op % 4 = 0 then
      store && 1 ≤ n && n ≤ 65536 && kind ≤ 2 && (if kind = 1 then dest < 4096 else dest < 256) && (kind ≠ 2 || dst = 0)
    else
      kind = 0 && dest = 0 && isGlobal src.toNat && isGlobal dst.toNat && dst.toNat % 8 = 0 && 64 + signatureBytes ≤ n &&
        (n - 64) % signatureBytes = 0 && (n - 64) / signatureBytes ≤ 32)

/-- Completes a `sluice` with its status word: the trap asked for on a refusal, or the fill of d (R383). -/
def State.endSluice (s : State) (d a : Reg) (status reason : Nat) (trap : Bool) (pages : Label) : State :=
  let w := sluiceWord status reason
  if status = statusDenied && trap then s.fail .sluice 0 w [a] pages
  else
    let (fid, s) := s.newHeldFill [d] 1 (s.resultLabel [a]) 0 .plain true false
    (s.deliver fid 0 w none (leg 1)).goOn true 4

/-- The requests of a partition that the security controller has not performed (R383). -/
def State.requestsOf (s : State) (part : Nat) : Nat := (s.sec.requests.filter fun x => x.1 = part).length

/-- The request of an OP (R383). -/
def requestStep (op : Nat) (p : PolicyBody) : Instr :=
  match op with
  | 1 => .policyInstall p
  | 2 => .policyRevoke p
  | _ => .labelGrant p

/-- `sluice`: exports data or queues a request to the security controller, once what it reads can be read (R70, R273, R343, R383). -/
def execSluice (d a : Reg) (ta _tb : Bool) (s : State) : Result :=
  s.issue { Uses.none with dests := [d], srcs := [(a, ta)], mem := true } fun s =>
    let va := s.val a
    let t := s.t
    let part := t.ident.part
    if va.toNat % 64 ≠ 0 then .next (s.fail .align va 0 [a] 0)
    else if s.readHeld va 64 then .next (s.hold .waits)
    else
      match s.readVa part t.localPan va 64 t.isTask with
      | .error ((c, info), addr) => .next (s.fail c addr info [a] (s.labelsBefore part t.localPan va 64 addr t.isTask))
      | .ok (bs, lb) =>
        (s.blockRead va 64).releaseWait true fun s =>
          let t := s.t
          let src := wordAt bs 0
          let dst := wordAt bs 8
          let n := fieldAt bs 0x10 4
          let op := fieldAt bs 0x14 1
          let trap := op.testBit 7
          let store := s.vaClass src != .none && s.vaClass src != .device
          if !sluiceBlockOk bs store then .next (s.endSluice d a statusRecord 0 false lb)
          else if op % 4 ≠ 0 then
            if t.isTask then .next (s.endSluice d a statusDenied 6 trap lb)
            else if 8 ≤ s.requestsOf part then .next (s.endSluice d a statusBusy 0 false lb)
            else
              let body := match s.readVa part t.localPan src n false with
                | .ok (bytes, _) => bytes
                | .error _ => []
              let p : PolicyBody := ⟨part, dst, body⟩
              let s := { s with sec := { s.sec with requests := s.sec.requests ++ [(part, p)] } }
              let s := s.schedule (s.time.cycle + 1024) (requestStep (op % 4) p)
              .next (s.endSluice d a 0 0 false lb)
          else if s.readHeld src n then .next (s.hold .waits)
          else
            match s.readVa part t.localPan src n t.isTask with
            | .error ((c, info), addr) =>
              .next (s.fail c addr info [a] (lb ||| s.labelsBefore part t.localPan src n addr t.isTask))
            | .ok (bytes, ls) =>
              let s := s.blockRead src n
              let l := t.ctl.clabel ||| s.lbl a ||| lb ||| ls
              let dest := destOfKind (fieldAt bs 0x15 1) (fieldAt bs 0x16 2)
              match s.sluice part l dest n with
              | .error r => .next (s.endSluice d a statusDenied r trap (lb ||| ls))
              | .ok (m, s) => .next (((s.exported dest dst bytes m).noteExport dest).endSluice d a 0 0 false lb)

/-! ## Requests to the security controller (R378 to R380) -/

/-- A request has been performed: it leaves the queue, and its result word is written (R383). -/
def State.requestDone (s : State) (p : PolicyBody) (status : Nat) : State :=
  let s := { s with sec := { s.sec with requests := s.sec.requests.erase (p.part, p) } }
  (s.writeVa p.part 0 p.dst (natBytes 8 (2 ^ 63 + status)) (partLabel p.part) false).2

/-- The signatures of a request's body by its signers in ascending order (R379). -/
def State.signed (s : State) (bytes : List Byte) (signers : List Nat) : Bool :=
  (List.range signers.length).all fun k =>
    match s.part? (signers.getD k 0) with
    | some p => signatureOk p.pubkey (bytes.take 64) ((bytes.drop (64 + k * signatureBytes)).take signatureBytes)
    | none => false

/-- The length of a request with its signatures (R383). -/
def requestLength (bytes : List Byte) (signers : Nat) : Bool := bytes.length = 64 + signers * signatureBytes

/-- The body of a release policy entry, as it is to be installed (R378). -/
def policyOf (p : PolicyBody) (place : Nat) : Policy :=
  let bs := p.bytes
  ⟨place, wordAt bs 0, BitVec.ofNat 32 (fieldAt bs 8 4), fieldAt bs 0xC 1, fieldAt bs 0xE 2, fieldAt bs 0x10 8,
    fieldAt bs 0x20 8, 0, p.part, false⟩

/-- The fields of a policy body (R378). -/
def State.policyOk (s : State) (p : PolicyBody) : Bool :=
  let bs := p.bytes
  let e := policyOf p 0
  e.id ≠ 0 && e.labels.getLsbD p.part && e.dkind ≤ 2 && fieldAt bs 0xD 1 = 0 &&
    (if e.dkind = 1 then e.dest < 4096 else e.dest < 256) && 1 ≤ e.limit && e.limit ≤ 2 ^ 63 &&
    wordAt bs 0x18 = s.sec.bootId && zeroAt bs 0x28 24

/-- The first free place of the policy table (R378). -/
def State.policyPlace (s : State) : Option Nat :=
  (List.range 256).find? fun k => !s.sec.policies.any fun e => e.place = k && !e.lapsed

/-- `POLICY_INSTALL`: verifies and installs a release policy entry (R378, R379). -/
def execPolicyInstall (pol : PolicyBody) (s : State) : Result :=
  let signers := labelBits (policyOf pol 0).labels
  if !s.policyOk pol || !requestLength pol.bytes signers.length then .next (s.requestDone pol statusRecord)
  else
    let mine := (s.sec.policies.filter fun e => e.owner = pol.part && !e.lapsed).length
    match s.policyPlace with
    | none => .next (s.requestDone pol statusDenied)
    | some k =>
      let e := policyOf pol k
      if !s.signed pol.bytes signers || s.sec.usedIds.contains e.id || 32 ≤ mine then .next (s.requestDone pol statusDenied)
      else
        let s := { s with sec := { s.sec with policies := (s.sec.policies.filter fun (x : Policy) => x.place ≠ k) ++ [e], usedIds := e.id :: s.sec.usedIds } }
        let at_ := max s.time.cycle (s.sec.bootAt + e.expiry * 1400)
        .next ((s.schedule at_ (.policyExpiry e.id.toNat)).requestDone pol 0)

/-- A policy entry is removed, and its place is free (R378, R379). -/
def State.dropPolicy (s : State) (id : Word) : State :=
  { s with sec := { s.sec with policies := s.sec.policies.filter fun e => e.id ≠ id } }

/-- `POLICY_REVOKE`: removes an entry on the request of one partition of its LABELSET (R379). -/
def execPolicyRevoke (pol : PolicyBody) (s : State) : Result :=
  let id := wordAt pol.bytes 0
  let signer := fieldAt pol.bytes 8 1
  if 32 ≤ signer || !zeroAt pol.bytes 9 55 || !requestLength pol.bytes 1 then .next (s.requestDone pol statusRecord)
  else
    match s.sec.policies.find? fun e => e.id = id && !e.lapsed with
    | none => .next (s.requestDone pol statusDenied)
    | some e =>
      if !e.labels.getLsbD signer || !s.signed pol.bytes [signer] then .next (s.requestDone pol statusDenied)
      else .next ((s.dropPolicy id).requestDone pol 0)

/-- `POLICY_EXPIRY`: an entry lapses at its EXPIRY, and its place is free; until another entry takes the place, a refusal that finds
it the first match gives the reason 3 (R377, R378; assumption 114). -/
def execPolicyExpiry (id : Nat) (s : State) : Result :=
  let lapse (e : Policy) : Policy := if e.id = BitVec.ofNat 64 id then { e with lapsed := true } else e
  .next { s with sec := { s.sec with policies := s.sec.policies.map lapse } }

/-! ## Label grants (R380) -/

/-- A target page of a label grant: a page of a Pan's window, or an HBM frame with the page's present labels. -/
inductive GrantPage where
  | pan (e : MapEntry)
  | global (frame : Nat) (labels : Label)

/-- The target pages of a grant, where the requester owns them all (R379). -/
def State.grantPages (s : State) (part : Nat) (target : Word) (n : Nat) : Option (List GrantPage) :=
  (List.range n).foldl (fun (acc : Option (List GrantPage)) k =>
    match acc with
    | none => none
    | some l =>
      let va := target + BitVec.ofNat 64 (8192 * k)
      match namedWindow va.toNat with
      | some (m, off) =>
        let e := s.mapEntry part m (off / 8192)
        if s.ownsPan part m && e.valid then some (l ++ [.pan e]) else none
      | none =>
        if !isGlobal va.toNat then none
        else
          match s.walk part va.toNat ⟨false, false, false⟩ false with
          | .ok (pa, leaf) => some (l ++ [.global (pa / 8192) (s.readLabel leaf)])
          | .error _ => none) (some [])

/-- The present labels of a target page (R379). -/
def GrantPage.labels (g : GrantPage) : Label :=
  match g with
  | .pan e => e.label
  | .global _ l => l

/-- The key slot that serves a LABELSET for a requester: its own, a shared one that serves it already, or a new one
(R380). -/
def State.grantSlot (s : State) (part : Nat) (labels : Label) : Option Nat :=
  if labels = partLabel part then (s.part? part).map fun p => p.own.keyslot
  else
    let serves (k : Nat) : Bool :=
      s.keyLabel k = labels && (s.mem.owners.any fun o => o.valid && o.owner = part && o.key = k) &&
        !s.parts.any fun p => p.own.keyslot = k
    let free (k : Nat) : Bool := s.keyLabel k = 0 && !s.parts.any fun p => p.own.keyslot = k
    match (List.range 64).find? serves with
    | some k => some k
    | none => (List.range 64).find? free

/-- The frames of HBM that are zeroed: data, lines, and their cleared bits (R419). -/
def Memory.clearHbmFrame (m : Memory) (frame : Nat) : Memory :=
  { m.gclear (frame * 8192) (frame * 8192 + 8192) with dirtyFrames := setDrop m.dirtyFrames frame }

/-- Replaces an entry of the frame owner table (R234). -/
def Memory.setOwner (m : Memory) (o : FrameOwner) : Memory :=
  { m with owners := if o.valid then o :: m.owners.filter (fun x => x.frame ≠ o.frame)
                     else m.owners.filter fun x => x.frame ≠ o.frame }

/-- Sets the key label of a key slot (R372). -/
def Memory.setKeyLabel (m : Memory) (k : Nat) (l : Label) : Memory :=
  let rest := m.keyLabels.filter fun x => x.1 ≠ k
  { m with keyLabels := if l = 0 then rest else (k, l) :: rest }

/-- One page of a grant: zeroed, then given its new label and key (R380). -/
def State.grantPage (s : State) (labels : Label) (key : Nat) (g : GrantPage) : State :=
  match g with
  | .pan e =>
    (s.clearFrame e.pan e.cellar e.frame).setMapEntry { e with label := labels }
  | .global frame _ =>
    let o := s.frameOwner frame
    let m := s.mem.clearHbmFrame frame
    { s with mem := (m.setOwner { o with key := key, labels := labels }).setKeyLabel key labels }

/-- `LABEL_GRANT`: the target pages are zeroed and relabelled or rekeyed; only pages of global memory need a key slot (R379,
R380). -/
def execLabelGrant (pol : PolicyBody) (s : State) : Result :=
  let bs := pol.bytes
  let target := wordAt bs 0
  let n := fieldAt bs 8 4
  let labels : Label := BitVec.ofNat 32 (fieldAt bs 0xC 4)
  let boot := wordAt bs 0x10
  if target.toNat % 8192 ≠ 0 || n = 0 || 1024 < n || !labels.getLsbD pol.part || boot ≠ s.sec.bootId || !zeroAt bs 0x18 40 then
    .next (s.requestDone pol statusRecord)
  else
    match s.grantPages pol.part target n with
    | none => .next (s.requestDone pol statusDenied)
    | some pages =>
      let signers := labelBits (pages.foldl (fun (l : Label) g => l ||| g.labels) labels)
      if !requestLength bs signers.length then .next (s.requestDone pol statusRecord)
      else if !s.signed bs signers then .next (s.requestDone pol statusDenied)
      else
        let inPan (g : GrantPage) : Bool := match g with
          | .pan _ => true
          | .global _ _ => false
        match (if pages.all inPan then some 0 else s.grantSlot pol.part labels) with
        | none => .next (s.requestDone pol statusDenied)
        | some key =>
          .next ((pages.foldl (fun (s : State) g => s.grantPage labels key g) s).requestDone pol 0)

end Sys2Proof.Machine
end

