-- ==== Sys2Proof/Machine/Collective.lean ====
section
/-! DEFINITION. The collectives (R282 to R284). A collective is gathered at rank 0; what its members send one another is
a message, which stays on the chip or leaves by a port. -/

namespace Sys2Proof.Machine

open Sys2Proof

/-! ## The group record and the block (R282) -/

/-- The member chips of a group record, in the order of their ranks. -/
def groupChips (g : List Byte) : List Nat := (List.range (fieldAt g 4 1)).map fun k => fieldAt g (0x10 + 4 * k) 4

/-- The fields of a group record (R282). -/
def groupOk (g : List Byte) : Bool :=
  let n := fieldAt g 4 1
  2 ≤ n && n ≤ 32 && fieldAt g 5 1 < n && 1 ≤ fieldAt g 6 2 && zeroAt g 8 8 &&
    (groupChips g).all (fun c => c < 4096) && zeroAt g (0x10 + 4 * n) (4 * (32 - n)) && zeroAt g 0x90 112

/-- The element format of a collective (R282). -/
def collFmt (code : Nat) : Option Fmt :=
  match code with
  | 4 => some .int32
  | 12 => some .fp32
  | 13 => some .fp16
  | 14 => some .bf16
  | 29 => some .acc32i
  | 30 => some .acc64i
  | _ => none

/-- The bytes of an element of a collective. -/
def collElem (code : Nat) : Nat := ((collFmt code).map fun f => fmtBits f / 8).getD 1

/-- The fields of a collective block; `kind` is 0 all-reduce, 1 all-gather, 2 reduce-scatter (R282). -/
def collBlockOk (bs : List Byte) (kind : Nat) : Bool :=
  1 ≤ fieldAt bs 0x18 4 && fieldAt bs 0x18 4 ≤ 2 ^ 22 && (collFmt (fieldAt bs 0x1C 1)).isSome &&
    (kind = 1 || fieldAt bs 0x1D 1 ≤ 2) && fieldAt bs 0x1E 1 ≤ 3 && fieldAt bs 0x1F 1 = 0 && zeroAt bs 0x24 28

/-- The elements that a member contributes, and those it receives (R283). -/
def collCounts (kind members count : Nat) : Nat × Nat :=
  match kind with
  | 0 => (count, count)
  | 1 => (count, members * count)
  | _ => (members * count, count)

/-! ## The instructions (R262, R283) -/

/-- `coll`: reads the block and the group record and submits a command to QC (R262, R282, R283). -/
def collSubmit (kind : Nat) (d a : Reg) (s : State) : Result :=
  s.issue { Uses.none with away := !s.t.atOrigin, dests := [d], srcs := [(a, false)], mem := true } fun s =>
    s.releaseWait true fun s =>
      let va := s.val a
      if va.toNat % 64 ≠ 0 then .next (s.fail .align va 0 [a] 0)
      else
        s.readBlock va 64 [a] fun s bs l1 =>
          let group := wordAt bs 0x10
          if !isGlobal group.toNat || group.toNat % 64 ≠ 0 then .next (s.refuse d (s.resultLabel [a] ||| l1))
          else
            s.readBlock group 256 [a] fun s g l2 =>
              let tlabel := s.resultLabel [a] ||| l1
              let c := { s.newCmd .coll 4 va bs g [] (s.t.ctl.clabel ||| l1 ||| l2) tlabel 0 with req := kind }
              .next (if collBlockOk bs kind && groupOk g then s.submit d c else s.refuse d tlabel)

/-- `coll.allreduce` (R283). -/
def execCollAllreduce (d a : Reg) (s : State) : Result := collSubmit 0 d a s

/-- `coll.allgather` (R283). -/
def execCollAllgather (d a : Reg) (s : State) : Result := collSubmit 1 d a s

/-- `coll.reducescatter` (R283). -/
def execCollReducescatter (d a : Reg) (s : State) : Result := collSubmit 2 d a s

/-! ## Messages (R283, R284) -/

/-- A message of a member's command, of a role, with its data and label. -/
def Cmd.collMsg (c : Cmd) (s : State) (role : Nat) (data : List Byte) (label : Label) : CollMsg :=
  let g := c.shape
  let bs := c.block
  { port := none, chip := s.dev.chip, part := c.part, role := role, rank := fieldAt g 5 1, tag := fieldAt g 0 4
    epoch := fieldAt bs 0x20 4, kind := c.req, members := fieldAt g 4 1, count := fieldAt bs 0x18 4
    fmt := fieldAt bs 0x1C 1, op := if c.req = 1 then 0 else fieldAt bs 0x1D 1, round := fieldAt bs 0x1E 1
    timeout := fieldAt g 6 2, chips := groupChips g, data := data, label := label }

/-- Sends a message of a partition to a chip: on this one at once, to another through the Sluice; false where the Sluice refuses
it (R283, R376, R377). -/
def State.sendColl (s : State) (part chip : Nat) (m : CollMsg) : Bool × State :=
  if chip = s.dev.chip then (true, s.push (.collContribution m))
  else
    match s.sluice part m.label (.chip chip) m.data.length, s.portFor chip with
    | .ok (l, s), some p => (true, s.emit (.collective p.num chip { m with label := l }))
    | .ok (_, s), none => (false, s)
    | .error r, _ => (false, s.sluiceEvent part r 0 m.label chip)

/-- The chip of rank 0 of a command's collective (R282). -/
def Cmd.root (c : Cmd) : Nat := (groupChips c.shape).getD 0 0

/-- Rank 0 learns that a member will not contribute, or not take its result (R284). -/
def State.tellRoot (s : State) (c : Cmd) : State := (s.sendColl c.part c.root (c.collMsg s 3 [] 0)).2

/-- A command of a collective faults: it halts as a copy does, and rank 0 learns of it (R278, R284). -/
def State.collFault (s : State) (place : Nat) (c : Cmd) (cause : Nat) (addr : Word) : State :=
  let s := s.modCmd place c.id fun c => { c with state := .halted, cause := cause, fadr := addr }
  let s := s.tellRoot c
  (s.notify { c with cause := cause } .rackfault cause addr).turnQueues place

/-- The bytes that a command contributes (R283). -/
def Cmd.contribution (c : Cmd) : Nat :=
  (collCounts c.req (fieldAt c.shape 4 1) (fieldAt c.block 0x18 4)).1 * collElem (fieldAt c.block 0x1C 1)

/-- The contribution of a command is read and sent (R283). -/
def State.collSend (s : State) (place : Nat) (c : Cmd) : State :=
  let pan := placePan place
  let n := c.contribution
  match s.readVa c.part pan (wordAt c.block 0) n c.task with
  | .error ((e, _), addr) => s.collFault place c (causeOf e) addr
  | .ok (bytes, l) =>
    let s := s.modCmd place c.id fun c => { c with read := c.read ||| l }
    let ts := s.runPlaces c.part pan [(wordAt c.block 0, n)] readKind c.task
    let s := (s.fillPlaces c.part c.gang ts).correctPlaces c.part c.gang false ts
    let s := (ts.map fun t => t.1.loc.die).eraseDups.foldl (fun (s : State) z => s.cmdRead place c.id z) s
    let s := s.chargeUnits c.part c.gang pan ((n + 63) / 64)
    let r := s.sendColl c.part c.root (c.collMsg s 0 bytes (c.label ||| l))
    if r.1 then r.2 else r.2.collFault place c (causeOf .label) (wordAt c.block 0)

/-! ## Results (R283) -/

/-- An element of a contribution. -/
def elemAt (m : CollMsg) (w j : Nat) : Nat := fieldAt m.data (w * j) w

/-- One step of the fold of a reduction on two elements (R148, R156 to R163, R168, R283). -/
def collStep (f : Fmt) (op : Nat) (rm : Rm) (x y : Nat) : Nat :=
  match floatFmt f with
  | some ff =>
    if op = 0 then (fAdd ff rm 0 (decodeF ff x) (decodeF ff y)).1 else (fMinMax (op = 1) ff x y).1
  | none =>
    let w := fmtBits f
    let a := signedNat w x
    let b := signedNat w y
    let v := if op = 0 then a + b else if op = 1 then min a b else max a b
    wrapInt w (if f = .acc64i then v else satS v w)

/-- The fold of an element over the contributions in ascending rank (R283). -/
def collFold (f : Fmt) (op : Nat) (rm : Rm) (ms : List CollMsg) (w j : Nat) : Nat :=
  match ms with
  | [] => 0
  | m :: rest => rest.foldl (fun x y => collStep f op rm x (elemAt y w j)) (elemAt m w j)

/-- What rank r receives (R283). -/
def collResult (ms : List CollMsg) (r : Nat) : List Byte :=
  match ms with
  | [] => []
  | m :: _ =>
    let f := (collFmt m.fmt).getD .int32
    let w := collElem m.fmt
    let rm := rmOf m.round
    match m.kind with
    | 0 => (List.range m.count).flatMap fun j => natBytes w (collFold f m.op rm ms w j)
    | 1 => ms.flatMap CollMsg.data
    | _ => (List.range m.count).flatMap fun j => natBytes w (collFold f m.op rm ms w (r * m.count + j))

/-- Answers the member that sent a contribution, for the partition of rank 0 (R283, R377). -/
def State.collAnswer (s : State) (part : Nat) (m : CollMsg) (role : Nat) (data : List Byte) (label : Label) : State :=
  (s.sendColl part m.chip { m with port := none, chip := s.dev.chip, role := role, data := data, label := label }).2

/-- A collective is aborted at rank 0: those who have contributed are told, and those who still contribute will be
(R284). An aborted collective is one with a TIMEOUT of 0, counted from the cycle at which its own would have expired. -/
def State.collAbort (s : State) (c : Coll) : State :=
  let s := c.given.foldl (fun (s : State) m => if m.role = 0 then s.collAnswer c.part m 2 [] 0 else s) s
  let mark (x : Coll) : Coll :=
    if x.tag = c.tag && x.epoch = c.epoch then { x with timeout := 0, since := x.since + x.timeout * 65536 } else x
  { s with colls := s.colls.map mark }

/-- Forgets a collective. -/
def State.dropColl (s : State) (tag epoch : Nat) : State :=
  { s with colls := s.colls.filter fun c => !(c.tag = tag && c.epoch = epoch) }

/-- The collective of a tag and epoch at rank 0. -/
def State.coll? (s : State) (tag epoch : Nat) : Option Coll := s.colls.find? fun c => c.tag = tag && c.epoch = epoch

/-- A contribution agrees with a collective (R284). -/
def Coll.agrees (c : Coll) (m : CollMsg) : Bool :=
  c.members = m.members && c.kind = m.kind && c.count = m.count && c.fmt = m.fmt && c.op = m.op

/-- A contribution, or the failure of a member, is entered at rank 0: it commits when all have come, and aborts on a
failure or a disagreement (R283, R284). -/
def State.collEnter (s : State) (m : CollMsg) : State :=
  let now := s.time.cycle
  let s := match s.coll? m.tag m.epoch with
    | some _ => s
    | none =>
      ({ s with colls := s.colls ++ [(⟨m.tag, m.epoch, m.kind, m.members, m.count, m.fmt, m.op, m.part, now, m.timeout, []⟩ : Coll)] }).schedule
        (now + m.timeout * 65536) (.collTimeout m.tag m.epoch)
  match s.coll? m.tag m.epoch with
  | none => s
  | some c =>
    let given := c.given ++ [m]
    let add (x : Coll) : Coll := if x.tag = m.tag && x.epoch = m.epoch then { x with given := given } else x
    let s := { s with colls := s.colls.map add }
    let c := { c with given := given }
    if c.timeout = 0 then
      let s := if m.role = 0 then s.collAnswer c.part m 2 [] 0 else s
      if given.length < c.members then s else s.dropColl m.tag m.epoch
    else if m.role = 3 || !c.agrees m then s.collAbort c
    else
      let ranked := (List.range c.members).filterMap fun r => given.find? fun (x : CollMsg) => x.rank = r
      if ranked.length < c.members then s
      else
        let l := ranked.foldl (fun (l : Label) (x : CollMsg) => l ||| x.label) 0
        let root := (ranked.head?.map CollMsg.part).getD c.part
        ranked.foldl (fun (s : State) (x : CollMsg) => s.collAnswer root x 1 (collResult ranked x.rank) l) (s.dropColl m.tag m.epoch)

/-! ## At the members -/

/-- The commands of collectives in the engines of this chip that have not ended: place and command. -/
def State.collCmds (s : State) (f : Cmd → Bool) : List (Nat × Cmd) :=
  s.engines.flatMap fun e => (e.cmds.filter fun c => c.kind == .coll && f c).map fun c => (e.place, c)

/-- A command is that of a rank of a collective. -/
def Cmd.isRank (c : Cmd) (m : CollMsg) : Bool :=
  c.part = m.part && fieldAt c.shape 0 4 = m.tag && fieldAt c.block 0x20 4 = m.epoch && fieldAt c.shape 5 1 = m.rank

/-- A result lands at a member's command (R283). -/
def State.collLand (s : State) (place : Nat) (c : Cmd) (m : CollMsg) (dies : List Nat) : State :=
  let pan := placePan place
  let s := s.chargeUnits c.part c.gang pan ((m.data.length + 63) / 64)
  match s.writeVa c.part pan (wordAt c.block 8) m.data (m.label ||| c.label) c.task with
  | (some (e, addr), s) =>
    let landed := s.runDies c.part pan [(wordAt c.block 8, (addr - wordAt c.block 8).toNat)] writeKind c.task
    let s := landed.foldl (fun (s : State) z => s.cmdWrite place c.id z) s
    let s := s.modCmd place c.id fun c => { c with state := .halted, cause := causeOf e, fadr := addr }
    (s.notify c .rackfault (causeOf e) addr).turnQueues place
  | (none, s) =>
    let n := (collCounts c.req m.members m.count).2
    let s := dies.foldl (fun (s : State) z => s.cmdWrite place c.id z) s
    (s.modCmd place c.id fun c => { c with done := n, read := c.read ||| m.label }).endCmd place c.id statusOk 0

/-- A result or an abort reaches a member; the writes of a result wait for their causal past (R283, R284, R343). -/
def State.collReceive (s : State) (m : CollMsg) : State :=
  match s.collCmds fun c => c.isRank m && c.state == .started with
  | [] => s
  | (place, c) :: _ =>
    if m.role = 2 then s.endCmd place c.id statusAborted 0
    else
      let ts := s.runPlaces c.part (placePan place) [(wordAt c.block 8, m.data.length)] writeKind c.task
      let dies := (ts.map fun t => t.1.loc.die).eraseDups
      let wait := max (s.placesWait c.part ts) (if s.pastMissing place c [] dies then 1 else 0)
      if wait ≠ 0 then s.schedule (s.time.cycle + wait) (.collContribution { m with port := none })
      else ((s.fillPlaces c.part c.gang ts).correctPlaces c.part c.gang true ts).collLand place c m dies

/-- The partition of rank 0 on its chip, by its command or its contribution; before either is there, the number that the sender's
partition has on its own chip (assumption 113). -/
def State.rootPart (s : State) (m : CollMsg) : Nat :=
  let mine (c : Cmd) : Bool := fieldAt c.shape 0 4 = m.tag && fieldAt c.block 0x20 4 = m.epoch && fieldAt c.shape 5 1 = 0
  match s.collCmds mine with
  | (_, c) :: _ => c.part
  | [] => (((s.coll? m.tag m.epoch).bind fun c => c.given.find? fun (x : CollMsg) => x.rank = 0).map CollMsg.part).getD m.part

/-- `COLL_CONTRIBUTION`: a message of a collective arrives: a contribution or a failure at rank 0, a result or an abort at a
member; its label is mapped where it comes by a port, for the partition that receives it, and the sender of one that is refused is
told (R283, R284, R375). -/
def execCollContribution (msg : CollMsg) (s : State) : Result :=
  let mapped : Option Label :=
    match msg.port with
    | none => some msg.label
    | some n => (s.port? n).bind fun p => mapIn p (if msg.role = 0 || msg.role = 3 then s.rootPart msg else msg.part) msg.label
  match mapped with
  | none => .next (match msg.port with
    | some n => s.emit (.refused n msg.part 0 msg.label s.dev.chip)
    | none => s)
  | some l =>
    let m := { msg with label := l }
    .next (if m.role = 0 || m.role = 3 then s.collEnter m else s.collReceive m)

/-- `COLL_TIMEOUT`: TIMEOUT expires at rank 0 before the collective has committed (R284). -/
def execCollTimeout (tag epoch : Nat) (s : State) : Result :=
  match s.coll? tag epoch with
  | none => .next s
  | some c =>
    if c.since + c.timeout * 65536 ≠ s.time.cycle then .next s
    else .next ((if c.timeout = 0 then s else s.collAbort c).dropColl tag epoch)

/-- A result for a command is on its way to it on this chip: its collective has committed (R284). -/
def State.committed (s : State) (c : Cmd) : Bool :=
  let result (i : Instr) : Bool := match i with
    | .collContribution m => m.role = 1 && c.isRank m
    | _ => false
  s.time.agenda.any result || s.time.calendar.any fun x => result x.2

/-- Collectives that have not committed and in which a partition, or a chip behind a failed port, is a member are aborted, those of
commands that are still queued too; rank 0 of another chip learns of a lost member (R284, R417). -/
def State.collsLost (s : State) (part : Option Nat) (chips : List Nat) : State :=
  let hit (c : Coll) : Bool :=
    c.timeout ≠ 0 && ((c.given.any fun m => m.chip = s.dev.chip && m.port.isNone && some m.part = part) ||
      c.given.any fun m => m.chips.any fun x => chips.contains x)
  let s := (s.colls.filter hit).foldl (fun (s : State) c => s.collAbort c) s
  let away (c : Cmd) : Bool := (part = some c.part || chips.contains c.root) && c.state != .halted && !s.committed c
  (s.collCmds away).foldl (fun (s : State) x =>
    let c := x.2
    let tell := c.root ≠ s.dev.chip || c.state == .queued || (s.coll? (fieldAt c.shape 0 4) (fieldAt c.block 0x20 4)).isSome
    let s := s.endCmd x.1 c.id statusAborted 0
    if tell && !chips.contains c.root then s.tellRoot c else s) s

end Sys2Proof.Machine
end

