-- ==== Sys2Proof/Machine/PressMath.lean ====
section
/-! DEFINITION. The arithmetic of the Press and the formats of its operands (R285, R286, R290 to R295). -/

namespace Sys2Proof.Machine

open Sys2Proof

/-! ## Classes (R285, R291, R292) -/

/-- The class of an operation (R291). -/
inductive PressClass where
  | integer | real | complexInt | complexReal
  deriving DecidableEq, Repr

/-- The class of one operand's format; none for a format that no operand has (R291). -/
def operandClass (f : Fmt) : Option PressClass :=
  match f with
  | .int2 | .int4 | .uint4 | .int8 | .uint8 | .int16 | .uint16 | .bps8 | .bpu8 | .bps16 | .bpu16 => some .integer
  | .fp32 | .fp16 | .bf16 | .fp8a | .fp8b | .fp6a | .fp6b | .fp4 | .bsint8 | .bsfp8a | .bsfp6a | .bsfp4 | .bsint4 => some .real
  | .ci16 | .ci8 => some .complexInt
  | .cf16 => some .complexReal
  | .int32 | .acc32f | .acc32i | .acc64i | .e8 => none

/-- The class of a pair of operands (R291). -/
def pairClass (fa fb : Fmt) : Option PressClass :=
  match operandClass fa, operandClass fb with
  | some x, some y => if x = y then some x else none
  | _, _ => none

/-- The complex classes. -/
def PressClass.isComplex (c : PressClass) : Bool := c == .complexInt || c == .complexReal

/-- The figure n or c of an operand (R285). -/
def operandFigure (f : Fmt) (depth : Nat) : Nat :=
  match f with
  | .int2 | .int4 | .uint4 => 1
  | .int8 | .uint8 => 2
  | .int16 | .uint16 => 4
  | .bps8 | .bpu8 | .bps16 | .bpu16 => if depth ≤ 4 then 1 else if depth ≤ 8 then 2 else 4
  | .bsint4 => 2
  | .fp4 | .bsfp4 => 4
  | .fp8a | .fp8b | .fp6a | .fp6b | .bsfp8a | .bsfp6a | .bsint8 => 8
  | .fp16 | .bf16 => 16
  | .fp32 => 64
  | .ci16 | .ci8 | .cf16 | .int32 | .acc32f | .acc32i | .acc64i | .e8 => 0

/-- The cycles of a k-block (R285). -/
def pressCpb (c : PressClass) (fa fb : Fmt) (da db : Nat) (refine : Bool) : Nat :=
  match c with
  | .integer => 2 * operandFigure fa da * operandFigure fb db - (if refine then 2 else 0)
  | .real => max (operandFigure fa da) (operandFigure fb db)
  | .complexInt => if fa = .ci8 ∧ fb = .ci8 then 32 else 128
  | .complexReal => 64

/-- The largest K of an operation (R286). -/
def largestK (cpb : Nat) : Nat :=
  if cpb ≤ 6 then 4096
  else if cpb = 8 then 3824
  else if cpb = 16 then 1912
  else if cpb = 32 then 952
  else if cpb = 64 then 472
  else 232

/-- The accumulator of a block (R289). -/
def PressBlock.acc (b : PressBlock) : Fmt :=
  match b.accfmt with
  | 28 => .acc32f
  | 29 => .acc32i
  | _ => .acc64i

/-- ACCFMT suits the class (R292). -/
def accSuits (c : PressClass) (acc : Fmt) : Bool :=
  match c with
  | .integer | .complexInt => acc == .acc32i || acc == .acc64i
  | .real | .complexReal => acc == .acc32f

/-- The format of C is allowed (R292). -/
def destAllowed (complex : Bool) (f acc : Fmt) : Bool :=
  if complex then f == .ci16 || f == .ci8 || f == .cf16 || f == acc
  else
    match f with
    | .int8 | .uint8 | .int16 | .uint16 | .int32 | .int4 | .uint4 | .int2 | .fp32 | .fp16 | .bf16 | .fp8a | .fp8b
    | .fp6a | .fp6b | .fp4 | .acc32f | .acc32i | .acc64i => true
    | .bps8 | .bpu8 | .bps16 | .bpu16 | .ci16 | .ci8 | .cf16 | .bsint8 | .bsfp8a | .bsfp6a | .bsfp4 | .bsint4 | .e8 => false

/-- C is exact (R292). -/
def destExact (f acc : Fmt) : Bool := f == acc || (f == .fp32 && acc == .acc32f) || (f == .int32 && acc == .acc32i)

/-- Every value of C's format converts exactly into ACCFMT (R292). -/
def destReadable (f acc : Fmt) : Bool :=
  destExact f acc ||
    (match acc with
      | .acc32i => (match f with
        | .int8 | .uint8 | .int16 | .uint16 | .int4 | .uint4 | .int2 | .int32 | .ci16 | .ci8 => true
        | _ => false)
      | .acc64i => (match f with
        | .int8 | .uint8 | .int16 | .uint16 | .int4 | .uint4 | .int2 | .int32 | .acc32i | .ci16 | .ci8 => true
        | _ => false)
      | _ => (match f with
        | .fp32 | .fp16 | .bf16 | .fp8a | .fp8b | .fp6a | .fp6b | .fp4 | .cf16 => true
        | _ => false))

/-- The bits of an element of C: a complex accumulator is a pair (R290, R292). -/
def destBits (complex : Bool) (f : Fmt) : Nat :=
  match f with
  | .acc32f | .acc32i | .acc64i => if complex then 2 * fmtBits f else fmtBits f
  | _ => fmtBits f

/-- The format of a part of C. -/
def destPart (f : Fmt) : Fmt := (complexPart f).getD f

/-! ## Values (R151, R154, R155, R291) -/

/-- An integer as an exact value. -/
def intVal (v : Int) : FVal := .fin (decide (v < 0)) v.natAbs 0

/-- The integer of an exact value without fraction. -/
def valInt (x : FVal) : Int :=
  match x with
  | .fin neg m e => (if neg then -1 else 1) * ((m * 2 ^ e.toNat : Nat) : Int)
  | .nan _ | .inf _ => 0

/-- The value of an element's bits in a format, with its depth and its scale (R151, R154, R155). -/
def elementVal (f : Fmt) (depth : Nat) (scale : Option Nat) (bits : Nat) : FVal :=
  let plain : FVal :=
    match intFmt f, floatFmt f with
    | some (w, sg), _ =>
      let w := if isPlane f then depth else w
      intVal (if sg then signedNat w bits else (bitsAt bits 0 w : Nat))
    | none, some ff => decodeF ff bits
    | none, none => .nan false
  match scale with
  | none => plain
  | some 255 => .nan false
  | some e =>
    match plain with
    | .fin neg m x => .fin neg m (x + (e : Int) - 127)
    | .nan q => .nan q
    | .inf n => .inf n

/-- The parts of an element: two for a complex format, real part first. -/
def elementParts (f : Fmt) (depth : Nat) (scale : Option Nat) (bits : Nat) : List FVal :=
  match complexPart f with
  | some p => [elementVal p 0 none (bitsAt bits 0 (fmtBits p)), elementVal p 0 none (bitsAt bits (fmtBits p) (fmtBits p))]
  | none => [elementVal f depth scale bits]

/-- The exact product of two values, with the flags of special operands (R163). -/
def mulVal (x y : FVal) : FVal × FFlags :=
  let invalid := match x, y with
    | .inf _, .fin _ 0 _ => true
    | .fin _ 0 _, .inf _ => true
    | _, _ => false
  if isNan x || isNan y || invalid then (.nan false, if isSnan x || isSnan y || invalid then flagNV else 0)
  else
    match x, y with
    | .fin s m e, .fin s' m' e' => (.fin (s != s') (m * m') (e + e'), 0)
    | .inf a, .inf b => (.inf (a != b), 0)
    | .inf a, .fin b _ _ => (.inf (a != b), 0)
    | .fin a _ _, .inf b => (.inf (a != b), 0)
    | v, _ => (v, 0)

/-- The exact sum of two values, with the flags of special operands (R163, R293). -/
def addVal (x y : FVal) : FVal × FFlags :=
  match x, y with
  | .nan s, v => (.nan false, if s || isSnan v then flagNV else 0)
  | v, .nan s => (.nan false, if s || isSnan v then flagNV else 0)
  | .inf a, .inf b => if a = b then (.inf a, 0) else (.nan false, flagNV)
  | .inf a, .fin _ _ _ => (.inf a, 0)
  | .fin _ _ _, .inf b => (.inf b, 0)
  | .fin s m e, .fin s' m' e' => let r := addExact .rne s m e s' m' e'; (.fin r.1 r.2.1 r.2.2, 0)

/-- The value of the top four planes of a depth-d value (R295). -/
def highPart (d : Nat) (v : Int) : Int := v / 2 ^ (d - 4)

/-- Prod of two elements, part by part (R293, R295). -/
def pressProd (refine : Bool) (da db : Nat) (x y : List FVal) : List FVal × FFlags :=
  match x, y with
  | [a], [b] =>
    if refine then
      let va := valInt a
      let vb := valInt b
      ([intVal (va * vb - 2 ^ (da + db - 8) * (highPart da va * highPart db vb))], 0)
    else
      let r := mulVal a b
      ([r.1], r.2)
  | [ar, ai], [br, bi] =>
    let p1 := mulVal ar br
    let p2 := mulVal ai bi
    let p3 := mulVal ar bi
    let p4 := mulVal ai br
    let re := addVal p1.1 (negF p2.1)
    let im := addVal p3.1 p4.1
    ([re.1, im.1], p1.2 ||| p2.2 ||| p3.2 ||| p4.2 ||| re.2 ||| im.2)
  | _, _ => ([], 0)

/-- The sum of two lists of parts. -/
def addParts (x y : List FVal × FFlags) : List FVal × FFlags :=
  let r := List.zipWith addVal x.1 y.1
  (r.map Prod.fst, r.foldl (fun f v => f ||| v.2) (x.2 ||| y.2))

/-- The tree sum of eight products (R293). -/
def pressTree (p : List (List FVal × FFlags)) : List FVal × FFlags :=
  let g (i : Nat) : List FVal × FFlags := p.getD i ([], 0)
  addParts (addParts (addParts (g 0) (g 1)) (addParts (g 2) (g 3))) (addParts (addParts (g 4) (g 5)) (addParts (g 6) (g 7)))

/-! ## Accumulators (R293): FP32 codes, or integers -/

/-- AccAdd (R293). -/
def accAdd (acc : Fmt) (x : Int) (v : FVal) : Int × FFlags :=
  match acc with
  | .acc32f => let r := fAdd fmtFp32 .rne 0 (decodeF fmtFp32 x.toNat) v; ((r.1 : Int), r.2)
  | .acc32i => toIntRange 32 true (x + valInt v) false
  | _ => (signedNat 64 (wrapInt 64 (x + valInt v)), 0)

/-- Scale of refine mode, which reduces as AccAdd does (R293). -/
def accScale (acc : Fmt) (x : Int) (shift : Nat) : Int × FFlags :=
  match acc with
  | .acc32i => toIntRange 32 true (x * 2 ^ shift) false
  | _ => (signedNat 64 (wrapInt 64 (x * 2 ^ shift)), 0)

/-- Decode of a part of C into an accumulator, with the flags of the conversion (R292, R293, R294). -/
def accOf (acc f : Fmt) (bits : Nat) : Int × FFlags :=
  match acc with
  | .acc32f =>
    if f = .fp32 ∨ f = .acc32f then ((bitsAt bits 0 32 : Nat), 0)
    else
      let r := cvtOne f .fp32 .rne 0 bits
      ((r.1.toNat : Nat), r.2)
  | _ => (valInt (elementVal f 0 none bits), 0)

/-- The bits of an accumulator. -/
def accBits (acc : Fmt) (x : Int) : Nat :=
  match acc with
  | .acc32f => x.toNat
  | _ => wrapInt (fmtBits acc) x

/-- A part of C from its accumulator: unchanged where C is exact, else converted (R294). -/
def destOf (acc f : Fmt) (rm : Rm) (z : Word) (x : Int) : Nat × FFlags :=
  if destExact f acc then (accBits acc x, 0)
  else
    let r := cvtOne acc f rm z (accBits acc x)
    (bitsAt r.1.toNat 0 (fmtBits f), r.2)

end Sys2Proof.Machine
end

