-- ==== Sys2Proof/Machine/Press.lean ====
section
/-! DEFINITION. The Press: its instructions, and the steps in which it starts, computes and ends its operations (R285 to
R307). -/

namespace Sys2Proof.Machine

open Sys2Proof

/-! ## What an operation is (R290 to R292) -/

/-- What the vats of an operation's operands decide: their formats, the strides of their planes and the class. -/
structure PressOp where
  fa    : Fmt
  fb    : Fmt
  fc    : Fmt
  pa    : Nat
  pb    : Nat
  cls   : PressClass
  deriving DecidableEq, Repr

/-- The format and plane stride of an operand, from the vat of its first page (R291). -/
def State.operandFmt (s : State) (p pan : Nat) (va : Word) : Option (Fmt × Nat) :=
  (s.vatAt p pan va).bind fun r => (typedFmt r).map fun f => (f, fieldOf r 32 16)

/-- C is exact, as far as its vat is known (R292). -/
def State.cExact (s : State) (p pan : Nat) (b : PressBlock) : Option Bool :=
  (s.vatAt p pan b.c).map fun r =>
    match typedFmt r with
    | some f => destExact f b.acc
    | none => false

/-- The bytes of n elements of w bits in a row. -/
def rowBytes (n w : Nat) : Nat := (n * w + 7) / 8

/-- The bytes of C (R286). -/
def PressBlock.destBytes (b : PressBlock) (w : Nat) : Nat := rowBytes (b.m * b.n) w

/-- A failure of the Press: the cause, the failing address, and whether a MOVING bit made it (R299). -/
structure PressFail where
  cause  : TrapCode
  addr   : Word
  moving : Bool
  deriving DecidableEq, Repr

/-! ## Pages and bytes (R299) -/

/-- The entry of a page in the Press's Pan, or its failure (R299). -/
def State.pressPage (s : State) (p pan : Nat) (va : Word) : Except PressFail MapEntry :=
  match classify pan va.toNat with
  | .pan n off =>
    let e := s.mapEntry p n (off / 8192)
    if n ≠ pan then .error ⟨.prot, va, false⟩
    else if !e.valid then .error ⟨.page, va, false⟩
    else if e.moving then .error ⟨.page, va, true⟩
    else .ok e
  | .global | .device | .none => .error ⟨.prot, va, false⟩

/-- A byte of the Press's Pan through the map. -/
def State.winPlace (s : State) (p pan : Nat) (va : Word) : Loc :=
  let off := va.toNat % 2 ^ 25
  let e := s.mapEntry p pan (off / 8192)
  .pan pan (e.cellar * 2 ^ 18 + e.frame * 8192 + off % 8192)

/-- n bytes through the map, little-endian. -/
def State.winNat (s : State) (p pan : Nat) (va : Word) (n : Nat) : Nat :=
  bytesNat ((List.range n).map fun k => BitVec.ofNat 8 (s.mem.readAt (s.winPlace p pan (va + BitVec.ofNat 64 k)) 1))

/-- Writes bytes through the map, page by page. -/
def State.winPut (s : State) (p pan : Nat) (va : Word) (bs : List Byte) : State :=
  ((pagePieces (pieceFuel bs.length) va bs.length).foldl (fun (acc : State × List Byte) x =>
    (acc.1.putBytes (acc.1.winPlace p pan x.1) (acc.2.take x.2), acc.2.drop x.2)) (s, bs)).1

/-- The pages that runs of bytes touch, each with the first address there, in ascending order. -/
def pagesOf (runs : List (Word × Nat)) : List Word :=
  let all := sortBy (fun (x y : Word) => x.toNat ≤ y.toNat) (runs.flatMap fun r => (pagePieces (pieceFuel r.2) r.1 r.2).map Prod.fst)
  all.foldl (fun (l : List Word) x => if l.any fun y => y.toNat / 8192 = x.toNat / 8192 then l else l ++ [x]) []

/-- The runs of bytes that a k-block reads of A (R290). -/
def runsA (b : PressBlock) (o : PressOp) (j : Nat) : List (Word × Nat) :=
  let w := fmtBits o.fa
  if isPlane o.fa then
    (List.range b.da).flatMap fun q => (List.range b.m).map fun m =>
      (b.a + BitVec.ofNat 64 (q * 8 * o.pa + m * b.sa + j), 1)
  else (List.range b.m).map fun m => (b.a + BitVec.ofNat 64 (m * b.sa + j * w), w)

/-- The runs of bytes that a k-block reads of B (R290). -/
def runsB (b : PressBlock) (o : PressOp) (j : Nat) : List (Word × Nat) :=
  let w := fmtBits o.fb
  if isPlane o.fb then
    (List.range b.db).flatMap fun q => (List.range 8).map fun t =>
      (b.b + BitVec.ofNat 64 (q * 8 * o.pb + (8 * j + t) * b.sb), (b.n + 7) / 8)
  else (List.range 8).map fun t => (b.b + BitVec.ofNat 64 ((8 * j + t) * b.sb), rowBytes b.n w)

/-- The bits of the element at a row and an index of an operand (R290). -/
def State.operandBits (s : State) (p pan : Nat) (base : Word) (f : Fmt) (depth planes stride row i : Nat) : Nat :=
  let w := fmtBits f
  if isPlane f then
    (List.range depth).foldl (fun n q =>
      n * 2 + bitsAt (s.winNat p pan (base + BitVec.ofNat 64 (q * 8 * planes + row * stride + i / 8)) 1) (i % 8) 1) 0
  else
    let pos := i * w
    bitsAt (s.winNat p pan (base + BitVec.ofNat 64 (row * stride + pos / 8)) ((pos % 8 + w + 7) / 8)) (pos % 8) w

/-- A scale byte, from the Pan store or global memory (R291). -/
def State.scaleByte (s : State) (c : Cmd) (pan : Nat) (va : Word) : Nat :=
  match s.placeOf c.part pan va readKind c.task with
  | .ok t => s.mem.readAt t.loc 1
  | .error _ => 0

/-- The parts of the eight elements A(m, 8j) on. -/
def State.rowA (s : State) (c : Cmd) (pan : Nat) (b : PressBlock) (o : PressOp) (j m : Nat) : List (List FVal) :=
  (List.range 8).map fun t =>
    let k := 8 * j + t
    let scale := if b.ascale = 0 then none else
      some (s.scaleByte c pan (b.ascale + BitVec.ofNat 64 (m * ((b.k + 31) / 32) + k / 32)))
    elementParts o.fa b.da scale (s.operandBits c.part pan b.a o.fa b.da o.pa b.sa m k)

/-- The parts of the eight elements B(8j, n) on. -/
def State.colB (s : State) (c : Cmd) (pan : Nat) (b : PressBlock) (o : PressOp) (j n : Nat) : List (List FVal) :=
  (List.range 8).map fun t =>
    let k := 8 * j + t
    let scale := if b.bscale = 0 then none else some (s.scaleByte c pan (b.bscale + BitVec.ofNat 64 k))
    elementParts o.fb b.db scale (s.operandBits c.part pan b.b o.fb b.db o.pb b.sb k n)

/-- The sums s of a k-block for every element of C, row-major (R293). -/
def State.blockSums (s : State) (c : Cmd) (pan : Nat) (b : PressBlock) (o : PressOp) (j : Nat) : List (List FVal × FFlags) :=
  let rows := (List.range b.m).map (s.rowA c pan b o j)
  let cols := (List.range b.n).map (s.colB c pan b o j)
  rows.flatMap fun x => cols.map fun y =>
    pressTree (List.zipWith (pressProd (b.fn = 2) b.da b.db) x y)

/-- The place of an element of C: its address and the bit of its first byte (R290). -/
def destAt (b : PressBlock) (w i : Nat) : Word × Nat :=
  let pos := i % b.n * w
  (b.c + BitVec.ofNat 64 (i / b.n * b.sc + pos / 8), pos % 8)

/-- The accumulators that C holds, with the flags of the reading (R293, R294). -/
def State.readC (s : State) (p pan : Nat) (b : PressBlock) (o : PressOp) : List Int × FFlags :=
  let w := destBits b.complex o.fc
  let part := destPart o.fc
  let parts := (List.range (b.m * b.n)).flatMap fun i =>
    let (va, bit) := destAt b w i
    let v := bitsAt (s.winNat p pan va ((bit + w + 7) / 8)) bit w
    if b.complex then [accOf b.acc part (bitsAt v 0 (w / 2)), accOf b.acc part (bitsAt v (w / 2) (w / 2))]
    else [accOf b.acc part v]
  (parts.map Prod.fst, parts.foldl (fun (f : FFlags) x => f ||| x.2) 0)

/-- The rows of C, as runs of bytes. -/
def rowsC (b : PressBlock) (w : Nat) : List (Word × Nat) :=
  (List.range b.m).map fun m => (b.c + BitVec.ofNat 64 (m * b.sc), rowBytes b.n w)

/-- Writes an element of C, its neighbours unchanged. -/
def State.putC (s : State) (p pan : Nat) (b : PressBlock) (w i v : Nat) : State :=
  let (va, bit) := destAt b w i
  let n := (bit + w + 7) / 8
  let old := if w % 8 = 0 then 0 else s.winNat p pan va n
  s.winPut p pan va (natBytes n (old - bitsAt old bit w * 2 ^ bit + v % 2 ^ w * 2 ^ bit))

/-- Writes C back from its accumulators, with the flags of the conversions; `draws` gives the seed of the draws where the
write-back makes them (R294). -/
def State.writeC (s : State) (p pan : Nat) (b : PressBlock) (fc : Fmt) (rm : Rm) (seed : Word) (acc : List Int) :
    State × FFlags :=
  let w := destBits b.complex fc
  let part := destPart fc
  let per := if b.complex then 2 else 1
  let r := (List.range (b.m * b.n)).foldl (fun (x : State × FFlags × Word) i =>
    let z1 := if rm = .sr then xorshift x.2.2 else x.2.2
    let z2 := if rm = .sr && b.complex then xorshift z1 else z1
    let re := destOf b.acc part rm z1 (acc.getD (per * i) 0)
    let im := if b.complex then destOf b.acc part rm z2 (acc.getD (per * i + 1) 0) else (0, 0)
    (x.1.putC p pan b w i (re.1 + im.1 * 2 ^ (w / 2)), x.2.1 ||| re.2 ||| im.2, z2)) (s, 0, seed)
  (r.1, r.2.1)

/-! ## The checks at the start (R299) -/

/-- The first page of each operand in the Pan store, in order (R299). -/
def PressBlock.firstPages (b : PressBlock) (pan : Nat) (zero : Bool) : List Word :=
  if zero then [b.c]
  else [b.a, b.b, b.c] ++ (if b.ascale ≠ 0 && sideInPan pan b.ascale then [b.ascale] else []) ++
    (if b.bscale ≠ 0 && sideInPan pan b.bscale then [b.bscale] else [])

/-- The first failure of a list of checks. -/
def firstFail (l : List (Option PressFail)) : Option PressFail := l.findSome? id

/-- A failure where a condition does not hold. -/
def needs (ok : Bool) (c : TrapCode) (va : Word) : Option PressFail := if ok then none else some ⟨c, va, false⟩

/-- A scale array of the Pan store lies in an untyped vat (R291). -/
def State.scaleUntyped (s : State) (p pan : Nat) (va : Word) : Bool :=
  va = 0 || (match s.vatAt p pan va with
    | some r => (typedFmt r).isNone
    | none => true)

/-- The formats of an operation, where its operands have them (R291). -/
def State.pressOp (s : State) (p pan : Nat) (b : PressBlock) : Option PressOp :=
  match s.operandFmt p pan b.a, s.operandFmt p pan b.b, s.operandFmt p pan b.c with
  | some (fa, pa), some (fb, pb), some (fc, _) => (pairClass fa fb).map fun cls => ⟨fa, fb, fc, pa, pb, cls⟩
  | _, _, _ => none

/-- A depth suits its operand (R291). -/
def depthSuits (f : Fmt) (d : Nat) : Bool :=
  if isPlane f then d ≠ 0 && (d ≠ 16 || fmtBits f = 16) else d = 0

/-- The plane bytes of an operand lie in the eight window pages that begin at its page (R290). -/
def planesInside (f : Fmt) (va : Word) (depth planes rows stride row : Nat) : Bool :=
  !isPlane f || va.toNat % 8192 + (depth - 1) * 8 * planes + (rows - 1) * stride + row ≤ 8 * 8192

/-- The planes of an operand hold its rows within their stride, and lie within the vat of its first page (R153). -/
def State.planesFit (s : State) (p pan : Nat) (f : Fmt) (va : Word) (depth planes rows stride row : Nat) : Bool :=
  let n := (rows - 1) * stride + row
  !isPlane f || (n ≤ 8 * planes && s.inOneVat p pan (va.toNat % 2 ^ 25) (depth * 8 * planes))

/-- FORMAT by R153, R286, R290, R291 and R292. -/
def State.formatFail (s : State) (c : Cmd) (pan : Nat) (b : PressBlock) : Option PressFail :=
  let p := c.part
  match s.pressOp p pan b with
  | none => some ⟨.format, b.a, false⟩
  | some o =>
    let rowA := rowBytes b.k (if isPlane o.fa then 1 else fmtBits o.fa)
    let rowB := rowBytes b.n (if isPlane o.fb then 1 else fmtBits o.fb)
    let cpb := pressCpb o.cls o.fa o.fb b.da b.db (b.fn = 2)
    firstFail [
      needs (depthSuits o.fa b.da) .format b.a, needs (depthSuits o.fb b.db) .format b.b,
      needs (b.complex == o.cls.isComplex) .format b.a,
      needs ((b.ascale ≠ 0) == isScaled o.fa) .format b.a, needs ((b.bscale ≠ 0) == isScaled o.fb) .format b.b,
      needs (s.scaleUntyped p pan b.ascale) .format b.ascale, needs (s.scaleUntyped p pan b.bscale) .format b.bscale,
      needs (accSuits o.cls b.acc) .format b.c, needs (destAllowed b.complex o.fc b.acc) .format b.c,
      needs (b.k ≤ largestK cpb) .format b.a,
      needs (rowA ≤ b.sa) .format b.a, needs (rowB ≤ b.sb) .format b.b,
      needs (rowBytes b.n (destBits b.complex o.fc) ≤ b.sc) .format b.c,
      needs (planesInside o.fa b.a b.da o.pa b.m b.sa rowA) .format b.a,
      needs (planesInside o.fb b.b b.db o.pb b.k b.sb rowB) .format b.b,
      needs (s.planesFit p pan o.fa b.a b.da o.pa b.m b.sa rowA) .format b.a,
      needs (s.planesFit p pan o.fb b.b b.db o.pb b.k b.sb rowB) .format b.b,
      needs (b.fn ≠ 0 || destReadable o.fc b.acc) .format b.c,
      needs (destExact o.fc b.acc || !(b.chain || b.fn = 2 || 0 < c.done)) .format b.c]

/-- The bytes to which an operand is aligned: its elements, or 3 for six-bit formats (R290). -/
def alignOf (bits : Nat) : Nat := if bits = 6 then 3 else if bits < 8 then 1 else bits / 8

/-- An operand and its stride are aligned to its elements, six-bit data by its offset in the vat, and the base of planes also to 8
bytes (R153, R290). -/
def State.alignedOp (s : State) (p pan : Nat) (va : Word) (stride bits : Nat) (plane : Bool) : Bool :=
  let n := alignOf bits
  let off := match s.winPlace p pan va with
    | .pan _ pa => if bits = 6 then pa % 2 ^ 16 else va.toNat
    | .hbm _ => va.toNat
  off % n = 0 && stride % n = 0 && (!plane || va.toNat % 8 = 0)

/-- ALIGN by R290. -/
def State.alignFail (s : State) (p pan : Nat) (b : PressBlock) (o : PressOp) : Option PressFail :=
  firstFail [
    needs (s.alignedOp p pan b.a b.sa (fmtBits o.fa) (isPlane o.fa)) .align b.a,
    needs (s.alignedOp p pan b.b b.sb (fmtBits o.fb) (isPlane o.fb)) .align b.b,
    needs (s.alignedOp p pan b.c b.sc (destBits b.complex o.fc) false) .align b.c]

/-- The failure of one of C's pages (R299). -/
def State.destPageFail (s : State) (p pan : Nat) (reads : Bool) (va : Word) : Option PressFail :=
  match s.pressPage p pan va with
  | .error f => some f
  | .ok e => if !e.write || (reads && !e.read) then some ⟨.prot, va, false⟩ else none

/-- The labels of C's pages, all of which a result label must be within: their intersection. -/
def State.destLabel (s : State) (p pan : Nat) (pages : List Word) : Label :=
  pages.foldl (fun (l : Label) va => l &&& (s.mapEntry p pan (va.toNat % 2 ^ 25 / 8192)).label) (-1)

/-- The union of the labels of pages of the Press's Pan. -/
def State.pagesLabel (s : State) (p pan : Nat) (pages : List Word) : Label :=
  pages.foldl (fun (l : Label) va => l ||| (s.mapEntry p pan (va.toNat % 2 ^ 25 / 8192)).label) 0

/-- The address of the first byte with an uncorrectable error among the pieces of a run. -/
def State.badSpot (s : State) : List (Target × Nat) → Word → Option Word
  | [], _ => none
  | t :: ts, va =>
    match s.badIn t.1.loc t.2 with
    | some k => some (va + BitVec.ofNat 64 k)
    | none => s.badSpot ts (va + BitVec.ofNat 64 t.2)

/-- The address of the first byte of a run with an uncorrectable error. -/
def State.badByte (s : State) (p pan : Nat) (x : Word × Nat) : Option Word :=
  ((List.range x.2).find? fun k => s.mem.bad (s.winPlace p pan (x.1 + BitVec.ofNat 64 k))).map fun k => x.1 + BitVec.ofNat 64 k

/-- The pieces of a scale array are translated: the labels read, or the failure (R299). -/
def State.scaleCheck (s : State) (place : Nat) (c : Cmd) (va : Word) (n : Nat) : Except PressFail Label × State :=
  if va = 0 then (.ok 0, s)
  else
    match s.engineSpots (1024 + place) c.part c.gang [(va, n)] readKind c.task with
    | (.error (e, x), s) => (.error ⟨e, x, false⟩, s)
    | (.ok ts, s) =>
      match s.badSpot ts va with
      | some x => (.error ⟨.dataerr, x, false⟩, s)
      | none => (.ok (ts.foldl (fun (l : Label) t => l ||| t.1.rlabel) 0), s)

/-- The label of an operation before it has read a page: its command's, that of the chain which it continues, and SEED's under SR
(R298). -/
def Cmd.baseLabel (c : Cmd) (chain : Label) : Label := c.label ||| chain ||| (if rmOf c.rm = .sr then c.seedLabel else 0)

/-- The start checks of an operation (R299): its label as far as it is known, or the first failure with the label reached (R298). -/
def State.startChecks (s : State) (place : Nat) (c : Cmd) (cont : Bool) (chain : Label) :
    Except (PressFail × Label) Label × State :=
  let pan := placePan place
  let base := c.baseLabel chain
  let b := pressBlock c.block
  let p := c.part
  let zero := c.kind == CmdKind.zero
  match (b.firstPages pan zero).findSome? fun va => match s.pressPage p pan va with
      | .error f => some f
      | .ok _ => none with
  | some f => (.error (f, base), s)
  | none =>
    if zero then
      match s.operandFmt p pan b.c with
      | none => (.error (⟨.format, b.c, false⟩, base), s)
      | some (fc, _) =>
        let w := destBits b.complex fc
        let pages := pagesOf (rowsC b w)
        let bad := firstFail ([
          needs (destAllowed b.complex fc b.acc || (b.complex && (fc == .acc32f || fc == .acc32i || fc == .acc64i))) .format b.c,
          needs (rowBytes b.n w ≤ b.sc) .format b.c, needs (s.alignedOp p pan b.c b.sc w false) .align b.c] ++
          pages.map (s.destPageFail p pan false) ++ [needs (labelLe base (s.destLabel p pan pages)) .label b.c])
        match bad with
        | some f => (.error (f, base), s)
        | none => (.ok base, s)
    else
      match s.formatFail c pan b, s.pressOp p pan b with
      | some f, _ => (.error (f, base), s)
      | none, none => (.error (⟨.format, b.a, false⟩, base), s)
      | none, some o =>
        let w := destBits b.complex o.fc
        let pages := pagesOf (rowsC b w)
        let reads := b.fn ≠ 1
        match firstFail (s.alignFail p pan b o :: pages.map (s.destPageFail p pan reads)) with
        | some f => (.error (f, base), s)
        | none =>
          match s.scaleCheck place c b.ascale b.scaleBytes.1 with
          | (.error f, s) => (.error (f, base), s)
          | (.ok l1, s) =>
            match s.scaleCheck place c b.bscale b.scaleBytes.2 with
            | (.error f, s) => (.error (f, base ||| l1), s)
            | (.ok l2, s) =>
              let readsC := !cont && (reads || 0 < c.done)
              let l := base ||| l1 ||| l2 ||| (if readsC then s.pagesLabel p pan pages else 0)
              if !labelLe l (s.destLabel p pan pages) then (.error (⟨.label, b.c, false⟩, l), s)
              else
                let bad := if readsC then (rowsC b w).findSome? (s.badByte p pan) else none
                match bad with
                | some x => (.error (⟨.dataerr, x, false⟩, l), s)
                | none => (.ok l, s)

/-! ## The block's fields and the end of an operation (R297, R300, R303) -/

/-- Writes PROGRESS, FSTATE and RESLABEL into the block, where its page accepts them (R300). -/
def State.pressReport (s : State) (place : Nat) (c : Cmd) (progress fstate : Nat) (label : Label) : State :=
  let s := s.writeBlock place c 0x37 (natBytes 1 fstate) label
  let s := s.writeBlock place c 0x38 (natBytes 2 progress) label
  s.writeBlock place c 0x3C (natBytes 4 label.toNat) label

/-- The units of an operation: one for each 64 bytes read or written (R287). -/
def pressUnits (b : PressBlock) (o : PressOp) (blocks : Nat) (readsC writesC : Bool) : Nat :=
  let bytes (l : List (Word × Nat)) : Nat := (l.map Prod.snd).foldl (· + ·) 0
  let cb := b.destBytes (destBits b.complex o.fc)
  let n := blocks * (bytes (runsA b o 0) + bytes (runsB b o 0)) + (if b.ascale = 0 then 0 else b.scaleBytes.1) +
    (if b.bscale = 0 then 0 else b.scaleBytes.2) + (if readsC then cb else 0) + (if writesC then cb else 0)
  (n + 63) / 64

/-- An operation stops before k-block j, by a fault or the watchdog: C is written back where R300 says so, and PROGRESS is
set: the state and PROGRESS. -/
def State.stopPress (s : State) (place : Nat) (c : Cmd) (r : PressRun) (fstate : Nat) : State × Nat :=
  let pan := placePan place
  let b := pressBlock c.block
  let known := s.cExact c.part pan b
  let exact := known.getD (0 < r.first)
  let keeps := r.running && exact && (r.first < r.block || r.cont) && c.kind == CmdKind.press
  let progress := if c.kind == CmdKind.zero then 0 else if !exact then 0 else if keeps then r.block else r.first
  let writes := keeps || (r.cont && exact)
  let s := match s.operandFmt c.part pan b.c with
    | some (fc, _) =>
      let s := if writes then (s.writeC c.part pan b fc .rne 0 r.acc).1 else s
      if r.running || !writes then s else s.chargeUnits c.part c.gang pan ((b.destBytes (destBits b.complex fc) + 63) / 64)
    | none => s
  let s := match s.pressOp c.part pan b with
    | some o =>
      if r.running && c.kind == CmdKind.press then s.chargeUnits c.part c.gang pan (pressUnits b o (r.block - r.first) (!r.cont && (b.fn ≠ 1 || 0 < r.first)) writes) else s
    | none => s
  let s := s.pressReport place c progress fstate r.label
  let s := s.modEngine place fun e => { e with press := none }
  (s.modCmd place c.id fun c => { c with done := progress, read := r.label }, progress)

/-- A fault of the Press (R300): the command halts at the head of its queue, and its issuer is told. -/
def State.pressFault (s : State) (place : Nat) (c : Cmd) (r : PressRun) (f : PressFail) : State :=
  let cause := causeOf f.cause
  let (s, _) := s.stopPress place c r (cause + (if f.moving then 8 else 0))
  let s := s.modCmd place c.id fun c => { c with state := .halted, cause := cause, fadr := f.addr }
  match s.cmd? place c.id with
  | none => s
  | some c =>
    let s := s.answerWaits c.part c.ticket c.src true c.word 0 (List.replicate 16 0)
    ((s.notify c .pressfault cause f.addr).releaseHeld).turnQueues place

/-- The watchdog stops an operation (R303); one that has not begun has read no page (R298). -/
def State.pressAbort (s : State) (place : Nat) (c : Cmd) (r : PressRun) : State :=
  let r := if r.running then r else { r with label := c.baseLabel r.label }
  let (s, _) := s.stopPress place c r 0
  match s.cmd? place c.id with
  | none => s
  | some c => (s.notify c .watchdog 0 0).endCmd place c.id statusAborted 0

/-! ## Choosing and starting (R287, R288, R299) -/

/-- The oldest command of a partition in a Press queue but for one that has just ended (R287). -/
def Engine.oldest (e : Engine) (part : Nat) (skip : Option Nat) : Option Cmd :=
  (e.cmds.filter fun c => c.part = part && c.queue = 6 && some c.id ≠ skip).foldl (fun (b : Option Cmd) c =>
    match b with
    | some x => if c.order < x.order then some c else b
    | none => some c) none

/-- The command that the Press serves next: of the next partition, in ascending circular order, whose oldest command is
ready; none of a gang that is being folded (R64, R275, R287, R405). -/
def State.pressNext (s : State) (place : Nat) (skip : Option Nat) : Option Cmd :=
  let e := s.engine place
  ((List.range 32).map fun k => (e.served + 1 + k) % 32).findSome? fun p =>
    match e.oldest p skip with
    | some c => if c.state == .queued && c.after.isEmpty && !s.throttled p (placePan place) && !s.foldingGang c.gang then some c else none
    | none => none

/-- A command continues the chain of the one before it (R288). -/
def Cmd.continues (x y : Cmd) : Bool :=
  let a := pressBlock x.block
  let b := pressBlock y.block
  x.part = y.part && x.kind == .press && y.kind == .press && a.chain && a.c = b.c && a.sc = b.sc && a.m = b.m &&
    a.n = b.n && a.accfmt = b.accfmt && a.complex == b.complex

/-- The range of C passes from a command to the one that continues its chain: no copy accepted between them comes before it
(R297). -/
def State.passRange (s : State) (place : Nat) (x y : Cmd) : State :=
  { s with fab := { s.fab with ranges := s.fab.ranges.map fun (r : Range) =>
      if r.engine = place && r.cmd = y.id && r.dest then { r with order := min r.order x.order } else r } }

/-- The Press takes a command up, with the accumulator of a chain where it continues one. -/
def State.takeUp (s : State) (place : Nat) (c : Cmd) (cont : Bool) (acc : List Int) (label : Label) : State :=
  let now := s.time.cycle
  let s := s.modEngine place fun e => { e with
    served := c.part, press := some ⟨c.id, acc, c.done, c.done, cont, label, false⟩ }
  (s.modCmd place c.id fun c => { c with state := .started, startAt := now }).schedule (now + 16384) (.pressWatchdog place)

/-- The cycles of one transfer of C (R286). -/
def destCycles (b : PressBlock) (w : Nat) : Nat := (b.destBytes w + 255) / 256

/-- The runs of bytes of an operation's scale arrays (R291). -/
def PressBlock.scaleRuns (b : PressBlock) : List (Word × Nat) :=
  (if b.ascale = 0 then [] else [(b.ascale, b.scaleBytes.1)]) ++ (if b.bscale = 0 then [] else [(b.bscale, b.scaleBytes.2)])

/-- The places of runs of bytes of the Press's Pan, to correct what is read or overwritten there (R217). -/
def State.winCorrect (s : State) (p gang pan : Nat) (writes : Bool) (runs : List (Word × Nat)) : State :=
  if s.mem.softWords.isEmpty then s
  else (runs.flatMap fun r => pagePieces (pieceFuel r.2) r.1 r.2).foldl (fun (s : State) x =>
    s.correctRun p gang writes (s.winPlace p pan x.1) x.2) s

/-- The command taken up starts, once no range, no causal past and no memory controller holds it: its start checks, the read of C,
and the time of its first k-block (R286, R293, R299, R343, R409). -/
def State.startPress (s : State) (place : Nat) (c : Cmd) (r : PressRun) : State :=
  let now := s.time.cycle
  let pan := placePan place
  let b := pressBlock c.block
  let scales := if c.kind == CmdKind.zero then [] else s.runPlaces c.part pan b.scaleRuns readKind c.task
  let dies := (scales.map fun t => t.1.loc.die).eraseDups
  let wait := s.placesWait c.part scales
  if s.heldBack place c || s.pastMissing place c (pan :: dies) (s.blockDies place c) then s.schedule (now + 16) (.pressOpStart place)
  else if wait ≠ 0 then s.schedule (now + wait) (.pressOpStart place)
  else
    match (s.noteUse c.part 4 place).startChecks place c r.cont r.label with
    | (.error f, s) => s.pressFault place c { r with label := f.2 } f.1
    | (.ok l, s) =>
      if c.kind == CmdKind.zero then
        let w := match s.operandFmt c.part pan b.c with
          | some (f, _) => destBits b.complex f
          | none => 8
        (s.modEngine place fun e => { e with press := some { r with label := l, running := true } }).schedule
          (now + 16 + destCycles b w) (.pressOpRetire place)
      else
        match s.pressOp c.part pan b with
        | none => s
        | some o =>
          let w := destBits b.complex o.fc
          let parts := b.m * b.n * (if b.complex then 2 else 1)
          let s := (s.fillPlaces c.part c.gang scales).correctPlaces c.part c.gang false scales
          let s := if r.cont || (b.fn = 1 && r.first = 0) then s else s.winCorrect c.part c.gang pan false (rowsC b w)
          let x : List Int × FFlags := if r.cont then (r.acc, 0)
            else if b.fn = 1 && r.first = 0 then (List.replicate parts 0, 0) else s.readC c.part pan b o
          let s := (pan :: dies).foldl (fun (s : State) z => s.cmdRead place c.id z) s
          let s := s.modCmd place c.id fun c => { c with flags := ((BitVec.ofNat 5 c.flags : FFlags) ||| x.2).toNat }
          (s.modEngine place fun e => { e with press := some { r with acc := x.1, label := l, running := true } }).schedule
            (now + 16 + destCycles b w + pressCpb o.cls o.fa o.fb b.da b.db (b.fn = 2)) (.pressKblock place)

/-- `PRESS_OP_START`: the Press takes up the next command, or tries again the one that a range held (R287, R299). -/
def execPressOpStart (trellis : Nat) (s : State) : Result :=
  match (s.engine trellis).press with
  | some r =>
    match r.running, s.cmd? trellis r.cmd with
    | false, some c => .next (s.startPress trellis c r)
    | _, _ => .next s
  | none =>
    match s.pressNext trellis none with
    | none => .next s
    | some c => .next ((s.takeUp trellis c false [] 0).startPress trellis c ⟨c.id, [], c.done, c.done, false, 0, false⟩)

/-! ## The k-blocks (R293, R298, R299) -/

/-- A page that a k-block newly touches (R299). -/
def State.blockPageFail (s : State) (p pan : Nat) (base : Word) (va : Word) : Option PressFail :=
  match s.pressPage p pan va with
  | .error f => some f
  | .ok e =>
    if !e.read then some ⟨.prot, va, false⟩
    else if s.vatAt p pan va ≠ s.vatAt p pan base then some ⟨.format, va, false⟩
    else none

/-- The pages of an operand that a k-block is the first to touch. -/
def newPages (runs : Nat → List (Word × Nat)) (first j : Nat) : List Word :=
  let before := (List.range (j - first)).flatMap fun k => pagesOf (runs (first + k))
  (pagesOf (runs j)).filter fun x => !before.any fun y => y.toNat / 8192 = x.toNat / 8192

/-- The checks before a k-block: the label with the pages newly touched, or the failure (R298, R299). -/
def State.blockChecks (s : State) (c : Cmd) (pan : Nat) (b : PressBlock) (o : PressOp) (r : PressRun) :
    Except PressFail Label :=
  let p := c.part
  let pa := newPages (runsA b o) r.first r.block
  let pb := newPages (runsB b o) r.first r.block
  match firstFail (pa.map (s.blockPageFail p pan b.a) ++ pb.map (s.blockPageFail p pan b.b)) with
  | some f => .error f
  | none =>
    let l := r.label ||| s.pagesLabel p pan (pa ++ pb)
    if !labelLe l (s.destLabel p pan (pagesOf (rowsC b (destBits b.complex o.fc)))) then .error ⟨.label, b.c, false⟩
    else
      match (runsA b o r.block ++ runsB b o r.block).findSome? (s.badByte p pan) with
      | some x => .error ⟨.dataerr, x, false⟩
      | none => .ok l

/-- The accumulators as the first k-block of an operation finds them (R293). -/
def startAcc (b : PressBlock) (r : PressRun) : List Int × FFlags :=
  if r.block ≠ 0 then (r.acc, 0)
  else
    match b.fn with
    | 1 => (r.acc.map fun _ => 0, 0)
    | 2 =>
      let x := r.acc.map fun a => accScale b.acc a (b.da + b.db - 8)
      (x.map Prod.fst, x.foldl (fun f v => f ||| v.2) 0)
    | _ => (r.acc, 0)

/-- The accumulators after a k-block (R293). -/
def stepAcc (b : PressBlock) (acc : List Int) (sums : List (List FVal × FFlags)) : List Int × FFlags :=
  let flat := sums.flatMap Prod.fst
  let x := List.zipWith (accAdd b.acc) acc flat
  (x.map Prod.fst, (x.map Prod.snd ++ sums.map Prod.snd).foldl (· ||| ·) 0)

/-- `PRESS_KBLOCK`: checks and computes one k-block (R293, R298, R299). -/
def execPressKblock (trellis : Nat) (s : State) : Result :=
  let pan := placePan trellis
  match (s.engine trellis).press with
  | none => .next s
  | some r =>
    match s.cmd? trellis r.cmd with
    | none => .next s
    | some c =>
      let b := pressBlock c.block
      if s.blockWaits trellis c then .next (s.schedule (s.time.cycle + 1) (.pressKblock trellis))
      else match s.pressOp c.part pan b with
      | none => .next (s.pressFault trellis c r ⟨.format, b.a, false⟩)
      | some o =>
        match s.blockChecks c pan b o r with
        | .error f => .next (s.pressFault trellis c r f)
        | .ok l =>
          let s := s.winCorrect c.part c.gang pan false (runsA b o r.block ++ runsB b o r.block)
          let x := startAcc b r
          let y := stepAcc b x.1 (s.blockSums c pan b o r.block)
          let r := { r with acc := y.1, block := r.block + 1, label := l }
          let s := s.cmdRead trellis c.id pan
          let s := s.modEngine trellis fun e => { e with press := some r }
          let s := s.modCmd trellis c.id fun c => { c with
            done := r.block, flags := ((BitVec.ofNat 5 c.flags : FFlags) ||| x.2 ||| y.2).toNat }
          let now := s.time.cycle
          if c.owed then .next (s.pressAbort trellis c r)
          else if r.block < b.k / 8 then
            .next (s.schedule (now + pressCpb o.cls o.fa o.fb b.da b.db (b.fn = 2)) (.pressKblock trellis))
          else .next (s.schedule (now + destCycles b (destBits b.complex o.fc)) (.pressOpRetire trellis))

/-! ## The end (R288, R294, R297) -/

/-- A command of the Press retires with its block's fields written (R297). -/
def State.retirePress (s : State) (place : Nat) (c : Cmd) (progress : Nat) (label : Label) (flags : FFlags) : State :=
  let s := s.pressReport place c progress 0 label
  let s := s.modCmd place c.id fun c => { c with
    done := progress, read := label, flags := ((BitVec.ofNat 5 c.flags : FFlags) ||| flags).toNat }
  s.endCmd place c.id statusOk 0

/-- `PRESS_OP_RETIRE`: C is written back, or stays in the buffer for the command that continues its chain, and the command
retires (R288, R294, R297). The account is charged before the Press looks for what continues the chain (R405). -/
def execPressOpRetire (trellis : Nat) (s : State) : Result :=
  let pan := placePan trellis
  match (s.engine trellis).press with
  | none => .next s
  | some r =>
    match s.cmd? trellis r.cmd with
    | none => .next s
    | some c =>
      let b := pressBlock c.block
      if s.blockWaits trellis c then .next (s.schedule (s.time.cycle + 1) (.pressOpRetire trellis))
      else if c.kind == CmdKind.zero then
        let w := match s.operandFmt c.part pan b.c with
          | some (f, _) => destBits b.complex f
          | none => 8
        let s := s.winCorrect c.part c.gang pan true (rowsC b w)
        let s := (List.range (b.m * b.n)).foldl (fun (s : State) i => s.putC c.part pan b w i 0) s
        let s := s.chargeUnits c.part c.gang pan ((b.destBytes w + 63) / 64)
        let s := s.modEngine trellis fun e => { e with press := none }
        .next (s.retirePress trellis c 1 r.label 0)
      else
        match s.pressOp c.part pan b with
        | none => .next (s.pressFault trellis c r ⟨.format, b.c, false⟩)
        | some o =>
          let blocks := r.block - r.first
          let readsC := !r.cont && (b.fn ≠ 1 || 0 < r.first)
          match (s.chargeUnits c.part c.gang pan (pressUnits b o blocks readsC false)).pressNext trellis (some c.id) with
          | some y =>
            if c.continues y then
              let s := s.chargeUnits c.part c.gang pan (pressUnits b o blocks readsC false)
              let s := (s.passRange trellis c y).takeUp trellis y true r.acc r.label
              .next ((s.retirePress trellis c (b.k / 8) r.label 0).push (.pressOpStart trellis))
            else .next (writeBack o b r c blocks readsC s)
          | none => .next (writeBack o b r c blocks readsC s)
where
  /-- The write-back of C, and the end of the operation (R294). -/
  writeBack (o : PressOp) (b : PressBlock) (r : PressRun) (c : Cmd) (blocks : Nat) (readsC : Bool) (s : State) : State :=
    let pan := placePan trellis
    let s := s.winCorrect c.part c.gang pan true (rowsC b (destBits b.complex o.fc))
    let x := s.writeC c.part pan b o.fc (rmOf c.rm) c.seed r.acc
    let s := x.1.chargeUnits c.part c.gang pan (pressUnits b o blocks readsC true)
    let s := s.modEngine trellis fun e => { e with press := none }
    s.retirePress trellis c (b.k / 8) r.label x.2

/-- `PRESS_WATCHDOG`: an operation that has run for 16,384 cycles stops at the end of its k-block; one that waits to start
stops at once (R303). -/
def execPressWatchdog (trellis : Nat) (s : State) : Result :=
  match (s.engine trellis).press with
  | none => .next s
  | some r =>
    match s.cmd? trellis r.cmd with
    | none => .next s
    | some c =>
      if s.time.cycle < c.startAt + 16384 then .next s
      else if s.blockWaits trellis c then .next (s.schedule (s.time.cycle + 1) (.pressWatchdog trellis))
      else if r.running && c.kind == CmdKind.press then
        .next (s.modCmd trellis c.id fun c => { c with owed := true })
      else .next (s.pressAbort trellis c r)

/-! ## The instructions (R304 to R307) -/

/-- The halted command of a block that heads its partition's Press queue (R301, R305). -/
def State.haltedPress (s : State) (place part : Nat) (va : Word) : Option Cmd :=
  match (s.engine place).oldest part none with
  | some c => if c.state == .halted && c.bva = va then some c else none
  | none => none

/-- `pmm` or `pzero`: reads and submits a block, or resumes a halted command (R301, R305, R306). -/
def pressSubmit (zero : Bool) (d a : Reg) (s : State) : Result :=
  s.issue { Uses.none with away := !s.t.atOrigin, dests := [d], srcs := [(a, false)], mem := true } fun s =>
    let va := s.val a
    if va.toNat % 64 ≠ 0 then .next (s.fail .align va 0 [a] 0)
    else if s.outside va then .next (s.fail .prot va 0 [a] 0)
    else
      s.commandWait fun s =>
        s.readBlock va 64 [a] fun s bs l =>
          let t := s.t
          let place := t.place
          let part := t.ident.part
          let pan := t.ident.pan
          let stRm := fieldOf t.ctl.status 2 3
          let tlabel := s.resultLabel [a] ||| l
          let block := bindRound bs 0x36 stRm
          let b := pressBlock block
          let quota := s.rangeQuota pan
          let rm := if zero then 0 else b.round
          let c := { s.newCmd (if zero then .zero else .press) 6 va block [] [] (t.ctl.clabel ||| s.lbl a ||| l) tlabel rm with
            done := if !zero && b.resume then b.progress else 0 }
          if !(if zero then b.zeroOk pan quota else b.ok block pan quota) then .next (s.refuse d tlabel)
          else
            match (if !zero && b.resume then s.haltedPress place part va else none) with
            | some old =>
              if old.uid = t.ident.uid || !t.isTask then
                let (id, s) := s.fresh
                let own (r : Range) : Range := if r.engine = place && r.cmd = old.id then { r with cmd := id } else r
                let s := { s with fab := { s.fab with ranges := s.fab.ranges.map own } }
                .next (s.replaceHalted d old { c with
                  id := id, seed := old.seed, seedLabel := old.seedLabel, draws := old.draws })
              else .next (s.submit d { c with draws := b.draws rm })
            | none => .next (s.submit d { c with draws := if zero then 0 else b.draws rm })

/-- `pmm`: submits a Press command block (R305). -/
def execPmm (d a : Reg) (s : State) : Result := pressSubmit false d a s

/-- `pzero`: submits a command that zeroes C (R306). -/
def execPzero (d a : Reg) (s : State) : Result := pressSubmit true d a s

/-- `pwait`: fills d when the command ends or halts; a halted one is abandoned (R301, R307). -/
def execPwait (d a : Reg) (s : State) : Result :=
  s.issue { Uses.none with away := !s.t.atOrigin, dests := [d], srcs := [(a, false)] } fun s =>
    let w := s.val a
    .next (s.awaitTicket d w true (s.pressStanding w) (s.resultLabel [a]))

/-- `pprog`: the status of a Press ticket now (R307). -/
def execPprog (d a : Reg) (s : State) : Result :=
  s.issue { Uses.none with away := !s.t.atOrigin, dests := [d], srcs := [(a, false)] } fun s =>
    .next (s.report d (s.pressStanding (s.val a)) (s.resultLabel [a]))

end Sys2Proof.Machine
end

