-- ==== Sys2Proof/Machine/RackEvents.lean ====
section
/-! DEFINITION. The events of the racking engine: segments, retirement, follow-ons and the watchdog (R261, R276 to R278,
R280, R406). -/

namespace Sys2Proof.Machine

open Sys2Proof

/-- A request of `tdir` or `tmove` by its number. -/
def State.dirReq? (s : State) (id : Nat) : Option DirReq := s.census.reqs.find? fun r => r.id = id

/-- Changes a request of `tdir` or `tmove`. -/
def State.modReq (s : State) (id : Nat) (f : DirReq → DirReq) : State :=
  { s with census := { s.census with reqs := s.census.reqs.map fun r => if r.id = id then f r else r } }

/-- DONE is written into the block of a copy of `rack` (R278). -/
def State.writeDone (s : State) (place : Nat) (c : Cmd) (done : Nat) : State :=
  if c.kind == CmdKind.copy then s.writeBlock place c 0x24 (natBytes 4 done) c.label else s

/-- The copy of a move has ended: its entry lands at the destination, or back at its source (R358, R363). -/
def State.endMove (s : State) (place : Nat) (c : Cmd) (fault : Option Nat) : State :=
  match s.dirReq? c.req with
  | none => s
  | some r =>
    match fault with
    | none => (s.modReq r.id fun r => { r with landed := true }).push (.entryLanding place r.id)
    | some cause => (s.modReq r.id fun r => { r with cause := cause }).push (.entryLanding r.srcAt r.id)

/-- A copy stops at a faulting element: it halts its queue and its issuer traps; that of a move is abandoned (R278). -/
def State.copyFault (s : State) (place : Nat) (c : Cmd) (code : TrapCode) (addr : Word) : State :=
  let cause := causeOf code
  if c.kind == CmdKind.tmove then (s.endMove place c (some cause)).endCmd place c.id statusFault cause
  else
    let s := s.writeDone place c c.done
    let s := s.modCmd place c.id fun c => { c with state := .halted, cause := cause, fadr := addr }
    (s.notify c .rackfault cause addr).turnQueues place

/-- The bytes that a segment read or wrote, whichever is more (R280). -/
def State.segmentBytes (s : State) (place : Nat) (c : Cmd) (n : Nat) : Nat :=
  let bits (dst : Bool) : Nat := c.copy.bits ((s.sideFmt c.part (placePan place) c.copy dst c.done).bind Prod.fst)
  (n * max (bits false) (bits true) + 7) / 8

/-- The places that the next segment of a copy reads, and those that it writes (R261). -/
def State.segmentPlaces (s : State) (place : Nat) (c : Cmd) : List (Target × Nat) × List (Target × Nat) :=
  let pan := placePan place
  let x := c.copy
  let f (dst : Bool) := s.sideFmt c.part pan x dst c.done
  let n := min (x.segment ((f true).bind Prod.fst)) (x.elems - c.done)
  let runs (dst : Bool) : List (Word × Nat) := (List.range n).flatMap fun k =>
    (x.spans dst ((f dst).bind Prod.fst) (sideStride (f dst)) (c.done + k)).1
  (s.runPlaces c.part pan (runs false) readKind c.task, s.runPlaces c.part pan (runs true) writeKind c.task)

/-- The dies that the next segment of a copy reads, and those that it writes (R261). -/
def State.segmentDies (s : State) (place : Nat) (c : Cmd) : List Nat × List Nat :=
  let x := s.segmentPlaces place c
  ((x.1.map fun t => t.1.loc.die).eraseDups, (x.2.map fun t => t.1.loc.die).eraseDups)

/-- The places of a collective's contribution (R283). -/
def State.givenPlaces (s : State) (place : Nat) (c : Cmd) : List (Target × Nat) :=
  s.runPlaces c.part (placePan place) [(wordAt c.block 0, c.contribution)] readKind c.task

/-- The cycles that a segment waits at the memory controllers before it moves (R409, R412). -/
def State.segmentWait (s : State) (place : Nat) (c : Cmd) : Nat :=
  if c.kind.isCopy then let x := s.segmentPlaces place c; max (s.placesWait c.part x.1) (s.placesWait c.part x.2)
  else s.placesWait c.part (s.givenPlaces place c)

/-- A segment has read on some dies and written on others (R341, R343). -/
def State.passThrough (s : State) (place id : Nat) (dies : List Nat × List Nat) : State :=
  let s := dies.1.foldl (fun (s : State) z => s.cmdRead place id z) s
  dies.2.foldl (fun (s : State) z => s.cmdWrite place id z) s

/-- A segment of a copy lands, faults, waits in its course for a regulator's next window, or is followed by the next one, unless its
account or a fold stops it there (R261, R277, R278, R281, R405, R409). -/
def State.copySegment (s : State) (place : Nat) (c : Cmd) (dies : List Nat × List Nat) : State :=
  let r := s.runSegment place c
  let bytes := s.segmentBytes place c (r.i - c.done)
  let s := r.s.chargeUnits c.part c.gang (placePan place) ((bytes + 63) / 64)
  let c := { c with done := r.i, flags := (BitVec.ofNat 5 c.flags ||| r.flags).toNat, read := c.read ||| r.read }
  let s := (s.modCmd place c.id fun _ => c).passThrough place c.id dies
  match r.fault with
  | some (code, addr) => s.copyFault place c code addr
  | none =>
    if r.waits then s.schedule (max (s.time.cycle + 1) (s.ctrl.since + 1400)) (.rackSegment place c.id)
    else if c.copy.elems ≤ c.done then s.push (.rackRetire place c.id)
    else if s.throttled c.part (placePan place) || s.foldingGang c.gang then s.modCmd place c.id fun c => { c with state := .queued }
    else let x := segmentOf place s c; s.beginSegment place c x.1 x.2

/-- `RACK_SEGMENT`: a segment that is held by a range, for its causal past or by a memory controller waits; otherwise its bytes move,
or a collective sends its contribution (R261, R273, R283, R343, R409). -/
def execRackSegment (trellis cmd : Nat) (s : State) : Result :=
  match s.cmd? trellis cmd with
  | none => .next s
  | some c =>
    if c.state ≠ .started then .next s
    else if s.heldBack trellis c then .next (s.schedule (s.time.cycle + 16) (.rackSegment trellis cmd))
    else
      let dies := if c.kind.isCopy then s.segmentDies trellis c
        else (((s.givenPlaces trellis c).map fun t => t.1.loc.die).eraseDups, [])
      let wait := s.segmentWait trellis c
      if s.pastMissing trellis c dies.1 (dies.2 ++ s.blockDies trellis c) then
        .next (s.schedule (s.time.cycle + 1) (.rackSegment trellis cmd))
      else if wait ≠ 0 then .next (s.schedule (s.time.cycle + wait) (.rackSegment trellis cmd))
      else if c.kind.isCopy then .next (s.copySegment trellis c dies)
      else .next (s.collSend trellis c)

/-- `RACK_RETIRE`: the last segment has landed: the command retires, or waits until its follow-on is enqueued (R261,
R276). -/
def execRackRetire (trellis cmd : Nat) (s : State) : Result :=
  match s.cmd? trellis cmd with
  | none => .next s
  | some c =>
    if c.kind == CmdKind.tmove then .next ((s.endMove trellis c none).endCmd trellis cmd statusOk 0)
    else if c.follow.isEmpty then .next (s.endCmd trellis cmd statusOk 0)
    else
      let s := s.modCmd trellis cmd fun c => { c with state := .landed, startAt := s.time.cycle }
      .next (s.pushFollowOns trellis c.part)

/-- The Press command of a landed copy's follow-on: its draws come after the copy's, from the state held before SEED
advanced (R272, R276). -/
def Cmd.followOn (c : Cmd) (id seq place : Nat) (after : List Nat) : Cmd :=
  let b := pressBlock c.follow
  { c with
    id := id, queue := 6, seq := seq, ticket := ticketWord seq 6 place 0, kind := .press, bva := wordAt c.block 0x18
    block := c.follow, shape := [], follow := [], rm := b.round, draws := b.draws b.round
    seed := xorshiftN (c.draws - b.draws b.round) c.seed, done := if b.resume then b.progress else 0, flags := 0, read := 0
    status := 0, cause := 0, state := .queued, startAt := 0, order := id, after := after, src := some c.ticket, fadr := 0
    owed := false }

/-- `FOLLOW_ON_ENQUEUE`: a landed copy's Press command takes a Press entry when one is free; its ranges become active and the
copy retires (R273, R276). -/
def execFollowOnEnqueue (trellis cmd : Nat) (s : State) : Result :=
  match s.cmd? trellis cmd with
  | none => .next s
  | some c =>
    if c.state ≠ .landed || !s.queueRoom trellis c.part 6 then .next s
    else
      let e := s.engine trellis
      let (id, s) := s.fresh
      let p := c.followOn id (e.nextSeq c.part 6) trellis (e.fencesOn c.part 6)
      let p := { p with clock := joinClock p.clock (clockAt e.fenced c.part 6) }
      let take (r : Range) : Range :=
        if r.engine = trellis && r.cmd = cmd && !r.active then { r with cmd := id, active := true, order := id } else r
      let s := { s with fab := { s.fab with ranges := s.fab.ranges.map take } }
      let s := s.modEngine trellis fun e => { e.takeSeq c.part 6 with cmds := e.cmds ++ [p] }
      .next ((s.endCmd trellis cmd statusOk 0).kickPress trellis)

/-- A segment of a command is still to be performed: it has been begun and has not ended (R261). -/
def State.inSegment (s : State) (place id : Nat) : Bool := s.time.calendar.any fun x => x.2 == Instr.rackSegment place id

/-- `RACK_WATCHDOG`: a segment that has run for 16,384 cycles stops its copy, or its collective before it has contributed, whose
issuer receives WATCHDOG (R406); the other members of a collective are aborted as by a fault (R284). -/
def execRackWatchdog (trellis cmd : Nat) (s : State) : Result :=
  match s.cmd? trellis cmd with
  | none => .next s
  | some c =>
    if c.state ≠ .started || !s.inSegment trellis cmd || s.time.cycle < c.startAt + 16384 then .next s
    else if s.blockWaits trellis c then .next (s.schedule (s.time.cycle + 1) (.rackWatchdog trellis cmd))
    else if c.kind == CmdKind.coll then
      let s := (s.tellRoot c).endCmd trellis cmd statusAborted 0
      .next (s.notify c .watchdog 0 0)
    else
      let s := s.writeDone trellis c c.done
      let s := if c.kind == CmdKind.tmove then s.endMove trellis c (some 0) else s
      let s := s.endCmd trellis cmd statusAborted 0
      .next (s.notify c .watchdog 0 0)

end Sys2Proof.Machine
end

