-- ==== Sys2Proof/Machine/Start.lean ====
section
/-! DEFINITION. The start of a thread in a slot, for launches, `spawn`, invocations and censuses (R15, R58, R62, R159). -/

namespace Sys2Proof.Machine

open Sys2Proof

/-- The registers of a thread at its start: g1 and up hold the values given, the others 0; every label is one (R15). -/
def startRegs (vals : List Word) (l : Label) : Vector GReg 32 :=
  Vector.ofFn fun (r : Fin 32) => GReg.start (if r = 0 then 0 else vals.getD (r.val - 1) 0) (if r = 0 then 0 else l)

/-- What a start gives a thread beyond its place: its PC, registers with their label, LIVE, TRAPVEC and SEED (R15). -/
structure Beginning where
  pc      : Word
  regs    : Vector GReg 32
  clabel  : Label
  live    : BitVec 32
  trapvec : Word
  seed    : Word
  seedLabel : Label

/-- The default trap vector of a partition (R80, R387). -/
def State.defTrapvec (s : State) (p : Nat) : Word :=
  match s.part? p with
  | some x => x.regs.deftrapvec
  | none => 0

/-- TRAPVEC of a thread that begins in a gang now: the gang's, or the partition's default (R15). -/
def State.gangVec (s : State) (g : Gang) : Word := g.trapvec.getD (s.defTrapvec g.part)

/-- A thread begins in a slot, which becomes OCCUPIED: task mode, the state given, and every other control register at its
reset value (R15, R62, R79). -/
def State.startThread (s : State) (b : Beginning) (i : Ident) (core slot : Nat) : State :=
  let (uid, s) := s.fresh
  let t : Thread :=
    { regs := b.regs, pc := b.pc
      ctl := { Ctl.start with clabel := b.clabel, live := b.live, seed := b.seed, seedLabel := b.seedLabel }
      trap := ⟨0, 0, 0, 0, b.trapvec, 0⟩
      claim := Claim.none
      ident := { i with uid := uid, pan := corePan core, trellis := coreTrellis core, core0 := core, slot0 := slot }
      core := core, slot := slot, run := .ready, prog := .fresh, pending := [], second := [], late := none
      transit := none, proxy := false, patched := 0, acqFill := none, acqAcc := none, lastPerf := 0, stamp := 0 }
  { (s.setSlot ⟨core, slot, .occupied, false, 0, []⟩) with others := s.others ++ [t] }

/-- The lowest LTHREAD that a gang does not hold (R142, R361). -/
def State.nextLthread (s : State) (gang : Nat) : Nat :=
  let held := (s.gangThreads gang).map fun t => t.ident.lthread
  ((List.range (held.length + 1)).find? fun n => !held.contains n).getD 0

/-- The first FREE slot of a partition among some cores, in their order (R58). -/
def State.freeAmong (s : State) (p : Nat) (cores : List Nat) : Option (Nat × Nat) :=
  cores.findSome? fun c => (s.freeSlot p c).map fun k => (c, k)

/-- The eight cores of a trellis of the package (R54). -/
def placeCores (place : Nat) : List Nat := (List.range 8).map fun k => 8 * place + k

end Sys2Proof.Machine
end

