-- ==== Sys2Proof/Machine/Census.lean ====
section
/-! DEFINITION. Tile directories, moves of tiles, and censuses with their responders (R350 to R366). -/

namespace Sys2Proof.Machine

open Sys2Proof

/-! ## Status (R356) -/

def dirOk : Nat := 0
def dirBusy : Nat := 1
def dirRecord : Nat := 3
def dirFault : Nat := 0x12
def dirFull : Nat := 0x40
def dirDuplicate : Nat := 0x41
def dirNotFound : Nat := 0x42

/-- A status word of the group, with the cause of a FAULT (R356). -/
def dirWord (status cause : Nat) : Word := BitVec.ofNat 64 (status + cause * 2 ^ 16)

/-- a is serially less than b (R343, R354). -/
def serialLess (a b : Nat) : Bool := a ≠ b && serialGe b a

/-! ## Directories (R350 to R352) -/

/-- The trellis of the package whose cellar holds a window page of a partition, and the entry of the map (R352). -/
def State.tilePage (s : State) (p : Nat) (va : Word) : MapEntry :=
  match namedWindow va.toNat with
  | some (n, off) => s.mapEntry p n (off / 8192)
  | none => s.mapEntry p 0 0

/-- The trellis of the package of an entry's cellar. -/
def MapEntry.place (e : MapEntry) : Nat := e.pan * 128 + e.cellar

/-- The entry of a partition with a key in a directory (R350). -/
def Engine.dirFind (e : Engine) (part : Nat) (key : Word) : Option DirEntry :=
  e.dir.find? fun x => x.part = part && x.key = key

/-- The entries that a partition may hold in a directory of a Pan (R350). -/
def State.dirQuota (s : State) (pan : Nat) : Nat := 128 / max 1 (s.sharers pan)

/-- The lowest FREE entry of a directory within a partition's quota (R350, R357). -/
def State.dirFree (s : State) (place part : Nat) : Option Nat :=
  let dir := (s.engine place).dir
  if s.dirQuota (placePan place) ≤ (dir.filter fun x => x.part = part).length then none
  else (List.range 128).find? fun i => !(dir.any fun x => x.idx = i)

/-- Puts an entry in its place, in ascending order of entries. -/
def dirInsert (x : DirEntry) : List DirEntry → List DirEntry
  | [] => [x]
  | y :: ys => if x.idx < y.idx then x :: y :: ys else if x.idx = y.idx then x :: ys else y :: dirInsert x ys

/-- Replaces an entry of a directory. -/
def State.setDir (s : State) (place : Nat) (x : DirEntry) : State :=
  s.modEngine place fun e => { e with dir := dirInsert x e.dir }

/-- Makes an entry of a directory FREE. -/
def State.dropDir (s : State) (place idx : Nat) : State :=
  s.modEngine place fun e => { e with dir := e.dir.filter fun x => x.idx ≠ idx }

/-- TRCEN of a partition in a trellis (R354). -/
def Engine.trCen (e : Engine) (part : Nat) : Nat := ((e.trcen.find? fun x => x.1 = part).map Prod.snd).getD 0

/-- An entry that neither moves nor is deleted now: it is moving, or has a match not yet started (R357, R358). -/
def State.dirHeld (s : State) (place : Nat) (x : DirEntry) : Bool :=
  x.state ≠ 1 || x.pend ≠ 0 || (s.engine place).matched.any fun m => m.entry = x.idx && m.uid.isNone && m.queued

/-- The checks of `put` on a block with its tile in the named form (R352, R357). -/
def dirBlockOk (bs : List Byte) : Bool :=
  let n := fieldAt bs 0x10 4
  let resp := wordAt bs 0x18
  zeroAt bs 0x14 4 && 1 ≤ n && n ≤ 8192 && (wordAt bs 8).toNat % 8192 + n ≤ 8192 && resp.toNat % 2 = 0 &&
    isGlobal resp.toNat

/-- The fault of a page of a tile when a request is performed: 1 PAGE, 2 PROT (R352). -/
def pageCause (e : MapEntry) (write : Bool) : Option Nat :=
  if !e.valid then some 1 else if (if write then e.write else e.read) then none else some 2

/-! ## `tdir` and `tmove` (R357, R358) -/

/-- The named form of a Pan-store address that the thread at its turn uses (R204, R352). -/
def State.namedOf (s : State) (va : Word) : Option (Nat × Nat) :=
  match s.vaClass va with
  | .pan n off => some (n, off)
  | .global | .device | .none => none

/-- A window check of an address that must lie in the Pan store (R207). -/
def State.tileWindow (s : State) (va : Word) (r w : Bool) : Except TransFault Word :=
  match s.namedOf va with
  | none => .error (.prot, 0)
  | some (n, off) =>
    match s.window s.t.ident.part n off r w with
    | .error e => .error e
    | .ok _ => .ok (namedVa n off)

/-- Sends a request of the directory group to the trellis of its tile: its fill, its legs there and back (R450). -/
def State.sendDir (s : State) (kind : Nat) (d : Reg) (bs : List Byte) (dest : Word) (label dlabel : Label) : State :=
  let t := s.t
  let place := (s.tilePage t.ident.part (wordAt bs 8)).place
  let legs := routeLegs t.core (8 * place) 0
  let (fid, s) := s.newFill [d] 1 label 0 (.census 0) false false
  let s := s.modFill fid fun f => { f with legs := legs * leg 1 }
  let (id, s) := s.fresh
  let r : DirReq :=
    { id := id, uid := t.ident.uid, part := t.ident.part, gangid := t.ident.gangid, lthread := t.ident.lthread
      pan := t.ident.pan, kind := kind, block := bs, dest := dest, label := label, clabel := t.ctl.clabel
      task := t.isTask, dlabel := dlabel, fill := fid, srcAt := place, srcIdx := 0, dstAt := 0, dstIdx := 0
      landed := false, cause := 0 }
  let s := { s with census := { s.census with reqs := s.census.reqs ++ [r] } }
  let e : Instr := if kind = 2 then .tmovePerform place id else .tdirPerform place id
  (s.schedule (s.time.cycle + legs * leg 2) e).retire 4

/-- The issue of the directory group: the block, the checks of its tile, and those of a move's destination. -/
def dirIssue (kind : Nat) (d a : Reg) (b : Option Reg) (s : State) : Result :=
  let reads := a :: b.toList
  s.issue { Uses.none with dests := [d], srcs := reads.map (fun r => (r, false)), mem := true } fun s =>
    let va := s.val a
    if va.toNat % 32 ≠ 0 then .next (s.fail .align va 0 reads 0)
    else
      s.releaseWait true fun s =>
        if s.readHeld va 32 then .next (s.hold .waits)
        else match s.readVa s.t.ident.part s.t.localPan va 32 s.t.isTask with
        | .error ((c, info), addr) =>
          .next (s.fail c addr info reads (s.labelsBefore s.t.ident.part s.t.localPan va 32 addr s.t.isTask))
        | .ok (bs, l) =>
          let s := s.blockRead va 32
          let tile := wordAt bs 8
          match s.tileWindow tile true false with
          | .error (c, info) => .next (s.fail c tile info reads l)
          | .ok named =>
            let block := bs.take 8 ++ natBytes 8 named.toNat ++ bs.drop 16
            let label := s.resultLabel reads ||| l
            match b with
            | none => .next (s.sendDir kind d block 0 label 0)
            | some r =>
              match s.tileWindow (s.val r) false true with
              | .error (c, info) => .next (s.fail c (s.val r) info reads l)
              | .ok dest => .next (s.sendDir kind d block dest label (s.lbl r))

/-- `tdir.put` (R357). -/
def execTdirPut (d a : Reg) (s : State) : Result := dirIssue 0 d a none s
/-- `tdir.del` (R357). -/
def execTdirDel (d a : Reg) (s : State) : Result := dirIssue 1 d a none s
/-- `tmove` (R358). -/
def execTmove (d a b : Reg) (s : State) : Result := dirIssue 2 d a (some b) s

/-- A request ends with a status, whose fill goes back to its thread (R357, R358). -/
def State.endDir (s : State) (r : DirReq) (status cause : Nat) : State :=
  let s := { s with census := { s.census with reqs := s.census.reqs.filter fun x => x.id ≠ r.id } }
  s.deliver r.fill 0 (dirWord status cause) none 0

/-- A put or a deletion performed at its directory (R357). -/
def State.performDir (s : State) (r : DirReq) (e : MapEntry) : State :=
  let place := e.place
  let key := wordAt r.block 0
  let eng := s.engine place
  if r.kind = 0 then
    if !dirBlockOk r.block then s.endDir r dirRecord 0
    else if (eng.dirFind r.part key).isSome then s.endDir r dirDuplicate 0
    else
      match s.dirFree place r.part with
      | none => s.endDir r dirFull 0
      | some idx =>
        let x : DirEntry := ⟨idx, 1, r.part, key, wordAt r.block 8, fieldAt r.block 0x10 4, wordAt r.block 0x18,
          r.label ||| e.label, eng.trCen r.part, 0⟩
        (s.setDir place x).endDir r dirOk 0
  else
    match eng.dirFind r.part key with
    | none => s.endDir r dirNotFound 0
    | some x => if s.dirHeld place x then s.endDir r dirBusy 0 else (s.dropDir place x.idx).endDir r dirOk 0

/-- `TDIR_PERFORM`: a put or a deletion reaches its directory; a moving page holds it (R70, R352, R357). -/
def execTdirPerform (trellis req : Nat) (s : State) : Result :=
  match s.dirReq? req with
  | none => .next s
  | some r =>
    let e := s.tilePage r.part (wordAt r.block 8)
    if e.moving then .next (s.schedule (s.time.cycle + 16) (.tdirPerform trellis req))
    else
      match pageCause e false with
      | some c => .next (s.endDir r dirFault c)
      | none => .next (s.performDir r e)

/-- The copy of a move is put into Q3 of the destination's engine, as a `rackv` of its thread (R280, R358). -/
def State.startMove (s : State) (r : DirReq) (x : DirEntry) (dstAt : Nat) : State :=
  let c := { s.newCmd .tmove 3 0 (rackvBlock x.tile r.dest x.length) [] [] r.clabel r.label 0 with
    part := r.part, uid := r.uid, gang := 0, gangid := r.gangid, lthread := r.lthread, task := r.task, req := r.id }
  if s.roomFor dstAt c then (s.accept dstAt c).2.kickAll dstAt
  else
    let (n, s) := s.fresh
    s.modEngine dstAt fun e => { e with waits := e.waits ++ [⟨c, none, n⟩] }

/-- A move performed at the directories of its tile and of its destination (R358). -/
def State.performMove (s : State) (r : DirReq) (es ed : MapEntry) : State :=
  let src := es.place
  let dst := ed.place
  let key := wordAt r.block 0
  match (s.engine src).dirFind r.part key with
  | none => s.endDir r dirNotFound 0
  | some x =>
    let s := s.modFill r.fill fun f => { f with label := f.label ||| x.label }
    if s.dirHeld src x then s.endDir r dirBusy 0
    else if 8192 < r.dest.toNat % 8192 + x.length then s.endDir r dirRecord 0
    else if ((s.engine dst).dirFind r.part key).isSome then s.endDir r dirDuplicate 0
    else
      match s.dirFree dst r.part with
      | none => s.endDir r dirFull 0
      | some idx =>
        let t := (s.engine src).trCen r.part
        let s := s.setDir dst { x with idx := idx, state := 3, tile := r.dest }
        let s := s.setDir src { x with state := 2 }
        let s := { s with census := { s.census with moves := s.census.moves ++ [(r.part, r.id, t)] } }
        let s := s.modReq r.id fun r => { r with srcAt := src, srcIdx := x.idx, dstAt := dst, dstIdx := idx }
        s.startMove r x dst

/-- `TMOVE_PERFORM`: a move reaches the directory of its tile; moving pages hold it (R70, R352, R358). -/
def execTmovePerform (trellis req : Nat) (s : State) : Result :=
  match s.dirReq? req with
  | none => .next s
  | some r =>
    let es := s.tilePage r.part (wordAt r.block 8)
    let ed := s.tilePage r.part r.dest
    if !dirBlockOk r.block then .next (s.endDir r dirRecord 0)
    else if es.moving || ed.moving then .next (s.schedule (s.time.cycle + 16) (.tmovePerform trellis req))
    else
      match pageCause es false, pageCause ed true with
      | some c, _ => .next (s.endDir r dirFault c)
      | none, some c => .next (s.endDir r dirFault c)
      | none, none => .next (s.performMove r es ed)

/-! ## Starting responders (R359 to R361) -/

/-- A census at the root by its number. -/
def State.cen? (s : State) (id : Nat) : Option Census := s.census.asked.find? fun c => c.id = id

/-- The census id that software sees (R354). -/
def Census.word (c : Census) : Nat := c.cseq + c.slot * 2 ^ 32

/-- An entry's key matches a census (R359). -/
def Census.hits (c : Census) (x : DirEntry) : Bool := x.key &&& c.mask == c.key &&& c.mask

/-- The responder gang of a partition in a trellis, made with its first responder (R361). -/
def State.responderGang (s : State) (place part : Nat) : Nat × State :=
  match s.gangs.find? fun g => g.responder && g.part = part && g.num = BitVec.ofNat 64 place && g.folded.isNone with
  | some g => (g.gid, s)
  | none =>
    let (gid, s) := s.fresh
    let g : Gang :=
      { gid := gid, part := part, pan := placePan place, num := BitVec.ofNat 64 place, seq := 0, image := 0, vlanes := 0
        nbars := 0, trapvec := none, livemask := 0xFFFFFFFE, patches := [], plabel := 0, js := 0, size := 0
        affinity := 0, placed := s.time.cycle, handler := none, policy0 := false, killed := none, responder := true
        bars := [], perf := List.replicate 8 0, folding := false, forced := false, folded := none, cmds := [] }
    (gid, { s with gangs := s.gangs ++ [g] })

/-- A responder starts in a slot for a match (R361). -/
def State.startResponder (s : State) (place : Nat) (m : Match) (x : DirEntry) (c : Census) (core slot : Nat) : State :=
  let (gid, s) := s.responderGang place m.part
  let own := partLabel m.part
  let l := x.label ||| c.label
  let vals : List Word := [x.tile, BitVec.ofNat 64 x.length, x.key, BitVec.ofNat 64 c.word]
  let regs := startRegs vals own
  let regs := Vector.ofFn fun (r : Fin 32) => if 1 ≤ r.val && r.val ≤ 4 then { regs[r] with label := l } else regs[r]
  let js := c.js ^^^ x.key
  let b : Beginning := ⟨x.resppc, regs, l, 0xFFFFFFFE, s.defTrapvec m.part, seedOf js c.word, own⟩
  let uid := s.time.next
  let s := s.startThread b ⟨0, m.part, gid, BitVec.ofNat 64 place, s.nextLthread gid, 0, 0, 0, 0, js, 0, c.word, false⟩ core slot
  s.modEngine place fun e => { e with matched := e.matched.map fun (y : Match) =>
    if y.id = m.id then { y with uid := some uid, queued := false } else y }

/-- The bit of a census slot in PEND. -/
def clearPend (x : DirEntry) (slot : Nat) : DirEntry :=
  if x.pend.testBit slot then { x with pend := x.pend - 2 ^ slot } else x

/-- An entry matched by a census: LASTCEN, and its responder started, queued or pending (R359, R360). -/
def State.matchEntry (s : State) (place : Nat) (x : DirEntry) (c : Census) (move : Nat) : State :=
  let x := { x with lastcen := c.cseq }
  let s := s.setDir place x
  let (id, s) := s.fresh
  let full := 16 ≤ ((s.engine place).matched.filter fun m => m.queued).length
  match s.freeAmong c.part (placeCores place) with
  | some (core, slot) =>
    let m : Match := ⟨id, c.id, c.part, x.idx, none, false, move⟩
    let s := s.modEngine place fun e => { e with matched := e.matched ++ [m] }
    s.startResponder place m x c core slot
  | none =>
    let s := s.modEngine place fun e => { e with matched := e.matched ++ [⟨id, c.id, c.part, x.idx, none, !full, move⟩] }
    if full then s.setDir place { x with pend := x.pend ||| 2 ^ c.slot } else s

/-- The match that a freed slot of a partition goes to: the oldest in the queue, else the lowest entry with a PEND bit, its
lowest bit first (R360). -/
def State.nextMatch (s : State) (place part : Nat) : Option (Match × DirEntry × Census) :=
  let e := s.engine place
  let full (m : Match) : Option (Match × DirEntry × Census) :=
    match e.dir.find? fun x => x.idx = m.entry, s.cen? m.census with
    | some x, some c => some (m, x, c)
    | _, _ => none
  let mine := e.matched.filter fun m => m.part = part && m.uid.isNone
  match (mine.filter fun m => m.queued).filterMap full with
  | m :: _ => some m
  | [] =>
    ((mine.filter fun m => !m.queued).filterMap full).foldl (fun (best : Option (Match × DirEntry × Census)) m =>
      match best with
      | none => some m
      | some b =>
        if m.2.1.idx < b.2.1.idx || (m.2.1.idx = b.2.1.idx && m.2.2.slot < b.2.2.slot) then some m else some b) none

/-- Starts waiting responders of a partition while slots are FREE. -/
def State.startWaiting (s : State) (place part : Nat) : Nat → State
  | 0 => s
  | n + 1 =>
    match s.nextMatch place part, s.freeAmong part (placeCores place) with
    | some (m, x, c), some (core, slot) =>
      let y := if m.queued then x else clearPend x c.slot
      ((s.setDir place y).startResponder place m y c core slot).startWaiting place part n
    | _, _ => s

/-- `RESPONDER_START`: a slot has become FREE in a trellis: it goes to the matches that wait there (R360). -/
def execResponderStart (trellis : Nat) (s : State) : Result :=
  .next (s.parts.foldl (fun (s : State) p => s.startWaiting trellis p.num 128) s)

/-! ## Censuses at the root and in the trellises (R359, R362 to R364) -/

/-- Two answers combined by an operation: 0 sum, 1 min, 2 max, 3 or, 4 count (R364). -/
def combine (op : Nat) (x y : Word) : Word :=
  match op with
  | 0 => x + y
  | 1 => aluMin x y
  | 2 => aluMax x y
  | 3 => x ||| y
  | _ => 0

/-- The value of an operation with no answer (R364). -/
def noAnswer (op : Nat) : Word :=
  match op with
  | 1 => 0x7FFFFFFFFFFFFFFF
  | 2 => 0x8000000000000000
  | _ => 0

/-- Changes a census at the root. -/
def State.modCen (s : State) (id : Nat) (f : Census → Census) : State :=
  { s with census := { s.census with asked := s.census.asked.map fun c => if c.id = id then f c else c } }

/-- The next CSEQ of a partition (R354). -/
def State.nextCseq (s : State) (part : Nat) : Nat := ((s.census.next.find? fun x => x.1 = part).map Prod.snd).getD 1

/-- Every Pan has reported, and no outstanding move holds a census (R355). -/
def State.censusDone (s : State) (c : Census) : Bool :=
  c.cseq ≠ 0 && c.pans = 0 && !(s.census.moves.any fun m => m.1 = c.part && serialLess m.2.2 c.cseq)

/-- The censuses of a partition that are complete are answered (R355, R364). -/
def State.completeCensuses (s : State) (part : Nat) : State :=
  (s.census.asked.filter fun c => c.part = part && s.censusDone c).foldl (fun (s : State) c =>
    s.push (.censusComplete part c.id)) s

/-- A census takes its CSEQ and a slot, and its broadcast goes to every trellis of the partition (R353, R354, R359). -/
def State.startCensus (s : State) (c : Census) (slot : Nat) : State :=
  let cseq := s.nextCseq c.part
  let mask := match s.part? c.part with
    | some p => p.own.panmask
    | none => 0
  let s := { s with census := { s.census with
    next := (c.part, serialNext cseq) :: s.census.next.filter fun x => x.1 ≠ c.part } }
  let s := s.modCen c.id fun c => { c with cseq := cseq, slot := slot, pans := mask }
  let due := s.time.cycle + 48
  let s := (bitsOf 8 mask).foldl (fun (s : State) n =>
    (List.range 128).foldl (fun (s : State) t => s.schedule due (.censusBroadcast (128 * n + t) c.id)) s) s
  s.completeCensuses c.part

/-- The censuses that wait at the root take slots while there are any, in the order they came (R354, R359). -/
def State.takeSlots (s : State) (part : Nat) : Nat → State
  | 0 => s
  | n + 1 =>
    let used := (s.census.asked.filter fun c => c.part = part && c.cseq ≠ 0).map Census.slot
    match s.census.asked.find? fun c => c.part = part && c.sent && c.cseq = 0, (List.range 8).find? fun k => !used.contains k with
    | some c, some slot => (s.startCensus c slot).takeSlots part n
    | _, _ => s

/-- `CENSUS_REQUEST`: a `solicit` reaches the root (R359). -/
def execCensusRequest (req : Nat) (s : State) : Result :=
  match s.cen? req with
  | none => .next s
  | some c => .next ((s.modCen req fun c => { c with sent := true }).takeSlots c.part 8)

/-- `CENSUS_BROADCAST`: a trellis processes a broadcast in one step, after the landings of its cycle (R359; `duePhase`). -/
def execCensusBroadcast (trellis census : Nat) (s : State) : Result :=
  match s.cen? census with
  | none => .next s
  | some c =>
    let hits := (s.engine trellis).dir.filter fun x =>
      x.part = c.part && x.state = 1 && c.hits x && serialLess x.lastcen c.cseq
    let labels := hits.foldl (fun (l : Label) x => l ||| x.label) 0
    let tc : TrellisCensus := ⟨c.id, c.part, c.cseq, c.slot, c.key, c.mask, c.op, c.label, c.js, noAnswer c.op, 0, labels, false⟩
    let s := s.modEngine trellis fun e => { e with
      trcen := (c.part, c.cseq) :: e.trcen.filter fun x => x.1 ≠ c.part
      census := if hits.isEmpty then e.census else e.census ++ [tc] }
    if hits.isEmpty then .next (s.schedule (s.time.cycle + 8) (.trellisReport trellis census))
    else .next (hits.foldl (fun (s : State) x => s.matchEntry trellis x c 0) s)

/-- A match has answered, or its responder has quit without an answer: what it gave is combined in its trellis, and a census
or a landing with no more matches reports, the message of an `answer` taking 4 cycles (R353, R362, R363). -/
def State.endMatch (s : State) (place : Nat) (m : Match) (answer : Option Word) (label : Label) : State :=
  let op := match s.cen? m.census with
    | some c => c.op
    | none => 0
  let n := if answer.isSome then 1 else 0
  let join (x : Word) : Word := match answer with
    | some v => combine op x v
    | none => x
  let ans (t : TrellisCensus) : TrellisCensus :=
    if m.move = 0 && t.id = m.census then
      { t with value := join t.value, count := t.count + n, ansLabel := t.ansLabel ||| label } else t
  let late (x : LateAnswer) : LateAnswer :=
    if m.move ≠ 0 && x.move = m.move && x.census = m.census then
      { x with value := join x.value, count := x.count + n, label := x.label ||| label } else x
  let s := s.modEngine place fun e => { e with
    matched := e.matched.filter fun y => y.id ≠ m.id, census := e.census.map ans, late := e.late.map late }
  let open_ := (s.engine place).matched.any fun y =>
    if m.move = 0 then y.move = 0 && y.census = m.census else y.move = m.move
  if open_ then s
  else if m.move = 0 then s.schedule (s.time.cycle + 12) (.trellisReport place m.census)
  else s.schedule (s.time.cycle + 52) (.landingNotice m.part m.move)

/-- `TRELLIS_REPORT`: a trellis's report reaches its Pan node, which reports once all 128 have (R353, R362, R364). -/
def execTrellisReport (trellis census : Nat) (s : State) : Result :=
  match s.cen? census with
  | none => .next s
  | some c =>
    let pan := placePan trellis
    let node : PanNode :=
      (s.census.nodes.find? fun x => x.pan = pan && x.census = census).getD ⟨pan, census, noAnswer c.op, 0, 0, 0⟩
    let node : PanNode := match (s.engine trellis).census.find? fun x => x.id = census with
      | some t => { node with value := combine c.op node.value t.value, count := node.count + t.count
                              label := node.label ||| t.ansLabel, reports := node.reports + 1 }
      | none => { node with reports := node.reports + 1 }
    let s := s.modEngine trellis fun e => { e with census := e.census.filter fun x => x.id ≠ census }
    let rest := s.census.nodes.filter fun x => !(x.pan = pan && x.census = census)
    let s := { s with census := { s.census with nodes := node :: rest } }
    .next (if node.reports = 128 then s.schedule (s.time.cycle + 40) (.panNodeReport pan census) else s)

/-- `PAN_NODE_REPORT`: a Pan's report reaches the root (R355, R364). -/
def execPanNodeReport (pan census : Nat) (s : State) : Result :=
  match s.cen? census, s.census.nodes.find? fun x => x.pan = pan && x.census = census with
  | some c, some n =>
    let s := { s with census := { s.census with
      nodes := s.census.nodes.filter fun x => !(x.pan = pan && x.census = census) } }
    let s := s.modCen census fun c => { c with
      value := combine c.op c.value n.value, count := c.count + n.count, ansLabel := c.ansLabel ||| n.label
      pans := if c.pans.testBit pan then c.pans - 2 ^ pan else c.pans }
    .next (s.completeCensuses c.part)
  | _, _ => .next s

/-- `LANDING_NOTICE`: the late answers of a landing and then its notice reach the root (R363). -/
def execLandingNotice (part move : Nat) (s : State) : Result :=
  let late := s.engines.flatMap fun e => e.late.filter fun x => x.move = move
  let join (c : Census) : Census := (late.filter fun x => x.census = c.id).foldl (fun (c : Census) x =>
    { c with value := combine c.op c.value x.value, count := c.count + x.count, ansLabel := c.ansLabel ||| x.label }) c
  let clear (e : Engine) : Engine := { e with late := e.late.filter fun x => x.move ≠ move }
  let s := { s with
    engines := s.engines.map clear
    census := { s.census with
      asked := s.census.asked.map join
      moves := s.census.moves.filter fun m => m.2.1 ≠ move } }
  .next (s.completeCensuses part)

/-- `CENSUS_COMPLETE`: the root sends the result, which fills d and d + 1 48 cycles later, with the causal past of the answers, and
frees the slot (R364, R365). -/
def execCensusComplete (part census : Nat) (s : State) : Result :=
  match s.cen? census with
  | none => .next s
  | some c =>
    if !s.censusDone c then .next s
    else
      let value := if c.op = 4 then BitVec.ofNat 64 c.count else c.value
      let s := { s with census := { s.census with asked := s.census.asked.filter fun x => x.id ≠ census } }
      let s := (s.modThread c.uid (Thread.joinPast c.clock)).modFill c.fill fun f => { f with label := f.label ||| c.ansLabel }
      let s := (s.deliver c.fill 0 value none 48).deliver c.fill 1 (BitVec.ofNat 64 c.count) none 48
      .next (s.takeSlots part 8)

/-! ## Landing (R363) -/

/-- An entry lands in a trellis: a late match for every census in flight that has passed there without meeting the entry, and
the entry becomes VALID (R363). -/
def State.land (s : State) (place : Nat) (x : DirEntry) (move : Nat) : State :=
  let tr := (s.engine place).trCen x.part
  let passed := s.census.asked.filter fun c =>
    c.part = x.part && c.cseq ≠ 0 && serialLess x.lastcen c.cseq && serialGe tr c.cseq && c.hits x
  let s := s.setDir place { x with state := 1 }
  let s := passed.foldl (fun (s : State) c =>
    let s := s.modEngine place fun e => { e with
      late := e.late ++ [(⟨move, c.id, noAnswer c.op, 0, x.label⟩ : LateAnswer)] }
    match (s.engine place).dir.find? fun y => y.idx = x.idx with
    | some y => s.matchEntry place y c move
    | none => s) s
  if passed.isEmpty then s.schedule (s.time.cycle + 48) (.landingNotice x.part move) else s

/-- `ENTRY_LANDING`: the entry of a move lands at its destination, or back at its source after a fault (R358, R363). -/
def execEntryLanding (trellis req : Nat) (s : State) : Result :=
  match s.dirReq? req with
  | none => .next s
  | some r =>
    match (s.engine r.srcAt).dir.find? fun x => x.idx = r.srcIdx with
    | none => .next s
    | some x =>
      if r.landed then
        let page := s.tilePage r.part r.dest
        let y := { x with idx := r.dstIdx, tile := r.dest, label := x.label ||| r.dlabel ||| page.label, pend := 0 }
        .next (((s.dropDir r.srcAt r.srcIdx).land trellis y r.id).endDir r dirOk 0)
      else .next (((s.dropDir r.dstAt r.dstIdx).land trellis x r.id).endDir r dirFault r.cause)

/-! ## `solicit`, `answer` and `cwait` (R359, R362, R365) -/

/-- `solicit` of an operation: the request goes to the root (R359). -/
def solicit (op : Nat) (d a b : Reg) (s : State) : Result :=
  let r2 := nextReg d
  s.issue { Uses.none with dests := [d, r2], srcs := [(a, false), (b, false)] } fun s =>
    if s.t.ident.census ≠ 0 then .next (s.fail .census 0 2 [a, b] 0)
    else
      let t := s.t
      let l := s.resultLabel [a, b]
      let key := s.val a
      let mask := s.val b
      let (id, s) := s.fresh
      let (fid, s) := s.newFill [d, r2] 2 l 0 (.census id) false false
      let c : Census :=
        { id := id, part := t.ident.part, cseq := 0, slot := 0, key := key, mask := mask, op := op, uid := t.ident.uid
          fill := fid, js := t.ident.js, label := l, value := noAnswer op, count := 0, ansLabel := 0, pans := 0, sent := false
          clock := List.replicate 16 0 }
      let s := { s with census := { s.census with asked := s.census.asked ++ [c] } }
      .next ((s.schedule (s.time.cycle + 48) (.censusRequest id)).retire 4)

/-- `solicit.sum` (R359). -/
def execSolicitSum (d a b : Reg) (s : State) : Result := solicit 0 d a b s
/-- `solicit.min` (R359). -/
def execSolicitMin (d a b : Reg) (s : State) : Result := solicit 1 d a b s
/-- `solicit.max` (R359). -/
def execSolicitMax (d a b : Reg) (s : State) : Result := solicit 2 d a b s
/-- `solicit.or` (R359). -/
def execSolicitOr (d a b : Reg) (s : State) : Result := solicit 3 d a b s
/-- `solicit.count` (R359). -/
def execSolicitCount (d a b : Reg) (s : State) : Result := solicit 4 d a b s

/-- The match that a thread responds to, with its trellis. -/
def State.matchOf (s : State) (uid : Nat) : Option (Nat × Match) :=
  s.engines.findSome? fun e => (e.matched.find? fun m => m.uid = some uid).map fun m => (e.place, m)

/-- `answer`: a responder gives its contribution once (R362). -/
def execAnswer (a : Reg) (s : State) : Result :=
  s.issue { Uses.none with srcs := [(a, false)] } fun s =>
    if s.t.ident.census = 0 then .next (s.fail .census 0 0 [a] 0)
    else if s.t.ident.answered then .next (s.fail .census 0 1 [a] 0)
    else
      s.releaseWait true fun s =>
        let v := s.val a
        let l := s.resultLabel [a]
        let m := s.matchOf s.t.ident.uid
        let s := { s with t := { s.t with ident := { s.t.ident with answered := true } } }.retire 4
        match m with
        | some (place, m) =>
          let past := s.t.ctl.vclock
          .next ((s.modCen m.census fun c => { c with clock := joinClock c.clock past }).endMatch place m (some v) l)
        | none => .next s

/-- A responder that ends without an answer gives an empty one, with its CLABEL (R362). -/
def State.emptyAnswer (s : State) (t : Thread) : State :=
  if t.ident.census = 0 || t.ident.answered then s
  else
    match s.matchOf t.ident.uid with
    | some (place, m) => s.endMatch place m none t.ctl.clabel
    | none => s

/-- The census results that a thread still awaits (R365). -/
def State.censusFills (s : State) (uid : Nat) : List Fill :=
  s.fab.fills.filter fun f => f.uid = uid && (match f.kind with
    | .census id => id ≠ 0
    | .plain | .nest _ _ | .claim | .vector _ _ _ | .reply | .phase _ _ | .ticket _ _ _ | .partRead _ | .partWrite _ _
    | .fork _ _ _ _ | .join _ _ _ _ => false)

/-- `cwait`: out of rotation until the last result of a census of the thread has arrived; its count carries the labels of the
results, which CLABEL joins (R365). -/
def execCwait (d : Reg) (s : State) : Result :=
  s.issue { Uses.none with dests := [d] } fun s =>
    let left := min 8 (s.censusFills s.t.ident.uid).length
    let (n, l) := match s.t.prog with
      | .results _ n l => (n, l)
      | .fresh | .counting _ | .asked _ | .answered _ _ | .stage _ _ _ | .waits | .discards _ => (left, 0)
    if 0 < left then .next (s.leave .reply (.results d n l))
    else
      let s := s.joinClabel l
      .next ((s.write d (BitVec.ofNat 64 n) (s.resultLabel [] ||| l)).retire 4)

end Sys2Proof.Machine
end

