-- ==== Sys2Proof/Machine/Control.lean ====
section
/-! DEFINITION. Branches and jumps, and the instructions that take a trap or return from one (R128, R129, R390, R391). -/

namespace Sys2Proof.Machine

open Sys2Proof

/-- A branch: CLABEL joins both labels, taken or not; the PC moves to the target or on (R128). -/
def branch (taken : Word → Word → Bool) (a b : Reg) (imm : BitVec 12) (s : State) : Result :=
  s.issue { Uses.none with srcs := [(a, false), (b, false)] } fun s =>
    let target := s.t.pc + (imm.signExtend 64) * 2
    let t := taken (s.val a) (s.val b)
    let s := s.joinClabel (s.lbl a ||| s.lbl b)
    .next (if t then s.jump target else s.retire 4)

/-- `beq`: branches if a equals b, joining labels to CLABEL (R128). -/
def execBeq (a b : Reg) (imm : BitVec 12) (s : State) : Result :=
  branch (fun x y => x == y) a b imm s

/-- `bne`: branches if a differs from b (R128). -/
def execBne (a b : Reg) (imm : BitVec 12) (s : State) : Result :=
  branch (fun x y => x != y) a b imm s

/-- `blt`: branches if a is signed less than b (R128). -/
def execBlt (a b : Reg) (imm : BitVec 12) (s : State) : Result :=
  branch (fun x y => x.slt y) a b imm s

/-- `bge`: branches if a is signed at least b (R128). -/
def execBge (a b : Reg) (imm : BitVec 12) (s : State) : Result :=
  branch (fun x y => !x.slt y) a b imm s

/-- `bltu`: branches if a is unsigned less than b (R128). -/
def execBltu (a b : Reg) (imm : BitVec 12) (s : State) : Result :=
  branch (fun x y => x.ult y) a b imm s

/-- `bgeu`: branches if a is unsigned at least b (R128). -/
def execBgeu (a b : Reg) (imm : BitVec 12) (s : State) : Result :=
  branch (fun x y => !x.ult y) a b imm s

/-- `jal`: writes the link and jumps PC-relative (R129). -/
def execJal (d : Reg) (imm : BitVec 20) (s : State) : Result :=
  s.issue { Uses.none with dests := [d] } fun s =>
    .next ((s.write d (s.t.pc + 4) (s.resultLabel [])).jump (s.t.pc + (imm.signExtend 64) * 2))

/-- `jalr`: writes the link and jumps to a register plus offset (R129). -/
def execJalr (d a : Reg) (imm : BitVec 14) (ta : Bool) (s : State) : Result :=
  s.issue { Uses.none with dests := [d], srcs := [(a, ta)] } fun s =>
    let target := s.val a + imm.signExtend 64
    if fieldOf target 0 1 = 1 then .next (s.fail .align target 0 [a] 0)
    else
      let s := s.joinClabel (s.lbl a)
      .next ((s.write d (s.t.pc + 4) (s.resultLabel [])).jump target)

/-- `trap`: takes BREAK with TRAPINFO n (R390). -/
def execTrap (n : BitVec 12) (s : State) : Result :=
  .next (s.takeTrap .break (s.t.pc + 4) 0 (n.setWidth 64) 0)

/-- `sys`: takes SYSCALL with TRAPINFO n (R390). -/
def execSys (n : BitVec 12) (s : State) : Result :=
  .next (s.takeTrap .syscall (s.t.pc + 4) 0 (n.setWidth 64) 0)

/-- `eret`: returns from a handler to TRAPPC in the mode of TRAPCODE.PMODE (R391). -/
def execEret (s : State) : Result :=
  let word := BitVec.ofNat 64 (encode .eret)
  s.issue { Uses.none with word := word, priv := true } fun s => .next (s.returnFromTrap word)

end Sys2Proof.Machine
end

