-- ==== Sys2Proof/Machine/Fp.lean ====
section
/-! DEFINITION. The scalar floating-point instructions, `cvt`, `rnd`, `rseed`, and the compact scalar forms (R126, R166 to R172). -/

namespace Sys2Proof.Machine

open Sys2Proof

/-- `fadd`: adds two floating values, rounding once by STATUS.RM (R167). -/
def execFadd (d a b : Reg) (f : FpFmt) (ta tb : Bool) (s : State) : Result :=
  fpArith (fun rm z s => fAdd (floatOf f) rm z (s.fval f a) (s.fval f b))
    [d] [(a, ta), (b, tb)] d 4 s

/-- `fsub`: subtracts two floating values, rounding once (R167). -/
def execFsub (d a b : Reg) (f : FpFmt) (ta tb : Bool) (s : State) : Result :=
  fpArith (fun rm z s => fAdd (floatOf f) rm z (s.fval f a) (negF (s.fval f b)))
    [d] [(a, ta), (b, tb)] d 4 s

/-- `fmul`: multiplies two floating values, rounding once (R167). -/
def execFmul (d a b : Reg) (f : FpFmt) (ta tb : Bool) (s : State) : Result :=
  fpArith (fun rm z s => fMul (floatOf f) rm z (s.fval f a) (s.fval f b))
    [d] [(a, ta), (b, tb)] d 4 s

/-- `fdiv`: divides two floating values, rounding once (R167). -/
def execFdiv (d a b : Reg) (f : FpFmt) (ta tb : Bool) (s : State) : Result :=
  fpArith (fun rm z s => fDiv (floatOf f) rm z (s.fval f a) (s.fval f b))
    [d] [(a, ta), (b, tb)] d 4 s

/-- `fma`: computes a × b + d with one rounding (R167). -/
def execFma (d a b : Reg) (f : FpFmt) (ta tb : Bool) (s : State) : Result :=
  fpArith (fun rm z s => fFma (floatOf f) rm z (s.fval f a) (s.fval f b) (s.fval f d))
    [d] [(a, ta), (b, tb), (d, false)] d 4 s

/-- `fsqrt`: takes the square root, rounding once (R167). -/
def execFsqrt (d a : Reg) (f : FpFmt) (ta _tb : Bool) (s : State) : Result :=
  fpArith (fun rm z s => fSqrt (floatOf f) rm z (s.fval f a)) [d] [(a, ta)] d 4 s

/-- `fmin`: returns the lesser floating operand (R168). -/
def execFmin (d a b : Reg) (f : FpFmt) (ta tb : Bool) (s : State) : Result :=
  fpMinMax true f d a b ta tb s

/-- `fmax`: returns the greater floating operand (R168). -/
def execFmax (d a b : Reg) (f : FpFmt) (ta tb : Bool) (s : State) : Result :=
  fpMinMax false f d a b ta tb s

/-- `fcmp.eq`: writes 1 if the floating operands are equal (R168). -/
def execFcmpEq (d a b : Reg) (f : FpFmt) (ta tb : Bool) (s : State) : Result :=
  fpCompare .eq f d a b ta tb s

/-- `fcmp.lt`: writes 1 if a is less than b (R168). -/
def execFcmpLt (d a b : Reg) (f : FpFmt) (ta tb : Bool) (s : State) : Result :=
  fpCompare .lt f d a b ta tb s

/-- `fcmp.le`: writes 1 if a is less than or equal to b (R168). -/
def execFcmpLe (d a b : Reg) (f : FpFmt) (ta tb : Bool) (s : State) : Result :=
  fpCompare .le f d a b ta tb s

/-- `fclass`: writes a one-hot class mask of the floating value (R168). -/
def execFclass (d a : Reg) (f : FpFmt) (ta _tb : Bool) (s : State) : Result :=
  fpPlain (fun s => (BitVec.ofNat 64 (fClass (floatOf f) (s.val a).toNat), 0)) [(a, ta)] d s

/-- `rnd`: rounds a floating value to an integral value in a given mode (R169). -/
def execRnd (d a : Reg) (f : FpFmt) (rm : Rm) (ta _tb : Bool) (s : State) : Result :=
  s.issue { Uses.none with dests := [d], srcs := [(a, ta)] } fun s =>
    let r := fRnd (floatOf f) rm s.t.nextDraw (s.val a).toNat
    .next (s.finishFp d (BitVec.ofNat 64 r.1) r.2 (drawsOf rm) (s.resultLabel [a] ||| s.t.seedLabelFor rm) [a] 4)

/-- `rseed`: reseeds the stochastic-rounding generator and returns the old state (R170). -/
def execRseed (d a : Reg) (ta _tb : Bool) (s : State) : Result :=
  s.issue { Uses.none with dests := [d], srcs := [(a, ta)] } fun s =>
    let old := s.t.ctl.seed
    let t := s.val a ^^^ (BitVec.ofNat 64 s.t.ident.lthread * goldenMul)
    let l := s.resultLabel [a] ||| s.t.ctl.seedLabel
    let s := { s with t := { s.t with ctl := { s.t.ctl with
      seed := if t = 0 then 1 else t, seedLabel := s.lbl a ||| s.t.ctl.clabel } } }
    .next ((s.write d old l).retire 4)

/-- The rounding mode that a `cvt` uses (R94). -/
def cvtMode (r : CvtRound) (t : Thread) : Rm :=
  match r with
  | .status => t.rm
  | .fixed m => m

/-- `cvt`: converts one value between format codes with a selected rounding (R171). -/
def execCvt (d a : Reg) (rnd : CvtRound) (dst src : Fmt) (ta _tb : Bool) (s : State) : Result :=
  s.issue { Uses.none with dests := [d], srcs := [(a, ta)] } fun s =>
    let rm := cvtMode rnd s.t
    let r := cvtValue src dst rm s.t.nextDraw (xorshift s.t.nextDraw) (s.val a).toNat
    let n := if rm = .sr then cvtDraws src else 0
    .next (s.finishFp d r.1 r.2 n (s.resultLabel [a] ||| s.t.seedLabelFor rm) [a] 4)

/-- `c.add`: compact add d := d + s (R126). -/
def execCAdd (d r : Reg) (s : State) : Result :=
  aluC (· + ·) d r s

/-- `c.sub`: compact subtract (R126). -/
def execCSub (d r : Reg) (s : State) : Result :=
  aluC (· - ·) d r s

/-- `c.and`: compact AND (R126). -/
def execCAnd (d r : Reg) (s : State) : Result :=
  aluC (· &&& ·) d r s

/-- `c.or`: compact OR (R126). -/
def execCOr (d r : Reg) (s : State) : Result :=
  aluC (· ||| ·) d r s

/-- `c.xor`: compact XOR (R126). -/
def execCXor (d r : Reg) (s : State) : Result :=
  aluC (· ^^^ ·) d r s

/-- `c.sll`: compact shift left (R126). -/
def execCSll (d r : Reg) (s : State) : Result :=
  aluC aluSll d r s

/-- `c.srl`: compact logical shift right (R126). -/
def execCSrl (d r : Reg) (s : State) : Result :=
  aluC aluSrl d r s

/-- `c.sra`: compact arithmetic shift right (R126). -/
def execCSra (d r : Reg) (s : State) : Result :=
  aluC aluSra d r s

/-- `c.mul`: compact multiply (R126). -/
def execCMul (d r : Reg) (s : State) : Result :=
  aluC (· * ·) d r s

/-- `c.min`: compact signed minimum (R126). -/
def execCMin (d r : Reg) (s : State) : Result :=
  aluC aluMin d r s

/-- `c.max`: compact signed maximum (R126). -/
def execCMax (d r : Reg) (s : State) : Result :=
  aluC aluMax d r s

/-- `mv`: compact move d := s (R126). -/
def execMv (d r : Reg) (s : State) : Result :=
  s.issue { Uses.none with dests := [d], srcs := [(r, false)] } fun s =>
    .next ((s.write d (s.val r) (s.resultLabel [r])).retire 2)

/-- `c.addi`: compact add of a 5-bit signed immediate (R126). -/
def execCAddi (d : Reg) (imm : BitVec 5) (s : State) : Result :=
  s.issue { Uses.none with dests := [d], srcs := [(d, false)] } fun s =>
    .next ((s.write d (s.val d + imm.signExtend 64) (s.resultLabel [d])).retire 2)

/-- `c.cmac`: compact complex accumulate of s and s+1 into d, d+1 (R126). -/
def execCCmac (d r : Reg) (s : State) : Result :=
  cplx true false d r (nextReg r) false false 2 s

/-- `c.fadd`: compact FP32 add (R126). -/
def execCFadd (d r : Reg) (s : State) : Result :=
  fpArith (fun rm z s => fAdd fmtFp32 rm z (s.fval .fp32 d) (s.fval .fp32 r))
    [d] [(d, false), (r, false)] d 2 s

/-- `c.fmul`: compact FP32 multiply (R126). -/
def execCFmul (d r : Reg) (s : State) : Result :=
  fpArith (fun rm z s => fMul fmtFp32 rm z (s.fval .fp32 d) (s.fval .fp32 r))
    [d] [(d, false), (r, false)] d 2 s

end Sys2Proof.Machine
end

