-- ==== Sys2Proof/Machine/Save.lean ====
section
/-! DEFINITION. Stopping threads, saving contexts and gangs, and restoring them (R64, R65, R182, R281, R302, R386, R394 to
R397). -/

namespace Sys2Proof.Machine

open Sys2Proof

/-! ## Abandoning a wait (R386, R394) -/

/-- Registers that an abandoned instruction had marked empty are full again. -/
def Thread.refill (t : Thread) (rs : List Reg) : Thread :=
  rs.foldl (fun (t : Thread) r => t.setReg r { t.reg r with full := true }) t

/-- The count that `cwait` keeps over its wait, and a `tlbinv` in progress, which completes (R394); any other progress is
forgotten when an instruction re-executes. -/
def Thread.keptProg (t : Thread) : Progress :=
  match t.prog with
  | .results d n l => .results d n l
  | .discards d => .discards d
  | .fresh | .counting _ | .asked _ | .answered _ _ | .stage _ _ _ | .waits => .fresh

/-- The instruction in progress completes before its thread's context is saved: a `tlbinv` (R259, R394). -/
def Progress.completes (p : Progress) : Bool :=
  match p with
  | .discards _ => true
  | .fresh | .counting _ | .asked _ | .answered _ _ | .stage _ _ _ | .results _ _ _ | .waits => false

/-- Drops results of a thread that a test picks, their accesses with them, and makes their registers full again. -/
def State.dropWait (s : State) (uid : Nat) (pick : Fill → Bool) : State :=
  let gone := s.fab.fills.filter fun f => f.uid = uid && pick f
  let mine (a : Acc) : Bool := match a.fill with
    | some f => gone.any fun x => x.id = f
    | none => false
  let accs := (s.fab.accs.filter mine).map Acc.id
  let s := { s with fab := { s.fab with
    fills := s.fab.fills.filter fun f => !(f.uid = uid && pick f)
    accs := s.fab.accs.filter fun a => !mine a
    waiters := s.fab.waiters.filter fun w => !accs.contains w.acc
    banks := s.fab.banks.map fun (b : Bank) => { b with queue := b.queue.filter fun a => !accs.contains a } } }
  s.modThread uid fun t => t.refill (gone.flatMap Fill.regs)

/-- A wait of a thread that can be abandoned ends without effect, with the PC at its instruction; false where the thread awaits
something already sent, which completes (R386, R394). -/
def State.abandonWait (s : State) (uid : Nat) : Bool × State :=
  match s.thread uid with
  | none => (false, s)
  | some t =>
    let listed (f : Fill) : Bool := s.fab.waiters.any fun w => match s.acc? w.acc with
      | some a => a.fill = some f.id
      | none => false
    let barrier (f : Fill) : Bool := s.fab.bars.any fun r => r.fill = f.id && r.wait
    let queued (f : Fill) : Bool := s.engines.any fun e => e.waits.any fun w => w.fill = f.id
    let pick (f : Fill) : Bool := listed f || barrier f || queued f
    let mine := s.fab.fills.filter fun f => f.uid = uid && pick f
    let away := mine.any queued
    let done (s : State) : State := s.modThread uid fun t => { t with run := .ready, prog := t.keptProg, proxy := false }
    match t.run with
    | .ready | .sleeping => (true, done s)
    | .parked | .waiting | .barred | .reply =>
      match t.prog with
      | .asked id =>
        let s := { s with
          trans := { s.trans with reqs := s.trans.reqs.filter fun q => q.id ≠ id }
          fab := { s.fab with fills := s.fab.fills.filter fun f => !(f.uid = uid && f.kind == FillKind.reply) } }
        (true, done s)
      | .fresh | .counting _ | .answered _ _ | .stage _ _ _ | .results _ _ _ | .waits | .discards _ =>
        if mine.isEmpty then
          let parks := t.run == .parked && !(s.fillsOf uid).any Fill.resume
          (parks, if parks then done s else s)
        else
          let ids := mine.map Fill.id
          let clear (e : Engine) : Engine := { e with waits := e.waits.filter fun w => !ids.contains w.fill }
          let s := { s with
            engines := s.engines.map clear
            fab := { s.fab with bars := s.fab.bars.filter fun r => !ids.contains r.fill } }
          let s := s.dropWait uid pick
          let s := if away then s.modThread uid fun t => { t with pc := t.pc - 4 } else s
          (true, done s)
    | .transit =>
      let s := s.endTransit uid
      (true, done (s.modThread uid fun t => Thread.settle { t with run := .ready, transit := none, proxy := false }))
    | .stopping | .fencing =>
      let s := s.dropWait uid pick
      (true, s)
    | .fenced | .fencedAway | .saved | .quitting | .ended => (false, s)

/-- A thread stops at its turn: its waits are abandoned, and from now on it issues nothing (R394). -/
def State.stopThread (s : State) (uid : Nat) (run : Run) : State :=
  let s := (s.abandonWait uid).2
  s.modThread uid fun t => { t with run := run, prog := t.keptProg }

/-- A result that a save does not wait for: a status of an engine's ticket, of the directory group, or of a census (R394). -/
def Fill.staysPending (f : Fill) : Bool :=
  match f.kind with
  | .ticket _ _ _ | .census _ => true
  | .plain | .nest _ _ | .claim | .vector _ _ _ | .reply | .phase _ _ | .partRead _ | .partWrite _ _ | .fork _ _ _ _
  | .join _ _ _ _ => false

/-- Everything that a stopped thread had sent has completed, and STABLE has reached its clock (R344, R394). -/
def State.settled (s : State) (t : Thread) : Bool :=
  let uid := t.ident.uid
  !t.prog.completes && (s.unperformed uid).isEmpty && (s.unacked uid).isEmpty && (s.fillsOf uid).all Fill.staysPending &&
    (List.range 12).all fun k =>
      let v := t.ctl.vclock.getD k 0
      v = 0 || serialGe (s.clocks.stable.getD k 0) v

/-! ## The save arena (R55, R64) -/

/-- The VA of a record. -/
def Part.recordVa (p : Part) (i : Nat) : Word := BitVec.ofNat 64 (p.own.savearena + 512 * i)

/-- The lowest run of free records. -/
def Part.freeRun (p : Part) (n : Nat) : Option Nat :=
  (List.range (p.own.saverecs + 1 - n)).find? fun i => (List.range n).all fun k => !p.arena.contains (i + k)

/-- Takes the lowest run of n free records. -/
def Part.takeRun (p : Part) (n : Nat) : Option (Nat × Part) :=
  (p.freeRun n).map fun i => (i, { p with arena := p.arena ++ (List.range n).map fun k => i + k })

/-- Takes runs one after the other. -/
def Part.takeRuns (p : Part) : List Nat → Option (List Nat × Part)
  | [] => some ([], p)
  | n :: ns =>
    match p.takeRun n with
    | none => none
    | some (i, p) => (p.takeRuns ns).map fun x => (i :: x.1, x.2)

/-- Writes a record of the arena, or as much of a run as the bytes fill. -/
def State.writeRecord (s : State) (part i : Nat) (bs : List Byte) : State :=
  match s.part? part with
  | none => s
  | some p => (s.writeVa part 0 (p.recordVa i) bs 0 false).2

/-- Reads bytes of the arena from a record on. -/
def State.readRecord (s : State) (part i n : Nat) : Option (List Byte) :=
  match s.part? part with
  | none => none
  | some p =>
    match s.readVa part 0 (p.recordVa i) n false with
    | .ok (bs, _) => some bs
    | .error _ => none

/-! ## The layouts (R182, R395, R396) -/

/-- The records of a vector block of L lanes (R182). -/
def vecRecords (l : Nat) : Nat := (1040 * l + 128 + 511) / 512

/-- The vector block of a claim (R182). -/
def Claim.bytes (c : Claim) : List Byte :=
  let l := c.lanes
  let regs := c.regs.flatMap fun v => (List.range (16 * l)).flatMap fun i => natBytes 4 (v.elems.getD i 0).toNat
  let masks := c.masks.flatMap fun m =>
    natBytes (2 * l) ((List.range (16 * l)).foldl (fun n i => n + (m.bits.getD i false).toNat * 2 ^ i) 0)
  let full := (List.range 16).foldl (fun n k => n + (c.regs.getD k ⟨[], true, 0⟩).full.toNat * 2 ^ k) 0
  regs ++ masks ++ c.regs.flatMap (fun v => natBytes 4 v.label.toNat) ++ c.masks.flatMap (fun m => natBytes 4 m.label.toNat)
    ++ natBytes 2 full ++ natBytes 1 l ++ natBytes 29 0

/-- The claim that a vector block of its lanes holds (R182). -/
def Claim.ofBytes (c : Claim) (bs : List Byte) : Claim :=
  let l := c.lanes
  let vl := 16 * l
  let full := fieldAt bs (1040 * l + 96) 2
  { c with
    regs := (List.range 16).map fun k =>
      ⟨(List.range vl).map fun i => BitVec.ofNat 32 (fieldAt bs (4 * (vl * k + i)) 4), full.testBit k,
        BitVec.ofNat 32 (fieldAt bs (1040 * l + 4 * k) 4)⟩
    masks := (List.range 8).map fun j =>
      ⟨(List.range vl).map fun i => (fieldAt bs (1024 * l + 2 * l * j) (2 * l)).testBit i,
        BitVec.ofNat 32 (fieldAt bs (1040 * l + 64 + 4 * j) 4)⟩ }

/-- The kinds of pending trap in the order of a save record's bits 1 to 6 (R395). -/
def savedKinds : List AsyncKind := [.timer, .beat, .watchdog, .pressfault, .rackfault, .dataerr]

/-- The number of a missing record. -/
def noRecord : Nat := 0xFFFFFFFF

/-- The registers of a thread that are saved as pending: those of results that a save does not wait for, but for `pwait`
(R307, R395). -/
def State.pendingRegs (s : State) (uid : Nat) : List Reg :=
  (s.fillsOf uid).flatMap fun f =>
    match f.kind with
    | .ticket _ _ true => []
    | .ticket _ _ false | .census _ => f.regs
    | .plain | .nest _ _ | .claim | .vector _ _ _ | .reply | .phase _ _ | .partRead _ | .partWrite _ _ | .fork _ _ _ _
    | .join _ _ _ _ => []

/-- The save record of a thread (R395). -/
def Thread.record (t : Thread) (pending : List Reg) (wake : Slot) (vec ext : Option Nat) : List Byte :=
  let ns := (List.range 31).map fun k => k + 1
  let g (n : Nat) : GReg := t.reg ⟨n % 32, Nat.mod_lt _ (by decide)⟩
  let isPending (n : Nat) : Bool := pending.any fun r => r.val = n
  let bits := ns.foldl (fun b n =>
    b + (if isPending n then 0 else 2 ^ (n - 1)) + (if (g n).poison && !isPending n then 2 ^ (31 + n) else 0)) 0
  let traps := (List.range 6).foldl (fun b k =>
    if t.pending.any fun a => some a.kind == savedKinds[k]? then b + 2 ^ (k + 1) else b) wake.wake.toNat
  natBytes 8 0 ++ ns.flatMap (fun n => natBytes 8 (g n).val.toNat) ++ ns.flatMap (fun n => natBytes 4 (g n).label.toNat)
    ++ natBytes 8 bits ++ natBytes 8 t.pc.toNat ++ natBytes 4 (fieldOf t.ctl.status 0 18) ++ natBytes 4 t.ctl.clabel.toNat
    ++ natBytes 4 t.ctl.live.toNat ++ natBytes 8 t.ctl.seed.toNat ++ natBytes 4 t.ctl.seedLabel.toNat
    ++ natBytes 8 t.trap.vec.toNat ++ natBytes 4 t.ctl.slotTimer ++ natBytes 4 t.ctl.hbint ++ natBytes 4 wake.wakeLabel.toNat
    ++ natBytes 4 (vec.getD noRecord) ++ natBytes 4 (ext.getD noRecord) ++ natBytes 4 traps ++ natBytes 60 0

/-- A thread needs an extension record (R396). -/
def Thread.needsExt (t : Thread) : Bool := t.inTrap || t.nestValid || t.pending.any fun a => a.kind != .timer

/-- The extension record of a thread (R396). -/
def Thread.extension (t : Thread) : List Byte :=
  let entry (k : AsyncKind) : List Byte :=
    match t.pending.find? fun a => a.kind == k with
    | some a => natBytes 8 (asyncNumber k) ++ natBytes 8 a.addr.toNat ++ natBytes 8 a.info.toNat ++ natBytes 8 0
    | none => natBytes 32 0
  natBytes 8 t.trap.pc.toNat ++ natBytes 8 t.trap.code.toNat ++ natBytes 8 t.trap.addr.toNat ++ natBytes 8 t.trap.info.toNat
    ++ (List.range 4).flatMap (fun k => natBytes 8 (t.nestWord k).toNat) ++ (savedKinds.drop 1).flatMap entry
    ++ natBytes 288 0

/-! ## Saving and restoring a context (R394 to R397) -/

/-- The runs of records that a thread's context takes (R64, R182, R396). -/
def Thread.runs (t : Thread) : List Nat :=
  1 :: (if t.claim.lanes = 0 then [] else [vecRecords t.claim.lanes]) ++ (if t.needsExt then [1] else [])

/-- Saves a context: its record, its vector block and its extension record, and SAVEPTR (R394). -/
def State.saveContext (s : State) (t : Thread) : Option State :=
  match (s.part? t.ident.part).bind fun p => p.takeRuns t.runs with
  | none => none
  | some (is, p) =>
    let rec_ := is.getD 0 0
    let vec := if t.claim.lanes = 0 then none else is[1]?
    let ext := if t.needsExt then is[is.length - 1]? else none
    let wake := s.slot t.ident.core0 t.ident.slot0
    let s := s.modPart p.num fun x => { x with arena := p.arena }
    let s := s.writeRecord p.num rec_ (t.record (s.pendingRegs t.ident.uid) wake vec ext)
    let s := match vec with
      | some i => s.writeRecord p.num i t.claim.bytes
      | none => s
    let s := match ext with
      | some i => s.writeRecord p.num i t.extension
      | none => s
    some (s.modThread t.ident.uid fun t => { t with trap := { t.trap with saveptr := keepBits (p.recordVa rec_) 9 56 } })

/-- The record that SAVEPTR names. -/
def Part.recordOf (p : Part) (va : Word) : Nat := (va.toNat - p.own.savearena) / 512

/-- The context that a save record gives, with its extension and vector block (R395 to R397). A mode that the record cannot
give leaves the mode as it was, and the labels of pending traps, for which there is no room, stay as they were (assumption 63). -/
def Thread.restored (t : Thread) (bs : List Byte) (ext vec : Option (List Byte)) (wmsel : Word) : Thread :=
  let bits := fieldAt bs 0x17C 8
  let reg (r : Fin 32) : GReg :=
    if r = 0 then zeroReg
    else ⟨wordAt bs (8 * r.val), bits.testBit (r.val - 1), bits.testBit (31 + r.val),
      BitVec.ofNat 32 (fieldAt bs (0x100 + 4 * (r.val - 1)) 4)⟩
  let st := fieldAt bs 0x18C 4 % 2 ^ 18
  let st := if st % 4 < 2 || st % 4 = t.mode then st else st - st % 4 + t.mode
  let x := ext.getD []
  let flags := fieldAt bs 0x1C0 4
  let trap (k : Nat) : Option AsyncTrap :=
    match savedKinds[k]? with
    | none => none
    | some kind =>
      if flags.testBit (k + 1) then
        let l := ((t.pending.find? fun a => a.kind == kind).map AsyncTrap.label).getD 0
        some (if k = 0 then ⟨kind, 0, 0, l⟩ else ⟨kind, wordAt x (0x40 + 32 * (k - 1) + 8), wordAt x (0x40 + 32 * (k - 1) + 16), l⟩)
      else none
  { t with
    regs := Vector.ofFn reg
    pc := keepBits (wordAt bs 0x184) 1 56
    ctl := { t.ctl with
      status := BitVec.ofNat 64 st, clabel := BitVec.ofNat 32 (fieldAt bs 0x190 4)
      live := BitVec.ofNat 32 (fieldAt bs 0x194 4) &&& ~~~1
      seed := if wordAt bs 0x198 = 0 then 1 else wordAt bs 0x198
      seedLabel := BitVec.ofNat 32 (fieldAt bs 0x1A0 4), nest := (List.range 4).map fun k => wordAt x (0x20 + 8 * k)
      vclock := List.replicate 16 0, hbint := hbintOf (BitVec.ofNat 64 (fieldAt bs 0x1B0 4)), hbcnt := 0
      slotTimer := fieldAt bs 0x1AC 4, wmsel := keepBits wmsel 0 15, pendred := 0 }
    trap := { t.trap with
      pc := keepBits (wordAt x 0) 1 56, code := keepBits (wordAt x 8) 0 10, addr := wordAt x 0x10, info := wordAt x 0x18
      vec := keepBits (wordAt bs 0x1A4) 1 56 }
    claim := match vec with
      | some v => t.claim.ofBytes v
      | none => t.claim
    run := .ready, prog := t.keptProg, pending := (List.range 6).filterMap trap, late := none, transit := none, proxy := false
    acqFill := none, acqAcc := none }

/-- The registers that outstanding results will still fill are empty, but for those of `pwait` (R307, R397). -/
def State.emptyPending (s : State) (t : Thread) : Thread := (s.pendingRegs t.ident.uid).foldl Thread.markEmpty t

/-- An outstanding `pwait`, which a save treats as not issued, is executed again for the thread at its turn (R307). -/
def State.pwaitAgain (s : State) (f : Fill) : State :=
  match f.kind, f.regs with
  | .ticket _ w true, d :: _ => (s.dropFill f.id).watchTicket d w true (s.pressStanding w) (f.label ||| s.t.ctl.clabel)
  | _, _ => s

/-- Every outstanding `pwait` of a thread that has been loaded again is executed again (R307). -/
def State.pwaitsAgain (s : State) (uid : Nat) : State :=
  let now := s.t.ident.uid
  ((s.fillsOf uid).foldl State.pwaitAgain (s.focus uid)).focus now

/-- Frees the records of a saved context. -/
def State.freeRecords (s : State) (part : Nat) (is : List Nat) : State :=
  s.modPart part fun p => { p with arena := p.arena.filter fun i => !is.contains i }

/-- A context is loaded from its record into a slot, and its records are freed; the wake bit and its label return to the slot,
where a HELD slot keeps a wake of its own (R65, R327, R397, R403). -/
def State.restoreContext (s : State) (t : Thread) (core slot : Nat) : State :=
  match s.part? t.ident.part with
  | none => s
  | some p =>
    let i := p.recordOf t.trap.saveptr
    let (v, s) := s.free
    let bs := s.readRecord p.num i 512
    let index (off : Nat) : Option Nat := bs.bind fun b => let n := fieldAt b off 4; if n = noRecord then none else some n
    let ext := index 0x1BC
    let vec := if t.claim.lanes = 0 then none else index 0x1B8
    let t1 := match bs with
      | some b => t.restored b (ext.bind fun k => s.readRecord p.num k 512)
          (vec.bind fun k => s.readRecord p.num k (1040 * t.claim.lanes + 128)) v
      | none => { t with run := .ready, prog := t.keptProg }
    let pan := if isCompute core then corePan core else t.ident.pan
    let t1 := { (s.emptyPending t1) with
      core := core, slot := slot
      ident := { t.ident with pan := pan, trellis := coreTrellis core, core0 := core, slot0 := slot } }
    let (stamp, s) := s.fresh
    let t1 := Thread.settle { t1 with claim := { t1.claim with stamp := stamp } }
    let b := bs.getD []
    let held := s.slot core slot
    let keep : Bool := held.state == .held && held.wake
    let s := s.setSlot ⟨core, slot, .occupied, (fieldAt b 0x1C0 4).testBit 0 || keep,
      BitVec.ofNat 32 (fieldAt b 0x1B4 4) ||| (if keep then held.wakeLabel else 0), if keep then held.wakeClock else []⟩
    let s := if t1.claim.lanes = 0 then s else s.noteUse p.num 5 t1.place
    let s := s.modThread t.ident.uid fun _ => t1
    let blocks := match vec with
      | some k => (List.range (vecRecords t.claim.lanes)).map fun n => k + n
      | none => []
    s.freeRecords p.num (i :: ext.toList ++ blocks)

/-- A wake bit that the slot of a fenced thread has taken since the save joins the thread's record (R327, R403). -/
def State.recordWake (s : State) (t : Thread) : State :=
  let x := s.slot t.ident.core0 t.ident.slot0
  match s.part? t.ident.part with
  | none => s
  | some p =>
    let i := p.recordOf t.trap.saveptr
    match x.wake, s.readRecord p.num i 512 with
    | true, some b =>
      let put (off v : Nat) (bs : List Byte) : List Byte := bs.take off ++ natBytes 4 v ++ bs.drop (off + 4)
      s.writeRecord p.num i (put 0x1B4 (Nat.lor (fieldAt b 0x1B4 4) x.wakeLabel.toNat) (put 0x1C0 (Nat.lor (fieldAt b 0x1C0 4) 1) b))
    | _, _ => s

/-! ## Folding a gang (R64, R281, R302) -/

/-- A slot of a thread that is saved or has ended becomes FREE, or is handed over to its new owner, or waits for the Rake
where its partition retires (R64, R67, R416). -/
def State.giveSlot (s : State) (core slot part : Nat) : State :=
  let retiring : Bool := match s.part? part with
    | some p => p.retiring
    | none => false
  if s.departing core slot then (s.setSlot ⟨core, slot, .held, false, 0, []⟩).push (.slotHandover core slot)
  else if retiring then s.setSlot ⟨core, slot, .scrub, false, 0, []⟩
  else s.vacate core slot part

/-- The slots that a thread occupies or holds are given back. -/
def State.giveSlots (s : State) (t : Thread) : State :=
  let p := t.ident.part
  let s := s.giveSlot t.ident.core0 t.ident.slot0 p
  if t.core = t.ident.core0 ∧ t.slot = t.ident.slot0 then s else s.giveSlot t.core t.slot p

/-- The commands that a fold of a gang holds, queue by queue, each queue in its order, which over several trellises is that of
acceptance (R64; assumption 46). -/
def State.gangCmds (s : State) (g : Nat) : List (Nat × Cmd) :=
  let mine := s.engines.flatMap fun e => (e.cmds.filter fun c => c.gang = g && g ≠ 0).map fun c => (e.place, c)
  let before (x y : Nat × Cmd) : Bool := x.2.queue < y.2.queue || (x.2.queue = y.2.queue && x.2.order ≤ y.2.order)
  sortBy before mine

/-- The engines run nothing for a gang any more: its copies have stopped at a segment, its Press operations have retired (R64,
R281, R302). -/
def State.enginesQuiet (s : State) (g : Nat) : Bool :=
  !((s.gangCmds g).any fun x => x.2.state == .started) &&
    !(s.engines.any fun e => match e.press with
      | some r => e.cmds.any fun c => c.id = r.cmd && c.gang = g
      | none => false)

/-- The threads of a gang that a fold saves, in ascending LTHREAD. -/
def State.foldThreads (s : State) (g : Nat) : List Thread :=
  sortBy (fun x y => x.ident.lthread ≤ y.ident.lthread) ((s.gangThreads g).filter fun t => t.run != .quitting)

/-- A command is one that a fold holds: queued or halted, or a started copy, which stops at a segment; any other started one
retires first (R64, R281, R302). -/
def Cmd.isHeld (c : Cmd) : Bool := c.state != .started || c.kind.isCopy

/-- The runs of records that a fold of a gang takes: contexts not yet saved, then the fold record, the thread list and the
command list (R64). -/
def State.foldRuns (s : State) (g : Nat) : List Nat :=
  let ts := s.foldThreads g
  let q := ((s.gangCmds g).filter fun x => x.2.isHeld).length
  ((ts.filter fun t => t.run != .fencedAway && t.run != .saved).flatMap Thread.runs) ++ [1, (ts.length + 63) / 64] ++
    (if q = 0 then [] else [(q + 1) / 2])

/-- The runs that the folds in progress of a partition are still to take (R64). -/
def State.foldsOwe (s : State) (part : Nat) : List Nat :=
  (s.gangs.filter fun g => g.part = part && g.folding).flatMap fun g => s.foldRuns g.gid

/-- The save arena has room for a fold of a gang, beside the folds in progress (R64). -/
def State.canFold (s : State) (g : Gang) : Bool :=
  !g.folding && g.folded.isNone && g.killed.isNone &&
    ((s.part? g.part).bind fun p => p.takeRuns (s.foldsOwe g.part ++ s.foldRuns g.gid)).isSome

/-- The entry of a command list (R64). -/
def Cmd.entry (c : Cmd) (owed : Bool) : List Byte :=
  let fit (bs : List Byte) : List Byte := (bs ++ List.replicate 64 0).take 64
  let started := c.kind.isCopy && c.startAt ≠ 0
  natBytes 8 c.ticket.toNat ++ natBytes 1 c.queue ++
    natBytes 1 (started.toNat + (c.state == .halted).toNat * 2 + owed.toNat * 4) ++ natBytes 2 c.lthread ++ natBytes 4 c.done
    ++ natBytes 8 c.bva.toNat ++ natBytes 4 c.draws ++ natBytes 4 c.label.toNat ++ natBytes 8 c.seed.toNat ++ natBytes 24 0
    ++ fit c.block ++ fit c.shape ++ fit c.follow

/-- The fold record (R64). -/
def Gang.record (g : Gang) (size x xn : Nat) (c : Option Nat) (q : Nat) : List Byte :=
  let bar (k : Nat) : List Byte :=
    match g.bars[k]? with
    | some b => natBytes 2 b.phase ++ natBytes 2 b.arrived ++ natBytes 2 b.parts ++ natBytes 2 0 ++ natBytes 4 b.lb.toNat ++ natBytes 4 0
    | none => natBytes 16 0
  natBytes 8 g.num.toNat ++ natBytes 2 size ++ natBytes 1 g.pan ++ natBytes 1 g.bars.length ++ natBytes 4 q ++ natBytes 4 x
    ++ natBytes 4 xn ++ natBytes 4 (c.getD noRecord) ++ natBytes 4 ((q + 1) / 2) ++ (List.range 4).flatMap bar
    ++ natBytes 416 0

/-- The issuer of a command has an engine fault of it pending (R64, R302). -/
def State.owesFault (s : State) (c : Cmd) : Bool :=
  match s.thread c.uid with
  | some t => (t.pending ++ t.second).any fun a => (a.kind == .pressfault || a.kind == .rackfault) && a.info = c.ticket
  | none => false

/-- A command leaves its engine for a fold: DONE of a started copy is written, its ranges are released, and its queue goes on
(R64, R281). -/
def State.takeCmd (s : State) (place : Nat) (c : Cmd) : State :=
  let s := if c.kind.isCopy && c.startAt ≠ 0 && c.state != .halted then s.writeDone place c c.done else s
  let s := s.modEngine place fun e => { e with cmds := e.cmds.filter fun x => x.id ≠ c.id }
  s.freeRanges place c.id

/-- A stopped thread of a gang that is folded is saved and its slots are given back, once what it had sent has completed; without a
free record it waits for one (R64). -/
def State.saveThread (s : State) (t : Thread) : State :=
  let saved (s : State) : State := (s.modThread t.ident.uid fun t => { t with run := .saved }).giveSlots t
  if t.run == .fencedAway then saved (s.recordWake t)
  else if (t.run == .stopping || t.run == .fenced) && s.settled t then
    match s.saveContext t with
    | some s => saved s
    | none => s
  else s

/-- The turn of a thread that has stopped for a fold: what waits is abandoned, and it is saved once what it had sent has completed
(R64, R394). -/
def State.stoppedTurn (s : State) : State :=
  let s := (s.abandonWait s.t.ident.uid).2
  s.saveThread s.t

/-- The last step of a fold, its threads being saved: commands, lists and the fold record, and the FOLDED event (R64, R393). -/
def State.finishFold (s : State) (g : Gang) : Option State :=
  let ts := s.foldThreads g.gid
  let cmds := s.gangCmds g.gid
  let owed := cmds.map fun x => s.owesFault x.2
  let q := cmds.length
  let xn := (ts.length + 63) / 64
  match (s.part? g.part).bind fun p => (p.takeRuns ([1, xn] ++ (if q = 0 then [] else [(q + 1) / 2]))).map fun x => (p, x) with
  | none => none
  | some (p, is, p') =>
    let f := is.getD 0 0
    let x := is.getD 1 0
    let c := is[2]?
    let list := ts.flatMap fun t => natBytes 8 (p.recordOf t.trap.saveptr + t.ident.lthread * 2 ^ 32)
    let list := list ++ List.replicate (512 * xn - list.length) 0
    let s := s.modPart g.part fun y => { y with arena := p'.arena }
    let s := (s.writeRecord g.part f (g.record ts.length x xn c q)).writeRecord g.part x list
    let s := cmds.foldl (fun (s : State) y => s.takeCmd y.1 y.2) s
    let s := match c with
      | some i => s.writeRecord g.part i ((List.zip cmds owed).flatMap fun (y : (Nat × Cmd) × Bool) => y.1.2.entry y.2)
      | none => s
    let places := (cmds.map Prod.fst).eraseDups
    let s := s.modGang g.gid fun g => { g with folding := false, folded := some f, cmds := cmds.map Prod.snd }
    let s := places.foldl (fun (s : State) k => s.turnQueues k) s
    let s := s.fault g.part ⟨0x18, 0, g.pan, [g.num, p.recordVa f]⟩
    some ((s.foldOver g.gid).scheduleOnce s.time.cycle (.launchPlacementPass g.part))

/-- `FOLD`: a gang is folded: each thread stops and is saved at its turns, its engines run out, and then its lists are written
(R64). It is looked at every 16 cycles. A gang whose threads all end is folded no further (R52, R416). -/
def execFold (part gang why : Nat) (s : State) : Result :=
  let again (s : State) : State := s.schedule (s.time.cycle + 16) (.fold part gang why)
  match s.gang? gang with
  | none => .next s
  | some g =>
    if !g.folding then
      if s.canFold g then .next (again (s.modGang gang fun g => { g with folding := true })) else .next s
    else if g.forced || g.killed.isSome then .next ((s.modGang gang fun g => { g with folding := false }).foldOver gang)
    else
      let s := ((s.foldThreads gang).filter fun t => t.run == .fencedAway).foldl State.saveThread s
      let ts := s.foldThreads gang
      if (ts.all fun t => t.run == .saved) && ts.length = s.gangSize gang && s.enginesQuiet gang &&
          !(s.gangCmds gang).any fun x => s.blockWaits x.1 x.2 then
        match s.finishFold g with
        | some s => .next s
        | none => .next (again s)
      else .next (again s)

/-! ## Re-placing a gang (R65, R183) -/

/-- A command as its entry in the command list now has it (R64, R281, R302): what identifies it is kept, and so is whether it had
started. -/
def Cmd.ofEntry (c : Cmd) (bs : List Byte) : Cmd :=
  let part (off : Nat) : List Byte := (bs.drop off).take 64
  let isPress := c.kind == CmdKind.press || c.kind == CmdKind.zero
  { c with
    done := fieldAt bs 0x0C 4, bva := wordAt bs 0x10, draws := fieldAt bs 0x18 4, label := BitVec.ofNat 32 (fieldAt bs 0x1C 4)
    seed := wordAt bs 0x20, block := part 0x40
    shape := if c.kind == CmdKind.copy then part 0x80 else c.shape
    follow := if c.follow.isEmpty || isPress then c.follow else part 0xC0
    state := if (fieldAt bs 9 1).testBit 1 then .halted else .queued
    startAt := if (fieldAt bs 9 1).testBit 0 then max 1 c.startAt else 0 }

/-- A command re-enters the queue of its number in an engine, with its ranges and without waiting for room (R65, R281,
R302). -/
def State.requeue (s : State) (place : Nat) (c : Cmd) : State :=
  let (n, s) := s.fresh
  let live (f : Nat) : Bool := s.engines.any fun e => e.fences.any fun x => x.id = f
  let c := { c with order := n, after := c.after.filter live }
  let s := s.takeRanges place c n
  s.modEngine place fun e => { e with cmds := e.cmds ++ [c] }

/-- The fences of a gang that is placed again move with their tickets to the engines of their threads' new origin trellises (R265,
R281). -/
def State.moveFences (s : State) (gid : Nat) (placeOf : Nat → Nat) : State :=
  let mine (f : QFence) : Bool := f.gang = gid
  let fs := s.engines.flatMap fun e => e.fences.filter mine
  let s := { s with engines := s.engines.map fun (e : Engine) => { e with fences := e.fences.filter fun f => !mine f } }
  fs.foldl (fun (s : State) f => s.modEngine (placeOf f.uid) fun e => { e with fences := e.fences ++ [f] }) s

/-- The barriers of a gang as its fold record now has them, in newly taken units (R65, R334). -/
def barsOf (bs : List Byte) (old : List Barrier) (units : List Nat) : List Barrier :=
  (List.range old.length).map fun k =>
    let o := 0x20 + 16 * k
    ⟨fieldAt bs o 2, fieldAt bs (o + 2) 2, fieldAt bs (o + 4) 2, BitVec.ofNat 32 (fieldAt bs (o + 8) 4), units.getD k 0⟩

/-- A thread of a folded gang as the fold record and its entry of the thread list now have it: GANGID, LTHREAD and the record of
its context (R64, R395). -/
def Thread.listed (t : Thread) (p : Part) (num : Word) (e : Word) : Thread :=
  { t with
    ident := { t.ident with gangid := num, lthread := fieldOf e 32 14 }
    trap := { t.trap with saveptr := keepBits (p.recordVa (fieldOf e 0 32)) 9 56 } }

/-- The threads of a folded gang as its lists now have them; those of the model where a list cannot be read. -/
def State.listedThreads (s : State) (part gid x xn : Nat) (head : List Byte) : List Thread :=
  let ts := s.foldThreads gid
  match s.part? part with
  | none => ts
  | some p =>
    match s.readVa part 0 (p.recordVa x) (512 * xn) false with
    | .ok (bs, _) => if head.isEmpty then ts else
        (List.zip (List.range ts.length) ts).map fun y => y.2.listed p (wordAt head 0) (wordAt bs (8 * y.1))
    | .error _ => ts

/-- A folded gang is placed again in slots and barrier units found for it: contexts, barriers and commands are loaded, and
their records freed (R65, R397). A held command whose issuing thread has ended enters at the trellis of the gang's first slot
(assumption 99). -/
def State.unfold (s : State) (g : Gang) (places : List (Nat × Nat)) (units : List Nat) : State :=
  match g.folded with
  | none => s
  | some f =>
    let head := (s.readRecord g.part f 512).getD []
    let x := fieldAt head 0x10 4
    let xn := fieldAt head 0x14 4
    let ts := s.listedThreads g.part g.gid x xn head
    let num := if head.isEmpty then g.num else wordAt head 0
    let q := g.cmds.length
    let cfirst := fieldAt head 0x18 4
    let s := (List.zip ts places).foldl (fun (s : State) y => s.restoreContext y.1 y.2.1 y.2.2) s
    let entry (k : Nat) (c : Cmd) : Cmd :=
      match (s.part? g.part).bind fun p =>
          match s.readVa g.part 0 (p.recordVa cfirst + BitVec.ofNat 64 (256 * k)) 256 false with
          | .ok (bs, _) => some bs
          | .error _ => none with
      | some bs => c.ofEntry bs
      | none => { c with state := if c.state == .halted then .halted else .queued }
    let cmds := (List.zip (List.range q) g.cmds).map fun y => entry y.1 y.2
    let placeOf (uid : Nat) : Nat := match s.thread uid with
      | some t => t.place
      | none => (places.head?.map fun y => y.1 / 8).getD 0
    let s := s.moveFences g.gid placeOf
    let s := cmds.foldl (fun (s : State) c => s.requeue (placeOf c.uid) c) s
    let s := ts.foldl (fun (s : State) t => s.pwaitsAgain t.ident.uid) s
    let now := s.time.cycle
    let s := s.modGang g.gid fun g => { g with
      num := num, folded := none, cmds := [], placed := now, bars := if head.isEmpty then g.bars else barsOf head g.bars units }
    let runOf (i n : Nat) : List Nat := (List.range n).map fun k => i + k
    let s := s.freeRecords g.part (f :: runOf x xn ++ (if q = 0 then [] else runOf cfirst ((q + 1) / 2)))
    ((cmds.map fun c => placeOf c.uid).eraseDups).foldl (fun (s : State) k => s.kickAll k) s

end Sys2Proof.Machine
end

