-- ==== Sys2Proof/Machine/Launch.lean ====
section
/-! DEFINITION. The launch unit: kernel images, launch records, invocations, placement, folds for placement, and completion
(R15 to R25, R34 to R53, R61, R62, R145 to R147, R451). -/

namespace Sys2Proof.Machine

open Sys2Proof

/-! ## Images (R19 to R24) -/

/-- The least multiple of 8 at or above n. -/
def align8 (n : Nat) : Nat := (n + 7) / 8 * 8

/-- Every header field lies within the limits of R19. -/
def headerOk (h : List Byte) : Bool :=
  let code := fieldAt h 8 4
  let data := fieldAt h 0xC 4
  let entry := fieldAt h 0x10 4
  let trapoff := fieldAt h 0x14 4
  let gmin := fieldAt h 0x18 2
  let gmax := fieldAt h 0x1A 2
  let patchoff := align8 (align8 (64 + code) + data)
  fieldAt h 0 4 = 0x5A434B49 && fieldAt h 4 2 = 1 && fieldAt h 6 2 = 0x40 &&
    code % 2 = 0 && 2 ≤ code && code ≤ 2 ^ 24 && data ≤ 2 ^ 24 && entry % 2 = 0 && entry < code &&
    (trapoff = 0xFFFFFFFF || (trapoff % 2 = 0 && trapoff < code)) && 1 ≤ gmin && gmin ≤ gmax && gmax ≤ 16384 &&
    fieldAt h 0x1C 1 ≤ 4 && fieldAt h 0x1D 1 ≤ 64 && fieldAt h 0x1E 2 ≤ 1024 && fieldAt h 0x20 4 % 2 = 0 &&
    fieldAt h 0x24 4 = patchoff && fieldAt h 0x28 2 ≤ 512 && zeroAt h 0x2A 2 &&
    fieldAt h 0x2C 4 = patchoff + 8 * fieldAt h 0x1E 2 && zeroAt h 0x30 16

/-- Bytes of a partition's memory that the launch unit can read. A local window VA is that of Pan 0 (assumption 38); the
reads are of supervisor mode, whatever the page's task bit (assumption 39); and bytes with an uncorrectable error count as not
readable (assumption 40). -/
def State.unitRead (s : State) (part : Nat) (va : Word) (n : Nat) : Option (List Byte × Label) :=
  match s.readVa part 0 va n false with
  | .ok x => some x
  | .error _ => none

/-- A patch entry meets R23, given the 32-bit code word it names. -/
def patchOk (e : List Byte) (code params : Nat) (word : Nat) : Bool :=
  let off := fieldAt e 0 4
  let kind := fieldAt e 6 1
  let major := bitsAt word 1 6
  off % 2 = 0 && off + 4 ≤ code && fieldAt e 4 2 < params && kind ≤ 1 && zeroAt e 7 1 && word % 2 = 1 &&
    (if kind = 0 then (1 ≤ major && major ≤ 4) || major = 6 || major = 7 else major = 8 || major = 9)

/-- A patched value fits its field (R24). -/
def patchFits (kind : Nat) (v : Word) : Bool :=
  if kind = 0 then -8192 ≤ v.toInt && v.toInt ≤ 8191 else -524288 ≤ v.toInt && v.toInt ≤ 1048575

/-- The checks of R20 in their order, for an image, a gang size and a parameter block: what the launch unit keeps of the
image, or the status. -/
def State.imageChecks (s : State) (part image size param : Nat) : Except Nat Header :=
  let at_ (off : Nat) : Word := BitVec.ofNat 64 (image + off)
  if image % 64 ≠ 0 || !isGlobal image then .error 0x101
  else
    match s.unitRead part (at_ 0) 64 with
    | none => .error 0x101
    | some (h, _) =>
      if !headerOk h then .error 0x101
      else
        let code := fieldAt h 8 4
        let n := fieldAt h 0x1E 2
        let params := fieldAt h 0x28 2
        match s.unitRead part (at_ (fieldAt h 0x24 4)) (8 * n) with
        | none => .error 0x101
        | some (tab, _) =>
          let entries := (List.range n).map fun k => (tab.drop (8 * k)).take 8
          let good (e : List Byte) : Bool :=
            match s.unitRead part (at_ (64 + fieldAt e 0 4)) 4 with
            | some (w, _) => patchOk e code params (bytesNat w)
            | none => false
          let offs := entries.map fun e => fieldAt e 0 4
          let hdr (patches : List Patch) (l : Label) : Header :=
            ⟨fieldAt h 0x10 4, fieldAt h 0x14 4, fieldAt h 0x18 2, fieldAt h 0x1A 2, fieldAt h 0x1C 1, fieldAt h 0x1D 1,
              BitVec.ofNat 32 (fieldAt h 0x20 4), params, patches, l⟩
          let quota := match s.part? part with
            | some p => p.own.vlaneq
            | none => 0
          if !(entries.all good) || offs.eraseDups.length ≠ n then .error 0x101
          else if size < fieldAt h 0x18 2 || fieldAt h 0x1A 2 < size then .error 0x102
          else if params = 0 then (if quota < fieldAt h 0x1D 1 then .error 0x104 else .ok (hdr [] 0))
          else if param % 8 ≠ 0 || 8192 < param % 8192 + 8 * params then .error 0x103
          else
            match s.unitRead part (BitVec.ofNat 64 param) (8 * params) with
            | none => .error 0x103
            | some (ps, l) =>
              let value (e : List Byte) : Word := wordAt ps (8 * fieldAt e 4 2)
              if quota < fieldAt h 0x1D 1 then .error 0x104
              else if !(entries.all fun e => patchFits (fieldAt e 6 1) (value e)) then .error 0x105
              else .ok (hdr (entries.map fun e => ⟨image + 64 + fieldAt e 0 4, fieldAt e 6 1, value e⟩) l)

/-- The patch that overlays the 32-bit word at an address, for a gang (R25). -/
def Gang.patchAt (g : Gang) (va : Nat) : Option Patch := g.patches.find? fun p => p.va = va

/-- A fetched word with a patch over its field (R24, R25). -/
def Patch.apply (p : Patch) (w : Nat) : Nat :=
  if p.kind = 0 then w % 2 ^ 18 + p.value.toNat % 2 ^ 14 * 2 ^ 18 else w % 2 ^ 12 + p.value.toNat % 2 ^ 20 * 2 ^ 12

/-! ## Records (R34 to R37, R41 to R43) -/

/-- A VA that a completion word or wait-on word may have (R36). -/
def wordVaOk (va : Nat) : Bool := va = 0 || (va % 8 = 0 && (isGlobal va || (namedWindow va).isSome))

/-- The virtual functions bound to a partition. -/
def State.vfsOf (s : State) (part : Nat) : List VirtFn := s.vfs.filter fun v => v.valid && v.part = part

/-- The fields of a record lie within the limits of R34 to R36, and its vector exists (R37). -/
def State.recordOk (s : State) (part : Nat) (r : List Byte) (program : Bool) : Bool :=
  let image := fieldAt r 0 8
  let size := fieldAt r 0x14 2
  let flags := fieldAt r 0x32 2
  let quantum := fieldAt r 0x34 2
  let vec := fieldAt r 0x36 2
  let msix := flags.testBit 2
  image % 64 = 0 && isGlobal image && 1 ≤ fieldAt r 0x10 4 && 1 ≤ size && size ≤ 16384 && fieldAt r 0x17 1 < 4 &&
    wordVaOk (fieldAt r 0x18 8) && wordVaOk (fieldAt r 0x20 8) && fieldAt r 0x30 2 < 128 && flags < 16 &&
    (if flags.testBit 1 then 1 ≤ quantum else quantum = 0) && (if msix then vec < 64 else vec = 0) && zeroAt r 0x38 8 &&
    !(msix && program && (s.vfsOf part).isEmpty)

/-- The records of a partition that count against a priority (R41). -/
def Part.recordsAt (p : Part) (prio : Nat) : Nat :=
  (p.unit.jobs.filter fun j => j.inv.isNone && j.prio = prio && !j.closed).length

/-- Changes a launch unit. -/
def State.modUnit (s : State) (part : Nat) (f : LaunchUnit → LaunchUnit) : State :=
  s.modPart part fun p => { p with unit := f p.unit }

/-- Changes a job of a launch unit. -/
def State.modJob (s : State) (part num : Nat) (f : Job → Job) : State :=
  s.modUnit part fun u => { u with jobs := u.jobs.map fun j => if j.num = num then f j else j }

/-- A job by its arrival number. -/
def State.job? (s : State) (part num : Nat) : Option Job :=
  (s.part? part).bind fun p => p.unit.jobs.find? fun j => j.num = num

/-- Asks for a pass of placement in a partition, which comes after the turns of the cycle (R47, R63, R451). -/
def State.askPass (s : State) (part : Nat) : State := s.scheduleOnce s.time.cycle (.launchPlacementPass part)

/-- The cycles of the way of a completion word from the launch unit to its place: a leg, and the access there (R213, R241,
R451; assumption 92). -/
def completionPath (va : Nat) : Nat := leg 1 + if isGlobal va then 12 else 9

/-- A launch completes with a status: its word is sent 16 cycles later, but not before its threads' writes to host memory and other
chips are acknowledged, and takes the time of its way (R16, R38, R44, R337, R451). -/
def State.closeJob (s : State) (part : Nat) (j : Job) (status : Nat) : State :=
  (s.modJob part j.num fun j => { j with closed := true, status := status }).schedule
    (max (s.time.cycle + 16) j.acked + completionPath j.completion) (.completionWrite part j.num)

/-- A launch becomes eligible: it is a candidate, and its priority will rise (R46, R47). -/
def State.makeEligible (s : State) (part num : Nat) : State :=
  let c := s.time.cycle
  let s := s.modJob part num fun j => { j with eligible := some c }
  let s := [1, 2, 3].foldl (fun (s : State) k => s.scheduleOnce (c + k * 2 ^ 20) .priorityAging) s
  s.askPass part

/-- The launch unit reads a wait-on word (R43, R46). -/
def State.readWaiton (s : State) (part : Nat) (j : Job) : State :=
  if j.closed || j.eligible.isSome then s
  else
    match s.unitRead part (BitVec.ofNat 64 j.waiton) 8 with
    | none => s.closeJob part j 0x109
    | some (bs, l) =>
      if !labelLe l (partLabel part) then s.closeJob part j 0x109
      else
        let w := bytesNat bs
        if !w.testBit 63 then s
        else if j.flags.testBit 3 && w % 2 ^ 16 ≠ 0 then s.closeJob part j 0x106
        else s.makeEligible part j.num

/-- The launch unit reads the wait-on words of every launch of a partition that waits (R46). -/
def State.readWaitons (s : State) (part : Nat) : State :=
  match s.part? part with
  | none => s
  | some p => (p.unit.jobs.filter fun j => j.eligible.isNone && !j.closed).foldl (fun (s : State) j => s.readWaiton part j) s

/-- A job enters the unit with the next arrival number (R42). -/
def State.addJob (s : State) (part : Nat) (j : Job) : Nat × State :=
  let num := match s.part? part with
    | some p => p.unit.arrivals
    | none => 0
  let s := s.modUnit part fun u => { u with
    arrivals := (u.arrivals + 1) % 2 ^ 32, jobs := u.jobs ++ [{ j with num := num }] }
  (num, s)

/-- The job of a launch record (R34). -/
def jobOfRecord (r : List Byte) (vf : Option Nat) : Job :=
  { num := 0, inv := none, policy0 := false, image := fieldAt r 0 8, param := fieldAt r 8 8, gangcount := fieldAt r 0x10 4
    gangsize := fieldAt r 0x14 2, panmask := fieldAt r 0x16 1, prio := fieldAt r 0x17 1, completion := fieldAt r 0x18 8
    waiton := fieldAt r 0x20 8, jobseed := wordAt r 0x28, affinity := fieldAt r 0x30 2, flags := fieldAt r 0x32 2
    quantum := fieldAt r 0x34 2, msivec := fieldAt r 0x36 2, vf := vf, eligible := none, allPlaced := none, hdr := none
    next := 0, ended := 0, status := 0, cancelled := false, closed := false, acked := 0 }

/-- Submits a record for a partition with its label: the outcome of R37 and the arrival number (R37, R41 to R43, R46). -/
def State.submitRecord (s : State) (part : Option Nat) (r : List Byte) (label : Label) (vf : Option Nat) (program : Bool) :
    Nat × Nat × State :=
  match part.bind s.part? with
  | none => (2, 0, s)
  | some p =>
    if p.retiring || !labelLe label (partLabel p.num) then (2, 0, s)
    else if !s.recordOk p.num r program then (3, 0, s)
    else if 256 ≤ p.recordsAt (fieldAt r 0x17 1) then (1, 0, s)
    else
      let j := jobOfRecord r vf
      let (num, s) := s.addJob p.num j
      let s := if j.waiton = 0 then s.makeEligible p.num num
        else (s.readWaiton p.num { j with num := num }).scheduleOnce (s.time.cycle + 4096) (.waitonPoll p.num)
      (0, num, s)

/-- `launch`: submits the record at a; the outcome returns within 16 cycles and one leg (R146, R451). -/
def execLaunch (d a : Reg) (s : State) : Result :=
  s.issue { Uses.none with dests := [d], srcs := [(a, false)], mem := true } fun s =>
    let va := s.val a
    if va.toNat % 8 ≠ 0 then .next (s.fail .align va 0 [a] 0)
    else if s.readHeld va 64 then .next (s.hold .waits)
    else
      match s.readVa s.t.ident.part s.t.localPan va 64 s.t.isTask with
      | .error ((c, info), addr) =>
        .next (s.fail c addr info [a] (s.labelsBefore s.t.ident.part s.t.localPan va 64 addr s.t.isTask))
      | .ok (r, l) =>
        let s := s.blockRead va 64
        let label := s.resultLabel [a]
        let (outcome, num, s) := s.submitRecord (some s.t.ident.part) r (label ||| l) none true
        let (fid, s) := s.newHeldFill [d] 1 label 0 .plain true false
        .next ((s.deliver fid 0 (BitVec.ofNat 64 (outcome + num * 2 ^ 16)) none (16 + leg 1)).goOn true 4)

/-! ## The launch window (R40, R41) -/

/-- Bytes put into a list of cells of a window. -/
def stagePut (m : List Host.Cell) (off : Nat) (bs : List Byte) : List Host.Cell := cellsWrite m off bs

/-- Changes a virtual function. -/
def State.modVf (s : State) (vf : Nat) (f : VirtFn → VirtFn) : State :=
  { s with vfs := s.vfs.map fun v => if v.num = vf then f v else v }

/-- A slot of a launch window is submitted: its status word takes the outcome (R40, R41). -/
def State.submitSlot (s : State) (v : VirtFn) (k : Nat) : State :=
  let r := (List.range 64).map fun i => cellGet v.staging (64 * k + i)
  let part := if v.valid then some v.part else none
  let (outcome, num, s) := s.submitRecord part r (partLabel v.part) (some v.num) false
  let old := ((v.status.find? fun x => x.1 = k).map Prod.snd).getD 0xFFFF
  let word := if outcome = 0 then BitVec.ofNat 64 (num * 2 ^ 16) else putField old 0 16 outcome
  s.modVf v.num fun v => { v with status := (k, word) :: v.status.filter fun x => x.1 ≠ k }

/-- `LAUNCH_WINDOW_SUBMIT`: a host write to a launch window: bytes of staging slots are stored, and every slot whose byte 0x3F is
among them is submitted; before PWRGD the host port is in reset, and nothing arrives (R40, R425). -/
def execLaunchWindowSubmit (vf off : Nat) (data : List Byte) (s : State) : Result :=
  if !s.dev.pwrgd then .next s else
  let bs := data.take (0x800 - off)
  let s := s.modVf vf fun v => { v with staging := stagePut v.staging off bs }
  let slots := (List.range 32).filter fun k => off ≤ 64 * k + 63 && 64 * k + 63 < off + bs.length
  .next (slots.foldl (fun (s : State) k =>
    match s.vfs.find? fun v => v.num = vf with
    | some v => s.submitSlot v k
    | none => s) s)

/-- QUEUEFREE of a partition (R41). -/
def Part.queueFree (p : Part) : Word :=
  BitVec.ofNat 64 ((List.range 4).foldl (fun n k => n + (256 - p.recordsAt k) * 2 ^ (16 * k)) 0)

/-- `WAITON_POLL`: the wait-on words are read again (R46). -/
def execWaitonPoll (part : Nat) (s : State) : Result :=
  let s := s.readWaitons part
  let waits := match s.part? part with
    | some p => p.unit.jobs.any fun j => j.eligible.isNone && !j.closed
    | none => false
  .next (if waits then s.scheduleOnce (s.time.cycle + 4096) (.waitonPoll part) else s)

/-! ## Completion (R16, R44, R45, R53) -/

/-- Writes a completion word for a partition, in the Pan store with its tag set full (R44); none where it cannot be written
(R45). -/
def State.writeCompletion (s : State) (part va : Nat) (w : Word) : Option State :=
  match s.placeOf part 0 (BitVec.ofNat 64 va) writeKind false with
  | .error _ => none
  | .ok t =>
    if !labelLe (partLabel part) t.label then none
    else
      match t.loc with
      | .pan n pa =>
        let s := s.store t.loc 8 w.toNat
        some (({ s with mem := s.mem.setTag n pa true }).tagChanged t.loc)
      | .hbm pa => some ((s.fillSector part 0 pa t.noalloc).store t.loc 8 w.toNat)

/-- The virtual function that a launch's vector is raised on (R45). -/
def State.vectorOn (s : State) (part : Nat) (j : Job) : Option Nat :=
  match j.vf with
  | some v => some v
  | none => (s.vfsOf part).foldl (fun (b : Option Nat) v => match b with
    | some n => some (min n v.num)
    | none => some v.num) none

/-- The page of a completion word is moving, which holds its write (R70). -/
def State.wordMoves (s : State) (part va : Nat) : Bool :=
  match namedWindow va with
  | some (n, off) => (s.mapEntry part n (off / 8192)).moving
  | none => false

/-- `COMPLETION_WRITE`: the completion word of a launch is written, or a COMPFAIL event placed; then its vector is raised and
wait-on words are read again (R44 to R46). -/
def execCompletionWrite (part seq : Nat) (s : State) : Result :=
  match s.job? part seq with
  | none => .next s
  | some j =>
    if s.wordMoves part j.completion then .next (s.schedule (s.time.cycle + 16) (.completionWrite part seq))
    else
      let s := s.modUnit part fun u => { u with jobs := u.jobs.filter fun x => x.num ≠ seq }
      let w : Word := BitVec.ofNat 64 (j.status + j.ended % 2 ^ 32 * 2 ^ 16 + 2 ^ 63)
      let s := if j.completion = 0 then s
        else
          match s.writeCompletion part j.completion w with
          | some s => s
          | none => s.fault part ⟨0x21, 0, j.status, [BitVec.ofNat 64 j.num]⟩
      let s := if j.flags.testBit 2 then
          match s.vectorOn part j with
          | some v => s.push (.msixRaise v j.msivec)
          | none => s
        else s
      .next (s.readWaitons part)

/-- A vector of a function is masked (R45). -/
def State.vectorMasked (s : State) (vf vec : Nat) : Bool := s.vfs.any fun v => v.num = vf && v.masked.getLsbD vec

/-- `MSIX_RAISE`: a vector is raised on a virtual function; a masked one sets its pending bit (R45; how vectors
are masked and unmasked is no part of the model, assumption 106). -/
def execMsixRaise (vf vec : Nat) (s : State) : Result :=
  .next (if s.vectorMasked vf vec then s.modVf vf fun v => { v with pending := v.pending ||| BitVec.ofNat 64 (2 ^ vec) }
    else s.emit (.msix vf vec))

/-- A handler gang by policy 0, or an invocation that fails a check, ends with an error completion to its sender: over a link its 8
bytes of g1, with their label, pass the Sluice, and a refusal is an event of the partition (R52, R376, R377, R393; the way back to
the sender's partition is that of assumption 103). -/
def State.errorCompletion (s : State) (part : Nat) (inv : Invocation) (code pcOff : Nat) (g1 : Word) (l : Label) (status : Nat) : State :=
  let ev : FaultEvent :=
    ⟨0x0F, code, inv.handler % 256 + status * 2 ^ 16, [0, BitVec.ofNat 64 pcOff, g1, BitVec.ofNat 64 s.dev.chip]⟩
  match inv.port with
  | none => s.push (.handlerErrorCompletion part ev)
  | some p =>
    match s.sluice part l (.chip inv.fromChip) 8 with
    | .ok (_, s) => s.emit (.handlerError p inv.fromChip part ev)
    | .error r => s.sluiceEvent part r 0 l inv.fromChip

/-- `HANDLER_ERROR_COMPLETION`: an error completion reaches the sending partition's fault queue (R52). -/
def execHandlerErrorCompletion (part : Nat) (ev : FaultEvent) (s : State) : Result := .next (s.fault part ev)

/-- A job that failed a check, or whose gangs have all ended, completes: a launch by its word, an invocation by its error
completion, or silently; a cancelled invocation ends silently (R38, R50 to R53; assumption 42). -/
def State.finishJob (s : State) (part : Nat) (j : Job) (status : Nat) : State :=
  match j.inv with
  | none => s.closeJob part j status
  | some i =>
    let s := s.modUnit part fun u => { u with jobs := u.jobs.filter fun x => x.num ≠ j.num }
    if status = 0 || status = 0x10A then s else s.errorCompletion part i 0 0 (i.data.getD 0 0) (i.labels.getD 0 0) status

/-- A launch completes when every gang it will place has ended (R38, R53). -/
def State.checkJob (s : State) (part num : Nat) : State :=
  match s.job? part num with
  | none => s
  | some j =>
    if j.closed || j.ended < j.next then s
    else if j.cancelled then s.finishJob part j 0x10A
    else if j.next = j.gangcount && j.hdr.isSome then s.finishJob part j 0
    else s

/-- A gang ends: its barrier units are free, a policy-0 end is reported, and its launch is accounted (R16, R52, R143). -/
def State.endGang (s : State) (g : Gang) : State :=
  let s := { s with gangs := s.gangs.filter fun x => x.gid ≠ g.gid }.foldOver g.gid
  let s := match g.killed, g.handler with
    | some (code, off, g1, l), some i => s.errorCompletion g.part i code off g1 l 0
    | _, _ => s
  let s := if g.responder then s
    else (s.modJob g.part g.seq fun j => { j with ended := j.ended + 1 }).checkJob g.part g.seq
  s.askPass g.part

/-- Records and invocations that a test picks are cancelled: those that have placed nothing complete at once, the others when
their gangs have ended (R53). -/
def State.cancelJobs (s : State) (part : Nat) (pick : Job → Bool) : State :=
  match s.part? part with
  | none => s
  | some p => (p.unit.jobs.filter fun j => pick j && !j.closed).foldl (fun (s : State) j =>
      (s.modJob part j.num fun j => { j with cancelled := true }).checkJob part j.num) s

/-! ## Invocations (R49 to R51) -/

/-- The job of an accepted invocation, from its handler's entry (R49 to R51). It has no parameter block, for which an image
that asks for one is given VA 0 (assumption 41). -/
def jobOfEntry (i : Invocation) (e : List Byte) (prio : Nat) : Job :=
  let ctl := fieldAt e 0xA 1
  { num := 0, inv := some i, policy0 := !ctl.testBit 2, image := fieldAt e 0 8, param := 0, gangcount := 1
    gangsize := fieldAt e 8 2, panmask := 0, prio := prio, completion := 0, waiton := 0, jobseed := wordAt e 0x18
    affinity := 0, flags := 0, quantum := 0, msivec := 0, vf := none, eligible := none, allPlaced := none, hdr := none
    next := 0, ended := 0, status := 0, cancelled := false, closed := false, acked := 0 }

/-- An entry of the handler table is valid, with no reserved bit set (R49, R50). -/
def entryOk (e : List Byte) : Bool :=
  let ctl := fieldAt e 0xA 1
  ctl.testBit 7 && bitsAt ctl 3 4 = 0 && zeroAt e 0xB 1 && fieldAt e 0xC 2 < 4096 && fieldAt e 0xE 2 < 4096 && zeroAt e 0x14 4

/-- The local partition that an invocation is for: the sender's own in its chip, else that of the port's map (R50, R147). -/
def State.senderHere (s : State) (i : Invocation) : Option Nat :=
  match i.port with
  | none => i.part
  | some n => s.localOf n i.part

/-- The checks of R50 in their order: the status, and the state with the invocation accepted. -/
def State.acceptInvocation (s : State) (i : Invocation) : Nat × State :=
  match (s.senderHere i).bind s.part? with
  | none => (2, s)
  | some p =>
    if p.retiring || p.regs.htbase = 0 then (2, s)
    else
      match s.unitRead p.num (p.regs.htbase + BitVec.ofNat 64 (32 * i.handler)) 32 with
      | none => (2, s)
      | some (e, l) =>
        let labels : List (Option Label) := i.labels.map fun l => match i.port with
          | none => some l
          | some n => (s.port? n).bind fun q => mapIn q p.num l
        let args := labels.foldl (fun (u : Label) x => u ||| x.getD 0) 0
        let prio := min i.prio (fieldAt e 0xA 1 % 4)
        if l ≠ partLabel p.num || !entryOk e then (2, s)
        else if Nat.land i.fromChip (fieldAt e 0xE 2) ≠ Nat.land (fieldAt e 0xC 2) (fieldAt e 0xE 2) then (2, s)
        else if !(labels.all Option.isSome) || !labelLe args (BitVec.ofNat 32 (fieldAt e 0x10 4)) then (2, s)
        else if 64 ≤ (p.unit.jobs.filter fun j => j.inv.isSome && j.prio = prio).length then (1, s)
        else
          let i := { i with labels := labels.map fun x => x.getD 0 }
          let (num, s) := s.addJob p.num (jobOfEntry i e prio)
          (0, s.makeEligible p.num num)

/-- `INVOCATION_ARRIVAL`: an invocation is accepted or refused at once, and its sender answered (R50, R147). -/
def execInvocationArrival (inv : Invocation) (s : State) : Result :=
  let (status, s) := s.acceptInvocation inv
  match inv.port with
  | none => .next (s.deliver inv.reply 0 (BitVec.ofNat 64 status) none (16 + leg 1))
  | some p => .next (s.emit (.answer p inv.reply status))

/-- `invoke`: sends g1 to g6 to a handler of a chip (R147). -/
def execInvoke (d a b : Reg) (prio : Fin 4) (s : State) : Result :=
  let args : List Reg := [1, 2, 3, 4, 5, 6]
  let reads := [a, b] ++ args
  s.issue { Uses.none with dests := [d], srcs := reads.map fun r => (r, false) } fun s =>
    let chip := (s.val a).toNat
    let handler := (s.val b).toNat
    let part := s.t.ident.part
    let label := s.resultLabel [a, b]
    let give (s : State) (v : Word) : Result := .next ((s.write d v label).retire 4)
    let labels := args.map fun r => s.resultLabel [r]
    let all := labels.foldl (fun (u : Label) l => u ||| l) 0
    let data := args.map s.val
    if 4095 < chip || 255 < handler then give s 3
    else if chip = s.dev.chip then
      let (fid, s) := s.newFill [d] 1 label 0 .plain false false
      let i : Invocation := ⟨chip, none, some part, handler, prio.val, data, labels, fid⟩
      .next ((s.schedule (s.time.cycle + leg 4) (.invocationArrival i)).retire 4)
    else
      match (s.portFor chip).filter Port.attested with
      | none => give s 4
      | some p =>
        match s.sluice part all (.chip chip) 48 with
        | .error r => give (s.sluiceEvent part r 0 all chip) 2
        | .ok (_, s) =>
          let (fid, s) := s.newFill [d] 1 label 0 .plain false false
          let out := labels.map fun l => match mapOut p part l with
            | .ok m => m
            | .error _ => 0
          .next ((s.emit (.invoke p.num chip ⟨s.dev.chip, some p.num, some part, handler, prio.val, data, out, fid⟩)).retire 4)

/-! ## Placing gangs (R47, R61, R62, R65) -/

/-- Numbers from h circularly through a range of n. -/
def circular (n h : Nat) : List Nat := (List.range n).map fun k => (h + k) % n

/-- The trellises of a Pan in the order of R61. -/
def State.trellisOrder (s : State) (part pan h : Nat) : List Nat :=
  let cellars := match s.part? part with
    | some p => p.own.cellars.getD pan 0
    | none => 0
  let order := circular 128 (h % 128)
  (order.filter fun t => cellars.testBit t) ++ order.filter fun t => !cellars.testBit t

/-- The FREE slots of a partition in a Pan in the order of R61. -/
def State.freeSlots (s : State) (part pan h : Nat) : List (Nat × Nat) :=
  (s.trellisOrder part pan h).flatMap fun t =>
    (placeCores (128 * pan + t)).flatMap fun c =>
      ((bitsOf 16 (s.slotMask part c)).filter fun n => s.slotFree c n).map fun n => (c, n)

/-- The free barrier units of a Pan, in ascending order (R330). -/
def State.freeUnits (s : State) (pan : Nat) : List Nat :=
  let used := (s.gangs.filter fun g => g.pan = pan && g.folded.isNone).flatMap fun g => g.bars.map Barrier.unit
  (List.range 64).filter fun u => !used.contains u

/-- The lanes that the claims of threads need in each receiving trellis are free (R183). -/
def State.lanesFit (s : State) (part : Nat) (ts : List Thread) (places : List (Nat × Nat)) : Bool :=
  let pairs := (List.zip ts places).map fun x => (x.2.1 / 8, x.1.claim.lanes)
  (pairs.map Prod.fst).eraseDups.all fun k =>
    let need := ((pairs.filter fun x => x.1 = k).map Prod.snd).foldl (· + ·) 0
    need = 0 || s.lanesHeld part (k / 128) (k % 128) + need ≤ s.vlaneq part

/-- The state of a thread of a new gang (R15, R51). -/
def Job.beginning (j : Job) (h : Header) (part lthread : Nat) (vec : Word) : Beginning :=
  let own := partLabel part
  let base := j.image + 64
  let regs := match j.inv with
    | none => startRegs [if h.paramsize = 0 then 0 else BitVec.ofNat 64 j.param, BitVec.ofNat 64 lthread] own
    | some i =>
      let rs := startRegs (i.data ++ [BitVec.ofNat 64 i.fromChip, BitVec.ofNat 64 lthread]) own
      Vector.ofFn fun (r : Fin 32) =>
        if 1 ≤ r.val && r.val ≤ 6 then { rs[r] with label := i.labels.getD (r.val - 1) 0 } else rs[r]
  ⟨BitVec.ofNat 64 (base + h.entry), regs, own, h.livemask, vec, seedOf j.jobseed lthread, own⟩

/-- A new gang is placed: its slots and barrier units are taken in one step, and its threads are ready together (R15, R62). -/
def State.placeGang (s : State) (part pan : Nat) (j : Job) (h : Header) (places : List (Nat × Nat)) (units : List Nat) :
    State :=
  let (gid, s) := s.fresh
  let num : Word := BitVec.ofNat 64 (j.next + j.num * 2 ^ 32)
  let vec := if h.trapoff = 0xFFFFFFFF then none else some (BitVec.ofNat 64 (j.image + 64 + h.trapoff))
  let g : Gang :=
    { gid := gid, part := part, pan := pan, num := num, seq := j.num, image := j.image, vlanes := h.vlanes
      nbars := h.barriers, trapvec := vec, livemask := h.livemask, patches := h.patches, plabel := h.plabel, js := j.jobseed
      size := j.gangsize, affinity := j.affinity, placed := s.time.cycle, handler := j.inv, policy0 := j.policy0
      killed := none, responder := false
      bars := (units.take h.barriers).map fun u => ⟨0, 0, j.gangsize, partLabel part, u⟩
      perf := List.replicate 8 0, folding := false, forced := false, folded := none, cmds := [] }
  let s := { s with gangs := s.gangs ++ [g] }
  let s := (List.zip (List.range j.gangsize) places).foldl (fun (s : State) x =>
    s.startThread (j.beginning h part x.1 (s.gangVec g)) ⟨0, part, gid, num, x.1, 0, 0, 0, 0, j.jobseed, 0, 0, false⟩ x.2.1 x.2.2) s
  let now := s.time.cycle
  s.modJob part j.num fun j => { j with
    next := j.next + 1, allPlaced := if j.next + 1 = j.gangcount then some now else j.allPlaced }

/-! ## Choosing the next gang (R47, R48, R51) -/

/-- The effective priority of a job at a cycle (R47). -/
def Job.effective (j : Job) (now : Nat) : Nat :=
  match j.eligible with
  | none => j.prio
  | some e =>
    let till := match j.allPlaced with
      | some a => min a now
      | none => now
    min 3 (j.prio + (till - e) / 2 ^ 20)

/-- The Pans that a job may be placed in (R47). -/
def State.jobMask (s : State) (part : Nat) (j : Job) : Nat :=
  let own := match s.part? part with
    | some p => p.own.panmask
    | none => 0
  if j.panmask = 0 then own else Nat.land j.panmask own

/-- The folded gang of a job in a Pan, the lowest in number (R47, R65). -/
def State.foldedGang (s : State) (part pan : Nat) (j : Job) : Option Gang :=
  (s.gangs.filter fun g => g.part = part && g.pan = pan && g.seq = j.num && !g.responder && g.folded.isSome).foldl
    (fun (b : Option Gang) g => match b with
      | some x => if g.num.toNat < x.num.toNat then some g else b
      | none => some g) none

/-- A job has a gang that is unplaced or folded (R47). -/
def State.isCandidate (s : State) (part : Nat) (j : Job) : Bool :=
  j.eligible.isSome && !j.closed &&
    ((j.next < j.gangcount && !j.cancelled) ||
      s.gangs.any fun g => g.part = part && g.seq = j.num && !g.responder && g.folded.isSome)

/-- The candidates of a partition, highest effective priority first, then in their order of arrival, which is that of the
unit's list (R47). -/
def State.candidates (s : State) (part : Nat) : List Job :=
  match s.part? part with
  | none => []
  | some p =>
    let now := s.time.cycle
    sortBy (fun x y => y.effective now ≤ x.effective now) (p.unit.jobs.filter fun j => s.isCandidate part j)

/-- RunChecks: the checks of R20 and then those of R39 (R20, R39, R47; assumption 105). -/
def State.runChecks (s : State) (part : Nat) (j : Job) : Except Nat Header :=
  match s.imageChecks part j.image j.gangsize j.param with
  | .error e => .error e
  | .ok h =>
    let slots := match s.part? part with
      | some p => onesBelow 16 p.own.slotmask
      | none => 0
    if s.jobMask part j = 0 then .error 0x107
    else if 1024 * slots < j.gangsize then .error 0x108
    else .ok h

/-- A job is started, or completed with the status of a failed check; the state and its image (R20, R47). -/
def State.startJob (s : State) (part : Nat) (j : Job) : Option Header × State :=
  match j.hdr with
  | some h => (some h, s)
  | none =>
    match s.runChecks part j with
    | .error e => (none, s.finishJob part { j with next := 0, ended := 0 } e)
    | .ok h => (some h, s.modJob part j.num fun j => { j with hdr := some h })

/-- A job has nothing to place in a Pan: no gang of it is folded there, and it has no new one to place (R47, R53). -/
def State.idleIn (s : State) (part pan : Nat) (j : Job) : Bool :=
  (j.gangcount ≤ j.next || j.cancelled) && (s.foldedGang part pan j).isNone

/-- What a job would place next in a Pan: a folded gang, or a new one with its slots and units where it fits (R47, R65,
R183). -/
def State.tryPlace (s : State) (part pan : Nat) (j : Job) (h : Header) : Option State :=
  match s.foldedGang part pan j with
  | some g =>
    let ts := s.foldThreads g.gid
    let places := (s.freeSlots part pan g.affinity).take ts.length
    let units := s.freeUnits pan
    if places.length < ts.length || units.length < g.bars.length || !s.lanesFit part ts places then none
    else some (s.unfold g places units)
  | none =>
    if j.gangcount ≤ j.next || j.cancelled then none
    else
      let places := (s.freeSlots part pan j.affinity).take j.gangsize
      let units := s.freeUnits pan
      if places.length < j.gangsize || units.length < h.barriers then none
      else some (s.placeGang part pan j h places units)

/-- The slots that a gang would give back in its Pan. -/
def State.gangSlots (s : State) (g : Gang) : Nat :=
  (s.gangThreads g.gid).foldl (fun n t =>
    n + 1 + (if isCompute t.core && corePan t.core = g.pan && !(t.core = t.ident.core0 && t.slot = t.ident.slot0) then 1 else 0)) 0

/-- Gangs folded one after the other until a need of slots and units is met, one that lacks records beside the others being
passed by; none where they do not suffice (R48, R64). -/
def State.victimsFor (s : State) (slots units : Nat) : List Gang → Option (List Gang)
  | [] => if slots = 0 && units = 0 then some [] else none
  | g :: gs =>
    if slots = 0 && units = 0 then some []
    else if !s.canFold g then s.victimsFor slots units gs
    else ((s.modGang g.gid fun g => { g with folding := true }).victimsFor (slots - s.gangSlots g) (units - g.bars.length) gs).map fun l => g :: l

/-- The effective priority of a gang's launch. -/
def State.gangPrio (s : State) (g : Gang) : Nat :=
  match s.job? g.part g.seq with
  | some j => j.effective s.time.cycle
  | none => 0

/-- The gangs that may be folded for a candidate in a Pan, in the order of R48 and R51, as the lists that are tried in turn: an
invocation has no PREEMPT, and one accepted at priority 3 first tries the gangs of priority 0 (assumption 45). -/
def State.foldable (s : State) (part pan : Nat) (j : Job) : List (List Gang) :=
  let now := s.time.cycle
  let mine := s.gangs.filter fun g =>
    g.part = part && g.pan = pan && g.folded.isNone && !g.responder && g.seq ≠ j.num && s.canFold g
  let prio := j.effective now
  let lowFirst (x y : Gang) : Bool :=
    s.gangPrio x < s.gangPrio y || (s.gangPrio x = s.gangPrio y && y.placed ≤ x.placed)
  let sliced (g : Gang) : Bool := match s.job? part g.seq with
    | some x => x.flags.testBit 1 && s.gangPrio g ≤ prio && g.placed + x.quantum * 1024 ≤ now
    | none => false
  if j.flags.testBit 0 then [sortBy lowFirst (mine.filter fun g => s.gangPrio g < prio)]
  else
    (if j.inv.isSome && j.prio = 3 then [sortBy lowFirst (mine.filter fun g => s.gangPrio g = 0)] else []) ++
      [sortBy (fun x y => x.placed ≤ y.placed) (mine.filter sliced)]

/-- The slots and units that a job lacks in a Pan. -/
def State.lacking (s : State) (part pan : Nat) (j : Job) (h : Header) : Nat × Nat :=
  let (n, u) := match s.foldedGang part pan j with
    | some g => ((s.foldThreads g.gid).length, g.bars.length)
    | none => (j.gangsize, h.barriers)
  (n - (s.freeSlots part pan 0).length, u - (s.freeUnits pan).length)

/-- Folds gangs to make room for a candidate in a Pan, and keeps the Pan for it meanwhile; none where they would not suffice
(R48, R51). -/
def State.foldFor (s : State) (part pan : Nat) (j : Job) (h : Header) : Option State :=
  let need := s.lacking part pan j h
  if (need.1 = 0 && need.2 = 0) || s.idleIn part pan j then none
  else
    match (s.foldable part pan j).findSome? fun l => s.victimsFor need.1 need.2 l with
    | none => none
    | some gs =>
      let s := s.modUnit part fun u => { u with folds := (pan, j.num) :: u.folds }
      some (gs.foldl (fun (s : State) g =>
        (s.modGang g.gid fun g => { g with folding := true }).schedule (s.time.cycle + 16) (.fold part g.gid 1)) s)

/-- What a Pan does with its candidates in order: the state, and whether the Pan is to be treated again (R47). -/
def State.panStep (s : State) (part pan : Nat) : List Job → Bool × State
  | [] => (false, s)
  | j :: js =>
    if !(s.jobMask part j).testBit pan || s.idleIn part pan j then s.panStep part pan js
    else
      match s.startJob part j with
      | (none, s) => (true, s)
      | (some h, s) =>
        match s.tryPlace part pan j h with
        | some s => (true, s)
        | none => (false, (s.foldFor part pan j h).getD s)

/-- A responder gang that is folded in a Pan is placed again as soon as it fits, before the candidates, in the order of
R61 from its old trellis (R65, R366; assumption 47). -/
def State.placeResponders (s : State) (part pan : Nat) : State :=
  (s.gangs.filter fun g => g.part = part && g.pan = pan && g.responder && g.folded.isSome).foldl (fun (s : State) g =>
    let ts := s.foldThreads g.gid
    let places := (s.freeSlots part pan (g.num.toNat % 128)).take ts.length
    if places.length < ts.length || !s.lanesFit part ts places then s else s.unfold g places []) s

/-- A Pan is treated until nothing more happens in it (R47). -/
def State.panPass (s : State) (part pan : Nat) : Nat → State
  | 0 => s
  | n + 1 =>
    match s.panStep part pan (s.candidates part) with
    | (true, s) => s.panPass part pan n
    | (false, s) => s

/-- A Pan that is kept for a candidate for which gangs were folded: it is placed when the folds have ended (R48). -/
def State.keptPan (s : State) (part pan : Nat) : Bool × State :=
  match (s.part? part).bind fun p => p.unit.folds.find? fun x => x.1 = pan with
  | none => (true, s)
  | some x =>
    if s.gangs.any fun g => g.part = part && g.pan = pan && g.folding then (false, s)
    else
      let s := s.modUnit part fun u => { u with folds := u.folds.filter fun y => y.1 ≠ pan }
      match s.job? part x.2 with
      | some j =>
        match j.hdr with
        | some h => (true, (s.tryPlace part pan j h).getD s)
        | none => (true, s)
      | none => (true, s)

/-- `LAUNCH_PLACEMENT_PASS`: the launch unit of a partition treats its Pans in ascending order; candidates that no Pan may take
are checked at once (R47). -/
def execLaunchPlacementPass (part : Nat) (s : State) : Result :=
  match s.part? part with
  | none => .next s
  | some p =>
    let lost := (s.candidates part).filter fun j => j.hdr.isNone && s.jobMask part j = 0
    let s := lost.foldl (fun (s : State) j => (s.startJob part j).2) s
    .next ((bitsOf 8 p.own.panmask).foldl (fun (s : State) n =>
      match s.keptPan part n with
      | (false, s) => s
      | (true, s) => (s.placeResponders part n).panPass part n 65536) s)

/-- `PRIORITY_AGING`: effective priorities may have changed (R47). -/
def execPriorityAging (s : State) : Result := .next (s.parts.foldl (fun (s : State) p => s.askPass p.num) s)

end Sys2Proof.Machine
end

