-- ==== Sys2Proof/Machine/Sync.lean ====
section
/-! DEFINITION. Waiting and ordering: `park`, `sleep`, the barriers and the fences, and the migration group (R257 to
R259, R323 to R336, R346). -/

namespace Sys2Proof.Machine

open Sys2Proof

/-! ## Watching a word (R324 to R326) -/

/-- `park`: waits while a word equals b, with the timeout in d, which then receives the status (R324). -/
def execPark (d a b : Reg) (ta tb : Bool) (s : State) : Result :=
  memIssue [d] [(a, ta), (b, tb), (d, false)] a 0 8 s fun s ea =>
    s.returning ea true false [d] [a, b, d] (s.lbl a) fun s x way =>
      let l := s.resultLabel [a, b, d]
      let op := MemOp.park (s.val b) (fieldOf (s.val d) 0 32)
      let (fid, s) := s.newFill [d] 1 (l ||| x.rlabel) x.rlabel .plain true true
      let (id, s) := s.send op x ea l way false (some fid) 16
      .next (s.proxyLegs way fid id).waitHere

/-- `PARK_TIMEOUT`: the timeout of a watch expires (R326). -/
def execParkTimeout (uid stamp : Nat) (s : State) : Result :=
  match s.fab.waiters.find? fun w => w.acc = stamp && w.watch with
  | none => .next s
  | some w =>
    match s.acc? w.acc with
    | some a => .next (if a.uid = uid then s.endWatch stamp stTimeout else s)
    | none => .next s

/-! ## Sleep (R327, R328) -/

/-- A `sleep` ends with a status: the wake bit is consumed when it was woken, and d is written (R328). -/
def State.endSleep (s : State) (uid : Nat) (woken : Bool) : State :=
  match s.thread uid with
  | none => s
  | some t =>
    match t.prog with
    | .stage d l _ =>
      let rec_ := s.slot t.ident.core0 t.ident.slot0
      let t := if woken then
          { t.joinClabel rec_.wakeLabel with ctl := { (t.joinClabel rec_.wakeLabel).ctl with
              vclock := if rec_.wakeClock.isEmpty then t.ctl.vclock else joinClock t.ctl.vclock rec_.wakeClock } }
        else t
      let v := if woken then stOk else stTimeout
      let r : Reg := ⟨d % 32, Nat.mod_lt _ (by decide)⟩
      let t := t.write r v (t.ctl.clabel ||| l.setWidth 32)
      let t := { t with pc := t.pc + 4, run := .ready, prog := .fresh }
      let s := s.modThread uid fun _ => t
      if woken then s.setSlot { rec_ with wake := false, wakeLabel := 0, wakeClock := [] } else s
    | .fresh | .counting _ | .asked _ | .answered _ _ | .results _ _ _ | .waits | .discards _ => s

/-- A `sleep` finds the wake bit set: d is written, then CLABEL joins the wake label, and the bit is consumed (R328). -/
def State.consumeWake (s : State) (d a : Reg) : State :=
  let rec_ := s.slot s.t.ident.core0 s.t.ident.slot0
  let s := (s.write d stOk (s.resultLabel [a])).joinClabel rec_.wakeLabel
  let s := { s with t := if rec_.wakeClock.isEmpty then s.t else s.t.joinPast rec_.wakeClock }
  (s.setSlot { rec_ with wake := false, wakeLabel := 0, wakeClock := [] }).retire 4

/-- `sleep`: consumes the wake bit of the placement slot, or waits for it (R328). -/
def execSleep (d a : Reg) (ta _tb : Bool) (s : State) : Result :=
  s.issue { Uses.none with dests := [d], srcs := [(a, ta)] } fun s =>
    if (s.slot s.t.ident.core0 s.t.ident.slot0).wake then .next (s.consumeWake d a)
    else
      let la := s.lbl a ||| s.t.patched
      let (n, s) := s.fresh
      let timeout := fieldOf (s.val a) 0 32
      let s := { s with t := { s.t with stamp := n } }
      let s := s.leave .sleeping (.stage d.val (la.setWidth 64) 0)
      .next (if timeout = 0 then s else s.schedule (s.time.cycle + timeout) (.sleepTimeout s.t.ident.uid n))

/-- `SLEEP_TIMEOUT`: the timeout of a sleep expires (R328). -/
def execSleepTimeout (uid stamp : Nat) (s : State) : Result :=
  match s.thread uid with
  | none => .next s
  | some t => .next (if t.run == .sleeping && t.stamp = stamp then s.endSleep uid false else s)

/-! ## Barriers (R330 to R333) -/

/-- The barriers of the gang of the thread at its turn. -/
def State.bars (s : State) : List Barrier :=
  match s.gang? s.t.ident.gang with
  | some g => g.bars
  | none => []

/-- The core of the thread lacks the barrier units of its gang's Pan (R330). -/
def Thread.awayFromPan (t : Thread) : Bool := !(isCompute t.core && corePan t.core = t.ident.pan)

/-- A request goes to a barrier unit, which performs it 7 cycles after its issue when nothing waits (R213, R330). -/
def State.askBarrier (s : State) (n token fid : Nat) (wait : Bool) (label : Label) : State :=
  let r : BarReq := ⟨s.t.ident.uid, s.t.ident.pan, s.t.ident.gang, n, wait, token, fid, s.time.cycle + 7, label, false⟩
  { s with fab := { s.fab with bars := s.fab.bars ++ [r] } }.scheduleOnce (s.time.cycle + 7)
    (.barrierRequest s.t.ident.pan (s.time.cycle + 7))

/-- `bar`: arrives at a barrier as a release and takes its token (R331). -/
def execBar (d : Reg) (n : Fin 4) (_ta _tb : Bool) (s : State) : Result :=
  s.issue { Uses.none with away := s.t.awayFromPan, dests := [d], mem := true } fun s =>
    if s.bars.length ≤ n.val then .next (s.fail .prot 0 (BitVec.ofNat 64 n.val) [] 0)
    else s.releaseWait true fun s =>
      let (fid, s) := s.newFill [d] 1 (s.resultLabel []) 0 .plain true false
      .next ((s.askBarrier n.val 0 fid false s.t.ctl.clabel).goOn true 4)

/-- `barw`: waits until the phase of a token has passed (R332). -/
def execBarw (d b : Reg) (n : Fin 4) (_ta tb : Bool) (s : State) : Result :=
  s.issue { Uses.none with away := s.t.awayFromPan, dests := [d], srcs := [(b, tb)] } fun s =>
    if s.bars.length ≤ n.val then .next (s.fail .prot 0 (BitVec.ofNat 64 n.val) [b] 0)
    else
      let token := fieldOf (s.val b) 0 16
      let (fid, s) := s.newFill [d] 1 (s.resultLabel [b]) 0 (.phase s.t.ident.gang n.val) true true
      .next (s.askBarrier n.val token fid true 0).waitHere

/-- A `barw` is answered with a status (R332); with OK its thread's causal past takes in what its Pan's die has applied, and so
that of every `bar` of the phase (R341; assumption 94). -/
def State.answerBarw (s : State) (r : BarReq) (status : Word) : State :=
  let s := { s with fab := { s.fab with bars := s.fab.bars.filter fun x => x.fill ≠ r.fill } }
  let s := if status = stOk then s.modThread r.uid fun t => t.joinPast (s.dclock r.pan) else s
  s.deliver r.fill 0 status none 8

/-- A phase completes: PHASE rises, ARRIVED becomes 0 and every waiter of the unit is released (R331, R332). -/
def State.completePhase (s : State) (g n : Nat) : State :=
  let s := s.modGang g fun x => { x with bars := x.bars.modify n fun b =>
    { b with phase := (b.phase + 1) % 2 ^ 16, arrived := 0 } }
  let waiters := s.fab.bars.filter fun r => r.listed && r.gang = g && r.n = n
  let s := waiters.foldl (fun (s : State) r => s.modThread r.uid fun t => { t with run := if t.run.stopped then t.run else .reply }) s
  waiters.foldl (fun (s : State) r => s.answerBarw r stOk) s

/-- A request is performed at its barrier unit (R331, R332). -/
def State.performBar (s : State) (r : BarReq) : State :=
  match (s.gang? r.gang).bind fun g => g.bars[r.n]? with
  | none => s
  | some b =>
    if r.wait then
      let delta := (b.phase + 2 ^ 16 - r.token) % 2 ^ 16
      if delta = 0 then
        let s := s.modThread r.uid fun t => { t with run := if t.run.stopped then t.run else .barred }
        { s with fab := { s.fab with bars := s.fab.bars.map fun (x : BarReq) =>
          if x.fill = r.fill then { x with listed := true } else x } }
      else s.answerBarw r (if delta = 1 then stOk else stStale)
    else
      let lb := b.lb ||| r.label
      let s := { s with fab := { s.fab with bars := s.fab.bars.filter fun x => x.fill ≠ r.fill } }
      let s := s.modGang r.gang fun g => { g with bars := g.bars.modify r.n fun b =>
        { b with arrived := b.arrived + 1, lb := lb } }
      let s := (s.modFill r.fill fun f => { f with label := f.label ||| lb }).deliver r.fill 0
        (BitVec.ofNat 64 b.phase) none 8
      if b.arrived + 1 = b.parts then s.completePhase r.gang r.n else s

/-- The place of a thread, for the order of requests in one cycle: package core number, then slot. -/
def State.placeKey (s : State) (uid : Nat) : Nat :=
  match s.thread uid with
  | some t => t.core * 16 + t.slot
  | none => 0

/-- Puts a request into a list in the order of its key. -/
def insertReq (key : BarReq → Nat) (r : BarReq) : List BarReq → List BarReq
  | [] => [r]
  | x :: xs => if key r < key x then r :: x :: xs else x :: insertReq key r xs

/-- A `bar` waits for its thread's causal past to have been applied at the die of its Pan, as an access there does (R341, R343;
assumption 94). -/
def State.barWaits (s : State) (r : BarReq) : Bool :=
  match s.thread r.uid with
  | some t => !r.wait && !s.causalOk r.pan t.ctl.vclock r.pan
  | none => false

/-- `BARRIER_REQUEST`: the requests that reach the barrier units of a Pan in a cycle: each unit performs the first in the
order of package core number and slot, and the others wait for the next cycle (R330). -/
def execBarrierRequest (pan cycle : Nat) (s : State) : Result :=
  let due := s.fab.bars.filter fun r => r.pan = pan && r.due ≤ cycle && !r.listed
  let order := due.foldl (fun l r => insertReq (fun x => s.placeKey x.uid) r l) []
  let step (acc : State × List (Nat × Nat)) (r : BarReq) : State × List (Nat × Nat) :=
    if acc.1.barWaits r || acc.2.contains (r.gang, r.n) then
      ({ acc.1 with fab := { acc.1.fab with bars := acc.1.fab.bars.map fun (x : BarReq) =>
        if x.fill = r.fill then { x with due := cycle + 1 } else x } }.scheduleOnce (cycle + 1)
          (.barrierRequest pan (cycle + 1)), acc.2)
    else (acc.1.performBar r, (r.gang, r.n) :: acc.2)
  .next (order.foldl step (s, [])).1

/-! ## Fences (R335, R336, R345, R346) -/

/-- The cycles a fence takes when nothing is outstanding (R335). -/
def fenceCycles (fn : Nat) : Nat :=
  match fn with
  | 0 => 0
  | 1 => 96
  | 2 => 256
  | _ => 512

/-- The fence cap of the partition of the thread at its turn, and its trap bit (R336). -/
def State.fenceCap (s : State) : Bool × Bool :=
  match s.part? s.t.ident.part with
  | some p => (p.fenceCap, p.fenceTrap)
  | none => (false, false)

/-- A fence completes: a demoted one sets FENCE_DEMOTED and may trap (R336). -/
def State.endFence (s : State) (fn : Nat) (demoted : Bool) : State :=
  if demoted then
    let s := { s with t := s.t.setStatus 15 1 1 }
    if s.fenceCap.2 then s.takeTrap .fencedem (s.t.pc + 4) 0 (BitVec.ofNat 64 fn) 0 else s.retire 4
  else s.retire 4

/-- The thread's earlier work has been performed, and for a system or global fence that is not demoted its exports have been
acknowledged by their destinations (R335, R345). -/
def State.fenceReady (s : State) (fn : Nat) (demoted : Bool) : Bool :=
  s.drained && (fn < 2 || demoted || s.ackedAt s.t.ident.uid ≤ s.time.cycle)

/-- The cycle in which the last of a fence's earlier work was performed (R335, R345). -/
def State.fenceBase (s : State) (fn : Nat) (demoted : Bool) : Nat :=
  if fn < 2 || demoted then s.t.lastPerf else max s.t.lastPerf (s.ackedAt s.t.ident.uid)

/-- A fence counts its figure from a cycle; a global one that is not demoted takes its number when it has counted
(R335, R346). -/
def State.countFence (s : State) (fn : Nat) (demoted : Bool) (base : Nat) : State :=
  let till := base + fenceCycles (if demoted then 1 else fn)
  if fn = 3 ∧ !demoted then
    let due := max till (s.time.cycle + 1)
    (s.hold (.asked due)).schedule due (.globalFenceOrdering s.t.ident.uid)
  else if till ≤ s.time.cycle then s.endFence fn demoted
  else s.hold (.counting till)

/-- A fence of a scope, 0 to 3: it waits until the thread's earlier work has been performed, then counts its figure from
the cycle in which the last of it was performed (R335). -/
def fence (fn : Nat) (s : State) : Result :=
  let demoted := 2 ≤ fn && s.fenceCap.1
  s.issue Uses.none fun s =>
    match s.t.prog with
    | .counting till => .next (if till ≤ s.time.cycle then s.endFence fn demoted else s.hold (.counting till))
    | .answered _ _ => .next (s.endFence fn demoted)
    | .results _ _ _ | .waits | .discards _ => .next s.idle
    | .asked n => .next (s.hold (.asked n))
    | .stage _ _ _ =>
      .next (if s.fenceReady fn demoted then s.countFence fn demoted (s.fenceBase fn demoted) else s.hold s.t.prog)
    | .fresh =>
      .next (if s.fenceReady fn demoted then s.countFence fn demoted s.time.cycle else s.hold (.stage 1 0 0))

/-- `fence.pan` (R335). -/
def execFencePan (_ta _tb : Bool) (s : State) : Result := fence 0 s
/-- `fence.tenant` (R335). -/
def execFenceTenant (_ta _tb : Bool) (s : State) : Result := fence 1 s
/-- `fence.system`, demoted by a fence cap (R335, R336). -/
def execFenceSystem (_ta _tb : Bool) (s : State) : Result := fence 2 s
/-- `fence.global`, numbered at the ordering point (R335, R346). -/
def execFenceGlobal (_ta _tb : Bool) (s : State) : Result := fence 3 s

/-- `GLOBAL_FENCE_ORDERING`: a global fence takes its number; G joins its VCLOCK, which joins G; entries of G that STABLE
has reached become 0 (R346). A fence that has been abandoned since takes none (R335). -/
def execGlobalFenceOrdering (uid : Nat) (s : State) : Result :=
  match s.thread uid with
  | none => .next s
  | some t =>
    if t.prog ≠ .asked s.time.cycle then .next s
    else
      let g := joinClock s.clocks.gclock t.ctl.vclock
      let s := { s with clocks := { s.clocks with gcount := s.clocks.gcount + 1, gclock := zeroReached s.clocks.stable g } }
      .next (s.modThread uid fun t => { t with
        prog := .answered 0 0, ctl := { t.ctl with vclock := joinClock t.ctl.vclock g } })

/-! ## The migration group (R257 to R259) -/

/-- The place of a target, for `hop`: the first core of its trellis, or its home channel core. -/
def Target.home (x : Target) : Nat := x.loc.core

/-- `hop`: the thread moves to the home of an address (R257); it completes without moving where its partition holds no
slot (R244). -/
def execHop (a : Reg) (ta _tb : Bool) (s : State) : Result :=
  s.issue { Uses.none with srcs := [(a, ta)] } fun s =>
    let va := s.val a
    let l := s.lbl a
    let stay (s : State) : State := (s.joinClabel l).retire 4
    let move (s : State) (x : Target) : Result :=
      let dest := x.home
      if destPlace dest = destPlace s.t.core || !s.hasSlot dest then .next (stay s)
      else if s.departWaits [a] then .next s.idle
      else .next ((s.joinClabel l).depart dest [a] true (routeLegs s.t.core dest va.toNat - 1) 0)
    if s.deviceAccess va then .next (stay s)
    else match s.route va true false with
    | (.error (c, info), s) => .next (s.fail c va info [a] 0)
    | (.ok (.here x), s) => move s x
    | (.ok (.there _ x), s) => move s x
    | (.ok .unknown, s) =>
      if s.hasSlot 8192 then .next (s.departGlobal va true false [a] l true)
      else
        match s.target va true false with
        | (.error (c, info), s) => .next (s.fail c va info [a] 0)
        | (.ok _, s) => .next (stay s)

/-- `live`: exchanges the live-register mask (R258). -/
def execLive (d a : Reg) (ta _tb : Bool) (s : State) : Result :=
  s.issue { Uses.none with dests := [d], srcs := [(a, ta)] } fun s =>
    let old := s.t.ctl.live.setWidth 64
    let v := s.val a
    let la := s.lbl a
    let s := s.write d old (s.resultLabel [a])
    let s := { s with t := { s.t with ctl := { s.t.ctl with live := v.setWidth 32 &&& ~~~1 } } }
    .next ((s.joinClabel la).retire 4)

/-- The pages that `tlbinv` names: the first and how many, or none for every entry (R259). -/
def tlbRange (va count : Word) : Option (Nat × Nat) :=
  let n := count.toNat
  if n = 0 then some (va.toNat / 8192, 1)
  else if n ≤ 2 ^ 20 then some (va.toNat / 8192, n)
  else none

/-- A cached leaf is one that `tlbinv` discards (R259). -/
def CachedLeaf.covers (l : CachedLeaf) (part : Nat) (r : Option (Nat × Nat)) : Bool :=
  l.part = part && (match r with
    | some (first, n) => l.page < first + n && first < l.page + l.pages
    | none => true)

/-- The pages that the discarded entries cover, with those named: each entry meets the named run, so together they are a run; none
where every entry is named (R259). -/
def State.discardSpan (s : State) (part : Nat) (inScope : Nat → Bool) (r : Option (Nat × Nat)) : Nat × Nat :=
  match r with
  | none => (0, 2 ^ 64)
  | some (first, n) =>
    let kept : List CachedLeaf := ((s.trans.micro.filter fun x => inScope (x.1 % 1024)) ++ s.trans.hubs).map Prod.snd
    let gone := kept.filter fun (x : CachedLeaf) => x.covers part r
    (gone.foldl (fun k x => min k x.page) first, gone.foldl (fun k x => max k (x.page + x.pages)) (first + n))

/-- Work of a partition translated under a discarded entry is not yet performed (R259): an access, a migration, a translation or a
fetch that was under way at the discard. Every migration of the partition counts, and every access to a named page. -/
def State.underEntries (s : State) (part : Nat) (x : Discard) : Bool :=
  let hit (va : Word) : Bool := x.first ≤ va.toNat / 8192 && va.toNat / 8192 < x.next
  let away (t : Thread) : Bool := t.ident.part = part && (match t.transit with
    | some y => y.since ≤ x.cycle
    | none => false)
  (s.fab.accs.any fun a => a.part = part && a.id < x.id && a.state != .performed && a.loc.isHbm && hit a.va) ||
  s.threads.any away || (s.trans.reqs.any fun q => q.part = part && q.id < x.id && hit q.va) ||
  (s.fetch.reads.any fun f => f.part = part && f.id < x.id && hit (BitVec.ofNat 64 (256 * f.block)))

/-- The entries that `tlbinv` names leave the caches in its scope (R259). -/
def State.discard (s : State) (part : Nat) (inScope : Nat → Bool) (hubs : Bool) (r : Option (Nat × Nat)) : State :=
  { s with trans := { s.trans with
      micro := s.trans.micro.filter fun x => !(inScope (x.1 % 1024) && x.2.covers part r)
      hubs := if hubs then s.trans.hubs.filter fun x => !x.2.covers part r else s.trans.hubs } }

/-- `tlbinv` of a scope, 0 to 3 (R259): the thread's own writes are performed first, so that later walks read them. -/
def tlbinv (scope : Nat) (word : Word) (a b : Reg) (ta tb : Bool) (busy : Nat → State → Bool) (s : State) : Result :=
  s.issue { Uses.none with word := word, priv := true, srcs := [(a, ta), (b, tb)] } fun s =>
    let part := s.t.ident.part
    let wait (s : State) (x : Discard) : Result :=
      .next (if s.underEntries part x || busy x.id s then s.hold (.discards (some x)) else s.retire 4)
    match s.t.prog with
    | .discards (some x) => wait s x
    | .discards none | .fresh | .counting _ | .asked _ | .answered _ _ | .stage _ _ _ | .results _ _ _ | .waits =>
      if !s.drained then .next (s.hold (.discards none))
      else
        let r := tlbRange (s.val a) (s.val b)
        let mine := s.t.ident.pan * 128 + s.t.ident.trellis
        let inScope (k : Nat) : Bool :=
          if scope = 0 then k = mine else if scope = 1 then k / 128 = s.t.ident.pan else s.ownsPan part (k / 128)
        let x := s.discardSpan part inScope r
        let s := s.discard part inScope (2 ≤ scope) r
        if scope = 3 then wait s ⟨x.1, x.2, s.time.next, s.time.cycle⟩ else .next (s.retire 4)

end Sys2Proof.Machine
end

