-- ==== Sys2Proof/Machine/Interrupt.lean ====
section
/-! DEFINITION. What interrupts a thread: wakes, asynchronous traps, the slot timer, the heartbeat and the budgets, with the
measures against heat and what is exported of each period (R327 to R329, R386, R399 to R405, R414, R426). -/

namespace Sys2Proof.Machine

open Sys2Proof

/-! ## Wakes (R327, R329, R403) -/

/-- A fenced thread resumes by a supervisor's wake, from its record or in place, with HBCNT 0 (R403). -/
def State.resumeFenced (s : State) (t : Thread) : State :=
  let uid := t.ident.uid
  let s := match t.run with
    | .fencedAway => (s.restoreContext t t.ident.core0 t.ident.slot0).pwaitsAgain uid
    | .fencing | .fenced => s.modThread uid fun t => { t with run := if (s.fillsOf uid).any Fill.resume then .reply else .ready }
    | .ready | .reply | .waiting | .parked | .barred | .sleeping | .transit | .stopping | .saved | .quitting | .ended => s
  s.modThread uid fun t => { t with ctl := { t.ctl with hbcnt := 0 } }

/-- A wake reaches a slot (R329): a guest in it is skipped, a fenced thread that it is the placement slot of resumes by a wake
of supervisor mode (R403), and otherwise the bit is set and ends a `sleep`. -/
def State.wakeSlot (s : State) (core slot : Nat) (sup : Bool) (label : Label) (clock : List Nat) : State :=
  let x := s.slot core slot
  let owner := s.threads.find? fun t => t.ident.core0 = core && t.ident.slot0 = slot && t.run != .ended && t.run != .saved
  let guest := s.threads.any fun t => t.core = core && t.slot = slot && !(t.ident.core0 = core && t.ident.slot0 = slot)
    && t.run != .ended && t.run != .saved
  if (x.state == .occupied && guest) || x.state == .free || x.state == .scrub then s
  else
    let fenced : Bool := match owner with
      | some t => t.run == .fencing || t.run == .fenced || t.run == .fencedAway
      | none => false
    match owner with
    | some t =>
      if fenced && sup then s.resumeFenced t
      else
        let s := s.setSlot { x with
          wake := true, wakeLabel := x.wakeLabel ||| label
          wakeClock := if x.wakeClock.isEmpty then clock else joinClock x.wakeClock clock }
        if t.run == .sleeping then s.endSleep t.ident.uid true else s
    | none => s

/-- A wake reaches the slots of a core that its partition holds there, in ascending order (R329). -/
def State.wakeCore (s : State) (part core slots : Nat) (sup : Bool) (label : Label) (clock : List Nat) : State :=
  (bitsOf 16 (Nat.land slots (s.slotMask part core))).foldl (fun (s : State) k => s.wakeSlot core k sup label clock) s

/-- The place that stands for a core, for the route of a posted wake to it. -/
def coreLoc (core : Nat) : Loc :=
  if isCompute core then .pan (corePan core) (coreTrellis core * 2 ^ 18) else .hbm ((core - 8192) * 8192)

/-- The core lies in the Pan that the thread runs in (R329). -/
def Thread.inPanOf (t : Thread) (core : Nat) : Bool := isCompute t.core && isCompute core && corePan t.core = corePan core

/-- The cycles in which a wake within a Pan reaches its slots (R329, R428; assumption 72). -/
def wakeCycles : Nat := 4

/-- A wake on its way to a core of the own Pan: it is no write of its thread, and bears a number of its own (R329). -/
def State.wakeNear (s : State) (core slots : Nat) (sup : Bool) (l : Label) : State :=
  let (id, s) := s.fresh
  let now := s.time.cycle
  let t := s.t
  let a : Acc :=
    { id := id, uid := id, part := t.ident.part, op := .wakeSlots core slots sup, loc := coreLoc core, va := 0, pc := t.pc, label := l
      plabel := l, posted := false, ordered := false, clock := t.ctl.vclock, srcDie := coreDie t.core, num := 0, pair := 0
      cross := false, input := 0, trellis := coreTrellis t.core, source := 0, klass := 0, legs := 0, asked := now
      due := now + wakeCycles, fill := none, noalloc := false, kept := false, came := 0, port := none, state := .sent }
  { s with fab := { s.fab with accs := s.fab.accs ++ [a] } }.schedule (now + wakeCycles) (.postedWakeArrival id)

/-- `wake`: sets wake bits, 4 cycles later in the thread's own Pan and by a posted write elsewhere (R329, R450). -/
def execWake (a b : Reg) (ta tb : Bool) (s : State) : Result :=
  s.issue { Uses.none with srcs := [(a, ta), (b, tb)], mem := true } fun s =>
    let core := (s.val a).toNat
    let slots := fieldOf (s.val b) 0 16
    let part := s.t.ident.part
    if 8447 < core || (isCompute core && !s.ownsPan part (corePan core)) then .next (s.fail .prot 0 0 [a, b] 0)
    else s.releaseWait true fun s =>
      let l := s.resultLabel [a, b]
      let sup := !s.t.isTask
      if s.t.inPanOf core then .next ((s.wakeNear core slots sup l).retire 4)
      else
        let x : Target := ⟨coreLoc core, l, l, false⟩
        if s.crossWaits x then .next s.idle
        else .next ((s.send (.wakeSlots core slots sup) x 0 l .posted false none 0).2.retire 4)

/-- `POSTED_WAKE_ARRIVAL`: a posted wake is performed at its core (R329, R403). -/
def execPostedWakeArrival (acc : Nat) (s : State) : Result :=
  match s.acc? acc with
  | none => .next s
  | some a =>
    match a.op with
    | .wakeSlots core slots sup => .next ((s.wakeCore a.part core slots sup a.label a.clock).finishAcc a)
    | .load _ _ | .loadWord _ | .ldff | .tagr | .vload _ _ _ _ | .store _ _ | .storeWords _ | .ldfe | .stfe _ | .stff _
    | .tagw _ | .amo _ _ _ | .red _ _ _ | .cas _ _ | .cas2 _ _ _ _ | .park _ _ | .claimNest _ _ _ | .push _ _ | .pop | .steal
    | .vstore _ _ _
    | .setvat _ _ => .next s

/-! ## Asynchronous traps (R385, R386, R399) -/

/-- A TIMER or BEAT is pending that is not deferred: it ends a wait that can be abandoned (R386). -/
def Thread.endsWait (t : Thread) : Bool :=
  !t.inTrap && t.pending.any fun a => a.kind == .timer || a.kind == .beat

/-- The instruction in progress awaits the answer of a unit to a request that it has made, which is no wait of R394. -/
def Progress.asks (p : Progress) : Bool :=
  match p with
  | .asked _ => true
  | .fresh | .counting _ | .answered _ _ | .stage _ _ _ | .results _ _ _ | .waits | .discards _ => false

/-- A thread whose wait a trap may end (R386, R394): not one in transit, and none that is stopped. -/
def Run.mayWait (r : Run) : Bool :=
  match r with
  | .waiting | .parked | .barred | .sleeping | .reply => true
  | .ready | .transit | .stopping | .fencing | .fenced | .fencedAway | .saved | .quitting | .ended => false

/-- The thread at its turn is ready for a pending trap, or a pending TIMER or BEAT ends its wait; the state with the wait
ended (R386). -/
def State.readyForTrap (s : State) : Bool × State :=
  if s.t.run == .ready then (s.t.deliverable.isSome, s)
  else if s.t.run.mayWait && !s.t.prog.asks && s.t.endsWait then s.abandonWait s.t.ident.uid
  else (false, s)

/-- `ASYNC_TRAP_DELIVERY`: the pending trap of highest priority that is not deferred is taken at a turn; an abandoned wait
re-executes after the handler (R385, R386). -/
def execAsyncTrapDelivery (s : State) : Result :=
  match s.readyForTrap with
  | (false, s) => .next s
  | (true, s) =>
    match s.t.deliverable with
    | none => .next s
    | some a =>
      let t := s.t.dropPending a.kind
      .next { s with
        t := t.enterTrap (asyncNumber a.kind) true t.pc a.addr a.info a.label
        time := { s.time with turn := .trap } }

/-- `SLOT_TIMER_EXPIRY`: COUNT has reached 0, and TIMER becomes pending (R399). -/
def execSlotTimerExpiry (uid : Nat) (s : State) : Result :=
  .next (s.modThread uid fun t => t.addPending ⟨.timer, 0, 0, 0⟩)

/-! ## The heartbeat (R400 to R402) -/

/-- HBCNT counts at a turn of the thread: not while it is parked, throttled, on its way or stopped (R400). -/
def State.countsBeat (s : State) (t : Thread) : Bool :=
  match t.run with
  | .ready | .reply | .quitting => !s.throttled t.ident.part t.localPan
  | .waiting | .parked | .barred | .sleeping | .transit | .stopping | .fencing | .fenced | .fencedAway | .saved
  | .ended => false

/-- The fault-queue event of a fenced slot (R402, R393). -/
def beatEvent (t : Thread) (record : Word) : FaultEvent :=
  ⟨0x10, 0, t.ident.lthread, [t.ident.gangid, record, BitVec.ofNat 64 (t.core + t.slot * 2 ^ 16)]⟩

/-- A fenced thread whose sent work is done is saved into the lowest free record, its placement slot HELD and a guest slot
FREE; without a record its context stays in its slot (R401, R402). -/
def State.saveFenced (s : State) (t : Thread) : State :=
  let uid := t.ident.uid
  let i := t.ident
  match s.saveContext t with
  | some s =>
    let va := match s.thread uid with
      | some t => t.trap.saveptr
      | none => 0
    let s := s.modThread uid fun t => { t with run := .fencedAway, core := i.core0, slot := i.slot0 }
    let s := s.setSlot { s.slot i.core0 i.slot0 with state := .held, wake := false, wakeLabel := 0, wakeClock := [] }
    let s := if t.core = i.core0 ∧ t.slot = i.slot0 then s else s.vacate t.core t.slot i.part
    s.fault i.part (beatEvent t va)
  | none => (s.modThread uid fun t => { t with run := .fenced }).fault i.part (beatEvent t 0)

/-- `HEARTBEAT_MISS`: a slot is fenced: its thread stops and is saved once its sent work has completed, which is looked at
every 16 cycles, and its gang and the fault queue are told (R401, R402). One that a wake has resumed is fenced no more (R403). -/
def execHeartbeatMiss (uid : Nat) (s : State) : Result :=
  match s.thread uid with
  | none => .next s
  | some t =>
    let again (s : State) : State := s.schedule (s.time.cycle + 16) (.heartbeatMiss uid)
    if t.run == .fencing then
      let s := (s.abandonWait uid).2
      match s.thread uid with
      | none => .next s
      | some t => .next (if s.settled t then s.saveFenced t else again s)
    else if t.ctl.hbcnt < t.ctl.hbint || (t.run.stopped && t.run != .quitting) || t.run == .transit then .next s
    else
      let others := (s.gangThreads t.ident.gang).filter fun x => x.ident.uid ≠ uid
      let tell (s : State) (x : Thread) : State :=
        s.modThread x.ident.uid fun y => y.addPending ⟨.beat, 0, BitVec.ofNat 64 t.ident.lthread, 0⟩
      .next (again ((others.foldl tell s).stopThread uid .fencing))

/-! ## Budgets, telemetry and heat (R404, R405, R414, R426) -/

/-- The throttle fraction of the next period, in sixteenths (R426). -/
def nextThrottle (f : Nat) (hot : Bool) : Nat := if hot then max 4 (f - 1) else min 16 (f + 1)

/-- An account at a period boundary: f x B, or f x what was charged where there is no limit, added to its value; an account
that was not limited begins at 0 (R405, R426). -/
def replenished (f budget charged : Nat) (limited : Bool) (account : Int) : Int :=
  (if limited then account else 0) + (f * (if budget = 0 then charged else budget) / 16 : Nat)

/-- The power limit of the package, in watts (R426). -/
def State.powerLimit (s : State) : Nat := if Config.isModule then 2400 else s.dev.plimit

/-- The condition of the throttle as a period ends: power above the limit, or a die at 105 °C or above (R426). -/
def State.tooHot (s : State) : Bool :=
  s.powerLimit < Config.power s.dev.periods || (List.range 12).any fun die => 105 ≤ Config.dieTemp s.dev.periods die

/-- `BUDGET_PERIOD`: a period of 140,000 cycles ends: f moves, the accounts are replenished, the telemetry of the period is
exported, and the engines may start again (R404, R405, R414, R426). -/
def execBudgetPeriod (s : State) : Result :=
  let f := nextThrottle s.dev.throttle s.tooHot
  let renew (p : Part) : Part :=
    { p with
      accounts := (List.range 8).map fun n =>
        replenished f p.budget (p.charged.getD n 0) (s.limited p) (p.accounts.getD n 0)
      charged := List.replicate 8 0 }
  let s := { s with parts := s.parts.map renew, dev := { s.dev with throttle := f, periods := s.dev.periods + 1 } }
  let s := s.parts.foldl (fun (s : State) p => s.push (.telemetryExport p.num)) s
  let s := s.engines.foldl (fun (s : State) e => s.kickAll e.place) s
  .next (s.schedule (s.time.cycle + 140000) .budgetPeriod)

/-- The telemetry of a partition: its eight counters, the channels of its derate events since the last export, one bit each, and
MIGRFALLBACK (R413, R414, assumption 49). -/
def Part.telemetry (p : Part) : List Byte :=
  let derated (k : Nat) : Nat := (List.range 64).foldl (fun n i => n + (p.derates.contains (64 * k + i)).toNat * 2 ^ i) 0
  (List.range 8).flatMap (fun k => natBytes 8 (p.perf.getD k 0)) ++ (List.range 4).flatMap (fun k => natBytes 8 (derated k))
    ++ natBytes 8 p.migFallback ++ natBytes 24 0

/-- `TELEMETRY_EXPORT`: a partition's counters leave through the Sluice for each telemetry receiver that its supervisor has
named (R377, R414). -/
def execTelemetryExport (part : Nat) (s : State) : Result :=
  match s.part? part with
  | none => .next s
  | some p =>
    let data := p.telemetry
    let s := s.modPart part fun p => { p with derates := [] }
    let named := (s.policyOrder.filter fun e => e.dkind = 2 && e.owner = part).map Policy.dest
    .next (named.eraseDups.foldl (fun (s : State) vf =>
      match s.sluice part (partLabel part) (.telemetry vf) 128 with
      | .ok (_, s) => s.emit (.telemetry vf data)
      | .error _ => s) s)

/-- `THERMTRIP`: a die at 115 °C or above: THERMTRIP# is asserted, every die is held in reset, and the cause is kept for the next
boot; below that nothing happens (R426). -/
def execThermtrip (temp : Nat) (s : State) : Result :=
  if temp < 115 then .next s
  else .next ({ s with dev := { s.dev with halted := true, tripped := some temp, pwrgd := false } }.emit .thermtrip)

end Sys2Proof.Machine
end

