-- ==== Sys2Proof/Machine/Task.lean ====
section
/-! DEFINITION. Work that programs create: the task deques, `spawn`, and the end of a thread (R63, R135 to R144, R333,
R362). -/

namespace Sys2Proof.Machine

open Sys2Proof

/-! ## Deques (R135 to R141) -/

/-- The checks that `fork` and `join` share: alignment of deque and frame, that both lie in the gang's Pan, and the window
checks of the frame and of the own deque (R138, R139). -/
def taskIssue (dests : List Reg) (srcs : List (Reg × Bool)) (deque frame : Reg) (odd : State → Bool) (s : State)
    (k : State → Loc × Label → Loc × Label → Result) : Result :=
  s.issue { Uses.none with away := !(isCompute s.t.core && corePan s.t.core = s.t.ident.pan), dests := dests, srcs := srcs
                           mem := true } fun s =>
    let reads := srcs.map Prod.fst
    let a := s.val deque
    let b := s.val frame
    let own := s.ownDeque a
    let outside (va : Word) : Bool := match s.vaClass va with
      | .pan n _ => n ≠ s.t.ident.pan
      | .global | .device | .none => true
    if a.toNat % 1024 ≠ 0 then .next (s.fail .align a 0 reads 0)
    else if b.toNat % 8 ≠ 0 then .next (s.fail .align b 0 reads 0)
    else if odd s then .next (s.fail .align (reads.getLast?.elim 0 s.val) 0 reads 0)
    else if outside a then .next (s.fail .prot a 0 reads 0)
    else if outside b then .next (s.fail .prot b 0 reads 0)
    else
      match s.taskSpot b, s.taskSpot own with
      | .error (c, info), _ => .next (s.fail c b info reads 0)
      | .ok _, .error (c, info) => .next (s.fail c own info reads 0)
      | .ok f, .ok q => k s f q

/-- `fork`: counts an arm in its frame; its answer leads to the push (R138). -/
def execFork (d a b : Reg) (ta tb : Bool) (s : State) : Result :=
  taskIssue [d] [(a, ta), (b, tb), (d, false)] a b (fun s => (s.val d).toNat % 2 = 1) s fun s f q =>
    if !labelLe (s.resultLabel [d, b]) q.2 then .next (s.fail .label (s.ownDeque (s.val a)) 0 [a, b, d] q.2)
    else s.releaseWait true fun s => .next (s.taskSend (.amo .add true 1) (s.val b) f (.fork false d a b) 0 0).waitHere

/-- `join`: reads its counter; its answer leads to the end, a task or a park (R139). -/
def execJoin (d a b : Reg) (ta tb : Bool) (s : State) : Result :=
  taskIssue [d, nextReg d] [(a, ta), (b, tb)] b a (fun _ => false) s fun s f _ =>
    .next (s.taskSend (.load 8 false) (s.val a) f (.join .count d a b) 0 f.2).waitHere

/-- `jdone`: ends an arm: its frame's counter falls by 1, and the link is followed (R140). -/
def execJdone (a b : Reg) (ta tb : Bool) (s : State) : Result :=
  s.issue { Uses.none with away := !isCompute s.t.core, srcs := [(a, ta), (b, tb)], mem := true } fun s =>
    let frame := s.val a
    let link := s.val b
    let l := s.lbl b
    if frame.toNat % 8 ≠ 0 then .next (s.fail .align frame 0 [a, b] 0)
    else if link.toNat % 2 = 1 then .next (s.fail .align link 0 [a, b] 0)
    else
      match s.storing frame true [a, b] (.red .add true (-1)) .release false true 8 4 with
      | .next s =>
        if s.time.turn == .issue && s.t.run == .ready then .next ((s.joinClabel l).jump link) else .next s
      | r => r

/-! ## `spawn` (R63, R142) -/

/-- The cores in which `spawn` looks for a slot, in order (R63). -/
def Thread.spawnCores (t : Thread) : List Nat :=
  let core := if isCompute t.core && corePan t.core = t.ident.pan then t.core else t.ident.core0
  let pan := corePan core
  let trellis := coreTrellis core
  let others := (placeCores (128 * pan + trellis)).filter fun c => c ≠ core
  core :: others ++ ((circular 128 trellis).drop 1).flatMap fun k => placeCores (128 * pan + k)

/-- SEED and its job seed for a thread that `spawn` starts; none where the spec gives no number for it (R159). -/
def Thread.spawnSeed (t : Thread) (responders : Bool) (n : Nat) : Option Word :=
  if t.ident.census ≠ 0 then some (seedOf t.ident.js (t.ident.census + 2 ^ 32 * (t.ident.spawns + 1)))
  else if responders then none
  else some (seedOf t.ident.js n)

/-- `spawn`: adds a thread to the gang in the first FREE slot found (R142). -/
def execSpawn (d a b : Reg) (ta tb : Bool) (s : State) : Result :=
  s.issue { Uses.none with dests := [d], srcs := [(a, ta), (b, tb)] } fun s =>
    let t := s.t
    let pc := s.val a
    let label := s.resultLabel []
    if pc.toNat % 2 = 1 then .next (s.fail .align pc 0 [a, b] 0)
    else if s.vaClass pc ≠ .global then .next (s.fail .prot pc 0 [a, b] 0)
    else
      match s.gang? t.ident.gang, s.freeAmong t.ident.part t.spawnCores with
      | some g, some (core, slot) =>
        if 16384 ≤ s.gangSize g.gid then .next ((s.write d 1 label).retire 4)
        else
          let n := s.nextLthread g.gid
          let own := partLabel t.ident.part
          let regs := startRegs [s.val b, BitVec.ofNat 64 n] own
          let argLabel := s.resultLabel [b]
          let regs := Vector.ofFn fun (r : Fin 32) => if r.val = 1 then { regs[r] with label := argLabel } else regs[r]
          let (seed, s) := match t.spawnSeed g.responder n with
            | some x => (x, s)
            | none =>
              let (x, s) := s.free
              (if x = 0 then 1 else x, s)
          let bgn : Beginning := ⟨pc, regs, s.resultLabel [a, b], g.livemask, s.gangVec g, seed, own⟩
          let s := s.startThread bgn ⟨0, t.ident.part, g.gid, t.ident.gangid, n, 0, 0, 0, 0, t.ident.js, 0, 0, false⟩ core slot
          let s := s.modGang g.gid fun g => { g with bars := g.bars.map fun (x : Barrier) => { x with parts := x.parts + 1 } }
          let s := { s with t := { s.t with ident := { s.t.ident with spawns := s.t.ident.spawns + 1 } } }
          .next ((s.write d (BitVec.ofNat 64 (n * 2 ^ 16)) label).retire 4)
      | _, _ => .next ((s.write d 1 label).retire 4)

/-! ## The end of a thread (R16, R143, R333) -/

/-- `quit`: the thread leaves rotation for good (R143). -/
def execQuit (_ta _tb : Bool) (s : State) : Result :=
  s.issue Uses.none fun s => .next { s with t := { s.t with run := .quitting, prog := .fresh }, time := { s.time with turn := .issue } }

/-- A thread leaves the barriers of its gang: a phase that awaited only it completes (R333). -/
def State.leaveBarriers (s : State) (g : Nat) : State :=
  let n := match s.gang? g with
    | some x => x.bars.length
    | none => 0
  let s := s.modGang g fun x => { x with bars := x.bars.map fun (b : Barrier) => { b with parts := b.parts - 1 } }
  (List.range n).foldl (fun (s : State) k =>
    match (s.gang? g).bind fun x => x.bars[k]? with
    | some b => if b.arrived = b.parts && b.arrived ≠ 0 then s.completePhase g k else s
    | none => s) s

/-- A thread that has quit is done: its results have arrived and its writes have been performed (R143). -/
def State.mayEnd (s : State) (t : Thread) : Bool :=
  let uid := t.ident.uid
  (s.unperformed uid).isEmpty && (s.unacked uid).isEmpty && (s.fillsOf uid).all fun f => f.regs.isEmpty && !f.isVector

/-- Removes a thread: the one at its turn only ends, any other one is forgotten. -/
def State.dropThread (s : State) (uid : Nat) : State :=
  if s.t.ident.uid = uid then { s with t := { s.t with run := .ended, claim := Claim.none } }
  else { s with others := s.others.filter fun t => t.ident.uid ≠ uid }

/-- The launch of a thread that ends awaits the acknowledgement of the thread's writes to host memory and other chips (R16, R337,
R345). -/
def State.awaitAcks (s : State) (t : Thread) : State :=
  let due := s.ackedAt t.ident.uid
  match s.gang? t.ident.gang with
  | some g => if g.responder then s else s.modJob t.ident.part g.seq fun j => { j with acked := max j.acked due }
  | none => s

/-- A thread ends: its slots, its claim and its number are free, and a gang that it was the last thread of ends (R143, R362). -/
def State.endOne (s : State) (t : Thread) : State :=
  let s := s.emptyAnswer t
  let s := s.dropThread t.ident.uid
  let s := { s with fab := { s.fab with fills := s.fab.fills.filter fun f => f.uid ≠ t.ident.uid } }.awaitAcks t
  let s := s.leaveBarriers t.ident.gang
  let s := if t.ident.part = 32 then s.setSlot ⟨t.core, t.slot, .free, false, 0, []⟩
    else if t.run == .saved then s else s.giveSlots t
  if s.gangSize t.ident.gang = 0 then
    match s.gang? t.ident.gang with
    | some g => s.endGang g
    | none => s
  else s

/-- A thread that has quit and has no work left ends, and with it those of a gang ended by trap policy 0 whose contexts a fold
had saved (R52, R143). -/
def State.endThread (s : State) (t : Thread) : State :=
  let s := s.endOne t
  match s.gang? t.ident.gang with
  | some g =>
    if g.killed.isSome then ((s.gangThreads g.gid).filter fun x => x.run == .saved).foldl State.endOne s else s
  | none => s

/-- `beat`: HBCNT becomes 0 (R144). -/
def execBeat (_ta _tb : Bool) (s : State) : Result :=
  s.issue Uses.none fun s => .next ({ s with t := { s.t with ctl := { s.t.ctl with hbcnt := 0 } } }.retire 4)

/-- `ifence`: once the thread's writes have been performed, and its causal past has been applied at every hub, so that no later
fetch returns older bytes than a load would (assumption 100), the core's lines of the partition and the blocks of its fetch
merger are discarded (R144). -/
def execIfence (_ta _tb : Bool) (s : State) : Result :=
  s.issue Uses.none fun s =>
    let past := (List.range 4).all fun k => s.causalOk (8 + k) s.t.ctl.vclock (8 + k)
    if !s.drained || !past then .next (s.hold .waits)
    else
      let keep (x : ILine) : Bool := !(x.core = s.t.core && x.part = s.t.ident.part)
      let s := { s with fetch := { s.fetch with ilines := s.fetch.ilines.filter keep } }
      .next ((s.dropBlocks (fetchPlace s.t.core)).retire 4)

end Sys2Proof.Machine
end

