-- ==== Sys2Proof/Machine/Partition.lean ====
section
/-! DEFINITION. The device manager: ownership records, the configuration record, service requests for frames and tables, the
Rake, and the retirement of partitions (R54 to R57, R407, R408, R410, R415 to R421). -/

namespace Sys2Proof.Machine

open Sys2Proof

/-! ## Ownership records (R55, R56, R410) -/

/-- An ownership record as its 256 bytes give it (R55). -/
def Ownership.ofBytes (bs : List Byte) : Ownership :=
  { gen := fieldAt bs 0 8, panmask := fieldAt bs 8 1, keyslot := fieldAt bs 9 1, slotmask := fieldAt bs 0xA 2
    chslotmask := fieldAt bs 0xC 2, waymask := fieldAt bs 0xE 2, colours := fieldAt bs 0x10 1, vlaneq := fieldAt bs 0x11 1
    pressq := fieldAt bs 0x12 1, flags := fieldAt bs 0x13 1, regmin := fieldAt bs 0x14 2, regcap := fieldAt bs 0x16 2
    savearena := fieldAt bs 0x18 8, saverecs := fieldAt bs 0x20 4
    cellars := (List.range 8).map fun n => fieldAt bs (0x40 + 16 * n) 16 }

/-- The 256 bytes of an ownership record (R55). -/
def Ownership.bytes (o : Ownership) : List Byte :=
  natBytes 8 o.gen ++ natBytes 1 o.panmask ++ natBytes 1 o.keyslot ++ natBytes 2 o.slotmask ++ natBytes 2 o.chslotmask
    ++ natBytes 2 o.waymask ++ natBytes 1 o.colours ++ natBytes 1 o.vlaneq ++ natBytes 1 o.pressq ++ natBytes 1 o.flags
    ++ natBytes 2 o.regmin ++ natBytes 2 o.regcap ++ natBytes 8 o.savearena ++ natBytes 4 o.saverecs ++ natBytes 28 0
    ++ (List.range 8).flatMap (fun n => natBytes 16 (o.cellars.getD n 0)) ++ natBytes 64 0

/-- The fields of an ownership record lie within the limits of R55. -/
def ownershipOk (bs : List Byte) : Bool :=
  let o := Ownership.ofBytes bs
  o.keyslot < 64 && (o.panmask = 0 || o.slotmask ≠ 0) && o.vlaneq ≤ 64 && o.pressq ≤ 32 && o.flags < 4 && o.regmin ≤ o.regcap &&
    o.savearena % 8192 = 0 && isGlobal o.savearena && zeroAt bs 0x24 28 && zeroAt bs 0xC0 64

/-- Masks that share no bit. -/
def disjoint : Nat → List Nat → Bool
  | _, [] => true
  | seen, m :: ms => Nat.land seen m = 0 && disjoint (Nat.lor seen m) ms

/-- No ownership set may break these (R56, R175, R287). -/
def setOk (os : List Ownership) : Bool :=
  let inPan (n : Nat) : List Ownership := os.filter fun o => o.panmask.testBit n
  ((List.range 8).all fun n =>
    ((inPan n).map Ownership.vlaneq).sum ≤ 64 && ((inPan n).map Ownership.pressq).sum ≤ 32 &&
    disjoint 0 ((inPan n).map Ownership.slotmask) && disjoint 0 (os.map fun o => o.cellars.getD n 0) &&
      os.all fun o => o.panmask.testBit n || o.cellars.getD n 0 = 0) &&
  disjoint 0 (os.map Ownership.chslotmask) && disjoint 0 (os.map Ownership.waymask) &&
  (os.map Ownership.keyslot).eraseDups.length = os.length &&
  os.all fun o => o.panmask ≠ 0 || o.slotmask = 0

/-- The bandwidth that the records of a set guarantee is there to give (R410). -/
def regminsOk (xs : List (Ownership × Bool)) : Bool :=
  let sum (l : List (Ownership × Bool)) : Nat := l.foldl (fun n x => n + x.1.regmin) 0
  sum xs ≤ 2880 && sum (xs.filter fun x => x.2) ≤ 1600

/-- The VA at which the device manager maps ownership records (R55). -/
def ownBase : Word := 0x007FFFFFFFFFC000

/-- The physical address behind a page of a partition, whatever its permissions. -/
def State.ownPa (s : State) (part : Nat) (va : Word) : Option Nat :=
  match s.walk part va.toNat ⟨false, false, false⟩ false with
  | .ok (pa, _) => some pa
  | .error _ => none

/-- The device manager's copy of a partition's record is brought up to date (R55). -/
def State.syncRecord (s : State) (part : Nat) : State :=
  match s.part? part with
  | none => s
  | some p =>
    if p.regs.ownbase = 0 then s
    else
      match s.ownPa part p.regs.ownbase with
      | some pa => s.putBytes (.hbm pa) p.own.bytes
      | none => s

/-! ## Frames (R57, R234, R408, R419) -/

/-- The colour of an HBM frame (R57). -/
def frameColour (frame : Nat) : Nat := Nat.xor (Nat.xor (bitsAt frame 0 3) (bitsAt frame 8 3)) (bitsAt frame 16 3)

/-- The frames that the device manager may allot; those above hold the frame owner table and the cleared-page bitmaps (R234,
R419). -/
def frameLimit : Nat := 2 ^ 26 - 66560

/-- The lowest free frames of the colours of a mask, n of them or fewer (R57, R408). -/
def State.freeFrames (s : State) (colours n : Nat) : List Nat :=
  ((List.range (8 * (s.mem.owners.length + n))).filter fun f =>
    f < frameLimit && colours.testBit (frameColour f) && !(s.frameOwner f).valid).take n

/-- A frame becomes a partition's, with its cleared bit set (R234, R408). -/
def State.allot (s : State) (part frame : Nat) : State :=
  match s.part? part with
  | none => s
  | some p => { s with mem := (s.mem.clearHbmFrame frame).setOwner ⟨frame, true, part, p.own.keyslot, partLabel part⟩ }

/-- A frame leaves its partition, with its cleared bit set (R408, R419). -/
def State.freeFrame (s : State) (frame : Nat) : State :=
  { s with mem := (s.mem.clearHbmFrame frame).setOwner ⟨frame, false, 0, 0, 0⟩ }

/-- An entry of a translation table for a table in a frame (R233). -/
def tableEntry (frame : Nat) : List Byte := natBytes 8 (1 + frame * 8192) ++ natBytes 8 0

/-- An entry of a translation table for a page in a frame that supervisor mode may read, and perhaps write (R233). -/
def pageEntry (frame key part : Nat) (write : Bool) : List Byte :=
  natBytes 8 (7 + write.toNat * 8 + key * 64 + frame * 8192) ++ natBytes 8 (partLabel part).toNat

/-- The device manager gives a new partition a table tree that maps its record and its service page at OWNBASE, in frames of
the partition (R55, R408). -/
def State.mapService (s : State) (part : Nat) : State :=
  match s.part? part with
  | none => s
  | some p =>
    match s.freeFrames p.own.colours 7 with
    | [l0, l1, l2, l3, l4, rec_, srv] =>
      let s := [l0, l1, l2, l3, l4, rec_, srv].foldl (fun (s : State) f => s.allot part f) s
      let put (s : State) (table level : Nat) (va : Word) (e : List Byte) : State :=
        s.putBytes (.hbm (table * 8192 + 16 * walkIndex level va.toNat)) e
      let s := put s l0 0 ownBase (tableEntry l1)
      let s := put s l1 1 ownBase (tableEntry l2)
      let s := put s l2 2 ownBase (tableEntry l3)
      let s := put s l3 3 ownBase (tableEntry l4)
      let s := put s l4 4 ownBase (pageEntry rec_ p.own.keyslot part false)
      let s := put s l4 4 (ownBase + 0x2000) (pageEntry srv p.own.keyslot part true)
      (s.modPart part fun p => { p with regs := { p.regs with ownbase := ownBase, root := some (l0 * 8192) } }).syncRecord part
    | _ => s

/-! ## The configuration record (R407) -/

/-- The bytes of a record's body (R407). -/
def configBytes : Nat := 13376

/-- The entry of a partition in a record (R407). -/
def configEntry (body : List Byte) (p : Nat) : List Byte := (body.drop (0x40 + 384 * p)).take 384

/-- The partitions that a record configures, with their entries. -/
def configured (body : List Byte) : List (Nat × List Byte) :=
  ((List.range 32).map fun p => (p, configEntry body p)).filter fun x => (fieldAt x.2 0x44 1).testBit 0

/-- The fields of a record's body lie within their limits; the module ignores PLIMIT (R407). -/
def configOk (body : List Byte) : Bool :=
  fieldAt body 0 4 = 0x5A434352 && fieldAt body 4 2 = 1 && zeroAt body 6 2 && fieldAt body 0xA 1 < 2 && zeroAt body 0xB 53 &&
    ((600 ≤ fieldAt body 8 2 && fieldAt body 8 2 ≤ 2400) || Config.isModule) &&
    ((List.range 32).all fun p =>
      let e := configEntry body p
      let flags := fieldAt e 0x44 1
      flags < 8 && zeroAt e 0x45 59 && (if flags.testBit 0 then ownershipOk (e.drop 0x80) else zeroAt e 0 384)) &&
    ((List.range 256).all fun f => fieldAt body (0x3040 + 4 * f) 4 < 512)

/-- A partition as its entry configures it. -/
def partOf (num : Nat) (e : List Byte) : Part :=
  let o := Ownership.ofBytes (e.drop 0x80)
  let budget := fieldAt e 0x40 4
  let flags := fieldAt e 0x44 1
  { num := num, own := { o with gen := 0, flags := (flags.testBit 1).toNat }
    regs := ⟨0, 0, 0, 0, none⟩, faults := ⟨0, 0, 0, [], false⟩, budget := budget
    accounts := List.replicate 8 (budget : Int), charged := List.replicate 8 0, unit := ⟨0, [], []⟩, arena := []
    fenceCap := false, fenceTrap := false, migFallback := 0, perf := List.replicate 8 0
    firm := flags.testBit 1, manager := flags.testBit 2, pubkey := e.take 64, retiring := false, used := [], derates := [] }

/-- A partition that is there already takes the key, the budget and the flags of its entry; its ownership stays as its last set
gave it (R66, R407). -/
def Part.reconfigured (p : Part) (e : List Byte) : Part :=
  let flags := fieldAt e 0x44 1
  { p with budget := fieldAt e 0x40 4, firm := flags.testBit 1, manager := flags.testBit 2, pubkey := e.take 64
           own := { p.own with flags := p.own.flags - p.own.flags % 2 + (flags.testBit 1).toNat } }

/-- The virtual functions as a record binds them; each keeps its window (R40, R407). -/
def State.vfsFrom (s : State) (body : List Byte) : List VirtFn :=
  s.vfs.map fun v =>
    let w := fieldAt body (0x3040 + 4 * v.num) 4
    { v with part := w % 32, valid := w.testBit 5, cap := w.testBit 6, capTrap := w.testBit 7, ownsMem := w.testBit 8 }

/-- The fence caps of the partitions follow from their functions (R336, R407). -/
def State.setCaps (s : State) : State :=
  let caps (p : Part) : Part :=
    let mine := s.vfs.filter fun v => v.valid && v.part = p.num && v.cap
    { p with fenceCap := !mine.isEmpty, fenceTrap := mine.any VirtFn.capTrap }
  { s with parts := s.parts.map caps }

/-- The key slot of a partition carries its label (R372). -/
def State.keyOf (s : State) (part : Nat) : State :=
  match s.part? part with
  | some p => { s with mem := s.mem.setKeyLabel p.own.keyslot (partLabel part) }
  | none => s

/-- Applies a record's body, or leaves the previous configuration in force where it breaks R56, R407 or R410, or configures anew a
partition that still retires (assumption 79). -/
def State.applyConfig (s : State) (body : List Byte) : Option State :=
  let new := (configured body).filter fun x => (s.part? x.1).isNone
  let entry (p : Part) : Part :=
    match (configured body).find? fun x => x.1 = p.num with
    | some x => p.reconfigured x.2
    | none => p
  let parts := s.parts.map entry ++ new.map fun x => partOf x.1 x.2
  let busy := s.dev.rake.done < s.dev.rake.fin || new.any fun x => s.dev.retiring.any fun r => r.part = x.1
  if !configOk body || busy || !setOk (parts.map Part.own) || !regminsOk (parts.map fun p => (p.own, p.firm)) then none
  else
    let old := s
    let s := { s with
      parts := sortBy (fun x y => x.num ≤ y.num) parts
      dev := { s.dev with plimit := fieldAt body 8 2, hostPort := fieldAt body 0xA 1 } }
    let s := ({ s with vfs := s.vfsFrom body }).setCaps
    let s := new.foldl (fun (s : State) x => (s.keyOf x.1).mapService x.1) s
    some (s.parts.foldl (fun (s : State) p => s.syncRecord p.num) (s.regulated old))

/-- The digest of the platform owner key (R407). -/
def ownerDigest : List Byte := shake256 Config.ownerKey 64

/-- A record is the owner's: signed by the key whose digest the security controller holds (R407). -/
def State.configSigned (s : State) (rec_ : List Byte) : Bool :=
  rec_.length = configBytes + signatureBytes && s.dev.owner == ownerDigest &&
    signatureOk Config.ownerKey (rec_.take configBytes) (rec_.drop configBytes)

/-- `SIGNED_CONFIGURATION_RECORD`: a record is verified and applied, or the previous configuration stays in force; bring-up ends
with PWRGD (R407, R425). -/
def execSignedConfigurationRecord (rec_ : List Byte) (s : State) : Result :=
  if !s.configSigned rec_ then .next s
  else
    match s.applyConfig (rec_.take configBytes) with
    | none => .next s
    | some s => .next { s with dev := { s.dev with pwrgd := true } }

/-! ## The Rake (R420, R421) -/

/-- The cycles that clearing an item of a kind takes (R420). -/
def rakeCycles (kind : Nat) : Nat :=
  match kind with
  | 0 => 64
  | 1 => 256
  | 2 => 1024
  | 3 => 256
  | 4 => 64
  | _ => 16

/-- An item of a list by its place (R420). -/
def rakeItem : List RakeItem → Nat → Option (Nat × Nat)
  | [], _ => none
  | x :: xs, k => if k < x.count then some (x.kind, x.target + k) else rakeItem xs (k - x.count)

/-- The items that entries of a list stand for. -/
def rakeLength (l : List RakeItem) : Nat := l.foldl (fun n x => n + x.count) 0

/-- Clearing of the item at DONE begins (R420). -/
def State.rakeNext (s : State) : State :=
  match rakeItem s.dev.rake.list s.dev.rake.done with
  | some (k, _) => s.schedule (s.time.cycle + rakeCycles k) .rakeItemDone
  | none => s

/-- Items are appended to the list; a list that is done makes way for a new one (R420). -/
def State.rakeAppend (s : State) (items : List RakeItem) : State :=
  let n := rakeLength items
  let r := s.dev.rake
  if n = 0 then s
  else if r.done = r.fin then
    ({ s with dev := { s.dev with rake := { r with list := items, done := 0, fin := n } } }).rakeNext
  else { s with dev := { s.dev with rake := { r with list := r.list ++ items, fin := r.fin + n } } }

/-- The vat of a frame. -/
def frameVat (cellar frame : Nat) : Nat := 4 * cellar + frame / 8

/-- A page move reads or writes a vat of a Pan (R69). -/
def State.vatMoves (s : State) (n vat : Nat) : Bool :=
  match s.dev.resize with
  | none => false
  | some r => r.moves.any fun m =>
      let e := s.mapEntry m.part m.pan m.page
      m.begun && m.pan = n && (frameVat m.cellar m.frame = vat || frameVat e.cellar e.frame = vat)

/-- A run of a Pan store is cleared: words 0, tags full, no errors (R71, R420). -/
def Memory.clearPan (m : Memory) (n lo hi : Nat) : Memory :=
  let a := panKey n lo
  let b := a + (hi - lo)
  { m with
    pan := cellsClear m.pan a b
    empties := m.empties.filter fun k => !(a ≤ k && k < b)
    badWords := m.badWords.filter fun k => !(a ≤ k && k < b)
    softWords := m.softWords.filter fun k => !(a ≤ k && k < b) }

/-- A vat of a Pan is cleared, its format register too (R420). -/
def Memory.clearVat (m : Memory) (n vat : Nat) : Memory :=
  { m.clearPan n (vat * 2 ^ 16) ((vat + 1) * 2 ^ 16) with vats := m.vats.filter fun x => x.1 ≠ n * 512 + vat }

/-- A cellar of a Pan is cleared (R71). -/
def Memory.clearCellar (m : Memory) (n cellar : Nat) : Memory :=
  (List.range 4).foldl (fun (m : Memory) k => m.clearVat n (4 * cellar + k)) m

/-- The slot becomes FREE for its owner (R58, R67). -/
def State.freeScrubbed (s : State) (core slot : Nat) : State :=
  match s.parts.find? fun p => (s.slotMask p.num core).testBit slot with
  | some p => s.vacate core slot p.num
  | none => s.setSlot ⟨core, slot, .free, false, 0, []⟩

/-- Vats of a Pan have been cleared: what waits on a tag or a word there goes on (R224, R326). -/
def State.vatsCleared (s : State) (n vat k : Nat) : State := s.tagsSet n (vat * 2 ^ 16) ((vat + k) * 2 ^ 16)

/-- The registers of a slot's context as the Rake leaves them: every value, label, full bit and poison bit 0 (R420); STATUS and
the PC of a thread that stands there are kept (assumption 80). -/
def Thread.scrubbed (t : Thread) : Thread :=
  { t with
    regs := Vector.replicate 32 ⟨0, false, false, 0⟩
    trap := ⟨0, 0, 0, 0, 0, 0⟩
    ctl := { t.ctl with
      clabel := 0, live := 0, seed := 0, seedLabel := 0, nest := t.ctl.nest.map fun _ => 0, vclock := t.ctl.vclock.map fun _ => 0
      hbint := 0, hbcnt := 0, slotTimer := 0, wmsel := 0 } }

/-- The k-th lane of a claim is cleared: 16 elements of every register and mask (R174, R420). -/
def Claim.laneCleared (c : Claim) (k : Nat) : Claim :=
  let mine (i : Nat) : Bool := i / 16 = k
  { c with
    regs := c.regs.map fun (v : VecReg) => { v with elems := v.elems.mapIdx fun i x => if mine i then 0 else x }
    masks := c.masks.map fun (m : MaskReg) => { m with bits := m.bits.mapIdx fun i x => if mine i then false else x } }

/-- The claims that the pool of a trellis holds, in the order of their grants, each with its first lane (assumption 80). -/
def State.poolClaims (s : State) (place : Nat) : List (Nat × Thread) :=
  let mine := s.threads.filter fun t => t.place = place && t.claim.lanes ≠ 0 && t.run != .saved
  ((sortBy (fun x y => x.claim.stamp ≤ y.claim.stamp) mine).foldl (fun (l : List (Nat × Thread) × Nat) t =>
    (l.1 ++ [(l.2, t)], l.2 + t.claim.lanes)) ([], 0)).1

/-- The storage of a lane of a trellis's pool is cleared (R420). -/
def State.clearLane (s : State) (place lane : Nat) : State :=
  match (s.poolClaims place).find? fun x => x.1 ≤ lane && lane < x.1 + x.2.claim.lanes with
  | some (k, t) => s.modThread t.ident.uid fun t => { t with claim := t.claim.laneCleared (lane - k) }
  | none => s

/-- The accumulator storage of a Press is zeroed; an operation in it goes on (R420). -/
def State.clearPress (s : State) (place : Nat) : State :=
  let zero (r : PressRun) : PressRun := { r with acc := r.acc.map fun _ => 0 }
  let engine (e : Engine) : Engine := if e.place = place then { e with press := e.press.map zero } else e
  { s with engines := s.engines.map engine }

/-- The context of a slot is cleared: a slot in SCRUB becomes FREE, and of another one the wake bit and its label go, with the
registers of the thread that stands there (R420). -/
def State.clearSlot (s : State) (core slot : Nat) : State :=
  let x := s.slot core slot
  if x.state == .scrub then s.freeScrubbed core slot
  else
    let s := if x.state == .free then s else s.setSlot { x with wake := false, wakeLabel := 0 }
    match s.threads.find? fun t => t.core = core && t.slot = slot && t.run != .ended && t.run != .saved with
    | some t => s.modThread t.ident.uid Thread.scrubbed
    | none => s

/-- Clears an item (R420). -/
def State.rakeClear (s : State) (kind target : Nat) : State :=
  match kind with
  | 0 => s.clearSlot (target / 16) (target % 16)
  | 1 => { s with mem := s.mem.clearVat (target / 512) (target % 512) }.vatsCleared (target / 512) (target % 512) 1
  | 2 => { s with mem := s.mem.clearCellar (target / 128) (target % 128) }.vatsCleared (target / 128) (4 * (target % 128)) 4
  | 3 => { s with mem := { s.mem with lines := s.mem.lines.filter fun l => !(l.slice = target / 16 && l.way = target % 16) } }
  | 4 => s.clearPress target
  | _ => s.clearLane (target / 64) (target % 64)

/-- An item waits for the page moves that read or write it (R69). -/
def State.rakeWaits (s : State) (kind target : Nat) : Bool :=
  match kind with
  | 1 => s.vatMoves (target / 512) (target % 512)
  | 2 => (List.range 4).any fun k => s.vatMoves (target / 128) (4 * (target % 128) + k)
  | _ => false

/-- `RAKE_ITEM_DONE`: the Rake has cleared an item: DONE rises, and the next one begins; an item that a page move reads or writes
is looked at again in 16 cycles (R69, R420). -/
def execRakeItemDone (s : State) : Result :=
  let r := s.dev.rake
  match rakeItem r.list r.done with
  | none => .next s
  | some (k, target) =>
    if s.rakeWaits k target then .next (s.schedule (s.time.cycle + 16) .rakeItemDone) else
    let s := s.rakeClear k target
    .next ({ s with dev := { s.dev with rake := { r with done := r.done + 1 } } }).rakeNext

/-- `RAKEJOB`: a write appends one item (R420); a KIND of 6 or 7 is no item. -/
def execRakejob (value : Word) (s : State) : Result :=
  let kind := fieldOf value 0 3
  .next (if 6 ≤ kind then s else s.rakeAppend [⟨kind, fieldOf value 3 29, 1⟩])

/-- `RAKESTAT`: a write of 1 clears RESTARTED (R420). -/
def execRakestat (value : Word) (s : State) : Result :=
  .next (if fieldOf value 1 1 = 1 then { s with dev := { s.dev with rake := { s.dev.rake with restarted := false } } } else s)

/-! ## Service requests (R408) -/

/-- The VA of a request slot (R408). -/
def Part.slotVa (p : Part) (k : Nat) : Word := p.regs.ownbase + 0x2000 + BitVec.ofNat 64 (512 * k)

/-- The device manager reads a request slot of a partition (R408). -/
def State.requestSlot (s : State) (part k : Nat) : Option (List Byte) :=
  match s.part? part with
  | none => none
  | some p =>
    if p.regs.ownbase = 0 then none
    else
      match s.readVa part 0 (p.slotVa k) 512 false with
      | .ok (bs, _) => some bs
      | .error _ => none

/-- The device manager writes a doubleword of a request slot, with the partition's own bit (R367, R408). -/
def State.slotWord (s : State) (part k i : Nat) (v : Word) : State :=
  match s.part? part with
  | none => s
  | some p => (s.writeVa part 0 (p.slotVa k + BitVec.ofNat 64 (8 * i)) (natBytes 8 v.toNat) (partLabel part) false).2

/-- A request is taken: its GO is cleared (R408). -/
def State.takeRequest (s : State) (part k : Nat) (bs : List Byte) : State :=
  s.slotWord part k 0 (putField (wordAt bs 0) 63 1 0)

/-- A request is answered: RESULT with the TAG that was taken and DONE (R408). -/
def State.answerRequest (s : State) (part k tag status : Nat) : State :=
  s.slotWord part k 1 (BitVec.ofNat 64 (status + tag * 2 ^ 16 + 2 ^ 63))

/-- The TAG of a request slot (R408). -/
def requestTag (bs : List Byte) : Nat := fieldAt bs 2 2

/-- A request of a partition is in progress (R408). -/
def State.serving (s : State) (part : Nat) : Bool := s.dev.retiring.any fun r => match r.answer with
  | some (p, _) => p = part
  | none => false

/-- The step of a request by its OP; none for an OP that there is not (R408). -/
def serviceStep (op part k : Nat) : Option Instr :=
  match op with
  | 1 => some (.root part k)
  | 2 => some (.frames part k)
  | 3 => some (.release part k)
  | 4 => some (.ownership part k)
  | 5 => some (.retire part k)
  | _ => none

/-- A request that is taken: its step follows, or it is answered RECORD where its OP or its reserved bits break R408. -/
def State.serveSlot (s : State) (part k : Nat) (bs : List Byte) : State :=
  match serviceStep (fieldAt bs 0 1) part k with
  | some i =>
    if zeroAt bs 1 1 && fieldAt bs 4 4 % 2 ^ 31 = 0 then s.push i
    else (s.takeRequest part k bs).answerRequest part k (requestTag bs) 3
  | none => (s.takeRequest part k bs).answerRequest part k (requestTag bs) 3

/-- The device manager looks at a partition's service page and takes its requests in ascending order, none after a RETIRE, which
may take longer (R408). -/
def State.servePart (s : State) (part : Nat) : State :=
  let look (x : State × Bool) (k : Nat) : State × Bool :=
    match s.requestSlot part k with
    | some bs =>
      if x.2 || !(wordAt bs 0).toNat.testBit 63 then x else (x.1.serveSlot part k bs, fieldAt bs 0 1 = 5)
    | none => x
  if s.serving part then s else ((List.range 16).foldl look (s, false)).1

/-- The device manager looks at the service pages (R408). -/
def State.serveAll (s : State) : State := s.parts.foldl (fun (s : State) p => s.servePart p.num) s

/-- A request is performed: its GO is cleared, its effect and status given by a function of its slot, and DONE written
(R408). -/
def serveRequest (part k : Nat) (s : State) (f : List Byte → State → Nat × State) : Result :=
  match s.requestSlot part k with
  | none => .next s
  | some bs =>
    let (status, s) := f bs (s.takeRequest part k bs)
    .next (s.answerRequest part k (requestTag bs) status)

/-- `ROOT`: a new L0 table, in a frame that the partition owns (R232, R408). -/
def execRoot (part slot : Nat) (s : State) : Result :=
  serveRequest part slot s fun bs s =>
    let pa := fieldAt bs 16 8
    let o := s.frameOwner (pa / 8192)
    if pa % 2048 ≠ 0 then (3, s)
    else if !o.valid || o.owner ≠ part then (2, s)
    else (0, s.modPart part fun p => { p with regs := { p.regs with root := some pa } })

/-- `FRAMES`: the lowest free frames of the colours asked for, or BUSY (R57, R408). -/
def execFrames (part slot : Nat) (s : State) : Result :=
  serveRequest part slot s fun bs s =>
    let n := fieldAt bs 16 1
    let colours := fieldAt bs 17 1
    let own := match s.part? part with
      | some p => p.own.colours
      | none => 0
    if n = 0 || 60 < n || Nat.land colours own ≠ colours then (3, s)
    else
      let fs := s.freeFrames colours n
      if fs.length < n then (1, s)
      else
        let s := fs.foldl (fun (s : State) f => s.allot part f) s
        (0, (List.zip (List.range n) fs).foldl (fun (s : State) x => s.slotWord part slot (4 + x.1) (BitVec.ofNat 64 x.2)) s)

/-- `RELEASE`: frames leave the partition (R408, R419). -/
def execRelease (part slot : Nat) (s : State) : Result :=
  serveRequest part slot s fun bs s =>
    let n := fieldAt bs 16 8
    let fs := (List.range n).map fun k => fieldAt bs (32 + 8 * k) 8
    let mine (f : Nat) : Bool := (s.frameOwner f).valid && (s.frameOwner f).owner = part
    if n = 0 || 60 < n then (3, s)
    else if !fs.all mine then (2, s)
    else (0, fs.foldl (fun (s : State) f => s.freeFrame f) s)

/-! ## Retirement (R416 to R419) -/

/-- A thread of a forced retirement ends without a save: its waits and the results it awaits are dropped (R416). -/
def State.forceEnd (s : State) (uid : Nat) : State :=
  let s := (s.abandonWait uid).2
  let mine := (s.fab.fills.filter fun f => f.uid = uid).map Fill.id
  let clear (e : Engine) : Engine := { e with waits := e.waits.filter fun w => !mine.contains w.fill }
  let s := { s with
    engines := s.engines.map clear
    fab := { s.fab with bars := s.fab.bars.filter fun r => r.uid ≠ uid } }
  (s.dropWait uid fun _ => true).modThread uid fun t => { t with run := .quitting, prog := .fresh, transit := none }

/-- The threads of a partition whose contexts are saved end with their records (R416). -/
def State.endSaved (s : State) (part : Nat) : State :=
  let mine := s.threads.filter fun t => t.ident.part = part && (t.run == .saved || t.run == .fencedAway || t.run == .fenced)
  mine.foldl (fun (s : State) t => s.endThread t) s

/-- The threads of a partition end at their next turns without a save (R416). -/
def State.forceGangs (s : State) (part : Nat) : State :=
  ({ s with gangs := s.gangs.map fun (g : Gang) => if g.part = part then { g with forced := true } else g }).endSaved part

/-- A partition begins to retire: what is queued completes with ABORTED, and with FORCE its threads end at their next turns
(R416). -/
def State.startRetire (s : State) (part : Nat) (force : Bool) (req : Option (Nat × Nat × Nat)) : State :=
  let s := s.modPart part fun p => { p with retiring := true }
  let s := { s with dev := { s.dev with retiring := s.dev.retiring ++ [(⟨part, req, req.isNone, none⟩ : Retirement)] } }
  let s := s.cancelJobs part fun _ => true
  let s := if force then s.forceGangs part else s
  (s.collsLost (some part) []).schedule (s.time.cycle + 32) (.retire part 16)

/-- Everything of a retiring partition that has to end has ended (R366, R416). -/
def State.retireReady (s : State) (part : Nat) : Bool :=
  let jobs := match s.part? part with
    | some p => !p.unit.jobs.isEmpty
    | none => false
  !jobs && !(s.gangs.any fun g => g.part = part) && !(s.census.asked.any fun c => c.part = part) &&
    !(s.census.reqs.any fun r => r.part = part) &&
    s.engines.all fun e => !(e.cmds.any fun c => c.part = part) && !(e.waits.any fun w => w.cmd.part = part)

/-- Halted commands of a retiring partition whose threads have ended are abandoned (R416). -/
def State.abandonCmds (s : State) (part : Nat) : State :=
  if s.gangs.any fun g => g.part = part then s
  else
    let halted := s.engines.flatMap fun e => (e.cmds.filter fun c => c.part = part && c.state == .halted).map fun c => (e.place, c.id)
    halted.foldl (fun (s : State) x => s.endCmd x.1 x.2 statusAborted 0) s

/-- The frames of a partition (R234). -/
def State.framesOf (s : State) (part : Nat) : List FrameOwner := s.mem.owners.filter fun o => o.valid && o.owner = part

/-- The key slot of a partition is erased: what its frames hold, and what the L2 holds of them, is gone (R418, R419). -/
def State.eraseKeys (s : State) (part : Nat) : State :=
  (s.framesOf part).foldl (fun (s : State) o => { s with mem := s.mem.clearHbmFrame o.frame }) s

/-- Changes the retirement of a partition. -/
def State.modRetirement (s : State) (part : Nat) (f : Retirement → Retirement) : State :=
  { s with dev := { s.dev with retiring := s.dev.retiring.map fun r => if r.part = part then f r else r } }

/-- The erase of a partition's key slot is ordered, once (R418): the key labels of its slots go too (R372). -/
def State.orderErase (s : State) (part : Nat) : State :=
  if s.dev.retiring.any fun r => r.part = part && r.erased.isSome then s
  else
    let keys := (s.framesOf part).map FrameOwner.key ++ ((s.part? part).map fun p => p.own.keyslot).toList
    let s := keys.foldl (fun (s : State) k => { s with mem := s.mem.setKeyLabel k 0 }) (s.eraseKeys part)
    let now := s.time.cycle
    s.modRetirement part fun r => { r with erased := some now }

/-- The frames of a partition are released 64 cycles after the erase of its key slot was ordered, when it has ended everywhere
(R416, R418). -/
def State.releaseFrames (s : State) (part : Nat) : State :=
  if s.dev.retiring.any fun r => r.part = part && (match r.erased with
      | some t => t + 64 ≤ s.time.cycle
      | none => false) then (s.framesOf part).foldl (fun (s : State) o => s.freeFrame o.frame) s
  else s

/-- A vat of a partition's cellars holds something: a mapped page, a word or a tag, or a format (R203, R229). -/
def State.vatUsed (s : State) (n vat : Nat) : Bool :=
  let a := panKey n (vat * 2 ^ 16)
  let inside (k : Nat) : Bool := a ≤ k && k < a + 2 ^ 16
  (s.mem.maps.any fun e => e.pan = n && e.valid && e.cellar = vat / 4 && e.frame / 8 = vat % 4) ||
    (s.mem.pan.any fun c => inside c.1) || s.mem.empties.any inside || s.mem.badWords.any inside ||
    s.mem.vats.any fun x => x.1 = n * 512 + vat

/-- The used vats of a cellar as items: the cellar where all four are used, else each (R416, R420). -/
def State.cellarItems (s : State) (n c : Nat) : List RakeItem :=
  let used := (List.range 4).filter fun k => s.vatUsed n (4 * c + k)
  if used.length = 4 then [⟨2, n * 128 + c, 1⟩] else used.map fun k => (⟨1, n * 512 + 4 * c + k, 1⟩ : RakeItem)

/-- What of a retiring partition the Rake has to clear: its slots in scrubbing, its cellars and vats, and the Presses and lanes
that it has used (R416, R421). -/
def State.rakeItems (s : State) (part : Nat) : List RakeItem :=
  match s.part? part with
  | none => []
  | some p =>
    let slots := (s.slots.filter fun x => x.state == .scrub && (s.slotMask part x.core).testBit x.slot).map fun x => x.core * 16 + x.slot
    let cellars := (bitsOf 8 p.own.panmask).flatMap fun n => (bitsOf 128 (p.own.cellars.getD n 0)).flatMap fun c => s.cellarItems n c
    let pool (x : Nat × Nat) : RakeItem := if x.1 = 4 then ⟨4, x.2, 1⟩ else ⟨5, x.2 * 64, 64⟩
    (sortBy (fun x y => x ≤ y) slots).map (fun k => (⟨0, k, 1⟩ : RakeItem)) ++ cellars ++ p.used.map pool

/-- What the units of the part hold of a partition is freed (R416). -/
def State.forget (s : State) (part : Nat) : State :=
  let engine (e : Engine) : Engine := { e with
    retired := e.retired.filter fun r => r.part ≠ part
    next := e.next.filter fun x => x.1 / 8 ≠ part
    fences := e.fences.filter fun f => f.part ≠ part
    shapes := e.shapes.filter fun x => x.part ≠ part
    dir := e.dir.filter fun x => x.part ≠ part
    trcen := e.trcen.filter fun x => x.1 ≠ part }
  { s with
    engines := s.engines.map engine
    mem := { s.mem with maps := s.mem.maps.filter fun e => e.part ≠ part }
    trans := { s.trans with
      hubs := s.trans.hubs.filter fun x => x.2.part ≠ part
      micro := s.trans.micro.filter fun x => x.2.part ≠ part }
    fetch := { s.fetch with
      ilines := s.fetch.ilines.filter fun x => x.part ≠ part
      blocks := s.fetch.blocks.filter fun x => x.part ≠ part
      faults := s.fetch.faults.filter fun x => x.part ≠ part }
    census := { s.census with next := s.census.next.filter fun x => x.1 ≠ part }
    sec := { s.sec with
      policies := s.sec.policies.filter fun e => e.owner ≠ part
      requests := s.sec.requests.filter fun x => x.1 ≠ part } }

/-- Steps 4 and 5 of a retirement: the key is erased, the Rake gets its items, and the partition is no more (R416). -/
def State.finishRetire (s : State) (part : Nat) : State :=
  let s := s.orderErase part
  let items := s.rakeItems part
  let s := s.forget part
  ({ s with parts := s.parts.filter fun p => p.num ≠ part }).rakeAppend items

/-- A retirement goes on: it is looked at every 32 cycles (R416). -/
def State.moreRetire (s : State) (part : Nat) : State :=
  let again (s : State) : State := s.schedule (s.time.cycle + 32) (.retire part 16)
  match s.part? part with
  | some _ =>
    let s := s.abandonCmds part
    again (if s.retireReady part then s.finishRetire part else s)
  | none =>
    let s := s.releaseFrames part
    if s.dev.rake.done < s.dev.rake.fin || !(s.framesOf part).isEmpty then again s
    else
      let mine := s.dev.retiring.filter fun r => r.part = part
      let s := { s with dev := { s.dev with retiring := s.dev.retiring.filter fun r => r.part ≠ part } }
      mine.foldl (fun (s : State) r => match r.answer with
        | some (p, k, tag) => s.answerRequest p k tag 0
        | none => s) s

/-- `RETIRE`: a service request retires a partition (R408, R416). A slot of 16 stands for a retirement that goes on. -/
def execRetire (part slot : Nat) (s : State) : Result :=
  if 16 ≤ slot then .next (s.moreRetire part)
  else
    match s.requestSlot part slot with
    | none => .next s
    | some bs =>
      let s := s.takeRequest part slot bs
      let target := fieldAt bs 16 1 % 32
      let manager : Bool := match s.part? part with
        | some p => p.manager
        | none => false
      let tag := requestTag bs
      if target ≠ part && !manager then .next (s.answerRequest part slot tag 2)
      else if s.dev.retiring.any fun r => r.part = target then .next (s.answerRequest part slot tag 1)
      else if (s.part? target).isNone then .next (s.answerRequest part slot tag 2)
      else .next (s.startRetire target ((wordAt bs 24).toNat.testBit 0) (some (part, slot, tag)))

/-- The window of a function as a reset of the function leaves it (R40, R45, R417). -/
def VirtFn.cleared (v : VirtFn) : VirtFn := { v with staging := [], status := [], masked := 0, pending := 0 }

/-- A partition is erased and retired by force, as a reset of a function with OWNSMEM does: a retirement that a request began goes
on by force, one that a reset began stays as it is (R417, R418). -/
def State.resetPart (s : State) (part : Nat) : State :=
  match s.dev.retiring.find? fun r => r.part = part with
  | none => (s.startRetire part true none).orderErase part
  | some r => if r.reset then s else ((s.orderErase part).forceGangs part).modRetirement part fun r => { r with reset := true }

/-- `FUNCTION_LEVEL_RESET`: a virtual function is reset, bound or not: its records are cancelled in every partition, its window
cleared, its partition's collectives aborted, and with OWNSMEM its partition is erased and retired by force (R53, R284, R417,
R418). -/
def execFunctionLevelReset (vf : Nat) (s : State) : Result :=
  let s := s.modVf vf VirtFn.cleared
  let s := s.parts.foldl (fun (s : State) p => s.cancelJobs p.num fun j => j.vf = some vf) s
  match s.vf? vf with
  | none => .next s
  | some v =>
    let s := s.collsLost (some v.part) []
    .next (if v.ownsMem && (s.part? v.part).isSome then s.resetPart v.part else s)

end Sys2Proof.Machine
end

