-- ==== Sys2Proof/Machine/Resize.lean ====
section
/-! DEFINITION. Changes of ownership while tenants run: slots, cellars, page moves and way sweeps (R56, R66 to R71, R181, R350,
R410, R412, R421). -/

namespace Sys2Proof.Machine

open Sys2Proof

/-! ## The set (R66) -/

/-- A complete ownership set: the new record of each configured partition, in their order. A record of a partition that is not
configured must be 0. -/
def State.setOf (s : State) (bs : List Byte) : Option (List (Part × Ownership)) :=
  let rec_ (p : Nat) : List Byte := (bs.drop (256 * p)).take 256
  let others := (List.range 32).filter fun p => (s.part? p).isNone
  if (s.parts.all fun p => ownershipOk (rec_ p.num)) && others.all fun p => zeroAt (rec_ p) 0 256 then
    some (s.parts.map fun p => (p, Ownership.ofBytes (rec_ p.num)))
  else none

/-- The new record as it takes effect at acceptance: the generation and the FIRM bit stay, RESIZING is set for an affected
partition, and of the cellars only those are left that the partition keeps (R55, R66, R68, R71). -/
def takenOver (old new : Ownership) : Ownership :=
  let keep (n : Nat) : Nat := Nat.land (old.cellars.getD n 0) (new.cellars.getD n 0)
  { new with gen := old.gen, flags := old.flags % 2 + 2, cellars := (List.range 8).map keep }

/-- A set changes a partition's record. -/
def changes (old new : Ownership) : Bool := { new with gen := old.gen, flags := old.flags } != old

/-- The mask of a partition's slots in a core under a record (R55). -/
def Ownership.slotsIn (o : Ownership) (core : Nat) : Nat :=
  if isCompute core then (if o.panmask.testBit (corePan core) then o.slotmask else 0)
  else if isChannel core then o.chslotmask else 0

/-- The owner of a slot under records. -/
def ownerOf (os : List (Nat × Ownership)) (core slot : Nat) : Option Nat :=
  (os.find? fun x => (x.2.slotsIn core).testBit slot).map Prod.fst

/-- The owner of a cellar under records. -/
def cellarOwner (os : List (Nat × Ownership)) (n cellar : Nat) : Option Nat :=
  (os.find? fun x => (x.2.cellars.getD n 0).testBit cellar).map Prod.fst

/-- The slots whose owner changes, in ascending order of core and slot (R67). -/
def movedSlots (old new : List (Nat × Ownership)) : List (Nat × Nat) :=
  (List.range 8448).flatMap fun core =>
    ((List.range 16).filter fun k => ownerOf old core k ≠ ownerOf new core k).map fun k => (core, k)

/-- The cellars whose owner changes, with their new owner (R66). -/
def movedCellars (old new : List (Nat × Ownership)) : List (Nat × Nat × Option Nat) :=
  (List.range 8).flatMap fun n =>
    ((List.range 128).filter fun c => cellarOwner old n c ≠ cellarOwner new n c).map fun c => (n, c, cellarOwner new n c)

/-! ## Page moves (R68) -/

/-- The valid entries of a partition in a Pan that name a cellar it loses, in ascending page (R68). -/
def State.movingEntries (s : State) (part n lost : Nat) : List MapEntry :=
  sortBy (fun x y => x.page ≤ y.page) (s.mem.maps.filter fun e => e.part = part && e.pan = n && e.valid && lost.testBit e.cellar)

/-- A frame of a Pan is named by a valid entry or taken by an earlier move. -/
def State.frameUsed (s : State) (n : Nat) (taken : List PageMove) (cellar frame : Nat) : Bool :=
  (s.mem.maps.any fun e => e.pan = n && e.valid && e.cellar = cellar && e.frame = frame) ||
    taken.any fun m => m.pan = n && m.cellar = cellar && m.frame = frame

/-- The destination of a page in the cellars that its partition keeps: the lowest free frame of a vat with the source's format
register, else the lowest of a vat without a mapped page, whose register then takes that value (R68). -/
def State.moveTo (s : State) (keep : Nat) (taken : List PageMove) (e : MapEntry) : Option (PageMove × State) :=
  let places := (bitsOf 128 keep).flatMap fun c => (List.range 32).map fun f => (c, f)
  let v := s.vat e.pan (frameVat e.cellar e.frame)
  let free (x : Nat × Nat) : Bool := !s.frameUsed e.pan taken x.1 x.2
  let same (x : Nat × Nat) : Bool := free x && s.vat e.pan (frameVat x.1 x.2) = v
  let bare (x : Nat × Nat) : Bool := (List.range 8).all fun k => !s.frameUsed e.pan taken x.1 (x.2 / 8 * 8 + k)
  match places.find? same with
  | some x => some (⟨e.part, e.pan, e.page, x.1, x.2, false⟩, s)
  | none =>
    match places.find? bare with
    | none => none
    | some x =>
      let k := e.pan * 512 + frameVat x.1 x.2
      let rest := s.mem.vats.filter fun y => y.1 ≠ k
      some (⟨e.part, e.pan, e.page, x.1, x.2, false⟩,
        { s with mem := { s.mem with vats := if v = 0 then rest else (k, v) :: rest } })

/-- The moves of pages, one after the other; none where one finds no room (R66, R68). -/
def State.planMoves (s : State) (keepOf : MapEntry → Nat) : List MapEntry → List PageMove → Option (List PageMove × State)
  | [], ms => some (ms, s)
  | e :: es, ms =>
    match s.moveTo (keepOf e) ms e with
    | none => none
    | some (m, s) => s.planMoves keepOf es (ms ++ [m])

/-! ## Acceptance (R66, R67, R181, R412) -/

/-- The gangs that hold a slot of a list: those of its thread, or of the thread away from it (R64). -/
def State.gangsOn (s : State) (slots : List (Nat × Nat)) : List Nat :=
  ((s.threads.filter fun t => t.run != .ended && t.run != .saved && t.ident.gang ≠ 0 &&
      (slots.contains (t.core, t.slot) || slots.contains (t.ident.core0, t.ident.slot0))).map fun t => t.ident.gang).eraseDups

/-- Every gang of a list can be folded, one after the other (R64, R66). -/
def State.canFoldAll (s : State) (gs : List Nat) : Bool :=
  let gangs := gs.filterMap s.gang?
  gangs.all (fun g => s.canFold g || g.folding) &&
    s.parts.all fun p => (p.takeRuns (s.foldsOwe p.num ++
      (gangs.filter fun g => g.part = p.num && !g.folding).flatMap fun g => s.foldRuns g.gid)).isSome

/-- A Pan leaves a partition that has a gang or a valid entry there (R66). -/
def State.panBusy (s : State) (p : Part) (new : Ownership) : Bool :=
  (List.range 8).any fun n => p.own.panmask.testBit n && !new.panmask.testBit n &&
    ((s.gangs.any fun g => g.part = p.num && g.pan = n) || s.mem.maps.any fun e => e.part = p.num && e.pan = n && e.valid)

/-- A directory holds more entries of a partition than its quota under a set (R66, R350). -/
def State.dirBusy (s : State) (new : List (Nat × Ownership)) : Bool :=
  let sharers (n : Nat) : Nat := (new.filter fun x => x.2.panmask.testBit n && x.2.slotmask ≠ 0).length
  s.engines.any fun e =>
    let n := placePan e.place
    s.sharers n < sharers n && s.parts.any fun p => 128 / max 1 (sharers n) < (e.dir.filter fun x => x.part = p.num).length

/-- The removed ways of all partitions (R412). -/
def removedWays (old new : List (Nat × Ownership)) : Nat :=
  (List.range old.length).foldl (fun m k =>
    let a := ((old[k]?).map fun x => x.2.waymask).getD 0
    let b := ((new[k]?).map fun x => x.2.waymask).getD 0
    Nat.lor m (a - Nat.land a b)) 0

/-- The ways that change their owner (R421). -/
def movedWays (old new : List (Nat × Ownership)) : Nat := Nat.lor (removedWays old new) (removedWays new old)

/-- The Pans in which a set reassigns what a quota counts: those that a partition gains or loses, and all of its Pans where the
quota changes (R55, R421). -/
def movedPans (quota : Ownership → Nat) (set : List (Part × Ownership)) : Nat :=
  set.foldl (fun m x =>
    let a := x.1.own.panmask
    let b := x.2.panmask
    Nat.lor m (if quota x.1.own = quota x.2 then Nat.xor a b else Nat.lor a b)) 0

/-- The set reassigns an item that stands in the Rake's list (R421). -/
def State.rakeHolds (s : State) (slots : List (Nat × Nat)) (cellars : List (Nat × Nat × Option Nat)) (ways presses lanes : Nat) : Bool :=
  let r := s.dev.rake
  r.done < r.fin && r.list.any fun x =>
    let inside (t : Nat) : Bool := x.target ≤ t && t < x.target + x.count
    let meets (pans size : Nat) : Bool := (bitsOf 8 pans).any fun n => n * size < x.target + x.count && x.target < (n + 1) * size
    match x.kind with
    | 0 => slots.any fun y => inside (y.1 * 16 + y.2)
    | 1 => cellars.any fun y => (List.range 4).any fun k => inside (y.1 * 512 + 4 * y.2.1 + k)
    | 2 => cellars.any fun y => inside (y.1 * 128 + y.2.1)
    | 3 => (bitsOf 16 ways).any fun w => (List.range 256).any fun k => inside (k * 16 + w)
    | 4 => meets presses 128
    | _ => meets lanes 8192

/-- The gangs with claims that are folded, the most recently granted claim first, until the lanes that a partition holds in a
trellis fit a quota; `going` are gangs that fold in any case (R181). -/
def State.lanesOut (s : State) (part place quota : Nat) : Nat → List Nat → List Nat
  | 0, going => going
  | fuel + 1, going =>
    let mine := s.threads.filter fun t => t.ident.part = part && t.place = place && t.claim.lanes ≠ 0 && t.run != .saved &&
      t.run != .ended && !going.contains t.ident.gang
    if (mine.map fun t => t.claim.lanes).sum ≤ quota then going
    else
      match mine.foldl (fun (b : Option Thread) t => match b with
          | some x => if x.claim.stamp < t.claim.stamp then some t else b
          | none => some t) none with
      | none => going
      | some t => s.lanesOut part place quota fuel (going ++ [t.ident.gang])

/-- The gangs that a set displaces: those on the slots that change owner, and those whose claims no longer fit (R67, R181). -/
def State.displaced (s : State) (set : List (Part × Ownership)) (slots : List (Nat × Nat)) : List Nat :=
  let lanes := set.filter fun x => x.2.vlaneq < x.1.own.vlaneq
  let places := (s.threads.map Thread.place).eraseDups
  lanes.foldl (fun (gs : List Nat) x =>
    places.foldl (fun (gs : List Nat) k => s.lanesOut x.1.num k x.2.vlaneq s.threads.length gs) gs) (s.gangsOn slots)

/-- The turn at which a slot is handed over after a cycle (R67). -/
def handoverAt (now slot : Nat) : Nat :=
  let d := (slot + 16 - now % 16) % 16
  now + (if d = 0 then 16 else d)

/-- The moves that may begin now: at most 16 of a Pan at once, and none that shares a cellar with one that has begun (R69). -/
def State.startMoves (s : State) : State :=
  match s.dev.resize with
  | none => s
  | some r =>
    let source (s : State) (m : PageMove) : Nat := (s.mapEntry m.part m.pan m.page).cellar
    r.moves.foldl (fun (s : State) m =>
      match s.dev.resize with
      | none => s
      | some r =>
        let begun := r.moves.filter fun x => x.begun && x.pan = m.pan
        let shares (x : PageMove) : Bool :=
          let a := [x.cellar, source s x]
          a.contains m.cellar || a.contains (source s m)
        if m.begun || 16 ≤ begun.length || begun.any shares then s
        else
          let mark (x : PageMove) : PageMove := if x == m then { x with begun := true } else x
          { s with dev := { s.dev with resize := some { r with moves := r.moves.map mark } } }.push (.pageMove m.part m.pan m.page)) s

/-- The cellars of a resize whose pages have all moved are cleared (R71). -/
def State.startClears (s : State) (old : List (Nat × Nat)) : State :=
  match s.dev.resize with
  | none => s
  | some r =>
    let waits (x : Nat × Nat × Option Nat) : Bool :=
      r.moves.any fun m => m.pan = x.1 && (s.mapEntry m.part m.pan m.page).cellar = x.2.1
    let ready := r.cellars.filter fun x => !waits x && !old.contains (x.1, x.2.1)
    ready.foldl (fun (s : State) x => s.schedule (s.time.cycle + 1024) (.cellarClear x.1 x.2.1)) s

/-- The cellars of a resize that still wait for a page move. -/
def State.waitingCellars (s : State) : List (Nat × Nat) :=
  match s.dev.resize with
  | none => []
  | some r => (r.cellars.filter fun x =>
      r.moves.any fun m => m.pan = x.1 && (s.mapEntry m.part m.pan m.page).cellar = x.2.1).map fun x => (x.1, x.2.1)

/-- A partition takes its new record at acceptance; the frames that are encrypted under its own key slot follow a new one, which has
the key label of the partition's bit (R372). -/
def State.takeOver (s : State) (p : Part) (new : Ownership) : State :=
  let o := takenOver p.own new
  let rekey (x : FrameOwner) : FrameOwner :=
    if x.valid && x.owner = p.num && x.key = p.own.keyslot then { x with key := o.keyslot } else x
  let s := { s with mem := s.mem.setKeyLabel o.keyslot (partLabel p.num) }
  let s := { s with mem := { s.mem with owners := s.mem.owners.map rekey } }
  (s.modPart p.num fun p => { p with own := o }).syncRecord p.num

/-- An accepted set takes effect; `out` are the gangs that it displaces (R66 to R69, R181, R412). -/
def State.beginResize (s : State) (set : List (Part × Ownership)) (moves : List PageMove) (out : List Nat) : State :=
  let old := set.map fun x => (x.1.num, x.1.own)
  let new := set.map fun x => (x.1.num, x.2)
  let affected := set.filter fun x => changes x.1.own x.2
  let slots := movedSlots old new
  let cellars := movedCellars old new
  let ways := removedWays old new
  let s := affected.foldl (fun (s : State) x => { s with mem := s.mem.setKeyLabel x.1.own.keyslot 0 }) s
  let s := (affected.foldl (fun (s : State) x => s.takeOver x.1 x.2) s).regulated s
  let sweeps := if ways = 0 then [] else (List.range 256).map fun k => (k, ways)
  let s := { s with dev := { s.dev with
    resize := some ⟨affected.map (fun x => x.1.num), slots, [], moves, cellars, sweeps, out⟩ } }
  let now := s.time.cycle
  let s := slots.foldl (fun (s : State) x => s.schedule (handoverAt now x.2) (.slotHandover x.1 x.2)) s
  let s := sweeps.foldl (fun (s : State) x => s.schedule (now + 4) (.waySweep x.1)) s
  let onSlots := s.gangsOn slots
  let fold (s : State) (g : Nat) : State :=
    if onSlots.contains g || s.foldingGang g then s
    else
      match s.gang? g with
      | some x => (s.modGang g fun x => { x with folding := true }).schedule (s.time.cycle + 16) (.fold x.part g 0)
      | none => s
  let s := out.foldl fold s
  ((s.startMoves).startClears []).checkResize

/-- The status of an ownership set of a manager, and the state with it in force where it is accepted (R56, R66, R410, R421). -/
def State.submitSet (s : State) (bs : List Byte) : Nat × State :=
  match s.setOf bs with
  | none => (3, s)
  | some set =>
    let old := set.map fun x => (x.1.num, x.1.own)
    let new := set.map fun x => (x.1.num, x.2)
    if !setOk (new.map Prod.snd) || !regminsOk (set.map fun x => (x.2, x.1.firm)) then (2, s)
    else
      let slots := movedSlots old new
      let cellars := movedCellars old new
      let lost (p n : Nat) : Nat :=
        match set.find? fun x => x.1.num = p with
        | some x => x.1.own.cellars.getD n 0 - Nat.land (x.1.own.cellars.getD n 0) (x.2.cellars.getD n 0)
        | none => 0
      let keep (e : MapEntry) : Nat :=
        match set.find? fun x => x.1.num = e.part with
        | some x => Nat.land (x.1.own.cellars.getD e.pan 0) (x.2.cellars.getD e.pan 0)
        | none => 0
      let out := s.displaced set slots
      let es := set.flatMap fun x => (List.range 8).flatMap fun n => s.movingEntries x.1.num n (lost x.1.num n)
      if s.dev.resize.isSome || (set.any fun x => s.panBusy x.1 x.2) || s.dirBusy new || 
          s.rakeHolds slots cellars (movedWays old new) (movedPans Ownership.pressq set) (movedPans Ownership.vlaneq set) ||
          !s.canFoldAll out then (1, s)
      else
        match s.planMoves keep es [] with
        | none => (1, s)
        | some (moves, s) => (0, s.beginResize set moves out)

/-- `OWNERSHIP`: a manager partition's request for a new ownership set (R66, R408). -/
def execOwnership (part slot : Nat) (s : State) : Result :=
  serveRequest part slot s fun bs s =>
    let manager : Bool := match s.part? part with
      | some p => p.manager
      | none => false
    if !manager then (2, s)
    else
      match s.readVa part 0 (wordAt bs 16) 8192 false with
      | .error _ => (3, s)
      | .ok (set, _) => s.submitSet set

/-! ## Slots (R67) -/

/-- A slot enters SCRUB: the Rake clears its storage in 64 cycles, and the fetch merger of its trellis discards its blocks (R67,
R87). -/
def State.scrubSlot (s : State) (core slot : Nat) : State :=
  let s := s.dropBlocks (fetchPlace core)
  let s := s.setSlot ⟨core, slot, .scrub, false, 0, []⟩
  let s := s.modResize fun r => { r with
    slots := r.slots.filter (fun x => x ≠ (core, slot)), scrubs := r.scrubs ++ [(core, slot)] }
  s.schedule (s.time.cycle + 64) (.slotScrubDone core slot)

/-- `SLOT_HANDOVER`: a slot whose owner changes reaches its turn: it becomes SCRUB, or its gang is folded first, which is looked
at again every 16 cycles (R64, R67). -/
def execSlotHandover (core slot : Nat) (s : State) : Result :=
  if !s.departing core slot then .next s
  else
    let gs := s.gangsOn [(core, slot)]
    if gs.isEmpty then .next (s.scrubSlot core slot)
    else
      let fold (s : State) (g : Nat) : State :=
        match s.gang? g with
        | some x =>
          let s := s.modResize fun r => { r with folds := if r.folds.contains g then r.folds else r.folds ++ [g] }
          if x.folding then s else s.push (.fold x.part g 0)
        | none => s
      .next ((gs.foldl fold s).schedule (s.time.cycle + 16) (.slotHandover core slot))

/-- `SLOT_SCRUB_DONE`: a scrubbed slot is FREE for its new owner (R67). -/
def execSlotScrubDone (core slot : Nat) (s : State) : Result :=
  let s := s.modResize fun r => { r with scrubs := r.scrubs.filter fun x => x ≠ (core, slot) }
  .next (if (s.slot core slot).state == .scrub then s.freeScrubbed core slot else s).checkResize

/-! ## Pages and cellars (R69 to R71) -/

/-- The threads that wait in a list on a word of a page are released: they re-execute their instruction (R70). -/
def State.releaseWaiters (s : State) (part n page : Nat) : State :=
  let on (w : Waiter) : Option Nat := (s.acc? w.acc).bind fun a =>
    if a.part = part && a.pages.contains page && (match a.loc with
      | .pan m _ => m = n
      | .hbm _ => false) then some a.uid else none
  ((s.fab.waiters.filterMap on).eraseDups).foldl (fun (s : State) uid => (s.abandonWait uid).2) s

/-- A command accepted before a move still holds a range over its page: one that has neither retired nor halted (R69). -/
def State.moveWaits (s : State) (part n page order : Nat) : Bool :=
  s.fab.ranges.any fun r =>
    r.active && r.engine ≠ systemQueue && r.accepted < order && r.part = part && r.pan = n && r.first ≤ page && page ≤ r.last &&
      !(match s.cmd? r.engine r.cmd with
        | some c => c.state == .halted
        | none => false)

/-- The number of a move among the ranges. -/
def moveKey (part n page : Nat) : Nat := (part * 8 + n) * 4096 + page

/-- `PAGE_MOVE`: a page begins to move: its moving bit is set and its waiters are released; once what holds it has gone, its copy
takes 10,240 cycles (R69, R70). -/
def execPageMove (part pan page : Nat) (s : State) : Result :=
  let e := s.mapEntry part pan page
  let key := moveKey part pan page
  let s := if e.moving then s else
    let (n, s) := s.fresh
    let s := (s.setMapEntry { e with moving := true }).releaseWaiters part pan page
    { s with fab := { s.fab with ranges := s.fab.ranges ++ [⟨systemQueue, key, part, pan, page, page, true, true, n⟩] } }
  let order := ((s.fab.ranges.find? fun r => r.engine = systemQueue && r.cmd = key).map Range.order).getD 0
  if s.moveWaits part pan page order then .next (s.schedule (s.time.cycle + 16) (.pageMove part pan page))
  else .next (s.schedule (s.time.cycle + 10240) (.pageMoveRetire part pan page))

/-- The words, tags and errors of a frame are copied to another of its Pan (R69). -/
def Memory.copyFrame (m : Memory) (n src dst : Nat) : Memory :=
  let a := panKey n src
  let b := panKey n dst
  let bytes := (List.range 8192).map fun k => cellGet m.pan (a + k)
  let words := (List.range 1024).map fun k => 8 * k
  let put (set : List Nat) (k : Nat) : List Nat := if set.contains (a + k) then setPut set (b + k) else setDrop set (b + k)
  { m with
    pan := cellsWrite m.pan b bytes
    empties := words.foldl put m.empties
    badWords := words.foldl put m.badWords
    softWords := words.foldl put m.softWords }

/-- `PAGE_MOVE_RETIRE`: the copy retires: the entry names the new frame, its moving bit is cleared, and what was held goes on
(R69 to R71). -/
def execPageMoveRetire (part pan page : Nat) (s : State) : Result :=
  let find : Option PageMove := s.dev.resize.bind fun r => r.moves.find? fun m => m.part = part && m.pan = pan && m.page = page
  match find with
  | none => .next s
  | some m =>
    let e := s.mapEntry part pan page
    let waiting := s.waitingCellars
    let at_ (cellar frame : Nat) : Nat := cellar * 2 ^ 18 + frame * 8192
    let s := { s with mem := s.mem.copyFrame pan (at_ e.cellar e.frame) (at_ m.cellar m.frame) }
    let s := (s.setMapEntry { e with cellar := m.cellar, frame := m.frame, moving := false }).retargetAll
    let s := s.modResize fun r => { r with moves := r.moves.filter fun x => !(x.part = part && x.pan = pan && x.page = page) }
    let s := s.freeRanges systemQueue (moveKey part pan page)
    let still := s.waitingCellars
    let done := (match s.dev.resize with
      | some r => r.cellars.map fun (x : Nat × Nat × Option Nat) => (x.1, x.2.1)
      | none => []).filter fun x => !(waiting.contains x && !still.contains x)
    let s := s.engines.foldl (fun (s : State) x => s.kickAll x.place) s
    .next ((s.startMoves).startClears done)

/-- `CELLAR_CLEAR`: a cellar has been cleared, and appears in its new owner's mask (R71). -/
def execCellarClear (pan cellar : Nat) (s : State) : Result :=
  let x := s.dev.resize.bind fun r => r.cellars.find? fun x => x.1 = pan && x.2.1 = cellar
  let s := { s with mem := s.mem.clearCellar pan cellar }.vatsCleared pan (4 * cellar) 4
  let s := s.modResize fun r => { r with cellars := r.cellars.filter fun x => !(x.1 = pan && x.2.1 = cellar) }
  let gain (p : Part) : Part := { p with own := { p.own with
    cellars := p.own.cellars.set pan (Nat.lor (p.own.cellars.getD pan 0) (2 ^ cellar)) } }
  match x.bind fun y => y.2.2 with
  | some p => .next ((s.modPart p gain).syncRecord p).checkResize
  | none => .next s.checkResize

/-- The line at a step of a slice's sweep: the sets of the lowest removed way first (R412). -/
def State.sweepLine (s : State) (slice mask step : Nat) : Option L2Line :=
  let ways := bitsOf 16 mask
  s.mem.lines.find? fun l => l.slice = slice && some l.way == ways[step / 256]? && l2Set l.line = step % 256

/-- `WAY_SWEEP`: a slice looks at the next line of the removed ways, every 4 cycles: a valid one is written back and invalidated
(R412). The steps taken stand above the mask of a slice's entry. -/
def execWaySweep (slice : Nat) (s : State) : Result :=
  match s.dev.resize.bind fun r => r.sweeps.find? fun x => x.1 = slice with
  | none => .next s
  | some (_, code) =>
    let mask := code % 2 ^ 16
    let step := code / 2 ^ 16
    let s := match s.sweepLine slice mask step with
      | some l =>
        let s := if l.dirty = 0 then s
          else s.countSectors slice (s.frameOwner (l.line * 256 / 8192)).owner 0 (onesBelow 8 l.dirty)
        { s with mem := s.mem.evict l }
      | none => s
    let last := 256 * onesBelow 16 mask ≤ step + 1
    let next (x : Nat × Nat) : Nat × Nat := if x.1 = slice then (slice, code + 2 ^ 16) else x
    let s := s.modResize fun r => { r with
      sweeps := if last then r.sweeps.filter (fun x => x.1 ≠ slice) else r.sweeps.map next }
    .next (if last then s.checkResize else s.schedule (s.time.cycle + 4) (.waySweep slice))

/-- `RESIZED`: a resize that touched a partition is over: GEN rises, RESIZING clears, and the RESIZED event is placed (R71). -/
def execResized (part : Nat) (s : State) : Result :=
  match s.part? part with
  | none => .next s
  | some p =>
    let gen := p.own.gen + 1
    let s := (s.modPart part fun p => { p with own := { p.own with gen := gen, flags := p.own.flags % 2 } }).syncRecord part
    .next ((s.fault part ⟨0x20, 0, 0, [BitVec.ofNat 64 gen]⟩).askPass part)

end Sys2Proof.Machine
end

