-- ==== Sys2Proof/Machine/Outside.lean ====
section
/-! DEFINITION. What reaches the part from outside: the host's writes and reads, packets and failures of the links, attestation
of ports and of the part, power and resets (R40, R41, R147, R284, R347, R373 to R377, R420 to R426, R452). -/

namespace Sys2Proof.Machine

open Sys2Proof

/-! ## Writes from outside (R347, R373) -/

/-- The pieces of a run of bytes that lie each within one word: the offset and its bytes. -/
def wordPieces : Nat → Nat → List Byte → List (Nat × List Byte)
  | 0, _, _ => []
  | fuel + 1, addr, bs =>
    if bs.isEmpty then []
    else
      let k := 8 - addr % 8
      let rest := wordPieces fuel (addr + k) (bs.drop k)
      (addr, bs.take k) :: rest

/-- A write of up to a word from a hub die to a checked place: a cross-die write, wherever it lies (R347). -/
def State.outsideWord (s : State) (part die : Nat) (port : Option Nat) (label : Label) (va : Word) (x : Target) (bs : List Byte) : State :=
  let (id, s) := s.fresh
  let (num, pair, s) := s.sendCross die x.loc.die
  let now := s.time.cycle
  let a : Acc :=
    { id := id, uid := id, part := part, op := .store bs.length (BitVec.ofNat 64 (bytesNat bs)), loc := x.loc, va := va, pc := 0
      label := label, plabel := x.label, posted := true, ordered := false, clock := (List.replicate 16 0).set die num
      srcDie := die, num := num, pair := pair, cross := true, input := 11, trellis := 0, source := 0
      klass := (if x.loc.isHbm then 3 else 0), legs := 0, asked := now, due := now, fill := none, noalloc := x.noalloc
      kept := false, came := 0, port := port, state := .sent }
  { s with fab := { s.fab with accs := s.fab.accs ++ [a] } }.push (.postedWriteArrival id)

/-- The places of a write from outside, or the first translation that refuses it (R452). -/
def State.outsidePlaces (s : State) (part : Nat) (pieces : List (Nat × List Byte)) :
    Except (TrapCode × Nat) (List (Nat × List Byte × Target)) :=
  pieces.foldr (fun p (acc : Except (TrapCode × Nat) (List (Nat × List Byte × Target))) =>
    if 2 ^ 64 ≤ p.1 then .error (.prot, p.1)
    else
      match (if (namedWindow p.1).isNone && !isGlobal p.1 then .error (.prot, 0)
          else s.placeOf part 0 (BitVec.ofNat 64 p.1) writeKind false : Except TransFault Target) with
      | .error e => .error (e.1, p.1)
      | .ok x =>
        match acc with
        | .error e => .error e
        | .ok l => .ok ((p.1, p.2, x) :: l)) (.ok [])

/-- A write from outside for a partition: translated whole, then sent word by word as writes of a hub die; or the fault that
refuses it (R347, R452). -/
def State.outsideWrite (s : State) (part die : Nat) (port : Option Nat) (addr : Nat) (data : List Byte) (label : Label) :
    Option (TrapCode × Nat) × State :=
  match s.outsidePlaces part (wordPieces (data.length + 1) addr data) with
  | .error e => (some e, s)
  | .ok l => (none, l.foldl (fun (s : State) x => s.outsideWord part die port label (BitVec.ofNat 64 x.1) x.2.2 x.2.1) s)

/-! ## The host (R40, R41, R376, R377, R452) -/

/-- The hub die of the host port (R3, R407). Before any configuration record HOSTPORT is 0 (assumption 1). -/
def State.hostDie (s : State) : Nat := if s.dev.hostPort = 0 then 8 else 10

/-- The HOSTFAULT event (R393, R452). -/
def hostFault (vf : Nat) (write : Bool) (c : TrapCode) (addr : Nat) : FaultEvent :=
  ⟨0x23, trapNumber c, vf + write.toNat * 256, [0, 0, BitVec.ofNat 64 addr]⟩

/-- `HOST_WRITE`: a host write through a virtual function is translated, checked and performed, or discarded; before PWRGD the
host port is in reset, and nothing arrives (R347, R373, R425, R452). -/
def execHostWrite (vf addr : Nat) (data : List Byte) (s : State) : Result :=
  if !s.dev.pwrgd then .next s else
  match s.vf? vf with
  | none => .next s
  | some v =>
    match s.outsideWrite v.part s.hostDie none addr data (partLabel v.part) with
    | (none, s) => .next s
    | (some (c, a), s) => .next (s.fault v.part (hostFault vf true c a))

/-- A virtual function by its number, whether or not it is bound (R40). -/
def State.function? (s : State) (n : Nat) : Option VirtFn := s.vfs.find? fun v => v.num = n

/-- The base from which the model numbers the launch window of a function: no VA is so high. -/
def windowBase : Nat := 2 ^ 64

/-- A doubleword of a launch window as a read gives it (R40, R41); QUEUEFREE holds its reset value while the function's
partition is not configured (assumption 43). -/
def State.windowWord (s : State) (v : VirtFn) (i : Nat) : Word :=
  if 0x100 ≤ i && i < 0x120 then ((v.status.find? fun x => x.1 = i - 0x100).map Prod.snd).getD 0xFFFF
  else if i = 0x120 then
    match (if v.valid then s.part? v.part else none : Option Part) with
    | some p => p.queueFree
    | none => 0x0100010001000100
  else 0

/-- Bytes of a launch window as a read gives them (R40). -/
def State.windowBytes (s : State) (v : VirtFn) (off n : Nat) : List Byte :=
  (List.range n).map fun k => BitVec.ofNat 8 (bitsAt (s.windowWord v ((off + k) / 8)).toNat (8 * ((off + k) % 8)) 8)

/-- `HOST_READ`: a host read is translated, passed by the Sluice, and completed or aborted; one of the launch window gives its
status words; one that meets an uncorrectable error is aborted with a DATAERR event; before PWRGD the host port is in reset, and
nothing arrives (R40, R41, R217, R376, R377, R425, R452). -/
def execHostRead (vf addr len : Nat) (s : State) : Result :=
  if !s.dev.pwrgd then .next s else
  match s.function? vf with
  | none => .next (s.emit (.hostAbort vf (BitVec.ofNat 64 addr)))
  | some v =>
    let va := BitVec.ofNat 64 addr
    if windowBase ≤ addr then .next (s.emit (.hostRead vf va (s.windowBytes v (addr - windowBase) len)))
    else if !v.valid then .next (s.emit (.hostAbort vf va))
    else if (namedWindow addr).isNone && !isGlobal addr then
      .next ((s.fault v.part (hostFault vf false .prot addr)).emit (.hostAbort vf va))
    else
      match s.readVa v.part 0 va len false with
      | .error ((c, _), a) =>
        let event := if c = .dataerr then ⟨0x0A, 0, 0, [0, 0, a]⟩ else hostFault vf false c a.toNat
        .next ((s.fault v.part event).emit (.hostAbort vf va))
      | .ok (bs, l) =>
        match s.sluice v.part l (.host vf) len with
        | .error r => .next ((s.sluiceEvent v.part r va l vf).emit (.hostAbort vf va))
        | .ok (_, s) => .next (s.emit (.hostRead vf va bs))

/-! ## The links (R147, R284, R347, R374, R375) -/

/-- The hub die of a fabric port: ports 4h to 4h + 3 are on hub h (R3). -/
def portDie (port : Nat) : Nat := 8 + port / 4

/-- A packet is refused: its sender is told (R373, R375). -/
def State.refusePacket (s : State) (port : Nat) (sender : Option Nat) (addr : Word) (label : Label) : State :=
  s.emit (.refused port sender addr label s.dev.chip)

/-- An outstanding invocation is answered with a status; one that has been answered stays so (R147). -/
def State.answerInvoke (s : State) (fid status : Nat) : State :=
  match s.fill? fid with
  | some f => if f.parts = 0 then s else s.deliver fid 0 (BitVec.ofNat 64 status) none 0
  | none => s

/-- Whether some byte of a packet lies outside what its label may be written to, or nowhere (R375). -/
def State.outsideRefused (s : State) (part : Nat) (addr : Word) (data : List Byte) (l : Label) : Bool :=
  match s.outsidePlaces part (wordPieces (data.length + 1) addr.toNat data) with
  | .ok places => places.any fun x => !labelLe l x.2.2.label
  | .error _ => true

/-- `FABRIC_PACKET_ARRIVAL`: a packet arrives by Saurn Link: a write with its label mapped, an answer to an invocation, or the
refusal of a write (R147, R347, R373, R375). -/
def execFabricPacketArrival (pkt : FabricPacket) (s : State) : Result :=
  match pkt with
  | .answer _ reply status => .next (s.answerInvoke reply status)
  | .refused _ part addr label chip => .next (s.sluiceEvent part 5 addr label chip)
  | .write port sender addr data label =>
    match (s.localOf port sender).bind s.part?, s.port? port with
    | some p, some q =>
      match mapIn q p.num label with
      | none => .next (s.refusePacket port sender addr label)
      | some l =>
        let outside := s.outsideRefused p.num addr data l
        match s.outsideWrite p.num (portDie port) (some port) addr.toNat data l with
        | (none, s) => .next (if outside then s.refusePacket port sender addr label else s)
        | (some _, s) => .next (s.refusePacket port sender addr label)
    | _, _ => .next (s.refusePacket port sender addr label)

/-- Changes a port. -/
def State.modPort (s : State) (n : Nat) (f : Port → Port) : State :=
  { s with sec := { s.sec with ports := s.sec.ports.map fun (p : Port) => if p.num = n then f p else p } }

/-- `LINK_FAILURE`: a link fails: invocations outstanding on it are answered NOROUTE, and collectives with members behind it are
aborted (R147, R284). -/
def execLinkFailure (port : Nat) (s : State) : Result :=
  let chips := match s.port? port with
    | some p => p.chips
    | none => []
  let s := s.modPort port fun p => { p with up := false, attested := false }
  let open_ (o : Outgoing) : Option Nat := match o with
    | .invoke p _ i => if p = port then some i.reply else none
    | .host _ _ _ | .hostRead _ _ _ | .hostAbort _ _ | .fabric _ _ _ _ _ | .telemetry _ _ | .msix _ _ | .refused _ _ _ _ _ | .answer _ _ _
    | .handlerError _ _ _ _ | .collective _ _ _ | .report _ | .thermtrip => none
  let s := (s.out.filterMap open_).foldl (fun (s : State) f => s.answerInvoke f 4) s
  .next (s.collsLost none chips)

/-- A label map or partition map as two controllers agree it: which entries it has, and what they name, the spec leaves to
them; no two entries of a label map name the same peer bit (R50, R374). -/
def agreedMap (draw : Nat → Word) : List (Option Nat) :=
  (List.range 32).foldl (fun (m : List (Option Nat)) k =>
    let v := draw k
    let peer := fieldOf v 1 5
    m ++ [if fieldOf v 0 1 = 1 && !m.contains (some peer) then some peer else none]) []

/-- `PORT_ATTESTATION`: the two controllers of a link attest it and agree its label map and its partition map, whose content is
open (R50, R374). There are 16 ports (R3). -/
def execPortAttestation (port : Nat) (s : State) : Result :=
  let n := s.time.draws
  let map := agreedMap fun k => Config.freeValue (n + k)
  let parts := agreedMap fun k => Config.freeValue (n + 32 + k)
  if (s.port? port).isNone then .next s
  else
    let s := { s with time := { s.time with draws := n + 64 } }
    .next (s.modPort port fun p => { p with up := true, attested := true, map := map, parts := parts })

/-! ## Power, resets and attestation (R420 to R426) -/

/-- The whole device, as the Rake clears it (R421). -/
def wholeDevice : List RakeItem :=
  [⟨0, 0, 8448 * 16⟩, ⟨2, 0, 1024⟩, ⟨3, 0, 4096⟩, ⟨4, 0, 1024⟩, ⟨5, 0, 65536⟩]

/-- The cycles that clearing the whole device takes (R420, R421). -/
def wholeDeviceCycles : Nat := wholeDevice.foldl (fun n x => n + rakeCycles x.kind * x.count) 0

/-- The part after a reset at a cycle: as at reset, but for time, what has left, and what the security controller and the device
manager keep (R82, R421). -/
def State.restarted (s : State) (sec : Security) (dev : Device) : State :=
  let r := State.reset
  let c := s.time.cycle
  { r with
    time := { r.time with
      cycle := c, closed := true, calendar := r.time.calendar.map (fun e => (c + e.1, e.2)), next := s.time.next
      draws := s.time.draws }
    sec := sec, dev := dev, out := s.out }

/-- The device manager's threads start in slots 1 to 15 of the management core, in device mode, with the registers of assumption 1
(R82). -/
def State.startManagers (s : State) : State :=
  ((List.range 15).map fun k => k + 1).foldl (fun (s : State) k =>
    let (uid, s) := s.fresh
    let m := Thread.management
    let t := { m with slot := k, ident := { m.ident with uid := uid, slot0 := k } }
    { s with others := s.others ++ [t] }.setSlot ⟨8448, k, .occupied, false, 0, []⟩) s

/-- `DEVICE_RESET`: the scrub of the whole device restarts, keys are erased and every cleared bit is set (R421). -/
def execDeviceReset (s : State) : Result :=
  let dev := { State.reset.dev with
    chip := s.dev.chip, plimit := s.dev.plimit, hostPort := s.dev.hostPort, owner := s.dev.owner, tripped := s.dev.tripped }
  let sec := { s.sec with policies := [], requests := [], error := 0 }
  let s := (s.restarted sec dev).startManagers.rakeAppend wholeDevice
  .next { s with dev := { s.dev with rake := { s.dev.rake with restarted := true } } }

/-- A measurement register extended by an image (R422). -/
def extended (mr img : List Byte) : List Byte := shake256 (mr ++ shake256 img 64) 64

/-- An image carries the vendor's signature after its body (R422). -/
def vendorSigned (img : List Byte) : Bool :=
  let n := img.length - signatureBytes
  signatureBytes ≤ img.length && signatureOk Config.vendorKey (img.take n) (img.drop n)

/-- The device after the first provisioning, which writes the digest of the owner key once (R407, assumption 6). -/
def State.provisioned (s : State) : State :=
  if s.dev.owner.isEmpty then { s with dev := { s.dev with owner := ownerDigest } } else s

/-- `POWER_ON`: the security controller measures and verifies the images; one that fails keeps the device in reset with its error
code; else the Rake clears the device, after which the configuration record is applied and PWRGD asserted (R422, R425). -/
def execPowerOn (fw dm cfg : List Byte) (s : State) : Result :=
  let s := s.provisioned
  let error := if !vendorSigned fw then 1 else if !vendorSigned dm then 2 else if !s.configSigned cfg then 3 else 0
  let measured := if error = 1 then [fw] else if error = 2 then [fw, dm] else [fw, dm, cfg]
  let mrs := (List.range 3).map fun k =>
    match measured[k]? with
    | some img => extended (List.replicate 64 0) img
    | none => List.replicate 64 0
  let sec : Security := { State.reset.sec with
    boots := s.sec.boots + 1, bootId := wordAt (Config.bootId s.sec.boots) 0, bootAt := s.time.cycle, mrs := mrs, error := error }
  let dev := { State.reset.dev with
    chip := s.dev.chip, owner := s.dev.owner, tripped := s.dev.tripped, halted := error ≠ 0 }
  let s := s.restarted sec dev
  if error ≠ 0 then .next s
  else
    let s := s.startManagers.rakeAppend wholeDevice
    .next (s.schedule (s.time.cycle + wholeDeviceCycles + 1) (.signedConfigurationRecord cfg))

/-- The bytes of an attestation report that are signed (R423). -/
def State.reportBody (s : State) (nonce : List Byte) : List Byte :=
  natBytes 8 s.sec.bootId.toNat ++ (nonce ++ List.replicate 32 0).take 32 ++ s.sec.mrs.flatten ++
    (Config.identityKey ++ List.replicate 64 0).take 64

/-- The signature of a report by the identity key (R423). -/
def deviceSignature (body : List Byte) : List Byte := (List.range signatureBytes).map (Config.deviceSign body)

/-- `ATTESTATION_REQUEST`: a measurement request, over DOE or through the Sluice, is answered with a signed report (R423,
assumption 102). -/
def execAttestationRequest (nonce : List Byte) (s : State) : Result :=
  let body := s.reportBody nonce
  .next (s.emit (.report (body ++ deviceSignature body)))

end Sys2Proof.Machine
end

