-- ==== Sys2Proof/Machine/Packed.lean ====
section
/-! DEFINITION. Packed SIMD, complex and fixed-point, and bit-field operations on general registers (R117 to R125). -/

namespace Sys2Proof.Machine

open Sys2Proof

/-- `padd`: adds packed lanes modulo 2^w (R118). -/
def execPadd (d a b : Reg) (w : PWidth) (ta tb : Bool) (s : State) : Result :=
  aluR (packedU w (· + ·)) d a b ta tb s

/-- `padd.ss`: adds packed lanes with signed saturation (R118). -/
def execPaddSs (d a b : Reg) (w : PWidth) (ta tb : Bool) (s : State) : Result :=
  aluR (packedS w fun x y => satS (x + y) (pbits w)) d a b ta tb s

/-- `padd.us`: adds packed lanes with unsigned saturation (R118). -/
def execPaddUs (d a b : Reg) (w : PWidth) (ta tb : Bool) (s : State) : Result :=
  aluR (packedU w fun x y => satU (x + y) (pbits w)) d a b ta tb s

/-- `psub`: subtracts packed lanes modulo 2^w (R118). -/
def execPsub (d a b : Reg) (w : PWidth) (ta tb : Bool) (s : State) : Result :=
  aluR (packedU w (· - ·)) d a b ta tb s

/-- `psub.ss`: subtracts packed lanes with signed saturation (R118). -/
def execPsubSs (d a b : Reg) (w : PWidth) (ta tb : Bool) (s : State) : Result :=
  aluR (packedS w fun x y => satS (x - y) (pbits w)) d a b ta tb s

/-- `psub.us`: subtracts packed lanes with unsigned saturation (R118). -/
def execPsubUs (d a b : Reg) (w : PWidth) (ta tb : Bool) (s : State) : Result :=
  aluR (packedU w fun x y => satU (x - y) (pbits w)) d a b ta tb s

/-- `pmul`: multiplies packed lanes modulo 2^w (R118). -/
def execPmul (d a b : Reg) (w : PWidth) (ta tb : Bool) (s : State) : Result :=
  aluR (packedU w (· * ·)) d a b ta tb s

/-- `pmul.ss`: multiplies packed lanes with signed saturation (R118). -/
def execPmulSs (d a b : Reg) (w : PWidth) (ta tb : Bool) (s : State) : Result :=
  aluR (packedS w fun x y => satS (x * y) (pbits w)) d a b ta tb s

/-- `pmin`: takes the signed minimum per lane (R118). -/
def execPmin (d a b : Reg) (w : PWidth) (ta tb : Bool) (s : State) : Result :=
  aluR (packedS w min) d a b ta tb s

/-- `pmin.u`: takes the unsigned minimum per lane (R118). -/
def execPminU (d a b : Reg) (w : PWidth) (ta tb : Bool) (s : State) : Result :=
  aluR (packedU w min) d a b ta tb s

/-- `pmax`: takes the signed maximum per lane (R118). -/
def execPmax (d a b : Reg) (w : PWidth) (ta tb : Bool) (s : State) : Result :=
  aluR (packedS w max) d a b ta tb s

/-- `pmax.u`: takes the unsigned maximum per lane (R118). -/
def execPmaxU (d a b : Reg) (w : PWidth) (ta tb : Bool) (s : State) : Result :=
  aluR (packedU w max) d a b ta tb s

/-- `psh.ll`: shifts every lane left by the low bits of b (R118). -/
def execPshLl (d a b : Reg) (w : PWidth) (ta tb : Bool) (s : State) : Result :=
  aluR (packedShift w fun x k => x * 2 ^ k) d a b ta tb s

/-- `psh.rl`: shifts every lane right logically (R118). -/
def execPshRl (d a b : Reg) (w : PWidth) (ta tb : Bool) (s : State) : Result :=
  aluR (packedShift w fun x k => x / 2 ^ k) d a b ta tb s

/-- `psh.ra`: shifts every lane right arithmetically (R118). -/
def execPshRa (d a b : Reg) (w : PWidth) (ta tb : Bool) (s : State) : Result :=
  aluR (packedShift w fun x k => wrapInt (pbits w) (signedNat (pbits w) x / 2 ^ k)) d a b ta tb s

/-- `pcmp.eq`: sets each lane to all ones where lanes are equal (R118). -/
def execPcmpEq (d a b : Reg) (w : PWidth) (ta tb : Bool) (s : State) : Result :=
  aluR (packedCmp w fun x y => x == y) d a b ta tb s

/-- `pcmp.lt`: sets each lane to all ones where signed less (R118). -/
def execPcmpLt (d a b : Reg) (w : PWidth) (ta tb : Bool) (s : State) : Result :=
  aluR (packedCmp w fun x y => signedNat (pbits w) x < signedNat (pbits w) y) d a b ta tb s

/-- `pcmp.ltu`: sets each lane to all ones where unsigned less (R118). -/
def execPcmpLtu (d a b : Reg) (w : PWidth) (ta tb : Bool) (s : State) : Result :=
  aluR (packedCmp w fun x y => x < y) d a b ta tb s

/-- `pabsd`: writes the absolute difference per lane (R118). -/
def execPabsd (d a b : Reg) (w : PWidth) (ta tb : Bool) (s : State) : Result :=
  aluR (packedS w fun x y => ((x - y).natAbs : Int)) d a b ta tb s

/-- `ppack`: narrows lanes of a and b to half width by truncation (R119). -/
def execPpack (d a b : Reg) (w : PWidth) (ta tb : Bool) (s : State) : Result :=
  aluR (packLanes w fun x => (x : Int)) d a b ta tb s

/-- `ppack.ss`: narrows lanes with signed saturation (R119). -/
def execPpackSs (d a b : Reg) (w : PWidth) (ta tb : Bool) (s : State) : Result :=
  aluR (packLanes w fun x => satS (signedNat (pbits w) x) (pbits w / 2)) d a b ta tb s

/-- `ppack.us`: narrows lanes with unsigned saturation (R119). -/
def execPpackUs (d a b : Reg) (w : PWidth) (ta tb : Bool) (s : State) : Result :=
  aluR (packLanes w fun x => satU (signedNat (pbits w) x) (pbits w / 2)) d a b ta tb s

/-- `cmul`: writes the two-term CI16 complex dot product into the pair d, d+1 (R121). -/
def execCmul (d a b : Reg) (ta tb : Bool) (s : State) : Result :=
  cplx false false d a b ta tb 4 s

/-- `cmac`: accumulates the complex dot product into the pair d, d+1 (R121). -/
def execCmac (d a b : Reg) (ta tb : Bool) (s : State) : Result :=
  cplx true false d a b ta tb 4 s

/-- `cmacj`: accumulates the complex dot product with b conjugated (R121). -/
def execCmacj (d a b : Reg) (ta tb : Bool) (s : State) : Result :=
  cplx true true d a b ta tb 4 s

/-- `cabs2`: writes the squared magnitudes of the two CI16 elements (R122). -/
def execCabs2 (d a : Reg) (ta _tb : Bool) (s : State) : Result :=
  alu1 aluCabs2 d a ta s

/-- `mulq`: multiplies four Q15 lanes with rounding and saturation (R122). -/
def execMulq (d a b : Reg) (ta tb : Bool) (s : State) : Result :=
  aluR aluMulq d a b ta tb s

/-- `sat`: saturates a signed value to n bits, sign-extended (R123). -/
def execSat (d a : Reg) (n : BitVec 5) (ta _tb : Bool) (s : State) : Result :=
  alu1 (aluSat (n.toNat + 1)) d a ta s

/-- `satu`: saturates a signed value to n unsigned bits (R123). -/
def execSatu (d a : Reg) (n : BitVec 5) (ta _tb : Bool) (s : State) : Result :=
  alu1 (aluSatu (n.toNat + 1)) d a ta s

/-- `clz`: counts leading zero bits of a (R124). -/
def execClz (d a : Reg) (ta _tb : Bool) (s : State) : Result :=
  alu1 (fun x => BitVec.ofNat 64 (leadingZeros x.toNat)) d a ta s

/-- `ctz`: counts trailing zero bits of a (R124). -/
def execCtz (d a : Reg) (ta _tb : Bool) (s : State) : Result :=
  alu1 (fun x => BitVec.ofNat 64 (zerosBelow 64 x.toNat)) d a ta s

/-- `popc`: counts one bits of a (R124). -/
def execPopc (d a : Reg) (ta _tb : Bool) (s : State) : Result :=
  alu1 (fun x => BitVec.ofNat 64 (onesBelow 64 x.toNat)) d a ta s

/-- `bswap`: reverses the byte order of a (R124). -/
def execBswap (d a : Reg) (ta _tb : Bool) (s : State) : Result :=
  alu1 aluBswap d a ta s

/-- `bext`: extracts a sign-extended bit field of a described by b (R125). -/
def execBext (d a b : Reg) (ta tb : Bool) (s : State) : Result :=
  aluR aluBext d a b ta tb s

/-- `bextu`: extracts a zero-extended bit field of a (R125). -/
def execBextu (d a b : Reg) (ta tb : Bool) (s : State) : Result :=
  aluR aluBextu d a b ta tb s

/-- `bins`: inserts the low bits of a into a field of d (R125). -/
def execBins (d a b : Reg) (ta tb : Bool) (s : State) : Result :=
  aluRd aluBins d a b ta tb s

end Sys2Proof.Machine
end

