-- ==== Sys2Proof/Machine/Tlb.lean ====
section
/-! DEFINITION. `tlbinv` (R100, R259). -/

namespace Sys2Proof.Machine

open Sys2Proof

/-- Work of the engines translated under a discarded entry has not retired (R259): a command of the partition older than a number
of the model has begun. -/
def engineWork (part n : Nat) (s : State) : Bool :=
  s.engines.any fun e => e.cmds.any fun c => c.part = part && c.id < n && c.state == .started

/-- The word of a `tlbinv`, for PRIV (R101). -/
def tlbinvWord (fn : Nat) (a b : Reg) (ta tb : Bool) : Word :=
  BitVec.ofNat 64 (0x33 + a.val * 2 ^ 12 + b.val * 2 ^ 17 + ta.toNat * 2 ^ 22 + tb.toNat * 2 ^ 23 + fn * 2 ^ 24)

/-- `tlbinv.trellis`: the engine caches of the origin trellis (R259). -/
def execTlbinvTrellis (a b : Reg) (ta tb : Bool) (s : State) : Result :=
  tlbinv 0 (tlbinvWord 2 a b ta tb) a b ta tb (engineWork s.t.ident.part) s

/-- `tlbinv.pan`: the engine caches of the origin Pan (R259). -/
def execTlbinvPan (a b : Reg) (ta tb : Bool) (s : State) : Result :=
  tlbinv 1 (tlbinvWord 3 a b ta tb) a b ta tb (engineWork s.t.ident.part) s

/-- `tlbinv.partition`: the engine caches of the partition's Pans, and the hubs (R259). -/
def execTlbinvPartition (a b : Reg) (ta tb : Bool) (s : State) : Result :=
  tlbinv 2 (tlbinvWord 4 a b ta tb) a b ta tb (engineWork s.t.ident.part) s

/-- `tlbinv.package`: as `.partition`, and waits for the work translated under the entries (R259). -/
def execTlbinvPackage (a b : Reg) (ta tb : Bool) (s : State) : Result :=
  tlbinv 3 (tlbinvWord 5 a b ta tb) a b ta tb (engineWork s.t.ident.part) s

end Sys2Proof.Machine
end

