-- ==== Sys2Proof/Machine/Dispatch.lean ====
section
/-! DEFINITION. The meaning of each constructor of Instr, one direct call per arm. -/

namespace Sys2Proof.Machine

open Sys2Proof

def exec (i : Instr) (s : State) : Host.Outcome State Fault Refusal :=
  match i with
  | .asyncTrapDelivery => Sys2Proof.Machine.execAsyncTrapDelivery s
  | .fetchLineInstall read => Sys2Proof.Machine.execFetchLineInstall read s
  | .bankArbitration pan bank => Sys2Proof.Machine.execBankArbitration pan bank s
  | .resultFill fill => Sys2Proof.Machine.execResultFill fill s
  | .migrationArrival uid => Sys2Proof.Machine.execMigrationArrival uid s
  | .arrivalBufferPlace core part => Sys2Proof.Machine.execArrivalBufferPlace core part s
  | .migrationResend uid => Sys2Proof.Machine.execMigrationResend uid s
  | .migrationPlacedNotice core slot => Sys2Proof.Machine.execMigrationPlacedNotice core slot s
  | .migrationFallback uid => Sys2Proof.Machine.execMigrationFallback uid s
  | .proxiedAccess acc => Sys2Proof.Machine.execProxiedAccess acc s
  | .postedWriteArrival acc => Sys2Proof.Machine.execPostedWriteArrival acc s
  | .postedWriteAck acc => Sys2Proof.Machine.execPostedWriteAck acc s
  | .postedWakeArrival acc => Sys2Proof.Machine.execPostedWakeArrival acc s
  | .translationRequest req => Sys2Proof.Machine.execTranslationRequest req s
  | .translationWalkDone walk => Sys2Proof.Machine.execTranslationWalkDone walk s
  | .l2FillBurst fill => Sys2Proof.Machine.execL2FillBurst fill s
  | .hbmFillReturn fill => Sys2Proof.Machine.execHbmFillReturn fill s
  | .crossDieWriteApply src dst => Sys2Proof.Machine.execCrossDieWriteApply src dst s
  | .clockBeat => Sys2Proof.Machine.execClockBeat s
  | .dclockReport die counts => Sys2Proof.Machine.execDclockReport die counts s
  | .vclockZeroing => Sys2Proof.Machine.execVclockZeroing s
  | .globalFenceOrdering uid => Sys2Proof.Machine.execGlobalFenceOrdering uid s
  | .barrierRequest pan cycle => Sys2Proof.Machine.execBarrierRequest pan cycle s
  | .parkTimeout uid stamp => Sys2Proof.Machine.execParkTimeout uid stamp s
  | .sleepTimeout uid stamp => Sys2Proof.Machine.execSleepTimeout uid stamp s
  | .launchWindowSubmit vf off data => Sys2Proof.Machine.execLaunchWindowSubmit vf off data s
  | .invocationArrival inv => Sys2Proof.Machine.execInvocationArrival inv s
  | .launchPlacementPass part => Sys2Proof.Machine.execLaunchPlacementPass part s
  | .waitonPoll part => Sys2Proof.Machine.execWaitonPoll part s
  | .priorityAging => Sys2Proof.Machine.execPriorityAging s
  | .completionWrite part seq => Sys2Proof.Machine.execCompletionWrite part seq s
  | .msixRaise vf vec => Sys2Proof.Machine.execMsixRaise vf vec s
  | .handlerErrorCompletion part ev => Sys2Proof.Machine.execHandlerErrorCompletion part ev s
  | .fold part gang why => Sys2Proof.Machine.execFold part gang why s
  | .ownership part slot => Sys2Proof.Machine.execOwnership part slot s
  | .slotHandover core slot => Sys2Proof.Machine.execSlotHandover core slot s
  | .slotScrubDone core slot => Sys2Proof.Machine.execSlotScrubDone core slot s
  | .pageMove part pan page => Sys2Proof.Machine.execPageMove part pan page s
  | .pageMoveRetire part pan page => Sys2Proof.Machine.execPageMoveRetire part pan page s
  | .cellarClear pan cellar => Sys2Proof.Machine.execCellarClear pan cellar s
  | .resized part => Sys2Proof.Machine.execResized part s
  | .root part slot => Sys2Proof.Machine.execRoot part slot s
  | .frames part slot => Sys2Proof.Machine.execFrames part slot s
  | .release part slot => Sys2Proof.Machine.execRelease part slot s
  | .retire part slot => Sys2Proof.Machine.execRetire part slot s
  | .rackSegment trellis cmd => Sys2Proof.Machine.execRackSegment trellis cmd s
  | .rackRetire trellis cmd => Sys2Proof.Machine.execRackRetire trellis cmd s
  | .followOnEnqueue trellis cmd => Sys2Proof.Machine.execFollowOnEnqueue trellis cmd s
  | .rackWatchdog trellis cmd => Sys2Proof.Machine.execRackWatchdog trellis cmd s
  | .collContribution msg => Sys2Proof.Machine.execCollContribution msg s
  | .collTimeout tag epoch => Sys2Proof.Machine.execCollTimeout tag epoch s
  | .linkFailure port => Sys2Proof.Machine.execLinkFailure port s
  | .pressOpStart trellis => Sys2Proof.Machine.execPressOpStart trellis s
  | .pressKblock trellis => Sys2Proof.Machine.execPressKblock trellis s
  | .pressOpRetire trellis => Sys2Proof.Machine.execPressOpRetire trellis s
  | .pressWatchdog trellis => Sys2Proof.Machine.execPressWatchdog trellis s
  | .tdirPerform trellis req => Sys2Proof.Machine.execTdirPerform trellis req s
  | .tmovePerform trellis req => Sys2Proof.Machine.execTmovePerform trellis req s
  | .entryLanding trellis req => Sys2Proof.Machine.execEntryLanding trellis req s
  | .censusRequest req => Sys2Proof.Machine.execCensusRequest req s
  | .censusBroadcast trellis census => Sys2Proof.Machine.execCensusBroadcast trellis census s
  | .responderStart trellis => Sys2Proof.Machine.execResponderStart trellis s
  | .trellisReport trellis census => Sys2Proof.Machine.execTrellisReport trellis census s
  | .panNodeReport pan census => Sys2Proof.Machine.execPanNodeReport pan census s
  | .landingNotice part move => Sys2Proof.Machine.execLandingNotice part move s
  | .censusComplete part census => Sys2Proof.Machine.execCensusComplete part census s
  | .policyInstall pol => Sys2Proof.Machine.execPolicyInstall pol s
  | .policyRevoke pol => Sys2Proof.Machine.execPolicyRevoke pol s
  | .labelGrant pol => Sys2Proof.Machine.execLabelGrant pol s
  | .policyExpiry id => Sys2Proof.Machine.execPolicyExpiry id s
  | .faultQueueEvent part ev => Sys2Proof.Machine.execFaultQueueEvent part ev s
  | .faultQueueRetry part => Sys2Proof.Machine.execFaultQueueRetry part s
  | .slotTimerExpiry uid => Sys2Proof.Machine.execSlotTimerExpiry uid s
  | .heartbeatMiss uid => Sys2Proof.Machine.execHeartbeatMiss uid s
  | .budgetPeriod => Sys2Proof.Machine.execBudgetPeriod s
  | .thermtrip temp => Sys2Proof.Machine.execThermtrip temp s
  | .regulatorWindow => Sys2Proof.Machine.execRegulatorWindow s
  | .channelDerate slice => Sys2Proof.Machine.execChannelDerate slice s
  | .waySweep slice => Sys2Proof.Machine.execWaySweep slice s
  | .telemetryExport part => Sys2Proof.Machine.execTelemetryExport part s
  | .functionLevelReset vf => Sys2Proof.Machine.execFunctionLevelReset vf s
  | .rakejob value => Sys2Proof.Machine.execRakejob value s
  | .rakeItemDone => Sys2Proof.Machine.execRakeItemDone s
  | .rakestat value => Sys2Proof.Machine.execRakestat value s
  | .deviceReset => Sys2Proof.Machine.execDeviceReset s
  | .powerOn fw dm cfg => Sys2Proof.Machine.execPowerOn fw dm cfg s
  | .attestationRequest nonce => Sys2Proof.Machine.execAttestationRequest nonce s
  | .portAttestation port => Sys2Proof.Machine.execPortAttestation port s
  | .fabricPacketArrival pkt => Sys2Proof.Machine.execFabricPacketArrival pkt s
  | .hostWrite vf addr data => Sys2Proof.Machine.execHostWrite vf addr data s
  | .hostRead vf addr len => Sys2Proof.Machine.execHostRead vf addr len s
  | .signedConfigurationRecord rec => Sys2Proof.Machine.execSignedConfigurationRecord rec s
  | .add d a b ta tb => Sys2Proof.Machine.execAdd d a b ta tb s
  | .sub d a b ta tb => Sys2Proof.Machine.execSub d a b ta tb s
  | .and d a b ta tb => Sys2Proof.Machine.execAnd d a b ta tb s
  | .or d a b ta tb => Sys2Proof.Machine.execOr d a b ta tb s
  | .xor d a b ta tb => Sys2Proof.Machine.execXor d a b ta tb s
  | .sll d a b ta tb => Sys2Proof.Machine.execSll d a b ta tb s
  | .srl d a b ta tb => Sys2Proof.Machine.execSrl d a b ta tb s
  | .sra d a b ta tb => Sys2Proof.Machine.execSra d a b ta tb s
  | .rot d a b ta tb => Sys2Proof.Machine.execRot d a b ta tb s
  | .min d a b ta tb => Sys2Proof.Machine.execMin d a b ta tb s
  | .max d a b ta tb => Sys2Proof.Machine.execMax d a b ta tb s
  | .minu d a b ta tb => Sys2Proof.Machine.execMinu d a b ta tb s
  | .maxu d a b ta tb => Sys2Proof.Machine.execMaxu d a b ta tb s
  | .slt d a b ta tb => Sys2Proof.Machine.execSlt d a b ta tb s
  | .sltu d a b ta tb => Sys2Proof.Machine.execSltu d a b ta tb s
  | .seq d a b ta tb => Sys2Proof.Machine.execSeq d a b ta tb s
  | .sel d a b ta tb => Sys2Proof.Machine.execSel d a b ta tb s
  | .extSB d a ta tb => Sys2Proof.Machine.execExtSB d a ta tb s
  | .extSH d a ta tb => Sys2Proof.Machine.execExtSH d a ta tb s
  | .extSW d a ta tb => Sys2Proof.Machine.execExtSW d a ta tb s
  | .extZB d a ta tb => Sys2Proof.Machine.execExtZB d a ta tb s
  | .extZH d a ta tb => Sys2Proof.Machine.execExtZH d a ta tb s
  | .extZW d a ta tb => Sys2Proof.Machine.execExtZW d a ta tb s
  | .addi d a imm ta => Sys2Proof.Machine.execAddi d a imm ta s
  | .andi d a imm ta => Sys2Proof.Machine.execAndi d a imm ta s
  | .ori d a imm ta => Sys2Proof.Machine.execOri d a imm ta s
  | .xori d a imm ta => Sys2Proof.Machine.execXori d a imm ta s
  | .slti d a imm ta => Sys2Proof.Machine.execSlti d a imm ta s
  | .sltiu d a imm ta => Sys2Proof.Machine.execSltiu d a imm ta s
  | .slli d a n ta => Sys2Proof.Machine.execSlli d a n ta s
  | .srli d a n ta => Sys2Proof.Machine.execSrli d a n ta s
  | .srai d a n ta => Sys2Proof.Machine.execSrai d a n ta s
  | .roti d a n ta => Sys2Proof.Machine.execRoti d a n ta s
  | .lui d imm => Sys2Proof.Machine.execLui d imm s
  | .addpc d imm => Sys2Proof.Machine.execAddpc d imm s
  | .mul d a b ta tb => Sys2Proof.Machine.execMul d a b ta tb s
  | .mulh d a b ta tb => Sys2Proof.Machine.execMulh d a b ta tb s
  | .mulhu d a b ta tb => Sys2Proof.Machine.execMulhu d a b ta tb s
  | .div d a b ta tb => Sys2Proof.Machine.execDiv d a b ta tb s
  | .divu d a b ta tb => Sys2Proof.Machine.execDivu d a b ta tb s
  | .rem d a b ta tb => Sys2Proof.Machine.execRem d a b ta tb s
  | .remu d a b ta tb => Sys2Proof.Machine.execRemu d a b ta tb s
  | .padd d a b w ta tb => Sys2Proof.Machine.execPadd d a b w ta tb s
  | .paddSs d a b w ta tb => Sys2Proof.Machine.execPaddSs d a b w ta tb s
  | .paddUs d a b w ta tb => Sys2Proof.Machine.execPaddUs d a b w ta tb s
  | .psub d a b w ta tb => Sys2Proof.Machine.execPsub d a b w ta tb s
  | .psubSs d a b w ta tb => Sys2Proof.Machine.execPsubSs d a b w ta tb s
  | .psubUs d a b w ta tb => Sys2Proof.Machine.execPsubUs d a b w ta tb s
  | .pmul d a b w ta tb => Sys2Proof.Machine.execPmul d a b w ta tb s
  | .pmulSs d a b w ta tb => Sys2Proof.Machine.execPmulSs d a b w ta tb s
  | .pmin d a b w ta tb => Sys2Proof.Machine.execPmin d a b w ta tb s
  | .pminU d a b w ta tb => Sys2Proof.Machine.execPminU d a b w ta tb s
  | .pmax d a b w ta tb => Sys2Proof.Machine.execPmax d a b w ta tb s
  | .pmaxU d a b w ta tb => Sys2Proof.Machine.execPmaxU d a b w ta tb s
  | .pshLl d a b w ta tb => Sys2Proof.Machine.execPshLl d a b w ta tb s
  | .pshRl d a b w ta tb => Sys2Proof.Machine.execPshRl d a b w ta tb s
  | .pshRa d a b w ta tb => Sys2Proof.Machine.execPshRa d a b w ta tb s
  | .pcmpEq d a b w ta tb => Sys2Proof.Machine.execPcmpEq d a b w ta tb s
  | .pcmpLt d a b w ta tb => Sys2Proof.Machine.execPcmpLt d a b w ta tb s
  | .pcmpLtu d a b w ta tb => Sys2Proof.Machine.execPcmpLtu d a b w ta tb s
  | .pabsd d a b w ta tb => Sys2Proof.Machine.execPabsd d a b w ta tb s
  | .ppack d a b w ta tb => Sys2Proof.Machine.execPpack d a b w ta tb s
  | .ppackSs d a b w ta tb => Sys2Proof.Machine.execPpackSs d a b w ta tb s
  | .ppackUs d a b w ta tb => Sys2Proof.Machine.execPpackUs d a b w ta tb s
  | .cmul d a b ta tb => Sys2Proof.Machine.execCmul d a b ta tb s
  | .cmac d a b ta tb => Sys2Proof.Machine.execCmac d a b ta tb s
  | .cmacj d a b ta tb => Sys2Proof.Machine.execCmacj d a b ta tb s
  | .cabs2 d a ta tb => Sys2Proof.Machine.execCabs2 d a ta tb s
  | .mulq d a b ta tb => Sys2Proof.Machine.execMulq d a b ta tb s
  | .sat d a n ta tb => Sys2Proof.Machine.execSat d a n ta tb s
  | .satu d a n ta tb => Sys2Proof.Machine.execSatu d a n ta tb s
  | .clz d a ta tb => Sys2Proof.Machine.execClz d a ta tb s
  | .ctz d a ta tb => Sys2Proof.Machine.execCtz d a ta tb s
  | .popc d a ta tb => Sys2Proof.Machine.execPopc d a ta tb s
  | .bswap d a ta tb => Sys2Proof.Machine.execBswap d a ta tb s
  | .bext d a b ta tb => Sys2Proof.Machine.execBext d a b ta tb s
  | .bextu d a b ta tb => Sys2Proof.Machine.execBextu d a b ta tb s
  | .bins d a b ta tb => Sys2Proof.Machine.execBins d a b ta tb s
  | .fadd d a b f ta tb => Sys2Proof.Machine.execFadd d a b f ta tb s
  | .fsub d a b f ta tb => Sys2Proof.Machine.execFsub d a b f ta tb s
  | .fmul d a b f ta tb => Sys2Proof.Machine.execFmul d a b f ta tb s
  | .fma d a b f ta tb => Sys2Proof.Machine.execFma d a b f ta tb s
  | .fdiv d a b f ta tb => Sys2Proof.Machine.execFdiv d a b f ta tb s
  | .fsqrt d a f ta tb => Sys2Proof.Machine.execFsqrt d a f ta tb s
  | .fmin d a b f ta tb => Sys2Proof.Machine.execFmin d a b f ta tb s
  | .fmax d a b f ta tb => Sys2Proof.Machine.execFmax d a b f ta tb s
  | .fcmpEq d a b f ta tb => Sys2Proof.Machine.execFcmpEq d a b f ta tb s
  | .fcmpLt d a b f ta tb => Sys2Proof.Machine.execFcmpLt d a b f ta tb s
  | .fcmpLe d a b f ta tb => Sys2Proof.Machine.execFcmpLe d a b f ta tb s
  | .fclass d a f ta tb => Sys2Proof.Machine.execFclass d a f ta tb s
  | .rnd d a f rm ta tb => Sys2Proof.Machine.execRnd d a f rm ta tb s
  | .rseed d a ta tb => Sys2Proof.Machine.execRseed d a ta tb s
  | .cvt d a rnd dst src ta tb => Sys2Proof.Machine.execCvt d a rnd dst src ta tb s
  | .ld d a imm sz sx ord ta => Sys2Proof.Machine.execLd d a imm sz sx ord ta s
  | .st d a imm sz ord ta => Sys2Proof.Machine.execSt d a imm sz ord ta s
  | .ldm a b off n q ta tb => Sys2Proof.Machine.execLdm a b off n q ta tb s
  | .stm a b off n q ta tb => Sys2Proof.Machine.execStm a b off n q ta tb s
  | .ldfe d a imm ord ta => Sys2Proof.Machine.execLdfe d a imm ord ta s
  | .ldff d a imm ord ta => Sys2Proof.Machine.execLdff d a imm ord ta s
  | .stfe d a imm ord ta => Sys2Proof.Machine.execStfe d a imm ord ta s
  | .stff d a imm ord ta => Sys2Proof.Machine.execStff d a imm ord ta s
  | .tagr d a imm ord ta => Sys2Proof.Machine.execTagr d a imm ord ta s
  | .tagw d a imm ord ta => Sys2Proof.Machine.execTagw d a imm ord ta s
  | .setvat d a imm ta => Sys2Proof.Machine.execSetvat d a imm ta s
  | .amoAdd d a b dbl r o ta tb => Sys2Proof.Machine.execAmoAdd d a b dbl r o ta tb s
  | .amoAnd d a b dbl r o ta tb => Sys2Proof.Machine.execAmoAnd d a b dbl r o ta tb s
  | .amoOr d a b dbl r o ta tb => Sys2Proof.Machine.execAmoOr d a b dbl r o ta tb s
  | .amoXor d a b dbl r o ta tb => Sys2Proof.Machine.execAmoXor d a b dbl r o ta tb s
  | .amoMin d a b dbl r o ta tb => Sys2Proof.Machine.execAmoMin d a b dbl r o ta tb s
  | .amoMax d a b dbl r o ta tb => Sys2Proof.Machine.execAmoMax d a b dbl r o ta tb s
  | .amoMinu d a b dbl r o ta tb => Sys2Proof.Machine.execAmoMinu d a b dbl r o ta tb s
  | .amoMaxu d a b dbl r o ta tb => Sys2Proof.Machine.execAmoMaxu d a b dbl r o ta tb s
  | .amoSwap d a b dbl r o ta tb => Sys2Proof.Machine.execAmoSwap d a b dbl r o ta tb s
  | .amoFadd32 d a b r o ta tb => Sys2Proof.Machine.execAmoFadd32 d a b r o ta tb s
  | .redAdd a b dbl r o ta tb => Sys2Proof.Machine.execRedAdd a b dbl r o ta tb s
  | .redAnd a b dbl r o ta tb => Sys2Proof.Machine.execRedAnd a b dbl r o ta tb s
  | .redOr a b dbl r o ta tb => Sys2Proof.Machine.execRedOr a b dbl r o ta tb s
  | .redXor a b dbl r o ta tb => Sys2Proof.Machine.execRedXor a b dbl r o ta tb s
  | .redMin a b dbl r o ta tb => Sys2Proof.Machine.execRedMin a b dbl r o ta tb s
  | .redMax a b dbl r o ta tb => Sys2Proof.Machine.execRedMax a b dbl r o ta tb s
  | .redMinu a b dbl r o ta tb => Sys2Proof.Machine.execRedMinu a b dbl r o ta tb s
  | .redMaxu a b dbl r o ta tb => Sys2Proof.Machine.execRedMaxu a b dbl r o ta tb s
  | .redSwap a b dbl r o ta tb => Sys2Proof.Machine.execRedSwap a b dbl r o ta tb s
  | .redFadd32 a b r o ta tb => Sys2Proof.Machine.execRedFadd32 a b r o ta tb s
  | .cas d a b r o ta tb => Sys2Proof.Machine.execCas d a b r o ta tb s
  | .cas2 d a b r o ta tb => Sys2Proof.Machine.execCas2 d a b r o ta tb s
  | .park d a b ta tb => Sys2Proof.Machine.execPark d a b ta tb s
  | .wake a b ta tb => Sys2Proof.Machine.execWake a b ta tb s
  | .sleep d a ta tb => Sys2Proof.Machine.execSleep d a ta tb s
  | .bar d n ta tb => Sys2Proof.Machine.execBar d n ta tb s
  | .barw d b n ta tb => Sys2Proof.Machine.execBarw d b n ta tb s
  | .fencePan ta tb => Sys2Proof.Machine.execFencePan ta tb s
  | .fenceTenant ta tb => Sys2Proof.Machine.execFenceTenant ta tb s
  | .fenceSystem ta tb => Sys2Proof.Machine.execFenceSystem ta tb s
  | .fenceGlobal ta tb => Sys2Proof.Machine.execFenceGlobal ta tb s
  | .hop a ta tb => Sys2Proof.Machine.execHop a ta tb s
  | .live d a ta tb => Sys2Proof.Machine.execLive d a ta tb s
  | .tlbinvTrellis a b ta tb => Sys2Proof.Machine.execTlbinvTrellis a b ta tb s
  | .tlbinvPan a b ta tb => Sys2Proof.Machine.execTlbinvPan a b ta tb s
  | .tlbinvPartition a b ta tb => Sys2Proof.Machine.execTlbinvPartition a b ta tb s
  | .tlbinvPackage a b ta tb => Sys2Proof.Machine.execTlbinvPackage a b ta tb s
  | .beq a b imm => Sys2Proof.Machine.execBeq a b imm s
  | .bne a b imm => Sys2Proof.Machine.execBne a b imm s
  | .blt a b imm => Sys2Proof.Machine.execBlt a b imm s
  | .bge a b imm => Sys2Proof.Machine.execBge a b imm s
  | .bltu a b imm => Sys2Proof.Machine.execBltu a b imm s
  | .bgeu a b imm => Sys2Proof.Machine.execBgeu a b imm s
  | .jal d imm => Sys2Proof.Machine.execJal d imm s
  | .jalr d a imm ta => Sys2Proof.Machine.execJalr d a imm ta s
  | .nest d a ta tb => Sys2Proof.Machine.execNest d a ta tb s
  | .next d ta tb => Sys2Proof.Machine.execNext d ta tb s
  | .fork d a b ta tb => Sys2Proof.Machine.execFork d a b ta tb s
  | .join d a b ta tb => Sys2Proof.Machine.execJoin d a b ta tb s
  | .jdone a b ta tb => Sys2Proof.Machine.execJdone a b ta tb s
  | .spawn d a b ta tb => Sys2Proof.Machine.execSpawn d a b ta tb s
  | .quit ta tb => Sys2Proof.Machine.execQuit ta tb s
  | .beat ta tb => Sys2Proof.Machine.execBeat ta tb s
  | .ifence ta tb => Sys2Proof.Machine.execIfence ta tb s
  | .mfc d c => Sys2Proof.Machine.execMfc d c s
  | .mtc a c => Sys2Proof.Machine.execMtc a c s
  | .mtcStatus a => Sys2Proof.Machine.execMtcStatus a s
  | .mtcLive a => Sys2Proof.Machine.execMtcLive a s
  | .mtcSeed a => Sys2Proof.Machine.execMtcSeed a s
  | .mtcDeftrapvec a => Sys2Proof.Machine.execMtcDeftrapvec a s
  | .mtcHtbase a => Sys2Proof.Machine.execMtcHtbase a s
  | .mtcFqbase a => Sys2Proof.Machine.execMtcFqbase a s
  | .mtcWmdata a => Sys2Proof.Machine.execMtcWmdata a s
  | .trap n => Sys2Proof.Machine.execTrap n s
  | .sys n => Sys2Proof.Machine.execSys n s
  | .eret => Sys2Proof.Machine.execEret s
  | .vadd d a b k e z => Sys2Proof.Machine.execVadd d a b k e z s
  | .vsub d a b k e z => Sys2Proof.Machine.execVsub d a b k e z s
  | .vmul d a b k e z => Sys2Proof.Machine.execVmul d a b k e z s
  | .vmac d a b k e z => Sys2Proof.Machine.execVmac d a b k e z s
  | .vmin d a b k e z => Sys2Proof.Machine.execVmin d a b k e z s
  | .vmax d a b k e z => Sys2Proof.Machine.execVmax d a b k e z s
  | .vand d a b k e z => Sys2Proof.Machine.execVand d a b k e z s
  | .vor d a b k e z => Sys2Proof.Machine.execVor d a b k e z s
  | .vxor d a b k e z => Sys2Proof.Machine.execVxor d a b k e z s
  | .vshLl d a b k e z => Sys2Proof.Machine.execVshLl d a b k e z s
  | .vshRl d a b k e z => Sys2Proof.Machine.execVshRl d a b k e z s
  | .vshRa d a b k e z => Sys2Proof.Machine.execVshRa d a b k e z s
  | .vcmpEq d a b k e z => Sys2Proof.Machine.execVcmpEq d a b k e z s
  | .vcmpLt d a b k e z => Sys2Proof.Machine.execVcmpLt d a b k e z s
  | .vcmpLtu d a b k e z => Sys2Proof.Machine.execVcmpLtu d a b k e z s
  | .vsel d a b k => Sys2Proof.Machine.execVsel d a b k s
  | .vcmul d a b k e z => Sys2Proof.Machine.execVcmul d a b k e z s
  | .vcmac d a b k e z => Sys2Proof.Machine.execVcmac d a b k e z s
  | .vredAdd d a k e => Sys2Proof.Machine.execVredAdd d a k e s
  | .vredMin d a k e => Sys2Proof.Machine.execVredMin d a k e s
  | .vredMax d a k e => Sys2Proof.Machine.execVredMax d a k e s
  | .vredFadd d a k e => Sys2Proof.Machine.execVredFadd d a k e s
  | .vperm d a b k e z => Sys2Proof.Machine.execVperm d a b k e z s
  | .vmv d a k e z => Sys2Proof.Machine.execVmv d a k e z s
  | .vmvBc d a k e z => Sys2Proof.Machine.execVmvBc d a k e z s
  | .vmvX d a => Sys2Proof.Machine.execVmvX d a s
  | .vfadd d a b k e z f => Sys2Proof.Machine.execVfadd d a b k e z f s
  | .vfmul d a b k e z f => Sys2Proof.Machine.execVfmul d a b k e z f s
  | .vfma d a b k e z f => Sys2Proof.Machine.execVfma d a b k e z f s
  | .vfmin d a b k e z f => Sys2Proof.Machine.execVfmin d a b k e z f s
  | .vfmax d a b k e z f => Sys2Proof.Machine.execVfmax d a b k e z f s
  | .vcvt d a c k e z => Sys2Proof.Machine.execVcvt d a c k e z s
  | .vld d a k e z ta tb => Sys2Proof.Machine.execVld d a k e z ta tb s
  | .vst d a k e ta tb => Sys2Proof.Machine.execVst d a k e ta tb s
  | .vlds d a b k e z ta tb => Sys2Proof.Machine.execVlds d a b k e z ta tb s
  | .vldx d a b k e z ta tb => Sys2Proof.Machine.execVldx d a b k e z ta tb s
  | .vstx d a b k e ta tb => Sys2Proof.Machine.execVstx d a b k e ta tb s
  | .vclaim d a b ta tb => Sys2Proof.Machine.execVclaim d a b ta tb s
  | .vrel ta tb => Sys2Proof.Machine.execVrel ta tb s
  | .vsync d a b ta tb => Sys2Proof.Machine.execVsync d a b ta tb s
  | .mand d a b ta tb => Sys2Proof.Machine.execMand d a b ta tb s
  | .mor d a b ta tb => Sys2Proof.Machine.execMor d a b ta tb s
  | .mnot d a ta tb => Sys2Proof.Machine.execMnot d a ta tb s
  | .vsfuExp2 d a k e z => Sys2Proof.Machine.execVsfuExp2 d a k e z s
  | .vsfuLog2 d a k e z => Sys2Proof.Machine.execVsfuLog2 d a k e z s
  | .vsfuRcp d a k e z => Sys2Proof.Machine.execVsfuRcp d a k e z s
  | .vsfuRsqrt d a k e z => Sys2Proof.Machine.execVsfuRsqrt d a k e z s
  | .vsfuSin d a k e z => Sys2Proof.Machine.execVsfuSin d a k e z s
  | .vsfuCos d a k e z => Sys2Proof.Machine.execVsfuCos d a k e z s
  | .vsfuTanh d a k e z => Sys2Proof.Machine.execVsfuTanh d a k e z s
  | .vsfuSigmoid d a k e z => Sys2Proof.Machine.execVsfuSigmoid d a k e z s
  | .vbflyR2 d a b scl => Sys2Proof.Machine.execVbflyR2 d a b scl s
  | .vbflyR4 d a b scl => Sys2Proof.Machine.execVbflyR4 d a b scl s
  | .rack d a => Sys2Proof.Machine.execRack d a s
  | .rackv d a b => Sys2Proof.Machine.execRackv d a b s
  | .rfenceEngine => Sys2Proof.Machine.execRfenceEngine s
  | .rfencePartition => Sys2Proof.Machine.execRfencePartition s
  | .qfence d a => Sys2Proof.Machine.execQfence d a s
  | .qwait d a => Sys2Proof.Machine.execQwait d a s
  | .rstat d a => Sys2Proof.Machine.execRstat d a s
  | .collAllreduce d a => Sys2Proof.Machine.execCollAllreduce d a s
  | .collAllgather d a => Sys2Proof.Machine.execCollAllgather d a s
  | .collReducescatter d a => Sys2Proof.Machine.execCollReducescatter d a s
  | .pmm d a => Sys2Proof.Machine.execPmm d a s
  | .pzero d a => Sys2Proof.Machine.execPzero d a s
  | .pwait d a => Sys2Proof.Machine.execPwait d a s
  | .pprog d a => Sys2Proof.Machine.execPprog d a s
  | .tdirPut d a => Sys2Proof.Machine.execTdirPut d a s
  | .tdirDel d a => Sys2Proof.Machine.execTdirDel d a s
  | .tmove d a b => Sys2Proof.Machine.execTmove d a b s
  | .solicitSum d a b => Sys2Proof.Machine.execSolicitSum d a b s
  | .solicitMin d a b => Sys2Proof.Machine.execSolicitMin d a b s
  | .solicitMax d a b => Sys2Proof.Machine.execSolicitMax d a b s
  | .solicitOr d a b => Sys2Proof.Machine.execSolicitOr d a b s
  | .solicitCount d a b => Sys2Proof.Machine.execSolicitCount d a b s
  | .answer a => Sys2Proof.Machine.execAnswer a s
  | .cwait d => Sys2Proof.Machine.execCwait d s
  | .lbl d a ta tb => Sys2Proof.Machine.execLbl d a ta tb s
  | .lblV d a ta tb => Sys2Proof.Machine.execLblV d a ta tb s
  | .lblM d a ta tb => Sys2Proof.Machine.execLblM d a ta tb s
  | .lblS d ta tb => Sys2Proof.Machine.execLblS d ta tb s
  | .sluice d a ta tb => Sys2Proof.Machine.execSluice d a ta tb s
  | .launch d a => Sys2Proof.Machine.execLaunch d a s
  | .invoke d a b prio => Sys2Proof.Machine.execInvoke d a b prio s
  | .cAdd d r => Sys2Proof.Machine.execCAdd d r s
  | .cSub d r => Sys2Proof.Machine.execCSub d r s
  | .cAnd d r => Sys2Proof.Machine.execCAnd d r s
  | .cOr d r => Sys2Proof.Machine.execCOr d r s
  | .cXor d r => Sys2Proof.Machine.execCXor d r s
  | .cSll d r => Sys2Proof.Machine.execCSll d r s
  | .cSrl d r => Sys2Proof.Machine.execCSrl d r s
  | .cSra d r => Sys2Proof.Machine.execCSra d r s
  | .cMul d r => Sys2Proof.Machine.execCMul d r s
  | .cMin d r => Sys2Proof.Machine.execCMin d r s
  | .cMax d r => Sys2Proof.Machine.execCMax d r s
  | .mv d r => Sys2Proof.Machine.execMv d r s
  | .cAddi d imm => Sys2Proof.Machine.execCAddi d imm s
  | .cCmac d r => Sys2Proof.Machine.execCCmac d r s
  | .cFadd d r => Sys2Proof.Machine.execCFadd d r s
  | .cFmul d r => Sys2Proof.Machine.execCFmul d r s
  | .cvAdd d r => Sys2Proof.Machine.execCvAdd d r s
  | .cvSub d r => Sys2Proof.Machine.execCvSub d r s
  | .cvAnd d r => Sys2Proof.Machine.execCvAnd d r s
  | .cvOr d r => Sys2Proof.Machine.execCvOr d r s
  | .cvXor d r => Sys2Proof.Machine.execCvXor d r s
  | .cvSll d r => Sys2Proof.Machine.execCvSll d r s
  | .cvSrl d r => Sys2Proof.Machine.execCvSrl d r s
  | .cvSra d r => Sys2Proof.Machine.execCvSra d r s
  | .cvMul d r => Sys2Proof.Machine.execCvMul d r s
  | .cvMin d r => Sys2Proof.Machine.execCvMin d r s
  | .cvMax d r => Sys2Proof.Machine.execCvMax d r s
  | .cvMv d r => Sys2Proof.Machine.execCvMv d r s
  | .cvAddi d imm => Sys2Proof.Machine.execCvAddi d imm s
  | .cvCmac d r => Sys2Proof.Machine.execCvCmac d r s
  | .cvFadd d r => Sys2Proof.Machine.execCvFadd d r s
  | .cvFmul d r => Sys2Proof.Machine.execCvFmul d r s

end Sys2Proof.Machine
end

