-- ==== Sys2Proof/Machine/Turn.lean ====
section
/-! DEFINITION. A turn of a slot: the heartbeat, the end of a thread, pending traps, the fetch and decoding of the instruction
at the PC, and what its outcome counts and costs (R84 to R88, R99, R101 to R104, R385, R394, R400 to R405, R413). And the
order of the turns, the steps that are due and the cycles (R102, assumption 3). -/

namespace Sys2Proof.Machine

open Sys2Proof

/-! ## Fetch (R84 to R88) -/

/-- What a fetch of a halfword finds: the halfword, no line yet, or a fault with its code and TRAPINFO. -/
inductive HalfFetch where
  | here (h : Nat)
  | missing
  | fails (code : Nat) (info : Word)
  deriving DecidableEq, Repr

/-- What the fetch of an instruction finds: its first and second halfword, the latter 0 after a compact one; a line that is not
yet installed; or a fault, with the address of the halfword it belongs to (R84, R86). -/
inductive InstrFetch where
  | here (h0 h1 : Nat)
  | missing (va : Nat)
  | fails (code va : Nat) (info : Word)
  deriving DecidableEq, Repr

/-- The fault that a fetch of a line met for a core, partition and mode (R84). -/
def State.lineFault (s : State) (core part : Nat) (task : Bool) (va : Nat) : Option FetchFault :=
  s.fetch.faults.find? fun f => f.core = core && f.part = part && f.task = task && f.line = va / 32

/-- A fault of a line has been taken, or its line is asked for anew. -/
def State.dropLineFault (s : State) (core part : Nat) (task : Bool) (va : Nat) : State :=
  { s with fetch := { s.fetch with
      faults := s.fetch.faults.filter fun f => !(f.core = core && f.part = part && f.task = task && f.line = va / 32) } }

/-- The halfword at an address, for the thread at its turn (R84, R86). -/
def State.fetchHalfAt (s : State) (va : Nat) : HalfFetch :=
  let p := s.t.ident.part
  if !isGlobal va then .fails (trapNumber .prot) 0
  else
    match s.iline s.t.core p va with
    | some l =>
      match fetchFails l.deny s.t.isTask none with
      | some (code, info) => .fails code info
      | none => .here (bytesNat ((l.data.drop (va % 32)).take 2))
    | none =>
      match s.lineFault s.t.core p s.t.isTask va with
      | some f => .fails f.code f.info
      | none => .missing

/-- The instruction at the PC of the thread at its turn, its first halfword first (R84, R86, R89). -/
def State.fetchInstr (s : State) : InstrFetch :=
  let va := s.t.pc.toNat
  match s.fetchHalfAt va with
  | .fails c i => .fails c va i
  | .missing => .missing va
  | .here h0 =>
    if h0 % 2 = 0 then .here h0 0
    else
      match s.fetchHalfAt (va + 2) with
      | .fails c i => .fails c (va + 2) i
      | .missing => .missing (va + 2)
      | .here h1 => .here h0 h1

/-- The patch that overlays the instruction at the PC, whatever its stored bits hold, of a thread whose launch has one there (R25,
R88). -/
def State.patchHere (s : State) : Option (Patch × Label) :=
  match s.gang? s.t.ident.gang with
  | some g => (g.patchAt s.t.pc.toNat).map fun p => (p, g.plabel)
  | none => none

/-- The instruction word after the overlay of R88, a compact halfword zero-extended, with the label of the overlay (R26). -/
def State.overlaid (s : State) (h0 h1 : Nat) : Nat × Label :=
  let size := if h0 % 2 = 0 then 65536 else 2 ^ 32
  let w := (h0 % 65536 + h1 % 65536 * 65536) % size
  match s.patchHere with
  | some (p, l) => (p.apply w % size, l)
  | none => (w, 0)

/-! ## Traps of a turn -/

/-- A trap whose code is known by its number, of the instruction at the PC (R52, R385). -/
def State.takeCode (s : State) (code : Nat) (addr info : Word) (join : Label) : State :=
  if s.abortsHandler then s.abortHandler code s.t.pc
  else { s with t := s.t.enterTrap code false s.t.pc addr info join, time := { s.time with turn := .trap } }

/-- A fault that an access sent at an earlier turn has met is taken (R217, R247, R252). -/
def State.takeLate (s : State) (f : LateFault) : State :=
  { s with t := { s.t with late := none } }.takeCode f.code f.addr f.info f.label

/-! ## The instruction at the PC -/

/-- The instruction at the PC is decoded, its overlay noted, and executed; an encoding of R99 takes ILLEGAL (R101). -/
noncomputable def State.runWord (s : State) (h0 h1 : Nat) : Result :=
  let x := s.overlaid h0 h1
  let s := { s with t := { s.t with patched := x.2 } }
  match decodeHalves x.1 (x.1 / 65536) with
  | .ok i => exec i s
  | .error _ => .next (s.fail .illegal 0 (BitVec.ofNat 64 x.1) [] 0)

/-- Checks 1 to 3 of R101, and the instruction when they pass. -/
noncomputable def State.runHere (s : State) : Result :=
  let p := s.t.ident.part
  match s.fetchInstr with
  | .here h0 h1 => (s.touchCode s.t.core p s.t.pc.toNat (if h0 % 2 = 0 then 2 else 4)).runWord h0 h1
  | .missing va => .next ((s.startFetch s.t.core p va s.t.isTask).idle)
  | .fails c va i =>
    .next (({ s with t := { s.t with patched := 0 } }.dropLineFault s.t.core p s.t.isTask va).takeCode c (BitVec.ofNat 64 va) i 0)

/-! ## The ends of threads -/

/-- The record of a fenced thread's context leaves the save arena. -/
def State.dropRecord (s : State) (t : Thread) : State :=
  match s.part? t.ident.part with
  | none => s
  | some p =>
    let i := p.recordOf t.trap.saveptr
    let index (off : Nat) : List Nat := match s.readRecord p.num i 512 with
      | some b => let n := fieldAt b off 4; if n = noRecord then [] else [n]
      | none => []
    let vec := if t.claim.lanes = 0 then [] else
      (index 0x1B8).flatMap fun k => (List.range (vecRecords t.claim.lanes)).map fun n => k + n
    s.freeRecords p.num (i :: index 0x1BC ++ vec)

/-- The thread at its turn belongs to a gang whose threads end: a handler gang after a trap of policy 0, or one of a partition
that is forced to retire (R52, R416). -/
def State.mustEnd (s : State) : Bool :=
  match s.gang? s.t.ident.gang with
  | some g => g.killed.isSome || g.forced
  | none => false

/-- A thread that has quit ends once its work has been performed (R143). -/
def State.tryEnd (s : State) : State := if s.t.run == .quitting && s.mayEnd s.t then s.endThread s.t else s

/-- The gang of the thread at its turn is being folded (R394). -/
def State.foldsHere (s : State) : Bool :=
  match s.gang? s.t.ident.gang with
  | some g => g.folding
  | none => false

/-! ## What a turn counts and costs -/

/-- HBCNT rises by 16 at a turn, saturating (R400). -/
def Thread.countBeat (t : Thread) : Thread :=
  { t with ctl := { t.ctl with hbcnt := min (t.ctl.hbcnt + 16) 0xFFFFFFFF } }

/-- The outcome of a turn is counted (R413), and an issue charged to the account of the Pan (R404). -/
def State.account (s : State) (part gang pan : Nat) : State :=
  match s.time.turn with
  | .issue => (s.count part gang 0 1).charge part pan 1
  | .idle => s.count part gang 1 1
  | .migrate => s.count part gang 2 1
  | .open | .held | .trap => s

/-- The outcome of a turn with its counts. -/
def Result.account (r : Result) (part gang pan : Nat) : Result :=
  match r with
  | .next s => .next (s.account part gang pan)
  | .fault f => .fault f
  | .refused f => .refused f

/-! ## A turn -/

/-- The instruction at the PC has been holding its thread out of rotation by its own rule (R103, R105). -/
def Progress.holds (p : Progress) : Bool :=
  match p with
  | .counting _ | .asked _ | .answered _ _ | .stage _ _ _ | .waits | .discards _ => true
  | .fresh | .results _ _ _ => false

/-- The turn of a ready thread: a pending trap, the throttle, the instruction (R101, R386, R405). -/
noncomputable def State.freshTurn (s : State) : Result :=
  if s.readyForTrap.1 then
    execAsyncTrapDelivery (s.dropLineFault s.t.core s.t.ident.part s.t.isTask s.t.pc.toNat)
  else if s.throttled s.t.ident.part s.t.localPan then .next s.idle
  else s.runHere

/-- An instruction that held its thread has completed before this turn, at which the thread is ready again (R105). -/
noncomputable def Result.thenReady (r : Result) : Result :=
  match r with
  | .next s =>
    if s.time.turn == .issue && s.t.run == .ready then
      let s := s.account s.t.ident.part s.t.ident.gang s.t.localPan
      { s with time := { s.time with turn := .open } }.freshTurn
    else .next s
  | .fault f => .fault f
  | .refused f => .refused f

/-- The turn of a thread in rotation: a fault from before, the end of an instruction that held it, and what a ready thread does
(R101 to R105, R386, R405). -/
noncomputable def State.readyTurn (s : State) : Result :=
  match s.t.late with
  | some f => .next (s.takeLate f)
  | none => if s.t.prog.holds then s.runHere.thenReady else s.freshTurn

/-- A thread whose instruction in progress has been run on is stopped still. -/
def Result.stopsAgain (r : Result) (run : Run) : Result :=
  match r with
  | .next s => .next (if s.t.run == .ready then { s with t := { s.t with run := run } } else s)
  | .fault f => .fault f
  | .refused f => .refused f

/-- The turn of a stopped thread whose instruction in progress completes before it is saved (R259, R394). -/
noncomputable def State.completingTurn (s : State) : Result :=
  ({ s with t := { s.t with run := .ready } }.runHere).stopsAgain s.t.run

/-- The turn of a thread after its heartbeat has been counted (R103). -/
noncomputable def State.threadTurn (s : State) : Result :=
  let uid := s.t.ident.uid
  let awake := !s.t.run.stopped && s.t.run != .transit
  let missed : Bool := s.t.ctl.hbint ≤ s.t.ctl.hbcnt
  let stops := s.t.run == .stopping || s.t.run == .fencing
  if s.t.run == .quitting then
    if missed && !s.mustEnd && !s.mayEnd s.t then execHeartbeatMiss uid s else .next s.tryEnd
  else if s.mustEnd then
    let s := if s.t.run == .fencedAway then s.dropRecord s.t else s
    .next (s.forceEnd uid).tryEnd
  else if stops && s.t.prog.completes then s.completingTurn
  else if s.foldsHere && !s.t.run.stopped then .next (s.stopThread uid .stopping)
  else if s.foldsHere && (s.t.run == .stopping || s.t.run == .fenced) then .next s.stoppedTurn
  else if awake && missed then execHeartbeatMiss uid s
  else if s.t.run == .ready then s.readyTurn
  else if s.readyForTrap.1 then execAsyncTrapDelivery s
  else .next s

/-- The turn of the thread at its turn, with its counts. -/
noncomputable def State.takeTurn (s : State) : Result :=
  let s := { s with time := { s.time with turn := .open } }
  let s := if s.countsBeat s.t then { s with t := s.t.countBeat } else s
  s.threadTurn.account s.t.ident.part s.t.ident.gang s.t.localPan

/-! ## The order of turns and cycles (R102, assumption 3) -/

/-- Puts a thread's number into a list of cores with their threads, in ascending core. -/
def insertTurn (core uid : Nat) : List (Nat × Nat) → List (Nat × Nat)
  | [] => [(core, uid)]
  | (c, u) :: l => if core < c then (core, uid) :: (c, u) :: l else (c, u) :: insertTurn core uid l

/-- A thread has a turn in the slot that holds it, one that has migrated in the slot that it left. -/
def Thread.hasTurn (t : Thread) (slot : Nat) : Bool := t.slot = slot && t.run != .ended && t.run != .saved

/-- The turns of a cycle (R102): every thread of the slot whose turn it is, by core. -/
def State.turnList (s : State) : List Nat :=
  ((s.threads.filter fun t => t.hasTurn (s.time.cycle % 16)).foldl
    (fun (l : List (Nat × Nat)) t => insertTurn t.core t.ident.uid l) []).map Prod.snd

/-- The turns of the cycle are listed, once. -/
def State.listTurns (s : State) : State :=
  if s.time.closed then s else { s with time := { s.time with closed := true, todo := s.turnList } }

/-- SLOTTIMER falls while a slot holds the thread (R399). -/
def Thread.timerRuns (t : Thread) : Bool :=
  t.ctl.slotTimer ≠ 0 && t.run != .transit && t.run != .saved && t.run != .fencedAway && t.run != .ended

/-- SLOTTIMER falls by 1. -/
def Thread.tick (t : Thread) : Thread :=
  if t.timerRuns then { t with ctl := { t.ctl with slotTimer := t.ctl.slotTimer - 1 } } else t

/-- What is due at a cycle or was due before it. -/
def dueBy (c : Nat) (e : Nat × Instr) : Bool := e.1 ≤ c

/-- A step that comes before the turns of its cycle: the handover of a slot, whose owner stops issuing at it (R67), and a write to
a launch window, whose records are numbered before those of the `launch` instructions (R42). -/
def beforeTurns (i : Instr) : Bool :=
  match i with
  | .slotHandover _ _ => true
  | .launchWindowSubmit _ _ _ => true
  | _ => false

/-- The order among those: the launch windows by the numbers of their functions (R42). -/
def earlyKey (i : Instr) : Nat :=
  match i with
  | .launchWindowSubmit vf _ _ => vf + 1
  | _ => 0

/-- The next cycle begins (R102, R399): timers fall, those that reach 0 expire, slots are handed over (R67), and every 1,024
cycles the service pages are looked at (R408). -/
def State.nextCycle (s : State) : State :=
  let expired := (s.threads.filter fun t => t.timerRuns && t.ctl.slotTimer = 1).map fun t => Instr.slotTimerExpiry t.ident.uid
  let first (e : Nat × Instr) : Bool := dueBy (s.time.cycle + 1) e && beforeTurns e.2
  let s := { s with
    t := s.t.tick, others := s.others.map Thread.tick
    time := { s.time with
      cycle := s.time.cycle + 1, closed := false, todo := []
      agenda := s.time.agenda ++ sortBy (fun x y => earlyKey x ≤ earlyKey y) ((s.time.calendar.filter first).map Prod.snd) ++ expired
      calendar := s.time.calendar.filter fun e => !first e } }
  if s.time.cycle % 1024 = 0 then s.serveAll else s

/-- The place of a step among those due in one cycle: migrations arrive in the order of their keys (R248), follow-ons enter once the
copies of the cycle have landed (R276), broadcasts come after landings (R359), invocations after the other submissions (R42), and
placement after all (R47, R63). -/
def duePhase (i : Instr) : Nat :=
  match i with
  | .migrationArrival _ => 1
  | .followOnEnqueue _ _ => 2
  | .censusBroadcast _ _ => 3
  | .invocationArrival _ => 4
  | .launchPlacementPass _ => 5
  | _ => 0

/-- The order within a phase: by departing core and slot (R248), by landing and queue (R276), by port (R42), an invocation of the own
chip, which has none, after port 15 (assumption 103). -/
def State.dueKey (s : State) (i : Instr) : Nat :=
  match i with
  | .migrationArrival uid => s.placeKey uid
  | .followOnEnqueue place id => ((s.cmd? place id).map fun c => 8 * c.startAt + c.queue).getD 0
  | .invocationArrival inv => inv.port.getD 16
  | _ => 0

/-- The turns of a cycle are over: the steps of the first phase that are due in it, or, when none is left, the next cycle. -/
def State.advance (s : State) : State :=
  let due := s.time.calendar.filter (dueBy s.time.cycle)
  if due.isEmpty then s.nextCycle
  else
    let phase := due.foldl (fun n e => min n (duePhase e.2)) 5
    let now (e : Nat × Instr) : Bool := dueBy s.time.cycle e && duePhase e.2 = phase
    let steps := sortBy (fun x y => s.dueKey x ≤ s.dueKey y) ((due.filter now).map Prod.snd)
    { s with time := { s.time with
        agenda := s.time.agenda ++ steps
        calendar := s.time.calendar.filter fun e => !now e } }

/-- A part that is held in reset executes nothing but a power-on; what is due is dropped as cycles pass (R425, R426). -/
def State.haltedStep (s : State) : Result :=
  match s.time.agenda with
  | .powerOn a b c :: rest => exec (.powerOn a b c) { s with time := { s.time with agenda := rest } }
  | _ :: rest => .next { s with time := { s.time with agenda := rest } }
  | [] => .next { s with time := { s.time with
      cycle := s.time.cycle + 1, closed := false, todo := [], calendar := s.time.calendar.filter fun e => !dueBy s.time.cycle e } }

/-- The turns of a cycle in their order, then what is due in it. -/
noncomputable def State.turnStep (s : State) : Result :=
  match s.time.todo with
  | uid :: rest => ({ s with time := { s.time with todo := rest } }.focus uid).takeTurn
  | [] => .next s.advance

/-- The place of a submission among those that reach the launch units in one cycle: launch windows by function, then
invocations by port; the instructions come between them, at their turns (R42). -/
def arrivalRank (i : Instr) : Option Nat :=
  match i with
  | .launchWindowSubmit vf _ _ => some vf
  | .invocationArrival inv => some (256 + inv.port.getD 16)
  | _ => none

/-- The step to take of those due now: the first, or, where that is a submission, the first submission in the order of R42. -/
def firstDue (i : Instr) (rest : List Instr) : Instr × List Instr :=
  let before (x y : Instr) : Bool := match arrivalRank x, arrivalRank y with
    | some a, some b => a < b
    | _, _ => false
  let best := rest.foldl (fun (b : Instr) x => if before x b then x else b) i
  if best = i then (i, rest) else (best, (i :: rest).erase best)

/-- A submission that waits for the turns of its cycle: an invocation (R42). -/
def State.laterToday (s : State) (i : Instr) : Bool :=
  match arrivalRank i with
  | some r => 256 ≤ r && !(s.time.closed && s.time.todo.isEmpty)
  | none => false

/-- A step that is due now is taken (R42). -/
def State.dueStep (s : State) (i : Instr) (rest : List Instr) : Result :=
  let x := firstDue i rest
  let s := { s with time := { s.time with agenda := x.2 } }
  if s.laterToday x.1 then .next (s.schedule s.time.cycle x.1) else exec x.1 s

/-- One step: a step that is due now, or the next turn of the cycle, or the end of its turns. -/
noncomputable def State.stepOnce (s : State) : Result :=
  if s.dev.halted then s.haltedStep
  else
    match s.time.agenda with
    | i :: rest => s.dueStep i rest
    | [] => s.listTurns.turnStep

/-! ## Placing an instruction for the next step -/

/-- A byte of a line. -/
def lineByte (data : List Byte) (k : Nat) (v : Byte) : List Byte := ((data ++ List.replicate 32 0).take 32).set k v

/-- Puts a byte into the instruction cache of a core for a partition. -/
def State.setCodeByte (s : State) (core part va : Nat) (v : Byte) : State :=
  match s.iline core part va with
  | some l =>
    { s with fetch := { s.fetch with ilines := s.fetch.ilines.map fun (x : ILine) =>
        if x = l then { x with data := lineByte x.data (va % 32) v, deny := none } else x } }
  | none => { s with fetch := { s.fetch with ilines := ⟨core, va / 32, part, lineByte [] (va % 32) v, 0, none⟩ :: s.fetch.ilines } }

/-- Puts bytes into the instruction cache from an address up. -/
def State.setCodeBytes (s : State) (core part va : Nat) : List Byte → State
  | [] => s
  | b :: bs => (s.setCodeByte core part va b).setCodeBytes core part (va + 1) bs

/-- The state in which the very next step is the turn of the thread in focus, with the bytes of an instruction at its PC in the
instruction cache of its core. -/
def State.withCode (s : State) (bs : List Byte) : State :=
  let s := s.setCodeBytes s.t.core s.t.ident.part s.t.pc.toNat bs
  let uid := s.t.ident.uid
  { s with time := { s.time with agenda := [], closed := true, todo := uid :: s.time.todo.filter fun u => u ≠ uid } }

end Sys2Proof.Machine
end

