-- ==== Sys2Proof/Machine/Step.lean ====
section
/-! DEFINITION. The step of the machine, and a state whose next step runs a given instruction. -/

namespace Sys2Proof.Machine

open Sys2Proof

/-- One step of the machine (assumption 3): a step of a unit that is due now, or the next turn of a thread in this cycle, or
the end of the cycle's turns. -/
noncomputable def step (s : State) : Host.Outcome State Fault Refusal := s.stepOnce

/-- The state with an instruction, whose bits are w, at the PC of the thread in focus, in the instruction cache of its core,
and the turn of that thread next (assumption 10). -/
def State.withFetchWord (s : State) (nbits w : Nat) : State := s.withCode (natBytes 4 (w % 2 ^ nbits))

end Sys2Proof.Machine
end

