-- ==== Sys2Proof/Safety.lean ====
section
/-! DEFINITION. What a safe run is, and the conditions on a state in whose terms the statements about the machine are
made: the canonical form of memory, registers that can be read or written, and the state that follows an instruction that
only writes registers. -/

namespace Sys2Proof.Machine

open Sys2Proof

/-! ## Safe runs -/

/-- An outcome is safe when the machine goes on. -/
def Safe (r : Result) : Prop := ∃ s, r = .next s

/-- n steps from a state that all go on. -/
def SafeRun : Nat → State → Prop
  | 0, _ => True
  | n + 1, s => ∃ s', step s = .next s' ∧ SafeRun n s'

/-- The stores of a state are in their canonical form. -/
def State.canonical (s : State) : Prop := s.mem.wf = true

/-! ## Registers that let an instruction issue (R101) -/

/-- No destination is pending (R74). -/
def State.writable (s : State) (rs : List Reg) : Prop := ∀ r ∈ rs, (s.t.reg r).full = true

/-- Every source is full and not poisoned, so that it is read at either value of its T bit (R75, R101). -/
def State.readable (s : State) (rs : List Reg) : Prop := ∀ r ∈ rs, (s.t.reg r).full = true ∧ (s.t.reg r).poison = false

/-! ## What follows an instruction that issued -/

/-- The result label of an instruction that reads registers (R110): CLABEL, the label of a patch on it, and theirs. -/
def State.joined (s : State) (srcs : List Reg) : Label := s.t.ctl.clabel ||| s.t.patched ||| labelsOf s.t srcs

/-- The state after an instruction of n bytes that writes v to d with a label, and nothing else: the PC has moved by n, and
the turn was an issue (R73, R104). -/
def State.put (s : State) (d : Reg) (v : Word) (l : Label) (n : Nat) : State :=
  { s with t := { s.t.write d v l with pc := s.t.pc + BitVec.ofNat 64 n, prog := .fresh, proxy := false }
           time := { s.time with turn := .issue } }

/-- The state after an instruction of n bytes that reads `srcs` and writes v to d with the result label, and nothing else
(R73, R110). -/
def State.wrote (s : State) (d : Reg) (v : Word) (srcs : List Reg) (n : Nat) : State := s.put d v (s.joined srcs) n

/-- The state after an instruction that writes no register and moves the PC to an address, with a thread that is otherwise
t (R104). -/
def State.went (s : State) (t : Thread) (pc : Word) : State :=
  { s with t := { t with pc := pc, prog := .fresh, proxy := false }, time := { s.time with turn := .issue } }

/-- The thread at its turn has just taken a synchronous trap, and nothing outside it and its turn has changed (R385): the trap
registers, CLABEL, STATUS, and the PC at TRAPVEC. -/
def State.trapped (s : State) (code : Nat) (pc addr info : Word) (join : Label) : State :=
  { s with t := s.t.enterTrap code false pc addr info join, time := { s.time with turn := .trap } }

/-- The thread at its turn belongs to no handler gang of trap policy 0, whose traps end it (R52). -/
def State.traps (s : State) : Prop := s.abortsHandler = false

end Sys2Proof.Machine
end

