-- ==== Sys2Proof/Certificates/Slice0/Obligations.lean ====
section
/-! DEFINITION. The statements about the model for the provers. Each obligation at the end of the file is one claim of the
namespace Claims, or several of one group; a claim that rests on a choice of the model names its log entry. -/

namespace Sys2Proof.Claims

open Sys2Proof Sys2Proof.Machine

/-- Lane i, of so many bits, of a word, as an unsigned number (R117). -/
def ulane (bits : Nat) (x : Word) (i : Nat) : Int := (x.toNat / 2 ^ (bits * i) % 2 ^ bits : Nat)

/-- Lane i, of so many bits, of a word, as a signed number (R117). -/
def slane (bits : Nat) (x : Word) (i : Nat) : Int := Int.bmod (ulane bits x i) (2 ^ bits)

/-- Every lane of a word is the low bits of a number. -/
def hasLanes (bits : Nat) (v : Word) (f : Nat → Int) : Prop := ∀ i, i < 64 / bits → ulane bits v i = f i % 2 ^ bits

/-- A number brought into a range. -/
def clampTo (lo hi v : Int) : Int := max lo (min v hi)

/-- A number brought into the signed range of so many bits (R109). -/
def clampS (bits : Nat) (v : Int) : Int := clampTo (-(2 ^ (bits - 1))) (2 ^ (bits - 1) - 1) v

/-- A number brought into the unsigned range of so many bits (R109). -/
def clampU (bits : Nat) (v : Int) : Int := clampTo 0 (2 ^ bits - 1) v

/-! ## Scalar results -/

/-- The register forms of ALU.R (R112): each writes the value that R112 gives to d, and nothing else changes but the PC. The
values are stated by their own arithmetic on numbers and integers, not by the model's functions. -/
def AluRegisterResults : Prop :=
  ∀ (s : State) (d a b : Reg) (ta tb : Bool), s.writable [d] → s.readable [a, b] →
    let x := s.val a
    let y := s.val b
    let k := y.toNat % 64
    let out (v : Word) : Result := .next (s.wrote d v [a, b] 4)
    exec (.add d a b ta tb) s = out (BitVec.ofNat 64 (x.toNat + y.toNat)) ∧
    exec (.sub d a b ta tb) s = out (BitVec.ofInt 64 (x.toInt - y.toInt)) ∧
    exec (.and d a b ta tb) s = out (x &&& y) ∧
    exec (.or d a b ta tb) s = out (x ||| y) ∧
    exec (.xor d a b ta tb) s = out (x ^^^ y) ∧
    exec (.sll d a b ta tb) s = out (BitVec.ofNat 64 (x.toNat * 2 ^ k)) ∧
    exec (.srl d a b ta tb) s = out (BitVec.ofNat 64 (x.toNat / 2 ^ k)) ∧
    exec (.sra d a b ta tb) s = out (BitVec.ofInt 64 (x.toInt / 2 ^ k)) ∧
    exec (.rot d a b ta tb) s = out (x >>> k ||| x <<< (64 - k)) ∧
    exec (.min d a b ta tb) s = out (if x.toInt ≤ y.toInt then x else y) ∧
    exec (.max d a b ta tb) s = out (if x.toInt ≤ y.toInt then y else x) ∧
    exec (.minu d a b ta tb) s = out (if x.toNat ≤ y.toNat then x else y) ∧
    exec (.maxu d a b ta tb) s = out (if x.toNat ≤ y.toNat then y else x) ∧
    exec (.slt d a b ta tb) s = out (if x.toInt < y.toInt then 1 else 0) ∧
    exec (.sltu d a b ta tb) s = out (if x.toNat < y.toNat then 1 else 0) ∧
    exec (.seq d a b ta tb) s = out (if x = y then 1 else 0)

/-- `sel`, which reads d, and the extensions (R112). -/
def SelectAndExtend : Prop :=
  ∀ (s : State) (d a b : Reg) (ta tb : Bool), s.readable [a, b, d] →
    let x := s.val a
    let out (v : Word) : Result := .next (s.wrote d v [a] 4)
    exec (.sel d a b ta tb) s = .next (s.wrote d (if s.val d = 0 then s.val b else x) [d, a, b] 4) ∧
    exec (.extSB d a ta tb) s = out ((x.setWidth 8).signExtend 64) ∧
    exec (.extSH d a ta tb) s = out ((x.setWidth 16).signExtend 64) ∧
    exec (.extSW d a ta tb) s = out ((x.setWidth 32).signExtend 64) ∧
    exec (.extZB d a ta tb) s = out ((x.setWidth 8).setWidth 64) ∧
    exec (.extZH d a ta tb) s = out ((x.setWidth 16).setWidth 64) ∧
    exec (.extZW d a ta tb) s = out ((x.setWidth 32).setWidth 64)

/-- The immediate forms, the shifts by an immediate, `lui` and `addpc` (R113 to R115). -/
def ImmediateResults : Prop :=
  ∀ (s : State) (d a : Reg) (imm : BitVec 14) (n : BitVec 6) (u : BitVec 20) (ta : Bool), s.writable [d] → s.readable [a] →
    let x := s.val a
    let i : Word := imm.signExtend 64
    let out (v : Word) : Result := .next (s.wrote d v [a] 4)
    exec (.addi d a imm ta) s = out (BitVec.ofInt 64 (x.toInt + imm.toInt)) ∧
    exec (.andi d a imm ta) s = out (x &&& i) ∧
    exec (.ori d a imm ta) s = out (x ||| i) ∧
    exec (.xori d a imm ta) s = out (x ^^^ i) ∧
    exec (.slti d a imm ta) s = out (if x.toInt < imm.toInt then 1 else 0) ∧
    exec (.sltiu d a imm ta) s = out (if x.toNat < i.toNat then 1 else 0) ∧
    exec (.slli d a n ta) s = out (BitVec.ofNat 64 (x.toNat * 2 ^ n.toNat)) ∧
    exec (.srli d a n ta) s = out (BitVec.ofNat 64 (x.toNat / 2 ^ n.toNat)) ∧
    exec (.srai d a n ta) s = out (BitVec.ofInt 64 (x.toInt / 2 ^ n.toNat)) ∧
    exec (.roti d a n ta) s = out (x >>> n.toNat ||| x <<< (64 - n.toNat)) ∧
    exec (.lui d u) s = .next (s.wrote d (BitVec.ofInt 64 (u.toInt * 2 ^ 14)) [] 4) ∧
    exec (.addpc d u) s = .next (s.wrote d (BitVec.ofInt 64 (s.t.pc.toInt + u.toInt * 2 ^ 14)) [] 4)

/-- Multiplication and division (R116): the R format with major 0x0A, the functions above 6 being no instruction; the results, with the quotient rounded toward zero and
the remainder that goes with it; and the borderline cases: a zero divisor gives all ones or the dividend, and −2^63 divided by −1 gives −2^63 and remainder 0. -/
def MultiplyDivideResults : Prop :=
  ∀ (s : State) (d a b : Reg) (ta tb : Bool),
    let word (fn : Nat) : Nat :=
      1 + 0x0A * 2 ^ 1 + d.val * 2 ^ 7 + a.val * 2 ^ 12 + b.val * 2 ^ 17 + ta.toNat * 2 ^ 22 + tb.toNat * 2 ^ 23 + fn * 2 ^ 24
    let x := s.val a
    let y := s.val b
    let low (v : Int) : Word := BitVec.ofInt 64 v
    let is (fn : Nat) (i : Instr) (v : Word) : Prop :=
      decodeWord (word fn) = .ok i ∧
        (s.writable [d] → s.readable [a, b] → exec i s = .next (s.wrote d v [a, b] 4))
    is 0 (.mul d a b ta tb) (low (x.toInt * y.toInt)) ∧
    BitVec.ofNat 64 (x.toNat * y.toNat) = low (x.toInt * y.toInt) ∧
    is 1 (.mulh d a b ta tb) (low (x.toInt * y.toInt / 2 ^ 64)) ∧
    is 2 (.mulhu d a b ta tb) (low (x.toNat * y.toNat / 2 ^ 64)) ∧
    is 3 (.div d a b ta tb) (if y = 0 then 0xFFFFFFFFFFFFFFFF else low (x.toInt.tdiv y.toInt)) ∧
    is 4 (.divu d a b ta tb) (if y = 0 then 0xFFFFFFFFFFFFFFFF else low (x.toNat / y.toNat)) ∧
    is 5 (.rem d a b ta tb) (if y = 0 then x else low (x.toInt - y.toInt * x.toInt.tdiv y.toInt)) ∧
    is 6 (.remu d a b ta tb) (if y = 0 then x else low (x.toNat - y.toNat * (x.toNat / y.toNat))) ∧
    (x = 0x8000000000000000 → y = 0xFFFFFFFFFFFFFFFF →
      low (x.toInt.tdiv y.toInt) = 0x8000000000000000 ∧ low (x.toInt - y.toInt * x.toInt.tdiv y.toInt) = 0) ∧
    ∀ fn, 7 ≤ fn → fn < 256 → decodeWord (word fn) = .error .reservedFunction

/-! ## Packed, complex and bit-field results -/

/-- The packed operations (R117, R118): for each op of the table of R118 and each width, the word in the R format of R117 with
that op is the instruction, and every lane of its result is the one the table gives. -/
def PackedResults : Prop :=
  ∀ (s : State) (d a b : Reg) (w : PWidth) (ta tb : Bool),
    let word (op : Nat) : Nat :=
      1 + 0x0B * 2 ^ 1 + d.val * 2 ^ 7 + a.val * 2 ^ 12 + b.val * 2 ^ 17 + ta.toNat * 2 ^ 22 + tb.toNat * 2 ^ 23 +
        w.code * 2 ^ 24 + op * 2 ^ 26
    let n := pbits w
    let u := ulane n (s.val a)
    let v := ulane n (s.val b)
    let x := slane n (s.val a)
    let y := slane n (s.val b)
    let k := (s.val b).toNat % n
    let ones (p : Prop) [Decidable p] : Int := if p then 2 ^ n - 1 else 0
    let out (op : Nat) (i : Instr) (f : Nat → Int) : Prop :=
      decodeWord (word op) = .ok i ∧
        (s.writable [d] → s.readable [a, b] → ∃ r, exec i s = .next (s.wrote d r [a, b] 4) ∧ hasLanes n r f)
    out 0x00 (.padd d a b w ta tb) (fun i => u i + v i) ∧
    out 0x01 (.paddSs d a b w ta tb) (fun i => clampS n (x i + y i)) ∧
    out 0x02 (.paddUs d a b w ta tb) (fun i => clampU n (u i + v i)) ∧
    out 0x03 (.psub d a b w ta tb) (fun i => u i - v i) ∧
    out 0x04 (.psubSs d a b w ta tb) (fun i => clampS n (x i - y i)) ∧
    out 0x05 (.psubUs d a b w ta tb) (fun i => clampU n (u i - v i)) ∧
    out 0x06 (.pmul d a b w ta tb) (fun i => u i * v i) ∧
    out 0x07 (.pmulSs d a b w ta tb) (fun i => clampS n (x i * y i)) ∧
    out 0x08 (.pmin d a b w ta tb) (fun i => min (x i) (y i)) ∧
    out 0x09 (.pminU d a b w ta tb) (fun i => min (u i) (v i)) ∧
    out 0x0A (.pmax d a b w ta tb) (fun i => max (x i) (y i)) ∧
    out 0x0B (.pmaxU d a b w ta tb) (fun i => max (u i) (v i)) ∧
    out 0x0C (.pshLl d a b w ta tb) (fun i => u i * 2 ^ k) ∧
    out 0x0D (.pshRl d a b w ta tb) (fun i => u i / 2 ^ k) ∧
    out 0x0E (.pshRa d a b w ta tb) (fun i => x i / 2 ^ k) ∧
    out 0x0F (.pcmpEq d a b w ta tb) (fun i => ones (u i = v i)) ∧
    out 0x10 (.pcmpLt d a b w ta tb) (fun i => ones (x i < y i)) ∧
    out 0x11 (.pcmpLtu d a b w ta tb) (fun i => ones (u i < v i)) ∧
    out 0x12 (.pabsd d a b w ta tb) (fun i => |x i - y i|)

/-- The packing operations (R119): the narrowed lanes of a below those of b, for the widths that R94 allows. -/
def PackResults : Prop :=
  ∀ (s : State) (d a b : Reg) (w : PWidth) (ta tb : Bool), w ≠ .b8 → s.writable [d] → s.readable [a, b] →
    let n := pbits w
    let lanes (g : Nat → Word → Nat → Int) (i : Nat) : Int :=
      if i < 64 / n then g n (s.val a) i else g n (s.val b) (i - 64 / n)
    let out (i : Instr) (f : Nat → Int) : Prop := ∃ r, exec i s = .next (s.wrote d r [a, b] 4) ∧ hasLanes (n / 2) r f
    out (.ppack d a b w ta tb) (lanes ulane) ∧
    out (.ppackSs d a b w ta tb) (fun i => clampS (n / 2) (lanes slane i)) ∧
    out (.ppackUs d a b w ta tb) (fun i => clampU (n / 2) (lanes slane i))

/-- The state after an instruction of n bytes that writes two registers. -/
def wrote2 (s : State) (d e : Reg) (v w : Word) (srcs : List Reg) (n : Nat) : State :=
  { s with t := { (s.t.write d v (s.joined srcs)).write e w (s.joined srcs) with
                  pc := s.t.pc + BitVec.ofNat 64 n, prog := .fresh, proxy := false }
           time := { s.time with turn := .issue } }

/-- The complex operations on two CI16 elements in each register, and `mulq` (R120 to R122, R126). -/
def ComplexResults : Prop :=
  ∀ (s : State) (d a b : Reg) (ta tb : Bool),
    let e := nextReg d
    let dot (c : Int) (x y : Word) : Int × Int :=
      let re k l := slane 16 x k * slane 16 y k - c * (slane 16 x l * slane 16 y l)
      let im k l := c * (slane 16 x k * slane 16 y l) + slane 16 x l * slane 16 y k
      (re 0 1 + re 2 3, im 0 1 + im 2 3)
    let out (i : Instr) (acc : Bool) (p : Int × Int) (srcs : List Reg) (n : Nat) : Prop :=
      exec i s = .next (wrote2 s d e ((if acc then s.val d else 0) + BitVec.ofInt 64 p.1)
        ((if acc then s.val e else 0) + BitVec.ofInt 64 p.2) srcs n)
    (pairOk d = true → s.writable [d, e] → s.readable [a, b] →
      out (.cmul d a b ta tb) false (dot 1 (s.val a) (s.val b)) [a, b] 4) ∧
    (pairOk d = true → s.readable [a, b, d, e] →
      out (.cmac d a b ta tb) true (dot 1 (s.val a) (s.val b)) [a, b, d, e] 4 ∧
      out (.cmacj d a b ta tb) true (dot (-1) (s.val a) (s.val b)) [a, b, d, e] 4) ∧
    (pairOk d = true → a.val ≤ 30 → s.readable [a, nextReg a, d, e] →
      out (.cCmac d a) true (dot 1 (s.val a) (s.val (nextReg a))) [a, nextReg a, d, e] 2) ∧
    (s.writable [d] → s.readable [a] → ∃ v, exec (.cabs2 d a ta tb) s = .next (s.wrote d v [a] 4) ∧
      hasLanes 32 v (fun k => slane 16 (s.val a) (2 * k) ^ 2 + slane 16 (s.val a) (2 * k + 1) ^ 2)) ∧
    (s.writable [d] → s.readable [a, b] → ∃ v, exec (.mulq d a b ta tb) s = .next (s.wrote d v [a, b] 4) ∧
      hasLanes 16 v (fun k => clampS 16 ((slane 16 (s.val a) k * slane 16 (s.val b) k + 0x4000) / 2 ^ 15)))

/-- Saturation, counts, byte order and bit fields (R123 to R125). -/
def BitFieldResults : Prop :=
  ∀ (s : State) (d a b : Reg) (n : BitVec 5) (ta tb : Bool), s.writable [d] → s.readable [a] →
    let x := s.val a
    let y := s.val b
    let p := y.toNat % 64
    let len := min (y.toNat / 2 ^ 8 % 64 + 1) (64 - p)
    let one (i : Instr) (f : Word → Prop) : Prop := ∃ v, exec i s = .next (s.wrote d v [a] 4) ∧ f v
    exec (.sat d a n ta tb) s = .next (s.wrote d (BitVec.ofInt 64 (clampS (n.toNat + 1) x.toInt)) [a] 4) ∧
    exec (.satu d a n ta tb) s = .next (s.wrote d (BitVec.ofInt 64 (clampU (n.toNat + 1) x.toInt)) [a] 4) ∧
    one (.clz d a ta tb) (fun v => if x = 0 then v = 64 else
      v.toNat < 64 ∧ 2 ^ (63 - v.toNat) ≤ x.toNat ∧ x.toNat < 2 ^ (64 - v.toNat)) ∧
    one (.ctz d a ta tb) (fun v => if x = 0 then v = 64 else
      v.toNat < 64 ∧ x.toNat % 2 ^ v.toNat = 0 ∧ x.toNat / 2 ^ v.toNat % 2 = 1) ∧
    one (.popc d a ta tb) (fun v => v.toNat = ((List.range 64).filter fun i => x.getLsbD i).length) ∧
    one (.bswap d a ta tb) (fun v => hasLanes 8 v fun i => ulane 8 x (7 - i)) ∧
    (s.readable [b] →
      exec (.bextu d a b ta tb) s = .next (s.wrote d (BitVec.ofNat 64 (x.toNat / 2 ^ p % 2 ^ len)) [a, b] 4) ∧
      exec (.bext d a b ta tb) s =
        .next (s.wrote d (BitVec.ofInt 64 (Int.bmod (x.toNat / 2 ^ p % 2 ^ len : Nat) (2 ^ len))) [a, b] 4)) ∧
    (s.readable [b, d] → ∃ v, exec (.bins d a b ta tb) s = .next (s.wrote d v [d, a, b] 4) ∧
      ∀ j, j < 64 → v.getLsbD j = if p ≤ j ∧ j < p + len then x.getLsbD (j - p) else (s.val d).getLsbD j)

/-! ## Compact forms -/

/-- The scalar compact forms (R126): each is the full form with d as its first source, two bytes long. -/
def CompactResults : Prop :=
  ∀ (s : State) (d r : Reg) (imm : BitVec 5), s.readable [d, r] →
    let x := s.val d
    let y := s.val r
    let k := y.toNat % 64
    let out (v : Word) : Result := .next (s.wrote d v [d, r] 2)
    exec (.cAdd d r) s = out (BitVec.ofNat 64 (x.toNat + y.toNat)) ∧
    exec (.cSub d r) s = out (BitVec.ofInt 64 (x.toInt - y.toInt)) ∧
    exec (.cAnd d r) s = out (x &&& y) ∧
    exec (.cOr d r) s = out (x ||| y) ∧
    exec (.cXor d r) s = out (x ^^^ y) ∧
    exec (.cSll d r) s = out (BitVec.ofNat 64 (x.toNat * 2 ^ k)) ∧
    exec (.cSrl d r) s = out (BitVec.ofNat 64 (x.toNat / 2 ^ k)) ∧
    exec (.cSra d r) s = out (BitVec.ofInt 64 (x.toInt / 2 ^ k)) ∧
    exec (.cMul d r) s = out (BitVec.ofNat 64 (x.toNat * y.toNat)) ∧
    exec (.cMin d r) s = out (if x.toInt ≤ y.toInt then x else y) ∧
    exec (.cMax d r) s = out (if x.toInt ≤ y.toInt then y else x) ∧
    exec (.mv d r) s = .next (s.wrote d y [r] 2) ∧
    exec (.cAddi d imm) s = .next (s.wrote d (BitVec.ofInt 64 (x.toInt + imm.toInt)) [d] 2)

/-! ## Floating point -/

/-- What a scalar floating-point instruction of n bytes does with a result r, under a rounding mode that makes `draws` draws (R162, R164):
FPEXC where a raised flag is enabled, with FLAGS updated, d and SEED as they were; else the flags are joined, SEED has moved on
by its draws, and d is written, with SEED's label too under SR. -/
def fpOutcome (s : State) (d : Reg) (r : Word × FFlags) (rm : Rm) (draws : Nat) (srcs : List Reg) (n : Nat) : Result :=
  let seedLabel := if rm = .sr then s.t.ctl.seedLabel else 0
  let raised : Thread := s.t.setStatus 5 5 (s.t.flags ||| r.2).toNat
  if r.2 &&& s.t.fpen ≠ 0 then
    .next (State.trapped { s with t := raised } 0x0B s.t.pc 0 (r.2.setWidth 64)
      (labelsOf s.t srcs ||| s.t.patched ||| (s.joined srcs ||| seedLabel)))
  else
    let drawn : Thread := { raised with ctl := { raised.ctl with seed := xorshiftN draws s.t.ctl.seed } }
    .next (s.went (drawn.write d r.1 (s.joined srcs ||| seedLabel)) (s.t.pc + BitVec.ofNat 64 n))

/-- The FP group's arithmetic by STATUS.RM (R167), `rnd` (R169), `cvt` (R171) and the compact forms (R126): each completes with
the value that the operation gives on the decoded operands, or takes FPEXC. -/
def FloatArithmetic : Prop :=
  ∀ (s : State) (d a b : Reg) (f : FpFmt) (m : Rm) (q : CvtRound) (dst src : Fmt) (ta tb : Bool),
    s.traps → s.writable [d] → s.readable [a] →
    let z := xorshift s.t.ctl.seed
    let rm := s.t.rm
    let g := floatOf f
    let x := decodeF g (s.val a).toNat
    let y := decodeF g (s.val b).toNat
    let n (c : Rm) : Nat := if c = .sr then 1 else 0
    let w (p : Nat × FFlags) : Word × FFlags := (BitVec.ofNat 64 p.1, p.2)
    let cm := match q with
      | .status => rm
      | .fixed c => c
    exec (.fsqrt d a f ta tb) s = fpOutcome s d (w (fSqrt g rm z x)) rm (n rm) [a] 4 ∧
    exec (.rnd d a f m ta tb) s = fpOutcome s d (w (fRnd g m z (s.val a).toNat)) m (n m) [a] 4 ∧
    exec (.cvt d a q dst src ta tb) s = fpOutcome s d (cvtValue src dst cm z (xorshift z) (s.val a).toNat) cm
      (if cm = .sr then cvtDraws src else 0) [a] 4 ∧
    (s.readable [b] →
      exec (.fadd d a b f ta tb) s = fpOutcome s d (w (fAdd g rm z x y)) rm (n rm) [a, b] 4 ∧
      exec (.fsub d a b f ta tb) s = fpOutcome s d (w (fAdd g rm z x (negF y))) rm (n rm) [a, b] 4 ∧
      exec (.fmul d a b f ta tb) s = fpOutcome s d (w (fMul g rm z x y)) rm (n rm) [a, b] 4 ∧
      exec (.fdiv d a b f ta tb) s = fpOutcome s d (w (fDiv g rm z x y)) rm (n rm) [a, b] 4) ∧
    (s.readable [b, d] →
      exec (.fma d a b f ta tb) s =
        fpOutcome s d (w (fFma g rm z x y (decodeF g (s.val d).toNat))) rm (n rm) [a, b, d] 4) ∧
    (s.readable [d] →
      let u := decodeF fmtFp32 (s.val d).toNat
      let v := decodeF fmtFp32 (s.val a).toNat
      exec (.cFadd d a) s = fpOutcome s d (w (fAdd fmtFp32 rm z u v)) rm (n rm) [d, a] 2 ∧
      exec (.cFmul d a) s = fpOutcome s d (w (fMul fmtFp32 rm z u v)) rm (n rm) [d, a] 2)

/-- The operations of the FP group that do not round (R168): they make no draw. -/
def FloatCompare : Prop :=
  ∀ (s : State) (d a b : Reg) (f : FpFmt) (ta tb : Bool), s.traps → s.writable [d] → s.readable [a, b] →
    let g := floatOf f
    let x := (s.val a).toNat
    let y := (s.val b).toNat
    let out (i : Instr) (r : Word × FFlags) (srcs : List Reg) : Prop := exec i s = fpOutcome s d r .rne 0 srcs 4
    let one (r : Bool × FFlags) : Word × FFlags := (if r.1 then 1 else 0, r.2)
    let num (r : Nat × FFlags) : Word × FFlags := (BitVec.ofNat 64 r.1, r.2)
    out (.fcmpEq d a b f ta tb) (one (fCompare .eq g x y)) [a, b] ∧
    out (.fcmpLt d a b f ta tb) (one (fCompare .lt g x y)) [a, b] ∧
    out (.fcmpLe d a b f ta tb) (one (fCompare .le g x y)) [a, b] ∧
    out (.fmin d a b f ta tb) (num (fMinMax true g x y)) [a, b] ∧
    out (.fmax d a b f ta tb) (num (fMinMax false g x y)) [a, b] ∧
    out (.fclass d a f ta tb) (BitVec.ofNat 64 (fClass g x), 0) [a]

/-- Rounding is exact where it can be (R156 to R158, R163): a finite value of a format that is rounded to that format gives its own
code and raises no flag, in every mode and with every draw. -/
def RoundingIsExact : Prop :=
  ∀ (f : FpFmt) (rm : Rm) (z : Word) (c : Nat), c < 2 ^ fwidth (floatOf f) →
    match decodeF (floatOf f) c with
    | .fin neg m e => m ≠ 0 → roundF (floatOf f) rm z neg m e false = (c, 0)
    | _ => True

/-! ## Control -/

/-- Branches (R128): CLABEL joins both labels whether the branch is taken or not, and the PC goes to PC + 2 × imm12 or on. -/
def BranchResults : Prop :=
  ∀ (s : State) (a b : Reg) (imm : BitVec 12), s.readable [a, b] →
    let x := s.val a
    let y := s.val b
    let out (i : Instr) (taken : Prop) [Decidable taken] : Prop :=
      exec i s = .next (s.went (s.t.joinClabel (s.lbl a ||| s.lbl b))
        (if taken then BitVec.ofInt 64 (s.t.pc.toInt + 2 * imm.toInt) else s.t.pc + 4))
    out (.beq a b imm) (x = y) ∧
    out (.bne a b imm) (x ≠ y) ∧
    out (.blt a b imm) (x.toInt < y.toInt) ∧
    out (.bge a b imm) (y.toInt ≤ x.toInt) ∧
    out (.bltu a b imm) (x.toNat < y.toNat) ∧
    out (.bgeu a b imm) (y.toNat ≤ x.toNat)

/-- `jal` and `jalr` (R129): the link is the address after the instruction; `jalr` joins its base's label into CLABEL first, and an odd target takes
ALIGN with nothing written. -/
def JumpResults : Prop :=
  ∀ (s : State) (d a : Reg) (imm : BitVec 20) (off : BitVec 14) (ta : Bool), s.writable [d] →
    let target := s.val a + off.signExtend 64
    let t := s.t.joinClabel (s.lbl a)
    exec (.jal d imm) s =
      .next (s.went (s.t.write d (s.t.pc + 4) (s.joined [])) (BitVec.ofInt 64 (s.t.pc.toInt + 2 * imm.toInt))) ∧
    (s.readable [a] → target.toNat % 2 = 0 →
      exec (.jalr d a off ta) s =
        .next (s.went (t.write d (s.t.pc + 4) (t.ctl.clabel ||| s.t.patched)) target)) ∧
    (s.readable [a] → s.traps → target.toNat % 2 = 1 →
      exec (.jalr d a off ta) s = .next (s.trapped 0x05 s.t.pc target 0 (s.lbl a ||| s.t.patched)))

/-- The entry of a synchronous trap, which every statement here means by `trapped` (R385, R387): the trap registers with PMODE and NESTED of
before, CLABEL with the labels that join, supervisor mode unless it is device mode, INTRAP 1, and the PC at TRAPVEC; TRAPVEC, SAVEPTR, the other
bits of STATUS, every register and all the rest of the state stay. -/
def TrapEntry : Prop :=
  ∀ (s : State) (code : Nat) (pc addr info : Word) (join : Label),
    let t := s.t
    let s' := s.trapped code pc addr info join
    s'.t.pc = t.trap.vec ∧ s'.t.inTrap = true ∧ s'.t.mode = (if t.mode = 2 then 2 else 1) ∧
    s'.t.ctl.clabel = t.ctl.clabel ||| join ∧
    s'.t.trap = { t.trap with
      pc := BitVec.ofNat 64 (pc.toNat % 2 ^ 56 / 2 * 2), addr := addr, info := info
      code := BitVec.ofNat 64 (code + t.mode * 2 ^ 6 + (if t.inTrap = true then 2 ^ 9 else 0)) } ∧
    (∀ i, 2 ≤ i → i < 64 → i ≠ 17 → s'.t.ctl.status.getLsbD i = t.ctl.status.getLsbD i) ∧
    s'.t.ctl = { t.ctl with clabel := s'.t.ctl.clabel, status := s'.t.ctl.status } ∧
    s'.t = { t with trap := s'.t.trap, ctl := s'.t.ctl, pc := s'.t.pc, run := .ready, prog := .fresh, proxy := false } ∧
    s' = { s with t := s'.t, time := { s.time with turn := .trap } }

/-- `sys` and `trap` take SYSCALL and BREAK (R390): the entry of R385 with TRAPPC past the instruction and its number in
TRAPINFO. -/
def SystemCallEntry : Prop :=
  ∀ (s : State) (n : BitVec 12), s.traps →
    exec (.sys n) s = .next (s.trapped 0x0C (s.t.pc + 4) 0 (n.setWidth 64) 0) ∧
    exec (.trap n) s = .next (s.trapped 0x0D (s.t.pc + 4) 0 (n.setWidth 64) 0)

/-! ## Control registers -/

/-- The numbers of the control registers (R79): those that task mode may not access, those that no mode but the device's may write, and
those that task mode may not write. -/
def hiddenNum (n : Nat) : Prop := n = 0x032 ∨ (0x040 ≤ n ∧ n ≤ 0x044) ∨ n = 0x048 ∨ (0x050 ≤ n ∧ n ≤ 0x053) ∨ n = 0x060 ∨ n = 0x061

/-- A register that is read-only in task and supervisor mode (R79). -/
def fixedNum (n : Nat) : Prop := n = 0x001 ∨ n = 0x004 ∨ n = 0x005 ∨ (0x008 ≤ n ∧ n ≤ 0x00C) ∨ (0x018 ≤ n ∧ n ≤ 0x01F) ∨
  (0x020 ≤ n ∧ n ≤ 0x027) ∨ n = 0x031 ∨ n = 0x052

/-- A number that R79 lists. -/
def listedNum (n : Nat) : Prop := n ≤ 0x003 ∨ (0x010 ≤ n ∧ n ≤ 0x013) ∨ n = 0x030 ∨ hiddenNum n ∨ fixedNum n

/-- `mfc` (R78 to R83, R206, R387, R389, R413): the registers of the thread that every mode may read; the supervisor registers outside task
mode, which task mode may not read (PRIV); WMDATA of another partition's Pan is PROT; the counters, of the gang in task mode and of the partition
outside it; an unlisted number is ILLEGAL, and one of the device's own range is PRIV outside device mode. -/
def ControlRegisterReads : Prop :=
  ∀ (s : State) (d : Reg), s.writable [d] →
    let t := s.t
    let nat (v : Nat) : Word := BitVec.ofNat 64 v
    let out (c : CregNum) (v : Word) : Prop := exec (.mfc d c) s = .next (s.wrote d v [] 4)
    let traps (c : CregNum) (code : Nat) : Prop := exec (.mfc d c) s =
      .next (s.trapped code t.pc 0 (BitVec.ofNat 64 (encode (.mfc d c))) t.patched)
    out 0x000 t.ctl.status ∧ out 0x001 (t.ctl.clabel.setWidth 64) ∧ out 0x002 (t.ctl.live.setWidth 64) ∧
    exec (.mfc d 0x003) s = .next (s.put d t.ctl.seed (s.joined [] ||| t.ctl.seedLabel) 4) ∧
    out 0x004 (nat (16 * t.claim.lanes)) ∧ out 0x005 (nat t.ctl.pendred) ∧
    out 0x008 (nat t.ident.lthread) ∧ out 0x009 t.ident.gangid ∧ out 0x00A (nat (s.gangSize t.ident.gang)) ∧
    out 0x00B (nat (t.ident.trellis + 128 * t.ident.pan)) ∧ out 0x00C (nat (t.core + 65536 * t.slot)) ∧
    (∀ k, k < 4 → out (BitVec.ofNat 12 (0x010 + k)) (t.ctl.nest.getD k 0)) ∧
    (∀ k, k < 8 → out (BitVec.ofNat 12 (0x018 + k)) (nat (t.ctl.vclock.getD (2 * k) 0 + 2 ^ 32 * t.ctl.vclock.getD (2 * k + 1) 0))) ∧
    (∀ k, k < 8 →
      (∀ g, t.isTask = true → s.gang? t.ident.gang = some g → out (BitVec.ofNat 12 (0x020 + k)) (nat (g.perf.getD k 0))) ∧
      (∀ p, t.isTask = false → s.part? t.ident.part = some p → out (BitVec.ofNat 12 (0x020 + k)) (nat (p.perf.getD k 0)))) ∧
    out 0x030 (nat t.ctl.hbint) ∧ out 0x031 (nat t.ctl.hbcnt) ∧
    (t.isTask = false →
      out 0x032 (nat t.ctl.slotTimer) ∧ out 0x040 t.trap.pc ∧ out 0x041 t.trap.code ∧ out 0x042 t.trap.addr ∧
      out 0x043 t.trap.info ∧ out 0x044 t.trap.vec ∧ out 0x048 t.trap.saveptr ∧ out 0x060 t.ctl.wmsel ∧
      let n := t.ctl.wmsel.toNat / 2 ^ 12 % 8
      (s.ownsPan t.ident.part n = true → out 0x061 (s.mapEntry t.ident.part n (t.ctl.wmsel.toNat % 2 ^ 12)).word) ∧
      (s.ownsPan t.ident.part n = false → s.traps → exec (.mfc d 0x061) s = .next (s.trapped 0x07 t.pc 0 0 t.patched))) ∧
    (s.traps → ∀ c : CregNum,
      (0xF00 ≤ c.toNat → traps c (if t.isDevice = true then 0x01 else 0x02)) ∧
      (c.toNat < 0xF00 → ¬ listedNum c.toNat → traps c 0x01) ∧
      (hiddenNum c.toNat → t.isTask = true → traps c 0x02))

/-- `mtc` of a register of the thread (R78, R79, R131, R387, R389): the fields that are RW take the value, the source's label joins
CLABEL, and an access that the mode may not make takes PRIV: to a hidden register in task mode, to a read-only one in task and supervisor mode. An
unlisted number is ILLEGAL. -/
def ControlRegisterWrites : Prop :=
  ∀ (s : State) (a : Reg), s.readable [a] →
    let t := s.t
    let v := s.val a
    let joined : Thread := t.joinClabel (s.lbl a)
    let low (lo hi : Nat) : Word := BitVec.ofNat 64 (v.toNat % 2 ^ hi / 2 ^ lo * 2 ^ lo)
    let trap (c : CregNum) (r : TrapRegs) : Prop :=
      exec (.mtc a c) s = .next (s.went { joined with trap := r } (t.pc + 4))
    let ctl (c : CregNum) (r : Ctl) : Prop :=
      exec (.mtc a c) s = .next (s.went ({ t with ctl := r }.joinClabel (s.lbl a)) (t.pc + 4))
    (t.isTask = false →
      trap 0x040 { t.trap with pc := low 1 56 } ∧ trap 0x041 { t.trap with code := low 0 10 } ∧
      trap 0x042 { t.trap with addr := v } ∧ trap 0x043 { t.trap with info := v } ∧
      trap 0x044 { t.trap with vec := low 1 56 } ∧ trap 0x048 { t.trap with saveptr := low 9 56 } ∧
      ctl 0x032 { t.ctl with slotTimer := v.toNat % 2 ^ 32 } ∧ ctl 0x060 { t.ctl with wmsel := low 0 15 } ∧
      ctl 0x030 { t.ctl with hbint := max (2 ^ 16) (min (2 ^ 30) (v.toNat % 2 ^ 31)) } ∧
      let nest (k n : Nat) : Prop := ctl (BitVec.ofNat 12 (0x010 + k)) { t.ctl with nest := t.ctl.nest.set k (BitVec.ofNat 64 n) }
      nest 0 (v.toNat % 2 ^ 56 + v.toNat / 2 ^ 63 * 2 ^ 63) ∧ nest 1 v.toNat ∧
      nest 2 (v.toNat % 2 ^ 62 + (t.ctl.nest.getD 2 0).toNat / 2 ^ 62 % 2 * 2 ^ 62) ∧ nest 3 (v.toNat % 2 ^ 60)) ∧
    (s.traps → ∀ c : CregNum,
      let traps (code : Nat) : Prop := exec (.mtc a c) s = .next (s.trapped code t.pc 0 (BitVec.ofNat 64 (encode (.mtc a c))) t.patched)
      (t.isTask = true → hiddenNum c.toNat ∨ (0x010 ≤ c.toNat ∧ c.toNat ≤ 0x013) ∨ c.toNat = 0x030 → traps 0x02) ∧
      (t.isDevice = false → fixedNum c.toNat → traps 0x02) ∧
      (0xF00 ≤ c.toNat → traps (if t.isDevice = true then 0x01 else 0x02)) ∧
      (c.toNat < 0xF00 → ¬ listedNum c.toNat → traps 0x01))

/-- `mtc` of STATUS, LIVE and SEED (R81, R162, R258, R389): RM, FLAGS and FPEN are written, FENCE_DEMOTED clears where a holds 1,
and MODE, INTRAP and the other bits stay; a reserved rounding mode is ILLEGAL; LIVE drops bit 0; SEED stores 1 for 0 and takes
the source's label with CLABEL. -/
def StatusLiveSeedWrites : Prop :=
  ∀ (s : State) (a : Reg), s.readable [a] →
    let t := s.t
    let v := s.val a
    (v.toNat / 4 % 8 ≤ 4 → ∃ st : Word,
      exec (.mtcStatus a) s = .next (s.went ({ t with ctl := { t.ctl with status := st } }.joinClabel (s.lbl a)) (t.pc + 4)) ∧
      ∀ i, i < 64 → st.getLsbD i =
        if 2 ≤ i ∧ i < 15 then v.getLsbD i
        else if i = 15 then t.ctl.status.getLsbD 15 && !v.getLsbD 15
        else t.ctl.status.getLsbD i) ∧
    (4 < v.toNat / 4 % 8 → s.traps → exec (.mtcStatus a) s =
      .next (s.trapped 0x01 t.pc 0 (BitVec.ofNat 64 (encode (.mtcStatus a))) (s.lbl a ||| t.patched))) ∧
    exec (.mtcLive a) s = .next (s.went
      ({ t with ctl := { t.ctl with live := v.setWidth 32 &&& 0xFFFFFFFE } }.joinClabel (s.lbl a)) (t.pc + 4)) ∧
    exec (.mtcSeed a) s = .next (s.went { t with ctl := { t.ctl with
      seed := if v = 0 then 1 else v, seedLabel := s.lbl a ||| t.ctl.clabel } } (t.pc + 4))

/-- The partition registers (R49, R80, R387, R389, R392): an `mtc` of DEFTRAPVEC, of HTBASE with 0 or an 8 KiB-aligned global address, or of FQBASE with a
value that R392 allows sends the value to the launch unit and an `mfc` sends its request, the thread leaving rotation for the reply; any other
value of HTBASE and FQBASE takes PROT. The request that arrives there writes the register, or reads it, and its answer comes back a leg and the
launch unit's cycle later, 60 cycles after the issue (R80; that nothing waits on the route or there is the model's, log 19); in task mode
all of them take PRIV (R78). -/
def PartitionRegisterWrites : Prop :=
  ∀ (s : State) (a d : Reg), s.readable [a] → s.writable [d] →
    let t := s.t
    let v := s.val a
    (t.isTask = true → s.traps →
      let priv (i : Instr) : Prop := exec i s = .next (s.trapped 0x02 t.pc 0 (BitVec.ofNat 64 (encode i)) t.patched)
      priv (.mtcDeftrapvec a) ∧ priv (.mtcHtbase a) ∧ priv (.mtcFqbase a) ∧ priv (.mtcWmdata a)) ∧
    (t.isTask = false →
    let now := s.time.cycle
    let asks (s' : State) (k : FillKind) (after : Nat) : Prop := s'.t.pc = t.pc + 4 ∧ s'.t.run = .reply ∧ s'.mem = s.mem ∧
      s'.parts = s.parts ∧ ∃ f ∈ s'.fab.fills, f.uid = t.ident.uid ∧ f.resume = true ∧ f.kind = k ∧
        (now + after, Instr.resultFill f.id) ∈ s'.time.calendar
    let sends (i : Instr) (n : Nat) (w : Word) : Prop :=
      ∃ s', exec i s = .next s' ∧ s'.t.ctl.clabel = t.ctl.clabel ||| s.lbl a ∧ s'.t.regs = t.regs ∧ asks s' (.partWrite n w) 30
    let set (x : Nat) (f : PartRegs → PartRegs) (p q : Part) : Prop := q.num = p.num ∧ q.regs = if p.num = x then f p.regs else p.regs
    sends (.mtcDeftrapvec a) 0x050 (BitVec.ofNat 64 (v.toNat % 2 ^ 56 / 2 * 2)) ∧
    (v = 0 ∨ (v.toNat % 8192 = 0 ∧ v.toNat < 2 ^ 55) → sends (.mtcHtbase a) 0x051 v) ∧
    (¬ (v = 0 ∨ (v.toNat % 8192 = 0 ∧ v.toNat < 2 ^ 55)) → s.traps →
      exec (.mtcHtbase a) s = .next (s.trapped 0x07 t.pc 0 0 (s.lbl a ||| t.patched))) ∧
    (s.fqbaseOk v = true → sends (.mtcFqbase a) 0x053 v) ∧
    (s.fqbaseOk v = false → s.traps →
      exec (.mtcFqbase a) s = .next (s.trapped 0x07 t.pc 0 0 (s.lbl a ||| t.patched))) ∧
    (∀ c : CregNum, c ∈ ([0x050, 0x051, 0x052, 0x053] : List CregNum) →
      ∃ s', exec (.mfc d c) s = .next s' ∧ asks s' (.partRead c.toNat) 29) ∧
    (∀ (f : Fill) (x : Thread) (w : Word), s.fill? f.id = some f → s.thread f.uid = some x → x.run = .reply →
      let performed (s' : State) (legs : Nat) : Prop := exec (.resultFill f.id) s = .next s' ∧ s'.t = s.t ∧ s'.others = s.others ∧
        (now + legs, Instr.resultFill f.id) ∈ s'.time.calendar
      (∀ n, f.kind = .partRead n → ∃ s' g, performed s' 31 ∧ s'.mem = s.mem ∧ s'.fill? f.id = some g ∧
        g = { f with vals := [s.partRegValue x.ident.part n], kind := .plain }) ∧
      (f.kind = .partWrite 0x050 w → ∃ s', performed s' 30 ∧ s'.mem = s.mem ∧
        List.Forall₂ (set x.ident.part fun r => { r with deftrapvec := w }) s.parts s'.parts) ∧
      (f.kind = .partWrite 0x051 w → ∃ s', performed s' 30 ∧ s'.mem = s.mem ∧
        List.Forall₂ (set x.ident.part fun r => { r with htbase := w }) s.parts s'.parts) ∧
      (f.kind = .partWrite 0x053 w → ∃ s', performed s' 30 ∧
        List.Forall₂ (fun p q => set x.ident.part (fun r => { r with fqbase := w }) p q ∧ (p.num = x.ident.part → q.faults.wr = 0))
          s.parts s'.parts)))

/-- A write of WMDATA (R205, R206): where the Pan belongs to the partition, the map accepts the entry, its page is not moving and no
work stands under it, the selected entry becomes the value written and every other entry stays; else PROT takes the instruction.
Replacing another partition's label clears the old frame (R371). -/
def WindowMapWrite : Prop :=
  ∀ (s : State) (a : Reg), s.readable [a] → s.t.isTask = false →
    let p := s.t.ident.part
    let n := s.t.ctl.wmsel.toNat / 2 ^ 12 % 8
    let page := s.t.ctl.wmsel.toNat % 2 ^ 12
    let old := s.mapEntry p n page
    let new := mapEntryOf p n page (s.val a)
    (s.ownsPan p n = true → s.mapRefused old new = false → old.moving = false → s.underPage p n page = false →
      ∃ s', exec (.mtcWmdata a) s = .next s' ∧ s'.t = { s.t.joinClabel (s.lbl a) with
          pc := s.t.pc + 4, prog := .fresh, proxy := false } ∧
        s'.mapEntry p n page = new ∧
        (∀ q m k, ¬ (q = p ∧ m = n ∧ k = page) → s'.mapEntry q m k = s.mapEntry q m k) ∧
        s'.mem.hbm = s.mem.hbm ∧
        (new.label = partLabel p → labelLe old.label (partLabel p) = false → ∀ k, k < 8192 →
          cellGet s'.mem.pan (panKey n (old.cellar * 2 ^ 18 + old.frame * 8192) + k) = 0) ∧
        (labelLe old.label (partLabel p) = true → s'.mem.pan = s.mem.pan)) ∧
    (s.ownsPan p n = false ∨ s.mapRefused old new = true → s.traps →
      exec (.mtcWmdata a) s = .next (s.trapped 0x07 s.t.pc 0 0 (s.lbl a ||| s.t.patched)))

/-- `lbl` (R382): the label of a general, vector or mask register or of SEED, as a value whose own label holds it and CLABEL; the
vector forms need the origin trellis and a claim. -/
def LabelReads : Prop :=
  ∀ (s : State) (d a : Reg) (v : VReg) (m : MReg) (ta tb : Bool), s.writable [d] →
    let out (i : Instr) (l : Label) : Prop := exec i s = .next (s.put d (l.setWidth 64) (s.joined [] ||| l) 4)
    out (.lblS d ta tb) s.t.ctl.seedLabel ∧
    (s.readable [a] → out (.lbl d a ta tb) (s.lbl a)) ∧
    (s.t.atOrigin = true → s.t.claim.lanes ≠ 0 → s.vempty v = false →
      out (.lblV d v ta tb) (s.t.claim.regs.getD v.val ⟨[], true, 0⟩).label ∧
      out (.lblM d m ta tb) (s.t.claim.masks.getD m.val ⟨[], 0⟩).label)

/-! ## The thread's own state -/

/-- `rseed` (R170), `live` (R258), `beat` and `ifence` (R144), and `quit` (R143). `ifence` completes once the thread's writes have been
performed; that it also waits until its causal past has been applied at every hub is the model's choice (log 100). -/
def ThreadStateInstructions : Prop :=
  ∀ (s : State) (d a : Reg) (ta tb : Bool), s.writable [d] → s.readable [a] →
    let t := s.t
    let v := s.val a
    let x := v ^^^ (BitVec.ofNat 64 t.ident.lthread * 0x9E3779B97F4A7C15)
    exec (.rseed d a ta tb) s = .next ({ s with t := { t with ctl := { t.ctl with
      seed := if x = 0 then 1 else x, seedLabel := s.lbl a ||| t.ctl.clabel } } }.put d t.ctl.seed
        (s.joined [a] ||| t.ctl.seedLabel) 4) ∧
    exec (.live d a ta tb) s = .next (s.went
      (({ t.write d (t.ctl.live.setWidth 64) (s.joined [a]) with ctl := { t.ctl with live := v.setWidth 32 &&& 0xFFFFFFFE } }).joinClabel
        (s.lbl a)) (t.pc + 4)) ∧
    exec (.beat ta tb) s = .next (s.went { t with ctl := { t.ctl with hbcnt := 0 } } (t.pc + 4)) ∧
    (s.drained = true → (∀ k < 4, s.causalOk (8 + k) t.ctl.vclock (8 + k) = true) → ∃ s', exec (.ifence ta tb) s = .next s' ∧ s'.t = (s.went t (t.pc + 4)).t ∧ s'.mem = s.mem ∧
      s'.fetch.ilines = s.fetch.ilines.filter (fun x => !(x.core = t.core && x.part = t.ident.part)) ∧
      ∀ b ∈ s'.fetch.blocks, b.trellis ≠ fetchPlace t.core) ∧
    exec (.quit ta tb) s = .next { s with t := { t with run := .quitting, prog := .fresh }
                                          time := { s.time with turn := .issue } }

/-- `eret` (R391): in supervisor mode a return to task or supervisor mode, in device mode one to device mode: the PC is TRAPPC, MODE is
PMODE and INTRAP is 0, and nothing else of STATUS changes. In task mode it takes PRIV, and so does a return to a mode that may
not be restored. -/
def ReturnFromTrap : Prop :=
  ∀ (s : State),
    let t := s.t
    let pmode := t.trap.code.toNat / 2 ^ 6 % 4
    let allowed := (t.mode = 1 ∧ pmode ≤ 1) ∨ (t.mode = 2 ∧ pmode = 2)
    (allowed → ∃ st : Word,
      exec .eret s = .next (s.went { t with ctl := { t.ctl with status := st } } t.trap.pc) ∧
      st.toNat % 4 = pmode ∧ ∀ i, 2 ≤ i → i < 64 → st.getLsbD i = (t.ctl.status.getLsbD i && (i != 17))) ∧
    (t.mode = 0 ∨ (t.mode = 1 ∧ 2 ≤ pmode) ∨ (t.mode = 2 ∧ pmode ≠ 2) → s.traps →
      exec .eret s = .next (s.trapped 0x02 t.pc 0 (BitVec.ofNat 64 (encode .eret)) t.patched))

/-- The fences (R335, R336, R346): a thread whose earlier work has been performed passes `fence.pan` at once and counts 96 or 256
cycles for `.tenant` and `.system`; `fence.global` counts 512 (the model's choice within its bound, log entry 20) and asks for its number, with which it completes; these two are held while an
export of the thread is unacknowledged (R345). A fence whose count
has ended passes, and one that the partition's cap demotes sets FENCE_DEMOTED, and takes FENCEDEM where the policy asks for it. -/
def FenceResults : Prop :=
  ∀ (s : State) (ta tb : Bool) (till : Nat),
    let t := s.t
    let c := s.time.cycle
    let passed : State := s.went t (t.pc + 4)
    let demoted : State := s.went (t.setStatus 15 1 1) (t.pc + 4)
    let cap := s.fenceCap.1
    let quiet := t.prog = .fresh ∧ s.drained = true
    let counted := t.prog = .counting till ∧ till ≤ c
    (quiet → exec (.fencePan ta tb) s = .next passed ∧
      exec (.fenceTenant ta tb) s = .next (s.hold (.counting (c + 96))) ∧
      (cap = true ∨ s.ackedAt t.ident.uid ≤ c →
        exec (.fenceSystem ta tb) s = .next (s.hold (.counting (c + if cap then 96 else 256))) ∧
        exec (.fenceGlobal ta tb) s = .next (if cap then s.hold (.counting (c + 96)) else
          (s.hold (.asked (c + 512))).schedule (c + 512) (.globalFenceOrdering t.ident.uid))) ∧
      (cap = false → c < s.ackedAt t.ident.uid →
        exec (.fenceSystem ta tb) s = .next (s.hold (.stage 1 0 0)) ∧ exec (.fenceGlobal ta tb) s = .next (s.hold (.stage 1 0 0)))) ∧
    (counted → exec (.fencePan ta tb) s = .next passed ∧ exec (.fenceTenant ta tb) s = .next passed ∧
      (cap = false → exec (.fenceSystem ta tb) s = .next passed) ∧
      (cap = true → s.fenceCap.2 = false →
        exec (.fenceSystem ta tb) s = .next demoted ∧ exec (.fenceGlobal ta tb) s = .next demoted) ∧
      (cap = true → s.fenceCap.2 = true → s.traps →
        exec (.fenceSystem ta tb) s =
          .next (State.trapped { s with t := t.setStatus 15 1 1 } 0x16 (t.pc + 4) 0 2 0) ∧
        exec (.fenceGlobal ta tb) s =
          .next (State.trapped { s with t := t.setStatus 15 1 1 } 0x16 (t.pc + 4) 0 3 0))) ∧
    (∀ v l, t.prog = .answered v l → cap = false → exec (.fenceGlobal ta tb) s = .next passed)

/-- `tlbinv` (R259) in a mode that may run it, with the thread's own work performed: the engines' caches in its scope, and from
`.partition` on those of the hubs, lose every entry of the partition in the range; `.package` is held while work translated
under discarded entries is left (what counts as such is the model's choice, log entry 23). In task mode it takes PRIV. -/
def TranslationInvalidate : Prop :=
  ∀ (s : State) (a b : Reg) (ta tb : Bool), s.readable [a, b] →
    let t := s.t
    let p := t.ident.part
    let r := tlbRange (s.val a) (s.val b)
    let mine := t.ident.pan * 128 + t.ident.trellis
    let gone (keep : Nat → Bool) (hubs : Bool) (s' : State) : Prop :=
      s'.t = (s.went t (t.pc + 4)).t ∧ s'.mem = s.mem ∧
      s'.trans.micro = s.trans.micro.filter (fun x => keep (x.1 % 1024) || !x.2.covers p r) ∧
      s'.trans.hubs = if hubs then s.trans.hubs.filter (fun x => !x.2.covers p r) else s.trans.hubs
    let span := s.discardSpan p (fun k => s.ownsPan p (k / 128)) r
    let left : Discard := ⟨span.1, span.2, s.time.next, s.time.cycle⟩
    (t.isTask = false → s.drained = true → t.prog = .fresh →
      (∃ s', exec (.tlbinvTrellis a b ta tb) s = .next s' ∧ gone (fun k => k != mine) false s') ∧
      (∃ s', exec (.tlbinvPan a b ta tb) s = .next s' ∧ gone (fun k => k / 128 != t.ident.pan) false s') ∧
      (∃ s', exec (.tlbinvPartition a b ta tb) s = .next s' ∧ gone (fun k => !s.ownsPan p (k / 128)) true s') ∧
      (s.underEntries p left = false → engineWork p s.time.next s = false →
        ∃ s', exec (.tlbinvPackage a b ta tb) s = .next s' ∧ gone (fun k => !s.ownsPan p (k / 128)) true s') ∧
      (s.underEntries p left = true ∨ engineWork p s.time.next s = true →
        ∃ s', exec (.tlbinvPackage a b ta tb) s = .next s' ∧ s'.t = { t with prog := .discards (some left) } ∧ s'.mem = s.mem ∧
          s'.trans.hubs = s.trans.hubs.filter (fun x => !x.2.covers p r))) ∧
    (t.isTask = false → ∀ x, t.prog = .discards (some x) → s.underEntries p x = false → engineWork p x.id s = false →
      exec (.tlbinvPackage a b ta tb) s = .next (s.went t (t.pc + 4))) ∧
    (t.isTask = true → s.traps → ∀ i, i ∈ [Instr.tlbinvTrellis a b ta tb, .tlbinvPan a b ta tb, .tlbinvPartition a b ta tb,
        .tlbinvPackage a b ta tb] →
      exec i s = .next (s.trapped 0x02 t.pc 0 (BitVec.ofNat 64 (encode i)) (s.lbl a ||| s.lbl b ||| t.patched)))

/-! ## Memory accesses of a thread to its own Pan's store -/

/-- An address names the byte at pa of Pan n's store, in a page of the map of the thread's partition that allows the access and has
label l, and the thread runs in a compute core of that Pan: the access is made from where the thread is (R204, R207, R244). -/
def ownPan (s : State) (va : Word) (n pa : Nat) (l : Label) (r w : Bool) : Prop :=
  isCompute s.t.core = true ∧ corePan s.t.core = n ∧
    ∃ off, s.vaClass va = .pan n off ∧ s.window s.t.ident.part n off r w = .ok (pa, l)

/-- A request with an operation stands at the bank of a place, which will look at it (R208, R213). -/
def queued (s s' : State) (op : MemOp) (n pa : Nat) (label : Label) : Prop :=
  ∃ a ∈ s'.fab.accs, a.uid = s.t.ident.uid ∧ a.part = s.t.ident.part ∧ a.op = op ∧ a.loc = .pan n pa ∧ a.label = label ∧
    a.state = .queued ∧ a.posted = false ∧ s.time.cycle < a.due ∧
    (a.due, Instr.bankArbitration n (bankOf pa)) ∈ s'.time.calendar

/-- A result for registers is outstanding, with a label and whether it returns the thread to rotation (R73). -/
def awaited (s s' : State) (regs : List Reg) (label : Label) (resume advance : Bool) : Prop :=
  ∃ f ∈ s'.fab.fills, f.uid = s.t.ident.uid ∧ f.regs = regs ∧ f.label = label ∧ f.resume = resume ∧ f.advance = advance ∧
    f.discard = false

/-- Nothing of memory and of the thread has changed but the PC, the registers named, which are empty, and what the turn counts. -/
def pendingOnly (s s' : State) (regs : List Reg) (pc : Word) (run : Run) : Prop :=
  s'.mem = s.mem ∧ s'.others = s.others ∧ s'.t.pc = pc ∧ s'.t.run = run ∧ s'.t.trap = s.t.trap ∧ s'.t.claim = s.t.claim ∧
    s'.t.ctl.status = s.t.ctl.status ∧ s'.t.ctl.clabel = s.t.ctl.clabel ∧ s'.t.ctl.live = s.t.ctl.live ∧
    s'.t.ctl.seed = s.t.ctl.seed ∧
    ∀ r : Reg, s'.t.reg r = if r ∈ regs ∧ r ≠ 0 then { s.t.reg r with full := false, poison := false } else s.t.reg r

/-- A load from the own Pan (R213, R218, R226): the thread goes on, d is empty until its result arrives, and the read stands at its
bank; `tagr` likewise. -/
def LocalLoads : Prop :=
  ∀ (s : State) (d a : Reg) (imm : BitVec 9) (sz : MemSize) (sx : Bool) (ord : MemOrder) (ta : Bool) (n pa : Nat) (l : Label),
    s.writable [d] → s.readable [a] → s.acquireHeld = false → s.t.run = .ready → (ord = .sequential → s.drained = true) →
    let ea := s.val a + BitVec.ofInt 64 (imm.toInt * (sizeBytes sz : Int))
    let eb := s.val a + BitVec.ofInt 64 (imm.toInt * 8)
    let label := s.joined [a] ||| l
    (ea.toNat % sizeBytes sz = 0 → ownPan s ea n pa l true false →
      ∃ s', exec (.ld d a imm sz sx ord ta) s = .next s' ∧ pendingOnly s s' [d] (s.t.pc + 4) .ready ∧
        awaited s s' [d] label false false ∧ queued s s' (.load (sizeBytes sz) sx) n pa (s.joined [a])) ∧
    (eb.toNat % 8 = 0 → ownPan s eb n pa l true false →
      ∃ s', exec (.tagr d a imm ord ta) s = .next s' ∧ pendingOnly s s' [d] (s.t.pc + 4) .ready ∧
        awaited s s' [d] label false false ∧ queued s s' .tagr n pa (s.joined [a]))

/-- A store to the own Pan (R218, R226, R373): where the label may be written, the value stands at its bank and the thread goes
on; `stff` and `tagw` likewise. Where it may not, LABEL. -/
def LocalStores : Prop :=
  ∀ (s : State) (d a : Reg) (imm : BitVec 9) (sz : MemSize) (ord : MemOrder) (ta : Bool) (n pa : Nat) (l : Label),
    s.readable [a, d] → s.acquireHeld = false → s.t.run = .ready → (ord = .release ∨ ord = .sequential → s.drained = true) →
    let ea := s.val a + BitVec.ofInt 64 (imm.toInt * (sizeBytes sz : Int))
    let eb := s.val a + BitVec.ofInt 64 (imm.toInt * 8)
    let label := s.joined [a, d]
    let out (i : Instr) (op : MemOp) : Prop :=
      (labelLe label l = true → ∃ s', exec i s = .next s' ∧ pendingOnly s s' [] (s.t.pc + 4) .ready ∧
        queued s s' op n pa label)
    (ea.toNat % sizeBytes sz = 0 → ownPan s ea n pa l false true →
      out (.st d a imm sz ord ta) (.store (sizeBytes sz) (s.val d)) ∧
      (labelLe label l = false → s.traps →
        exec (.st d a imm sz ord ta) s = .next (s.trapped 0x08 s.t.pc ea 0 (s.lbl a ||| s.lbl d ||| s.t.patched)))) ∧
    (eb.toNat % 8 = 0 → ownPan s eb n pa l false true →
      out (.stff d a imm ord ta) (.stff (s.val d)) ∧
      out (.tagw d a imm ord ta) (.tagw (s.val d % 2 == 1)))

/-- The forms that wait for a tag (R226, R223): the thread leaves rotation at its instruction until the request is performed; d is
empty until its result arrives, which returns no thread to rotation. The request keeps the joined label of what a late failure of it
would record (R370). -/
def LocalTagWaits : Prop :=
  ∀ (s : State) (d a : Reg) (imm : BitVec 9) (ord : MemOrder) (ta : Bool) (n pa : Nat) (l : Label),
    s.readable [a, d] → s.acquireHeld = false → (ord = .release ∨ ord = .sequential → s.drained = true) →
    let eb := s.val a + BitVec.ofInt 64 (imm.toInt * 8)
    eb.toNat % 8 = 0 →
    (ownPan s eb n pa l true true → labelLe (s.joined [a]) l = true →
      ∃ s', exec (.ldfe d a imm ord ta) s = .next s' ∧ pendingOnly s s' [d] s.t.pc .reply ∧
        awaited s s' [d] (s.joined [a] ||| l) false false ∧ queued s s' .ldfe n pa (s.joined [a])) ∧
    (ownPan s eb n pa l true false →
      ∃ s', exec (.ldff d a imm ord ta) s = .next s' ∧ pendingOnly s s' [d] s.t.pc .reply ∧
        awaited s s' [d] (s.joined [a] ||| l) false false ∧ queued s s' .ldff n pa (s.joined [a])) ∧
    (ownPan s eb n pa l false true → labelLe (s.joined [a, d]) l = true →
      ∃ s', exec (.stfe d a imm ord ta) s = .next s' ∧ pendingOnly s s' [] s.t.pc .reply ∧
        awaited s s' [] (s.joined [a, d] ||| l) false false ∧ queued s s' (.stfe (s.val d)) n pa (s.joined [a, d]))

/-- Bursts to the own Pan (R215, R221): each of the n + 1 words stands at its own bank, and `ldm` empties its run of registers. A
burst that is misaligned or leaves its 8 KiB page takes ALIGN. -/
def LocalBursts : Prop :=
  ∀ (s : State) (a b : Reg) (off : BitVec 8) (n : BitVec 3) (q ta tb : Bool) (m pa : Nat) (l : Label),
    b.val + n.toNat ≤ 31 → s.acquireHeld = false → s.t.run = .ready → s.readable [a] →
    let ea := s.val a + BitVec.ofInt 64 (off.toInt * 8)
    let cnt := n.toNat + 1
    let regs := (List.finRange 32).filter fun r => b.val ≤ r.val && r.val < b.val + cnt
    let inPage := ea.toNat % 8 = 0 ∧ ea.toNat % 8192 + 8 * cnt ≤ 8192
    (s.writable regs → inPage → ownPan s ea m pa l true false →
      ∃ s', exec (.ldm a b off n q ta tb) s = .next s' ∧ pendingOnly s s' regs (s.t.pc + 4) .ready ∧
        awaited s s' regs (s.joined [a] ||| l) false false ∧
        ∀ k, k < cnt → queued s s' (.loadWord k) m (pa + 8 * k) 0) ∧
    (s.readable regs → inPage → ownPan s ea m pa l false true → (q = true → s.drained = true) →
      labelLe (s.joined (a :: regs)) l = true →
      ∃ s', exec (.stm a b off n q ta tb) s = .next s' ∧ pendingOnly s s' [] (s.t.pc + 4) .ready ∧
        ∀ k, k < cnt → ∀ r, regs[k]? = some r →
          queued s s' (.store 8 (s.val r)) m (pa + 8 * k) (s.joined (a :: regs))) ∧
    (s.writable regs → s.traps → ¬ inPage →
      exec (.ldm a b off n q ta tb) s = .next (s.trapped 0x05 s.t.pc ea 0 (s.lbl a ||| s.t.patched)))

/-- The returning atomics on the own Pan (R312, R313, R318, R319): where the label may be written, the request stands at its bank,
its registers are empty, and the thread leaves rotation, past the instruction, until the old value arrives. -/
def LocalAtomics : Prop :=
  ∀ (s : State) (d a b : Reg) (dbl r o ta tb : Bool) (n pa : Nat) (l : Label),
    s.acquireHeld = false → (r = true → s.drained = true) → ownPan s (s.val a) n pa l true true →
    let out (i : Instr) (op : MemOp) (regs reads : List Reg) : Prop :=
      labelLe (s.joined reads) l = true →
      ∃ s', exec i s = .next s' ∧ pendingOnly s s' regs (s.t.pc + 4) .reply ∧
        awaited s s' regs (s.joined reads ||| l) true false ∧ queued s s' op n pa (s.joined reads)
    let amo (i : Instr) (fn : AmoFn) : Prop := out i (.amo fn dbl (s.val b)) [d] [a, b]
    (s.writable [d] → s.readable [a, b] → (s.val a).toNat % (if dbl then 8 else 4) = 0 →
      amo (.amoAdd d a b dbl r o ta tb) .add ∧ amo (.amoAnd d a b dbl r o ta tb) .and ∧
      amo (.amoOr d a b dbl r o ta tb) .or ∧ amo (.amoXor d a b dbl r o ta tb) .xor ∧
      amo (.amoMin d a b dbl r o ta tb) .min ∧ amo (.amoMax d a b dbl r o ta tb) .max ∧
      amo (.amoMinu d a b dbl r o ta tb) .minu ∧ amo (.amoMaxu d a b dbl r o ta tb) .maxu ∧
      amo (.amoSwap d a b dbl r o ta tb) .swap) ∧
    (s.writable [d] → s.readable [a, b] → (s.val a).toNat % 4 = 0 →
      out (.amoFadd32 d a b r o ta tb) (.amo .fadd32 false (s.val b)) [d] [a, b]) ∧
    (s.readable [a, b, d] → (s.val a).toNat % 8 = 0 →
      out (.cas d a b r o ta tb) (.cas (s.val d) (s.val b)) [d] [a, b, d]) ∧
    (s.readable [a, b, nextReg b, d, nextReg d] → (s.val a).toNat % 16 = 0 →
      out (.cas2 d a b r o ta tb) (.cas2 (s.val d) (s.val (nextReg d)) (s.val b) (s.val (nextReg b))) [d, nextReg d]
        [a, b, nextReg b, d, nextReg d])

/-- The reductions on the own Pan (R314, R315): the request stands at its bank, PENDRED rises by 1 and the thread goes on; with 16 of
them outstanding the turn is idle. -/
def LocalReductions : Prop :=
  ∀ (s : State) (a b : Reg) (dbl r o ta tb : Bool) (n pa : Nat) (l : Label),
    s.readable [a, b] → s.acquireHeld = false → s.t.run = .ready → (r = true → s.drained = true) →
    ownPan s (s.val a) n pa l true true → labelLe (s.joined [a, b]) l = true →
    let out (i : Instr) (fn : AmoFn) (dbl : Bool) : Prop :=
      (s.t.ctl.pendred ≠ 16 → ∃ s', exec i s = .next s' ∧ pendingOnly s s' [] (s.t.pc + 4) .ready ∧
        s'.t.ctl.pendred = s.t.ctl.pendred + 1 ∧ queued s s' (.red fn dbl (s.val b)) n pa (s.joined [a, b])) ∧
      (s.t.ctl.pendred = 16 → exec i s = .next s.idle)
    ((s.val a).toNat % (if dbl then 8 else 4) = 0 →
      out (.redAdd a b dbl r o ta tb) .add dbl ∧ out (.redAnd a b dbl r o ta tb) .and dbl ∧
      out (.redOr a b dbl r o ta tb) .or dbl ∧ out (.redXor a b dbl r o ta tb) .xor dbl ∧
      out (.redMin a b dbl r o ta tb) .min dbl ∧ out (.redMax a b dbl r o ta tb) .max dbl ∧
      out (.redMinu a b dbl r o ta tb) .minu dbl ∧ out (.redMaxu a b dbl r o ta tb) .maxu dbl ∧
      out (.redSwap a b dbl r o ta tb) .swap dbl) ∧
    ((s.val a).toNat % 4 = 0 → out (.redFadd32 a b r o ta tb) .fadd32 false)

/-! ## What the banks do -/

/-- A request is the only one at its bank, has reached it and is not held back: the bank's next grant is to it (R208 to R211). -/
def alone (s : State) (a : Acc) (n pa : Nat) : Prop :=
  a.loc = .pan n pa ∧ (s.bank n (bankOf pa)).queue = [a.id] ∧ s.acc? a.id = some a ∧ a.due ≤ s.time.cycle ∧
    (s.bank n (bankOf pa)).busyTo ≤ s.time.cycle ∧ (s.bank n (bankOf pa)).pair = none ∧
    (s.bank n (bankOf pa)).pairAt ≠ s.time.cycle ∧ a.input < 40 ∧ a.trellis < 128 ∧ a.source < 16 ∧
    s.blocked a = false ∧ a.posted = false ∧ s.mem.bad a.loc = false

/-- n bytes of a Pan's store from a key up hold a number, and every other byte of both stores is as it was. -/
def onlyWrote (s s' : State) (key n v : Nat) : Prop :=
  s'.mem.hbm = s.mem.hbm ∧ s'.mem.lines = s.mem.lines ∧
    ∀ k, cellGet s'.mem.pan k = if key ≤ k ∧ k < key + n then BitVec.ofNat 8 (v / 2 ^ (8 * (k - key))) else cellGet s.mem.pan k

/-- A result of one part has its value and will arrive at a cycle. -/
def answered (s' : State) (fid : Nat) (v : Word) (at_ : Nat) : Prop :=
  (at_, Instr.resultFill fid) ∈ s'.time.calendar ∧ ∀ f ∈ s'.fab.fills, f.id = fid → f.vals.head? = some v ∧ f.parts = 0

/-- A load that its bank grants reads the bytes as they stand (in the cycle of the grant: the model's choice, log entry 15), extended as it asks, in 3, 5 or 8
cycles by its class (R213, R218), and changes no memory; a correctable error of its word is corrected (R217). -/
def BankLoads : Prop :=
  ∀ (s : State) (a : Acc) (n pa k : Nat) (sx : Bool) (f : Fill),
    alone s a n pa → a.op = .load k sx → 1 ≤ k ∧ k ≤ 8 → a.fill = some f.id → s.fill? f.id = some f →
    f.parts = 1 → f.vals.length = 1 →
    let raw := cellsRead s.mem.pan (panKey n pa) k
    ∃ s', exec (.bankArbitration n (bankOf pa)) s = .next s' ∧
      s'.mem = { s.mem with softWords := setDrop s.mem.softWords (panKey n (pa / 8 * 8)) } ∧
      answered s' f.id (if sx then BitVec.ofInt 64 (Int.bmod raw (2 ^ (8 * k))) else BitVec.ofNat 64 raw)
        (s.time.cycle + (match a.klass with | 0 => 3 | 1 => 5 | 2 => 8 | _ => 12) + f.legs)

/-- A store that its bank grants writes exactly its bytes, little-endian (R6, R218). -/
def BankStores : Prop :=
  ∀ (s : State) (a : Acc) (n pa k : Nat) (v : Word), s.canonical →
    alone s a n pa → a.op = .store k v → k ≤ 8 →
    ∃ s', exec (.bankArbitration n (bankOf pa)) s = .next s' ∧ onlyWrote s s' (panKey n pa) k v.toNat ∧ s'.canonical

/-- What an atomic writes for an old value and an operand of so many bits (R313). -/
def newValue (fn : AmoFn) (w old x : Nat) : Nat :=
  let sg (v : Nat) : Int := Int.bmod v (2 ^ w)
  match fn with
  | .add => (old + x) % 2 ^ w
  | .and => old &&& x
  | .or => old ||| x
  | .xor => old ^^^ x
  | .min => if sg x < sg old then x else old
  | .max => if sg old < sg x then x else old
  | .minu => min old x
  | .maxu => max old x
  | .swap => x
  | .fadd32 => (fAdd fmtFp32 .rne 0 (decodeF fmtFp32 old) (decodeF fmtFp32 x)).1

/-- A returning atomic that its bank grants writes the new value and answers the old one in one step, extended by its width (R312,
R313), one cycle later than a load would (R213). -/
def BankAtomics : Prop :=
  ∀ (s : State) (a : Acc) (n pa : Nat) (fn : AmoFn) (dbl : Bool) (x : Word) (f : Fill), s.canonical → s.fab.waiters = [] →
    alone s a n pa → a.op = .amo fn dbl x → (fn = .fadd32 → dbl = false) → a.fill = some f.id → s.fill? f.id = some f →
    f.parts = 1 → f.vals.length = 1 → a.klass ≤ 2 →
    let bytes := if dbl then 8 else 4
    let old := cellsRead s.mem.pan (panKey n pa) bytes
    ∃ s', exec (.bankArbitration n (bankOf pa)) s = .next s' ∧
      onlyWrote s s' (panKey n pa) bytes (newValue fn (8 * bytes) old (x.toNat % 2 ^ (8 * bytes))) ∧
      answered s' f.id (if dbl || fn == .fadd32 then BitVec.ofNat 64 old else BitVec.ofInt 64 (Int.bmod old (2 ^ 32)))
        (s.time.cycle + (match a.klass with | 0 => 4 | 1 => 6 | _ => 9) + f.legs)

/-- The steps of a task deque at the bank of its TOP word (R135, R136, R139): a push writes the entry of BOTTOM, which rises, unless 63 entries
stand there; a pop takes the entry below BOTTOM, which falls, and a steal that of TOP, which rises, unless the deque is empty. The answer, one
cycle later than a load's, is 1 where it has done so, with the arm and the frame that were taken, and else 0. That the entry moves in the same
step is the model's choice (log entry 18). -/
def BankDeques : Prop :=
  ∀ (s : State) (a : Acc) (n pa : Nat) (f : Fill), s.canonical → s.fab.waiters = [] → s.mem.badWords = [] →
    alone s a n pa → pa % 1024 = 0 → pa + 1024 ≤ 2 ^ 25 → a.fill = some f.id → s.fill? f.id = some f → f.parts = 1 → f.vals.length = 1 →
    a.klass ≤ 2 →
    let at_ (m : Memory) (k bytes : Nat) : Nat := m.readAt (.pan n (pa + k)) bytes
    let top := at_ s.mem 0 2
    let bottom := at_ s.mem 2 2
    let below := (bottom + 2 ^ 16 - 1) % 2 ^ 16
    let count := (bottom + 2 ^ 16 - top) % 2 ^ 16
    let entry (k : Nat) : Nat := 16 * (1 + k % 63)
    let c := s.time.cycle + (match a.klass with | 0 => 4 | 1 => 6 | _ => 9) + f.legs
    let gives (P : State → Prop) : Prop := ∃ s', exec (.bankArbitration n (bankOf pa)) s = .next s' ∧ P s'
    let refuses : Prop := gives fun s' => answered s' f.id 0 c ∧ s'.mem.pan = s.mem.pan
    let took (s' : State) (k : Nat) : Prop := answered s' f.id 1 c ∧ ∃ g ∈ s'.fab.fills, g.id = f.id ∧
      g.vals = [1, BitVec.ofNat 64 (at_ s.mem (entry k) 8), BitVec.ofNat 64 (at_ s.mem (entry k + 8) 8)]
    (∀ arm frame, a.op = .push arm frame →
      (count < 63 → gives fun s' => answered s' f.id 1 c ∧ at_ s'.mem 0 2 = top ∧ at_ s'.mem 2 2 = (bottom + 1) % 2 ^ 16 ∧
        at_ s'.mem (entry bottom) 8 = arm.toNat ∧ at_ s'.mem (entry bottom + 8) 8 = frame.toNat) ∧
      (63 ≤ count → refuses)) ∧
    (a.op = .pop → (1 ≤ count → count ≤ 63 → gives fun s' => took s' below ∧ at_ s'.mem 0 2 = top ∧ at_ s'.mem 2 2 = below) ∧
      (count = 0 ∨ 63 < count → refuses)) ∧
    (a.op = .steal → (1 ≤ count → count ≤ 63 → gives fun s' => took s' top ∧ at_ s'.mem 0 2 = (top + 1) % 2 ^ 16 ∧
        at_ s'.mem 2 2 = bottom) ∧
      (count = 0 ∨ 63 < count → refuses))

/-- A result that arrives fills its registers with its values, full, not poisoned and with its label, takes its thread past the
instruction where it must, and returns it to rotation where it had left (R73, R106). A thread that waits in `cwait` awaits the results of a census,
of which another statement tells. -/
def ResultArrival : Prop :=
  ∀ (s : State) (f : Fill) (d : Reg) (v : Word),
    s.fill? f.id = some f → f.uid = s.t.ident.uid → f.kind = .plain → f.regs = [d] → f.vals = [v] → f.err = none →
    f.discard = false → s.t.run = .ready ∨ s.t.run = .reply → s.t.late = none → (∀ x n l, s.t.prog ≠ .results x n l) →
    ∃ s', exec (.resultFill f.id) s = .next s' ∧ s'.mem = s.mem ∧ s'.others = s.others ∧
      (d ≠ 0 → s'.t.reg d = ⟨v, true, false, f.label⟩) ∧ (∀ r, r ≠ d → s'.t.reg r = s.t.reg r) ∧
      s'.t.pc = (if f.advance then s.t.pc + 4 else s.t.pc) ∧
      s'.t.ctl.clabel = s.t.ctl.clabel ||| f.join ∧
      s'.t.run = (if f.resume then .ready else s.t.run) ∧
      ∀ g ∈ s'.fab.fills, g.id ≠ f.id

/-! ## Alignment -/

/-- A memory access whose address is no multiple of its size takes ALIGN with the address in TRAPADDR, in every mode and at every
address, and changes nothing else (R220, R385). -/
def MisalignedAccess : Prop :=
  ∀ (s : State) (d a b : Reg) (imm : BitVec 9) (sz : MemSize) (sx dbl r o ta tb : Bool) (ord : MemOrder),
    s.traps → s.acquireHeld = false →
    let ea := s.val a + BitVec.ofInt 64 (imm.toInt * (sizeBytes sz : Int))
    let eb := s.val a + BitVec.ofInt 64 (imm.toInt * 8)
    let ec := s.val a
    let out (i : Instr) (va : Word) (reads : List Reg) : Prop :=
      exec i s = .next (s.trapped 0x05 s.t.pc va 0 (labelsOf s.t reads ||| s.t.patched))
    (s.writable [d] → s.readable [a] → ea.toNat % sizeBytes sz ≠ 0 → out (.ld d a imm sz sx ord ta) ea [a]) ∧
    (s.readable [a, d] → ea.toNat % sizeBytes sz ≠ 0 → out (.st d a imm sz ord ta) ea [a, d]) ∧
    (s.readable [a, d] → eb.toNat % 8 ≠ 0 →
      out (.ldfe d a imm ord ta) eb [a] ∧ out (.ldff d a imm ord ta) eb [a] ∧ out (.tagr d a imm ord ta) eb [a] ∧
      out (.stfe d a imm ord ta) eb [a, d] ∧ out (.stff d a imm ord ta) eb [a, d] ∧ out (.tagw d a imm ord ta) eb [a, d] ∧
      out (.setvat d a imm ta) eb [a, d]) ∧
    (s.writable [d] → s.readable [a, b] → ec.toNat % (if dbl then 8 else 4) ≠ 0 →
      out (.amoAdd d a b dbl r o ta tb) ec [a, b] ∧ out (.amoSwap d a b dbl r o ta tb) ec [a, b] ∧
      out (.redAdd a b dbl r o ta tb) ec [a, b]) ∧
    (s.readable [a, b, d] → ec.toNat % 8 ≠ 0 → out (.cas d a b r o ta tb) ec [a, b, d] ∧
      out (.park d a b ta tb) ec [a, b, d]) ∧
    (s.readable [a, b, nextReg b, d, nextReg d] → ec.toNat % 16 ≠ 0 →
      out (.cas2 d a b r o ta tb) ec [a, b, nextReg b, d, nextReg d])

/-! ## Nests, tags, waiting and barriers -/

/-- `nest` (R133) on a descriptor of the gang's Pan: the four words are asked for, d is empty and the thread goes on; one that is not a
multiple of 32 takes ALIGN. And `next` (R134): without a nest d is 0; within a chunk the indices go to g28 to g31, d is 1, and CUR rises by 1. -/
def NestResults : Prop :=
  ∀ (s : State) (d a : Reg) (ta tb : Bool) (n pa : Nat) (l : Label),
    let t := s.t
    let cur := (t.nestWord 2).toNat % 2 ^ 48
    let e (k : Nat) := (t.nestWord 1).toNat / 2 ^ (16 * k) % 2 ^ 16
    let label := s.joined [] ||| s.nestPageLabel
    (s.writable [d] → s.readable [a] → s.acquireHeld = false → t.run = .ready → t.claiming = false → n = t.ident.pan →
      (s.val a).toNat % 32 = 0 → ownPan s (s.val a) n pa l true true →
      ∃ s', exec (.nest d a ta tb) s = .next s' ∧ pendingOnly s s' [d] (t.pc + 4) .ready ∧
        awaited s s' [d] (s.joined [a] ||| l) false false ∧ ∀ k, k < 4 → queued s s' (.loadWord k) n (pa + 8 * k) 0) ∧
    (s.writable [d] → s.readable [a] → s.acquireHeld = false → t.claiming = false → (s.val a).toNat % 32 ≠ 0 → s.traps →
      exec (.nest d a ta tb) s = .next (s.trapped 0x05 t.pc (s.val a) 0 (s.lbl a ||| t.patched))) ∧
    (s.writable [d, 28, 29, 30, 31] → t.nestValid = false → exec (.next d ta tb) s = .next (s.wrote d 0 [] 4)) ∧
    (s.writable [d, 28, 29, 30, 31] → d.val < 28 → t.nestValid = true → cur < (t.nestWord 3).toNat % 2 ^ 48 →
      t.ctl.nest.length = 4 →
      ∃ s', exec (.next d ta tb) s = .next s' ∧ s'.t.pc = t.pc + 4 ∧ s'.mem = s.mem ∧ s'.fab = s.fab ∧
        (d ≠ 0 → s'.t.reg d = ⟨1, true, false, label⟩) ∧
        s'.t.reg 28 = ⟨BitVec.ofNat 64 (cur % e 0), true, false, label⟩ ∧
        s'.t.reg 29 = ⟨BitVec.ofNat 64 (cur / e 0 % e 1), true, false, label⟩ ∧
        s'.t.reg 30 = ⟨BitVec.ofNat 64 (cur / (e 0 * e 1) % e 2), true, false, label⟩ ∧
        s'.t.reg 31 = ⟨BitVec.ofNat 64 (cur / (e 0 * e 1 * e 2)), true, false, label⟩ ∧
        (∀ r : Reg, r ≠ d → r.val < 28 → s'.t.reg r = t.reg r) ∧
        (s'.t.nestWord 2).toNat % 2 ^ 48 = cur + 1)

/-- A claim of a nest (R134): a `next` with no iteration in hand asks the bank of the descriptor, with N, the divisor and MIN, and leaves rotation with d and
g28 to g31 empty and CLAIMING set; the bank advances NEXT by the chunk and answers where it stood and how much was taken, which is nothing at the end; the answer clears
CLAIMING and either gives the chunk's first iteration, or clears VALID and gives 0 everywhere. And what opens a nest (R131, R133): the answer to `nest` puts the
descriptor's fields into NESTSTATE and the number of iterations into d, or clears VALID and gives −1 where the descriptor is not one. -/
def NestClaims : Prop :=
  ∀ (s : State) (d : Reg) (ta tb : Bool) (n pa : Nat) (l : Label),
    let t := s.t
    let lo (w : Word) (a b : Nat) : Nat := w.toNat % 2 ^ b / 2 ^ a
    let e (w : Word) (k : Nat) : Nat := lo w (16 * k) (16 * k + 16)
    let dests : List Reg := [d, 28, 29, 30, 31]
    (s.writable dests → s.acquireHeld = false → t.run = .ready → t.nestValid = true → lo (t.nestWord 3) 0 48 ≤ lo (t.nestWord 2) 0 48 →
      t.ctl.nest.length = 4 → ownPan s (BitVec.ofNat 64 (lo (t.nestWord 0) 0 56)) n pa l true true → labelLe (s.joined []) l = true →
      let w := t.nestWord 1
      let asks := MemOp.claimNest (e w 0 * e w 1 * e w 2 * e w 3) ((lo (t.nestWord 3) 56 60 + 1) * (lo (t.nestWord 2) 48 62 + 1))
        (max 1 (lo (t.nestWord 3) 48 56))
      ∃ s', exec (.next d ta tb) s = .next s' ∧ s'.mem = s.mem ∧ s'.t.pc = t.pc + 4 ∧ s'.t.run = .reply ∧ s'.t.ctl.clabel = t.ctl.clabel ∧
        s'.t.nestWord 2 = t.nestWord 2 ||| 2 ^ 62 ∧ s'.t.nestWord 0 = t.nestWord 0 ∧ s'.t.nestWord 1 = w ∧ s'.t.nestWord 3 = t.nestWord 3 ∧
        (∀ r : Reg, s'.t.reg r = if r ∈ dests ∧ r ≠ 0 then { t.reg r with full := false, poison := false } else t.reg r) ∧
        queued s s' asks n pa (s.joined []) ∧
        ∃ f ∈ s'.fab.fills, f.uid = t.ident.uid ∧ f.kind = .claim ∧ f.regs = dests ∧ f.parts = 2 ∧ f.resume = true ∧ f.label = s.joined [] ||| l) ∧
    (∀ (a : Acc) (f : Fill) (total div least : Nat), s.canonical → s.fab.waiters = [] → alone s a n pa → a.op = .claimNest total div least →
      1 ≤ div → 1 ≤ least → total < 2 ^ 48 → a.fill = some f.id → s.fill? f.id = some f → f.parts = 2 → f.vals.length = 2 → a.klass ≤ 2 →
      let next := cellsRead s.mem.pan (panKey n pa) 8
      let left := total - next
      let c := min left (max least ((left + div - 1) / div))
      ∃ s', exec (.bankArbitration n (bankOf pa)) s = .next s' ∧ onlyWrote s s' (panKey n pa) 8 (next + c) ∧
        ∀ g ∈ s'.fab.fills, g.id = f.id → g.vals = [BitVec.ofNat 64 next, BitVec.ofNat 64 c] ∧ g.parts = 0) ∧
    (∀ f : Fill, s.fill? f.id = some f → f.uid = t.ident.uid → f.err = none → f.discard = false → f.resume = true → f.advance = false →
      t.run = .reply → t.late = none → (∀ x m y, t.prog ≠ .results x m y) → t.ctl.nest.length = 4 → d ≠ 0 →
      let label := f.label ||| t.ctl.clabel ||| f.join
      let full (v : Nat) : GReg := ⟨BitVec.ofNat 64 v, true, false, label⟩
      let w := t.nestWord 1
      let i := (f.vals.getD 0 0).toNat
      let c := (f.vals.getD 1 0).toNat
      (f.kind = .claim → f.regs = dests → d.val < 28 → i + c < 2 ^ 48 →
        ∃ s', exec (.resultFill f.id) s = .next s' ∧ s'.mem = s.mem ∧ s'.t.run = .ready ∧ s'.t.pc = t.pc ∧
          s'.t.ctl.clabel = t.ctl.clabel ||| f.join ∧ lo (s'.t.nestWord 2) 62 63 = 0 ∧ (∀ r, r ∉ dests → s'.t.reg r = t.reg r) ∧
          (c = 0 → lo (s'.t.nestWord 0) 63 64 = 0 ∧ ∀ r, r ∈ dests → s'.t.reg r = full 0) ∧
          (c ≠ 0 → s'.t.nestWord 0 = t.nestWord 0 ∧ lo (s'.t.nestWord 2) 0 48 = i + 1 ∧ lo (s'.t.nestWord 3) 0 48 = i + c ∧
            s'.t.reg d = full 1 ∧ s'.t.reg 28 = full (i % e w 0) ∧ s'.t.reg 29 = full (i / e w 0 % e w 1) ∧
            s'.t.reg 30 = full (i / (e w 0 * e w 1) % e w 2) ∧ s'.t.reg 31 = full (i / (e w 0 * e w 1 * e w 2)))) ∧
      (∀ desc joins, f.kind = .nest desc joins → f.regs = [d] → desc.toNat < 2 ^ 56 →
        let x (k : Nat) : Word := f.vals.getD k 0
        let total := e (x 1) 0 * e (x 1) 1 * e (x 1) 2 * e (x 1) 3
        let good := lo (x 2) 14 16 = 0 ∧ lo (x 2) 28 64 = 0 ∧ x 3 = 0 ∧ total < 2 ^ 48
        ∃ s', exec (.resultFill f.id) s = .next s' ∧ s'.mem = s.mem ∧ s'.t.run = .ready ∧ s'.t.pc = t.pc ∧
          s'.t.ctl.clabel = t.ctl.clabel ||| f.join ∧ (∀ r, r ≠ d → s'.t.reg r = t.reg r) ∧
          (good → s'.t.reg d = full total ∧ s'.t.ctl.nest = [desc ||| 2 ^ 63, x 1, BitVec.ofNat 64 (lo (x 2) 0 14 * 2 ^ 48),
            BitVec.ofNat 64 (lo (x 2) 16 24 * 2 ^ 48 + lo (x 2) 24 28 * 2 ^ 56)]) ∧
          (¬ good → lo (s'.t.nestWord 0) 63 64 = 0 ∧ s'.t.reg d = ⟨-1, true, false, label⟩)))

/-- `setvat` (R229, R230): where the whole vat belongs to pages that may be written, the value is a legal format, the labels allow it and
the thread's own accesses have been performed, the format register of the vat becomes d, and every other one stays, once no vector access to the vat,
active range over its pages or moving page of it is left; until then the turn is idle. An illegal format takes FORMAT. -/
def VatFormatWrite : Prop :=
  ∀ (s : State) (d a : Reg) (imm : BitVec 9) (ta : Bool) (n pa : Nat) (l : Label), s.readable [a, d] → s.acquireHeld = false →
    let ea := s.val a + BitVec.ofInt 64 (imm.toInt * 8)
    let es := s.vatEntries s.t.ident.part n (vatOf pa)
    let whole := ∀ k, k < 8 → ∃ e ∈ es, e.frame % 8 = k ∧ e.write = true
    let busy := s.vatBusy s.t.ident.part n (vatOf pa)
    ea.toNat % 8 = 0 → ownPan s ea n pa l false true → whole →
    (vatValueOk (s.val d) = true → (∀ e ∈ es, labelLe (s.joined [a, d]) e.label = true) → s.drained = true →
      (busy = true → exec (.setvat d a imm ta) s = .next s.idle) ∧
      (busy = false → ∃ s', exec (.setvat d a imm ta) s = .next s' ∧ s'.t = (s.went s.t (s.t.pc + 4)).t ∧ s'.vat n (vatOf pa) = s.val d ∧
        (∀ m v, m * 512 + v ≠ n * 512 + vatOf pa → s'.vat m v = s.vat m v) ∧ s'.mem.pan = s.mem.pan ∧ s'.mem.hbm = s.mem.hbm)) ∧
    (vatValueOk (s.val d) = false → s.traps →
      exec (.setvat d a imm ta) s = .next (s.trapped 0x09 s.t.pc ea 0 (s.lbl a ||| s.lbl d ||| s.t.patched)))

/-- `park` on a word of the own Pan (R324): the comparison and the watch stand at the word's bank, and the thread leaves rotation at its
instruction until its status comes. -/
def ParkWaits : Prop :=
  ∀ (s : State) (d a b : Reg) (ta tb : Bool) (n pa : Nat) (l : Label),
    s.readable [a, b, d] → s.acquireHeld = false → (s.val a).toNat % 8 = 0 → ownPan s (s.val a) n pa l true false →
    ∃ s', exec (.park d a b ta tb) s = .next s' ∧ pendingOnly s s' [d] s.t.pc .reply ∧
      awaited s s' [d] (s.joined [a, b, d] ||| l) true true ∧
      queued s s' (.park (s.val b) ((s.val d).toNat % 2 ^ 32)) n pa (s.joined [a, b, d])

/-- `sleep` (R327, R328): with the wake bit of the placement slot set the bit is consumed, d is 0 with the label of what was read, and then
the wake label joins CLABEL; else
the thread leaves rotation, with its timeout counting unless it is 0. -/
def SleepResults : Prop :=
  ∀ (s : State) (d a : Reg) (ta tb : Bool), s.writable [d] → s.readable [a] →
    let t := s.t
    let x := s.slot t.ident.core0 t.ident.slot0
    let timeout := (s.val a).toNat % 2 ^ 32
    (t.run = .ready → x.wake = true → x.core = t.ident.core0 → x.slot = t.ident.slot0 → x.state ≠ .free →
      ∃ s', exec (.sleep d a ta tb) s = .next s' ∧ s'.t.pc = t.pc + 4 ∧ s'.t.run = .ready ∧ s'.mem = s.mem ∧
        s'.t.ctl.clabel = t.ctl.clabel ||| x.wakeLabel ∧
        (d ≠ 0 → s'.t.reg d = ⟨0, true, false, s.joined [a]⟩) ∧
        (∀ r, r ≠ d → s'.t.reg r = t.reg r) ∧
        s'.slot t.ident.core0 t.ident.slot0 = { x with wake := false, wakeLabel := 0, wakeClock := [] }) ∧
    (x.wake = false →
      ∃ s', exec (.sleep d a ta tb) s = .next s' ∧ s'.t.pc = t.pc ∧ s'.t.run = .sleeping ∧ s'.t.regs = t.regs ∧ s'.mem = s.mem ∧
        s'.slots = s.slots ∧
        (timeout ≠ 0 → (s.time.cycle + timeout, Instr.sleepTimeout t.ident.uid s'.t.stamp) ∈ s'.time.calendar))

/-- `wake` (R329): it goes, with the label of what was read, to the slots it names of a core, 4 cycles away in the thread's own Pan (the model's choice, log entry 72) and as
a posted write elsewhere, where it waits for the thread's accesses on its own die (R343). The thread goes on. A core of a Pan that is not the partition's is PROT. -/
def WakeResults : Prop :=
  ∀ (s : State) (a b : Reg) (ta tb : Bool), s.readable [a, b] → s.acquireHeld = false →
    let core := (s.val a).toNat
    let slots := (s.val b).toNat % 2 ^ 16
    let goes (posted : Bool) (P : Acc → State → Prop) : Prop :=
      ∃ s', exec (.wake a b ta tb) s = .next s' ∧ s'.t.pc = s.t.pc + 4 ∧ s'.t.regs = s.t.regs ∧ s'.mem = s.mem ∧ s'.slots = s.slots ∧
        ∃ c ∈ s'.fab.accs, c.posted = posted ∧ c.op = .wakeSlots core slots (!s.t.isTask) ∧ c.label = s.joined [a, b] ∧ P c s'
    (s.drained = true → s.t.inPanOf core = true → s.ownsPan s.t.ident.part (corePan core) = true →
      goes false fun c s' => s'.t = (s.went s.t (s.t.pc + 4)).t ∧ (s.time.cycle + 4, Instr.postedWakeArrival c.id) ∈ s'.time.calendar) ∧
    (s.drained = true → isChannel core = true → isCompute s.t.core = true →
      goes true fun c s' => c.due = s.time.cycle ∧ ∃ n, (s.time.cycle + 29 * n, Instr.postedWriteArrival c.id) ∈ s'.time.calendar) ∧
    (8447 < core ∨ (isCompute core = true ∧ s.ownsPan s.t.ident.part (corePan core) = false) → s.traps →
      exec (.wake a b ta tb) s = .next (s.trapped 0x07 s.t.pc 0 0 (labelsOf s.t [a, b] ||| s.t.patched)))

/-- `bar` and `barw` in the gang's Pan (R330 to R332): the request goes to the barrier's unit with the result's fill, and the thread leaves
rotation: `bar` past its instruction, after its own work as a release; a barrier that the gang lacks is PROT. -/
def BarrierRequests : Prop :=
  ∀ (s : State) (d b : Reg) (n : Fin 4) (ta tb : Bool), s.writable [d] → s.readable [b] → s.acquireHeld = false →
    isCompute s.t.core = true → corePan s.t.core = s.t.ident.pan →
    let asked (s' : State) (wait : Bool) (token : Nat) : Prop :=
      ∃ r ∈ s'.fab.bars, r.uid = s.t.ident.uid ∧ r.pan = s.t.ident.pan ∧ r.gang = s.t.ident.gang ∧ r.n = n.val ∧ r.wait = wait ∧
        r.token = token ∧ r.due = s.time.cycle + 7 ∧
        (r.due, Instr.barrierRequest s.t.ident.pan r.due) ∈ s'.time.calendar ∧ ∃ f ∈ s'.fab.fills, f.id = r.fill ∧ f.regs = [d]
    (n.val < s.bars.length → s.drained = true →
      ∃ s', exec (.bar d n ta tb) s = .next s' ∧ pendingOnly s s' [d] (s.t.pc + 4) .reply ∧ asked s' false 0) ∧
    (n.val < s.bars.length →
      ∃ s', exec (.barw d b n ta tb) s = .next s' ∧ pendingOnly s s' [d] s.t.pc .reply ∧
        asked s' true ((s.val b).toNat % 2 ^ 16)) ∧
    (s.bars.length ≤ n.val → s.traps →
      exec (.bar d n ta tb) s = .next (s.trapped 0x07 s.t.pc 0 (BitVec.ofNat 64 n.val) s.t.patched) ∧
      exec (.barw d b n ta tb) s = .next (s.trapped 0x07 s.t.pc 0 (BitVec.ofNat 64 n.val) (s.lbl b ||| s.t.patched)))

/-- `hop` (R257): to the thread's own trellis, or where its partition has no slot, it completes at once; to another trellis of the Pan the thread
departs, once nothing holds it there, and its turn is a migration. -/
def HopResults : Prop :=
  ∀ (s : State) (a : Reg) (ta tb : Bool) (n pa : Nat) (l : Label),
    s.readable [a] → ownPan s (s.val a) n pa l true false →
    let dest := 1024 * n + 8 * (pa / 2 ^ 18)
    (dest / 8 = s.t.core / 8 ∨ s.slotMask s.t.ident.part dest = 0 → isCompute dest = true →
      exec (.hop a ta tb) s = .next (s.went (s.t.joinClabel (s.lbl a)) (s.t.pc + 4))) ∧
    (dest / 8 ≠ s.t.core / 8 → isCompute dest = true → s.slotMask s.t.ident.part dest ≠ 0 → s.departWaits [a] = false →
      ∃ s' x, exec (.hop a ta tb) s = .next s' ∧ s'.t.run = .transit ∧ s'.time.turn = .migrate ∧ s'.t.transit = some x ∧
        x.core = dest ∧ x.hop = true ∧ s'.t.pc = s.t.pc ∧ s'.t.ctl.clabel = s.t.ctl.clabel ||| s.lbl a ∧ s'.mem = s.mem ∧
        (s.time.cycle + x.legs, Instr.migrationArrival s.t.ident.uid) ∈ s'.time.calendar)

/-! ## Tasks and threads -/

/-- The frame and the own deque of a task instruction pass its checks: they lie in the gang's Pan, at these places (R135, R138). -/
def taskPlaces (s : State) (deque frame : Word) (f q : Loc × Label) (n pf pq : Nat) : Prop :=
  isCompute s.t.core = true ∧ corePan s.t.core = s.t.ident.pan ∧ deque.toNat % 1024 = 0 ∧ frame.toNat % 8 = 0 ∧
    (∃ o, s.vaClass deque = .pan s.t.ident.pan o) ∧ s.taskSpot frame = .ok f ∧
    s.taskSpot (dequeVa deque s.t.ident.lthread) = .ok q ∧ f.1 = .pan n pf ∧ q.1 = .pan n pq

/-- The thread at its turn awaits an answer of a kind, which has come (R138, R139). -/
def answers (s : State) (g : Fill) (kind : FillKind) : Prop :=
  s.fill? g.id = some g ∧ g.uid = s.t.ident.uid ∧ g.kind = kind ∧ g.regs = [] ∧ g.err = none ∧ g.resume = false ∧ g.advance = false ∧
    s.t.run = .reply

/-- A request of `fork` or `join` stands at its bank, and its answer is awaited out of rotation, with the PC at the instruction. -/
def taskAsks (s s' : State) (op : MemOp) (n pa : Nat) (kind : FillKind) : Prop :=
  s'.mem = s.mem ∧ s'.t.regs = s.t.regs ∧ s'.t.pc = s.t.pc ∧ s'.t.run = .reply ∧ queued s s' op n pa (s'.joined []) ∧
    ∃ h ∈ s'.fab.fills, h.uid = s.t.ident.uid ∧ h.kind = kind ∧ h.parts = 1

/-- `fork` (R136, R138): its frame's counter is asked to rise by 1; the answer to that sends the push of the arm and the frame to the deque; with
room there the thread goes on, and with 63 entries the arm is run inline, with the link in d. That the requests follow one another is the model's
choice (log entry 18). -/
def ForkResults : Prop :=
  ∀ (s : State) (d a b : Reg) (ta tb : Bool) (f q : Loc × Label) (n pf pq : Nat),
    taskPlaces s (s.val a) (s.val b) f q n pf pq →
    (s.readable [a, b, d] → s.acquireHeld = false → s.drained = true → (s.val d).toNat % 2 = 0 →
      labelLe (s.joined [d, b]) q.2 = true →
      ∃ s', exec (.fork d a b ta tb) s = .next s' ∧ s'.t.ctl.clabel = s.t.ctl.clabel ∧
        taskAsks s s' (.amo .add true 1) n pf (.fork false d a b)) ∧
    (∀ g, answers s g (.fork false d a b) →
      ∃ s', exec (.resultFill g.id) s = .next s' ∧ s'.t.ctl.clabel = s.t.ctl.clabel ||| g.join ∧
        taskAsks s s' (.push (s.val d) (s.val b)) n pq (.fork true d a b)) ∧
    (∀ g, answers s g (.fork true d a b) →
      ∃ s', exec (.resultFill g.id) s = .next s' ∧ s'.mem = s.mem ∧ s'.t.run = .ready ∧ s'.t.ctl.clabel = s.t.ctl.clabel ||| g.join ∧
        (g.vals.getD 0 0 ≠ 0 → s'.t.pc = s.t.pc + 4 ∧ s'.t.regs = s.t.regs) ∧
        (g.vals.getD 0 0 = 0 → s'.t.pc = s.val d ∧ (∀ r, r ≠ d → s'.t.reg r = s.t.reg r) ∧
          (d ≠ 0 → s'.t.reg d = ⟨s.t.pc + 4, true, false, s.t.ctl.clabel ||| g.join ||| s.t.patched⟩)))

/-- The traps of `fork` and `join` before any of their effects (R136, R138, R139): ALIGN for a deque that is no multiple of 1,024, a frame that is none of 8 and an
odd arm, in this order; PROT for one of the two outside the gang's Pan; the window's fault of the frame's word and then of the own deque; and for `fork`
LABEL where the arm and the frame may not be written to the own deque's page. -/
def TaskTraps : Prop :=
  ∀ (s : State) (d a b : Reg) (ta tb : Bool), s.traps → isCompute s.t.core = true → corePan s.t.core = s.t.ident.pan → s.acquireHeld = false →
    let outside (va : Word) : Bool := match s.vaClass va with
      | .pan m _ => m != s.t.ident.pan
      | .global | .device | .none => true
    let own (q : Word) : Word := q + BitVec.ofNat 64 (1024 * s.t.ident.lthread)
    let checks (i : Instr) (deque frame odd : Word) (reads : Label) : Prop :=
      let trap (code : Nat) (va info : Word) : Prop := exec i s = .next (s.trapped code s.t.pc va info (reads ||| s.t.patched))
      (deque.toNat % 1024 ≠ 0 → trap 0x05 deque 0) ∧
      (deque.toNat % 1024 = 0 → frame.toNat % 8 ≠ 0 → trap 0x05 frame 0) ∧
      (deque.toNat % 1024 = 0 → frame.toNat % 8 = 0 →
        (odd.toNat % 2 = 1 → trap 0x05 odd 0) ∧
        (odd.toNat % 2 = 0 →
          (outside deque = true → trap 0x07 deque 0) ∧
          (outside deque = false → outside frame = true → trap 0x07 frame 0) ∧
          (outside deque = false → outside frame = false →
            (∀ c info, s.taskSpot frame = .error (c, info) → trap (trapNumber c) frame info) ∧
            (∀ f c info, s.taskSpot frame = .ok f → s.taskSpot (own deque) = .error (c, info) → trap (trapNumber c) (own deque) info))))
    (s.readable [a, b, d] → s.writable [d] →
      checks (.fork d a b ta tb) (s.val a) (s.val b) (s.val d) (s.lbl a ||| s.lbl b ||| s.lbl d) ∧
      ∀ f q n pf pq, taskPlaces s (s.val a) (s.val b) f q n pf pq → (s.val d).toNat % 2 = 0 → labelLe (s.joined [d, b]) q.2 = false →
        exec (.fork d a b ta tb) s =
          .next (s.trapped 0x08 s.t.pc (own (s.val a)) 0 (s.lbl a ||| s.lbl b ||| s.lbl d ||| s.t.patched ||| q.2))) ∧
    (s.readable [a, b] → s.writable [d, nextReg d] →
      checks (.join d a b ta tb) (s.val b) (s.val a) 0 (s.lbl a ||| s.lbl b))

/-- `join` (R136, R139): its counter is read; at 0 it passes, else the newest entry of the own deque is asked for. A task that comes from there or
from another deque begins at its arm, with the address of the `join` as link in d and the frame in d + 1; without one up to eight deques of the gang are asked, which
the generator at the own deque chooses (log entry 101 says what it does with an uncorrectable error), and then the generator is kept and the thread parks on the counter
(log entry 18, as for `fork`). `jdone` (R140): the counter of its frame is asked to fall by 1, and the link is followed. -/
def JoinResults : Prop :=
  ∀ (s : State) (d a b : Reg) (ta tb : Bool) (f q : Loc × Label) (n pf pq : Nat) (l : Label),
    (taskPlaces s (s.val b) (s.val a) f q n pf pq →
      (s.readable [a, b] → s.acquireHeld = false → s.writable [d, nextReg d] →
        ∃ s', exec (.join d a b ta tb) s = .next s' ∧ s'.t.ctl.clabel = s.t.ctl.clabel ∧
          taskAsks s s' (.load 8 false) n pf (.join .count d a b)) ∧
      (∀ g, answers s g (.join .count d a b) →
        ∃ s', exec (.resultFill g.id) s = .next s' ∧ s'.mem = s.mem ∧ s'.t.regs = s.t.regs ∧
          s'.t.ctl.clabel = s.t.ctl.clabel ||| g.join ∧
          (g.vals.getD 0 0 = 0 → s'.t.pc = s.t.pc + 4 ∧ s'.t.run = .ready) ∧
          (g.vals.getD 0 0 ≠ 0 → taskAsks s s' .pop n pq (.join (.pop (g.vals.getD 0 0)) d a b))) ∧
      (∀ g c, answers s g (.join (.pop c) d a b) → g.vals.getD 0 0 = 0 → s.stealSpan = 1 →
        ∃ s', exec (.resultFill g.id) s = .next s' ∧ s'.t.pc = s.t.pc ∧ s'.t.run = .reply ∧ s'.t.regs = s.t.regs ∧
          queued s s' (.park c 1024) n pf (s'.joined [])) ∧
      (let round (x : Word) (h left : Nat) (c : Word) (g : Fill) : Prop :=
        let y := xorshift x
        let v := (s.t.ident.lthread + 1 + y.toNat % (h - 1)) % h
        1 < h → ∀ lv pv, s.taskSpot (dequeVa (s.val b) v) = .ok (.pan n pv, lv) →
          ∃ s', exec (.resultFill g.id) s = .next s' ∧ taskAsks s s' .steal n pv (.join (.steal c h left y) d a b)
       (∀ g c, answers s g (.join (.pop c) d a b) → g.vals.getD 0 0 = 0 → s.mem.bad (.pan n (pq + 8)) = false →
         let old := BitVec.ofNat 64 (s.mem.readAt (.pan n (pq + 8)) 8)
         let seed := s.t.ident.gangid ^^^ BitVec.ofNat 64 (s.t.ident.lthread * 0x9E3779B97F4A7C15)
         round (if old ≠ 0 then old else if seed ≠ 0 then seed else 1) s.stealSpan 7 c g) ∧
       (∀ g c h left x, answers s g (.join (.steal c h (left + 1) x) d a b) → g.vals.getD 0 0 = 0 → round x h left c g) ∧
       (∀ g c h x, answers s g (.join (.steal c h 0 x) d a b) → g.vals.getD 0 0 = 0 → s.canonical → s.fab.waiters = [] → pq % 1024 = 0 →
         ∃ s', exec (.resultFill g.id) s = .next s' ∧ s'.t.pc = s.t.pc ∧ s'.t.run = .reply ∧ s'.t.regs = s.t.regs ∧
           onlyWrote s s' (panKey n (pq + 8)) 8 x.toNat ∧ queued s s' (.park c 1024) n pf (s'.joined []))) ∧
      (∀ g step, answers s g (.join step d a b) → step ≠ .count → g.vals.getD 0 0 ≠ 0 → (g.vals.getD 1 0).toNat % 2 = 0 →
        d.val ≠ 0 → d.val ≠ 31 →
        let label := s.t.ctl.clabel ||| g.join ||| g.label ||| s.t.patched
        ∃ s', exec (.resultFill g.id) s = .next s' ∧ s'.t.pc = g.vals.getD 1 0 ∧ s'.t.run = .ready ∧
          s'.t.reg d = ⟨s.t.pc, true, false, label⟩ ∧ s'.t.reg (nextReg d) = ⟨g.vals.getD 2 0, true, false, label⟩ ∧
          (∀ r, r ≠ d → r ≠ nextReg d → s'.t.reg r = s.t.reg r) ∧ (∀ c, step = .pop c → s'.mem = s.mem))) ∧
    (s.readable [a, b] → s.acquireHeld = false → s.drained = true → s.t.run = .ready → s.t.ctl.pendred ≠ 16 →
      (s.val a).toNat % 8 = 0 → (s.val b).toNat % 2 = 0 → ownPan s (s.val a) n pf l true true → labelLe (s.joined [a, b]) l = true →
      ∃ s', exec (.jdone a b ta tb) s = .next s' ∧ s'.t.pc = s.val b ∧ s'.t.regs = s.t.regs ∧ s'.mem = s.mem ∧
        s'.t.ctl.clabel = s.t.ctl.clabel ||| s.lbl b ∧ s'.t.ctl.pendred = s.t.ctl.pendred + 1 ∧
        queued s s' (.red .add true (-1)) n pf (s.joined [a, b]))

/-- `spawn` (R63, R142): the first FREE slot in the order of R63 holds a new thread of the gang, in task mode at the address in a, with the
lowest LTHREAD that is not held, g1 from b with its label and CLABEL, g2 its number, and a CLABEL that takes in the labels of both; d tells its number (at once: the model's choice, log entry 29); without a slot, or with 16,384 threads, d is 1. An odd address
takes ALIGN, and one that is not global PROT. -/
def SpawnResults : Prop :=
  ∀ (s : State) (d a b : Reg) (ta tb : Bool) (g : Gang), s.writable [d] → s.readable [a, b] →
    s.gang? s.t.ident.gang = some g → g.gid = s.t.ident.gang →
    let pc := s.val a
    let found := s.freeAmong s.t.ident.part s.t.spawnCores
    let n := s.nextLthread g.gid
    (pc.toNat % 2 = 0 → pc.toNat < 2 ^ 55 → s.gangSize g.gid < 16384 → ∀ core slot, found = some (core, slot) →
      ∃ s' u, exec (.spawn d a b ta tb) s = .next s' ∧ s'.others = s.others ++ [u] ∧ s'.t.pc = s.t.pc + 4 ∧ s'.mem = s.mem ∧
        (d ≠ 0 → s'.t.reg d = ⟨BitVec.ofNat 64 (n * 2 ^ 16), true, false, s.joined []⟩) ∧
        (∀ r, r ≠ d → s'.t.reg r = s.t.reg r) ∧
        u.pc = pc ∧ u.core = core ∧ u.slot = slot ∧ u.run = .ready ∧ u.mode = 0 ∧ u.inTrap = false ∧ u.ident.lthread = n ∧
        u.ident.gang = g.gid ∧ u.ident.part = s.t.ident.part ∧ u.trap.vec = s.gangVec g ∧ u.ctl.live = g.livemask ∧
        (u.reg 1).val = s.val b ∧ (u.reg 2).val = BitVec.ofNat 64 n ∧ u.ctl.seed ≠ 0 ∧ (u.reg 1).label = s.joined [b] ∧
        u.ctl.clabel = s.joined [a, b] ∧
        (s'.slot core slot).state = .occupied) ∧
    (pc.toNat % 2 = 0 → pc.toNat < 2 ^ 55 → found = none ∨ 16384 ≤ s.gangSize g.gid →
      exec (.spawn d a b ta tb) s = .next (s.put d 1 (s.joined []) 4)) ∧
    (pc.toNat % 2 = 0 → 2 ^ 55 ≤ pc.toNat → s.traps →
      exec (.spawn d a b ta tb) s = .next (s.trapped 0x07 s.t.pc pc 0 (s.lbl a ||| s.lbl b ||| s.t.patched))) ∧
    (pc.toNat % 2 = 1 → s.traps →
      exec (.spawn d a b ta tb) s = .next (s.trapped 0x05 s.t.pc pc 0 (s.lbl a ||| s.lbl b ||| s.t.patched)))

/-! ## The vector lanes -/

/-- A thread in its origin trellis with a claim, whose vector registers named are full: the checks of R176, R175 and R184 pass. -/
def vready (s : State) (vs : List VReg) : Prop :=
  s.t.atOrigin = true ∧ s.t.claim.lanes ≠ 0 ∧ ∀ v ∈ vs, s.vempty v = false

/-- The elements of a destination: new where active, else 0 under the zero bit, else the old ones (R185). -/
def velems (s : State) (d : VReg) (k : MReg) (e z : Bool) (f : Nat → BitVec 32) : List (BitVec 32) :=
  (List.range (16 * s.t.claim.lanes)).map fun i =>
    if e = true ∧ s.t.mbit k i = false then (if z = true then 0 else s.t.velem d i) else f i

/-- The result label of a vector instruction (R186): general, vector and mask registers read, a merged destination and an enabling mask
among them. -/
def vjoined (s : State) (rs : List Reg) (vs : List VReg) (d : VReg) (k : MReg) (e z : Bool) : Label :=
  s.joined rs ||| s.t.vlabels (if e = true ∧ z = false then vs ++ [d] else vs) (if e = true then [k] else [])

/-- The state after a vector instruction of n bytes that writes a vector register, and nothing else. -/
def vwrote (s : State) (t : Thread) (d : VReg) (x : List (BitVec 32)) (l : Label) (n : Nat) : State :=
  s.went (t.setVreg d ⟨x, true, l⟩) (s.t.pc + BitVec.ofNat 64 n)

/-- The integer lane operations, selection and moves (R193, R196): every active element is computed from the elements of its own number,
and the destination is written at once, full, with its label. -/
def VectorIntegerResults : Prop :=
  ∀ (s : State) (d a b : VReg) (k : MReg) (e z : Bool), vready s [d, a, b] →
    let x (i : Nat) := s.t.velem a i
    let y (i : Nat) := s.t.velem b i
    let sh (i : Nat) := (y i).toNat % 32
    let out (i : Instr) (vs : List VReg) (f : Nat → BitVec 32) : Prop :=
      exec i s = .next (vwrote s s.t d (velems s d k e z f) (vjoined s [] vs d k e z) 4)
    out (.vadd d a b k e z) [a, b] (fun i => BitVec.ofNat 32 ((x i).toNat + (y i).toNat)) ∧
    out (.vsub d a b k e z) [a, b] (fun i => BitVec.ofInt 32 ((x i).toInt - (y i).toInt)) ∧
    out (.vmul d a b k e z) [a, b] (fun i => BitVec.ofNat 32 ((x i).toNat * (y i).toNat)) ∧
    out (.vmin d a b k e z) [a, b] (fun i => if (x i).toInt ≤ (y i).toInt then x i else y i) ∧
    out (.vmax d a b k e z) [a, b] (fun i => if (x i).toInt ≤ (y i).toInt then y i else x i) ∧
    out (.vand d a b k e z) [a, b] (fun i => x i &&& y i) ∧
    out (.vor d a b k e z) [a, b] (fun i => x i ||| y i) ∧
    out (.vxor d a b k e z) [a, b] (fun i => x i ^^^ y i) ∧
    out (.vshLl d a b k e z) [a, b] (fun i => BitVec.ofNat 32 ((x i).toNat * 2 ^ sh i)) ∧
    out (.vshRl d a b k e z) [a, b] (fun i => BitVec.ofNat 32 ((x i).toNat / 2 ^ sh i)) ∧
    out (.vshRa d a b k e z) [a, b] (fun i => BitVec.ofInt 32 ((x i).toInt / 2 ^ sh i)) ∧
    out (.vmv d a k e z) [a] x ∧
    exec (.vmac d a b k e z) s = .next (vwrote s s.t d
      (velems s d k e z fun i => BitVec.ofNat 32 ((s.t.velem d i).toNat + (x i).toNat * (y i).toNat))
      (s.joined [] ||| s.t.vlabels [a, b, d] (if e = true then [k] else [])) 4) ∧
    exec (.vsel d a b k) s = .next (vwrote s s.t d
      (velems s d k false z fun i => if s.t.mbit k i = true then x i else y i)
      (s.joined [] ||| s.t.vlabels [a, b] [k]) 4)

/-- The moves between general and vector registers (R196): the low word of a register to every active element, and element 0,
sign-extended, to a register. -/
def VectorMoves : Prop :=
  ∀ (s : State) (d : VReg) (a g : LowReg) (k : MReg) (e z : Bool),
    let r (x : LowReg) : Reg := x.castLE (by decide)
    (vready s [d] → s.readable [r a] →
      exec (.vmvBc d a k e z) s = .next (vwrote s s.t d (velems s d k e z fun _ => (s.val (r a)).setWidth 32)
        (vjoined s [r a] [] d k e z) 4)) ∧
    (vready s [d] → s.writable [r g] →
      exec (.vmvX g d) s = .next (s.put (r g) (BitVec.ofInt 64 (s.t.velem d 0).toInt) (s.joined [] ||| s.t.vlabels [d] []) 4))

/-- Comparisons into a mask register, and the mask operations (R193, R201): a mask register has one bit for each element and is never
empty. -/
def VectorMasks : Prop :=
  ∀ (s : State) (m p q : MReg) (a b : VReg) (k : MReg) (e z ta tb : Bool), vready s [a, b] →
    let x (i : Nat) := s.t.velem a i
    let y (i : Nat) := s.t.velem b i
    let bits (f : Nat → Bool) := (List.range (16 * s.t.claim.lanes)).map f
    let wrote (l : List Bool) (lab : Label) : Result := .next (s.went (s.t.setMreg m ⟨l, lab⟩) (s.t.pc + 4))
    let masks : List MReg := if e = true then (if z = true then [k] else [k, m]) else []
    let cmp (i : Instr) (f : Nat → Bool) : Prop :=
      exec i s = wrote (bits fun i => if e = true ∧ s.t.mbit k i = false then !z && s.t.mbit m i else f i)
        (s.joined [] ||| s.t.vlabels [a, b] masks)
    cmp (.vcmpEq m a b k e z) (fun i => decide (x i = y i)) ∧
    cmp (.vcmpLt m a b k e z) (fun i => decide ((x i).toInt < (y i).toInt)) ∧
    cmp (.vcmpLtu m a b k e z) (fun i => decide ((x i).toNat < (y i).toNat)) ∧
    exec (.mand m p q ta tb) s = wrote (bits fun i => s.t.mbit p i && s.t.mbit q i)
      (s.joined [] ||| s.t.vlabels [] [p, q]) ∧
    exec (.mor m p q ta tb) s = wrote (bits fun i => s.t.mbit p i || s.t.mbit q i)
      (s.joined [] ||| s.t.vlabels [] [p, q]) ∧
    exec (.mnot m p ta tb) s = wrote (bits fun i => !s.t.mbit p i) (s.joined [] ||| s.t.vlabels [] [p])

/-- A CI16 element from two parts, each saturated to 16 bits (R194). -/
def ci16 (re im : Int) : BitVec 32 := BitVec.ofInt 16 (clampS 16 im) ++ BitVec.ofInt 16 (clampS 16 re)

/-- The real part of a CI16 element. -/
def cre (x : BitVec 32) : Int := (x.extractLsb' 0 16).toInt
/-- The imaginary part of a CI16 element. -/
def cim (x : BitVec 32) : Int := (x.extractLsb' 16 16).toInt

/-- The real part of x × y + c in Q15, rounded half up and saturated (R194). -/
def q15re (x y c : BitVec 32) : Int := clampS 16 ((cre x * cre y - cim x * cim y + cre c * 2 ^ 15 + 2 ^ 14) / 2 ^ 15)
/-- The imaginary part of x × y + c in Q15, rounded half up and saturated (R194). -/
def q15im (x y c : BitVec 32) : Int := clampS 16 ((cre x * cim y + cim x * cre y + cim c * 2 ^ 15 + 2 ^ 14) / 2 ^ 15)

/-- The complex lane operations (R194) and the compact vector forms on integers (R202), which name one or two registers and no mask. -/
def VectorComplexAndCompact : Prop :=
  ∀ (s : State) (d a b : VReg) (k : MReg) (e z : Bool) (imm : BitVec 5), vready s [d, a, b] →
    let w (i : Nat) := s.t.velem d i
    let x (i : Nat) := s.t.velem a i
    let y (i : Nat) := s.t.velem b i
    let sh (i : Nat) := (x i).toNat % 32
    let mul (p q c : BitVec 32) := ci16 (q15re p q c) (q15im p q c)
    let cv (i : Instr) (vs : List VReg) (f : Nat → BitVec 32) : Prop :=
      exec i s = .next (vwrote s s.t d (velems s d 0 false false f) (s.joined [] ||| s.t.vlabels vs []) 2)
    exec (.vcmul d a b k e z) s =
      .next (vwrote s s.t d (velems s d k e z fun i => mul (x i) (y i) 0) (vjoined s [] [a, b] d k e z) 4) ∧
    exec (.vcmac d a b k e z) s =
      .next (vwrote s s.t d (velems s d k e z fun i => mul (x i) (y i) (w i))
        (s.joined [] ||| s.t.vlabels [a, b, d] (if e = true then [k] else [])) 4) ∧
    cv (.cvAdd d a) [d, a] (fun i => BitVec.ofNat 32 ((w i).toNat + (x i).toNat)) ∧
    cv (.cvSub d a) [d, a] (fun i => BitVec.ofInt 32 ((w i).toInt - (x i).toInt)) ∧
    cv (.cvAnd d a) [d, a] (fun i => w i &&& x i) ∧
    cv (.cvOr d a) [d, a] (fun i => w i ||| x i) ∧
    cv (.cvXor d a) [d, a] (fun i => w i ^^^ x i) ∧
    cv (.cvSll d a) [d, a] (fun i => BitVec.ofNat 32 ((w i).toNat * 2 ^ sh i)) ∧
    cv (.cvSrl d a) [d, a] (fun i => BitVec.ofNat 32 ((w i).toNat / 2 ^ sh i)) ∧
    cv (.cvSra d a) [d, a] (fun i => BitVec.ofInt 32 ((w i).toInt / 2 ^ sh i)) ∧
    cv (.cvMul d a) [d, a] (fun i => BitVec.ofNat 32 ((w i).toNat * (x i).toNat)) ∧
    cv (.cvMin d a) [d, a] (fun i => if (w i).toInt ≤ (x i).toInt then w i else x i) ∧
    cv (.cvMax d a) [d, a] (fun i => if (w i).toInt ≤ (x i).toInt then x i else w i) ∧
    cv (.cvMv d a) [a] x ∧
    cv (.cvAddi d imm) [d] (fun i => BitVec.ofInt 32 ((w i).toInt + imm.toInt)) ∧
    (b.val = (a.val + 1) % 16 → cv (.cvCmac d a) [a, b, d] (fun i => mul (x i) (y i) (w i)))

/-- What a floating lane operation of n bytes does, of whose element i `f` tells the result and the flags for a drawn word (R187, R197): the
active elements draw in ascending order under SR, the destination, FLAGS and SEED are written together; where a raised flag is
enabled, the slot's next turn takes FPEXC and nothing is written. -/
def vfpOutcome (s : State) (i : Instr) (d : VReg) (k : MReg) (e z rounds : Bool) (vs : List VReg) (n : Nat)
    (f : Word → Nat → BitVec 32 × FFlags) : Prop :=
  let act (j : Nat) : Bool := !(e && !s.t.mbit k j)
  let acts := (List.range (16 * s.t.claim.lanes)).filter act
  let drawing := rounds && s.t.rm == .sr
  let w (j : Nat) : Word := xorshiftN (if drawing then ((List.range j).filter act).length + 1 else 1) s.t.ctl.seed
  let g (j : Nat) := f (w j) j
  let fl : FFlags := acts.foldr (fun j m => (g j).2 ||| m) 0
  let draws := if drawing then acts.length else 0
  let l := s.joined [] ||| s.t.vlabels vs (if e then [k] else []) ||| (if drawing then s.t.ctl.seedLabel else 0)
  let raised : Thread := s.t.setStatus 5 5 (s.t.flags ||| fl).toNat
  (fl &&& s.t.fpen = 0 →
    exec i s = .next (vwrote s { raised with ctl := { raised.ctl with seed := xorshiftN draws s.t.ctl.seed } } d
      (velems s d k e z fun j => (g j).1) l n)) ∧
  (fl &&& s.t.fpen ≠ 0 → s.traps →
    (s.t.prog = .fresh → exec i s = .next (s.leave .ready (.stage 1 0 0))) ∧
    (s.t.prog = .stage 1 0 0 →
      exec i s = .next (State.trapped { s with t := raised } 0x0B s.t.pc 0 (fl.setWidth 64) (s.t.patched ||| l))))

/-- The floating lane operations and conversions (R197, R198), the comparisons of magnitude among them, and their compact
forms (R202). -/
def VectorFloat : Prop :=
  ∀ (s : State) (d a b : VReg) (k : MReg) (e z : Bool) (f : FpFmt) (c : Fin 12), vready s [d, a, b] →
    let g := floatOf f
    let val (h : FloatFmt) (v : VReg) (i : Nat) := decodeF h (s.t.velem v i).toNat
    let el (r : Nat × FFlags) : BitVec 32 × FFlags := (BitVec.ofNat 32 r.1, r.2)
    let m (vs : List VReg) : List VReg := if e = true ∧ z = false then vs ++ [d] else vs
    let rm := s.t.rm
    vfpOutcome s (.vfadd d a b k e z f) d k e z true (m [a, b]) 4 (fun w i => el (fAdd g rm w (val g a i) (val g b i))) ∧
    vfpOutcome s (.vfmul d a b k e z f) d k e z true (m [a, b]) 4 (fun w i => el (fMul g rm w (val g a i) (val g b i))) ∧
    vfpOutcome s (.vfma d a b k e z f) d k e z true [a, b, d] 4
      (fun w i => el (fFma g rm w (val g a i) (val g b i) (val g d i))) ∧
    vfpOutcome s (.vfmin d a b k e z f) d k e z false (m [a, b]) 4
      (fun _ i => el (fMinMax true g (s.t.velem a i).toNat (s.t.velem b i).toNat)) ∧
    vfpOutcome s (.vfmax d a b k e z f) d k e z false (m [a, b]) 4
      (fun _ i => el (fMinMax false g (s.t.velem a i).toNat (s.t.velem b i).toNat)) ∧
    vfpOutcome s (.vcvt d a c k e z) d k e z true (m [a]) 4 (fun w i => vcvtElem c rm w (s.t.velem a i)) ∧
    vfpOutcome s (.cvFadd d a) d 0 false false true [d, a] 2
      (fun w i => el (fAdd fmtFp32 rm w (val fmtFp32 d i) (val fmtFp32 a i))) ∧
    vfpOutcome s (.cvFmul d a) d 0 false false true [d, a] 2
      (fun w i => el (fMul fmtFp32 rm w (val fmtFp32 d i) (val fmtFp32 a i)))

/-- A vector register is empty and its elements, label and all, will arrive 31 cycles from now; the thread has gone on, or is held out
of rotation (R184, R187). -/
def vpending (s : State) (i : Instr) (t : Thread) (d : VReg) (x : List (BitVec 32)) (l : Label) (hold : Bool) : Prop :=
  ∃ s' f, exec i s = .next s' ∧ f ∈ s'.fab.fills ∧ f.uid = s.t.ident.uid ∧ (∃ z es, f.kind = .vector d z es) ∧ f.velems = x ∧
    f.label = l ∧ f.join = 0 ∧ f.err = none ∧ f.discard = false ∧ f.resume = hold ∧ f.advance = false ∧
    (s.time.cycle + 31, Instr.resultFill f.id) ∈ s'.time.calendar ∧ s'.mem = s.mem ∧
    s'.t = { t.setVreg d { t.vreg d with full := false } with
      pc := s.t.pc + 4, prog := .fresh, proxy := false, run := if hold then .reply else t.run }

/-- The whole-register operations on integers (R195, R196, R200): reductions over the active elements, the permutation by indices modulo
VL, and the butterflies. An inactive element adds nothing to a reduction, whose result stands in element 0 with 0 elsewhere. -/
def VectorWholeResults : Prop :=
  ∀ (s : State) (d a b : VReg) (k : MReg) (e z scl : Bool), vready s [d, a, b] →
    let n := 16 * s.t.claim.lanes
    let x (i : Nat) := s.t.velem a i
    let y (i : Nat) := s.t.velem b i
    let act := (List.range n).filter fun i => !(e && !s.t.mbit k i)
    let first (v : Int) : List (BitVec 32) := (List.range n).map fun i => if i = 0 then BitVec.ofInt 32 v else 0
    let lr := s.joined [] ||| s.t.vlabels [a] (if e = true then [k] else [])
    let mul (p q : BitVec 32) : Int × Int := (q15re p q 0, q15im p q 0)
    let scale (r v : Int) : Int := if scl = true then (v + r / 2) / r else v
    let two (i : Nat) : BitVec 32 :=
      let p := x (i / 2 * 2)
      let u := mul (x (i / 2 * 2 + 1)) (y (i / 2))
      let sg : Int := if i % 2 = 0 then 1 else -1
      ci16 (scale 2 (cre p + sg * u.1)) (scale 2 (cim p + sg * u.2))
    vpending s (.vredAdd d a k e) s.t d (first ((act.map fun i => (x i).toInt).foldr (· + ·) 0)) lr false ∧
    vpending s (.vredMin d a k e) s.t d (first ((act.map fun i => (x i).toInt).foldr min (2 ^ 31 - 1))) lr false ∧
    vpending s (.vredMax d a k e) s.t d (first ((act.map fun i => (x i).toInt).foldr max (-(2 ^ 31)))) lr false ∧
    vpending s (.vperm d a b k e z) s.t d (velems s d k e z fun i => x ((y i).toNat % n)) (vjoined s [] [a, b] d k e z) false ∧
    vpending s (.vbflyR2 d a b scl) s.t d ((List.range n).map two) (s.joined [] ||| s.t.vlabels [a, b] []) false

/-- The node of `vred.fadd`'s tree at a level and a position, by a rounding mode that draws nothing, with the flags of the additions
below it (R195): a present leaf is an active element, two present children are added, one passes unchanged. -/
def treeNode (rm : Rm) (w : Word) (leaf : Nat → Option (BitVec 32)) : Nat → Nat → Option (BitVec 32) × FFlags
  | 0, j => (leaf j, 0)
  | m + 1, j =>
    let l := treeNode rm w leaf m (2 * j)
    let r := treeNode rm w leaf m (2 * j + 1)
    match l.1, r.1 with
    | some x, some y =>
      let v := fAdd fmtFp32 rm w (decodeF fmtFp32 x.toNat) (decodeF fmtFp32 y.toNat)
      (some (BitVec.ofNat 32 v.1), v.2 ||| l.2 ||| r.2)
    | some x, none => (some x, l.2 ||| r.2)
    | none, y => (y, l.2 ||| r.2)

/-- What a whole-register instruction that can raise flags does with its elements and flags (R164, R184, R187): the thread is held while a
trap is enabled, and where a raised flag is enabled it takes FPEXC when the instruction would complete, with vd, SEED and every
label as they were. -/
def vwholeOutcome (s : State) (i : Instr) (d : VReg) (x : List (BitVec 32)) (fl : FFlags) (l : Label) : Prop :=
  let raised : Thread := s.t.setStatus 5 5 (s.t.flags ||| fl).toNat
  (fl &&& s.t.fpen = 0 → vpending s i raised d x l (decide (s.t.fpen ≠ 0))) ∧
  (fl &&& s.t.fpen ≠ 0 → s.traps →
    (s.t.prog = .fresh → ∃ s', exec i s = .next s' ∧ s'.t = { s.t with run := .reply, prog := .stage 1 0 0 } ∧ s'.mem = s.mem) ∧
    (s.t.prog = .stage 1 0 0 →
      exec i s = .next (State.trapped { s with t := raised } 0x0B s.t.pc 0 (fl.setWidth 64) (s.t.patched ||| l))))

/-- `vred.fadd` over its fixed tree in the modes that draw nothing (R195); the special functions, whose finite values are free within their
bounds (assumption 4); and the radix-4 butterfly (R200). -/
def VectorWholeFloat : Prop :=
  ∀ (s : State) (d a b : VReg) (k : MReg) (e z scl : Bool), vready s [d, a, b] → s.t.claim.lanes ≤ 64 →
    let n := 16 * s.t.claim.lanes
    let x (i : Nat) := s.t.velem a i
    let y (i : Nat) := s.t.velem b i
    let on (i : Nat) : Bool := !(e && !s.t.mbit k i)
    let act := (List.range n).filter on
    let leaf (i : Nat) : Option (BitVec 32) := if i < n ∧ on i = true then some (x i) else none
    let root := treeNode s.t.rm (xorshift s.t.ctl.seed) leaf 10 0
    let lr := s.joined [] ||| s.t.vlabels [a] (if e = true then [k] else [])
    let sfu (i : Instr) (fn : SfuFn) : Prop :=
      vwholeOutcome s i d (velems s d k e z fun i => BitVec.ofNat 32 (sfuValue fn (x i)).1)
        (act.foldr (fun i (m : FFlags) => (sfuValue fn (x i)).2 ||| m) 0) (vjoined s [] [a] d k e z)
    let q (p w : BitVec 32) : Int × Int := (q15re p w 0, q15im p w 0)
    let scale (v : Int) : Int := if scl = true then (v + 2) / 4 else v
    let four (i : Nat) : BitVec 32 :=
      let j := i / 4
      let p := x (4 * j)
      let u := q (x (4 * j + 1)) (y (3 * j))
      let v := q (x (4 * j + 2)) (y (3 * j + 1))
      let w := q (x (4 * j + 3)) (y (3 * j + 2))
      let o (re im : Int) : BitVec 32 := ci16 (scale (cre p + re)) (scale (cim p + im))
      match i % 4 with
      | 0 => o (u.1 + v.1 + w.1) (u.2 + v.2 + w.2)
      | 1 => o (u.2 - v.1 - w.2) (-u.1 - v.2 + w.1)
      | 2 => o (-u.1 + v.1 - w.1) (-u.2 + v.2 - w.2)
      | _ => o (-u.2 - v.1 + w.2) (u.1 - v.2 - w.1)
    (s.t.rm ≠ .sr → vwholeOutcome s (.vredFadd d a k e) d
      ((List.range n).map fun i => if i = 0 then root.1.getD 0 else 0) root.2 lr) ∧
    (s.t.fpen = 0 → ∃ v t, vpending s (.vredFadd d a k e) t d ((List.range n).map fun i => if i = 0 then v else 0)
      (lr ||| (if s.t.rm = .sr then s.t.ctl.seedLabel else 0)) false ∧
      t.ctl.seed = xorshiftN (if s.t.rm = .sr then act.length - 1 else 0) s.t.ctl.seed) ∧
    sfu (.vsfuExp2 d a k e z) .exp2 ∧ sfu (.vsfuLog2 d a k e z) .log2 ∧ sfu (.vsfuRcp d a k e z) .rcp ∧
    sfu (.vsfuRsqrt d a k e z) .rsqrt ∧ sfu (.vsfuSin d a k e z) .sin ∧ sfu (.vsfuCos d a k e z) .cos ∧
    sfu (.vsfuTanh d a k e z) .tanh ∧ sfu (.vsfuSigmoid d a k e z) .sigmoid ∧
    vpending s (.vbflyR4 d a b scl) s.t d ((List.range n).map four) (s.joined [] ||| s.t.vlabels [a, b] []) false

/-- The special values of the special functions (R199), with their flags. -/
def SpecialFunctionValues : Prop :=
  let pInf : BitVec 32 := 0x7F800000
  let nInf : BitVec 32 := 0xFF800000
  let nan : Nat := 0x7FC00000
  let pOne : Nat := 0x3F800000
  sfuValue .exp2 nInf = (0, 0) ∧ sfuValue .exp2 pInf = (pInf.toNat, 0) ∧ sfuValue .exp2 0x43000000 = (pInf.toNat, flagOF ||| flagNX) ∧
  sfuValue .log2 0 = (nInf.toNat, flagDZ) ∧ sfuValue .log2 0x80000000 = (nInf.toNat, flagDZ) ∧
  sfuValue .log2 nInf = (nan, flagNV) ∧ sfuValue .log2 0xBF800000 = (nan, flagNV) ∧ sfuValue .log2 pInf = (pInf.toNat, 0) ∧
  sfuValue .rcp 0 = (pInf.toNat, flagDZ) ∧ sfuValue .rcp 0x80000000 = (nInf.toNat, flagDZ) ∧
  sfuValue .rcp pInf = (0, 0) ∧ sfuValue .rcp nInf = (0x80000000, 0) ∧
  sfuValue .rsqrt 0 = (pInf.toNat, flagDZ) ∧ sfuValue .rsqrt 0x80000000 = (nInf.toNat, flagDZ) ∧
  sfuValue .rsqrt 0xBF800000 = (nan, flagNV) ∧ sfuValue .rsqrt pInf = (0, 0) ∧
  sfuValue .sin pInf = (nan, flagNV) ∧ sfuValue .cos nInf = (nan, flagNV) ∧
  sfuValue .sin 0x47800001 = (nan, flagNV) ∧ sfuValue .cos 0xC7800001 = (nan, flagNV) ∧
  sfuValue .tanh pInf = (pOne, 0) ∧ sfuValue .tanh nInf = (0xBF800000, 0) ∧
  sfuValue .sigmoid nInf = (0, 0) ∧ sfuValue .sigmoid pInf = (pOne, 0) ∧
  ∀ fn : SfuFn, sfuValue fn 0x7F800001 = (nan, flagNV) ∧ sfuValue fn 0x7FC00001 = (nan, 0)

/-- A claim (R175, R178): with no lanes held it is granted the smaller of what it wants and what is free, when that is at least what it
needs, and its registers begin as 0 and its masks as 1; else d is 0. The traps of R178 come first. -/
def VectorClaim : Prop :=
  ∀ (s : State) (d a b : Reg) (ta tb : Bool), s.t.atOrigin = true → s.writable [d] → s.readable [a, b] →
    let x := (s.val a).toNat
    let y := (s.val b).toNat
    let want := min x s.imageLanes
    let free := s.vlaneq s.t.ident.part - s.lanesHeld s.t.ident.part s.t.ident.pan s.t.ident.trellis
    let g := min want free
    let label := s.joined [a, b]
    let refuse (info : Word) : Prop :=
      s.traps → exec (.vclaim d a b ta tb) s = .next (s.trapped 0x14 s.t.pc 0 info (labelsOf s.t [a, b] ||| s.t.patched))
    (s.t.claim.lanes ≠ 0 → refuse 1) ∧
    (s.t.claim.lanes = 0 → s.imageLanes = 0 → refuse 2) ∧
    (s.t.claim.lanes = 0 → s.imageLanes ≠ 0 → x = 0 ∨ 64 < x ∨ x < y → refuse 3) ∧
    (s.t.claim.lanes = 0 → s.imageLanes ≠ 0 → 1 ≤ x → x ≤ 64 → y ≤ x → g < max y 1 →
      exec (.vclaim d a b ta tb) s = .next (s.wrote d 0 [a, b] 4)) ∧
    (s.t.claim.lanes = 0 → s.imageLanes ≠ 0 → 1 ≤ x → x ≤ 64 → y ≤ x → max y 1 ≤ g →
      ∃ s', exec (.vclaim d a b ta tb) s = .next s' ∧ s'.mem = s.mem ∧ s'.others = s.others ∧ s'.t.pc = s.t.pc + 4 ∧
        (d ≠ 0 → s'.t.reg d = ⟨BitVec.ofNat 64 g, true, false, label⟩) ∧ (∀ r, r ≠ d → s'.t.reg r = s.t.reg r) ∧
        s'.t.claim.lanes = g ∧ fieldOf s'.t.ctl.status 16 1 = 1 ∧
        (∀ v : VReg, s'.t.vreg v = ⟨List.replicate (16 * g) 0, true, s.t.ctl.clabel⟩) ∧
        (∀ k : MReg, s'.t.mreg k = ⟨List.replicate (16 * g) true, s.t.ctl.clabel⟩))

/-- The end of a claim and the wait for its work (R179, R180): neither goes on before the thread's vector work is complete; `vrel` gives the
lanes back and clears VCLAIMED; `vsync` with a count of 0 answers the lanes held. -/
def VectorSyncAndRelease : Prop :=
  ∀ (s : State) (d a b : Reg) (ta tb : Bool), s.t.atOrigin = true → s.t.claim.lanes ≠ 0 →
    (s.vecDrained = false → exec (.vrel ta tb) s = .next (s.hold .waits)) ∧
    (s.vecDrained = true → ∃ s', exec (.vrel ta tb) s = .next s' ∧ s'.mem = s.mem ∧ s'.others = s.others ∧
      s'.t.claim.lanes = 0 ∧ fieldOf s'.t.ctl.status 16 1 = 0 ∧ s'.t.pc = s.t.pc + 4 ∧ ∀ r, s'.t.reg r = s.t.reg r) ∧
    (s.writable [d] → s.readable [a, b] →
      (s.vecDrained = false → exec (.vsync d a b ta tb) s = .next (s.hold .waits)) ∧
      (s.vecDrained = true → s.val a = 0 →
        exec (.vsync d a b ta tb) s = .next (s.wrote d (BitVec.ofNat 64 s.t.claim.lanes) [a, b] 4)) ∧
      (s.vecDrained = true → s.val a ≠ 0 →
        let x := (s.val a).toNat
        let y := (s.val b).toNat
        let free := s.vlaneq s.t.ident.part -
          (s.lanesHeld s.t.ident.part s.t.ident.pan s.t.ident.trellis - s.t.claim.lanes)
        let g := min (min x s.imageLanes) free
        s.imageLanes ≠ 0 → x ≤ 64 → y ≤ x →
          (g < max y 1 → exec (.vsync d a b ta tb) s = .next (s.wrote d 0 [a, b] 4)) ∧
          (max y 1 ≤ g → ∃ s', exec (.vsync d a b ta tb) s = .next s' ∧ s'.t.claim.lanes = g ∧ s'.t.pc = s.t.pc + 4 ∧
            s'.mem = s.mem ∧ (d ≠ 0 → (s'.t.reg d).val = BitVec.ofNat 64 g) ∧
            ∀ (v : VReg) (i : Nat), i < 16 * g → (s.t.vreg v).elems.length = 16 * s.t.claim.lanes →
              v.val < s.t.claim.regs.length →
              s'.t.velem v i = if i < 16 * s.t.claim.lanes then s.t.velem v i else 0)))

/-- A register element of a vector load arrives from the bank that holds it: each element of the requests below stands at its own bank. -/
def vqueued (s s' : State) (op : MemOp) (x : VecElem) (label : Label) : Prop :=
  ∀ p ∈ x.places.head?, queued s s' op s.t.ident.pan p.2 label

/-- Vector loads (R188, R189, R191; the order of the checks between pages is the model's choice, log entry 36): a check that fails is the trap that R191 gives, with nothing changed; with no active element vd is written
at once; else vd is empty, its inactive elements are what they will be, and each active element's read stands at its bank. -/
def VectorLoads : Prop :=
  ∀ (s : State) (d x : VReg) (a b : Reg) (k : MReg) (e z ta tb : Bool),
    vready s [d, x] → s.readable [a, b] → s.acquireHeld = false → s.t.run = .ready →
    isCompute s.t.core = true → corePan s.t.core = s.t.ident.pan →
    let acts := (List.range (16 * s.t.claim.lanes)).filter fun i => !(e && !s.t.mbit k i)
    let m : List MReg := if e = true then [k] else []
    let old : List VReg := if e = true ∧ z = false then [d] else []
    let start := velems s d k e z fun _ => 0
    let out (i : Instr) (form : VecForm) (rs : List Reg) (vs : List VReg) : Prop :=
      let lv := s.t.vlabels (vs ++ old) m
      (∀ c va, s.vecCheck form (s.val a) acts false = .error (c, va) → s.traps →
        exec i s = .next (s.trapped (trapNumber c) s.t.pc va 0 (labelsOf s.t rs ||| s.t.patched ||| lv))) ∧
      (∀ f els, s.vecCheck form (s.val a) acts false = .ok (f, els) →
        let l := s.joined rs ||| lv ||| unionOf (els.flatMap VecElem.labels)
        (els = [] → exec i s = .next (vwrote s s.t d start l 4)) ∧
        (els ≠ [] → ∃ s' g, exec i s = .next s' ∧ s'.mem = s.mem ∧ s'.others = s.others ∧ g ∈ s'.fab.fills ∧
          g.uid = s.t.ident.uid ∧ (∃ es, g.kind = .vector d z es) ∧ g.velems = start ∧ g.label = l ∧ g.parts = els.length ∧
          s'.t = { s.t.setVreg d { s.t.vreg d with full := false } with pc := s.t.pc + 4, prog := .fresh, proxy := false } ∧
          ∀ y ∈ els, vqueued s s' (.vload y.i f y.bit y.places) y 0))
    out (.vld d a k e z ta tb) .unit [a] [] ∧
    out (.vlds d a b k e z ta tb) (.strided (s.val b)) [a, b] [] ∧
    out (.vldx d a x k e z ta tb) (.indexed x) [a] [x]

/-- Vector stores (R190, R191, R162, R172, R173, R373; that a packed format faults, the TRAPADDR of FORMAT and the label of SEED in the check are log entry 108's):
a failed check, or a page whose label may not be written, is a trap; else every
active element's code, in one piece or in two where a page ends within it, stands at its bank, each with the next draw under SR, whose label it
then carries; FLAGS and SEED follow, and the thread goes on. A flag that FPEN enables is FPEXC instead (R187). -/
def VectorStores : Prop :=
  ∀ (s : State) (d x : VReg) (a : Reg) (k : MReg) (e ta tb : Bool),
    vready s [d, x] → s.readable [a] → s.acquireHeld = false → s.t.run = .ready →
    isCompute s.t.core = true → corePan s.t.core = s.t.ident.pan →
    let acts := (List.range (16 * s.t.claim.lanes)).filter fun i => !(e && !s.t.mbit k i)
    let m : List MReg := if e = true then [k] else []
    let out (i : Instr) (form : VecForm) (vs : List VReg) : Prop :=
      let lv := s.t.vlabels (d :: vs) m
      (∀ c va, s.vecCheck form (s.val a) acts true = .error (c, va) → s.traps →
        exec i s = .next (s.trapped (trapNumber c) s.t.pc va 0 (labelsOf s.t [a] ||| s.t.patched ||| lv))) ∧
      (∀ f els, s.vecCheck form (s.val a) acts true = .ok (f, els) → els.map VecElem.i = acts →
        let c := vecDraws f s.t.rm
        let l := s.joined [a] ||| lv ||| (if c = 0 then 0 else s.t.ctl.seedLabel)
        let code (n i : Nat) : BitVec 32 × FFlags :=
          vecEncode f s.t.rm (xorshift (xorshiftN (c * n) s.t.ctl.seed)) (s.t.velem d i)
        let flags := (List.zip (List.range acts.length) acts).foldr (fun x fl => (code x.1 x.2).2 ||| fl) 0
        (∀ y ∈ els, ∀ g ∈ y.labels, labelLe l g = true) →
        (flags &&& s.t.fpen ≠ 0 → exec i s = .next (s.vecTrap flags l)) ∧
        (flags &&& s.t.fpen = 0 →
          ∃ s', exec i s = .next s' ∧ s'.mem = s.mem ∧ s'.others = s.others ∧ s'.t.pc = s.t.pc + 4 ∧ s'.t.claim = s.t.claim ∧
            s'.t.ctl.seed = xorshiftN (c * acts.length) s.t.ctl.seed ∧ s'.t.ctl.status = (s.t.raise flags).ctl.status ∧
            (∀ r, s'.t.reg r = s.t.reg r) ∧
            ∀ (n : Nat) (y : VecElem), els[n]? = some y → ∀ p ∈ y.pieces (fmtBits f) (code n y.i).1.toNat,
              queued s s' (.vstore p.width p.bit p.code) s.t.ident.pan p.pa l))
    out (.vst d a k e ta tb) .unit [] ∧
    out (.vstx d a x k e ta tb) (.indexed x) [x]

/-! ## Commands of the engines -/

/-- A block of n bytes at an address can be read and is read for a thread of a partition's own label (R277, R305, R338, R343). The state after
the read is `s.blockRead va n`: what it takes through the L2, and the clocks of the dies it lies on in the thread's VCLOCK. -/
def blockAt (s : State) (va : Word) (n : Nat) (bs : List Byte) (l : Label) : Prop :=
  s.readHeld va n = false ∧ s.readVa s.t.ident.part s.t.localPan va n s.t.isTask = .ok (bs, l) ∧
    labelLe (l ||| s.t.ctl.clabel) (partLabel s.t.ident.part) = true

/-- The thread has gone past its instruction and left rotation until d, which is empty, is filled with a value in 4 cycles (R264, R265). -/
def ticketed (s s' : State) (d : Reg) (v : Word) (l : Label) : Prop :=
  s'.t.pc = s.t.pc + 4 ∧ s'.t.run = .reply ∧ s'.mem = s.mem ∧ s'.others = s.others ∧
    (∀ r : Reg, s'.t.reg r = if r = d ∧ r ≠ 0 then { s.t.reg r with full := false, poison := false } else s.t.reg r) ∧
    ∃ f ∈ s'.fab.fills, f.uid = s.t.ident.uid ∧ f.regs = [d] ∧ f.vals.head? = some v ∧ f.label = l ∧ f.parts = 0 ∧
      f.resume = true ∧ f.advance = false ∧ (s.time.cycle + 4, Instr.resultFill f.id) ∈ s'.time.calendar

/-- A command has been accepted once its blocks have been read, in s0 (R264, R265, R341, R343): it has the next SEQ of its queue, which rises, its issuer's VCLOCK
joined by that of the fences that have let its queue go on, and d will hold its ticket. -/
def accepted (s s0 : State) (i : Instr) (d : Reg) (c : Cmd) : Prop :=
  let place := s.t.place
  let seq := (s.engine place).nextSeq c.part c.queue
  let ticket := BitVec.ofNat 64 (seq % 2 ^ 16 + c.queue * 2 ^ 16 + place % 128 * 2 ^ 19 + place / 128 * 2 ^ 26)
  ∃ s', exec i s = .next s' ∧ ticketed s0 s' d ticket c.tlabel ∧
    (s'.engine place).nextSeq c.part c.queue = (seq + 1) % 2 ^ 16 ∧
    ∃ x ∈ (s'.engine place).cmds, x.seq = seq ∧ x.ticket = ticket ∧ x.part = s.t.ident.part ∧ x.uid = s.t.ident.uid ∧
      x.kind = c.kind ∧ x.queue = c.queue ∧ x.bva = c.bva ∧ x.block = c.block ∧ x.shape = c.shape ∧ x.follow = c.follow ∧ x.label = c.label ∧
      x.clock = joinClock s0.t.ctl.vclock (clockAt (s.engine place).fenced c.part c.queue)

/-- The condition of an instruction of an engine to read its block: in the origin trellis, its registers free, the thread's earlier work
performed and no acquire of it awaited (R219, R262). -/
def mayCommand (s : State) (d : Reg) (rs : List Reg) : Prop :=
  s.t.atOrigin = true ∧ s.writable [d] ∧ s.readable rs ∧ s.drained = true ∧ s.acquireHeld = false

/-- `rackv` (R280): a copy of raw bytes between addresses of the two registers is accepted with its queue and its length; a length of 0 or of
more than 2^24, and a reserved bit, are refused with the ticket of R264; an address outside the ranges of R231 takes PROT. -/
def RawCopySubmission : Prop :=
  ∀ (s : State) (d a b : Reg), mayCommand s d [a, b, nextReg d] →
    let r2 := nextReg d
    let w := (s.val r2).toNat
    let n := w % 2 ^ 25
    let q := w / 2 ^ 32 % 4
    let out (va : Word) : Prop := s.vaClass va = .none ∨ (s.vaClass va = .device ∧ s.t.isDevice = false)
    let legal := 1 ≤ n ∧ n ≤ 2 ^ 24 ∧ w / 2 ^ 25 % 2 ^ 7 = 0 ∧ w / 2 ^ 34 = 0
    let c := s.newCmd .rackv q 0 (rackvBlock (s.val b) (s.val a) n) [] [] s.t.ctl.clabel (s.joined [a, b, r2]) 0
    (¬ out (s.val a) → ¬ out (s.val b) → legal → s.sidesOverlap s.t.ident.part s.t.ident.pan c.copy 0 = false →
      s.roomFor s.t.place c = true → accepted s s (.rackv d a b) d c) ∧
    (¬ out (s.val a) → ¬ out (s.val b) → ¬ legal →
      ∃ s', exec (.rackv d a b) s = .next s' ∧ ticketed s s' d 0x300000000 (s.joined [a, b, r2]) ∧ s'.engines = s.engines) ∧
    (out (s.val a) → s.traps →
      exec (.rackv d a b) s = .next (s.trapped 0x07 s.t.pc (s.val a) 0 (labelsOf s.t [a, b, r2] ||| s.t.patched))) ∧
    (¬ out (s.val a) → out (s.val b) → s.traps →
      exec (.rackv d a b) s = .next (s.trapped 0x07 s.t.pc (s.val b) 0 (labelsOf s.t [a, b, r2] ||| s.t.patched)))

/-- `rack` (R265 to R269, R276, R277, R279): a block, its shape record, cached or read, and its follow-on if it has one, that are legal, of a copy
that is not halted, with room for it, are accepted with ROUND bound; the ticket has the label of the block's page. A misaligned block takes
ALIGN, a side outside the ranges of R231 PROT; a block without a shape record is refused (that misaligned records are refused so, and what the legality of a layout
and the count of the draws rest on, are the model's choices and deductions, log entries 52 to 55 and 93). -/
def CopySubmission : Prop :=
  ∀ (s : State) (d a : Reg), mayCommand s d [a] →
    let va := s.val a
    let place := s.t.place
    let part := s.t.ident.part
    let pan := s.t.ident.pan
    let s1 := s.blockRead va 64
    (va.toNat % 64 ≠ 0 → s.traps → exec (.rack d a) s = .next (s.trapped 0x05 s.t.pc va 0 (s.lbl a ||| s.t.patched))) ∧
    (va.toNat % 64 = 0 → ∀ (bs : List Byte) (l1 : Label), blockAt s va 64 bs l1 →
      wordAt bs 0x10 = 0 ∨ (wordAt bs 0x10).toNat % 64 ≠ 0 ∨ (wordAt bs 0x18).toNat % 64 ≠ 0 →
      ∃ s', exec (.rack d a) s = .next s' ∧ ticketed s1 s' d 0x300000000 (s.joined [a] ||| l1) ∧ s'.engines = s.engines) ∧
    (va.toNat % 64 = 0 → ∀ (bs shape follow : List Byte) (l1 l2 l3 : Label) (s2 s3 : State), blockAt s va 64 bs l1 → wordAt bs 0x10 ≠ 0 →
      (wordAt bs 0x10).toNat % 64 = 0 → (wordAt bs 0x18).toNat % 64 = 0 →
      let cached := (s.engine place).shapes.find? fun x => x.part = part && x.va = wordAt bs 0x10
      let kept (s0 : State) : State := s0.modEngine place fun e => e.keepShape ⟨part, wordAt bs 0x10, shape, l2⟩
      (cached = none ∧ blockAt s1 (wordAt bs 0x10) 64 shape l2 ∧ s2 = kept (s1.blockRead (wordAt bs 0x10) 64)) ∨
        (cached = some ⟨part, wordAt bs 0x10, shape, l2⟩ ∧ labelLe (l2 ||| s.t.ctl.clabel) (partLabel part) = true ∧ s2 = kept s1) →
      (wordAt bs 0x18 = 0 ∧ follow = [] ∧ l3 = 0 ∧ s3 = s2) ∨
        (wordAt bs 0x18 ≠ 0 ∧ follow ≠ [] ∧ blockAt s2 (wordAt bs 0x18) 64 follow l3 ∧ s3 = s2.blockRead (wordAt bs 0x18) 64) →
      let labels := l1 ||| l2 ||| l3
      let rnd := fieldOf s.t.ctl.status 2 3
      let rm := boundRound (fieldAt bs 0x2A 1) rnd
      let block := bindRound bs 0x2A rnd
      let fol := if follow = [] then [] else bindRound follow 0x36 rnd
      let fb := pressBlock fol
      let x := copyOf block shape
      let done := fieldAt block 0x24 4
      let c := { s3.newCmd .copy (fieldAt block 0x28 1) va block shape fol (s.t.ctl.clabel ||| labels) (s.joined [a] ||| l1) rm with
        done := done, draws := s3.copyDraws part pan x done rm + (if follow = [] then 0 else fb.draws fb.round) }
      let legal := copyBlockOk pan bs shape = true ∧
        (s3.laidOut part x ((s3.sideFmt part pan x false 0).bind Prod.fst) s.t.isTask 0).layoutOk = true ∧
        (follow = [] ∨ fb.ok fol pan (s.rangeQuota pan) = true) ∧ s3.sidesOverlap part pan x done = false
      (s.outside (x.origin false) = true → s.traps →
        ∃ s', exec (.rack d a) s = .next s' ∧
          s'.t = s3.t.enterTrap 0x07 false s.t.pc (x.origin false) 0 (s.lbl a ||| s.t.patched ||| labels) ∧ s'.mem = s3.mem) ∧
      (s.outside (x.origin false) = false → s.outside (x.origin true) = false →
        (legal → s3.haltedCopy place part c.queue va = none → s3.roomFor place c = true → accepted s s3 (.rack d a) d c) ∧
        (¬ legal → ∃ s', exec (.rack d a) s = .next s' ∧ ticketed s3 s' d 0x300000000 (s.joined [a] ||| l1))))

/-- `pmm` and `pzero` (R287, R289, R305, R306): a legal block that resumes no halted command is accepted by the Press with ROUND bound; one that is
not legal is refused. -/
def PressSubmission : Prop :=
  ∀ (s : State) (d a : Reg) (bs : List Byte) (l : Label), mayCommand s d [a] → (s.val a).toNat % 64 = 0 → blockAt s (s.val a) 64 bs l →
    s.outside (s.val a) = false →
    let s1 := s.blockRead (s.val a) 64
    let pan := s.t.ident.pan
    let block := bindRound bs 0x36 (fieldOf s.t.ctl.status 2 3)
    let b := pressBlock block
    let q := s.rangeQuota pan
    let label := s.t.ctl.clabel ||| s.lbl a ||| l
    let tl := s.joined [a] ||| l
    let cm := { s1.newCmd .press 6 (s.val a) block [] [] label tl b.round with draws := b.draws b.round }
    let cz := { s1.newCmd .zero 6 (s.val a) block [] [] label tl 0 with draws := 0 }
    (b.ok block pan q = true → b.resume = false → s1.roomFor s.t.place cm = true → accepted s s1 (.pmm d a) d cm) ∧
    (b.zeroOk pan q = true → s1.roomFor s.t.place cz = true → accepted s s1 (.pzero d a) d cz) ∧
    (b.ok block pan q = false →
      ∃ s', exec (.pmm d a) s = .next s' ∧ ticketed s1 s' d 0x300000000 tl ∧ s'.engines = s.engines) ∧
    (b.zeroOk pan q = false →
      ∃ s', exec (.pzero d a) s = .next s' ∧ ticketed s1 s' d 0x300000000 tl ∧ s'.engines = s.engines)

/-- The collectives (R262, R282, R283): a legal block and group record, which are read when the command issues (the model's choice, log entry 59), are accepted into
QC; others are refused. -/
def CollectiveSubmission : Prop :=
  ∀ (s : State) (d a : Reg) (bs g : List Byte) (l1 l2 : Label), mayCommand s d [a] → (s.val a).toNat % 64 = 0 →
    blockAt s (s.val a) 64 bs l1 → isGlobal (wordAt bs 0x10).toNat = true → (wordAt bs 0x10).toNat % 64 = 0 →
    let s1 := s.blockRead (s.val a) 64
    blockAt s1 (wordAt bs 0x10) 256 g l2 →
    let s2 := s1.blockRead (wordAt bs 0x10) 256
    let c (k : Nat) := { s2.newCmd .coll 4 (s.val a) bs g [] (s.t.ctl.clabel ||| l1 ||| l2) (s.joined [a] ||| l1) 0 with req := k }
    let out (i : Instr) (k : Nat) : Prop :=
      (collBlockOk bs k = true → groupOk g = true → s2.roomFor s.t.place (c k) = true → accepted s s2 i d (c k)) ∧
      (collBlockOk bs k = false ∨ groupOk g = false →
        ∃ s', exec i s = .next s' ∧ ticketed s2 s' d 0x300000000 (s.joined [a] ||| l1) ∧ s'.engines = s.engines)
    out (.collAllreduce d a) 0 ∧ out (.collAllgather d a) 1 ∧ out (.collReducescatter d a) 2

/-- The thread goes on, and d, which is empty, will hold a value in 4 cycles (R266, R307). -/
def soon (s s' : State) (d : Reg) (v : Word) (l : Label) : Prop :=
  s'.t.pc = s.t.pc + 4 ∧ s'.t.run = s.t.run ∧ s'.mem = s.mem ∧ s'.others = s.others ∧ s'.engines = s.engines ∧
    (∀ r : Reg, s'.t.reg r = if r = d ∧ r ≠ 0 then { s.t.reg r with full := false, poison := false } else s.t.reg r) ∧
    ∃ f ∈ s'.fab.fills, f.uid = s.t.ident.uid ∧ f.regs = [d] ∧ f.vals.head? = some v ∧ f.label = l ∧ f.resume = false ∧
      (s.time.cycle + 4, Instr.resultFill f.id) ∈ s'.time.calendar

/-- What a ticket reports (R266, R307): a live command's status is PENDING, or FAULT with its cause while it is halted; a retired one's is its
own; a word with a set bit in [47:32], which no ticket has, is RECORD. `qwait` and `pwait` answer at once, and a wait for
a retired command joins its clock (R343), or they leave d empty, and the thread goes on. -/
def TicketReports : Prop :=
  ∀ (s : State) (d a : Reg), s.t.atOrigin = true → s.writable [d] → s.readable [a] →
    let w := s.val a
    let e := s.engine s.t.place
    let label := s.joined [a]
    let kind := w.toNat / 2 ^ 16 % 8
    let plain := w.toNat / 2 ^ 32 % 2 ^ 16 = 0 ∧ kind ≠ 7
    let status (c : Cmd) : Word :=
      BitVec.ofNat 64 ((if c.state = .halted then 0x12 + c.cause * 2 ^ 16 else 0x10) + c.flags % 32 * 2 ^ 24 + c.done % 2 ^ 32 * 2 ^ 32)
    let tells (i : Instr) (v : Word) (l : Label) : Prop := ∃ s', exec i s = .next s' ∧ soon s s' d v l
    let waits (i : Instr) (press : Bool) : Prop :=
      ∃ s', exec i s = .next s' ∧ s'.t.pc = s.t.pc + 4 ∧ s'.t.run = s.t.run ∧ s'.mem = s.mem ∧ s'.engines = s.engines ∧
        ∃ f ∈ s'.fab.fills, f.uid = s.t.ident.uid ∧ f.regs = [d] ∧ f.kind = .ticket s.t.place w press ∧ f.label = label
    (w.toNat / 2 ^ 32 % 2 ^ 16 ≠ 0 → tells (.rstat d a) 3 label ∧ tells (.qwait d a) 3 label) ∧
    (∀ c, plain → (e.cmds.find? fun c => c.part = s.t.ident.part && c.ticket = w) = some c →
      tells (.rstat d a) (status c) label ∧ (c.state ≠ .halted → waits (.qwait d a) (decide (kind = 6))) ∧
      (kind = 6 → tells (.pprog d a) (status c) label ∧ (c.state ≠ .halted → waits (.pwait d a) true))) ∧
    (∀ r, plain → (e.cmds.find? fun c => c.part = s.t.ident.part && c.ticket = w) = none →
      (e.fences.any fun f => f.part = s.t.ident.part && f.ticket = w) = false →
      (e.retired.find? fun r => r.part = s.t.ident.part && r.ticket = w) = some r →
      let past (i : Instr) : Prop := ∃ s', exec i s = .next s' ∧ soon s s' d r.status (label ||| r.label) ∧
        s'.t.ctl.vclock = joinClock s.t.ctl.vclock r.clock
      tells (.rstat d a) r.status (label ||| r.label) ∧ past (.qwait d a) ∧
      (kind = 6 → tells (.pprog d a) r.status (label ||| r.label) ∧ past (.pwait d a)))

/-- `rfence` (R270): the cached shape records of the thread's partition are discarded, in the origin trellis's engine or in those of the
partition's Pans, and no other (in its own step: the model's choice, log entry 21). `qfence` (R275): with fewer than 8 outstanding it takes the next ticket of its kind. -/
def EngineFences : Prop :=
  ∀ (s : State) (d a : Reg), s.t.atOrigin = true →
    let part := s.t.ident.part
    let place := s.t.place
    let went (s' : State) : Prop := s'.t = (s.went s.t (s.t.pc + 4)).t ∧ s'.mem = s.mem ∧ s'.fab = s.fab
    let kept (e e' : Engine) (x : Bool) : Prop :=
      e' = if x then { e with shapes := e.shapes.filter fun y => y.part ≠ part } else e
    (s.drained = true → ∃ s', exec .rfenceEngine s = .next s' ∧ went s' ∧ s'.engines.length = s.engines.length ∧
      ∀ (k : Nat) (e e' : Engine), s.engines[k]? = some e → s'.engines[k]? = some e' → kept e e' (decide (e.place = place))) ∧
    (s.drained = true → ∃ s', exec .rfencePartition s = .next s' ∧ went s' ∧ s'.engines.length = s.engines.length ∧
      ∀ (k : Nat) (e e' : Engine), s.engines[k]? = some e → s'.engines[k]? = some e' →
        kept e e' (s.ownsPan part (e.place / 128))) ∧
    (s.writable [d] → s.readable [a] → s.acquireHeld = false → ((s.engine place).fences.filter fun f => f.part = part).length < 8 →
      let seq := (s.engine place).nextSeq part 5
      let ticket := BitVec.ofNat 64 (seq % 2 ^ 16 + 5 * 2 ^ 16 + place % 128 * 2 ^ 19 + place / 128 * 2 ^ 26)
      let mask := (s.val a).toNat % 64
      let bit (q : Nat) : Nat := if q = 6 then 4 else if q = 4 then 5 else q
      let before := ((s.engine place).cmds.filter fun c => c.part = part && mask.testBit (bit c.queue)).map Cmd.id
      before ≠ [] → ∃ s', exec (.qfence d a) s = .next s' ∧ ticketed s s' d ticket (s.joined [a]) ∧
        ∃ f ∈ (s'.engine place).fences, f.part = part ∧ f.seq = seq ∧ f.ticket = ticket ∧ f.before = before)

/-! ## Launches, exports, invocations and the census -/

/-- The thread has left rotation past its instruction, its registers as they were, and d will hold a value after so many cycles (R73). -/
def outcomeIn (s s' : State) (d : Reg) (v : Word) (l : Label) (n : Nat) : Prop :=
  s'.t.pc = s.t.pc + 4 ∧ s'.t.run = .reply ∧ s'.mem = s.mem ∧ s'.others = s.others ∧ s'.t.ctl = s.t.ctl ∧ s'.t.regs = s.t.regs ∧
    ∃ f ∈ s'.fab.fills, f.uid = s.t.ident.uid ∧ f.regs = [d] ∧ f.vals.head? = some v ∧ f.label = l ∧ f.resume = true ∧
      (s.time.cycle + n, Instr.resultFill f.id) ∈ s'.time.calendar

/-- `launch` (R37, R41, R42, R146, R451): a legal record without a wait-on word, where its partition may take it, becomes an eligible launch with the
next arrival number, which d tells after 16 cycles and one leg (the rule gives that as a bound; the exact 45 cycles are the model's choice); an illegal one is refused with 3; a record that
is not aligned takes ALIGN. The state after the read of the record is `s.blockRead va 64`. -/
def LaunchResults : Prop :=
  ∀ (s : State) (d a : Reg) (p : Part) (r : List Byte) (l : Label), s.writable [d] → s.readable [a] → s.acquireHeld = false →
    let va := s.val a
    let s1 := s.blockRead va 64
    let read := s.readHeld va 64 = false ∧ s.readVa s.t.ident.part s.t.localPan va 64 s.t.isTask = .ok (r, l)
    let prio := fieldAt r 0x17 1
    let open_ := p.retiring = false ∧ labelLe (s.joined [a] ||| l) (partLabel p.num) = true
    (va.toNat % 8 ≠ 0 → s.traps → exec (.launch d a) s = .next (s.trapped 0x05 s.t.pc va 0 (s.lbl a ||| s.t.patched))) ∧
    (va.toNat % 8 = 0 → read → s1.part? s.t.ident.part = some p → open_ → s1.recordOk p.num r true = false →
      ∃ s', exec (.launch d a) s = .next s' ∧ outcomeIn s1 s' d 3 (s.joined [a]) 45 ∧ s'.parts = s1.parts) ∧
    (va.toNat % 8 = 0 → read → s1.part? s.t.ident.part = some p → open_ → s1.recordOk p.num r true = true →
      (p.unit.jobs.filter fun j => j.inv.isNone && j.prio = prio && !j.closed).length < 256 → fieldAt r 0x20 8 = 0 →
      ∃ s', exec (.launch d a) s = .next s' ∧
        outcomeIn s1 s' d (BitVec.ofNat 64 (p.unit.arrivals * 2 ^ 16)) (s.joined [a]) 45 ∧
        ∃ p' ∈ s'.parts, p'.num = s.t.ident.part ∧ p'.unit.arrivals = (p.unit.arrivals + 1) % 2 ^ 32 ∧
          ∃ j ∈ p'.unit.jobs, j.num = p.unit.arrivals ∧ j.image = fieldAt r 0 8 ∧ j.param = fieldAt r 8 8 ∧
            j.gangcount = fieldAt r 0x10 4 ∧ j.gangsize = fieldAt r 0x14 2 ∧ j.prio = prio ∧ j.completion = fieldAt r 0x18 8 ∧
            j.eligible = some s.time.cycle ∧ j.inv = none)

/-- `sluice` (R377, R383): data whose label only the destination's own partition holds leaves with status 0; without a policy entry that fits, the status is
DENIED with reason 1, or SLUICE where the block asks for the trap; an illegal block is RECORD; a request by a task is DENIED with reason 6. The answer comes 29 cycles
later (the model's choice, log entry 25). -/
def SluiceResults : Prop :=
  ∀ (s : State) (d a : Reg) (ta tb : Bool) (bs bytes : List Byte) (lb ls : Label) (vf owner : Nat),
    s.writable [d] → s.readable [a] → s.acquireHeld = false → s.drained = true → (s.val a).toNat % 64 = 0 →
    s.readHeld (s.val a) 64 = false → s.readVa s.t.ident.part s.t.localPan (s.val a) 64 s.t.isTask = .ok (bs, lb) →
    let s1 := s.blockRead (s.val a) 64
    let op := fieldAt bs 0x14 1
    let n := fieldAt bs 0x10 4
    let s2 := s1.blockRead (wordAt bs 0) n
    let store := s.vaClass (wordAt bs 0) != .none && s.vaClass (wordAt bs 0) != .device
    let l := s.t.ctl.clabel ||| s.lbl a ||| lb ||| ls
    let out (s0 : State) (v : Word) : Prop :=
      ∃ s', exec (.sluice d a ta tb) s = .next s' ∧ outcomeIn s0 s' d v (s.joined [a]) 29 ∧ s'.out = s.out
    (sluiceBlockOk bs store = false → out s1 3) ∧
    (sluiceBlockOk bs store = true → op % 4 ≠ 0 → s.t.isTask = true → op / 128 % 2 = 0 → out s1 0x60002) ∧
    (sluiceBlockOk bs store = true → op % 4 = 0 → fieldAt bs 0x15 1 = 0 → fieldAt bs 0x16 2 = vf →
      s1.readHeld (wordAt bs 0) n = false → s1.readVa s.t.ident.part s.t.localPan (wordAt bs 0) n s.t.isTask = .ok (bytes, ls) →
      (s.vfs.find? fun v => v.num = vf && v.valid).map VirtFn.part = some owner →
      (labelLe l (partLabel owner) = true →
        ∃ s', exec (.sluice d a ta tb) s = .next s' ∧ outcomeIn s2 s' d 0 (s.joined [a]) 29 ∧
          s'.out = s.out ++ [.host vf (wordAt bs 8) bytes]) ∧
      (labelLe l (partLabel owner) = false → (∀ e ∈ s.sec.policies, ¬ (labelLe l e.labels = true ∧ e.dkind = 0 ∧ e.dest = vf)) →
        (op / 128 % 2 = 0 → out s2 0x10002) ∧
        (op / 128 % 2 = 1 → s.traps →
          exec (.sluice d a ta tb) s = .next (s2.trapped 0x17 s.t.pc 0 0x10002 (s.lbl a ||| s.t.patched ||| (lb ||| ls))))))

/-- `invoke` (R147): to a handler of the own chip the arguments in g1 to g6 travel for one leg (of four flits: the model's choice, log entry 27) with their labels, and d is empty until the answer;
a chip or handler out of range is refused with 3, and a chip without an attested port with 4. -/
def InvokeResults : Prop :=
  ∀ (s : State) (d a b : Reg) (prio : Fin 4), s.writable [d] → s.readable [a, b, 1, 2, 3, 4, 5, 6] →
    let chip := (s.val a).toNat
    let handler := (s.val b).toNat
    let args : List Reg := [1, 2, 3, 4, 5, 6]
    let given (v : Word) : Prop := exec (.invoke d a b prio) s = .next (s.wrote d v [a, b] 4)
    (4095 < chip ∨ 255 < handler → given 3) ∧
    (chip ≤ 4095 → handler ≤ 255 → chip ≠ s.dev.chip → (s.portFor chip).filter Port.attested = none → given 4) ∧
    (chip ≤ 4095 → handler ≤ 255 → chip = s.dev.chip →
      ∃ s' f, exec (.invoke d a b prio) s = .next s' ∧ pendingOnly s s' [d] (s.t.pc + 4) s.t.run ∧ f ∈ s'.fab.fills ∧ f.regs = [d] ∧
        f.uid = s.t.ident.uid ∧ f.label = s.joined [a, b] ∧
        (s.time.cycle + 32, Instr.invocationArrival ⟨chip, none, some s.t.ident.part, handler, prio.val, args.map s.val,
          args.map fun r => s.joined [r], f.id⟩) ∈ s'.time.calendar)

/-- `solicit` (R359): a thread that is no responder asks the root for a census of its key and mask, with d and d + 1 empty until the result; a
responder takes CENSUS with 2. -/
def SolicitResults : Prop :=
  ∀ (s : State) (d a b : Reg), s.writable [d, nextReg d] → s.readable [a, b] →
    let out (i : Instr) (op : Nat) : Prop :=
      (s.t.ident.census ≠ 0 → s.traps →
        exec i s = .next (s.trapped 0x15 s.t.pc 0 2 (labelsOf s.t [a, b] ||| s.t.patched))) ∧
      (s.t.ident.census = 0 → ∃ s', exec i s = .next s' ∧ pendingOnly s s' [d, nextReg d] (s.t.pc + 4) s.t.run ∧
        ∃ c ∈ s'.census.asked, c.op = op ∧ c.key = s.val a ∧ c.mask = s.val b ∧ c.part = s.t.ident.part ∧
          c.uid = s.t.ident.uid ∧ c.label = s.joined [a, b] ∧
          (s.time.cycle + 48, Instr.censusRequest c.id) ∈ s'.time.calendar ∧
          ∃ f ∈ s'.fab.fills, f.id = c.fill ∧ f.regs = [d, nextReg d] ∧ f.kind = .census c.id ∧ f.label = s.joined [a, b])
    out (.solicitSum d a b) 0 ∧ out (.solicitMin d a b) 1 ∧ out (.solicitMax d a b) 2 ∧ out (.solicitOr d a b) 3 ∧
    out (.solicitCount d a b) 4

/-- `answer` and `cwait` (R362, R365): outside a census `answer` takes CENSUS with 0, and after an answer with 1; else the responder has answered,
and its trellis has one match fewer. `cwait` with no result of a census outstanding
gives 0; else its thread leaves rotation until the last of them is filled, and d is their number, with their labels, which CLABEL joins. -/
def AnswerAndWait : Prop :=
  ∀ (s : State) (d a : Reg) (place : Nat) (m : Match),
    (s.readable [a] →
      let trap (info : Word) : Prop := exec (.answer a) s = .next (s.trapped 0x15 s.t.pc 0 info (s.lbl a ||| s.t.patched))
      (s.t.ident.census = 0 → s.traps → trap 0) ∧
      (s.t.ident.census ≠ 0 → s.t.ident.answered = true → s.traps → trap 1) ∧
      (s.t.ident.census ≠ 0 → s.t.ident.answered = false → s.drained = true → s.matchOf s.t.ident.uid = some (place, m) →
        (s.engine place).place = place → m ∈ (s.engine place).matched →
        ∃ s', exec (.answer a) s = .next s' ∧ s'.mem = s.mem ∧ s'.t.pc = s.t.pc + 4 ∧ s'.t.regs = s.t.regs ∧
          s'.t.ident.answered = true ∧
          (s'.engine place).matched = (s.engine place).matched.filter fun y => y.id ≠ m.id)) ∧
    (s.writable [d] →
      let left := s.fab.fills.filter fun f => f.uid = s.t.ident.uid && (match f.kind with
        | .census id => id ≠ 0
        | _ => false)
      (left ≠ [] → s.t.prog = .fresh → exec (.cwait d) s = .next (s.leave .reply (.results d left.length 0))) ∧
      (left = [] → s.t.prog = .fresh → exec (.cwait d) s = .next (s.wrote d 0 [] 4)) ∧
      (∀ g id n l, left = [g] → g.kind = .census id → id ≠ 0 → s.fill? g.id = some g → g.err = none → g.discard = false →
        g.resume = false → g.advance = false → s.t.run = .reply → s.t.prog = .results d n l →
        let label := s.t.ctl.clabel ||| l ||| g.label
        ∃ s', exec (.resultFill g.id) s = .next s' ∧ s'.t.pc = s.t.pc + 4 ∧ s'.t.run = .ready ∧ s'.t.prog = .fresh ∧
          s'.mem = s.mem ∧ s'.t.ctl.clabel = label ∧
          (d ≠ 0 → s'.t.reg d = ⟨BitVec.ofNat 64 n, true, false, label ||| s.t.patched⟩)))

/-- The instructions of the directory (R357, R358): a block of 32 bytes whose tile the thread's partition may read goes, its tile's address named by Pan,
to the tile's trellis, where it is performed; d is empty until the answer. A move also names a place that may be written. -/
def DirectoryRequests : Prop :=
  ∀ (s : State) (d a b : Reg) (bs : List Byte) (l : Label) (named dest : Word),
    s.writable [d] → s.readable [a, b] → s.acquireHeld = false → s.drained = true → (s.val a).toNat % 32 = 0 →
    s.readHeld (s.val a) 32 = false → s.readVa s.t.ident.part s.t.localPan (s.val a) 32 s.t.isTask = .ok (bs, l) →
    let s1 := s.blockRead (s.val a) 32
    s.tileWindow (wordAt bs 8) true false = .ok named →
    let place := (s.tilePage s.t.ident.part named).place
    let arrival := s.time.cycle + routeLegs s.t.core (8 * place) 0 * leg 2
    let sent (i : Instr) (kind : Nat) (rs : List Reg) (to_ : Word) : Prop :=
      ∃ s', exec i s = .next s' ∧ pendingOnly s1 s' [d] (s.t.pc + 4) s.t.run ∧ ∃ r ∈ s'.census.reqs, r.kind = kind ∧
        r.uid = s.t.ident.uid ∧ r.part = s.t.ident.part ∧ r.block = bs.take 8 ++ natBytes 8 named.toNat ++ bs.drop 16 ∧
        r.dest = to_ ∧ r.label = s.joined rs ||| l ∧ (∃ f ∈ s'.fab.fills, f.id = r.fill ∧ f.regs = [d]) ∧
        (arrival, if kind = 2 then Instr.tmovePerform place r.id else Instr.tdirPerform place r.id) ∈ s'.time.calendar
    sent (.tdirPut d a) 0 [a] 0 ∧ sent (.tdirDel d a) 1 [a] 0 ∧
    (s.tileWindow (s.val b) false true = .ok dest → sent (.tmove d a b) 2 [a, b] dest)

/-! ## Events of threads -/

/-- The events by which a thread's traps come (R385, R386, R399): a single pending trap that is not deferred is taken at a turn, with TRAPPC at the
instruction that has not begun, ASYNC set, and its label in CLABEL; within a handler all but DATAERR wait; and COUNT at 0 makes TIMER pending. -/
def AsynchronousTraps : Prop :=
  ∀ (s : State) (a : AsyncTrap),
    let t := s.t
    (t.run = .ready → t.pending = [a] → t.second = [] → t.inTrap = false ∨ a.kind = .dataerr →
      ∃ s', exec .asyncTrapDelivery s = .next s' ∧ s'.mem = s.mem ∧ s'.others = s.others ∧ s'.t.regs = t.regs ∧
        s'.t.pending = [] ∧ s'.t.pc = t.trap.vec ∧ s'.t.inTrap = true ∧ s'.t.mode = (if t.mode = 2 then 2 else 1) ∧
        s'.t.ctl.clabel = t.ctl.clabel ||| a.label ∧ s'.time.turn = .trap ∧
        s'.t.trap = { t.trap with
          pc := BitVec.ofNat 64 (t.pc.toNat % 2 ^ 56 / 2 * 2), addr := a.addr, info := a.info
          code := BitVec.ofNat 64 (asyncNumber a.kind + t.mode * 2 ^ 6 + 2 ^ 8 + (if t.inTrap = true then 2 ^ 9 else 0)) }) ∧
    (t.run = .ready → t.pending = [a] → t.inTrap = true → a.kind ≠ .dataerr → exec .asyncTrapDelivery s = .next s) ∧
    (∀ (uid : Nat) (u : Thread), s.thread uid = some u → u.run ≠ .transit → u.run ≠ .saved → u.run ≠ .fencedAway →
      (u.pending.any fun x => x.kind == .timer) = false →
      ∃ s', exec (.slotTimerExpiry uid) s = .next s' ∧ s'.mem = s.mem ∧
        s'.thread uid = some { u with pending := u.pending ++ [⟨.timer, 0, 0, 0⟩] })

/-- The events of a migrating thread (R245 to R249, R252): a packet that arrives takes the lowest FREE slot of its destination, its registers
that were not carried poisoned and empty of value; without one it waits in the buffers; a refused packet is sent again, or its translation asked for again; the slot it left becomes HELD or
FREE; a packet 4,096 cycles under way is given up, and its thread goes on at the departing core, by proxy but for `hop`. -/
def MigrationEvents : Prop :=
  ∀ (s : State) (uid : Nat) (t : Thread) (x : Transit), s.thread uid = some t → t.transit = some x →
    let c := s.time.cycle
    let home := isCompute x.core = true ∧ x.core / 8 = 128 * t.ident.pan + t.ident.trellis
    let landed (s' : State) (core slot : Nat) : Prop :=
      ∃ u, s'.thread uid = some u ∧ u.core = core ∧ u.slot = slot ∧ u.run = .ready ∧ u.transit = none ∧ u.ident = t.ident ∧
        u.pc = (if x.hop = true then t.pc + 4 else t.pc) ∧ u.trap = t.trap ∧ u.claim = t.claim ∧
        u.ctl.clabel = t.ctl.clabel ∧ u.ctl.status = t.ctl.status ∧ u.ctl.seed = t.ctl.seed ∧
        (∀ r : Reg, r ≠ 0 → u.reg r = if x.carried.toNat.testBit r.val = true then t.reg r else ⟨0, true, true, 0⟩) ∧
        (s'.slot core slot).state = .occupied ∧ s'.mem = s.mem ∧
        (c + 29, Instr.migrationPlacedNotice t.core t.slot) ∈ s'.time.calendar
    (x.buffered = false → c < x.since + 4096 → ¬ home → ∀ core slot, s.arrivalSlot t.ident.part x.core = some (core, slot) →
      ∃ s', exec (.migrationArrival uid) s = .next s' ∧ landed s' core slot) ∧
    (x.buffered = false → c < x.since + 4096 → ¬ home → s.arrivalSlot t.ident.part x.core = none →
      (s.bufferedAt (if isCompute x.core = true then x.core / 8 else x.core) t.ident.part).length <
        (if isCompute x.core = true then 128 else 16) →
      ∃ s' u, exec (.migrationArrival uid) s = .next s' ∧ s'.thread uid = some u ∧ u.run = t.run ∧
        u.transit = some { x with buffered := true } ∧ u.regs = t.regs ∧ s'.slots = s.slots) ∧
    (x.via = none → exec (.migrationResend uid) s =
      .next { s with time := { s.time with calendar := s.time.calendar ++ [(c + x.legs, .migrationArrival uid)] } }) ∧
    (∀ va kind, x.via = some (va, kind) → ∃ s' q, exec (.migrationResend uid) s = .next s' ∧ s'.t = s.t ∧ s'.mem = s.mem ∧
      q ∈ s'.trans.reqs ∧ q.va = va ∧ q.kind = kind ∧ q.part = t.ident.part ∧ q.hub = va.toNat / 2 ^ 13 % 4 ∧
      q.dest = (if x.hop = true then .hop uid else .migrate uid) ∧
      (c + leg (t.flits x.carried), Instr.translationRequest q.id) ∈ s'.time.calendar) ∧
    (∀ core, c < x.since + 4096 → s.bufferedAt (if isCompute core = true then core / 8 else core) t.ident.part = [t] →
      ∀ core' slot, s.arrivalSlot t.ident.part core = some (core', slot) →
      ∃ s', exec (.arrivalBufferPlace core t.ident.part) s = .next s' ∧ landed s' core' slot) ∧
    (c = x.since + 4096 →
      ∃ s' u, exec (.migrationFallback uid) s = .next s' ∧ s'.thread uid = some u ∧ u.run = .ready ∧ u.transit = none ∧
        u.proxy = !x.hop ∧ u.pc = (if x.hop = true then t.pc + 4 else t.pc) ∧ u.regs = t.regs ∧ u.core = t.core ∧
        u.slot = t.slot ∧ s'.mem = s.mem ∧
        ∀ p ∈ s.parts, p.num = t.ident.part → ∃ p' ∈ s'.parts, p'.num = p.num ∧ p'.migFallback = p.migFallback + 1)

/-- The notice of a migrating thread's placement (R249): the slot that it left becomes HELD. -/
def MigrationPlaced : Prop :=
  ∀ (s : State) (core slot : Nat) (t : Thread),
    (s.threads.find? fun t => t.ident.core0 = core && t.ident.slot0 = slot && t.run != .ended && t.run != .saved) = some t →
    ¬ (t.core = core ∧ t.slot = slot) → (s.slot core slot).core = core → (s.slot core slot).slot = slot →
    ∃ s', exec (.migrationPlacedNotice core slot) s = .next s' ∧ s'.t = s.t ∧ s'.mem = s.mem ∧
      s'.slot core slot = { s.slot core slot with state := .held }

/-- The ends of timed waits (R326, R328): `sleep` and `park` that time out, and an event of a wait that has ended, which changes nothing. -/
def TimeoutEvents : Prop :=
  ∀ (s : State) (uid : Nat) (t : Thread), s.thread uid = some t →
    (∀ (d : Reg) (l : Word) (k : Nat), t.run = .sleeping → t.prog = .stage d.val l k →
      ∃ s' u, exec (.sleepTimeout uid t.stamp) s = .next s' ∧ s'.thread uid = some u ∧ u.pc = t.pc + 4 ∧ u.run = .ready ∧
        u.prog = .fresh ∧ u.ctl = t.ctl ∧ (d ≠ 0 → u.reg d = ⟨0x20, true, false, t.ctl.clabel ||| l.setWidth 32⟩) ∧
        (∀ r, r ≠ d → u.reg r = t.reg r) ∧ s'.mem = s.mem ∧ s'.slots = s.slots) ∧
    (∀ n, n ≠ t.stamp → exec (.sleepTimeout uid n) s = .next s) ∧
    (∀ (w : Waiter) (a : Acc) (f : Fill), (s.fab.waiters.find? fun w => w.acc = a.id && w.watch) = some w → w.acc = a.id →
      s.acc? a.id = some a → a.uid = uid → a.fill = some f.id → s.fill? f.id = some f → f.parts = 1 → f.vals.length = 1 →
      ∃ s', exec (.parkTimeout uid a.id) s = .next s' ∧ s'.mem = s.mem ∧
        answered s' f.id 0x20 (s.time.cycle + (match a.klass with | 0 => 2 | 1 => 4 | 2 => 7 | _ => 11) + f.legs) ∧
        (∀ v ∈ s'.fab.waiters, v.acc ≠ a.id) ∧ ∀ v ∈ s'.fab.accs, v.id ≠ a.id) ∧
    (∀ n, (s.fab.waiters.find? fun w => w.acc = n && w.watch) = none → exec (.parkTimeout uid n) s = .next s)

/-- The events of ordering (R330 to R332, R344, R346): a barrier's unit answers an arrival with its phase and counts it, and the last arrival completes the
phase; an arrival waits for its thread's causal past (a deduction, log entry 94); a wait for the phase that runs is listed, and one for the
phase before it answered OK, with the past of the Pan's die; its fill gives the phase and the label of the barrier at that moment; a global fence takes its number; and every 65,536 cycles the entries of VCLOCK that STABLE has reached
become 0. -/
def OrderingEvents : Prop :=
  ∀ (s : State),
    (∀ (pan : Nat) (r : BarReq) (g : Gang) (b : Barrier) (f : Fill),
      (s.fab.bars.filter fun x => x.pan = pan && x.due ≤ s.time.cycle && !x.listed) = [r] →
      s.gang? r.gang = some g → g.bars[r.n]? = some b →
      (r.wait = false → s.barWaits r = false → s.fill? r.fill = some f → f.parts = 1 → f.vals.length = 1 →
        ∃ s' g', exec (.barrierRequest pan s.time.cycle) s = .next s' ∧ s'.mem = s.mem ∧ s'.gang? r.gang = some g' ∧
          answered s' r.fill (BitVec.ofNat 64 b.phase) (s.time.cycle + 8 + f.legs) ∧
          g'.bars[r.n]? = some (if b.arrived + 1 = b.parts then
            { b with phase := (b.phase + 1) % 2 ^ 16, arrived := 0, lb := b.lb ||| r.label }
            else { b with arrived := b.arrived + 1, lb := b.lb ||| r.label })) ∧
      (s.barWaits r = true → ∃ s', exec (.barrierRequest pan s.time.cycle) s = .next s' ∧ s'.mem = s.mem ∧ s'.gangs = s.gangs ∧
        s'.fab.bars = (s.fab.bars.map fun x => if x.fill = r.fill then { x with due := s.time.cycle + 1 } else x) ∧
        (s.time.cycle + 1, Instr.barrierRequest pan (s.time.cycle + 1)) ∈ s'.time.calendar) ∧
      (r.wait = true → b.phase = (r.token + 1) % 2 ^ 16 → r.token < 2 ^ 16 → s.fill? r.fill = some f → f.parts = 1 →
        f.vals.length = 1 → ∀ t, s.thread r.uid = some t →
        ∃ s' u, exec (.barrierRequest pan s.time.cycle) s = .next s' ∧ s'.mem = s.mem ∧ s'.gangs = s.gangs ∧
          answered s' r.fill 0 (s.time.cycle + 8 + f.legs) ∧ s'.thread r.uid = some u ∧
          u.ctl.vclock = joinClock t.ctl.vclock (s.dclock r.pan)) ∧
      (r.wait = true → b.phase = r.token → r.token < 2 ^ 16 →
        ∃ s', exec (.barrierRequest pan s.time.cycle) s = .next s' ∧ s'.mem = s.mem ∧ s'.gangs = s.gangs ∧
          s'.fab.bars = s.fab.bars.map fun x => if x.fill = r.fill then { x with listed := true } else x)) ∧
    (∀ (f : Fill) (g : Gang) (b : Barrier) (n : Nat) (d : Reg) (v : Word), s.fill? f.id = some f → f.uid = s.t.ident.uid →
      f.kind = .phase g.gid n → f.regs = [d] → f.vals = [v] → f.err = none → f.discard = false → f.resume = true → f.advance = true →
      s.t.run = .reply → s.t.late = none → s.gang? g.gid = some g → g.bars[n]? = some b → d ≠ 0 →
      ∃ s', exec (.resultFill f.id) s = .next s' ∧ s'.mem = s.mem ∧ s'.t.pc = s.t.pc + 4 ∧ s'.t.run = .ready ∧
        s'.t.reg d = ⟨v ||| BitVec.ofNat 64 (b.phase * 2 ^ 16), true, false, f.label ||| b.lb⟩ ∧
        s'.t.ctl.clabel = s.t.ctl.clabel ||| f.join ||| b.lb) ∧
    (∀ (uid : Nat) (t : Thread), s.thread uid = some t → t.prog = .asked s.time.cycle →
      let g := joinClock s.clocks.gclock t.ctl.vclock
      ∃ s' u, exec (.globalFenceOrdering uid) s = .next s' ∧ s'.clocks.gcount = s.clocks.gcount + 1 ∧ s'.mem = s.mem ∧
        s'.thread uid = some u ∧ u.prog = .answered 0 0 ∧ u.ctl.vclock = joinClock t.ctl.vclock g ∧ u.regs = t.regs ∧ u.pc = t.pc) ∧
    (∃ s', exec .vclockZeroing s = .next s' ∧ s'.mem = s.mem ∧ s'.t.regs = s.t.regs ∧
      (s.time.cycle + 65536, Instr.vclockZeroing) ∈ s'.time.calendar ∧
      ∀ k, k < s.t.ctl.vclock.length → s'.t.ctl.vclock.getD k 0 =
        (let v := s.t.ctl.vclock.getD k 0
         let m := s.clocks.stable.getD k 0
         if v ≠ 0 ∧ m ≠ 0 ∧ serialGe m v = true then 0 else v))

/-- The heartbeat's miss (R401, R402): a thread in rotation whose HBCNT has reached HBINT stops where its instruction is, every other thread of its gang has BEAT pending with its
number, unless one is pending already, and it is looked at again in 16 cycles (the model's choice, log entry 96). -/
def HeartbeatMiss : Prop :=
  ∀ (s : State) (uid : Nat) (t : Thread), s.thread uid = some t → t.run = .ready → uid = t.ident.uid → t.ctl.hbint ≤ t.ctl.hbcnt →
    ∃ s', exec (.heartbeatMiss uid) s = .next s' ∧ s'.mem = s.mem ∧
      (∃ u, s'.thread uid = some u ∧ u.run = .fencing ∧ u.pc = t.pc ∧ u.regs = t.regs) ∧
      (s.time.cycle + 16, Instr.heartbeatMiss uid) ∈ s'.time.calendar ∧
      ∀ x ∈ s.threads, x.ident.gang = t.ident.gang → x.ident.uid ≠ uid → x.run = .ready → x.pending = [] →
        s.threads.Pairwise (fun p q => p.ident.uid ≠ q.ident.uid) →
        ∃ y, s'.thread x.ident.uid = some y ∧ y.pending = [⟨.beat, 0, BitVec.ofNat 64 t.ident.lthread, 0⟩]

/-! ## Events of the fabric, of translation and of the shared store -/

/-- A request stands at the end of its bank's queue, which will look at it (R208). -/
def atBank (s s' : State) (a : Acc) (n pa : Nat) : Prop :=
  s'.mem = s.mem ∧ s'.t = s.t ∧ (s'.bank n (bankOf pa)).queue = (s.bank n (bankOf pa)).queue ++ [a.id] ∧
    (max a.due s.time.cycle, Instr.bankArbitration n (bankOf pa)) ∈ s'.time.calendar ∧
    ∃ x, s'.acc? a.id = some x ∧ x.state = .queued ∧ x.op = a.op ∧ x.label = a.label

/-- Posted and proxied accesses (R252, R254, R255, R315, R329, R343): a request that arrives at a Pan's store goes to its bank; a write from another die
whose causal past is not applied, or by a link behind an earlier one of its port (R347; over all dies: the model's choice, log entry 84), waits, and is released when it may be; an acknowledgement ends a posted write, a reduction's lowering PENDRED; and a posted
wake sets the bit of a slot that its placement thread holds. -/
def PostedAccessEvents : Prop :=
  ∀ (s : State) (a : Acc) (n pa k : Nat) (v : Word), s.acc? a.id = some a →
    let past := a.cross = false ∨ ((∀ b ∈ s.fab.accs, a.port = none ∨ b.port ≠ a.port ∨ a.id ≤ b.id ∨ b.state = .performed) ∧ (s.die a.loc.die).pairDone.getD a.srcDie 0 = a.pair ∧ s.causalOk a.loc.die a.clock a.srcDie = true)
    (a.loc = .pan n pa → a.op = .store k v → past →
      ∃ s', exec (.postedWriteArrival a.id) s = .next s' ∧ atBank s s' a n pa) ∧
    (¬ past → ∃ s', exec (.postedWriteArrival a.id) s = .next s' ∧ s'.mem = s.mem ∧ s'.t = s.t ∧ s'.time = s.time ∧
      ∃ x, s'.acc? a.id = some x ∧ x.state = .arrived ∧ x.op = a.op) ∧
    (a.loc = .pan n pa →
      ∃ s', exec (.proxiedAccess a.id) s = .next s' ∧ atBank s s' a n pa) ∧
    (a.loc = .pan n pa → a.op = .store k v → past → a.state = .arrived →
      (s.fab.accs.find? fun x => x.state == .arrived && x.srcDie = a.srcDie && x.loc.die = a.loc.die && s.applicable x) = some a →
      ∃ s', exec (.crossDieWriteApply a.srcDie a.loc.die) s = .next s' ∧ atBank s s' a n pa) ∧
    (∃ s', exec (.postedWriteAck a.id) s = .next s' ∧ s'.mem = s.mem ∧ s'.acc? a.id = none ∧
      (a.op.isRed = false → s'.t = s.t) ∧
      (a.op.isRed = true → a.uid = s.t.ident.uid →
        s'.t = { s.t with ctl := { s.t.ctl with pendred := s.t.ctl.pendred - 1 } })) ∧
    (∀ (core slot : Nat) (sup : Bool) (u : Thread), a.op = .wakeSlots core (2 ^ slot) sup → slot < 16 →
      (s.slotMask a.part core).testBit slot = true →
      (s.threads.find? fun t => t.ident.core0 = core && t.ident.slot0 = slot && t.run != .ended && t.run != .saved) = some u →
      (∀ t ∈ s.threads, t.core = core → t.slot = slot → t.ident.core0 = core ∧ t.ident.slot0 = slot) →
      u.run = .ready → (s.slot core slot).state = .occupied ∨ (s.slot core slot).state = .held →
      ∃ s', exec (.postedWakeArrival a.id) s = .next s' ∧ s'.mem = s.mem ∧ (s'.slot core slot).wake = true ∧
        (s'.slot core slot).wakeLabel = (s.slot core slot).wakeLabel ||| a.label)

/-- Translation at a hub (R235, R236): a request whose leaf the hub holds is answered after 4 cycles; a miss takes one of 64 walkers, whose reads
it lasts; the answer to a posted write's request is kept for it and returns its thread to rotation one leg later. -/
def TranslationEvents : Prop :=
  ∀ (s : State) (q : TransReq), (s.trans.reqs.find? fun x => x.id = q.id) = some q →
    let c := s.time.cycle
    ((s.hubLeaf q.hub q.part q.va.toNat).isSome = true →
      exec (.translationRequest q.id) s =
        .next { s with time := { s.time with calendar := s.time.calendar ++ [(c + 4, .translationWalkDone q.id)] } }) ∧
    ((s.hubLeaf q.hub q.part q.va.toNat) = none → (s.trans.reqs.filter fun x => x.hub = q.hub && x.walking).length < 64 →
      ∃ s' x, exec (.translationRequest q.id) s = .next s' ∧ s'.t = s.t ∧ s'.mem = s.mem ∧
        (s'.trans.reqs.find? fun x => x.id = q.id) = some x ∧ x.walking = true ∧ x.missed = true ∧
        (c + s.walkTime q.hub q.part q.va.toNat, Instr.translationWalkDone q.id) ∈ s'.time.calendar) ∧
    (∀ uid, q.dest = .posted uid → q.walking = false →
      ∃ s' x, exec (.translationWalkDone q.id) s = .next s' ∧ s'.t = s.t ∧
        (s'.trans.reqs.find? fun x => x.id = q.id) = some x ∧ x.answer = some (s.reqAnswer q).1 ∧ x.walking = false ∧
        ∃ f ∈ s'.fab.fills, f.uid = uid ∧ f.regs = [] ∧ f.resume = true ∧ (c + 29, Instr.resultFill f.id) ∈ s'.time.calendar)

/-- Code fetch and the shared store's fills (R84 to R87, R144, R239, R241, R409): a block's reply installs the line that a core waits for, with the
bytes of the shared store, once the reader's causal past is applied there and its channel lets it pass (the sectors of a block count
at once when it passes: the model's choice, log 110; what waits is looked at again every 4 cycles, log 97), or keeps its fault (for its line alone: log 33): PROT for a fetch in task mode of a page that is not
task-accessible, before any other. A burst that its regulator allows and whose turn it is returns 150 cycles later; one that the regulator does not
allow is held; a fill that returns ends. -/
def FetchAndFillEvents : Prop :=
  ∀ (s : State) (r : FetchRead) (f : L2Fill) (core line : Nat) (task : Bool),
    let c := s.time.cycle
    ((s.fetch.reads.find? fun x => x.id = r.id) = some r → r.wants = [(core, line, task)] → r.failed = none →
      ∀ pa, r.pa = some pa → (∀ k, k < 8 → s.mem.bad (.hbm (pa + 32 * k)) = false) → pa % 256 = 0 →
      let z := (Loc.hbm pa).die
      (s.causalOk z r.clock z = true → s.blockWait r.part pa r.noalloc ≠ 0 →
        exec (.fetchLineInstall r.id) s = .next (s.schedule (c + s.blockWait r.part pa r.noalloc) (.fetchLineInstall r.id))) ∧
      (s.causalOk z r.clock z = true → s.blockWait r.part pa r.noalloc = 0 → r.deny = none ∨ task = false →
        ∃ s', exec (.fetchLineInstall r.id) s = .next s' ∧ s'.t = s.t ∧
          (∀ x ∈ s'.fetch.reads, x.id ≠ r.id) ∧
          ∃ y ∈ s'.fetch.ilines, y.core = core ∧ y.line = line ∧ y.part = r.part ∧ y.data.length = 32 ∧ y.deny = r.deny ∧
            ∀ k, k < 32 → y.data[k]? = some (s'.mem.gbyte (pa + line % 8 * 32 + k))) ∧
      (s.causalOk z r.clock z = true → s.blockWait r.part pa r.noalloc = 0 → ∀ info, r.deny = some info → task = true →
        ∃ s', exec (.fetchLineInstall r.id) s = .next s' ∧ s'.t = s.t ∧ s'.fetch.ilines = s.fetch.ilines ∧
          s'.fetch.faults = s.fetch.faults ++ [⟨core, r.part, true, line, 7, info⟩]) ∧
      (s.causalOk z r.clock z = false →
        exec (.fetchLineInstall r.id) s = .next (s.schedule (c + 1) (.fetchLineInstall r.id)))) ∧
    ((s.fetch.reads.find? fun x => x.id = r.id) = some r → r.wants = [(core, line, task)] → r.deny = none →
      ∀ code info, r.failed = some (code, info) →
      ∃ s', exec (.fetchLineInstall r.id) s = .next s' ∧ s'.t = s.t ∧ s'.mem = s.mem ∧ s'.fetch.ilines = s.fetch.ilines ∧
        s'.fetch.faults = s.fetch.faults ++ [⟨core, r.part, task, line, code, info⟩]) ∧
    ((s.mem.l2fills.find? fun x => x.id = f.id && !x.sent) = some f →
      let ch := lineSlice f.line
      (s.capped ch f.part = false → s.behind ch = 0 → (s.served ch = none ∨ ∃ x, s.served ch = some x ∧ x.id = f.id) →
        ∃ s', exec (.l2FillBurst f.id) s = .next s' ∧ s'.t = s.t ∧
          (c + 150, Instr.hbmFillReturn f.id) ∈ s'.time.calendar ∧ ∀ x ∈ s'.mem.l2fills, x.id = f.id → x.sent = true) ∧
      (s.capped ch f.part = false → s.behind ch = 0 → (∃ x, s.served ch = some x ∧ x.id ≠ f.id) →
        exec (.l2FillBurst f.id) s = .next (s.schedule (c + 1) (.l2FillBurst f.id))) ∧
      (s.capped ch f.part = false → s.behind ch ≠ 0 →
        exec (.l2FillBurst f.id) s = .next (s.schedule (c + s.behind ch) (.l2FillBurst f.id))) ∧
      (s.capped ch f.part = true →
        exec (.l2FillBurst f.id) s = .next { s with ctrl := { s.ctrl with held := s.ctrl.held ++ [f.id] } })) ∧
    ((s.mem.l2fills.find? fun x => x.id = f.id) = some f → s.unswept f.line (s.fillMask f) = true →
      exec (.hbmFillReturn f.id) s = .next (s.schedule (c + 4) (.hbmFillReturn f.id))) ∧
    ((s.mem.l2fills.find? fun x => x.id = f.id) = some f → s.unswept f.line (s.fillMask f) = false → f.waiting = [] →
      ∃ s', exec (.hbmFillReturn f.id) s = .next s' ∧ s'.t = s.t ∧ s'.mem.pan = s.mem.pan ∧
        (∀ x ∈ s'.mem.l2fills, x.id ≠ f.id) ∧ (s.canonical → s'.canonical))

/-- The causal clocks and the regulators (R344, R409, R411, R412): every 256 cycles the dies report and the beat returns; a report is kept and STABLE is the serial
minimum of the others (the way of a report is the model's choice, log entry 22); every 1,400 cycles the counts restart and deratings take effect; a channel is derated once, from the next window; and a sweep goes on
every 4 cycles. -/
def ClockAndRegulatorEvents : Prop :=
  ∀ (s : State) (die slice : Nat) (counts : List Nat),
    let c := s.time.cycle
    (∃ s', exec .clockBeat s = .next s' ∧ s'.t = s.t ∧ s'.mem = s.mem ∧ (c + 256, Instr.clockBeat) ∈ s'.time.calendar ∧
      ∀ z, z < 12 → ∃ l, (c + 31, Instr.dclockReport z l) ∈ s'.time.calendar) ∧
    (∃ s', exec (.dclockReport die counts) s = .next s' ∧ s'.t = s.t ∧ s'.mem = s.mem ∧ s'.time = s.time ∧
      s'.clocks.reports = s.clocks.reports.set die counts ∧
      s'.clocks.stable = stableOf (s.clocks.reports.set die counts)) ∧
    (s.ctrl.held = [] → ∃ s', exec .regulatorWindow s = .next s' ∧ s'.t = s.t ∧ s'.mem = s.mem ∧
      s'.ctrl.derated = s.ctrl.derated ++ s.ctrl.derating ∧ s'.ctrl.derating = [] ∧ s'.ctrl.moved = [] ∧ s'.ctrl.since = c ∧
      (c + 1400, Instr.regulatorWindow) ∈ s'.time.calendar) ∧
    (slice ∈ s.ctrl.derated ∨ slice ∈ s.ctrl.derating → exec (.channelDerate slice) s = .next s) ∧
    (slice ∉ s.ctrl.derated → slice ∉ s.ctrl.derating →
      ∃ s', exec (.channelDerate slice) s = .next s' ∧ s'.ctrl = { s.ctrl with derating := slice :: s.ctrl.derating } ∧ s'.t = s.t ∧
        s'.mem = s.mem) ∧
    (∀ (r : Resize) (code : Nat), s.dev.resize = some r → (r.sweeps.find? fun x => x.1 = slice) = some (slice, code) →
      code / 2 ^ 16 + 1 < 256 * onesBelow 16 (code % 2 ^ 16) →
      ∃ s' r', exec (.waySweep slice) s = .next s' ∧ s'.t = s.t ∧ s'.mem.pan = s.mem.pan ∧ s'.dev.resize = some r' ∧
        (r'.sweeps.find? fun x => x.1 = slice) = some (slice, code + 2 ^ 16) ∧ (c + 4, Instr.waySweep slice) ∈ s'.time.calendar ∧
        ∀ l, s.sweepLine slice (code % 2 ^ 16) (code / 2 ^ 16) = some l → s'.mem = s.mem.evict l)

/-! ## Events of the launch unit and of the fault queue -/

/-- A partition of a state by its number. -/
def part (s : State) (n : Nat) (p : Part) : Prop := s.part? n = some p

/-- The launch unit's intake (R40 to R43, R46): a host's bytes go to their staging slot, and a slot whose last byte is among them is submitted, its status
word telling the arrival number; a wait-on word that is full makes its launch eligible, and one that is not is read again after 4,096 cycles; aging asks
every partition for a pass. -/
def LaunchIntakeEvents : Prop :=
  ∀ (s : State) (v : VirtFn) (data : List Byte) (p : Part) (j : Job),
    (∀ off, s.dev.pwrgd = true → (s.vfs.find? fun x => x.num = v.num) = some v → off % 64 + data.length ≤ 63 → off + data.length ≤ 2048 →
      exec (.launchWindowSubmit v.num off data) s =
        .next { s with vfs := s.vfs.map fun (x : VirtFn) => if x.num = v.num then { x with staging := cellsWrite x.staging off data } else x }) ∧
    (∀ k, k < 32 → s.dev.pwrgd = true → (s.vfs.find? fun x => x.num = v.num) = some v → v.valid = true → data.length = 64 →
      let m := cellsWrite v.staging (64 * k) data
      let r := (List.range 64).map fun i => cellGet m (64 * k + i)
      let s1 : State := { s with vfs := s.vfs.map fun (x : VirtFn) => if x.num = v.num then { x with staging := cellsWrite x.staging (64 * k) data } else x }
      part s v.part p → p.num = v.part → p.retiring = false → s1.recordOk v.part r false = true → fieldAt r 0x20 8 = 0 →
      (p.unit.jobs.filter fun j => j.inv.isNone && j.prio = fieldAt r 0x17 1 && !j.closed).length < 256 →
      ∃ s', exec (.launchWindowSubmit v.num (64 * k) data) s = .next s' ∧ s'.t = s.t ∧ s'.mem = s.mem ∧
        (∃ v', (s'.vfs.find? fun x => x.num = v.num) = some v' ∧ v'.staging = m ∧
          (v'.status.find? fun x => x.1 = k) = some (k, BitVec.ofNat 64 (p.unit.arrivals * 2 ^ 16))) ∧
        ∃ p', part s' v.part p' ∧ ∃ x ∈ p'.unit.jobs, x.num = p.unit.arrivals ∧ x.image = fieldAt r 0 8 ∧ x.vf = some v.num ∧
          x.eligible = some s.time.cycle) ∧
    (part s p.num p → p.unit.jobs = [j] → j.eligible = none → j.closed = false →
      ∀ bs l, s.unitRead p.num (BitVec.ofNat 64 j.waiton) 8 = some (bs, l) → labelLe l (partLabel p.num) = true →
      ((bytesNat bs).testBit 63 = true → (j.flags.testBit 3 = true → bytesNat bs % 2 ^ 16 = 0) →
        ∃ s' p', exec (.waitonPoll p.num) s = .next s' ∧ s'.t = s.t ∧ s'.mem = s.mem ∧ part s' p.num p' ∧
          p'.unit.jobs = [{ j with eligible := some s.time.cycle }]) ∧
      ((bytesNat bs).testBit 63 = false →
        exec (.waitonPoll p.num) s = .next (s.scheduleOnce (s.time.cycle + 4096) (.waitonPoll p.num)))) ∧
    (∃ s', exec .priorityAging s = .next s' ∧ s'.t = s.t ∧ s'.mem = s.mem ∧ s'.parts = s.parts ∧
      ∀ q ∈ s.parts, (s.time.cycle, Instr.launchPlacementPass q.num) ∈ s'.time.calendar)

/-- The end of a launch and what reports it (R44, R45, R52, R393): the completion word of a job goes to the Pan's store with its tag full, and the job is gone;
vectors leave for the host, or set their pending bit where they are masked, and error completions go to the sender's fault queue. -/
def CompletionEvents : Prop :=
  ∀ (s : State) (p : Part) (j : Job) (vf vec : Nat) (ev : FaultEvent) (n pa : Nat) (x : Target),
    ((∀ v ∈ s.vfs, v.num = vf → v.masked.getLsbD vec = false) → exec (.msixRaise vf vec) s = .next { s with out := s.out ++ [.msix vf vec] }) ∧
    (∀ v ∈ s.vfs, v.num = vf → v.masked.getLsbD vec = true → ∃ s', exec (.msixRaise vf vec) s = .next s' ∧ s'.t = s.t ∧ s'.mem = s.mem ∧ s'.out = s.out ∧
      { v with pending := v.pending ||| BitVec.ofNat 64 (2 ^ vec) } ∈ s'.vfs) ∧
    exec (.handlerErrorCompletion p.num ev) s =
      .next { s with time := { s.time with agenda := s.time.agenda ++ [.faultQueueEvent p.num ev] } } ∧
    (part s p.num p → (p.unit.jobs.find? fun y => y.num = j.num) = some j → p.unit.jobs = [j] →
      s.wordMoves p.num j.completion = false → j.flags.testBit 2 = false →
      (j.completion = 0 → ∃ s' p', exec (.completionWrite p.num j.num) s = .next s' ∧ s'.mem = s.mem ∧ s'.t = s.t ∧
        part s' p.num p' ∧ p'.unit.jobs = []) ∧
      (j.completion ≠ 0 → s.canonical → s.fab.waiters = [] →
        s.placeOf p.num 0 (BitVec.ofNat 64 j.completion) writeKind false = .ok x → x.loc = .pan n pa →
        labelLe (partLabel p.num) x.label = true → j.status < 2 ^ 16 →
        ∃ s' p', exec (.completionWrite p.num j.num) s = .next s' ∧ s'.t = s.t ∧ part s' p.num p' ∧ p'.unit.jobs = [] ∧
          s'.mem.readAt (.pan n pa) 8 = j.status + j.ended % 2 ^ 32 * 2 ^ 16 + 2 ^ 63 ∧ s'.mem.tagFull n pa = true))

/-- An invocation that its handler's entry takes (R49 to R51, R147; the times of its way are the model's choice, log entry 27, and so is how an error is told to its sender, log entry 103): the job is accepted with the next arrival number and becomes eligible, and the sender in
the own chip has 0 as its answer; one whose sending partition the port's map gives no local partition is DENIED, by a message to the port. -/
def InvocationEvents : Prop :=
  ∀ (s : State) (i : Invocation) (p : Part) (e : List Byte) (f : Fill),
    (∀ k, i.port = some k → s.localOf k i.part = none → exec (.invocationArrival i) s = .next { s with out := s.out ++ [.answer k i.reply 2] }) ∧
    (i.part = some p.num → part s p.num p → i.port = none → p.retiring = false → p.regs.htbase ≠ 0 →
      s.unitRead p.num (p.regs.htbase + BitVec.ofNat 64 (32 * i.handler)) 32 = some (e, partLabel p.num) → entryOk e = true →
      Nat.land i.fromChip (fieldAt e 0xE 2) = Nat.land (fieldAt e 0xC 2) (fieldAt e 0xE 2) →
      labelLe (i.labels.foldl (fun u x => u ||| x) 0) (BitVec.ofNat 32 (fieldAt e 0x10 4)) = true →
      let prio := min i.prio (fieldAt e 0xA 1 % 4)
      (p.unit.jobs.filter fun j => j.inv.isSome && j.prio = prio).length < 64 →
      s.fill? i.reply = some f → f.parts = 1 → f.vals.length = 1 →
      ∃ s' p', exec (.invocationArrival i) s = .next s' ∧ s'.t = s.t ∧ s'.mem = s.mem ∧
        answered s' i.reply 0 (s.time.cycle + 45 + f.legs) ∧ part s' p.num p' ∧
        ∃ j ∈ p'.unit.jobs, j.num = p.unit.arrivals ∧ j.image = fieldAt e 0 8 ∧ j.gangsize = fieldAt e 8 2 ∧ j.prio = prio ∧
          j.gangcount = 1 ∧ j.eligible = some s.time.cycle ∧ j.inv.map Invocation.data = some i.data)

/-- A pass of placement (R15, R47, R61, R62): a partition without work is left as it is; a started launch with one gang to place, in the one Pan of its
partition with slots and units enough, is placed in one step: its threads stand ready in the slots of R61, in task mode at the image's entry, with their
parameter and number in g1 and g2. -/
def PlacementPass : Prop :=
  ∀ (s : State) (p : Part) (j : Job) (h : Header) (n : Nat), part s p.num p → p.unit.folds = [] →
    (∀ g ∈ s.gangs, g.folded = none) →
    (p.unit.jobs = [] → exec (.launchPlacementPass p.num) s = .next s) ∧
    (p.unit.jobs = [j] → j.eligible ≠ none → j.closed = false → j.cancelled = false → j.hdr = some h → j.inv = none →
      j.next + 1 = j.gangcount → p.own.panmask = 2 ^ n → n < 8 → j.panmask = 0 →
      let places := s.freeSlots p.num n j.affinity
      j.gangsize ≤ places.length → h.barriers ≤ (s.freeUnits n).length → j.gangsize < 2 ^ 16 →
      ∃ s' g, exec (.launchPlacementPass p.num) s = .next s' ∧ s'.t = s.t ∧ s'.mem = s.mem ∧ s'.gangs = s.gangs ++ [g] ∧
        g.part = p.num ∧ g.pan = n ∧ g.seq = j.num ∧ g.num = BitVec.ofNat 64 (j.next + j.num * 2 ^ 32) ∧
        g.bars.length = h.barriers ∧ (∀ b ∈ g.bars, b.phase = 0 ∧ b.arrived = 0 ∧ b.parts = j.gangsize) ∧
        s'.others.length = s.others.length + j.gangsize ∧
        ∀ k, k < j.gangsize → ∃ t, s'.others[s.others.length + k]? = some t ∧ some (t.core, t.slot) = places[k]? ∧ t.run = .ready ∧
          t.mode = 0 ∧ t.ident.gang = g.gid ∧ t.ident.lthread = k ∧ t.pc = BitVec.ofNat 64 (j.image + 64 + h.entry) ∧
          (t.reg 1).val = (if h.paramsize = 0 then 0 else BitVec.ofNat 64 j.param) ∧ (t.reg 2).val = BitVec.ofNat 64 k ∧
          t.ctl.seed ≠ 0 ∧ (s'.slot t.core t.slot).state = .occupied)

/-- The fold of a gang (R64): one that the save arena has room for begins, and is looked at every 16 cycles (the model's choice, log entry 96) while its threads and engines run out; when all its threads are saved and its engines quiet what
R64 saves is saved. One that may not be folded stays, and the fold of one that is forced to end, or killed, is given up. -/
def FoldEvent : Prop :=
  ∀ (s : State) (part why : Nat) (g : Gang), s.gang? g.gid = some g →
    let again : Nat × Instr := (s.time.cycle + 16, .fold part g.gid why)
    (g.folding = false → s.canFold g = false → exec (.fold part g.gid why) s = .next s) ∧
    (g.folding = false → s.canFold g = true → ∃ s' g', exec (.fold part g.gid why) s = .next s' ∧ s'.t = s.t ∧ s'.mem = s.mem ∧
      s'.gang? g.gid = some g' ∧ g' = { g with folding := true } ∧ again ∈ s'.time.calendar) ∧
    (g.folding = true → g.forced = false → g.killed = none → (∀ t ∈ s.foldThreads g.gid, t.run ≠ .fencedAway) →
      ((∃ t ∈ s.foldThreads g.gid, t.run ≠ .saved) → exec (.fold part g.gid why) s = .next (s.schedule again.1 again.2)) ∧
      ((∀ t ∈ s.foldThreads g.gid, t.run = .saved) → (s.foldThreads g.gid).length = s.gangSize g.gid → s.enginesQuiet g.gid = true →
        (∀ x ∈ s.gangCmds g.gid, s.blockWaits x.1 x.2 = false) →
        ∀ s2, s.finishFold g = some s2 → exec (.fold part g.gid why) s = .next s2)) ∧
    (g.folding = true → g.forced = true ∨ g.killed ≠ none → s.dev.resize = none →
      ∃ s' g', exec (.fold part g.gid why) s = .next s' ∧ s'.t = s.t ∧ s'.mem = s.mem ∧ s'.time = s.time ∧ s'.gang? g.gid = some g' ∧
        g' = { g with folding := false })

/-- The fault queue (R392, R393): without a base an event is lost and counted, and takes a number (the model's choice, log entry 35); with an empty queue and an empty entry it is written there with its number, the
entry's tag full, and WR and the header rise; where it cannot be written it waits, and is tried every 1,024 cycles. -/
def FaultQueueEvents : Prop :=
  ∀ (s : State) (p : Part) (ev : FaultEvent) (n base : Nat), part s p.num p →
    let q := p.faults
    let next := (q.seq + 1) % 2 ^ 16
    let entry := base + 0x40 + 64 * (q.wr % 64)
    (p.regs.fqbase = 0 → ∃ s' p', exec (.faultQueueEvent p.num ev) s = .next s' ∧ s'.t = s.t ∧ s'.mem = s.mem ∧ part s' p.num p' ∧
      p'.faults = { q with seq := next, lost := min (q.lost + 1) 0xFFFF }) ∧
    (p.regs.fqbase ≠ 0 → q.queue = [] → s.fqPlace p = some (n, base) → s.mem.tagFull n entry = false → s.fab.waiters = [] →
      s.canonical → base % 4096 = 0 → base + 4160 ≤ 2 ^ 25 →
      ∃ s' p', exec (.faultQueueEvent p.num ev) s = .next s' ∧ s'.t = s.t ∧ part s' p.num p' ∧
        p'.faults = { q with seq := next, wr := (q.wr + 1) % 2 ^ 16 } ∧ s'.mem.tagFull n entry = true ∧
        s'.mem.readAt (.pan n entry) 8 =
          ev.code % 2 ^ 8 + ev.sub % 2 ^ 8 * 2 ^ 8 + q.seq % 2 ^ 16 * 2 ^ 16 + ev.detail % 2 ^ 32 * 2 ^ 32 ∧
        (∀ k, k < 7 → s'.mem.readAt (.pan n (entry + 8 * (k + 1))) 8 = (ev.words.getD k 0).toNat) ∧
        s'.mem.readAt (.pan n base) 8 = (q.wr + 1) % 2 ^ 16 + q.lost * 2 ^ 16 % 2 ^ 64) ∧
    (p.regs.fqbase ≠ 0 → q.queue = [] → q.retry = false → s.fqPlace p = none →
      ∃ s' p', exec (.faultQueueEvent p.num ev) s = .next s' ∧ s'.t = s.t ∧ s'.mem = s.mem ∧ part s' p.num p' ∧
        p'.faults = { q with seq := next, queue := [(q.seq, ev)], retry := true } ∧
        (s.time.cycle + 1024, Instr.faultQueueRetry p.num) ∈ s'.time.calendar) ∧
    (q.queue = [] → ∃ s' p', exec (.faultQueueRetry p.num) s = .next s' ∧ s'.t = s.t ∧ s'.mem = s.mem ∧ part s' p.num p' ∧
      p'.faults = { q with retry := false }) ∧
    (q.queue ≠ [] → s.fqPlace p = none → ∃ s' p', exec (.faultQueueRetry p.num) s = .next s' ∧ s'.t = s.t ∧ s'.mem = s.mem ∧
      part s' p.num p' ∧ p'.faults = { q with retry := true } ∧
      (s.time.cycle + 1024, Instr.faultQueueRetry p.num) ∈ s'.time.calendar)

/-! ## Events of the device manager -/

/-- Service requests (R408; the statuses that R408 leaves open are the model's choice, log entry 78): the request is taken (GO cleared), performed, and answered with its status: a ROOT in a frame of the partition becomes the root,
FRAMES allots the lowest free frames (the model's choice, log entry 48) and tells them, RELEASE frees frames, OWNERSHIP of a manager has the status of its set, and of another partition is DENIED,
and RETIRE marks the target. -/
def ServiceRequests : Prop :=
  ∀ (s : State) (p : Part) (k : Nat) (bs : List Byte), s.part? p.num = some p → s.requestSlot p.num k = some bs →
    let s1 := s.takeRequest p.num k bs
    let tag := fieldAt bs 2 2
    (∀ pa, pa = fieldAt bs 16 8 → pa % 2048 = 0 → (s1.frameOwner (pa / 8192)).valid = true → (s1.frameOwner (pa / 8192)).owner = p.num →
      exec (.root p.num k) s =
        .next ((s1.modPart p.num fun q => { q with regs := { q.regs with root := some pa } }).answerRequest p.num k tag 0)) ∧
    ((∀ q, s1.part? p.num = some q → Nat.land (fieldAt bs 17 1) q.own.colours = fieldAt bs 17 1) →
      1 ≤ fieldAt bs 16 1 → fieldAt bs 16 1 ≤ 60 → ∀ fs, fs = s1.freeFrames (fieldAt bs 17 1) (fieldAt bs 16 1) →
      (fs.length = fieldAt bs 16 1 → s1.part? p.num ≠ none →
        let s2 := fs.foldl (fun (s : State) f => s.allot p.num f) s1
        exec (.frames p.num k) s = .next (((List.zip (List.range (fieldAt bs 16 1)) fs).foldl (fun (s : State) x =>
          s.slotWord p.num k (4 + x.1) (BitVec.ofNat 64 x.2)) s2).answerRequest p.num k tag 0)) ∧
      (fs.length < fieldAt bs 16 1 → s1.part? p.num ≠ none →
        exec (.frames p.num k) s = .next (s1.answerRequest p.num k tag 1))) ∧
    (1 ≤ fieldAt bs 16 8 → fieldAt bs 16 8 ≤ 60 →
      let fs := (List.range (fieldAt bs 16 8)).map fun i => fieldAt bs (32 + 8 * i) 8
      ((∀ f ∈ fs, (s1.frameOwner f).valid = true ∧ (s1.frameOwner f).owner = p.num) →
        exec (.release p.num k) s = .next ((fs.foldl (fun (s : State) f => s.freeFrame f) s1).answerRequest p.num k tag 0)) ∧
      ((∃ f ∈ fs, (s1.frameOwner f).valid = false ∨ (s1.frameOwner f).owner ≠ p.num) →
        exec (.release p.num k) s = .next (s1.answerRequest p.num k tag 2))) ∧
    (∀ q, s1.part? p.num = some q →
      (q.manager = false → exec (.ownership p.num k) s = .next (s1.answerRequest p.num k tag 2)) ∧
      (q.manager = true → ∀ set l, s1.readVa p.num 0 (wordAt bs 16) 8192 false = .ok (set, l) →
        exec (.ownership p.num k) s = .next ((s1.submitSet set).2.answerRequest p.num k tag (s1.submitSet set).1))) ∧
    (k < 16 → fieldAt bs 16 1 % 32 = p.num → (∀ r ∈ s1.dev.retiring, r.part ≠ p.num) → s1.part? p.num ≠ none →
      exec (.retire p.num k) s = .next (s1.startRetire p.num ((wordAt bs 24).toNat.testBit 0) (some (p.num, k, tag)))) ∧
    (k < 16 → fieldAt bs 16 1 % 32 = p.num → (∃ r ∈ s1.dev.retiring, r.part = p.num) →
      exec (.retire p.num k) s = .next (s1.answerRequest p.num k tag 1)) ∧
    (∀ q, k < 16 → fieldAt bs 16 1 % 32 ≠ p.num → s1.part? p.num = some q → q.manager = false →
      exec (.retire p.num k) s = .next (s1.answerRequest p.num k tag 2))

/-- A set (R56, R66, R410): one outside the limits of R55 is RECORD, one that breaks R56 or R410 is DENIED, both with nothing changed; and while a resize runs an
ownership set is BUSY. -/
def OwnershipSets : Prop :=
  ∀ (s : State) (bs : List Byte),
    (s.setOf bs = none → s.submitSet bs = (3, s)) ∧
    (∀ set, s.setOf bs = some set →
      (setOk (set.map Prod.snd) = false ∨ regminsOk (set.map fun x => (x.2, x.1.firm)) = false → s.submitSet bs = (2, s)) ∧
      (setOk (set.map Prod.snd) = true → regminsOk (set.map fun x => (x.2, x.1.firm)) = true → s.dev.resize ≠ none →
        s.submitSet bs = (1, s)))

/-- A partition that begins to retire with nothing in progress (R416): it is marked, its retirement stands with the request's slot and TAG or as one of a reset,
and it is looked at 32 cycles later (the model's choice, log entry 81). -/
def RetirementBegins : Prop :=
  ∀ (s : State) (p : Part) (req : Option (Nat × Nat × Nat)), s.part? p.num = some p → p.unit.jobs = [] → s.colls = [] →
    s.engines = [] → (∀ t ∈ s.threads, t.ident.part ≠ p.num) → (∀ g ∈ s.gangs, g.part ≠ p.num) →
    ∀ force : Bool, ∃ s' p', s.startRetire p.num force req = s' ∧ s'.part? p.num = some p' ∧ p' = { p with retiring := true } ∧ s'.t = s.t ∧
      s'.mem = s.mem ∧ s'.gangs = s.gangs ∧ s'.dev.retiring = s.dev.retiring ++ [(⟨p.num, req, req.isNone, none⟩ : Retirement)] ∧
      (s.time.cycle + 32, Instr.retire p.num 16) ∈ s'.time.calendar

/-- The end of a retirement (R416 to R418; looked at every 32 cycles, log entry 81): with nothing of the partition left its key slot is erased, its frames read 0, and it is no
partition any more; with the frames released and the Rake's list done, the request is answered DONE with its TAG. -/
def RetirementEnds : Prop :=
  ∀ (s : State) (p : Part),
    (s.part? p.num = some p → s.abandonCmds p.num = s → s.retireReady p.num = true →
      (∀ r ∈ s.dev.retiring, r.part = p.num → r.erased = none) →
      ∃ s', exec (.retire p.num 16) s = .next s' ∧ s'.t = s.t ∧ s'.part? p.num = none ∧
        (s.time.cycle + 32, Instr.retire p.num 16) ∈ s'.time.calendar ∧
        ∀ o ∈ s.framesOf p.num, ∀ k, k < 8192 → s'.mem.gbyte (o.frame * 8192 + k) = 0) ∧
    (∀ (n k tag : Nat) (b : Bool) (t : Option Nat), s.part? p.num = none → s.dev.retiring = [⟨p.num, some (n, k, tag), b, t⟩] → s.framesOf p.num = [] →
      s.dev.rake.fin ≤ s.dev.rake.done →
      exec (.retire p.num 16) s = .next (({ s with dev := { s.dev with retiring := [] } } : State).answerRequest n k tag 0))

/-- A function level reset (R53, R417, R418; the frames are zeroed at once: the model's choice, log entry 82): the window's staging, status, masks and pending bits
are cleared, bound or not; the launches of the function that are not over are cancelled, in whichever partition they stand; and with OWNSMEM every byte of
the partition's frames is 0 and the partition retires, a retirement that a request began included. -/
def FunctionLevelReset : Prop :=
  ∀ (s : State) (v : VirtFn) (p : Part), s.vf? v.num = some v → s.part? v.part = some p → s.colls = [] → s.engines = [] →
    let cleared (n : Nat) (x : VirtFn) : VirtFn :=
      if x.num = n then { x with staging := [], status := [], masked := 0, pending := 0 } else x
    (∀ n, s.vf? n = none → (∀ q ∈ s.parts, q.unit.jobs = []) →
      ∃ s', exec (.functionLevelReset n) s = .next s' ∧ s' = { s with vfs := s.vfs.map (cleared n) }) ∧
    (v.ownsMem = false → (∀ q ∈ s.parts, q.unit.jobs = []) →
      ∃ s', exec (.functionLevelReset v.num) s = .next s' ∧ s' = { s with vfs := s.vfs.map (cleared v.num) }) ∧
    (v.ownsMem = false → s.parts.Pairwise (fun a b => a.num ≠ b.num) → ∃ s', exec (.functionLevelReset v.num) s = .next s' ∧ s'.t = s.t ∧ s'.mem = s.mem ∧
      s'.vfs = s.vfs.map (cleared v.num) ∧
      ∀ q ∈ s.parts, ∃ q', s'.part? q.num = some q' ∧ ∀ j ∈ q'.unit.jobs, j.vf = some v.num → j.cancelled = true ∨ j.closed = true) ∧
    (v.ownsMem = true → (∀ q ∈ s.parts, q.unit.jobs = []) → ∀ r, s.dev.retiring = [r] → r.part = v.part → r.reset = true →
      ∃ s', exec (.functionLevelReset v.num) s = .next s' ∧ s' = { s with vfs := s.vfs.map (cleared v.num) }) ∧
    (v.ownsMem = true → (∀ r ∈ s.dev.retiring, r.part ≠ v.part ∨ (r.reset = false ∧ r.erased = none)) → (∀ t ∈ s.threads, t.ident.part ≠ v.part) →
      p.retiring = true ∨ (∀ r ∈ s.dev.retiring, r.part ≠ v.part) →
      ∃ s' p', exec (.functionLevelReset v.num) s = .next s' ∧ s'.t = s.t ∧ s'.part? v.part = some p' ∧ p'.retiring = true ∧
        (∃ r ∈ s'.dev.retiring, r.part = v.part ∧ r.reset = true ∧ r.erased = some s.time.cycle) ∧
        ∀ o ∈ s.framesOf v.part, ∀ k, k < 8192 → s'.mem.gbyte (o.frame * 8192 + k) = 0)

/-- A slot that changes its owner (R67): at its handover turn a slot that no gang holds becomes SCRUB; one that a gang holds has the gang folded
first and is looked at again in 16 cycles (the model's choice, log entry 83); a slot that does not depart stays; and 64 cycles after the handover it is FREE. -/
def SlotResize : Prop :=
  ∀ (s : State) (core slot : Nat),
    let c := s.time.cycle
    (s.dev.resize = none → ∃ s', exec (.slotHandover core slot) s = .next s' ∧ s' = s) ∧
    (∀ r, s.dev.resize = some r →
      ((core, slot) ∉ r.slots → ∃ s', exec (.slotHandover core slot) s = .next s' ∧ s' = s) ∧
      ((core, slot) ∈ r.slots → s.gangsOn [(core, slot)] = [] →
        ∃ s', exec (.slotHandover core slot) s = .next s' ∧ s'.t = s.t ∧ s'.mem = s.mem ∧ (s'.slot core slot).state = .scrub ∧
          (c + 64, Instr.slotScrubDone core slot) ∈ s'.time.calendar ∧
          s'.dev.resize = some { r with slots := r.slots.filter (fun x => x ≠ (core, slot)), scrubs := r.scrubs ++ [(core, slot)] }) ∧
      ((core, slot) ∈ r.slots → s.gangsOn [(core, slot)] ≠ [] →
        ∃ s', exec (.slotHandover core slot) s = .next s' ∧ s'.t = s.t ∧ s'.mem = s.mem ∧
          (c + 16, Instr.slotHandover core slot) ∈ s'.time.calendar ∧
          (∀ gid ∈ s.gangsOn [(core, slot)], ∀ g : Gang, s.gang? gid = some g → g.folding = false → Instr.fold g.part gid 0 ∈ s'.time.agenda))) ∧
    ((s.slot core slot).state = .scrub →
      ∃ s', exec (.slotScrubDone core slot) s = .next s' ∧ s'.t = s.t ∧ s'.mem = s.mem ∧ (s'.slot core slot).state = .free ∧
        ∀ r, s.dev.resize = some r → r.moves ≠ [] → s'.dev.resize = some { r with scrubs := r.scrubs.filter fun x => x ≠ (core, slot) }) ∧
    ((s.slot core slot).state ≠ .scrub →
      ∃ s', exec (.slotScrubDone core slot) s = .next s' ∧ s'.t = s.t ∧ s'.mem = s.mem ∧ s'.slot core slot = s.slot core slot)

/-- Moves of pages (R69, R70): a page that begins to move has its moving bit set and nothing of it copied yet, and with nothing that holds it its
copy takes 10,240 cycles, made in one step at their end (the model's choice, log entry 17), and while a command holds it it is looked at again 16
cycles later (log entry 96); then the entry names the new frame, which holds the bytes of the old one, and the page moves no longer; a page of no
move stays. -/
def PageMoves : Prop :=
  ∀ (s : State) (part pan page : Nat),
    let e := s.mapEntry part pan page
    let c := s.time.cycle
    (e.moving = false → s.fab.ranges = [] → s.fab.waiters = [] →
      ∃ s', exec (.pageMove part pan page) s = .next s' ∧ s'.t = s.t ∧ s'.mem.pan = s.mem.pan ∧
        s'.mapEntry part pan page = { e with moving := true } ∧ (c + 10240, Instr.pageMoveRetire part pan page) ∈ s'.time.calendar) ∧
    (s.fab.waiters = [] →
      ∃ s', exec (.pageMove part pan page) s = .next s' ∧ s'.t = s.t ∧ s'.mem.pan = s.mem.pan ∧
        s'.mapEntry part pan page = { e with moving := true } ∧
        ((c + 10240, Instr.pageMoveRetire part pan page) ∈ s'.time.calendar ∨ (c + 16, Instr.pageMove part pan page) ∈ s'.time.calendar)) ∧
    (∀ (r : Resize) (m : PageMove), s.dev.resize = some r → (r.moves.find? fun m => m.part = part && m.pan = pan && m.page = page) = some m →
      e.valid = true → m.cellar < 128 → m.frame < 32 → s.engines = [] → s.fab.accs = [] → s.canonical →
      ∃ s', exec (.pageMoveRetire part pan page) s = .next s' ∧ s'.t = s.t ∧ s'.mem.hbm = s.mem.hbm ∧
        s'.mapEntry part pan page = { e with cellar := m.cellar, frame := m.frame, moving := false } ∧
        (∀ k, k < 8192 → cellGet s'.mem.pan (panKey pan (m.cellar * 2 ^ 18 + m.frame * 8192) + k) =
          cellGet s.mem.pan (panKey pan (e.cellar * 2 ^ 18 + e.frame * 8192) + k))) ∧
    ((∀ r, s.dev.resize = some r → ∀ m ∈ r.moves, ¬ (m.part = part ∧ m.pan = pan ∧ m.page = page)) →
      ∃ s', exec (.pageMoveRetire part pan page) s = .next s' ∧ s' = s)

/-- The end of a resize (R71): a cellar that has been cleared reads 0 and is its new owner's, if it has one; and an affected partition is told, its generation
one higher and its RESIZING bit clear. -/
def CellarAndResizeEnd : Prop :=
  ∀ (s : State) (pan cellar : Nat) (p : Part), s.part? p.num = some p →
    (∀ r : Resize, s.dev.resize = some r →
      let x := r.cellars.find? fun x => x.1 = pan && x.2.1 = cellar
      let owner := x.bind fun y => y.2.2
      x.isSome = true → owner = none ∨ owner = some p.num → p.regs.ownbase = 0 → pan < p.own.cellars.length → s.fab.waiters = [] →
      cellar < 128 → s.canonical →
      ∃ s' p', exec (.cellarClear pan cellar) s = .next s' ∧ s'.t = s.t ∧ s'.part? p.num = some p' ∧
        (owner = some p.num → p'.own.cellars.getD pan 0 = Nat.lor (p.own.cellars.getD pan 0) (2 ^ cellar)) ∧
        (owner = none → s'.parts = s.parts) ∧
        (∀ k, k < 2 ^ 18 → cellGet s'.mem.pan (panKey pan (cellar * 2 ^ 18) + k) = 0) ∧
        (r.moves ≠ [] → s'.dev.resize = some { r with cellars := r.cellars.filter fun x => !(x.1 = pan && x.2.1 = cellar) })) ∧
    (p.regs.ownbase = 0 ∨ s.fab.waiters = [] →
      ∃ s' p', exec (.resized p.num) s = .next s' ∧ s'.t = s.t ∧ (p.regs.ownbase = 0 → s'.mem = s.mem) ∧ s'.part? p.num = some p' ∧
        p' = { p with own := { p.own with gen := p.own.gen + 1, flags := p.own.flags % 2 } } ∧
        Instr.faultQueueEvent p.num ⟨0x20, 0, 0, [BitVec.ofNat 64 (p.own.gen + 1)]⟩ ∈ s'.time.agenda) ∧
    (∀ n, s.part? n = none → ∃ s', exec (.resized n) s = .next s' ∧ s' = s)

/-- The Rake (R69, R420; the list's restart, the kinds without an item and the number of a vat are the model's choice, log entry 80): an item appended to a list that is
done is begun; one appended to another waits its turn; a cellar that a page move reads or writes is looked at again in 16 cycles; when an item of its kind has been
cleared DONE rises and the next begins: a vat and a cellar then read 0, a slot in SCRUB is FREE, the thread of an occupied one has its registers zeroed and empty, and
its trap and control registers zeroed, the accumulators of a Press are 0, and so are the elements and masks of a lane; and a write of 1 to RAKESTAT clears
RESTARTED. -/
def RakeEvents : Prop :=
  ∀ (s : State) (value : Word),
    let r := s.dev.rake
    let kind := fieldOf value 0 3
    (6 ≤ kind → ∃ s', exec (.rakejob value) s = .next s' ∧ s' = s) ∧
    (rakeItem r.list r.done = none → ∃ s', exec .rakeItemDone s = .next s' ∧ s' = s) ∧
    (kind < 6 → r.done = r.fin → ∃ s', exec (.rakejob value) s = .next s' ∧ s'.t = s.t ∧ s'.mem = s.mem ∧
      s'.dev.rake = { r with list := [⟨kind, fieldOf value 3 29, 1⟩], done := 0, fin := 1 } ∧
      (s.time.cycle + rakeCycles kind, Instr.rakeItemDone) ∈ s'.time.calendar) ∧
    (kind < 6 → r.done ≠ r.fin → ∃ s', exec (.rakejob value) s = .next s' ∧ s' = { s with dev := { s.dev with
      rake := { r with list := r.list ++ [⟨kind, fieldOf value 3 29, 1⟩], fin := r.fin + 1 } } }) ∧
    (∃ s', exec (.rakestat value) s = .next s' ∧ s' = if value.getLsbD 1 then
      { s with dev := { s.dev with rake := { r with restarted := false } } } else s) ∧
    (∀ (target : Nat) (z : Resize) (m : PageMove), rakeItem r.list r.done = some (2, target) → s.dev.resize = some z → m ∈ z.moves → m.begun = true →
      target = m.pan * 128 + m.cellar → m.cellar < 128 → m.frame < 32 →
      exec .rakeItemDone s = .next (s.schedule (s.time.cycle + 16) .rakeItemDone)) ∧
    (∀ kind target, rakeItem r.list r.done = some (kind, target) → s.fab.waiters = [] →
      s.dev.resize = none ∨ kind = 0 ∨ 3 ≤ kind →
      ∃ s', exec .rakeItemDone s = .next s' ∧ s'.dev.rake = { r with done := r.done + 1 } ∧
        ((1 ≤ kind ∧ kind ≤ 4) ∨ (kind = 0 ∧ (s.slot (target / 16) (target % 16)).state = .scrub) → s'.t = s.t) ∧
        (kind = 0 → (s.slot (target / 16) (target % 16)).state = .scrub → (s'.slot (target / 16) (target % 16)).state = .free) ∧
        (kind = 0 → (s.slot (target / 16) (target % 16)).state = .occupied → s.t.core = target / 16 → s.t.slot = target % 16 →
          s.t.run = .ready → s'.t = { s.t with
            regs := Vector.replicate 32 ⟨0, false, false, 0⟩, trap := ⟨0, 0, 0, 0, 0, 0⟩
            ctl := { s.t.ctl with
              clabel := 0, live := 0, seed := 0, seedLabel := 0, nest := s.t.ctl.nest.map fun _ => 0, vclock := s.t.ctl.vclock.map fun _ => 0
              hbint := 0, hbcnt := 0, slotTimer := 0, wmsel := 0 } } ∧
            (s'.slot (target / 16) (target % 16)).wake = false) ∧
        (kind = 1 → ∀ k, k < 2 ^ 16 → cellGet s'.mem.pan (panKey (target / 512) (target % 512 * 2 ^ 16) + k) = 0) ∧
        (kind = 2 → ∀ k, k < 2 ^ 18 → cellGet s'.mem.pan (panKey (target / 128) (target % 128 * 2 ^ 18) + k) = 0) ∧
        (kind = 4 → ∀ e ∈ s'.engines, e.place = target → ∀ x, e.press = some x → ∀ a ∈ x.acc, a = 0) ∧
        (kind = 5 → ∀ (t : Thread) (k : Nat), s.poolClaims (target / 64) = [(k, t)] → t = s.t → k ≤ target % 64 → target % 64 < k + t.claim.lanes →
          s'.t = { s.t with claim := s'.t.claim } ∧ s'.t.claim.lanes = s.t.claim.lanes ∧
          (∀ v ∈ s'.t.claim.regs, ∀ (i : Nat) (x : BitVec 32), v.elems[i]? = some x → i / 16 = target % 64 - k → x = 0) ∧
          ∀ v ∈ s'.t.claim.masks, ∀ (i : Nat) (x : Bool), v.bits[i]? = some x → i / 16 = target % 64 - k → x = false) ∧
        (∀ k2 t2, rakeItem r.list (r.done + 1) = some (k2, t2) → (s.time.cycle + rakeCycles k2, Instr.rakeItemDone) ∈ s'.time.calendar))

/-- Budgets, telemetry and heat (R405, R414, R426): a period moves f by a sixteenth, down where the measured power is over the limit or a die is at 105 C or above,
replenishes the accounts and exports the telemetry; a partition that names no receiver exports nothing, and one that names a permitted one sends 128 bytes, and its
derate events then begin anew; and THERMTRIP at 115 C halts the part. What the sensors measure is open (assumptions 11 and 90). -/
def PeriodEvents : Prop :=
  ∀ (s : State) (p : Part) (temp : Nat),
    (let watts := if Config.isModule then 2400 else s.dev.plimit
     let hot := watts < Config.power s.dev.periods ∨ ∃ die, die < 12 ∧ 105 ≤ Config.dieTemp s.dev.periods die
     ∀ f : Nat, (hot → f = max 4 (s.dev.throttle - 1)) → (¬ hot → f = min 16 (s.dev.throttle + 1)) →
     ∃ s', exec .budgetPeriod s = .next s' ∧ s'.t = s.t ∧ s'.mem = s.mem ∧ s'.dev.throttle = f ∧ s'.dev.periods = s.dev.periods + 1 ∧
      (s.time.cycle + 140000, Instr.budgetPeriod) ∈ s'.time.calendar ∧
      (∀ q ∈ s.parts, Instr.telemetryExport q.num ∈ s'.time.agenda) ∧
      s'.parts = s.parts.map fun q => { q with
        accounts := (List.range 8).map fun n => replenished f q.budget (q.charged.getD n 0) (s.limited q) (q.accounts.getD n 0)
        charged := List.replicate 8 0 }) ∧
    (s.part? p.num = some p → (∀ e ∈ s.sec.policies, ¬ (e.dkind = 2 ∧ e.owner = p.num)) → exec (.telemetryExport p.num) s =
      .next { s with parts := s.parts.map fun q => if q.num = p.num then { q with derates := [] } else q }) ∧
    (∀ (e : Policy) (l : Label) (s1 : State), s.part? p.num = some p → s.sec.policies = [e] → e.dkind = 2 → e.owner = p.num →
      s.sluice p.num (partLabel p.num) (.telemetry e.dest) 128 = .ok (l, s1) →
      ∃ s' q, exec (.telemetryExport p.num) s = .next s' ∧ s'.out = s1.out ++ [.telemetry e.dest p.telemetry] ∧ p.telemetry.length = 128 ∧
        s'.t = s.t ∧ s'.mem = s.mem ∧ s'.part? p.num = some q ∧ q = { p with derates := [] }) ∧
    (115 ≤ temp → exec (.thermtrip temp) s =
      .next { s with dev := { s.dev with halted := true, tripped := some temp, pwrgd := false }, out := s.out ++ [.thermtrip] }) ∧
    (temp < 115 → exec (.thermtrip temp) s = .next s)

/-! ## Events of the engines -/

/-- No fence stands and no command waits for room in any engine, and no thread waits for the ticket of a command. -/
def quietEngines (s : State) (c : Cmd) : Prop :=
  (∀ e ∈ s.engines, e.fences = [] ∧ e.waits = []) ∧
    ∀ f ∈ s.fab.fills, f.awaits c.ticket c.src true = false ∧ f.awaits c.ticket c.src false = false

/-- A command has left its engine, with a status word for its ticket (R266). -/
def retiredAs (s' : State) (place : Nat) (c : Cmd) (w : Word) : Prop :=
  s'.cmd? place c.id = none ∧ ∃ r ∈ (s'.engine place).retired, r.part = c.part ∧ r.ticket = c.ticket ∧ r.status = w

/-- Copies (R261, R266, R276 to R278, R406): a segment that a range holds is looked at again in 16 cycles, and one whose causal past is not
yet applied (R343) in the next (the model's choice, log entry 96), and one whose sectors a memory controller does not pass yet when it does (log 110); one that has moved the last element
asks for the retirement; the retirement gives the ticket its status and changes no memory; a copy with a follow-on lands, and its Press command takes a place in the
Press queue when there is one, carrying the copy's causal past and that of the fences before it (R341); a fault halts the copy and its issuer has RACKFAULT pending; and a segment of 16,384 cycles ends its copy with ABORTED and WATCHDOG. -/
def CopyEvents : Prop :=
  ∀ (s : State) (place : Nat) (c : Cmd), s.cmd? place c.id = some c →
    let now := s.time.cycle
    (c.state = .started → s.heldBack place c = true →
      exec (.rackSegment place c.id) s =
        .next { s with time := { s.time with calendar := s.time.calendar ++ [(now + 16, .rackSegment place c.id)] } }) ∧
    (c.state = .started → s.heldBack place c = false → c.kind.isCopy = true →
      let r := s.runSegment place c
      let dies := s.segmentDies place c
      let late := s.pastMissing place c dies.1 (dies.2 ++ s.blockDies place c)
      (late = true → exec (.rackSegment place c.id) s = .next (s.schedule (now + 1) (.rackSegment place c.id))) ∧
      (late = false → s.segmentWait place c ≠ 0 →
        exec (.rackSegment place c.id) s = .next (s.schedule (now + s.segmentWait place c) (.rackSegment place c.id))) ∧
      (late = false → s.segmentWait place c = 0 → r.fault = none → r.waits = false → c.copy.elems ≤ r.i →
        ∃ s', exec (.rackSegment place c.id) s = .next s' ∧ s'.mem = r.s.mem ∧ Instr.rackRetire place c.id ∈ s'.time.agenda ∧
          ∀ x ∈ (s'.engine place).cmds, x.id = c.id → x.done = r.i ∧ x.read = c.read ||| r.read)) ∧
    (c.kind ≠ .tmove → c.follow = [] → quietEngines s c →
      ∃ s', exec (.rackRetire place c.id) s = .next s' ∧ s'.t = s.t ∧ s'.mem = s.mem ∧
        retiredAs s' place c (statusWord 0 0 c.flags c.done)) ∧
    (c.kind ≠ .tmove → c.follow ≠ [] →
      ∃ s' x, exec (.rackRetire place c.id) s = .next s' ∧ s'.t = s.t ∧ s'.mem = s.mem ∧ s'.cmd? place c.id = some x ∧
        x = { c with state := .landed, startAt := now } ∧ (now, Instr.followOnEnqueue place c.id) ∈ s'.time.calendar) ∧
    (c.state = .landed → s.queueRoom place c.part 6 = true → quietEngines s c → c.id < s.time.next → c.queue < 4 → c.follow ≠ [] →
      ∃ s', exec (.followOnEnqueue place c.id) s = .next s' ∧ s'.t = s.t ∧ s'.mem = s.mem ∧
        retiredAs s' place c (statusWord 0 0 c.flags c.done) ∧
        ∃ p ∈ (s'.engine place).cmds, p.kind = .press ∧ p.queue = 6 ∧ p.block = c.follow ∧ p.src = some c.ticket ∧ p.part = c.part ∧
          p.uid = c.uid ∧ p.bva = wordAt c.block 0x18 ∧ p.clock = joinClock c.clock (clockAt (s.engine place).fenced c.part 6)) ∧
    (s.queueRoom place c.part 6 = false → exec (.followOnEnqueue place c.id) s = .next s) ∧
    (∀ u, c.kind = .rackv → quietEngines s c → s.thread c.uid = some u → u.run = .ready → u.pending = [] →
      (∀ code addr, ∃ x, (s.copyFault place c code addr).cmd? place c.id = some x ∧ x.state = .halted ∧ x.cause = causeOf code ∧ x.fadr = addr ∧
        (s.copyFault place c code addr).thread c.uid = some { u with pending := [⟨.rackfault, addr, c.ticket, c.label ||| c.read⟩] }) ∧
      (c.state = .started → s.inSegment place c.id = true → c.startAt + 16384 ≤ now →
        ∃ s', exec (.rackWatchdog place c.id) s = .next s' ∧ s'.mem = s.mem ∧ retiredAs s' place c (statusWord 0x10A 0 c.flags c.done) ∧
          s'.thread c.uid = some { u with pending := [⟨.watchdog, 0, c.ticket, c.label ||| c.read⟩] })) ∧
    (now < c.startAt + 16384 ∨ s.inSegment place c.id = false → exec (.rackWatchdog place c.id) s = .next s)

/-- The bytes of a copy (R261, R271, R277, R278, R280): a segment of raw bytes from one page of the engine's own Pan store to another, both of which allow it, moves
them: each byte of the destination becomes that of the source, no other byte of the Pan store changes and none of global memory; DONE is their number, and the
retirement follows. -/
def CopyBytes : Prop :=
  ∀ (s : State) (place : Nat) (c : Cmd) (src dst : Word) (off off2 n : Nat), s.cmd? place c.id = some c →
    c.kind = .rackv → c.state = .started → c.done = 0 → c.block = rackvBlock src dst n → c.shape = [] →
    let pan := placePan place
    let e := s.mapEntry c.part pan (off / 8192)
    let d := s.mapEntry c.part pan (off2 / 8192)
    let at_ (e : MapEntry) (off : Nat) : Nat := panKey pan (e.cellar * 2 ^ 18 + e.frame * 8192 + off % 8192)
    classify pan src.toNat = .pan pan off → classify pan dst.toNat = .pan pan off2 → s.ownsPan c.part pan = true →
    1 ≤ n → off % 8192 + n ≤ 8192 → off2 % 8192 + n ≤ 8192 →
    e.valid = true → e.read = true → e.cellar < 128 → e.frame < 32 → d.valid = true → d.write = true → d.cellar < 128 → d.frame < 32 →
    e.cellar * 32 + e.frame ≠ d.cellar * 32 + d.frame → labelLe (e.label ||| c.label) d.label = true → s.mem.badWords = [] →
    s.heldBack place c = false → s.pastMissing place c (s.segmentDies place c).1 ((s.segmentDies place c).2 ++ s.blockDies place c) = false →
    s.segmentWait place c = 0 →
    ∃ s', exec (.rackSegment place c.id) s = .next s' ∧ s'.t = s.t ∧ s'.mem.hbm = s.mem.hbm ∧
      (∀ k, k < n → cellGet s'.mem.pan (at_ d off2 + k) = cellGet s.mem.pan (at_ e off + k)) ∧
      (∀ k, k < at_ d off2 ∨ at_ d off2 + n ≤ k → cellGet s'.mem.pan k = cellGet s.mem.pan k) ∧
      (∀ x ∈ (s'.engine place).cmds, x.id = c.id → x.done = n ∧ x.read = c.read ||| e.label) ∧ Instr.rackRetire place c.id ∈ s'.time.agenda

/-- Collectives (R283, R284; whose partition a message is sent as, and when rank 0 is told, are the model's choice, log entry 113): a member's contribution is read and sent to rank 0; the first is entered and its TIMEOUT begins; when all have come each
member is sent its result; a disagreement, and a timeout, abort it; and an abort ends a member's command with ABORTED. The group record is read when the
command is issued, and the TIMEOUT is that of the first contribution (the model's choice, log 59). -/
def CollectiveEvents : Prop :=
  ∀ (s : State) (m : CollMsg),
    (∀ (place : Nat) (c : Cmd) (bytes : List Byte) (l : Label), s.cmd? place c.id = some c → c.state = .started → c.kind = .coll →
      s.heldBack place c = false →
      let ts := s.givenPlaces place c
      s.pastMissing place c (s.runDies c.part (placePan place) [(wordAt c.block 0, c.contribution)] readKind c.task) [] = false →
      s.segmentWait place c = 0 →
      s.readVa c.part (placePan place) (wordAt c.block 0)
        c.contribution c.task = .ok (bytes, l) →
      (groupChips c.shape).getD 0 0 = s.dev.chip →
      ∃ s', exec (.rackSegment place c.id) s = .next s' ∧ s'.t = s.t ∧
        s'.mem = ((s.fillPlaces c.part c.gang ts).correctPlaces c.part c.gang false ts).mem ∧
        Instr.collContribution (c.collMsg s 0 bytes (c.label ||| l)) ∈ s'.time.agenda) ∧
    (m.port = none → m.role = 0 → s.coll? m.tag m.epoch = none → 2 ≤ m.members → 1 ≤ m.timeout →
      ∃ s', exec (.collContribution m) s = .next s' ∧ s'.t = s.t ∧ s'.mem = s.mem ∧
        s'.colls = s.colls ++ [⟨m.tag, m.epoch, m.kind, m.members, m.count, m.fmt, m.op, m.part, s.time.cycle, m.timeout, [m]⟩] ∧
        (s.time.cycle + m.timeout * 65536, Instr.collTimeout m.tag m.epoch) ∈ s'.time.calendar) ∧
    (∀ (c : Coll) (a : CollMsg), m.port = none → m.role = 0 → s.colls = [c] → c.tag = m.tag → c.epoch = m.epoch → c.given = [a] →
      a.role = 0 → c.timeout ≠ 0 → a.chip = s.dev.chip → m.chip = s.dev.chip →
      (c.members = 2 → c.agrees m = true → a.rank = 0 → m.rank = 1 →
        let answer (x : CollMsg) (r : Nat) : CollMsg :=
          { x with port := none, chip := s.dev.chip, role := 1, data := collResult [a, m] r, label := 0 ||| a.label ||| m.label }
        ∃ s', exec (.collContribution m) s = .next s' ∧ s'.t = s.t ∧ s'.mem = s.mem ∧ s'.colls = [] ∧
          s'.time.agenda = s.time.agenda ++ [.collContribution (answer a 0), .collContribution (answer m 1)]) ∧
      (c.agrees m = false →
        ∃ s', exec (.collContribution m) s = .next s' ∧ s'.t = s.t ∧ s'.mem = s.mem ∧
          Instr.collContribution { a with port := none, chip := s.dev.chip, role := 2, data := [], label := 0 } ∈ s'.time.agenda ∧
          Instr.collContribution { m with port := none, chip := s.dev.chip, role := 2, data := [], label := 0 } ∈ s'.time.agenda) ∧
      (c.since + c.timeout * 65536 = s.time.cycle →
        ∃ s', exec (.collTimeout m.tag m.epoch) s = .next s' ∧ s'.t = s.t ∧ s'.mem = s.mem ∧ s'.colls = [] ∧
          Instr.collContribution { a with port := none, chip := s.dev.chip, role := 2, data := [], label := 0 } ∈ s'.time.agenda) ∧
      (c.since + c.timeout * 65536 ≠ s.time.cycle → exec (.collTimeout m.tag m.epoch) s = .next s)) ∧
    (∀ (place : Nat) (c : Cmd), m.port = none → (s.collCmds fun c => c.isRank m && c.state == .started) = [(place, c)] → s.cmd? place c.id = some c → quietEngines s c →
      m.role = 2 → ∃ s', exec (.collContribution m) s = .next s' ∧ s'.t = s.t ∧ s'.mem = s.mem ∧
        retiredAs s' place c (statusWord 0x10A 0 c.flags c.done)) ∧
    (∀ (place : Nat) (c : Cmd) (s1 : State), m.port = none → (s.collCmds fun c => c.isRank m && c.state == .started) = [(place, c)] → m.role = 1 →
      let ts := s.runPlaces c.part (placePan place) [(wordAt c.block 8, m.data.length)] writeKind c.task
      s.pastMissing place c [] (s.runDies c.part (placePan place) [(wordAt c.block 8, m.data.length)] writeKind c.task) = false →
      s.placesWait c.part ts = 0 →
      (((s.fillPlaces c.part c.gang ts).correctPlaces c.part c.gang true ts).chargeUnits c.part c.gang (placePan place)
        ((m.data.length + 63) / 64)).writeVa c.part (placePan place) (wordAt c.block 8) m.data
        (m.label ||| c.label) c.task = (none, s1) →
      ∃ s', exec (.collContribution m) s = .next s' ∧ s'.mem = s1.mem ∧ (quietEngines s c → s'.cmd? place c.id = none)) ∧
    (s.coll? m.tag m.epoch = none → exec (.collTimeout m.tag m.epoch) s = .next s)

/-- A link that fails (R147, R284): its port is down and no longer attested (that its attestation ends is the model's choice, log entry 87), and an invocation outstanding on it is answered NOROUTE. -/
def LinkFailure : Prop :=
  ∀ (s : State) (port : Nat), s.colls = [] → s.engines = [] →
    let down := s.sec.ports.map fun (p : Port) => if p.num = port then { p with up := false, attested := false } else p
    (s.out = [] → exec (.linkFailure port) s = .next { s with sec := { s.sec with ports := down } }) ∧
    (∀ (chip : Nat) (i : Invocation) (f : Fill), s.out = [.invoke port chip i] → s.fill? i.reply = some f → f.parts = 1 → f.vals.length = 1 →
      ∃ s', exec (.linkFailure port) s = .next s' ∧ s'.t = s.t ∧ s'.mem = s.mem ∧ s'.sec.ports = down ∧
        answered s' i.reply 4 (s.time.cycle + f.legs))

/-- The Press (R287, R293, R294, R297, R299, R303): with nothing to serve it stays; a command that passes its start checks runs; a k-block adds its products to
the accumulators and raises PROGRESS; the last is followed by the write-back, which ends the operation; while an earlier write to the die of its block is not
applied (R343) it is looked at again in the next cycle (the model's choice, log entry 96); and after 16,384 cycles a running operation is to stop at
the end of its k-block. -/
def PressEvents : Prop :=
  ∀ (s : State) (place : Nat),
    let e := s.engine place
    let now := s.time.cycle
    let pan := placePan place
    (e.press = none → s.pressNext place none = none → exec (.pressOpStart place) s = .next s) ∧
    (∀ (c : Cmd) (l : Label) (s0 s1 : State), e.press = none → s.pressNext place none = some c → c.kind = .zero → s.takeUp place c false [] 0 = s0 →
      s0.pastMissing place c [pan] (s0.blockDies place c) = false → s0.heldBack place c = false →
      (s0.noteUse c.part 4 place).startChecks place c false 0 = (.ok l, s1) →
      ∃ s', exec (.pressOpStart place) s = .next s' ∧ s'.mem = s1.mem ∧
        (s'.engine place).press = some ⟨c.id, [], c.done, c.done, false, l, true⟩ ∧
        ∃ n, 16 ≤ n ∧ (now + n, Instr.pressOpRetire place) ∈ s'.time.calendar) ∧
    (∀ (r : PressRun) (c : Cmd), e.press = some r → s.cmd? place r.cmd = some c →
      let b := pressBlock c.block
      (s.blockWaits place c = true →
        exec (.pressKblock place) s = .next (s.schedule (now + 1) (.pressKblock place)) ∧
        exec (.pressOpRetire place) s = .next (s.schedule (now + 1) (.pressOpRetire place))) ∧
      (∀ (o : PressOp) (l : Label), s.blockWaits place c = false → s.mem.softWords = [] → s.pressOp c.part pan b = some o →
        s.blockChecks c pan b o r = .ok l → c.owed = false →
        ∃ s', exec (.pressKblock place) s = .next s' ∧ s'.t = s.t ∧ s'.mem = s.mem ∧
          (s'.engine place).press = some { r with
            acc := (stepAcc b (startAcc b r).1 (s.blockSums c pan b o r.block)).1, block := r.block + 1, label := l } ∧
          (r.block + 1 < b.k / 8 → (now + pressCpb o.cls o.fa o.fb b.da b.db (b.fn = 2), Instr.pressKblock place) ∈ s'.time.calendar) ∧
          (b.k / 8 ≤ r.block + 1 → (now + destCycles b (destBits b.complex o.fc), Instr.pressOpRetire place) ∈ s'.time.calendar)) ∧
      (s.blockWaits place c = false → c.kind = .zero → quietEngines s c →
        ∃ s', exec (.pressOpRetire place) s = .next s' ∧ (s'.engine place).press = none ∧ retiredAs s' place c (statusWord 0 0 c.flags 1)) ∧
      (∀ o, s.blockWaits place c = false → c.kind = .press → s.pressOp c.part pan b = some o →
        (s.chargeUnits c.part c.gang pan (pressUnits b o (r.block - r.first) (!r.cont && (b.fn ≠ 1 || 0 < r.first)) false)).pressNext place (some c.id) = none →
        quietEngines s c →
        ∃ s', exec (.pressOpRetire place) s = .next s' ∧ (s'.engine place).press = none ∧ s'.cmd? place c.id = none) ∧
      (now < c.startAt + 16384 → exec (.pressWatchdog place) s = .next s) ∧
      (c.startAt + 16384 ≤ now → s.blockWaits place c = false → r.running = true → c.kind = .press →
        ∃ s' x, exec (.pressWatchdog place) s = .next s' ∧ s'.t = s.t ∧ s'.mem = s.mem ∧ s'.cmd? place c.id = some x ∧ x = { c with owed := true }))

/-- The values of the Press (R290, R293, R294): a k-block of bytes, signed or unsigned, adds to the accumulator of C(m, n) the sum of the eight products of
A(m, k) and B(k, n), from 0 in the first block of an overwriting operation, saturated in ACC32I and wrapped in ACC64I; and at the end each accumulator of an
exact C stands in its place, low byte first, and no other byte of the Pan store has changed, where C lies in one page and the block in global memory. -/
def PressValues : Prop :=
  ∀ (s : State) (place : Nat) (c : Cmd) (r : PressRun) (o : PressOp), (s.engine place).press = some r → s.cmd? place r.cmd = some c → c.kind = .press →
    s.blockWaits place c = false →
    let pan := placePan place
    let b := pressBlock c.block
    s.pressOp c.part pan b = some o → b.complex = false → b.acc = .acc32i ∨ b.acc = .acc64i →
    (∀ (l : Label) (m n : Nat) (x : Int), s.blockChecks c pan b o r = .ok l → c.owed = false → o.fa = .int8 ∨ o.fa = .uint8 → o.fb = .int8 ∨ o.fb = .uint8 →
      b.fn ≠ 2 → b.ascale = 0 → b.bscale = 0 → m < b.m → n < b.n → r.acc[m * b.n + n]? = some x →
      let value (f : Fmt) (va : Word) : Int :=
        let k := s.mem.readAt (s.winPlace c.part pan va) 1
        if f = .int8 ∧ 128 ≤ k then (k : Int) - 256 else k
      let product (t : Nat) : Int :=
        value o.fa (b.a + BitVec.ofNat 64 (m * b.sa + (8 * r.block + t))) * value o.fb (b.b + BitVec.ofNat 64 ((8 * r.block + t) * b.sb + n))
      let sum : Int := (if b.fn = 1 ∧ r.block = 0 then 0 else x) + ((List.range 8).map product).sum
      ∃ s' r', exec (.pressKblock place) s = .next s' ∧ (s'.engine place).press = some r' ∧ r'.block = r.block + 1 ∧
        r'.acc[m * b.n + n]? = some (if b.acc = .acc32i then max (-2 ^ 31) (min (2 ^ 31 - 1) sum) else sum.bmod (2 ^ 64))) ∧
    (∀ off : Nat, destExact o.fc b.acc = true →
      (s.chargeUnits c.part c.gang pan (pressUnits b o (r.block - r.first) (!r.cont && (b.fn ≠ 1 || 0 < r.first)) false)).pressNext place (some c.id) = none →
      quietEngines s c → isGlobal c.bva.toNat = true → c.bva.toNat % 64 = 0 → r.acc.length = b.m * b.n → s.canonical →
      let e := s.mapEntry c.part pan (off / 8192)
      let w := fmtBits o.fc / 8
      let place_ (m n k : Nat) : Nat := panKey pan (e.cellar * 2 ^ 18 + e.frame * 8192 + off % 8192) + m * b.sc + n * w + k
      classify pan b.c.toNat = .pan pan off → off % 8192 + (b.m - 1) * b.sc + b.n * w ≤ 8192 → b.n * w ≤ b.sc → e.cellar < 128 → e.frame < 32 →
      ∃ s', exec (.pressOpRetire place) s = .next s' ∧
        (∀ (m n k : Nat) (x : Int), m < b.m → n < b.n → k < w → r.acc[m * b.n + n]? = some x →
          cellGet s'.mem.pan (place_ m n k) = BitVec.ofInt 8 (x / 256 ^ k)) ∧
        ∀ i, (∀ m n k, m < b.m → n < b.n → k < w → i ≠ place_ m n k) → cellGet s'.mem.pan i = cellGet s.mem.pan i)

/-! ## Directories and censuses -/

/-- Directory requests (R350, R357, R358, R363; one at a moving page is looked at again in 16 cycles: the model's choice, log entry 61): a put makes an entry and a deletion frees it; a second entry of a key is DUPLICATE and a missing one NOTFOUND; a move
leaves its entry moving at the source and reserved at the destination; and a landing makes the entry VALID at the destination, with the tile and labels of its new
place. -/
def DirectoryEvents : Prop :=
  ∀ (s : State) (r : DirReq) (f : Fill) (x : DirEntry), s.dirReq? r.id = some r → s.fill? r.fill = some f → f.parts = 1 → f.vals.length = 1 →
    let c := s.time.cycle
    let e := s.tilePage r.part (wordAt r.block 8)
    let key := wordAt r.block 0
    let place := e.place
    (∀ t, e.moving = true → exec (.tdirPerform t r.id) s =
      .next { s with time := { s.time with calendar := s.time.calendar ++ [(c + 16, .tdirPerform t r.id)] } }) ∧
    (e.moving = false → pageCause e false = none →
      (∀ idx t, r.kind = 0 → dirBlockOk r.block = true → (s.engine place).dirFind r.part key = none → s.dirFree place r.part = some idx →
        ∃ s', exec (.tdirPerform t r.id) s = .next s' ∧ s'.t = s.t ∧ s'.mem = s.mem ∧ answered s' r.fill 0 (c + f.legs) ∧
          (⟨idx, 1, r.part, key, wordAt r.block 8, fieldAt r.block 0x10 4, wordAt r.block 0x18, r.label ||| e.label,
            (s.engine place).trCen r.part, 0⟩ : DirEntry) ∈ (s'.engine place).dir) ∧
      (∀ t, r.kind = 0 → dirBlockOk r.block = true → (s.engine place).dirFind r.part key ≠ none →
        ∃ s', exec (.tdirPerform t r.id) s = .next s' ∧ s'.t = s.t ∧ s'.mem = s.mem ∧ s'.engines = s.engines ∧ answered s' r.fill 0x41 (c + f.legs)) ∧
      (∀ t, r.kind = 1 → (s.engine place).dirFind r.part key = none →
        ∃ s', exec (.tdirPerform t r.id) s = .next s' ∧ s'.t = s.t ∧ s'.mem = s.mem ∧ s'.engines = s.engines ∧ answered s' r.fill 0x42 (c + f.legs)) ∧
      (∀ t, r.kind = 1 → (s.engine place).dirFind r.part key = some x → s.dirHeld place x = false →
        ∃ s', exec (.tdirPerform t r.id) s = .next s' ∧ s'.t = s.t ∧ s'.mem = s.mem ∧ answered s' r.fill 0 (c + f.legs) ∧
          ∀ y ∈ (s'.engine place).dir, y.idx ≠ x.idx)) ∧
    (let d := s.tilePage r.part r.dest
     dirBlockOk r.block = true → e.moving = false → d.moving = false → pageCause e false = none → pageCause d true = none →
      (∀ t, (s.engine place).dirFind r.part key = none →
        ∃ s', exec (.tmovePerform t r.id) s = .next s' ∧ s'.t = s.t ∧ s'.mem = s.mem ∧ s'.engines = s.engines ∧ answered s' r.fill 0x42 (c + f.legs)) ∧
      (∀ t idx, (s.engine place).dirFind r.part key = some x → s.dirHeld place x = false → r.dest.toNat % 8192 + x.length ≤ 8192 →
        d.place ≠ place → (s.engine d.place).dirFind r.part key = none → s.dirFree d.place r.part = some idx →
        ∃ s', exec (.tmovePerform t r.id) s = .next s' ∧ s'.mem = s.mem ∧ { x with state := 2 } ∈ (s'.engine place).dir ∧
          { x with idx := idx, state := 3, tile := r.dest } ∈ (s'.engine d.place).dir ∧
          (r.part, r.id, (s.engine place).trCen r.part) ∈ s'.census.moves)) ∧
    (∀ t, (s.engine r.srcAt).dir.find? (fun y => y.idx = r.srcIdx) = some x → s.census.asked = [] →
      (r.landed = true →
        ∃ s', exec (.entryLanding t r.id) s = .next s' ∧ s'.t = s.t ∧ s'.mem = s.mem ∧ answered s' r.fill 0 (c + f.legs) ∧
          { x with idx := r.dstIdx, tile := r.dest, label := x.label ||| r.dlabel ||| (s.tilePage r.part r.dest).label, pend := 0, state := 1 } ∈
            (s'.engine t).dir ∧ (c + 48, Instr.landingNotice x.part r.id) ∈ s'.time.calendar) ∧
      (r.landed = false →
        ∃ s', exec (.entryLanding t r.id) s = .next s' ∧ s'.t = s.t ∧ s'.mem = s.mem ∧
          answered s' r.fill (BitVec.ofNat 64 (0x12 + r.cause * 2 ^ 16)) (c + f.legs) ∧ { x with state := 1 } ∈ (s'.engine t).dir))

/-- A thread that answers for an entry (R361): in task mode at the entry's PC, with the tile's address, its length, its key and the census id in g1 to g4. -/
def respondsTo (s s' : State) (place : Nat) (x : DirEntry) (c : Census) : Prop :=
  ∃ t ∈ s'.others, t ∉ s.others ∧ t.core / 8 = place ∧ t.run = .ready ∧ t.mode = 0 ∧ t.pc = x.resppc ∧ (t.reg 1).val = x.tile ∧
    (t.reg 2).val = BitVec.ofNat 64 x.length ∧ (t.reg 3).val = x.key ∧ (t.reg 4).val = BitVec.ofNat 64 (c.cseq + c.slot * 2 ^ 32) ∧
    (t.reg 1).label = x.label ||| c.label ∧ t.ctl.clabel = x.label ||| c.label ∧ (s'.slot t.core t.slot).state = .occupied

/-- Censuses (R353 to R355, R359 to R364): at the root a census takes the next CSEQ and a slot, and is sent to every trellis of the partition; a trellis without a match
reports; one with a match and a FREE slot starts its responder there; reports are combined in the Pan nodes and at the root; late answers come before the notice of
a landing; and a complete census fills its two registers, its asker's past joined by those of its answers (R341). -/
def CensusEvents : Prop :=
  ∀ (s : State) (c : Census) (place n : Nat), s.cen? c.id = some c →
    let now := s.time.cycle
    (∀ p : Part, s.census.asked = [c] → c.cseq = 0 → s.nextCseq c.part ≠ 0 → s.part? c.part = some p → p.own.panmask = 2 ^ n → n < 8 →
      ∃ s', exec (.censusRequest c.id) s = .next s' ∧ s'.t = s.t ∧ s'.mem = s.mem ∧
        s'.census.asked = [{ c with sent := true, cseq := s.nextCseq c.part, slot := 0, pans := 2 ^ n }] ∧ s'.nextCseq c.part = serialNext (s.nextCseq c.part) ∧
        ∀ t, t < 128 → (now + 48, Instr.censusBroadcast (128 * n + t) c.id) ∈ s'.time.calendar) ∧
    (let hits := (s.engine place).dir.filter fun x => x.part = c.part && x.state = 1 && c.hits x && serialLess x.lastcen c.cseq;
      (hits = [] → ∃ s', exec (.censusBroadcast place c.id) s = .next s' ∧ s'.t = s.t ∧ s'.mem = s.mem ∧
        (s'.engine place).trCen c.part = c.cseq ∧ (now + 8, Instr.trellisReport place c.id) ∈ s'.time.calendar) ∧
      (∀ x core slot, hits = [x] → s.freeAmong c.part (placeCores place) = some (core, slot) → (∀ t ∈ s.threads, t.ident.uid < s.time.next) →
        ∃ s', exec (.censusBroadcast place c.id) s = .next s' ∧ s'.t = s.t ∧ s'.mem = s.mem ∧ (s'.engine place).trCen c.part = c.cseq ∧
          respondsTo s s' place x c)) ∧
    ((∀ p ∈ s.parts, s.nextMatch place p.num = none) → exec (.responderStart place) s = .next s) ∧
    (∀ (p : Part) (m : Match) (x : DirEntry) (core slot : Nat), s.parts = [p] → (s.engine place).matched = [m] → m.queued = true →
      s.nextMatch place p.num = some (m, x, c) → s.freeAmong p.num (placeCores place) = some (core, slot) → m.part = p.num →
      (∀ t ∈ s.threads, t.ident.uid < s.time.next) →
      ∃ s', exec (.responderStart place) s = .next s' ∧ s'.t = s.t ∧ s'.mem = s.mem ∧ respondsTo s s' place x c) ∧
    (∀ (node : PanNode), s.census.nodes = [node] → node.pan = placePan place → node.census = c.id → (s.engine place).census = [] →
      ∃ s', exec (.trellisReport place c.id) s = .next s' ∧ s'.t = s.t ∧ s'.mem = s.mem ∧
        s'.census.nodes = [{ node with reports := node.reports + 1 }] ∧
        (node.reports = 127 → (now + 40, Instr.panNodeReport (placePan place) c.id) ∈ s'.time.calendar)) ∧
    (∀ (node : PanNode), s.census.asked = [c] → s.census.nodes = [node] → node.pan = n → node.census = c.id → c.pans = 2 ^ n →
      ∃ s', exec (.panNodeReport n c.id) s = .next s' ∧ s'.t = s.t ∧ s'.mem = s.mem ∧ s'.census.nodes = [] ∧
        s'.census.asked = [{ c with value := combine c.op c.value node.value, count := c.count + node.count, ansLabel := c.ansLabel ||| node.label, pans := 0 }]) ∧
    (∀ (e : Engine) (x : LateAnswer), s.engines = [e] → e.late = [x] → s.census.asked = [c] → x.census = c.id →
      ∃ s', exec (.landingNotice c.part x.move) s = .next s' ∧ s'.t = s.t ∧ s'.mem = s.mem ∧ (∀ m ∈ s'.census.moves, m.2.1 ≠ x.move) ∧
        s'.census.asked = [{ c with value := combine c.op c.value x.value, count := c.count + x.count, ansLabel := c.ansLabel ||| x.label }]) ∧
    (s.census.asked = [c] → s.censusDone c = false → exec (.censusComplete c.part c.id) s = .next s) ∧
    (∀ f : Fill, s.census.asked = [c] → s.censusDone c = true → s.fill? c.fill = some f → f.parts = 2 → f.vals.length = 2 →
      ∃ s' g, exec (.censusComplete c.part c.id) s = .next s' ∧ s'.thread c.uid = (s.thread c.uid).map (Thread.joinPast c.clock) ∧ s'.mem = s.mem ∧ s'.census.asked = [] ∧ s'.fill? c.fill = some g ∧
        g.vals = [if c.op = 4 then BitVec.ofNat 64 c.count else c.value, BitVec.ofNat 64 c.count] ∧ g.label = f.label ||| c.ansLabel ∧ g.parts = 0 ∧
        (now + 48 + f.legs, Instr.resultFill c.fill) ∈ s'.time.calendar)

/-! ## Events of the security controller -/

/-- Release policies (R378, R379): an entry that is well formed, signed by every partition of its LABELSET and new is installed in the first free place; one signer may
revoke it; and it lapses at its EXPIRY, from when it decides nothing and its place is free (that the lapsed entry is remembered until another takes its
place is the model's choice, log 114). -/
def PolicyEvents : Prop :=
  ∀ (s : State) (p : PolicyBody) (k : Nat),
    let signers := labelBits (policyOf p 0).labels
    let e := policyOf p k
    (s.policyOk p = false → exec (.policyInstall p) s = .next (s.requestDone p 3)) ∧
    (s.policyOk p = true → requestLength p.bytes signers.length = true → s.policyPlace = some k → s.signed p.bytes signers = true →
      e.id ∉ s.sec.usedIds → (s.sec.policies.filter fun x => x.owner = p.part && !x.lapsed).length < 32 →
      ∃ s', exec (.policyInstall p) s = .next s' ∧ s'.t = s.t ∧ s'.sec.policies = (s.sec.policies.filter fun x => x.place ≠ k) ++ [e] ∧ e.id ∈ s'.sec.usedIds ∧
        (max s.time.cycle (s.sec.bootAt + e.expiry * 1400), Instr.policyExpiry e.id.toNat) ∈ s'.time.calendar) ∧
    (s.policyOk p = true → requestLength p.bytes signers.length = true → s.policyPlace = some k → s.signed p.bytes signers = false →
      exec (.policyInstall p) s = .next (s.requestDone p 2)) ∧
    (∀ x, fieldAt p.bytes 8 1 < 32 → zeroAt p.bytes 9 55 = true → requestLength p.bytes 1 = true →
      (s.sec.policies.find? fun y => y.id = wordAt p.bytes 0 && !y.lapsed) = some x → x.labels.getLsbD (fieldAt p.bytes 8 1) = true →
      s.signed p.bytes [fieldAt p.bytes 8 1] = true →
      ∃ s', exec (.policyRevoke p) s = .next s' ∧ s'.t = s.t ∧ s'.sec.policies = s.sec.policies.filter fun y => y.id ≠ wordAt p.bytes 0) ∧
    (let lapse (y : Policy) : Policy := if y.id = BitVec.ofNat 64 k then { y with lapsed := true } else y
     exec (.policyExpiry k) s = .next { s with sec := { s.sec with policies := s.sec.policies.map lapse } })

/-- A label grant (R379, R380): an unsigned one is DENIED; one of a window page zeroes it and gives it its label; and one of a page of global memory, which
needs a key slot and is DENIED without one, zeroes it and gives its frame its label and key. -/
def LabelGrants : Prop :=
  ∀ (s : State) (p : PolicyBody) (e : MapEntry),
    let labels : Label := BitVec.ofNat 32 (fieldAt p.bytes 0xC 4)
    let signers := labelBits (labels ||| e.label)
    ((wordAt p.bytes 0).toNat % 8192 = 0 → fieldAt p.bytes 8 4 = 1 → labels.getLsbD p.part = true → wordAt p.bytes 0x10 = s.sec.bootId →
      zeroAt p.bytes 0x18 40 = true → requestLength p.bytes signers.length = true →
      s.grantPages p.part (wordAt p.bytes 0) 1 = some [.pan e] →
      (s.signed p.bytes signers = false → exec (.labelGrant p) s = .next (s.requestDone p 2)) ∧
      (s.signed p.bytes signers = true → exec (.labelGrant p) s = .next ((s.grantPage labels 0 (.pan e)).requestDone p 0))) ∧
    (∀ frame held, (wordAt p.bytes 0).toNat % 8192 = 0 → fieldAt p.bytes 8 4 = 1 → labels.getLsbD p.part = true → wordAt p.bytes 0x10 = s.sec.bootId →
      zeroAt p.bytes 0x18 40 = true → s.grantPages p.part (wordAt p.bytes 0) 1 = some [.global frame held] →
      requestLength p.bytes (labelBits (labels ||| held)).length = true → s.signed p.bytes (labelBits (labels ||| held)) = true →
      (∀ key, s.grantSlot p.part labels = some key →
        exec (.labelGrant p) s = .next ((s.grantPage labels key (.global frame held)).requestDone p 0)) ∧
      (s.grantSlot p.part labels = none → exec (.labelGrant p) s = .next (s.requestDone p 2))) ∧
    (∀ frame held l key, (s.frameOwner frame).valid = true →
      let s' := s.grantPage l key (.global frame held)
      s'.frameOwner frame = { s.frameOwner frame with key := key, labels := l } ∧ s'.t = s.t ∧ s'.mem.pan = s.mem.pan ∧
        ∀ k, k < 8192 → s'.mem.gbyte (frame * 8192 + k) = 0) ∧
    (e.valid = true → s.fab.waiters = [] → ∀ l key,
      (s.grantPage l key (.pan e)).mapEntry e.part e.pan e.page = { e with label := l } ∧
      (∀ k, k < 8192 → cellGet (s.grantPage l key (.pan e)).mem.pan (panKey e.pan (e.cellar * 2 ^ 18 + e.frame * 8192) + k) = 0) ∧
      (s.grantPage l key (.pan e)).t = s.t ∧ (s.grantPage l key (.pan e)).mem.hbm = s.mem.hbm)

/-! ## What reaches the part from outside -/

/-- The host (R40, R41, R347, R373, R376, R377, R452): a write through a function that is not bound is discarded and a read of memory aborted; a write that a translation refuses
changes nothing and places HOSTFAULT, and a read that meets an uncorrectable error places the DATAERR event of R217; one of a word that is allowed becomes a write of the host's die, with the partition's label (the cut into words and the
window's numbers are the model's choice, log entries 84 and 85); a read of the window gives its
status words; and one that the Sluice passes gives the bytes. -/
def HostAccesses : Prop :=
  ∀ (s : State) (vf addr len : Nat) (data : List Byte),
    (s.dev.pwrgd = false → exec (.hostWrite vf addr data) s = .next s ∧ exec (.hostRead vf addr len) s = .next s) ∧
    (s.dev.pwrgd = true →
    (s.vf? vf = none → exec (.hostWrite vf addr data) s = .next s ∧
      (addr < 2 ^ 64 → exec (.hostRead vf addr len) s = .next { s with out := s.out ++ [.hostAbort vf (BitVec.ofNat 64 addr)] })) ∧
    (∀ v, s.function? vf = some v → 2 ^ 64 ≤ addr → exec (.hostRead vf addr len) s =
      .next { s with out := s.out ++ [.hostRead vf (BitVec.ofNat 64 addr) (s.windowBytes v (addr - 2 ^ 64) len)] }) ∧
    (∀ v, s.function? vf = some v → v.valid = true →
      (∀ c a, s.outsidePlaces v.part (wordPieces (data.length + 1) addr data) = .error (c, a) →
        exec (.hostWrite vf addr data) s = .next { s with time := { s.time with
          agenda := s.time.agenda ++ [.faultQueueEvent v.part ⟨0x23, trapNumber c, vf + 256, [0, 0, BitVec.ofNat 64 a]⟩] } }) ∧
      (∀ x, s.outsidePlaces v.part (wordPieces (data.length + 1) addr data) = .ok [(addr, data, x)] →
        ∃ s' a, exec (.hostWrite vf addr data) s = .next s' ∧ s'.t = s.t ∧ s'.mem = s.mem ∧ s'.fab.accs = s.fab.accs ++ [a] ∧
          a.id = s.time.next ∧ a.op = .store data.length (BitVec.ofNat 64 (bytesNat data)) ∧ a.loc = x.loc ∧ a.part = v.part ∧
          a.label = partLabel v.part ∧ a.posted = true ∧ a.cross = true ∧ a.srcDie = s.hostDie ∧ s'.time.agenda = s.time.agenda ++ [.postedWriteArrival a.id]) ∧
      (addr < 2 ^ 64 → (namedWindow addr).isSome = true ∨ isGlobal addr = true →
        (∀ c info a, s.readVa v.part 0 (BitVec.ofNat 64 addr) len false = .error ((c, info), a) →
          ∃ s', exec (.hostRead vf addr len) s = .next s' ∧ s'.t = s.t ∧ s'.mem = s.mem ∧
            s'.out = s.out ++ [.hostAbort vf (BitVec.ofNat 64 addr)] ∧
            s'.time.agenda = s.time.agenda ++
              [.faultQueueEvent v.part (if c = .dataerr then ⟨0x0A, 0, 0, [0, 0, a]⟩ else ⟨0x23, trapNumber c, vf, [0, 0, a]⟩)]) ∧
        (∀ bs l m s1, s.readVa v.part 0 (BitVec.ofNat 64 addr) len false = .ok (bs, l) → s.sluice v.part l (.host vf) len = .ok (m, s1) →
          exec (.hostRead vf addr len) s = .next { s1 with out := s1.out ++ [.hostRead vf (BitVec.ofNat 64 addr) bs] }) ∧
        (∀ bs l r, s.readVa v.part 0 (BitVec.ofNat 64 addr) len false = .ok (bs, l) → s.sluice v.part l (.host vf) len = .error r →
          ∃ s', exec (.hostRead vf addr len) s = .next s' ∧ s'.t = s.t ∧ s'.mem = s.mem ∧
            s'.out = s.out ++ [.hostAbort vf (BitVec.ofNat 64 addr)]))))

/-- Packets of the links (R147, R347, R373 to R375; the reason that a refusal is told with and the order of a link's writes are the model's choice, log entries 86
and 84; what an attestation leaves of a port, log entry 87): an answer fills the register of its invocation; a refusal is told to its partition; and a write is refused where its
partition or its port is unknown or its label has no entry in the port's map, and is performed with its mapped label where all its bytes may take it. The sending partition is mapped by the port's
partition map; the maps that two controllers agree are open (assumption 6). -/
def LinkEvents : Prop :=
  ∀ (s : State) (port : Nat) (addr : Word) (data : List Byte) (label : Label),
    (∀ (reply status : Nat) (f : Fill), s.fill? reply = some f → f.parts = 1 → f.vals.length = 1 →
      ∃ s', exec (.fabricPacketArrival (.answer port reply status)) s = .next s' ∧ s'.t = s.t ∧ s'.mem = s.mem ∧
        answered s' reply (BitVec.ofNat 64 status) (s.time.cycle + f.legs)) ∧
    (∀ part chip, exec (.fabricPacketArrival (.refused port part addr label chip)) s = .next (s.sluiceEvent part 5 addr label chip)) ∧
    (∀ part : Option Nat, (s.localOf port part).bind s.part? = none →
      exec (.fabricPacketArrival (.write port part addr data label)) s = .next { s with out := s.out ++ [.refused port part addr label s.dev.chip] }) ∧
    (∀ (p : Part) (q : Port) (sender : Nat), s.part? p.num = some p → s.port? port = some q → q.parts[sender]? = some (some p.num) →
      (mapIn q p.num label = none →
        exec (.fabricPacketArrival (.write port (some sender) addr data label)) s = .next { s with out := s.out ++ [.refused port (some sender) addr label s.dev.chip] }) ∧
      (∀ l x, mapIn q p.num label = some l → s.outsidePlaces p.num (wordPieces (data.length + 1) addr.toNat data) = .ok [(addr.toNat, data, x)] →
        labelLe l x.label = true →
        ∃ s' a, exec (.fabricPacketArrival (.write port (some sender) addr data label)) s = .next s' ∧ s'.t = s.t ∧ s'.mem = s.mem ∧ s'.out = s.out ∧
          s'.fab.accs = s.fab.accs ++ [a] ∧ a.loc = x.loc ∧ a.label = l ∧ a.part = p.num ∧ a.cross = true ∧ a.srcDie = portDie port ∧ a.port = some port ∧
          a.op = .store data.length (BitVec.ofNat 64 (bytesNat data)) ∧ Instr.postedWriteArrival a.id ∈ s'.time.agenda)) ∧
    (∀ q : Port, s.port? port = some q → ∃ s', exec (.portAttestation port) s = .next s' ∧ s'.t = s.t ∧ s'.mem = s.mem ∧
      (∃ q', s'.port? port = some q' ∧ q' = { q with up := true, attested := true, map := q'.map, parts := q'.parts }) ∧
      ∀ x ∈ s'.sec.ports, x.num ≠ port → x ∈ s.sec.ports) ∧
    (s.port? port = none → exec (.portAttestation port) s = .next s)

/-- Power, resets and attestation (R82, R407, R420 to R423, R425; the registers that a reset leaves without a value of the spec are the model's choice, log entries 1
and 88): the first power-on writes the digest of the owner's key, which stays; a reset leaves the stores as at reset and the threads
of the device manager in slots 0 to 15 of the management core, and restarts the Rake's scrub of the whole device;
a power-on with a bad signature halts the part with its error (the error codes are the model's choice, log entry 88), and one with good signatures has its record applied after the scrub; a report is the signed body; and a
record that its owner did not sign, or that breaks its limits, changes nothing. -/
def PowerEvents : Prop :=
  ∀ (s : State),
    let managed (s' : State) : Prop := s'.others.length = 15 ∧
      ∀ k, 1 ≤ k → k ≤ 15 → ∃ t ∈ s'.others, t.core = 8448 ∧ t.slot = k ∧ t.run = .ready ∧ t.mode = 2 ∧ (s'.slot 8448 k).state = .occupied
    (∃ s', exec .deviceReset s = .next s' ∧ s'.t = State.reset.t ∧ managed s' ∧ s'.mem = State.reset.mem ∧ s'.parts = State.reset.parts ∧
      s'.sec.policies = [] ∧ s'.dev.rake.list = wholeDevice ∧ s'.dev.rake.done = 0 ∧ s'.dev.rake.restarted = true ∧ s'.out = s.out ∧
      s'.dev.chip = s.dev.chip ∧ s'.dev.owner = s.dev.owner) ∧
    (∀ fw dm cfg, ∃ s', exec (.powerOn fw dm cfg) s = .next s' ∧ (s.dev.owner = [] → s'.dev.owner = shake256 Config.ownerKey 64) ∧
      (s.dev.owner ≠ [] → s'.dev.owner = s.dev.owner)) ∧
    (∀ fw dm cfg, vendorSigned fw = false →
      ∃ s', exec (.powerOn fw dm cfg) s = .next s' ∧ s'.dev.halted = true ∧ s'.sec.error = 1 ∧ s'.t = State.reset.t ∧ s'.mem = State.reset.mem) ∧
    (∀ fw dm cfg, vendorSigned fw = true → vendorSigned dm = true → s.configSigned cfg = true →
      ∃ s', exec (.powerOn fw dm cfg) s = .next s' ∧ s'.dev.halted = false ∧ s'.sec.error = 0 ∧ s'.t = State.reset.t ∧ s'.mem = State.reset.mem ∧
        s'.sec.boots = s.sec.boots + 1 ∧ s'.sec.mrs = [extended (List.replicate 64 0) fw, extended (List.replicate 64 0) dm, extended (List.replicate 64 0) cfg] ∧
        s'.dev.rake.list = wholeDevice ∧
        (s.time.cycle + wholeDeviceCycles + 1, Instr.signedConfigurationRecord cfg) ∈ s'.time.calendar) ∧
    (∀ nonce, exec (.attestationRequest nonce) s =
      .next { s with out := s.out ++ [.report (s.reportBody nonce ++ (List.range 29792).map (Config.deviceSign (s.reportBody nonce)))] }) ∧
    (∀ rec_, s.configSigned rec_ = false → exec (.signedConfigurationRecord rec_) s = .next s) ∧
    (∀ rec_, s.configSigned rec_ = true → configOk (rec_.take configBytes) = false → exec (.signedConfigurationRecord rec_) s = .next s) ∧
    (∀ rec_ s1, s.configSigned rec_ = true → s.applyConfig (rec_.take configBytes) = some s1 →
      ∃ s', exec (.signedConfigurationRecord rec_) s = .next s' ∧ s'.dev.pwrgd = true ∧ s'.parts = s1.parts ∧ s'.mem = s1.mem ∧ s'.t = s1.t)

/-- A record that configures no partition, applied by a part that has none (R407; log entry 79): the process limit, the host's port and the binding of every
function are the record's, and nothing else changes. -/
def EmptyConfiguration : Prop :=
  ∀ (s : State) (body : List Byte), s.parts = [] → s.dev.rake.fin ≤ s.dev.rake.done → configOk body = true → configured body = [] →
    ∃ s', s.applyConfig body = some s' ∧ s'.t = s.t ∧ s'.mem = s.mem ∧ s'.parts = [] ∧
      s'.dev = { s.dev with plimit := fieldAt body 8 2, hostPort := fieldAt body 0xA 1 } ∧ s'.vfs.length = s.vfs.length ∧
      ∀ (k : Nat) (v : VirtFn), s.vfs[k]? = some v →
        let w := fieldAt body (0x3040 + 4 * v.num) 4
        s'.vfs[k]? = some { v with part := w % 32, valid := w.testBit 5, cap := w.testBit 6, capTrap := w.testBit 7, ownsMem := w.testBit 8 }

/-! ## Encoding -/

/-- Decoding the bytes of a well-formed instruction gives it back, with every operand at every value its encoding admits, and the bytes after it (R89 to R99). -/
def EncodeDecode : Prop :=
  ∀ (i : Instr) (rest : List Byte), i.encoded = true → i.wellFormed = true → decodeBytes (encodeBytes i ++ rest) = .ok (i, rest)

/-- Each word has one meaning: what decodes is well formed and encodes to the same bits, so that no bit of an encoding is ignored (R89 to R99). -/
def DecodeEncode : Prop :=
  ∀ (w : Nat) (i : Instr),
    (w < 2 ^ 32 → w % 2 = 1 → decodeWord w = .ok i → i.wellFormed = true ∧ i.encoded = true ∧ i.bits = 32 ∧ encode i = w) ∧
    (w < 2 ^ 16 → w % 2 = 0 → decodeHalf w = .ok i → i.wellFormed = true ∧ i.encoded = true ∧ i.bits = 16 ∧ encode i = w)

/-- What is no instruction (R92, R93, R97): a major opcode above 0x29, the halfword 0x0000, and fewer bytes than the first halfword asks for; and a function that its
group does not list. -/
def DecodeRejects : Prop :=
  (∀ w, 0x2A ≤ w / 2 % 2 ^ 6 → decodeWord w = .error .reservedMajor) ∧
  decodeHalf 0 = .error (.limit .zeroHalfword) ∧
  decodeBytes [] = .error .truncated ∧ (∀ b, decodeBytes [b] = .error .truncated) ∧
  (∀ b c, b.toNat % 2 = 1 → decodeBytes [b, c] = .error .truncated ∧ ∀ d, decodeBytes [b, c, d] = .error .truncated) ∧
  (∀ w, w / 2 % 2 ^ 6 = 0 → 0x17 ≤ w / 2 ^ 24 % 2 ^ 8 → decodeWord w = .error .reservedFunction) ∧
  (∀ w, w / 2 % 2 ^ 6 = 0x1A → 6 ≤ w / 2 ^ 7 % 2 ^ 3 → decodeWord w = .error .reservedFunction)

/-- Words that the spec writes out decode to the instructions it gives for them (R112, R114 to R117, R121, R128, R132, R137, R145). -/
def DecodeWords : Prop :=
  decodeTableWord 32 0x00041181 = some (.add 3 1 2 false false) ∧ decodeTableWord 32 0x01C41181 = some (.sub 3 1 2 true true) ∧
  decodeTableWord 32 0x000C520B = some (.slli 4 5 3 false) ∧ decodeTableWord 32 0x02FC520B = some (.srai 4 5 63 false) ∧
  decodeTableWord 32 0x12345311 = some (.lui 6 0x12345) ∧ decodeTableWord 32 0x05128397 = some (.paddSs 7 8 9 .h16 false false) ∧
  decodeTableWord 32 0x010A4119 = some (.cmac 2 4 5 false false) ∧ decodeTableWord 32 0xFFC20CB5 = some (.bne 3 4 (-4)) ∧
  decodeTableWord 32 0x0000A4BB = some (.nest 9 10 false false) ∧ decodeTableWord 32 0x0012643D = some (.fork 8 6 9 false false) ∧
  decodeTableWord 32 0x0400003D = some (.quit false false) ∧ decodeTableWord 32 0x000062D3 = some (.launch 5 6) ∧
  decodeTableWord 32 0x019283D3 = some (.invoke 7 8 9 2)

/-! ## The step, the reset and invariants -/

/-- A turn runs the decoded instruction (R84, R88, R99, R101 to R104): at the turn of a ready thread with nothing pending, whose halfwords are in the instruction cache,
the step is exec of the instruction that the halfwords, with the overlay of a patch, decode to, with HBCNT counted before it and the turn's counters and charge after it; an
encoding that is no instruction takes ILLEGAL. The line of the instruction is the latest used (R85). Where the instruction has held its thread (R105) and completes before this turn,
the turn goes on with what follows it. A step that is due comes before any turn, a submission in the order of R42 (assumption 3). -/
def StepRunsDecoded : Prop :=
  ∀ (s : State) (uid : Nat) (rest : List Nat), s.dev.halted = false →
    (∀ i later, s.time.agenda = i :: later → arrivalRank i = none → step s = exec i { s with time := { s.time with agenda := later } }) ∧
    (s.time.agenda = [] → s.time.closed = true → s.time.todo = uid :: rest → s.t.ident.uid = uid →
      let s1 : State := { s with time := { s.time with todo := rest, turn := .open } }
      let s0 : State := if s1.countsBeat s1.t then { s1 with t := s1.t.countBeat } else s1
      s0.t.run = .ready → s0.t.late = none → s0.t.pending = [] → s0.mustEnd = false → s0.foldsHere = false → s0.t.ctl.hbcnt < s0.t.ctl.hbint →
      s0.throttled s0.t.ident.part s0.t.localPan = false →
      ∀ h0 h1, s0.fetchInstr = .here h0 h1 →
      let w := s0.overlaid h0 h1
      let used := s0.touchCode s0.t.core s0.t.ident.part s0.t.pc.toNat (if h0 % 2 = 0 then 2 else 4)
      let s2 : State := { used with t := { s0.t with patched := w.2 } }
      (∀ i, decodeHalves w.1 (w.1 / 65536) = .ok i →
        (s0.t.prog.holds = false → step s = Result.account (exec i s2) s0.t.ident.part s0.t.ident.gang s0.t.localPan) ∧
        (s0.t.prog.holds = true → step s = Result.account (Result.thenReady (exec i s2)) s0.t.ident.part s0.t.ident.gang s0.t.localPan)) ∧
      (∀ e, decodeHalves w.1 (w.1 / 65536) = .error e → s0.t.prog.holds = false →
        step s = .next ((s2.fail .illegal 0 (BitVec.ofNat 64 w.1) [] 0).account s0.t.ident.part s0.t.ident.gang s0.t.localPan)))

/-- What reset leaves (R71, R82, R343, R344, R409, R421): the ROM's thread in slot 0 of the management core, ready and in device mode, no other thread; every byte of both
stores 0, every tag full, no error; no partition, gang, command or policy; no function bound and no port attested; g0 as R72 has it; and memory in its canonical form. The registers' values at reset are the
model's choice (log entry 1), and so are the bytes that nothing has written (log entry 11) and that no word is in error (log entry 90). -/
def ResetState : Prop :=
  let s := State.reset
  s.t.core = 8448 ∧ s.t.slot = 0 ∧ s.t.run = .ready ∧ s.t.mode = 2 ∧ s.t.inTrap = false ∧ s.others = [] ∧
  (s.slot 8448 0).state = .occupied ∧ (∀ core slot, core ≠ 8448 ∨ slot ≠ 0 → (s.slot core slot).state = .free) ∧
  (∀ pa, s.mem.gbyte pa = 0) ∧ (∀ k, cellGet s.mem.pan k = 0) ∧ (∀ n pa, s.mem.tagFull n pa = true) ∧ (∀ l, s.mem.bad l = false) ∧
  s.parts = [] ∧ s.gangs = [] ∧ s.vfs.length = 256 ∧ (∀ v ∈ s.vfs, v.valid = false ∧ v.staging = [] ∧ v.status = []) ∧
  s.sec.ports.length = 16 ∧ (∀ p ∈ s.sec.ports, p.attested = false) ∧ s.engines = [] ∧ s.sec.policies = [] ∧ s.fab.accs = [] ∧ s.out = [] ∧
  s.t.reg 0 = ⟨0, true, false, 0⟩ ∧ s.canonical ∧ s.dev.halted = false

/-- Every step keeps the stores in their canonical form. -/
def StepKeepsCanonical : Prop := ∀ (s s' : State), s.canonical → step s = .next s' → s'.canonical

/-- A part that is held in reset, with no power-on due. -/
def heldInReset (s : State) : Prop := s.dev.halted = true ∧ ∀ fw dm cfg, Instr.powerOn fw dm cfg ∉ s.time.agenda

/-- A part that is held in reset stays so until a power-on (R425, R426; that it is held until then is the model's choice, log entry 88): each of its steps goes on, and changes no thread, no memory and nothing outside. -/
def HaltedPartStays : Prop :=
  ∀ s : State, heldInReset s →
    ∃ s', step s = .next s' ∧ heldInReset s' ∧ s'.t = s.t ∧ s'.others = s.others ∧ s'.mem = s.mem ∧ s'.parts = s.parts ∧ s'.out = s.out

/-! ## Frames and the checks of an issue -/

/-- The frame of an instruction that writes one register, in whose terms the results of the scalar groups are stated (R72, R73, R104, R109): the destination takes the value, full,
not poisoned, with the result label; g0 stays as it is; and every other register, every control, trap and claim register, memory and all else but the PC and the turn is
unchanged. -/
def RegisterWriteFrame : Prop :=
  ∀ (s : State) (d : Reg) (v : Word) (srcs : List Reg) (n : Nat),
    let s' := s.wrote d v srcs n
    (d ≠ 0 → s'.t.reg d = ⟨v, true, false, s.joined srcs⟩) ∧ s'.t.reg 0 = ⟨0, true, false, 0⟩ ∧ (∀ r, r ≠ d → s'.t.reg r = s.t.reg r) ∧
    s'.t = { s.t with regs := s'.t.regs, pc := s.t.pc + BitVec.ofNat 64 n, prog := .fresh, proxy := false } ∧
    s' = { s with t := s'.t, time := { s.time with turn := .issue } } ∧
    (∀ pa, s'.mem.gbyte pa = s.mem.gbyte pa) ∧ (∀ k, cellGet s'.mem.pan k = cellGet s.mem.pan k) ∧
    (d = 0 → s'.t = { s.t with pc := s.t.pc + BitVec.ofNat 64 n, prog := .fresh, proxy := false })

/-- The checks of an issue that concern registers (R74 to R76, R101, R384), for `add`: a pending destination and an empty source with T = 0 idle the slot with no effect; a
poisoned source traps with POISONREG and an empty one with T = 1 with EMPTYREG, TRAPINFO naming the first in the order a, b. -/
def RegisterChecks : Prop :=
  ∀ (s : State) (d a b : Reg) (ta tb : Bool), s.traps →
    let idles : Prop := exec (.add d a b ta tb) s = .next { s with time := { s.time with turn := .idle } }
    let stops (c : TrapCode) (r : Reg) : Prop := exec (.add d a b ta tb) s =
      .next (s.trapped (trapNumber c) s.t.pc 0 (BitVec.ofNat 64 r.val) (labelsOf s.t [a, b] ||| s.t.patched ||| 0))
    ((s.t.reg d).full = false → idles) ∧
    ((s.t.reg d).full = true →
      ((s.t.reg a).poison = true → stops .poisonreg a) ∧
      ((s.t.reg a).poison = false → (s.t.reg b).poison = true → stops .poisonreg b) ∧
      ((s.t.reg a).poison = false → (s.t.reg b).poison = false →
        ((s.t.reg a).full = false → ta = true → stops .emptyreg a) ∧
        ((s.t.reg b).full = false → tb = true → (s.t.reg a).full = true ∨ ta = false → stops .emptyreg b) ∧
        ((s.t.reg a).full = false → ta = false → (s.t.reg b).full = true ∨ tb = false → idles) ∧
        ((s.t.reg b).full = false → tb = false → (s.t.reg a).full = true ∨ ta = false → idles)))

end Sys2Proof.Claims

/-! ## The obligations -/

/-- The ALU register, selection, extension, immediate, lui and addpc forms write the values the rules give. -/
def Obligations.ScalarResults : Prop := Sys2Proof.Claims.AluRegisterResults ∧ Sys2Proof.Claims.SelectAndExtend ∧ Sys2Proof.Claims.ImmediateResults

/-- Multiplication and division: every result, the corners of division, and the encoding of the group. -/
def Obligations.MultiplyDivide : Prop := Sys2Proof.Claims.MultiplyDivideResults

/-- Packed operations: every lane of every result at every width. -/
def Obligations.PackedLanes : Prop := Sys2Proof.Claims.PackedResults

/-- Packing, complex, bit-field and compact scalar results. -/
def Obligations.NarrowComplexAndBits : Prop := Sys2Proof.Claims.PackResults ∧ Sys2Proof.Claims.ComplexResults ∧ Sys2Proof.Claims.BitFieldResults ∧ Sys2Proof.Claims.CompactResults

/-- Scalar floating-point results, comparisons, rnd, cvt and the compact floating forms. -/
def Obligations.FloatResults : Prop := Sys2Proof.Claims.FloatArithmetic ∧ Sys2Proof.Claims.FloatCompare

/-- Rounding a finite value of a format to that format gives its own code and no flag, in every mode. -/
def Obligations.RoundingIsExact : Prop := Sys2Proof.Claims.RoundingIsExact

/-- Branches, jal and jalr: where the PC goes, the link, the label of control, and the odd target. -/
def Obligations.ControlFlow : Prop := Sys2Proof.Claims.BranchResults ∧ Sys2Proof.Claims.JumpResults

/-- sys and trap enter the trap of their cause; eret returns, or takes PRIV. -/
def Obligations.TrapEntryAndReturn : Prop := Sys2Proof.Claims.TrapEntry ∧ Sys2Proof.Claims.SystemCallEntry ∧ Sys2Proof.Claims.ReturnFromTrap

/-- mfc reads what each mode may read and traps otherwise. -/
def Obligations.ControlRegisterReads : Prop := Sys2Proof.Claims.ControlRegisterReads

/-- mtc writes the writable fields of the thread registers and traps otherwise. -/
def Obligations.ControlRegisterWrites : Prop := Sys2Proof.Claims.ControlRegisterWrites ∧ Sys2Proof.Claims.StatusLiveSeedWrites

/-- DEFTRAPVEC, HTBASE and FQBASE are written at the launch unit or refused with PROT. -/
def Obligations.PartitionRegisterWrites : Prop := Sys2Proof.Claims.PartitionRegisterWrites

/-- WMDATA and setvat change one entry or one vat and nothing else, or trap. -/
def Obligations.MapAndFormatWrites : Prop := Sys2Proof.Claims.WindowMapWrite ∧ Sys2Proof.Claims.VatFormatWrite

/-- lbl, rseed, live, beat, ifence and quit. -/
def Obligations.ThreadState : Prop := Sys2Proof.Claims.LabelReads ∧ Sys2Proof.Claims.ThreadStateInstructions

/-- Fences complete as their scope asks; tlbinv discards the entries in its scope. -/
def Obligations.FencesAndInvalidation : Prop := Sys2Proof.Claims.FenceResults ∧ Sys2Proof.Claims.TranslationInvalidate

/-- Loads, stores, tag forms and bursts to the own Pan stand at their banks. -/
def Obligations.LocalAccesses : Prop := Sys2Proof.Claims.LocalLoads ∧ Sys2Proof.Claims.LocalStores ∧ Sys2Proof.Claims.LocalTagWaits ∧ Sys2Proof.Claims.LocalBursts

/-- Atomics and reductions to the own Pan stand at their banks; a misaligned access takes ALIGN. -/
def Obligations.LocalUpdates : Prop := Sys2Proof.Claims.LocalAtomics ∧ Sys2Proof.Claims.LocalReductions ∧ Sys2Proof.Claims.MisalignedAccess

/-- A bank that grants a load or store reads or writes exactly its bytes; a result fills its registers. -/
def Obligations.BankAccesses : Prop := Sys2Proof.Claims.BankLoads ∧ Sys2Proof.Claims.BankStores ∧ Sys2Proof.Claims.ResultArrival

/-- A bank that grants an atomic writes the new value and answers the old in one step; the steps of a task deque at its TOP word. -/
def Obligations.BankAtomics : Prop := Sys2Proof.Claims.BankAtomics ∧ Sys2Proof.Claims.BankDeques

/-- nest asks for its descriptor and next steps the nest. -/
def Obligations.NestResults : Prop := Sys2Proof.Claims.NestResults ∧ Sys2Proof.Claims.NestClaims

/-- park, sleep, wake, bar and barw: what waits, what goes on, and what is asked for. -/
def Obligations.WaitsAndBarriers : Prop := Sys2Proof.Claims.ParkWaits ∧ Sys2Proof.Claims.SleepResults ∧ Sys2Proof.Claims.WakeResults ∧ Sys2Proof.Claims.BarrierRequests

/-- hop completes at once at its own trellis and departs for another. -/
def Obligations.HopResults : Prop := Sys2Proof.Claims.HopResults

/-- fork, join, jdone and spawn move entries of the deque, frames and slots. -/
def Obligations.Tasks : Prop := Sys2Proof.Claims.ForkResults ∧ Sys2Proof.Claims.JoinResults ∧ Sys2Proof.Claims.TaskTraps ∧ Sys2Proof.Claims.SpawnResults

/-- Elementwise vector integer, move, mask, complex and compact results. -/
def Obligations.VectorElements : Prop := Sys2Proof.Claims.VectorIntegerResults ∧ Sys2Proof.Claims.VectorMoves ∧ Sys2Proof.Claims.VectorMasks ∧ Sys2Proof.Claims.VectorComplexAndCompact

/-- Elementwise vector floating-point results, comparisons and conversions. -/
def Obligations.VectorFloat : Prop := Sys2Proof.Claims.VectorFloat

/-- Vector reductions, permutation, butterflies and special functions. -/
def Obligations.VectorWhole : Prop := Sys2Proof.Claims.VectorWholeResults ∧ Sys2Proof.Claims.VectorWholeFloat ∧ Sys2Proof.Claims.SpecialFunctionValues

/-- vclaim, vrel and vsync: what is granted, what is given back, and what is waited for. -/
def Obligations.VectorClaims : Prop := Sys2Proof.Claims.VectorClaim ∧ Sys2Proof.Claims.VectorSyncAndRelease

/-- Vector loads and stores: their checks, and the requests that stand at the banks. -/
def Obligations.VectorMemory : Prop := Sys2Proof.Claims.VectorLoads ∧ Sys2Proof.Claims.VectorStores

/-- rackv and rack: which copies are accepted and which are refused. -/
def Obligations.CopySubmissions : Prop := Sys2Proof.Claims.RawCopySubmission ∧ Sys2Proof.Claims.CopySubmission

/-- pmm, pzero and the collectives: which blocks are accepted and which are refused. -/
def Obligations.PressAndCollectiveSubmissions : Prop := Sys2Proof.Claims.PressSubmission ∧ Sys2Proof.Claims.CollectiveSubmission

/-- rstat, qwait, pwait and pprog report a ticket; rfence and qfence order the engines. -/
def Obligations.TicketsAndFences : Prop := Sys2Proof.Claims.TicketReports ∧ Sys2Proof.Claims.EngineFences

/-- launch, sluice and invoke: what is accepted and how a refusal is told. -/
def Obligations.LaunchSluiceInvoke : Prop := Sys2Proof.Claims.LaunchResults ∧ Sys2Proof.Claims.SluiceResults ∧ Sys2Proof.Claims.InvokeResults

/-- solicit, answer, cwait and the directory instructions. -/
def Obligations.SolicitAndDirectory : Prop := Sys2Proof.Claims.SolicitResults ∧ Sys2Proof.Claims.AnswerAndWait ∧ Sys2Proof.Claims.DirectoryRequests

/-- Asynchronous traps, timed waits that end, and the heartbeat miss. -/
def Obligations.ThreadEvents : Prop := Sys2Proof.Claims.AsynchronousTraps ∧ Sys2Proof.Claims.TimeoutEvents ∧ Sys2Proof.Claims.HeartbeatMiss

/-- Barriers, global fences, causal clocks, regulators and derating. -/
def Obligations.OrderAndClockEvents : Prop := Sys2Proof.Claims.OrderingEvents ∧ Sys2Proof.Claims.ClockAndRegulatorEvents

/-- A migration packet arrives, is refused, is acknowledged or is given up. -/
def Obligations.MigrationEvents : Prop := Sys2Proof.Claims.MigrationEvents ∧ Sys2Proof.Claims.MigrationPlaced

/-- Posted and proxied accesses, translation at a hub, code fetch and fills. -/
def Obligations.AccessEvents : Prop := Sys2Proof.Claims.PostedAccessEvents ∧ Sys2Proof.Claims.TranslationEvents ∧ Sys2Proof.Claims.FetchAndFillEvents

/-- Launch intake, completions and invocations at the launch unit. -/
def Obligations.LaunchUnitEvents : Prop := Sys2Proof.Claims.LaunchIntakeEvents ∧ Sys2Proof.Claims.CompletionEvents ∧ Sys2Proof.Claims.InvocationEvents

/-- A pass of placement and the fold of a gang. -/
def Obligations.PlacementAndFold : Prop := Sys2Proof.Claims.PlacementPass ∧ Sys2Proof.Claims.FoldEvent

/-- Events reach the fault queue, wait, or are counted as lost. -/
def Obligations.FaultQueueEvents : Prop := Sys2Proof.Claims.FaultQueueEvents

/-- Service requests, ownership sets and the beginning of a retirement. -/
def Obligations.ServiceEvents : Prop := Sys2Proof.Claims.ServiceRequests ∧ Sys2Proof.Claims.OwnershipSets ∧ Sys2Proof.Claims.RetirementBegins ∧ Sys2Proof.Claims.RetirementEnds

/-- Slots, pages and cellars that change their owner. -/
def Obligations.ResizeEvents : Prop := Sys2Proof.Claims.SlotResize ∧ Sys2Proof.Claims.PageMoves ∧ Sys2Proof.Claims.CellarAndResizeEnd

/-- The Rake and the function level reset. -/
def Obligations.RakeAndFunctionReset : Prop := Sys2Proof.Claims.RakeEvents ∧ Sys2Proof.Claims.FunctionLevelReset

/-- Budgets, telemetry and the thermal trip. -/
def Obligations.PeriodEvents : Prop := Sys2Proof.Claims.PeriodEvents

/-- Segments, retirement, landing, faults and the watchdog of copies. -/
def Obligations.CopyEvents : Prop := Sys2Proof.Claims.CopyEvents ∧ Sys2Proof.Claims.CopyBytes

/-- Contributions, results and aborts of collectives, and a link that fails. -/
def Obligations.CollectiveEvents : Prop := Sys2Proof.Claims.CollectiveEvents ∧ Sys2Proof.Claims.LinkFailure

/-- The Press: start, k-blocks, write-back and the stop after 16,384 cycles. -/
def Obligations.PressEvents : Prop := Sys2Proof.Claims.PressEvents ∧ Sys2Proof.Claims.PressValues

/-- Directory requests and landings at their trellis. -/
def Obligations.DirectoryEvents : Prop := Sys2Proof.Claims.DirectoryEvents

/-- A census from its solicitation to its completion. -/
def Obligations.CensusEvents : Prop := Sys2Proof.Claims.CensusEvents

/-- Release policies and label grants. -/
def Obligations.SecurityEvents : Prop := Sys2Proof.Claims.PolicyEvents ∧ Sys2Proof.Claims.LabelGrants

/-- Host accesses and link packets. -/
def Obligations.OutsideEvents : Prop := Sys2Proof.Claims.HostAccesses ∧ Sys2Proof.Claims.LinkEvents

/-- Resets, power-on, attestation and configuration. -/
def Obligations.PowerAndConfiguration : Prop := Sys2Proof.Claims.PowerEvents ∧ Sys2Proof.Claims.EmptyConfiguration

/-- Decoding the bytes of a well-formed instruction gives it back. -/
def Obligations.EncodeDecode : Prop := Sys2Proof.Claims.EncodeDecode

/-- What decodes is well formed and encodes to the same bits; what is no instruction is refused. -/
def Obligations.DecodeEncode : Prop := Sys2Proof.Claims.DecodeEncode ∧ Sys2Proof.Claims.DecodeRejects

/-- Words written out from the spec decode to their instructions. -/
def Obligations.DecodeWords : Prop := Sys2Proof.Claims.DecodeWords

/-- A turn of a ready thread runs exactly the decoded instruction. -/
def Obligations.StepRunsDecoded : Prop := Sys2Proof.Claims.StepRunsDecoded

/-- What reset leaves. -/
def Obligations.ResetState : Prop := Sys2Proof.Claims.ResetState

/-- Every step keeps the stores in their canonical form. -/
def Obligations.StepKeepsCanonical : Prop := Sys2Proof.Claims.StepKeepsCanonical

/-- A halted part stays halted until a power-on and changes nothing. -/
def Obligations.HaltedPartStays : Prop := Sys2Proof.Claims.HaltedPartStays

/-- The frame of a register write, and the register checks of an issue. -/
def Obligations.FrameAndChecks : Prop := Sys2Proof.Claims.RegisterWriteFrame ∧ Sys2Proof.Claims.RegisterChecks
end

