-- ==== Sys2Proof/Laws/Dispatch.lean ====
section
/-! SUPPORT. The meaning that `exec` gives each constructor, one equation per arm, so that no proof unfolds the table. -/

namespace Sys2Proof.Machine

open Sys2Proof

@[simp] theorem exec_asyncTrapDelivery : ∀ s : State, exec .asyncTrapDelivery s = execAsyncTrapDelivery s := fun _ => rfl
@[simp] theorem exec_fetchLineInstall : ∀ read (s : State), exec (.fetchLineInstall read) s = execFetchLineInstall read s := fun _ _ => rfl
@[simp] theorem exec_bankArbitration : ∀ pan bank (s : State), exec (.bankArbitration pan bank) s = execBankArbitration pan bank s := fun _ _ _ => rfl
@[simp] theorem exec_resultFill : ∀ fill (s : State), exec (.resultFill fill) s = execResultFill fill s := fun _ _ => rfl
@[simp] theorem exec_migrationArrival : ∀ uid (s : State), exec (.migrationArrival uid) s = execMigrationArrival uid s := fun _ _ => rfl
@[simp] theorem exec_arrivalBufferPlace : ∀ core part (s : State), exec (.arrivalBufferPlace core part) s = execArrivalBufferPlace core part s := fun _ _ _ => rfl
@[simp] theorem exec_migrationResend : ∀ uid (s : State), exec (.migrationResend uid) s = execMigrationResend uid s := fun _ _ => rfl
@[simp] theorem exec_migrationPlacedNotice : ∀ core slot (s : State), exec (.migrationPlacedNotice core slot) s = execMigrationPlacedNotice core slot s := fun _ _ _ => rfl
@[simp] theorem exec_migrationFallback : ∀ uid (s : State), exec (.migrationFallback uid) s = execMigrationFallback uid s := fun _ _ => rfl
@[simp] theorem exec_proxiedAccess : ∀ acc (s : State), exec (.proxiedAccess acc) s = execProxiedAccess acc s := fun _ _ => rfl
@[simp] theorem exec_postedWriteArrival : ∀ acc (s : State), exec (.postedWriteArrival acc) s = execPostedWriteArrival acc s := fun _ _ => rfl
@[simp] theorem exec_postedWriteAck : ∀ acc (s : State), exec (.postedWriteAck acc) s = execPostedWriteAck acc s := fun _ _ => rfl
@[simp] theorem exec_postedWakeArrival : ∀ acc (s : State), exec (.postedWakeArrival acc) s = execPostedWakeArrival acc s := fun _ _ => rfl
@[simp] theorem exec_translationRequest : ∀ req (s : State), exec (.translationRequest req) s = execTranslationRequest req s := fun _ _ => rfl
@[simp] theorem exec_translationWalkDone : ∀ walk (s : State), exec (.translationWalkDone walk) s = execTranslationWalkDone walk s := fun _ _ => rfl
@[simp] theorem exec_l2FillBurst : ∀ fill (s : State), exec (.l2FillBurst fill) s = execL2FillBurst fill s := fun _ _ => rfl
@[simp] theorem exec_hbmFillReturn : ∀ fill (s : State), exec (.hbmFillReturn fill) s = execHbmFillReturn fill s := fun _ _ => rfl
@[simp] theorem exec_crossDieWriteApply : ∀ src dst (s : State), exec (.crossDieWriteApply src dst) s = execCrossDieWriteApply src dst s := fun _ _ _ => rfl
@[simp] theorem exec_clockBeat : ∀ s : State, exec .clockBeat s = execClockBeat s := fun _ => rfl
@[simp] theorem exec_dclockReport : ∀ die counts (s : State), exec (.dclockReport die counts) s = execDclockReport die counts s := fun _ _ _ => rfl
@[simp] theorem exec_vclockZeroing : ∀ s : State, exec .vclockZeroing s = execVclockZeroing s := fun _ => rfl
@[simp] theorem exec_globalFenceOrdering : ∀ uid (s : State), exec (.globalFenceOrdering uid) s = execGlobalFenceOrdering uid s := fun _ _ => rfl
@[simp] theorem exec_barrierRequest : ∀ pan cycle (s : State), exec (.barrierRequest pan cycle) s = execBarrierRequest pan cycle s := fun _ _ _ => rfl
@[simp] theorem exec_parkTimeout : ∀ uid stamp (s : State), exec (.parkTimeout uid stamp) s = execParkTimeout uid stamp s := fun _ _ _ => rfl
@[simp] theorem exec_sleepTimeout : ∀ uid stamp (s : State), exec (.sleepTimeout uid stamp) s = execSleepTimeout uid stamp s := fun _ _ _ => rfl
@[simp] theorem exec_launchWindowSubmit : ∀ vf off data (s : State), exec (.launchWindowSubmit vf off data) s = execLaunchWindowSubmit vf off data s := fun _ _ _ _ => rfl
@[simp] theorem exec_invocationArrival : ∀ inv (s : State), exec (.invocationArrival inv) s = execInvocationArrival inv s := fun _ _ => rfl
@[simp] theorem exec_launchPlacementPass : ∀ part (s : State), exec (.launchPlacementPass part) s = execLaunchPlacementPass part s := fun _ _ => rfl
@[simp] theorem exec_waitonPoll : ∀ part (s : State), exec (.waitonPoll part) s = execWaitonPoll part s := fun _ _ => rfl
@[simp] theorem exec_priorityAging : ∀ s : State, exec .priorityAging s = execPriorityAging s := fun _ => rfl
@[simp] theorem exec_completionWrite : ∀ part seq (s : State), exec (.completionWrite part seq) s = execCompletionWrite part seq s := fun _ _ _ => rfl
@[simp] theorem exec_msixRaise : ∀ vf vec (s : State), exec (.msixRaise vf vec) s = execMsixRaise vf vec s := fun _ _ _ => rfl
@[simp] theorem exec_handlerErrorCompletion : ∀ part ev (s : State), exec (.handlerErrorCompletion part ev) s = execHandlerErrorCompletion part ev s := fun _ _ _ => rfl
@[simp] theorem exec_fold : ∀ part gang why (s : State), exec (.fold part gang why) s = execFold part gang why s := fun _ _ _ _ => rfl
@[simp] theorem exec_ownership : ∀ part slot (s : State), exec (.ownership part slot) s = execOwnership part slot s := fun _ _ _ => rfl
@[simp] theorem exec_slotHandover : ∀ core slot (s : State), exec (.slotHandover core slot) s = execSlotHandover core slot s := fun _ _ _ => rfl
@[simp] theorem exec_slotScrubDone : ∀ core slot (s : State), exec (.slotScrubDone core slot) s = execSlotScrubDone core slot s := fun _ _ _ => rfl
@[simp] theorem exec_pageMove : ∀ part pan page (s : State), exec (.pageMove part pan page) s = execPageMove part pan page s := fun _ _ _ _ => rfl
@[simp] theorem exec_pageMoveRetire : ∀ part pan page (s : State), exec (.pageMoveRetire part pan page) s = execPageMoveRetire part pan page s := fun _ _ _ _ => rfl
@[simp] theorem exec_cellarClear : ∀ pan cellar (s : State), exec (.cellarClear pan cellar) s = execCellarClear pan cellar s := fun _ _ _ => rfl
@[simp] theorem exec_resized : ∀ part (s : State), exec (.resized part) s = execResized part s := fun _ _ => rfl
@[simp] theorem exec_root : ∀ part slot (s : State), exec (.root part slot) s = execRoot part slot s := fun _ _ _ => rfl
@[simp] theorem exec_frames : ∀ part slot (s : State), exec (.frames part slot) s = execFrames part slot s := fun _ _ _ => rfl
@[simp] theorem exec_release : ∀ part slot (s : State), exec (.release part slot) s = execRelease part slot s := fun _ _ _ => rfl
@[simp] theorem exec_retire : ∀ part slot (s : State), exec (.retire part slot) s = execRetire part slot s := fun _ _ _ => rfl
@[simp] theorem exec_rackSegment : ∀ trellis cmd (s : State), exec (.rackSegment trellis cmd) s = execRackSegment trellis cmd s := fun _ _ _ => rfl
@[simp] theorem exec_rackRetire : ∀ trellis cmd (s : State), exec (.rackRetire trellis cmd) s = execRackRetire trellis cmd s := fun _ _ _ => rfl
@[simp] theorem exec_followOnEnqueue : ∀ trellis cmd (s : State), exec (.followOnEnqueue trellis cmd) s = execFollowOnEnqueue trellis cmd s := fun _ _ _ => rfl
@[simp] theorem exec_rackWatchdog : ∀ trellis cmd (s : State), exec (.rackWatchdog trellis cmd) s = execRackWatchdog trellis cmd s := fun _ _ _ => rfl
@[simp] theorem exec_collContribution : ∀ msg (s : State), exec (.collContribution msg) s = execCollContribution msg s := fun _ _ => rfl
@[simp] theorem exec_collTimeout : ∀ tag epoch (s : State), exec (.collTimeout tag epoch) s = execCollTimeout tag epoch s := fun _ _ _ => rfl
@[simp] theorem exec_linkFailure : ∀ port (s : State), exec (.linkFailure port) s = execLinkFailure port s := fun _ _ => rfl
@[simp] theorem exec_pressOpStart : ∀ trellis (s : State), exec (.pressOpStart trellis) s = execPressOpStart trellis s := fun _ _ => rfl
@[simp] theorem exec_pressKblock : ∀ trellis (s : State), exec (.pressKblock trellis) s = execPressKblock trellis s := fun _ _ => rfl
@[simp] theorem exec_pressOpRetire : ∀ trellis (s : State), exec (.pressOpRetire trellis) s = execPressOpRetire trellis s := fun _ _ => rfl
@[simp] theorem exec_pressWatchdog : ∀ trellis (s : State), exec (.pressWatchdog trellis) s = execPressWatchdog trellis s := fun _ _ => rfl
@[simp] theorem exec_tdirPerform : ∀ trellis req (s : State), exec (.tdirPerform trellis req) s = execTdirPerform trellis req s := fun _ _ _ => rfl
@[simp] theorem exec_tmovePerform : ∀ trellis req (s : State), exec (.tmovePerform trellis req) s = execTmovePerform trellis req s := fun _ _ _ => rfl
@[simp] theorem exec_entryLanding : ∀ trellis req (s : State), exec (.entryLanding trellis req) s = execEntryLanding trellis req s := fun _ _ _ => rfl
@[simp] theorem exec_censusRequest : ∀ req (s : State), exec (.censusRequest req) s = execCensusRequest req s := fun _ _ => rfl
@[simp] theorem exec_censusBroadcast : ∀ trellis census (s : State), exec (.censusBroadcast trellis census) s = execCensusBroadcast trellis census s := fun _ _ _ => rfl
@[simp] theorem exec_responderStart : ∀ trellis (s : State), exec (.responderStart trellis) s = execResponderStart trellis s := fun _ _ => rfl
@[simp] theorem exec_trellisReport : ∀ trellis census (s : State), exec (.trellisReport trellis census) s = execTrellisReport trellis census s := fun _ _ _ => rfl
@[simp] theorem exec_panNodeReport : ∀ pan census (s : State), exec (.panNodeReport pan census) s = execPanNodeReport pan census s := fun _ _ _ => rfl
@[simp] theorem exec_landingNotice : ∀ part move (s : State), exec (.landingNotice part move) s = execLandingNotice part move s := fun _ _ _ => rfl
@[simp] theorem exec_censusComplete : ∀ part census (s : State), exec (.censusComplete part census) s = execCensusComplete part census s := fun _ _ _ => rfl
@[simp] theorem exec_policyInstall : ∀ pol (s : State), exec (.policyInstall pol) s = execPolicyInstall pol s := fun _ _ => rfl
@[simp] theorem exec_policyRevoke : ∀ pol (s : State), exec (.policyRevoke pol) s = execPolicyRevoke pol s := fun _ _ => rfl
@[simp] theorem exec_labelGrant : ∀ pol (s : State), exec (.labelGrant pol) s = execLabelGrant pol s := fun _ _ => rfl
@[simp] theorem exec_policyExpiry : ∀ id (s : State), exec (.policyExpiry id) s = execPolicyExpiry id s := fun _ _ => rfl
@[simp] theorem exec_faultQueueEvent : ∀ part ev (s : State), exec (.faultQueueEvent part ev) s = execFaultQueueEvent part ev s := fun _ _ _ => rfl
@[simp] theorem exec_faultQueueRetry : ∀ part (s : State), exec (.faultQueueRetry part) s = execFaultQueueRetry part s := fun _ _ => rfl
@[simp] theorem exec_slotTimerExpiry : ∀ uid (s : State), exec (.slotTimerExpiry uid) s = execSlotTimerExpiry uid s := fun _ _ => rfl
@[simp] theorem exec_heartbeatMiss : ∀ uid (s : State), exec (.heartbeatMiss uid) s = execHeartbeatMiss uid s := fun _ _ => rfl
@[simp] theorem exec_budgetPeriod : ∀ s : State, exec .budgetPeriod s = execBudgetPeriod s := fun _ => rfl
@[simp] theorem exec_thermtrip : ∀ temp (s : State), exec (.thermtrip temp) s = execThermtrip temp s := fun _ _ => rfl
@[simp] theorem exec_regulatorWindow : ∀ s : State, exec .regulatorWindow s = execRegulatorWindow s := fun _ => rfl
@[simp] theorem exec_channelDerate : ∀ slice (s : State), exec (.channelDerate slice) s = execChannelDerate slice s := fun _ _ => rfl
@[simp] theorem exec_waySweep : ∀ slice (s : State), exec (.waySweep slice) s = execWaySweep slice s := fun _ _ => rfl
@[simp] theorem exec_telemetryExport : ∀ part (s : State), exec (.telemetryExport part) s = execTelemetryExport part s := fun _ _ => rfl
@[simp] theorem exec_functionLevelReset : ∀ vf (s : State), exec (.functionLevelReset vf) s = execFunctionLevelReset vf s := fun _ _ => rfl
@[simp] theorem exec_rakejob : ∀ value (s : State), exec (.rakejob value) s = execRakejob value s := fun _ _ => rfl
@[simp] theorem exec_rakeItemDone : ∀ s : State, exec .rakeItemDone s = execRakeItemDone s := fun _ => rfl
@[simp] theorem exec_rakestat : ∀ value (s : State), exec (.rakestat value) s = execRakestat value s := fun _ _ => rfl
@[simp] theorem exec_deviceReset : ∀ s : State, exec .deviceReset s = execDeviceReset s := fun _ => rfl
@[simp] theorem exec_powerOn : ∀ fw dm cfg (s : State), exec (.powerOn fw dm cfg) s = execPowerOn fw dm cfg s := fun _ _ _ _ => rfl
@[simp] theorem exec_attestationRequest : ∀ nonce (s : State), exec (.attestationRequest nonce) s = execAttestationRequest nonce s := fun _ _ => rfl
@[simp] theorem exec_portAttestation : ∀ port (s : State), exec (.portAttestation port) s = execPortAttestation port s := fun _ _ => rfl
@[simp] theorem exec_fabricPacketArrival : ∀ pkt (s : State), exec (.fabricPacketArrival pkt) s = execFabricPacketArrival pkt s := fun _ _ => rfl
@[simp] theorem exec_hostWrite : ∀ vf addr data (s : State), exec (.hostWrite vf addr data) s = execHostWrite vf addr data s := fun _ _ _ _ => rfl
@[simp] theorem exec_hostRead : ∀ vf addr len (s : State), exec (.hostRead vf addr len) s = execHostRead vf addr len s := fun _ _ _ _ => rfl
@[simp] theorem exec_signedConfigurationRecord : ∀ rec (s : State), exec (.signedConfigurationRecord rec) s = execSignedConfigurationRecord rec s := fun _ _ => rfl
@[simp] theorem exec_add : ∀ d a b ta tb (s : State), exec (.add d a b ta tb) s = execAdd d a b ta tb s := fun _ _ _ _ _ _ => rfl
@[simp] theorem exec_sub : ∀ d a b ta tb (s : State), exec (.sub d a b ta tb) s = execSub d a b ta tb s := fun _ _ _ _ _ _ => rfl
@[simp] theorem exec_and : ∀ d a b ta tb (s : State), exec (.and d a b ta tb) s = execAnd d a b ta tb s := fun _ _ _ _ _ _ => rfl
@[simp] theorem exec_or : ∀ d a b ta tb (s : State), exec (.or d a b ta tb) s = execOr d a b ta tb s := fun _ _ _ _ _ _ => rfl
@[simp] theorem exec_xor : ∀ d a b ta tb (s : State), exec (.xor d a b ta tb) s = execXor d a b ta tb s := fun _ _ _ _ _ _ => rfl
@[simp] theorem exec_sll : ∀ d a b ta tb (s : State), exec (.sll d a b ta tb) s = execSll d a b ta tb s := fun _ _ _ _ _ _ => rfl
@[simp] theorem exec_srl : ∀ d a b ta tb (s : State), exec (.srl d a b ta tb) s = execSrl d a b ta tb s := fun _ _ _ _ _ _ => rfl
@[simp] theorem exec_sra : ∀ d a b ta tb (s : State), exec (.sra d a b ta tb) s = execSra d a b ta tb s := fun _ _ _ _ _ _ => rfl
@[simp] theorem exec_rot : ∀ d a b ta tb (s : State), exec (.rot d a b ta tb) s = execRot d a b ta tb s := fun _ _ _ _ _ _ => rfl
@[simp] theorem exec_min : ∀ d a b ta tb (s : State), exec (.min d a b ta tb) s = execMin d a b ta tb s := fun _ _ _ _ _ _ => rfl
@[simp] theorem exec_max : ∀ d a b ta tb (s : State), exec (.max d a b ta tb) s = execMax d a b ta tb s := fun _ _ _ _ _ _ => rfl
@[simp] theorem exec_minu : ∀ d a b ta tb (s : State), exec (.minu d a b ta tb) s = execMinu d a b ta tb s := fun _ _ _ _ _ _ => rfl
@[simp] theorem exec_maxu : ∀ d a b ta tb (s : State), exec (.maxu d a b ta tb) s = execMaxu d a b ta tb s := fun _ _ _ _ _ _ => rfl
@[simp] theorem exec_slt : ∀ d a b ta tb (s : State), exec (.slt d a b ta tb) s = execSlt d a b ta tb s := fun _ _ _ _ _ _ => rfl
@[simp] theorem exec_sltu : ∀ d a b ta tb (s : State), exec (.sltu d a b ta tb) s = execSltu d a b ta tb s := fun _ _ _ _ _ _ => rfl
@[simp] theorem exec_seq : ∀ d a b ta tb (s : State), exec (.seq d a b ta tb) s = execSeq d a b ta tb s := fun _ _ _ _ _ _ => rfl
@[simp] theorem exec_sel : ∀ d a b ta tb (s : State), exec (.sel d a b ta tb) s = execSel d a b ta tb s := fun _ _ _ _ _ _ => rfl
@[simp] theorem exec_extSB : ∀ d a ta tb (s : State), exec (.extSB d a ta tb) s = execExtSB d a ta tb s := fun _ _ _ _ _ => rfl
@[simp] theorem exec_extSH : ∀ d a ta tb (s : State), exec (.extSH d a ta tb) s = execExtSH d a ta tb s := fun _ _ _ _ _ => rfl
@[simp] theorem exec_extSW : ∀ d a ta tb (s : State), exec (.extSW d a ta tb) s = execExtSW d a ta tb s := fun _ _ _ _ _ => rfl
@[simp] theorem exec_extZB : ∀ d a ta tb (s : State), exec (.extZB d a ta tb) s = execExtZB d a ta tb s := fun _ _ _ _ _ => rfl
@[simp] theorem exec_extZH : ∀ d a ta tb (s : State), exec (.extZH d a ta tb) s = execExtZH d a ta tb s := fun _ _ _ _ _ => rfl
@[simp] theorem exec_extZW : ∀ d a ta tb (s : State), exec (.extZW d a ta tb) s = execExtZW d a ta tb s := fun _ _ _ _ _ => rfl
@[simp] theorem exec_addi : ∀ d a imm ta (s : State), exec (.addi d a imm ta) s = execAddi d a imm ta s := fun _ _ _ _ _ => rfl
@[simp] theorem exec_andi : ∀ d a imm ta (s : State), exec (.andi d a imm ta) s = execAndi d a imm ta s := fun _ _ _ _ _ => rfl
@[simp] theorem exec_ori : ∀ d a imm ta (s : State), exec (.ori d a imm ta) s = execOri d a imm ta s := fun _ _ _ _ _ => rfl
@[simp] theorem exec_xori : ∀ d a imm ta (s : State), exec (.xori d a imm ta) s = execXori d a imm ta s := fun _ _ _ _ _ => rfl
@[simp] theorem exec_slti : ∀ d a imm ta (s : State), exec (.slti d a imm ta) s = execSlti d a imm ta s := fun _ _ _ _ _ => rfl
@[simp] theorem exec_sltiu : ∀ d a imm ta (s : State), exec (.sltiu d a imm ta) s = execSltiu d a imm ta s := fun _ _ _ _ _ => rfl
@[simp] theorem exec_slli : ∀ d a n ta (s : State), exec (.slli d a n ta) s = execSlli d a n ta s := fun _ _ _ _ _ => rfl
@[simp] theorem exec_srli : ∀ d a n ta (s : State), exec (.srli d a n ta) s = execSrli d a n ta s := fun _ _ _ _ _ => rfl
@[simp] theorem exec_srai : ∀ d a n ta (s : State), exec (.srai d a n ta) s = execSrai d a n ta s := fun _ _ _ _ _ => rfl
@[simp] theorem exec_roti : ∀ d a n ta (s : State), exec (.roti d a n ta) s = execRoti d a n ta s := fun _ _ _ _ _ => rfl
@[simp] theorem exec_lui : ∀ d imm (s : State), exec (.lui d imm) s = execLui d imm s := fun _ _ _ => rfl
@[simp] theorem exec_addpc : ∀ d imm (s : State), exec (.addpc d imm) s = execAddpc d imm s := fun _ _ _ => rfl
@[simp] theorem exec_mul : ∀ d a b ta tb (s : State), exec (.mul d a b ta tb) s = execMul d a b ta tb s := fun _ _ _ _ _ _ => rfl
@[simp] theorem exec_mulh : ∀ d a b ta tb (s : State), exec (.mulh d a b ta tb) s = execMulh d a b ta tb s := fun _ _ _ _ _ _ => rfl
@[simp] theorem exec_mulhu : ∀ d a b ta tb (s : State), exec (.mulhu d a b ta tb) s = execMulhu d a b ta tb s := fun _ _ _ _ _ _ => rfl
@[simp] theorem exec_div : ∀ d a b ta tb (s : State), exec (.div d a b ta tb) s = execDiv d a b ta tb s := fun _ _ _ _ _ _ => rfl
@[simp] theorem exec_divu : ∀ d a b ta tb (s : State), exec (.divu d a b ta tb) s = execDivu d a b ta tb s := fun _ _ _ _ _ _ => rfl
@[simp] theorem exec_rem : ∀ d a b ta tb (s : State), exec (.rem d a b ta tb) s = execRem d a b ta tb s := fun _ _ _ _ _ _ => rfl
@[simp] theorem exec_remu : ∀ d a b ta tb (s : State), exec (.remu d a b ta tb) s = execRemu d a b ta tb s := fun _ _ _ _ _ _ => rfl
@[simp] theorem exec_padd : ∀ d a b w ta tb (s : State), exec (.padd d a b w ta tb) s = execPadd d a b w ta tb s := fun _ _ _ _ _ _ _ => rfl
@[simp] theorem exec_paddSs : ∀ d a b w ta tb (s : State), exec (.paddSs d a b w ta tb) s = execPaddSs d a b w ta tb s := fun _ _ _ _ _ _ _ => rfl
@[simp] theorem exec_paddUs : ∀ d a b w ta tb (s : State), exec (.paddUs d a b w ta tb) s = execPaddUs d a b w ta tb s := fun _ _ _ _ _ _ _ => rfl
@[simp] theorem exec_psub : ∀ d a b w ta tb (s : State), exec (.psub d a b w ta tb) s = execPsub d a b w ta tb s := fun _ _ _ _ _ _ _ => rfl
@[simp] theorem exec_psubSs : ∀ d a b w ta tb (s : State), exec (.psubSs d a b w ta tb) s = execPsubSs d a b w ta tb s := fun _ _ _ _ _ _ _ => rfl
@[simp] theorem exec_psubUs : ∀ d a b w ta tb (s : State), exec (.psubUs d a b w ta tb) s = execPsubUs d a b w ta tb s := fun _ _ _ _ _ _ _ => rfl
@[simp] theorem exec_pmul : ∀ d a b w ta tb (s : State), exec (.pmul d a b w ta tb) s = execPmul d a b w ta tb s := fun _ _ _ _ _ _ _ => rfl
@[simp] theorem exec_pmulSs : ∀ d a b w ta tb (s : State), exec (.pmulSs d a b w ta tb) s = execPmulSs d a b w ta tb s := fun _ _ _ _ _ _ _ => rfl
@[simp] theorem exec_pmin : ∀ d a b w ta tb (s : State), exec (.pmin d a b w ta tb) s = execPmin d a b w ta tb s := fun _ _ _ _ _ _ _ => rfl
@[simp] theorem exec_pminU : ∀ d a b w ta tb (s : State), exec (.pminU d a b w ta tb) s = execPminU d a b w ta tb s := fun _ _ _ _ _ _ _ => rfl
@[simp] theorem exec_pmax : ∀ d a b w ta tb (s : State), exec (.pmax d a b w ta tb) s = execPmax d a b w ta tb s := fun _ _ _ _ _ _ _ => rfl
@[simp] theorem exec_pmaxU : ∀ d a b w ta tb (s : State), exec (.pmaxU d a b w ta tb) s = execPmaxU d a b w ta tb s := fun _ _ _ _ _ _ _ => rfl
@[simp] theorem exec_pshLl : ∀ d a b w ta tb (s : State), exec (.pshLl d a b w ta tb) s = execPshLl d a b w ta tb s := fun _ _ _ _ _ _ _ => rfl
@[simp] theorem exec_pshRl : ∀ d a b w ta tb (s : State), exec (.pshRl d a b w ta tb) s = execPshRl d a b w ta tb s := fun _ _ _ _ _ _ _ => rfl
@[simp] theorem exec_pshRa : ∀ d a b w ta tb (s : State), exec (.pshRa d a b w ta tb) s = execPshRa d a b w ta tb s := fun _ _ _ _ _ _ _ => rfl
@[simp] theorem exec_pcmpEq : ∀ d a b w ta tb (s : State), exec (.pcmpEq d a b w ta tb) s = execPcmpEq d a b w ta tb s := fun _ _ _ _ _ _ _ => rfl
@[simp] theorem exec_pcmpLt : ∀ d a b w ta tb (s : State), exec (.pcmpLt d a b w ta tb) s = execPcmpLt d a b w ta tb s := fun _ _ _ _ _ _ _ => rfl
@[simp] theorem exec_pcmpLtu : ∀ d a b w ta tb (s : State), exec (.pcmpLtu d a b w ta tb) s = execPcmpLtu d a b w ta tb s := fun _ _ _ _ _ _ _ => rfl
@[simp] theorem exec_pabsd : ∀ d a b w ta tb (s : State), exec (.pabsd d a b w ta tb) s = execPabsd d a b w ta tb s := fun _ _ _ _ _ _ _ => rfl
@[simp] theorem exec_ppack : ∀ d a b w ta tb (s : State), exec (.ppack d a b w ta tb) s = execPpack d a b w ta tb s := fun _ _ _ _ _ _ _ => rfl
@[simp] theorem exec_ppackSs : ∀ d a b w ta tb (s : State), exec (.ppackSs d a b w ta tb) s = execPpackSs d a b w ta tb s := fun _ _ _ _ _ _ _ => rfl
@[simp] theorem exec_ppackUs : ∀ d a b w ta tb (s : State), exec (.ppackUs d a b w ta tb) s = execPpackUs d a b w ta tb s := fun _ _ _ _ _ _ _ => rfl
@[simp] theorem exec_cmul : ∀ d a b ta tb (s : State), exec (.cmul d a b ta tb) s = execCmul d a b ta tb s := fun _ _ _ _ _ _ => rfl
@[simp] theorem exec_cmac : ∀ d a b ta tb (s : State), exec (.cmac d a b ta tb) s = execCmac d a b ta tb s := fun _ _ _ _ _ _ => rfl
@[simp] theorem exec_cmacj : ∀ d a b ta tb (s : State), exec (.cmacj d a b ta tb) s = execCmacj d a b ta tb s := fun _ _ _ _ _ _ => rfl
@[simp] theorem exec_cabs2 : ∀ d a ta tb (s : State), exec (.cabs2 d a ta tb) s = execCabs2 d a ta tb s := fun _ _ _ _ _ => rfl
@[simp] theorem exec_mulq : ∀ d a b ta tb (s : State), exec (.mulq d a b ta tb) s = execMulq d a b ta tb s := fun _ _ _ _ _ _ => rfl
@[simp] theorem exec_sat : ∀ d a n ta tb (s : State), exec (.sat d a n ta tb) s = execSat d a n ta tb s := fun _ _ _ _ _ _ => rfl
@[simp] theorem exec_satu : ∀ d a n ta tb (s : State), exec (.satu d a n ta tb) s = execSatu d a n ta tb s := fun _ _ _ _ _ _ => rfl
@[simp] theorem exec_clz : ∀ d a ta tb (s : State), exec (.clz d a ta tb) s = execClz d a ta tb s := fun _ _ _ _ _ => rfl
@[simp] theorem exec_ctz : ∀ d a ta tb (s : State), exec (.ctz d a ta tb) s = execCtz d a ta tb s := fun _ _ _ _ _ => rfl
@[simp] theorem exec_popc : ∀ d a ta tb (s : State), exec (.popc d a ta tb) s = execPopc d a ta tb s := fun _ _ _ _ _ => rfl
@[simp] theorem exec_bswap : ∀ d a ta tb (s : State), exec (.bswap d a ta tb) s = execBswap d a ta tb s := fun _ _ _ _ _ => rfl
@[simp] theorem exec_bext : ∀ d a b ta tb (s : State), exec (.bext d a b ta tb) s = execBext d a b ta tb s := fun _ _ _ _ _ _ => rfl
@[simp] theorem exec_bextu : ∀ d a b ta tb (s : State), exec (.bextu d a b ta tb) s = execBextu d a b ta tb s := fun _ _ _ _ _ _ => rfl
@[simp] theorem exec_bins : ∀ d a b ta tb (s : State), exec (.bins d a b ta tb) s = execBins d a b ta tb s := fun _ _ _ _ _ _ => rfl
@[simp] theorem exec_fadd : ∀ d a b f ta tb (s : State), exec (.fadd d a b f ta tb) s = execFadd d a b f ta tb s := fun _ _ _ _ _ _ _ => rfl
@[simp] theorem exec_fsub : ∀ d a b f ta tb (s : State), exec (.fsub d a b f ta tb) s = execFsub d a b f ta tb s := fun _ _ _ _ _ _ _ => rfl
@[simp] theorem exec_fmul : ∀ d a b f ta tb (s : State), exec (.fmul d a b f ta tb) s = execFmul d a b f ta tb s := fun _ _ _ _ _ _ _ => rfl
@[simp] theorem exec_fma : ∀ d a b f ta tb (s : State), exec (.fma d a b f ta tb) s = execFma d a b f ta tb s := fun _ _ _ _ _ _ _ => rfl
@[simp] theorem exec_fdiv : ∀ d a b f ta tb (s : State), exec (.fdiv d a b f ta tb) s = execFdiv d a b f ta tb s := fun _ _ _ _ _ _ _ => rfl
@[simp] theorem exec_fsqrt : ∀ d a f ta tb (s : State), exec (.fsqrt d a f ta tb) s = execFsqrt d a f ta tb s := fun _ _ _ _ _ _ => rfl
@[simp] theorem exec_fmin : ∀ d a b f ta tb (s : State), exec (.fmin d a b f ta tb) s = execFmin d a b f ta tb s := fun _ _ _ _ _ _ _ => rfl
@[simp] theorem exec_fmax : ∀ d a b f ta tb (s : State), exec (.fmax d a b f ta tb) s = execFmax d a b f ta tb s := fun _ _ _ _ _ _ _ => rfl
@[simp] theorem exec_fcmpEq : ∀ d a b f ta tb (s : State), exec (.fcmpEq d a b f ta tb) s = execFcmpEq d a b f ta tb s := fun _ _ _ _ _ _ _ => rfl
@[simp] theorem exec_fcmpLt : ∀ d a b f ta tb (s : State), exec (.fcmpLt d a b f ta tb) s = execFcmpLt d a b f ta tb s := fun _ _ _ _ _ _ _ => rfl
@[simp] theorem exec_fcmpLe : ∀ d a b f ta tb (s : State), exec (.fcmpLe d a b f ta tb) s = execFcmpLe d a b f ta tb s := fun _ _ _ _ _ _ _ => rfl
@[simp] theorem exec_fclass : ∀ d a f ta tb (s : State), exec (.fclass d a f ta tb) s = execFclass d a f ta tb s := fun _ _ _ _ _ _ => rfl
@[simp] theorem exec_rnd : ∀ d a f rm ta tb (s : State), exec (.rnd d a f rm ta tb) s = execRnd d a f rm ta tb s := fun _ _ _ _ _ _ _ => rfl
@[simp] theorem exec_rseed : ∀ d a ta tb (s : State), exec (.rseed d a ta tb) s = execRseed d a ta tb s := fun _ _ _ _ _ => rfl
@[simp] theorem exec_cvt : ∀ d a rnd dst src ta tb (s : State), exec (.cvt d a rnd dst src ta tb) s = execCvt d a rnd dst src ta tb s := fun _ _ _ _ _ _ _ _ => rfl
@[simp] theorem exec_ld : ∀ d a imm sz sx ord ta (s : State), exec (.ld d a imm sz sx ord ta) s = execLd d a imm sz sx ord ta s := fun _ _ _ _ _ _ _ _ => rfl
@[simp] theorem exec_st : ∀ d a imm sz ord ta (s : State), exec (.st d a imm sz ord ta) s = execSt d a imm sz ord ta s := fun _ _ _ _ _ _ _ => rfl
@[simp] theorem exec_ldm : ∀ a b off n q ta tb (s : State), exec (.ldm a b off n q ta tb) s = execLdm a b off n q ta tb s := fun _ _ _ _ _ _ _ _ => rfl
@[simp] theorem exec_stm : ∀ a b off n q ta tb (s : State), exec (.stm a b off n q ta tb) s = execStm a b off n q ta tb s := fun _ _ _ _ _ _ _ _ => rfl
@[simp] theorem exec_ldfe : ∀ d a imm ord ta (s : State), exec (.ldfe d a imm ord ta) s = execLdfe d a imm ord ta s := fun _ _ _ _ _ _ => rfl
@[simp] theorem exec_ldff : ∀ d a imm ord ta (s : State), exec (.ldff d a imm ord ta) s = execLdff d a imm ord ta s := fun _ _ _ _ _ _ => rfl
@[simp] theorem exec_stfe : ∀ d a imm ord ta (s : State), exec (.stfe d a imm ord ta) s = execStfe d a imm ord ta s := fun _ _ _ _ _ _ => rfl
@[simp] theorem exec_stff : ∀ d a imm ord ta (s : State), exec (.stff d a imm ord ta) s = execStff d a imm ord ta s := fun _ _ _ _ _ _ => rfl
@[simp] theorem exec_tagr : ∀ d a imm ord ta (s : State), exec (.tagr d a imm ord ta) s = execTagr d a imm ord ta s := fun _ _ _ _ _ _ => rfl
@[simp] theorem exec_tagw : ∀ d a imm ord ta (s : State), exec (.tagw d a imm ord ta) s = execTagw d a imm ord ta s := fun _ _ _ _ _ _ => rfl
@[simp] theorem exec_setvat : ∀ d a imm ta (s : State), exec (.setvat d a imm ta) s = execSetvat d a imm ta s := fun _ _ _ _ _ => rfl
@[simp] theorem exec_amoAdd : ∀ d a b dbl r o ta tb (s : State), exec (.amoAdd d a b dbl r o ta tb) s = execAmoAdd d a b dbl r o ta tb s := fun _ _ _ _ _ _ _ _ _ => rfl
@[simp] theorem exec_amoAnd : ∀ d a b dbl r o ta tb (s : State), exec (.amoAnd d a b dbl r o ta tb) s = execAmoAnd d a b dbl r o ta tb s := fun _ _ _ _ _ _ _ _ _ => rfl
@[simp] theorem exec_amoOr : ∀ d a b dbl r o ta tb (s : State), exec (.amoOr d a b dbl r o ta tb) s = execAmoOr d a b dbl r o ta tb s := fun _ _ _ _ _ _ _ _ _ => rfl
@[simp] theorem exec_amoXor : ∀ d a b dbl r o ta tb (s : State), exec (.amoXor d a b dbl r o ta tb) s = execAmoXor d a b dbl r o ta tb s := fun _ _ _ _ _ _ _ _ _ => rfl
@[simp] theorem exec_amoMin : ∀ d a b dbl r o ta tb (s : State), exec (.amoMin d a b dbl r o ta tb) s = execAmoMin d a b dbl r o ta tb s := fun _ _ _ _ _ _ _ _ _ => rfl
@[simp] theorem exec_amoMax : ∀ d a b dbl r o ta tb (s : State), exec (.amoMax d a b dbl r o ta tb) s = execAmoMax d a b dbl r o ta tb s := fun _ _ _ _ _ _ _ _ _ => rfl
@[simp] theorem exec_amoMinu : ∀ d a b dbl r o ta tb (s : State), exec (.amoMinu d a b dbl r o ta tb) s = execAmoMinu d a b dbl r o ta tb s := fun _ _ _ _ _ _ _ _ _ => rfl
@[simp] theorem exec_amoMaxu : ∀ d a b dbl r o ta tb (s : State), exec (.amoMaxu d a b dbl r o ta tb) s = execAmoMaxu d a b dbl r o ta tb s := fun _ _ _ _ _ _ _ _ _ => rfl
@[simp] theorem exec_amoSwap : ∀ d a b dbl r o ta tb (s : State), exec (.amoSwap d a b dbl r o ta tb) s = execAmoSwap d a b dbl r o ta tb s := fun _ _ _ _ _ _ _ _ _ => rfl
@[simp] theorem exec_amoFadd32 : ∀ d a b r o ta tb (s : State), exec (.amoFadd32 d a b r o ta tb) s = execAmoFadd32 d a b r o ta tb s := fun _ _ _ _ _ _ _ _ => rfl
@[simp] theorem exec_redAdd : ∀ a b dbl r o ta tb (s : State), exec (.redAdd a b dbl r o ta tb) s = execRedAdd a b dbl r o ta tb s := fun _ _ _ _ _ _ _ _ => rfl
@[simp] theorem exec_redAnd : ∀ a b dbl r o ta tb (s : State), exec (.redAnd a b dbl r o ta tb) s = execRedAnd a b dbl r o ta tb s := fun _ _ _ _ _ _ _ _ => rfl
@[simp] theorem exec_redOr : ∀ a b dbl r o ta tb (s : State), exec (.redOr a b dbl r o ta tb) s = execRedOr a b dbl r o ta tb s := fun _ _ _ _ _ _ _ _ => rfl
@[simp] theorem exec_redXor : ∀ a b dbl r o ta tb (s : State), exec (.redXor a b dbl r o ta tb) s = execRedXor a b dbl r o ta tb s := fun _ _ _ _ _ _ _ _ => rfl
@[simp] theorem exec_redMin : ∀ a b dbl r o ta tb (s : State), exec (.redMin a b dbl r o ta tb) s = execRedMin a b dbl r o ta tb s := fun _ _ _ _ _ _ _ _ => rfl
@[simp] theorem exec_redMax : ∀ a b dbl r o ta tb (s : State), exec (.redMax a b dbl r o ta tb) s = execRedMax a b dbl r o ta tb s := fun _ _ _ _ _ _ _ _ => rfl
@[simp] theorem exec_redMinu : ∀ a b dbl r o ta tb (s : State), exec (.redMinu a b dbl r o ta tb) s = execRedMinu a b dbl r o ta tb s := fun _ _ _ _ _ _ _ _ => rfl
@[simp] theorem exec_redMaxu : ∀ a b dbl r o ta tb (s : State), exec (.redMaxu a b dbl r o ta tb) s = execRedMaxu a b dbl r o ta tb s := fun _ _ _ _ _ _ _ _ => rfl
@[simp] theorem exec_redSwap : ∀ a b dbl r o ta tb (s : State), exec (.redSwap a b dbl r o ta tb) s = execRedSwap a b dbl r o ta tb s := fun _ _ _ _ _ _ _ _ => rfl
@[simp] theorem exec_redFadd32 : ∀ a b r o ta tb (s : State), exec (.redFadd32 a b r o ta tb) s = execRedFadd32 a b r o ta tb s := fun _ _ _ _ _ _ _ => rfl
@[simp] theorem exec_cas : ∀ d a b r o ta tb (s : State), exec (.cas d a b r o ta tb) s = execCas d a b r o ta tb s := fun _ _ _ _ _ _ _ _ => rfl
@[simp] theorem exec_cas2 : ∀ d a b r o ta tb (s : State), exec (.cas2 d a b r o ta tb) s = execCas2 d a b r o ta tb s := fun _ _ _ _ _ _ _ _ => rfl
@[simp] theorem exec_park : ∀ d a b ta tb (s : State), exec (.park d a b ta tb) s = execPark d a b ta tb s := fun _ _ _ _ _ _ => rfl
@[simp] theorem exec_wake : ∀ a b ta tb (s : State), exec (.wake a b ta tb) s = execWake a b ta tb s := fun _ _ _ _ _ => rfl
@[simp] theorem exec_sleep : ∀ d a ta tb (s : State), exec (.sleep d a ta tb) s = execSleep d a ta tb s := fun _ _ _ _ _ => rfl
@[simp] theorem exec_bar : ∀ d n ta tb (s : State), exec (.bar d n ta tb) s = execBar d n ta tb s := fun _ _ _ _ _ => rfl
@[simp] theorem exec_barw : ∀ d b n ta tb (s : State), exec (.barw d b n ta tb) s = execBarw d b n ta tb s := fun _ _ _ _ _ _ => rfl
@[simp] theorem exec_fencePan : ∀ ta tb (s : State), exec (.fencePan ta tb) s = execFencePan ta tb s := fun _ _ _ => rfl
@[simp] theorem exec_fenceTenant : ∀ ta tb (s : State), exec (.fenceTenant ta tb) s = execFenceTenant ta tb s := fun _ _ _ => rfl
@[simp] theorem exec_fenceSystem : ∀ ta tb (s : State), exec (.fenceSystem ta tb) s = execFenceSystem ta tb s := fun _ _ _ => rfl
@[simp] theorem exec_fenceGlobal : ∀ ta tb (s : State), exec (.fenceGlobal ta tb) s = execFenceGlobal ta tb s := fun _ _ _ => rfl
@[simp] theorem exec_hop : ∀ a ta tb (s : State), exec (.hop a ta tb) s = execHop a ta tb s := fun _ _ _ _ => rfl
@[simp] theorem exec_live : ∀ d a ta tb (s : State), exec (.live d a ta tb) s = execLive d a ta tb s := fun _ _ _ _ _ => rfl
@[simp] theorem exec_tlbinvTrellis : ∀ a b ta tb (s : State), exec (.tlbinvTrellis a b ta tb) s = execTlbinvTrellis a b ta tb s := fun _ _ _ _ _ => rfl
@[simp] theorem exec_tlbinvPan : ∀ a b ta tb (s : State), exec (.tlbinvPan a b ta tb) s = execTlbinvPan a b ta tb s := fun _ _ _ _ _ => rfl
@[simp] theorem exec_tlbinvPartition : ∀ a b ta tb (s : State), exec (.tlbinvPartition a b ta tb) s = execTlbinvPartition a b ta tb s := fun _ _ _ _ _ => rfl
@[simp] theorem exec_tlbinvPackage : ∀ a b ta tb (s : State), exec (.tlbinvPackage a b ta tb) s = execTlbinvPackage a b ta tb s := fun _ _ _ _ _ => rfl
@[simp] theorem exec_beq : ∀ a b imm (s : State), exec (.beq a b imm) s = execBeq a b imm s := fun _ _ _ _ => rfl
@[simp] theorem exec_bne : ∀ a b imm (s : State), exec (.bne a b imm) s = execBne a b imm s := fun _ _ _ _ => rfl
@[simp] theorem exec_blt : ∀ a b imm (s : State), exec (.blt a b imm) s = execBlt a b imm s := fun _ _ _ _ => rfl
@[simp] theorem exec_bge : ∀ a b imm (s : State), exec (.bge a b imm) s = execBge a b imm s := fun _ _ _ _ => rfl
@[simp] theorem exec_bltu : ∀ a b imm (s : State), exec (.bltu a b imm) s = execBltu a b imm s := fun _ _ _ _ => rfl
@[simp] theorem exec_bgeu : ∀ a b imm (s : State), exec (.bgeu a b imm) s = execBgeu a b imm s := fun _ _ _ _ => rfl
@[simp] theorem exec_jal : ∀ d imm (s : State), exec (.jal d imm) s = execJal d imm s := fun _ _ _ => rfl
@[simp] theorem exec_jalr : ∀ d a imm ta (s : State), exec (.jalr d a imm ta) s = execJalr d a imm ta s := fun _ _ _ _ _ => rfl
@[simp] theorem exec_nest : ∀ d a ta tb (s : State), exec (.nest d a ta tb) s = execNest d a ta tb s := fun _ _ _ _ _ => rfl
@[simp] theorem exec_next : ∀ d ta tb (s : State), exec (.next d ta tb) s = execNext d ta tb s := fun _ _ _ _ => rfl
@[simp] theorem exec_fork : ∀ d a b ta tb (s : State), exec (.fork d a b ta tb) s = execFork d a b ta tb s := fun _ _ _ _ _ _ => rfl
@[simp] theorem exec_join : ∀ d a b ta tb (s : State), exec (.join d a b ta tb) s = execJoin d a b ta tb s := fun _ _ _ _ _ _ => rfl
@[simp] theorem exec_jdone : ∀ a b ta tb (s : State), exec (.jdone a b ta tb) s = execJdone a b ta tb s := fun _ _ _ _ _ => rfl
@[simp] theorem exec_spawn : ∀ d a b ta tb (s : State), exec (.spawn d a b ta tb) s = execSpawn d a b ta tb s := fun _ _ _ _ _ _ => rfl
@[simp] theorem exec_quit : ∀ ta tb (s : State), exec (.quit ta tb) s = execQuit ta tb s := fun _ _ _ => rfl
@[simp] theorem exec_beat : ∀ ta tb (s : State), exec (.beat ta tb) s = execBeat ta tb s := fun _ _ _ => rfl
@[simp] theorem exec_ifence : ∀ ta tb (s : State), exec (.ifence ta tb) s = execIfence ta tb s := fun _ _ _ => rfl
@[simp] theorem exec_mfc : ∀ d c (s : State), exec (.mfc d c) s = execMfc d c s := fun _ _ _ => rfl
@[simp] theorem exec_mtc : ∀ a c (s : State), exec (.mtc a c) s = execMtc a c s := fun _ _ _ => rfl
@[simp] theorem exec_mtcStatus : ∀ a (s : State), exec (.mtcStatus a) s = execMtcStatus a s := fun _ _ => rfl
@[simp] theorem exec_mtcLive : ∀ a (s : State), exec (.mtcLive a) s = execMtcLive a s := fun _ _ => rfl
@[simp] theorem exec_mtcSeed : ∀ a (s : State), exec (.mtcSeed a) s = execMtcSeed a s := fun _ _ => rfl
@[simp] theorem exec_mtcDeftrapvec : ∀ a (s : State), exec (.mtcDeftrapvec a) s = execMtcDeftrapvec a s := fun _ _ => rfl
@[simp] theorem exec_mtcHtbase : ∀ a (s : State), exec (.mtcHtbase a) s = execMtcHtbase a s := fun _ _ => rfl
@[simp] theorem exec_mtcFqbase : ∀ a (s : State), exec (.mtcFqbase a) s = execMtcFqbase a s := fun _ _ => rfl
@[simp] theorem exec_mtcWmdata : ∀ a (s : State), exec (.mtcWmdata a) s = execMtcWmdata a s := fun _ _ => rfl
@[simp] theorem exec_trap : ∀ n (s : State), exec (.trap n) s = execTrap n s := fun _ _ => rfl
@[simp] theorem exec_sys : ∀ n (s : State), exec (.sys n) s = execSys n s := fun _ _ => rfl
@[simp] theorem exec_eret : ∀ s : State, exec .eret s = execEret s := fun _ => rfl
@[simp] theorem exec_vadd : ∀ d a b k e z (s : State), exec (.vadd d a b k e z) s = execVadd d a b k e z s := fun _ _ _ _ _ _ _ => rfl
@[simp] theorem exec_vsub : ∀ d a b k e z (s : State), exec (.vsub d a b k e z) s = execVsub d a b k e z s := fun _ _ _ _ _ _ _ => rfl
@[simp] theorem exec_vmul : ∀ d a b k e z (s : State), exec (.vmul d a b k e z) s = execVmul d a b k e z s := fun _ _ _ _ _ _ _ => rfl
@[simp] theorem exec_vmac : ∀ d a b k e z (s : State), exec (.vmac d a b k e z) s = execVmac d a b k e z s := fun _ _ _ _ _ _ _ => rfl
@[simp] theorem exec_vmin : ∀ d a b k e z (s : State), exec (.vmin d a b k e z) s = execVmin d a b k e z s := fun _ _ _ _ _ _ _ => rfl
@[simp] theorem exec_vmax : ∀ d a b k e z (s : State), exec (.vmax d a b k e z) s = execVmax d a b k e z s := fun _ _ _ _ _ _ _ => rfl
@[simp] theorem exec_vand : ∀ d a b k e z (s : State), exec (.vand d a b k e z) s = execVand d a b k e z s := fun _ _ _ _ _ _ _ => rfl
@[simp] theorem exec_vor : ∀ d a b k e z (s : State), exec (.vor d a b k e z) s = execVor d a b k e z s := fun _ _ _ _ _ _ _ => rfl
@[simp] theorem exec_vxor : ∀ d a b k e z (s : State), exec (.vxor d a b k e z) s = execVxor d a b k e z s := fun _ _ _ _ _ _ _ => rfl
@[simp] theorem exec_vshLl : ∀ d a b k e z (s : State), exec (.vshLl d a b k e z) s = execVshLl d a b k e z s := fun _ _ _ _ _ _ _ => rfl
@[simp] theorem exec_vshRl : ∀ d a b k e z (s : State), exec (.vshRl d a b k e z) s = execVshRl d a b k e z s := fun _ _ _ _ _ _ _ => rfl
@[simp] theorem exec_vshRa : ∀ d a b k e z (s : State), exec (.vshRa d a b k e z) s = execVshRa d a b k e z s := fun _ _ _ _ _ _ _ => rfl
@[simp] theorem exec_vcmpEq : ∀ d a b k e z (s : State), exec (.vcmpEq d a b k e z) s = execVcmpEq d a b k e z s := fun _ _ _ _ _ _ _ => rfl
@[simp] theorem exec_vcmpLt : ∀ d a b k e z (s : State), exec (.vcmpLt d a b k e z) s = execVcmpLt d a b k e z s := fun _ _ _ _ _ _ _ => rfl
@[simp] theorem exec_vcmpLtu : ∀ d a b k e z (s : State), exec (.vcmpLtu d a b k e z) s = execVcmpLtu d a b k e z s := fun _ _ _ _ _ _ _ => rfl
@[simp] theorem exec_vsel : ∀ d a b k (s : State), exec (.vsel d a b k) s = execVsel d a b k s := fun _ _ _ _ _ => rfl
@[simp] theorem exec_vcmul : ∀ d a b k e z (s : State), exec (.vcmul d a b k e z) s = execVcmul d a b k e z s := fun _ _ _ _ _ _ _ => rfl
@[simp] theorem exec_vcmac : ∀ d a b k e z (s : State), exec (.vcmac d a b k e z) s = execVcmac d a b k e z s := fun _ _ _ _ _ _ _ => rfl
@[simp] theorem exec_vredAdd : ∀ d a k e (s : State), exec (.vredAdd d a k e) s = execVredAdd d a k e s := fun _ _ _ _ _ => rfl
@[simp] theorem exec_vredMin : ∀ d a k e (s : State), exec (.vredMin d a k e) s = execVredMin d a k e s := fun _ _ _ _ _ => rfl
@[simp] theorem exec_vredMax : ∀ d a k e (s : State), exec (.vredMax d a k e) s = execVredMax d a k e s := fun _ _ _ _ _ => rfl
@[simp] theorem exec_vredFadd : ∀ d a k e (s : State), exec (.vredFadd d a k e) s = execVredFadd d a k e s := fun _ _ _ _ _ => rfl
@[simp] theorem exec_vperm : ∀ d a b k e z (s : State), exec (.vperm d a b k e z) s = execVperm d a b k e z s := fun _ _ _ _ _ _ _ => rfl
@[simp] theorem exec_vmv : ∀ d a k e z (s : State), exec (.vmv d a k e z) s = execVmv d a k e z s := fun _ _ _ _ _ _ => rfl
@[simp] theorem exec_vmvBc : ∀ d a k e z (s : State), exec (.vmvBc d a k e z) s = execVmvBc d a k e z s := fun _ _ _ _ _ _ => rfl
@[simp] theorem exec_vmvX : ∀ d a (s : State), exec (.vmvX d a) s = execVmvX d a s := fun _ _ _ => rfl
@[simp] theorem exec_vfadd : ∀ d a b k e z f (s : State), exec (.vfadd d a b k e z f) s = execVfadd d a b k e z f s := fun _ _ _ _ _ _ _ _ => rfl
@[simp] theorem exec_vfmul : ∀ d a b k e z f (s : State), exec (.vfmul d a b k e z f) s = execVfmul d a b k e z f s := fun _ _ _ _ _ _ _ _ => rfl
@[simp] theorem exec_vfma : ∀ d a b k e z f (s : State), exec (.vfma d a b k e z f) s = execVfma d a b k e z f s := fun _ _ _ _ _ _ _ _ => rfl
@[simp] theorem exec_vfmin : ∀ d a b k e z f (s : State), exec (.vfmin d a b k e z f) s = execVfmin d a b k e z f s := fun _ _ _ _ _ _ _ _ => rfl
@[simp] theorem exec_vfmax : ∀ d a b k e z f (s : State), exec (.vfmax d a b k e z f) s = execVfmax d a b k e z f s := fun _ _ _ _ _ _ _ _ => rfl
@[simp] theorem exec_vcvt : ∀ d a c k e z (s : State), exec (.vcvt d a c k e z) s = execVcvt d a c k e z s := fun _ _ _ _ _ _ _ => rfl
@[simp] theorem exec_vld : ∀ d a k e z ta tb (s : State), exec (.vld d a k e z ta tb) s = execVld d a k e z ta tb s := fun _ _ _ _ _ _ _ _ => rfl
@[simp] theorem exec_vst : ∀ d a k e ta tb (s : State), exec (.vst d a k e ta tb) s = execVst d a k e ta tb s := fun _ _ _ _ _ _ _ => rfl
@[simp] theorem exec_vlds : ∀ d a b k e z ta tb (s : State), exec (.vlds d a b k e z ta tb) s = execVlds d a b k e z ta tb s := fun _ _ _ _ _ _ _ _ _ => rfl
@[simp] theorem exec_vldx : ∀ d a b k e z ta tb (s : State), exec (.vldx d a b k e z ta tb) s = execVldx d a b k e z ta tb s := fun _ _ _ _ _ _ _ _ _ => rfl
@[simp] theorem exec_vstx : ∀ d a b k e ta tb (s : State), exec (.vstx d a b k e ta tb) s = execVstx d a b k e ta tb s := fun _ _ _ _ _ _ _ _ => rfl
@[simp] theorem exec_vclaim : ∀ d a b ta tb (s : State), exec (.vclaim d a b ta tb) s = execVclaim d a b ta tb s := fun _ _ _ _ _ _ => rfl
@[simp] theorem exec_vrel : ∀ ta tb (s : State), exec (.vrel ta tb) s = execVrel ta tb s := fun _ _ _ => rfl
@[simp] theorem exec_vsync : ∀ d a b ta tb (s : State), exec (.vsync d a b ta tb) s = execVsync d a b ta tb s := fun _ _ _ _ _ _ => rfl
@[simp] theorem exec_mand : ∀ d a b ta tb (s : State), exec (.mand d a b ta tb) s = execMand d a b ta tb s := fun _ _ _ _ _ _ => rfl
@[simp] theorem exec_mor : ∀ d a b ta tb (s : State), exec (.mor d a b ta tb) s = execMor d a b ta tb s := fun _ _ _ _ _ _ => rfl
@[simp] theorem exec_mnot : ∀ d a ta tb (s : State), exec (.mnot d a ta tb) s = execMnot d a ta tb s := fun _ _ _ _ _ => rfl
@[simp] theorem exec_vsfuExp2 : ∀ d a k e z (s : State), exec (.vsfuExp2 d a k e z) s = execVsfuExp2 d a k e z s := fun _ _ _ _ _ _ => rfl
@[simp] theorem exec_vsfuLog2 : ∀ d a k e z (s : State), exec (.vsfuLog2 d a k e z) s = execVsfuLog2 d a k e z s := fun _ _ _ _ _ _ => rfl
@[simp] theorem exec_vsfuRcp : ∀ d a k e z (s : State), exec (.vsfuRcp d a k e z) s = execVsfuRcp d a k e z s := fun _ _ _ _ _ _ => rfl
@[simp] theorem exec_vsfuRsqrt : ∀ d a k e z (s : State), exec (.vsfuRsqrt d a k e z) s = execVsfuRsqrt d a k e z s := fun _ _ _ _ _ _ => rfl
@[simp] theorem exec_vsfuSin : ∀ d a k e z (s : State), exec (.vsfuSin d a k e z) s = execVsfuSin d a k e z s := fun _ _ _ _ _ _ => rfl
@[simp] theorem exec_vsfuCos : ∀ d a k e z (s : State), exec (.vsfuCos d a k e z) s = execVsfuCos d a k e z s := fun _ _ _ _ _ _ => rfl
@[simp] theorem exec_vsfuTanh : ∀ d a k e z (s : State), exec (.vsfuTanh d a k e z) s = execVsfuTanh d a k e z s := fun _ _ _ _ _ _ => rfl
@[simp] theorem exec_vsfuSigmoid : ∀ d a k e z (s : State), exec (.vsfuSigmoid d a k e z) s = execVsfuSigmoid d a k e z s := fun _ _ _ _ _ _ => rfl
@[simp] theorem exec_vbflyR2 : ∀ d a b scl (s : State), exec (.vbflyR2 d a b scl) s = execVbflyR2 d a b scl s := fun _ _ _ _ _ => rfl
@[simp] theorem exec_vbflyR4 : ∀ d a b scl (s : State), exec (.vbflyR4 d a b scl) s = execVbflyR4 d a b scl s := fun _ _ _ _ _ => rfl
@[simp] theorem exec_rack : ∀ d a (s : State), exec (.rack d a) s = execRack d a s := fun _ _ _ => rfl
@[simp] theorem exec_rackv : ∀ d a b (s : State), exec (.rackv d a b) s = execRackv d a b s := fun _ _ _ _ => rfl
@[simp] theorem exec_rfenceEngine : ∀ s : State, exec .rfenceEngine s = execRfenceEngine s := fun _ => rfl
@[simp] theorem exec_rfencePartition : ∀ s : State, exec .rfencePartition s = execRfencePartition s := fun _ => rfl
@[simp] theorem exec_qfence : ∀ d a (s : State), exec (.qfence d a) s = execQfence d a s := fun _ _ _ => rfl
@[simp] theorem exec_qwait : ∀ d a (s : State), exec (.qwait d a) s = execQwait d a s := fun _ _ _ => rfl
@[simp] theorem exec_rstat : ∀ d a (s : State), exec (.rstat d a) s = execRstat d a s := fun _ _ _ => rfl
@[simp] theorem exec_collAllreduce : ∀ d a (s : State), exec (.collAllreduce d a) s = execCollAllreduce d a s := fun _ _ _ => rfl
@[simp] theorem exec_collAllgather : ∀ d a (s : State), exec (.collAllgather d a) s = execCollAllgather d a s := fun _ _ _ => rfl
@[simp] theorem exec_collReducescatter : ∀ d a (s : State), exec (.collReducescatter d a) s = execCollReducescatter d a s := fun _ _ _ => rfl
@[simp] theorem exec_pmm : ∀ d a (s : State), exec (.pmm d a) s = execPmm d a s := fun _ _ _ => rfl
@[simp] theorem exec_pzero : ∀ d a (s : State), exec (.pzero d a) s = execPzero d a s := fun _ _ _ => rfl
@[simp] theorem exec_pwait : ∀ d a (s : State), exec (.pwait d a) s = execPwait d a s := fun _ _ _ => rfl
@[simp] theorem exec_pprog : ∀ d a (s : State), exec (.pprog d a) s = execPprog d a s := fun _ _ _ => rfl
@[simp] theorem exec_tdirPut : ∀ d a (s : State), exec (.tdirPut d a) s = execTdirPut d a s := fun _ _ _ => rfl
@[simp] theorem exec_tdirDel : ∀ d a (s : State), exec (.tdirDel d a) s = execTdirDel d a s := fun _ _ _ => rfl
@[simp] theorem exec_tmove : ∀ d a b (s : State), exec (.tmove d a b) s = execTmove d a b s := fun _ _ _ _ => rfl
@[simp] theorem exec_solicitSum : ∀ d a b (s : State), exec (.solicitSum d a b) s = execSolicitSum d a b s := fun _ _ _ _ => rfl
@[simp] theorem exec_solicitMin : ∀ d a b (s : State), exec (.solicitMin d a b) s = execSolicitMin d a b s := fun _ _ _ _ => rfl
@[simp] theorem exec_solicitMax : ∀ d a b (s : State), exec (.solicitMax d a b) s = execSolicitMax d a b s := fun _ _ _ _ => rfl
@[simp] theorem exec_solicitOr : ∀ d a b (s : State), exec (.solicitOr d a b) s = execSolicitOr d a b s := fun _ _ _ _ => rfl
@[simp] theorem exec_solicitCount : ∀ d a b (s : State), exec (.solicitCount d a b) s = execSolicitCount d a b s := fun _ _ _ _ => rfl
@[simp] theorem exec_answer : ∀ a (s : State), exec (.answer a) s = execAnswer a s := fun _ _ => rfl
@[simp] theorem exec_cwait : ∀ d (s : State), exec (.cwait d) s = execCwait d s := fun _ _ => rfl
@[simp] theorem exec_lbl : ∀ d a ta tb (s : State), exec (.lbl d a ta tb) s = execLbl d a ta tb s := fun _ _ _ _ _ => rfl
@[simp] theorem exec_lblV : ∀ d a ta tb (s : State), exec (.lblV d a ta tb) s = execLblV d a ta tb s := fun _ _ _ _ _ => rfl
@[simp] theorem exec_lblM : ∀ d a ta tb (s : State), exec (.lblM d a ta tb) s = execLblM d a ta tb s := fun _ _ _ _ _ => rfl
@[simp] theorem exec_lblS : ∀ d ta tb (s : State), exec (.lblS d ta tb) s = execLblS d ta tb s := fun _ _ _ _ => rfl
@[simp] theorem exec_sluice : ∀ d a ta tb (s : State), exec (.sluice d a ta tb) s = execSluice d a ta tb s := fun _ _ _ _ _ => rfl
@[simp] theorem exec_launch : ∀ d a (s : State), exec (.launch d a) s = execLaunch d a s := fun _ _ _ => rfl
@[simp] theorem exec_invoke : ∀ d a b prio (s : State), exec (.invoke d a b prio) s = execInvoke d a b prio s := fun _ _ _ _ _ => rfl
@[simp] theorem exec_cAdd : ∀ d r (s : State), exec (.cAdd d r) s = execCAdd d r s := fun _ _ _ => rfl
@[simp] theorem exec_cSub : ∀ d r (s : State), exec (.cSub d r) s = execCSub d r s := fun _ _ _ => rfl
@[simp] theorem exec_cAnd : ∀ d r (s : State), exec (.cAnd d r) s = execCAnd d r s := fun _ _ _ => rfl
@[simp] theorem exec_cOr : ∀ d r (s : State), exec (.cOr d r) s = execCOr d r s := fun _ _ _ => rfl
@[simp] theorem exec_cXor : ∀ d r (s : State), exec (.cXor d r) s = execCXor d r s := fun _ _ _ => rfl
@[simp] theorem exec_cSll : ∀ d r (s : State), exec (.cSll d r) s = execCSll d r s := fun _ _ _ => rfl
@[simp] theorem exec_cSrl : ∀ d r (s : State), exec (.cSrl d r) s = execCSrl d r s := fun _ _ _ => rfl
@[simp] theorem exec_cSra : ∀ d r (s : State), exec (.cSra d r) s = execCSra d r s := fun _ _ _ => rfl
@[simp] theorem exec_cMul : ∀ d r (s : State), exec (.cMul d r) s = execCMul d r s := fun _ _ _ => rfl
@[simp] theorem exec_cMin : ∀ d r (s : State), exec (.cMin d r) s = execCMin d r s := fun _ _ _ => rfl
@[simp] theorem exec_cMax : ∀ d r (s : State), exec (.cMax d r) s = execCMax d r s := fun _ _ _ => rfl
@[simp] theorem exec_mv : ∀ d r (s : State), exec (.mv d r) s = execMv d r s := fun _ _ _ => rfl
@[simp] theorem exec_cAddi : ∀ d imm (s : State), exec (.cAddi d imm) s = execCAddi d imm s := fun _ _ _ => rfl
@[simp] theorem exec_cCmac : ∀ d r (s : State), exec (.cCmac d r) s = execCCmac d r s := fun _ _ _ => rfl
@[simp] theorem exec_cFadd : ∀ d r (s : State), exec (.cFadd d r) s = execCFadd d r s := fun _ _ _ => rfl
@[simp] theorem exec_cFmul : ∀ d r (s : State), exec (.cFmul d r) s = execCFmul d r s := fun _ _ _ => rfl
@[simp] theorem exec_cvAdd : ∀ d r (s : State), exec (.cvAdd d r) s = execCvAdd d r s := fun _ _ _ => rfl
@[simp] theorem exec_cvSub : ∀ d r (s : State), exec (.cvSub d r) s = execCvSub d r s := fun _ _ _ => rfl
@[simp] theorem exec_cvAnd : ∀ d r (s : State), exec (.cvAnd d r) s = execCvAnd d r s := fun _ _ _ => rfl
@[simp] theorem exec_cvOr : ∀ d r (s : State), exec (.cvOr d r) s = execCvOr d r s := fun _ _ _ => rfl
@[simp] theorem exec_cvXor : ∀ d r (s : State), exec (.cvXor d r) s = execCvXor d r s := fun _ _ _ => rfl
@[simp] theorem exec_cvSll : ∀ d r (s : State), exec (.cvSll d r) s = execCvSll d r s := fun _ _ _ => rfl
@[simp] theorem exec_cvSrl : ∀ d r (s : State), exec (.cvSrl d r) s = execCvSrl d r s := fun _ _ _ => rfl
@[simp] theorem exec_cvSra : ∀ d r (s : State), exec (.cvSra d r) s = execCvSra d r s := fun _ _ _ => rfl
@[simp] theorem exec_cvMul : ∀ d r (s : State), exec (.cvMul d r) s = execCvMul d r s := fun _ _ _ => rfl
@[simp] theorem exec_cvMin : ∀ d r (s : State), exec (.cvMin d r) s = execCvMin d r s := fun _ _ _ => rfl
@[simp] theorem exec_cvMax : ∀ d r (s : State), exec (.cvMax d r) s = execCvMax d r s := fun _ _ _ => rfl
@[simp] theorem exec_cvMv : ∀ d r (s : State), exec (.cvMv d r) s = execCvMv d r s := fun _ _ _ => rfl
@[simp] theorem exec_cvAddi : ∀ d imm (s : State), exec (.cvAddi d imm) s = execCvAddi d imm s := fun _ _ _ => rfl
@[simp] theorem exec_cvCmac : ∀ d r (s : State), exec (.cvCmac d r) s = execCvCmac d r s := fun _ _ _ => rfl
@[simp] theorem exec_cvFadd : ∀ d r (s : State), exec (.cvFadd d r) s = execCvFadd d r s := fun _ _ _ => rfl
@[simp] theorem exec_cvFmul : ∀ d r (s : State), exec (.cvFmul d r) s = execCvFmul d r s := fun _ _ _ => rfl

end Sys2Proof.Machine
end

