-- ==== Sys2Proof/Laws/State.lean ====
section
/-! SUPPORT. What each named update of the state leaves in each field, one lemma per field (R72 to R104, R385). -/

namespace Sys2Proof.Machine

open Sys2Proof

/-! ## Reading registers after writes (R72, R73) -/

/-- g0 reads as 0, full, not poisoned and without a label (R72). -/
@[simp] theorem Thread.reg_zero (t : Thread) : t.reg 0 = zeroReg := by simp [Thread.reg]

/-- A write to g0 is discarded (R72). -/
@[simp] theorem Thread.setReg_zero (t : Thread) (g : GReg) : t.setReg 0 g = t := by simp [Thread.setReg]

/-- A write to g0 is discarded (R72). -/
@[simp] theorem Thread.write_zero (t : Thread) (v : Word) (l : Label) : t.write 0 v l = t := by simp [Thread.write]

/-- A register other than g0 reads what was set (R72). -/
theorem Thread.reg_setReg_same (t : Thread) (r : Reg) (g : GReg) (h : r ≠ 0) : (t.setReg r g).reg r = g := by
  simp [Thread.reg, Thread.setReg, h]

/-- Setting a register leaves every other register (R72). -/
theorem Thread.reg_setReg_other (t : Thread) (r q : Reg) (g : GReg) (h : q ≠ r) : (t.setReg r g).reg q = t.reg q := by
  have hv : ¬ r.val = q.val := fun e => h (Fin.ext e.symm)
  unfold Thread.reg Thread.setReg
  by_cases hq : q = 0
  · simp [hq]
  · by_cases hr : r = 0
    · simp [hr]
    · simp only [hq, hr, if_false]
      exact Vector.getElem_set_ne _ _ hv

/-- A register other than g0 reads the value written, full and not poisoned (R73). -/
theorem Thread.reg_write_same (t : Thread) (r : Reg) (v : Word) (l : Label) (h : r ≠ 0) :
    (t.write r v l).reg r = ⟨v, true, false, l⟩ := t.reg_setReg_same r _ h

/-- A write leaves every other register (R73). -/
theorem Thread.reg_write_other (t : Thread) (r q : Reg) (v : Word) (l : Label) (h : q ≠ r) :
    (t.write r v l).reg q = t.reg q := t.reg_setReg_other r q _ h

/-- A register marked empty is empty and not poisoned, with its value and label (R73). -/
theorem Thread.reg_markEmpty_same (t : Thread) (r : Reg) (h : r ≠ 0) :
    (t.markEmpty r).reg r = { t.reg r with full := false, poison := false } := t.reg_setReg_same r _ h

/-- Marking a register empty leaves every other register (R73). -/
theorem Thread.reg_markEmpty_other (t : Thread) (r q : Reg) (h : q ≠ r) : (t.markEmpty r).reg q = t.reg q :=
  t.reg_setReg_other r q _ h

/-! ## `State.write` -/

@[simp] theorem State.write_t (s : State) (r : Reg) (v : Word) (l : Label) : (s.write r v l).t = s.t.write r v l := rfl
@[simp] theorem State.write_others (s : State) (r : Reg) (v : Word) (l : Label) : (s.write r v l).others = s.others := rfl
@[simp] theorem State.write_time (s : State) (r : Reg) (v : Word) (l : Label) : (s.write r v l).time = s.time := rfl
@[simp] theorem State.write_mem (s : State) (r : Reg) (v : Word) (l : Label) : (s.write r v l).mem = s.mem := rfl
@[simp] theorem State.write_fab (s : State) (r : Reg) (v : Word) (l : Label) : (s.write r v l).fab = s.fab := rfl
@[simp] theorem State.write_ctrl (s : State) (r : Reg) (v : Word) (l : Label) : (s.write r v l).ctrl = s.ctrl := rfl
@[simp] theorem State.write_trans (s : State) (r : Reg) (v : Word) (l : Label) : (s.write r v l).trans = s.trans := rfl
@[simp] theorem State.write_fetch (s : State) (r : Reg) (v : Word) (l : Label) : (s.write r v l).fetch = s.fetch := rfl
@[simp] theorem State.write_clocks (s : State) (r : Reg) (v : Word) (l : Label) : (s.write r v l).clocks = s.clocks := rfl
@[simp] theorem State.write_slots (s : State) (r : Reg) (v : Word) (l : Label) : (s.write r v l).slots = s.slots := rfl
@[simp] theorem State.write_gangs (s : State) (r : Reg) (v : Word) (l : Label) : (s.write r v l).gangs = s.gangs := rfl
@[simp] theorem State.write_parts (s : State) (r : Reg) (v : Word) (l : Label) : (s.write r v l).parts = s.parts := rfl
@[simp] theorem State.write_vfs (s : State) (r : Reg) (v : Word) (l : Label) : (s.write r v l).vfs = s.vfs := rfl
@[simp] theorem State.write_engines (s : State) (r : Reg) (v : Word) (l : Label) : (s.write r v l).engines = s.engines := rfl
@[simp] theorem State.write_census (s : State) (r : Reg) (v : Word) (l : Label) : (s.write r v l).census = s.census := rfl
@[simp] theorem State.write_colls (s : State) (r : Reg) (v : Word) (l : Label) : (s.write r v l).colls = s.colls := rfl
@[simp] theorem State.write_sec (s : State) (r : Reg) (v : Word) (l : Label) : (s.write r v l).sec = s.sec := rfl
@[simp] theorem State.write_dev (s : State) (r : Reg) (v : Word) (l : Label) : (s.write r v l).dev = s.dev := rfl
@[simp] theorem State.write_out (s : State) (r : Reg) (v : Word) (l : Label) : (s.write r v l).out = s.out := rfl

/-! ## `State.joinClabel` -/

@[simp] theorem State.joinClabel_t (s : State) (l : Label) : (s.joinClabel l).t = s.t.joinClabel l := rfl
@[simp] theorem State.joinClabel_others (s : State) (l : Label) : (s.joinClabel l).others = s.others := rfl
@[simp] theorem State.joinClabel_time (s : State) (l : Label) : (s.joinClabel l).time = s.time := rfl
@[simp] theorem State.joinClabel_mem (s : State) (l : Label) : (s.joinClabel l).mem = s.mem := rfl
@[simp] theorem State.joinClabel_fab (s : State) (l : Label) : (s.joinClabel l).fab = s.fab := rfl
@[simp] theorem State.joinClabel_ctrl (s : State) (l : Label) : (s.joinClabel l).ctrl = s.ctrl := rfl
@[simp] theorem State.joinClabel_trans (s : State) (l : Label) : (s.joinClabel l).trans = s.trans := rfl
@[simp] theorem State.joinClabel_fetch (s : State) (l : Label) : (s.joinClabel l).fetch = s.fetch := rfl
@[simp] theorem State.joinClabel_clocks (s : State) (l : Label) : (s.joinClabel l).clocks = s.clocks := rfl
@[simp] theorem State.joinClabel_slots (s : State) (l : Label) : (s.joinClabel l).slots = s.slots := rfl
@[simp] theorem State.joinClabel_gangs (s : State) (l : Label) : (s.joinClabel l).gangs = s.gangs := rfl
@[simp] theorem State.joinClabel_parts (s : State) (l : Label) : (s.joinClabel l).parts = s.parts := rfl
@[simp] theorem State.joinClabel_vfs (s : State) (l : Label) : (s.joinClabel l).vfs = s.vfs := rfl
@[simp] theorem State.joinClabel_engines (s : State) (l : Label) : (s.joinClabel l).engines = s.engines := rfl
@[simp] theorem State.joinClabel_census (s : State) (l : Label) : (s.joinClabel l).census = s.census := rfl
@[simp] theorem State.joinClabel_colls (s : State) (l : Label) : (s.joinClabel l).colls = s.colls := rfl
@[simp] theorem State.joinClabel_sec (s : State) (l : Label) : (s.joinClabel l).sec = s.sec := rfl
@[simp] theorem State.joinClabel_dev (s : State) (l : Label) : (s.joinClabel l).dev = s.dev := rfl
@[simp] theorem State.joinClabel_out (s : State) (l : Label) : (s.joinClabel l).out = s.out := rfl

/-! ## `State.retire` -/

@[simp] theorem State.retire_t (s : State) (n : Nat) : (s.retire n).t = { s.t with pc := s.t.pc + BitVec.ofNat 64 n, prog := .fresh, proxy := false } := rfl
@[simp] theorem State.retire_others (s : State) (n : Nat) : (s.retire n).others = s.others := rfl
@[simp] theorem State.retire_time (s : State) (n : Nat) : (s.retire n).time = { s.time with turn := .issue } := rfl
@[simp] theorem State.retire_mem (s : State) (n : Nat) : (s.retire n).mem = s.mem := rfl
@[simp] theorem State.retire_fab (s : State) (n : Nat) : (s.retire n).fab = s.fab := rfl
@[simp] theorem State.retire_ctrl (s : State) (n : Nat) : (s.retire n).ctrl = s.ctrl := rfl
@[simp] theorem State.retire_trans (s : State) (n : Nat) : (s.retire n).trans = s.trans := rfl
@[simp] theorem State.retire_fetch (s : State) (n : Nat) : (s.retire n).fetch = s.fetch := rfl
@[simp] theorem State.retire_clocks (s : State) (n : Nat) : (s.retire n).clocks = s.clocks := rfl
@[simp] theorem State.retire_slots (s : State) (n : Nat) : (s.retire n).slots = s.slots := rfl
@[simp] theorem State.retire_gangs (s : State) (n : Nat) : (s.retire n).gangs = s.gangs := rfl
@[simp] theorem State.retire_parts (s : State) (n : Nat) : (s.retire n).parts = s.parts := rfl
@[simp] theorem State.retire_vfs (s : State) (n : Nat) : (s.retire n).vfs = s.vfs := rfl
@[simp] theorem State.retire_engines (s : State) (n : Nat) : (s.retire n).engines = s.engines := rfl
@[simp] theorem State.retire_census (s : State) (n : Nat) : (s.retire n).census = s.census := rfl
@[simp] theorem State.retire_colls (s : State) (n : Nat) : (s.retire n).colls = s.colls := rfl
@[simp] theorem State.retire_sec (s : State) (n : Nat) : (s.retire n).sec = s.sec := rfl
@[simp] theorem State.retire_dev (s : State) (n : Nat) : (s.retire n).dev = s.dev := rfl
@[simp] theorem State.retire_out (s : State) (n : Nat) : (s.retire n).out = s.out := rfl

/-! ## `State.jump` -/

@[simp] theorem State.jump_t (s : State) (pc : Word) : (s.jump pc).t = { s.t with pc := pc, prog := .fresh, proxy := false } := rfl
@[simp] theorem State.jump_others (s : State) (pc : Word) : (s.jump pc).others = s.others := rfl
@[simp] theorem State.jump_time (s : State) (pc : Word) : (s.jump pc).time = { s.time with turn := .issue } := rfl
@[simp] theorem State.jump_mem (s : State) (pc : Word) : (s.jump pc).mem = s.mem := rfl
@[simp] theorem State.jump_fab (s : State) (pc : Word) : (s.jump pc).fab = s.fab := rfl
@[simp] theorem State.jump_ctrl (s : State) (pc : Word) : (s.jump pc).ctrl = s.ctrl := rfl
@[simp] theorem State.jump_trans (s : State) (pc : Word) : (s.jump pc).trans = s.trans := rfl
@[simp] theorem State.jump_fetch (s : State) (pc : Word) : (s.jump pc).fetch = s.fetch := rfl
@[simp] theorem State.jump_clocks (s : State) (pc : Word) : (s.jump pc).clocks = s.clocks := rfl
@[simp] theorem State.jump_slots (s : State) (pc : Word) : (s.jump pc).slots = s.slots := rfl
@[simp] theorem State.jump_gangs (s : State) (pc : Word) : (s.jump pc).gangs = s.gangs := rfl
@[simp] theorem State.jump_parts (s : State) (pc : Word) : (s.jump pc).parts = s.parts := rfl
@[simp] theorem State.jump_vfs (s : State) (pc : Word) : (s.jump pc).vfs = s.vfs := rfl
@[simp] theorem State.jump_engines (s : State) (pc : Word) : (s.jump pc).engines = s.engines := rfl
@[simp] theorem State.jump_census (s : State) (pc : Word) : (s.jump pc).census = s.census := rfl
@[simp] theorem State.jump_colls (s : State) (pc : Word) : (s.jump pc).colls = s.colls := rfl
@[simp] theorem State.jump_sec (s : State) (pc : Word) : (s.jump pc).sec = s.sec := rfl
@[simp] theorem State.jump_dev (s : State) (pc : Word) : (s.jump pc).dev = s.dev := rfl
@[simp] theorem State.jump_out (s : State) (pc : Word) : (s.jump pc).out = s.out := rfl

/-! ## `State.idle` -/

@[simp] theorem State.idle_t (s : State) : (s.idle).t = s.t := rfl
@[simp] theorem State.idle_others (s : State) : (s.idle).others = s.others := rfl
@[simp] theorem State.idle_time (s : State) : (s.idle).time = { s.time with turn := .idle } := rfl
@[simp] theorem State.idle_mem (s : State) : (s.idle).mem = s.mem := rfl
@[simp] theorem State.idle_fab (s : State) : (s.idle).fab = s.fab := rfl
@[simp] theorem State.idle_ctrl (s : State) : (s.idle).ctrl = s.ctrl := rfl
@[simp] theorem State.idle_trans (s : State) : (s.idle).trans = s.trans := rfl
@[simp] theorem State.idle_fetch (s : State) : (s.idle).fetch = s.fetch := rfl
@[simp] theorem State.idle_clocks (s : State) : (s.idle).clocks = s.clocks := rfl
@[simp] theorem State.idle_slots (s : State) : (s.idle).slots = s.slots := rfl
@[simp] theorem State.idle_gangs (s : State) : (s.idle).gangs = s.gangs := rfl
@[simp] theorem State.idle_parts (s : State) : (s.idle).parts = s.parts := rfl
@[simp] theorem State.idle_vfs (s : State) : (s.idle).vfs = s.vfs := rfl
@[simp] theorem State.idle_engines (s : State) : (s.idle).engines = s.engines := rfl
@[simp] theorem State.idle_census (s : State) : (s.idle).census = s.census := rfl
@[simp] theorem State.idle_colls (s : State) : (s.idle).colls = s.colls := rfl
@[simp] theorem State.idle_sec (s : State) : (s.idle).sec = s.sec := rfl
@[simp] theorem State.idle_dev (s : State) : (s.idle).dev = s.dev := rfl
@[simp] theorem State.idle_out (s : State) : (s.idle).out = s.out := rfl

/-! ## `State.hold` -/

@[simp] theorem State.hold_t (s : State) (p : Progress) : (s.hold p).t = { s.t with prog := p } := rfl
@[simp] theorem State.hold_others (s : State) (p : Progress) : (s.hold p).others = s.others := rfl
@[simp] theorem State.hold_time (s : State) (p : Progress) : (s.hold p).time = { s.time with turn := .held } := rfl
@[simp] theorem State.hold_mem (s : State) (p : Progress) : (s.hold p).mem = s.mem := rfl
@[simp] theorem State.hold_fab (s : State) (p : Progress) : (s.hold p).fab = s.fab := rfl
@[simp] theorem State.hold_ctrl (s : State) (p : Progress) : (s.hold p).ctrl = s.ctrl := rfl
@[simp] theorem State.hold_trans (s : State) (p : Progress) : (s.hold p).trans = s.trans := rfl
@[simp] theorem State.hold_fetch (s : State) (p : Progress) : (s.hold p).fetch = s.fetch := rfl
@[simp] theorem State.hold_clocks (s : State) (p : Progress) : (s.hold p).clocks = s.clocks := rfl
@[simp] theorem State.hold_slots (s : State) (p : Progress) : (s.hold p).slots = s.slots := rfl
@[simp] theorem State.hold_gangs (s : State) (p : Progress) : (s.hold p).gangs = s.gangs := rfl
@[simp] theorem State.hold_parts (s : State) (p : Progress) : (s.hold p).parts = s.parts := rfl
@[simp] theorem State.hold_vfs (s : State) (p : Progress) : (s.hold p).vfs = s.vfs := rfl
@[simp] theorem State.hold_engines (s : State) (p : Progress) : (s.hold p).engines = s.engines := rfl
@[simp] theorem State.hold_census (s : State) (p : Progress) : (s.hold p).census = s.census := rfl
@[simp] theorem State.hold_colls (s : State) (p : Progress) : (s.hold p).colls = s.colls := rfl
@[simp] theorem State.hold_sec (s : State) (p : Progress) : (s.hold p).sec = s.sec := rfl
@[simp] theorem State.hold_dev (s : State) (p : Progress) : (s.hold p).dev = s.dev := rfl
@[simp] theorem State.hold_out (s : State) (p : Progress) : (s.hold p).out = s.out := rfl

/-! ## `State.leave` -/

@[simp] theorem State.leave_t (s : State) (r : Run) (p : Progress) : (s.leave r p).t = { s.t with run := r, prog := p } := rfl
@[simp] theorem State.leave_others (s : State) (r : Run) (p : Progress) : (s.leave r p).others = s.others := rfl
@[simp] theorem State.leave_time (s : State) (r : Run) (p : Progress) : (s.leave r p).time = { s.time with turn := .issue } := rfl
@[simp] theorem State.leave_mem (s : State) (r : Run) (p : Progress) : (s.leave r p).mem = s.mem := rfl
@[simp] theorem State.leave_fab (s : State) (r : Run) (p : Progress) : (s.leave r p).fab = s.fab := rfl
@[simp] theorem State.leave_ctrl (s : State) (r : Run) (p : Progress) : (s.leave r p).ctrl = s.ctrl := rfl
@[simp] theorem State.leave_trans (s : State) (r : Run) (p : Progress) : (s.leave r p).trans = s.trans := rfl
@[simp] theorem State.leave_fetch (s : State) (r : Run) (p : Progress) : (s.leave r p).fetch = s.fetch := rfl
@[simp] theorem State.leave_clocks (s : State) (r : Run) (p : Progress) : (s.leave r p).clocks = s.clocks := rfl
@[simp] theorem State.leave_slots (s : State) (r : Run) (p : Progress) : (s.leave r p).slots = s.slots := rfl
@[simp] theorem State.leave_gangs (s : State) (r : Run) (p : Progress) : (s.leave r p).gangs = s.gangs := rfl
@[simp] theorem State.leave_parts (s : State) (r : Run) (p : Progress) : (s.leave r p).parts = s.parts := rfl
@[simp] theorem State.leave_vfs (s : State) (r : Run) (p : Progress) : (s.leave r p).vfs = s.vfs := rfl
@[simp] theorem State.leave_engines (s : State) (r : Run) (p : Progress) : (s.leave r p).engines = s.engines := rfl
@[simp] theorem State.leave_census (s : State) (r : Run) (p : Progress) : (s.leave r p).census = s.census := rfl
@[simp] theorem State.leave_colls (s : State) (r : Run) (p : Progress) : (s.leave r p).colls = s.colls := rfl
@[simp] theorem State.leave_sec (s : State) (r : Run) (p : Progress) : (s.leave r p).sec = s.sec := rfl
@[simp] theorem State.leave_dev (s : State) (r : Run) (p : Progress) : (s.leave r p).dev = s.dev := rfl
@[simp] theorem State.leave_out (s : State) (r : Run) (p : Progress) : (s.leave r p).out = s.out := rfl

/-! ## `State.push` -/

@[simp] theorem State.push_t (s : State) (i : Instr) : (s.push i).t = s.t := rfl
@[simp] theorem State.push_others (s : State) (i : Instr) : (s.push i).others = s.others := rfl
@[simp] theorem State.push_time (s : State) (i : Instr) : (s.push i).time = { s.time with agenda := s.time.agenda ++ [i] } := rfl
@[simp] theorem State.push_mem (s : State) (i : Instr) : (s.push i).mem = s.mem := rfl
@[simp] theorem State.push_fab (s : State) (i : Instr) : (s.push i).fab = s.fab := rfl
@[simp] theorem State.push_ctrl (s : State) (i : Instr) : (s.push i).ctrl = s.ctrl := rfl
@[simp] theorem State.push_trans (s : State) (i : Instr) : (s.push i).trans = s.trans := rfl
@[simp] theorem State.push_fetch (s : State) (i : Instr) : (s.push i).fetch = s.fetch := rfl
@[simp] theorem State.push_clocks (s : State) (i : Instr) : (s.push i).clocks = s.clocks := rfl
@[simp] theorem State.push_slots (s : State) (i : Instr) : (s.push i).slots = s.slots := rfl
@[simp] theorem State.push_gangs (s : State) (i : Instr) : (s.push i).gangs = s.gangs := rfl
@[simp] theorem State.push_parts (s : State) (i : Instr) : (s.push i).parts = s.parts := rfl
@[simp] theorem State.push_vfs (s : State) (i : Instr) : (s.push i).vfs = s.vfs := rfl
@[simp] theorem State.push_engines (s : State) (i : Instr) : (s.push i).engines = s.engines := rfl
@[simp] theorem State.push_census (s : State) (i : Instr) : (s.push i).census = s.census := rfl
@[simp] theorem State.push_colls (s : State) (i : Instr) : (s.push i).colls = s.colls := rfl
@[simp] theorem State.push_sec (s : State) (i : Instr) : (s.push i).sec = s.sec := rfl
@[simp] theorem State.push_dev (s : State) (i : Instr) : (s.push i).dev = s.dev := rfl
@[simp] theorem State.push_out (s : State) (i : Instr) : (s.push i).out = s.out := rfl

/-! ## `State.schedule` -/

@[simp] theorem State.schedule_t (s : State) (c : Nat) (i : Instr) : (s.schedule c i).t = s.t := rfl
@[simp] theorem State.schedule_others (s : State) (c : Nat) (i : Instr) : (s.schedule c i).others = s.others := rfl
@[simp] theorem State.schedule_time (s : State) (c : Nat) (i : Instr) : (s.schedule c i).time = { s.time with calendar := s.time.calendar ++ [(c, i)] } := rfl
@[simp] theorem State.schedule_mem (s : State) (c : Nat) (i : Instr) : (s.schedule c i).mem = s.mem := rfl
@[simp] theorem State.schedule_fab (s : State) (c : Nat) (i : Instr) : (s.schedule c i).fab = s.fab := rfl
@[simp] theorem State.schedule_ctrl (s : State) (c : Nat) (i : Instr) : (s.schedule c i).ctrl = s.ctrl := rfl
@[simp] theorem State.schedule_trans (s : State) (c : Nat) (i : Instr) : (s.schedule c i).trans = s.trans := rfl
@[simp] theorem State.schedule_fetch (s : State) (c : Nat) (i : Instr) : (s.schedule c i).fetch = s.fetch := rfl
@[simp] theorem State.schedule_clocks (s : State) (c : Nat) (i : Instr) : (s.schedule c i).clocks = s.clocks := rfl
@[simp] theorem State.schedule_slots (s : State) (c : Nat) (i : Instr) : (s.schedule c i).slots = s.slots := rfl
@[simp] theorem State.schedule_gangs (s : State) (c : Nat) (i : Instr) : (s.schedule c i).gangs = s.gangs := rfl
@[simp] theorem State.schedule_parts (s : State) (c : Nat) (i : Instr) : (s.schedule c i).parts = s.parts := rfl
@[simp] theorem State.schedule_vfs (s : State) (c : Nat) (i : Instr) : (s.schedule c i).vfs = s.vfs := rfl
@[simp] theorem State.schedule_engines (s : State) (c : Nat) (i : Instr) : (s.schedule c i).engines = s.engines := rfl
@[simp] theorem State.schedule_census (s : State) (c : Nat) (i : Instr) : (s.schedule c i).census = s.census := rfl
@[simp] theorem State.schedule_colls (s : State) (c : Nat) (i : Instr) : (s.schedule c i).colls = s.colls := rfl
@[simp] theorem State.schedule_sec (s : State) (c : Nat) (i : Instr) : (s.schedule c i).sec = s.sec := rfl
@[simp] theorem State.schedule_dev (s : State) (c : Nat) (i : Instr) : (s.schedule c i).dev = s.dev := rfl
@[simp] theorem State.schedule_out (s : State) (c : Nat) (i : Instr) : (s.schedule c i).out = s.out := rfl

/-! ## `State.setCtl` -/

@[simp] theorem State.setCtl_t (s : State) (c : Ctl) : (s.setCtl c).t = { s.t with ctl := c } := rfl
@[simp] theorem State.setCtl_others (s : State) (c : Ctl) : (s.setCtl c).others = s.others := rfl
@[simp] theorem State.setCtl_time (s : State) (c : Ctl) : (s.setCtl c).time = s.time := rfl
@[simp] theorem State.setCtl_mem (s : State) (c : Ctl) : (s.setCtl c).mem = s.mem := rfl
@[simp] theorem State.setCtl_fab (s : State) (c : Ctl) : (s.setCtl c).fab = s.fab := rfl
@[simp] theorem State.setCtl_ctrl (s : State) (c : Ctl) : (s.setCtl c).ctrl = s.ctrl := rfl
@[simp] theorem State.setCtl_trans (s : State) (c : Ctl) : (s.setCtl c).trans = s.trans := rfl
@[simp] theorem State.setCtl_fetch (s : State) (c : Ctl) : (s.setCtl c).fetch = s.fetch := rfl
@[simp] theorem State.setCtl_clocks (s : State) (c : Ctl) : (s.setCtl c).clocks = s.clocks := rfl
@[simp] theorem State.setCtl_slots (s : State) (c : Ctl) : (s.setCtl c).slots = s.slots := rfl
@[simp] theorem State.setCtl_gangs (s : State) (c : Ctl) : (s.setCtl c).gangs = s.gangs := rfl
@[simp] theorem State.setCtl_parts (s : State) (c : Ctl) : (s.setCtl c).parts = s.parts := rfl
@[simp] theorem State.setCtl_vfs (s : State) (c : Ctl) : (s.setCtl c).vfs = s.vfs := rfl
@[simp] theorem State.setCtl_engines (s : State) (c : Ctl) : (s.setCtl c).engines = s.engines := rfl
@[simp] theorem State.setCtl_census (s : State) (c : Ctl) : (s.setCtl c).census = s.census := rfl
@[simp] theorem State.setCtl_colls (s : State) (c : Ctl) : (s.setCtl c).colls = s.colls := rfl
@[simp] theorem State.setCtl_sec (s : State) (c : Ctl) : (s.setCtl c).sec = s.sec := rfl
@[simp] theorem State.setCtl_dev (s : State) (c : Ctl) : (s.setCtl c).dev = s.dev := rfl
@[simp] theorem State.setCtl_out (s : State) (c : Ctl) : (s.setCtl c).out = s.out := rfl

/-! ## `State.setTrap` -/

@[simp] theorem State.setTrap_t (s : State) (r : TrapRegs) : (s.setTrap r).t = { s.t with trap := r } := rfl
@[simp] theorem State.setTrap_others (s : State) (r : TrapRegs) : (s.setTrap r).others = s.others := rfl
@[simp] theorem State.setTrap_time (s : State) (r : TrapRegs) : (s.setTrap r).time = s.time := rfl
@[simp] theorem State.setTrap_mem (s : State) (r : TrapRegs) : (s.setTrap r).mem = s.mem := rfl
@[simp] theorem State.setTrap_fab (s : State) (r : TrapRegs) : (s.setTrap r).fab = s.fab := rfl
@[simp] theorem State.setTrap_ctrl (s : State) (r : TrapRegs) : (s.setTrap r).ctrl = s.ctrl := rfl
@[simp] theorem State.setTrap_trans (s : State) (r : TrapRegs) : (s.setTrap r).trans = s.trans := rfl
@[simp] theorem State.setTrap_fetch (s : State) (r : TrapRegs) : (s.setTrap r).fetch = s.fetch := rfl
@[simp] theorem State.setTrap_clocks (s : State) (r : TrapRegs) : (s.setTrap r).clocks = s.clocks := rfl
@[simp] theorem State.setTrap_slots (s : State) (r : TrapRegs) : (s.setTrap r).slots = s.slots := rfl
@[simp] theorem State.setTrap_gangs (s : State) (r : TrapRegs) : (s.setTrap r).gangs = s.gangs := rfl
@[simp] theorem State.setTrap_parts (s : State) (r : TrapRegs) : (s.setTrap r).parts = s.parts := rfl
@[simp] theorem State.setTrap_vfs (s : State) (r : TrapRegs) : (s.setTrap r).vfs = s.vfs := rfl
@[simp] theorem State.setTrap_engines (s : State) (r : TrapRegs) : (s.setTrap r).engines = s.engines := rfl
@[simp] theorem State.setTrap_census (s : State) (r : TrapRegs) : (s.setTrap r).census = s.census := rfl
@[simp] theorem State.setTrap_colls (s : State) (r : TrapRegs) : (s.setTrap r).colls = s.colls := rfl
@[simp] theorem State.setTrap_sec (s : State) (r : TrapRegs) : (s.setTrap r).sec = s.sec := rfl
@[simp] theorem State.setTrap_dev (s : State) (r : TrapRegs) : (s.setTrap r).dev = s.dev := rfl
@[simp] theorem State.setTrap_out (s : State) (r : TrapRegs) : (s.setTrap r).out = s.out := rfl

/-! ## `State.fresh` and `State.free` -/

@[simp] theorem State.fresh_t (s : State) : s.fresh.2.t = s.t := rfl
@[simp] theorem State.fresh_others (s : State) : s.fresh.2.others = s.others := rfl
@[simp] theorem State.fresh_time (s : State) : s.fresh.2.time = { s.time with next := s.time.next + 1 } := rfl
@[simp] theorem State.fresh_mem (s : State) : s.fresh.2.mem = s.mem := rfl
@[simp] theorem State.fresh_fab (s : State) : s.fresh.2.fab = s.fab := rfl
@[simp] theorem State.fresh_ctrl (s : State) : s.fresh.2.ctrl = s.ctrl := rfl
@[simp] theorem State.fresh_trans (s : State) : s.fresh.2.trans = s.trans := rfl
@[simp] theorem State.fresh_fetch (s : State) : s.fresh.2.fetch = s.fetch := rfl
@[simp] theorem State.fresh_clocks (s : State) : s.fresh.2.clocks = s.clocks := rfl
@[simp] theorem State.fresh_slots (s : State) : s.fresh.2.slots = s.slots := rfl
@[simp] theorem State.fresh_gangs (s : State) : s.fresh.2.gangs = s.gangs := rfl
@[simp] theorem State.fresh_parts (s : State) : s.fresh.2.parts = s.parts := rfl
@[simp] theorem State.fresh_vfs (s : State) : s.fresh.2.vfs = s.vfs := rfl
@[simp] theorem State.fresh_engines (s : State) : s.fresh.2.engines = s.engines := rfl
@[simp] theorem State.fresh_census (s : State) : s.fresh.2.census = s.census := rfl
@[simp] theorem State.fresh_colls (s : State) : s.fresh.2.colls = s.colls := rfl
@[simp] theorem State.fresh_sec (s : State) : s.fresh.2.sec = s.sec := rfl
@[simp] theorem State.fresh_dev (s : State) : s.fresh.2.dev = s.dev := rfl
@[simp] theorem State.fresh_out (s : State) : s.fresh.2.out = s.out := rfl
@[simp] theorem State.fresh_fst (s : State) : s.fresh.1 = s.time.next := rfl
@[simp] theorem State.free_t (s : State) : s.free.2.t = s.t := rfl
@[simp] theorem State.free_others (s : State) : s.free.2.others = s.others := rfl
@[simp] theorem State.free_time (s : State) : s.free.2.time = { s.time with draws := s.time.draws + 1 } := rfl
@[simp] theorem State.free_mem (s : State) : s.free.2.mem = s.mem := rfl
@[simp] theorem State.free_fab (s : State) : s.free.2.fab = s.fab := rfl
@[simp] theorem State.free_ctrl (s : State) : s.free.2.ctrl = s.ctrl := rfl
@[simp] theorem State.free_trans (s : State) : s.free.2.trans = s.trans := rfl
@[simp] theorem State.free_fetch (s : State) : s.free.2.fetch = s.fetch := rfl
@[simp] theorem State.free_clocks (s : State) : s.free.2.clocks = s.clocks := rfl
@[simp] theorem State.free_slots (s : State) : s.free.2.slots = s.slots := rfl
@[simp] theorem State.free_gangs (s : State) : s.free.2.gangs = s.gangs := rfl
@[simp] theorem State.free_parts (s : State) : s.free.2.parts = s.parts := rfl
@[simp] theorem State.free_vfs (s : State) : s.free.2.vfs = s.vfs := rfl
@[simp] theorem State.free_engines (s : State) : s.free.2.engines = s.engines := rfl
@[simp] theorem State.free_census (s : State) : s.free.2.census = s.census := rfl
@[simp] theorem State.free_colls (s : State) : s.free.2.colls = s.colls := rfl
@[simp] theorem State.free_sec (s : State) : s.free.2.sec = s.sec := rfl
@[simp] theorem State.free_dev (s : State) : s.free.2.dev = s.dev := rfl
@[simp] theorem State.free_out (s : State) : s.free.2.out = s.out := rfl
@[simp] theorem State.free_fst (s : State) : s.free.1 = Config.freeValue s.time.draws := rfl

/-! ## `State.modThread`, `State.modPart`, `State.modGang` and `State.setSlot` -/

@[simp] theorem State.modThread_time (s : State) (u : Nat) (f : Thread → Thread) : (s.modThread u f).time = s.time := by unfold State.modThread; split <;> rfl
@[simp] theorem State.modThread_mem (s : State) (u : Nat) (f : Thread → Thread) : (s.modThread u f).mem = s.mem := by unfold State.modThread; split <;> rfl
@[simp] theorem State.modThread_fab (s : State) (u : Nat) (f : Thread → Thread) : (s.modThread u f).fab = s.fab := by unfold State.modThread; split <;> rfl
@[simp] theorem State.modThread_ctrl (s : State) (u : Nat) (f : Thread → Thread) : (s.modThread u f).ctrl = s.ctrl := by unfold State.modThread; split <;> rfl
@[simp] theorem State.modThread_trans (s : State) (u : Nat) (f : Thread → Thread) : (s.modThread u f).trans = s.trans := by unfold State.modThread; split <;> rfl
@[simp] theorem State.modThread_fetch (s : State) (u : Nat) (f : Thread → Thread) : (s.modThread u f).fetch = s.fetch := by unfold State.modThread; split <;> rfl
@[simp] theorem State.modThread_clocks (s : State) (u : Nat) (f : Thread → Thread) : (s.modThread u f).clocks = s.clocks := by unfold State.modThread; split <;> rfl
@[simp] theorem State.modThread_slots (s : State) (u : Nat) (f : Thread → Thread) : (s.modThread u f).slots = s.slots := by unfold State.modThread; split <;> rfl
@[simp] theorem State.modThread_gangs (s : State) (u : Nat) (f : Thread → Thread) : (s.modThread u f).gangs = s.gangs := by unfold State.modThread; split <;> rfl
@[simp] theorem State.modThread_parts (s : State) (u : Nat) (f : Thread → Thread) : (s.modThread u f).parts = s.parts := by unfold State.modThread; split <;> rfl
@[simp] theorem State.modThread_vfs (s : State) (u : Nat) (f : Thread → Thread) : (s.modThread u f).vfs = s.vfs := by unfold State.modThread; split <;> rfl
@[simp] theorem State.modThread_engines (s : State) (u : Nat) (f : Thread → Thread) : (s.modThread u f).engines = s.engines := by unfold State.modThread; split <;> rfl
@[simp] theorem State.modThread_census (s : State) (u : Nat) (f : Thread → Thread) : (s.modThread u f).census = s.census := by unfold State.modThread; split <;> rfl
@[simp] theorem State.modThread_colls (s : State) (u : Nat) (f : Thread → Thread) : (s.modThread u f).colls = s.colls := by unfold State.modThread; split <;> rfl
@[simp] theorem State.modThread_sec (s : State) (u : Nat) (f : Thread → Thread) : (s.modThread u f).sec = s.sec := by unfold State.modThread; split <;> rfl
@[simp] theorem State.modThread_dev (s : State) (u : Nat) (f : Thread → Thread) : (s.modThread u f).dev = s.dev := by unfold State.modThread; split <;> rfl
@[simp] theorem State.modThread_out (s : State) (u : Nat) (f : Thread → Thread) : (s.modThread u f).out = s.out := by unfold State.modThread; split <;> rfl
@[simp] theorem State.modPart_t (s : State) (p : Nat) (f : Part → Part) : (s.modPart p f).t = s.t := rfl
@[simp] theorem State.modPart_others (s : State) (p : Nat) (f : Part → Part) : (s.modPart p f).others = s.others := rfl
@[simp] theorem State.modPart_time (s : State) (p : Nat) (f : Part → Part) : (s.modPart p f).time = s.time := rfl
@[simp] theorem State.modPart_mem (s : State) (p : Nat) (f : Part → Part) : (s.modPart p f).mem = s.mem := rfl
@[simp] theorem State.modPart_fab (s : State) (p : Nat) (f : Part → Part) : (s.modPart p f).fab = s.fab := rfl
@[simp] theorem State.modPart_ctrl (s : State) (p : Nat) (f : Part → Part) : (s.modPart p f).ctrl = s.ctrl := rfl
@[simp] theorem State.modPart_trans (s : State) (p : Nat) (f : Part → Part) : (s.modPart p f).trans = s.trans := rfl
@[simp] theorem State.modPart_fetch (s : State) (p : Nat) (f : Part → Part) : (s.modPart p f).fetch = s.fetch := rfl
@[simp] theorem State.modPart_clocks (s : State) (p : Nat) (f : Part → Part) : (s.modPart p f).clocks = s.clocks := rfl
@[simp] theorem State.modPart_slots (s : State) (p : Nat) (f : Part → Part) : (s.modPart p f).slots = s.slots := rfl
@[simp] theorem State.modPart_gangs (s : State) (p : Nat) (f : Part → Part) : (s.modPart p f).gangs = s.gangs := rfl
@[simp] theorem State.modPart_parts (s : State) (p : Nat) (f : Part → Part) : (s.modPart p f).parts = s.parts.map fun x => if x.num = p then f x else x := rfl
@[simp] theorem State.modPart_vfs (s : State) (p : Nat) (f : Part → Part) : (s.modPart p f).vfs = s.vfs := rfl
@[simp] theorem State.modPart_engines (s : State) (p : Nat) (f : Part → Part) : (s.modPart p f).engines = s.engines := rfl
@[simp] theorem State.modPart_census (s : State) (p : Nat) (f : Part → Part) : (s.modPart p f).census = s.census := rfl
@[simp] theorem State.modPart_colls (s : State) (p : Nat) (f : Part → Part) : (s.modPart p f).colls = s.colls := rfl
@[simp] theorem State.modPart_sec (s : State) (p : Nat) (f : Part → Part) : (s.modPart p f).sec = s.sec := rfl
@[simp] theorem State.modPart_dev (s : State) (p : Nat) (f : Part → Part) : (s.modPart p f).dev = s.dev := rfl
@[simp] theorem State.modPart_out (s : State) (p : Nat) (f : Part → Part) : (s.modPart p f).out = s.out := rfl
@[simp] theorem State.modGang_t (s : State) (g : Nat) (f : Gang → Gang) : (s.modGang g f).t = s.t := rfl
@[simp] theorem State.modGang_others (s : State) (g : Nat) (f : Gang → Gang) : (s.modGang g f).others = s.others := rfl
@[simp] theorem State.modGang_time (s : State) (g : Nat) (f : Gang → Gang) : (s.modGang g f).time = s.time := rfl
@[simp] theorem State.modGang_mem (s : State) (g : Nat) (f : Gang → Gang) : (s.modGang g f).mem = s.mem := rfl
@[simp] theorem State.modGang_fab (s : State) (g : Nat) (f : Gang → Gang) : (s.modGang g f).fab = s.fab := rfl
@[simp] theorem State.modGang_ctrl (s : State) (g : Nat) (f : Gang → Gang) : (s.modGang g f).ctrl = s.ctrl := rfl
@[simp] theorem State.modGang_trans (s : State) (g : Nat) (f : Gang → Gang) : (s.modGang g f).trans = s.trans := rfl
@[simp] theorem State.modGang_fetch (s : State) (g : Nat) (f : Gang → Gang) : (s.modGang g f).fetch = s.fetch := rfl
@[simp] theorem State.modGang_clocks (s : State) (g : Nat) (f : Gang → Gang) : (s.modGang g f).clocks = s.clocks := rfl
@[simp] theorem State.modGang_slots (s : State) (g : Nat) (f : Gang → Gang) : (s.modGang g f).slots = s.slots := rfl
@[simp] theorem State.modGang_gangs (s : State) (g : Nat) (f : Gang → Gang) : (s.modGang g f).gangs = s.gangs.map fun x => if x.gid = g then f x else x := rfl
@[simp] theorem State.modGang_parts (s : State) (g : Nat) (f : Gang → Gang) : (s.modGang g f).parts = s.parts := rfl
@[simp] theorem State.modGang_vfs (s : State) (g : Nat) (f : Gang → Gang) : (s.modGang g f).vfs = s.vfs := rfl
@[simp] theorem State.modGang_engines (s : State) (g : Nat) (f : Gang → Gang) : (s.modGang g f).engines = s.engines := rfl
@[simp] theorem State.modGang_census (s : State) (g : Nat) (f : Gang → Gang) : (s.modGang g f).census = s.census := rfl
@[simp] theorem State.modGang_colls (s : State) (g : Nat) (f : Gang → Gang) : (s.modGang g f).colls = s.colls := rfl
@[simp] theorem State.modGang_sec (s : State) (g : Nat) (f : Gang → Gang) : (s.modGang g f).sec = s.sec := rfl
@[simp] theorem State.modGang_dev (s : State) (g : Nat) (f : Gang → Gang) : (s.modGang g f).dev = s.dev := rfl
@[simp] theorem State.modGang_out (s : State) (g : Nat) (f : Gang → Gang) : (s.modGang g f).out = s.out := rfl
@[simp] theorem State.setSlot_t (s : State) (x : Slot) : (s.setSlot x).t = s.t := rfl
@[simp] theorem State.setSlot_others (s : State) (x : Slot) : (s.setSlot x).others = s.others := rfl
@[simp] theorem State.setSlot_time (s : State) (x : Slot) : (s.setSlot x).time = s.time := rfl
@[simp] theorem State.setSlot_mem (s : State) (x : Slot) : (s.setSlot x).mem = s.mem := rfl
@[simp] theorem State.setSlot_fab (s : State) (x : Slot) : (s.setSlot x).fab = s.fab := rfl
@[simp] theorem State.setSlot_ctrl (s : State) (x : Slot) : (s.setSlot x).ctrl = s.ctrl := rfl
@[simp] theorem State.setSlot_trans (s : State) (x : Slot) : (s.setSlot x).trans = s.trans := rfl
@[simp] theorem State.setSlot_fetch (s : State) (x : Slot) : (s.setSlot x).fetch = s.fetch := rfl
@[simp] theorem State.setSlot_clocks (s : State) (x : Slot) : (s.setSlot x).clocks = s.clocks := rfl
@[simp] theorem State.setSlot_gangs (s : State) (x : Slot) : (s.setSlot x).gangs = s.gangs := rfl
@[simp] theorem State.setSlot_parts (s : State) (x : Slot) : (s.setSlot x).parts = s.parts := rfl
@[simp] theorem State.setSlot_vfs (s : State) (x : Slot) : (s.setSlot x).vfs = s.vfs := rfl
@[simp] theorem State.setSlot_engines (s : State) (x : Slot) : (s.setSlot x).engines = s.engines := rfl
@[simp] theorem State.setSlot_census (s : State) (x : Slot) : (s.setSlot x).census = s.census := rfl
@[simp] theorem State.setSlot_colls (s : State) (x : Slot) : (s.setSlot x).colls = s.colls := rfl
@[simp] theorem State.setSlot_sec (s : State) (x : Slot) : (s.setSlot x).sec = s.sec := rfl
@[simp] theorem State.setSlot_dev (s : State) (x : Slot) : (s.setSlot x).dev = s.dev := rfl
@[simp] theorem State.setSlot_out (s : State) (x : Slot) : (s.setSlot x).out = s.out := rfl

/-! ## Writes of a register -/

@[simp] theorem Thread.setReg_pc (t : Thread) (r : Reg) (g : GReg) : (t.setReg r g).pc = t.pc := by unfold Thread.setReg; split <;> rfl
@[simp] theorem Thread.setReg_ctl (t : Thread) (r : Reg) (g : GReg) : (t.setReg r g).ctl = t.ctl := by unfold Thread.setReg; split <;> rfl
@[simp] theorem Thread.setReg_trap (t : Thread) (r : Reg) (g : GReg) : (t.setReg r g).trap = t.trap := by unfold Thread.setReg; split <;> rfl
@[simp] theorem Thread.setReg_claim (t : Thread) (r : Reg) (g : GReg) : (t.setReg r g).claim = t.claim := by unfold Thread.setReg; split <;> rfl
@[simp] theorem Thread.setReg_ident (t : Thread) (r : Reg) (g : GReg) : (t.setReg r g).ident = t.ident := by unfold Thread.setReg; split <;> rfl
@[simp] theorem Thread.setReg_core (t : Thread) (r : Reg) (g : GReg) : (t.setReg r g).core = t.core := by unfold Thread.setReg; split <;> rfl
@[simp] theorem Thread.setReg_slot (t : Thread) (r : Reg) (g : GReg) : (t.setReg r g).slot = t.slot := by unfold Thread.setReg; split <;> rfl
@[simp] theorem Thread.setReg_run (t : Thread) (r : Reg) (g : GReg) : (t.setReg r g).run = t.run := by unfold Thread.setReg; split <;> rfl
@[simp] theorem Thread.setReg_prog (t : Thread) (r : Reg) (g : GReg) : (t.setReg r g).prog = t.prog := by unfold Thread.setReg; split <;> rfl
@[simp] theorem Thread.setReg_pending (t : Thread) (r : Reg) (g : GReg) : (t.setReg r g).pending = t.pending := by unfold Thread.setReg; split <;> rfl
@[simp] theorem Thread.setReg_second (t : Thread) (r : Reg) (g : GReg) : (t.setReg r g).second = t.second := by unfold Thread.setReg; split <;> rfl
@[simp] theorem Thread.setReg_late (t : Thread) (r : Reg) (g : GReg) : (t.setReg r g).late = t.late := by unfold Thread.setReg; split <;> rfl
@[simp] theorem Thread.setReg_transit (t : Thread) (r : Reg) (g : GReg) : (t.setReg r g).transit = t.transit := by unfold Thread.setReg; split <;> rfl
@[simp] theorem Thread.setReg_proxy (t : Thread) (r : Reg) (g : GReg) : (t.setReg r g).proxy = t.proxy := by unfold Thread.setReg; split <;> rfl
@[simp] theorem Thread.setReg_patched (t : Thread) (r : Reg) (g : GReg) : (t.setReg r g).patched = t.patched := by unfold Thread.setReg; split <;> rfl
@[simp] theorem Thread.setReg_acqFill (t : Thread) (r : Reg) (g : GReg) : (t.setReg r g).acqFill = t.acqFill := by unfold Thread.setReg; split <;> rfl
@[simp] theorem Thread.setReg_acqAcc (t : Thread) (r : Reg) (g : GReg) : (t.setReg r g).acqAcc = t.acqAcc := by unfold Thread.setReg; split <;> rfl
@[simp] theorem Thread.setReg_lastPerf (t : Thread) (r : Reg) (g : GReg) : (t.setReg r g).lastPerf = t.lastPerf := by unfold Thread.setReg; split <;> rfl
@[simp] theorem Thread.setReg_stamp (t : Thread) (r : Reg) (g : GReg) : (t.setReg r g).stamp = t.stamp := by unfold Thread.setReg; split <;> rfl
@[simp] theorem Thread.write_pc (t : Thread) (r : Reg) (v : Word) (l : Label) : (t.write r v l).pc = t.pc := Thread.setReg_pc _ _ _
@[simp] theorem Thread.write_ctl (t : Thread) (r : Reg) (v : Word) (l : Label) : (t.write r v l).ctl = t.ctl := Thread.setReg_ctl _ _ _
@[simp] theorem Thread.write_trap (t : Thread) (r : Reg) (v : Word) (l : Label) : (t.write r v l).trap = t.trap := Thread.setReg_trap _ _ _
@[simp] theorem Thread.write_claim (t : Thread) (r : Reg) (v : Word) (l : Label) : (t.write r v l).claim = t.claim := Thread.setReg_claim _ _ _
@[simp] theorem Thread.write_ident (t : Thread) (r : Reg) (v : Word) (l : Label) : (t.write r v l).ident = t.ident := Thread.setReg_ident _ _ _
@[simp] theorem Thread.write_core (t : Thread) (r : Reg) (v : Word) (l : Label) : (t.write r v l).core = t.core := Thread.setReg_core _ _ _
@[simp] theorem Thread.write_slot (t : Thread) (r : Reg) (v : Word) (l : Label) : (t.write r v l).slot = t.slot := Thread.setReg_slot _ _ _
@[simp] theorem Thread.write_run (t : Thread) (r : Reg) (v : Word) (l : Label) : (t.write r v l).run = t.run := Thread.setReg_run _ _ _
@[simp] theorem Thread.write_prog (t : Thread) (r : Reg) (v : Word) (l : Label) : (t.write r v l).prog = t.prog := Thread.setReg_prog _ _ _
@[simp] theorem Thread.write_pending (t : Thread) (r : Reg) (v : Word) (l : Label) : (t.write r v l).pending = t.pending := Thread.setReg_pending _ _ _
@[simp] theorem Thread.write_second (t : Thread) (r : Reg) (v : Word) (l : Label) : (t.write r v l).second = t.second := Thread.setReg_second _ _ _
@[simp] theorem Thread.write_late (t : Thread) (r : Reg) (v : Word) (l : Label) : (t.write r v l).late = t.late := Thread.setReg_late _ _ _
@[simp] theorem Thread.write_transit (t : Thread) (r : Reg) (v : Word) (l : Label) : (t.write r v l).transit = t.transit := Thread.setReg_transit _ _ _
@[simp] theorem Thread.write_proxy (t : Thread) (r : Reg) (v : Word) (l : Label) : (t.write r v l).proxy = t.proxy := Thread.setReg_proxy _ _ _
@[simp] theorem Thread.write_patched (t : Thread) (r : Reg) (v : Word) (l : Label) : (t.write r v l).patched = t.patched := Thread.setReg_patched _ _ _
@[simp] theorem Thread.write_acqFill (t : Thread) (r : Reg) (v : Word) (l : Label) : (t.write r v l).acqFill = t.acqFill := Thread.setReg_acqFill _ _ _
@[simp] theorem Thread.write_acqAcc (t : Thread) (r : Reg) (v : Word) (l : Label) : (t.write r v l).acqAcc = t.acqAcc := Thread.setReg_acqAcc _ _ _
@[simp] theorem Thread.write_lastPerf (t : Thread) (r : Reg) (v : Word) (l : Label) : (t.write r v l).lastPerf = t.lastPerf := Thread.setReg_lastPerf _ _ _
@[simp] theorem Thread.write_stamp (t : Thread) (r : Reg) (v : Word) (l : Label) : (t.write r v l).stamp = t.stamp := Thread.setReg_stamp _ _ _
@[simp] theorem Thread.markEmpty_pc (t : Thread) (r : Reg) : (t.markEmpty r).pc = t.pc := Thread.setReg_pc _ _ _
@[simp] theorem Thread.markEmpty_ctl (t : Thread) (r : Reg) : (t.markEmpty r).ctl = t.ctl := Thread.setReg_ctl _ _ _
@[simp] theorem Thread.markEmpty_trap (t : Thread) (r : Reg) : (t.markEmpty r).trap = t.trap := Thread.setReg_trap _ _ _
@[simp] theorem Thread.markEmpty_claim (t : Thread) (r : Reg) : (t.markEmpty r).claim = t.claim := Thread.setReg_claim _ _ _
@[simp] theorem Thread.markEmpty_ident (t : Thread) (r : Reg) : (t.markEmpty r).ident = t.ident := Thread.setReg_ident _ _ _
@[simp] theorem Thread.markEmpty_core (t : Thread) (r : Reg) : (t.markEmpty r).core = t.core := Thread.setReg_core _ _ _
@[simp] theorem Thread.markEmpty_slot (t : Thread) (r : Reg) : (t.markEmpty r).slot = t.slot := Thread.setReg_slot _ _ _
@[simp] theorem Thread.markEmpty_run (t : Thread) (r : Reg) : (t.markEmpty r).run = t.run := Thread.setReg_run _ _ _
@[simp] theorem Thread.markEmpty_prog (t : Thread) (r : Reg) : (t.markEmpty r).prog = t.prog := Thread.setReg_prog _ _ _
@[simp] theorem Thread.markEmpty_pending (t : Thread) (r : Reg) : (t.markEmpty r).pending = t.pending := Thread.setReg_pending _ _ _
@[simp] theorem Thread.markEmpty_second (t : Thread) (r : Reg) : (t.markEmpty r).second = t.second := Thread.setReg_second _ _ _
@[simp] theorem Thread.markEmpty_late (t : Thread) (r : Reg) : (t.markEmpty r).late = t.late := Thread.setReg_late _ _ _
@[simp] theorem Thread.markEmpty_transit (t : Thread) (r : Reg) : (t.markEmpty r).transit = t.transit := Thread.setReg_transit _ _ _
@[simp] theorem Thread.markEmpty_proxy (t : Thread) (r : Reg) : (t.markEmpty r).proxy = t.proxy := Thread.setReg_proxy _ _ _
@[simp] theorem Thread.markEmpty_patched (t : Thread) (r : Reg) : (t.markEmpty r).patched = t.patched := Thread.setReg_patched _ _ _
@[simp] theorem Thread.markEmpty_acqFill (t : Thread) (r : Reg) : (t.markEmpty r).acqFill = t.acqFill := Thread.setReg_acqFill _ _ _
@[simp] theorem Thread.markEmpty_acqAcc (t : Thread) (r : Reg) : (t.markEmpty r).acqAcc = t.acqAcc := Thread.setReg_acqAcc _ _ _
@[simp] theorem Thread.markEmpty_lastPerf (t : Thread) (r : Reg) : (t.markEmpty r).lastPerf = t.lastPerf := Thread.setReg_lastPerf _ _ _
@[simp] theorem Thread.markEmpty_stamp (t : Thread) (r : Reg) : (t.markEmpty r).stamp = t.stamp := Thread.setReg_stamp _ _ _

/-! ## The control registers and the taking of a trap -/

@[simp] theorem Thread.joinClabel_regs (t : Thread) (l : Label) : (t.joinClabel l).regs = t.regs := rfl
@[simp] theorem Thread.joinClabel_pc (t : Thread) (l : Label) : (t.joinClabel l).pc = t.pc := rfl
@[simp] theorem Thread.joinClabel_ctl (t : Thread) (l : Label) : (t.joinClabel l).ctl = { t.ctl with clabel := t.ctl.clabel ||| l } := rfl
@[simp] theorem Thread.joinClabel_trap (t : Thread) (l : Label) : (t.joinClabel l).trap = t.trap := rfl
@[simp] theorem Thread.joinClabel_claim (t : Thread) (l : Label) : (t.joinClabel l).claim = t.claim := rfl
@[simp] theorem Thread.joinClabel_ident (t : Thread) (l : Label) : (t.joinClabel l).ident = t.ident := rfl
@[simp] theorem Thread.joinClabel_core (t : Thread) (l : Label) : (t.joinClabel l).core = t.core := rfl
@[simp] theorem Thread.joinClabel_slot (t : Thread) (l : Label) : (t.joinClabel l).slot = t.slot := rfl
@[simp] theorem Thread.joinClabel_run (t : Thread) (l : Label) : (t.joinClabel l).run = t.run := rfl
@[simp] theorem Thread.joinClabel_prog (t : Thread) (l : Label) : (t.joinClabel l).prog = t.prog := rfl
@[simp] theorem Thread.joinClabel_pending (t : Thread) (l : Label) : (t.joinClabel l).pending = t.pending := rfl
@[simp] theorem Thread.joinClabel_second (t : Thread) (l : Label) : (t.joinClabel l).second = t.second := rfl
@[simp] theorem Thread.joinClabel_late (t : Thread) (l : Label) : (t.joinClabel l).late = t.late := rfl
@[simp] theorem Thread.joinClabel_transit (t : Thread) (l : Label) : (t.joinClabel l).transit = t.transit := rfl
@[simp] theorem Thread.joinClabel_proxy (t : Thread) (l : Label) : (t.joinClabel l).proxy = t.proxy := rfl
@[simp] theorem Thread.joinClabel_patched (t : Thread) (l : Label) : (t.joinClabel l).patched = t.patched := rfl
@[simp] theorem Thread.joinClabel_acqFill (t : Thread) (l : Label) : (t.joinClabel l).acqFill = t.acqFill := rfl
@[simp] theorem Thread.joinClabel_acqAcc (t : Thread) (l : Label) : (t.joinClabel l).acqAcc = t.acqAcc := rfl
@[simp] theorem Thread.joinClabel_lastPerf (t : Thread) (l : Label) : (t.joinClabel l).lastPerf = t.lastPerf := rfl
@[simp] theorem Thread.joinClabel_stamp (t : Thread) (l : Label) : (t.joinClabel l).stamp = t.stamp := rfl
@[simp] theorem Thread.setStatus_regs (t : Thread) (lo n v : Nat) : (t.setStatus lo n v).regs = t.regs := rfl
@[simp] theorem Thread.setStatus_pc (t : Thread) (lo n v : Nat) : (t.setStatus lo n v).pc = t.pc := rfl
@[simp] theorem Thread.setStatus_ctl (t : Thread) (lo n v : Nat) : (t.setStatus lo n v).ctl = { t.ctl with status := putField t.ctl.status lo n v } := rfl
@[simp] theorem Thread.setStatus_trap (t : Thread) (lo n v : Nat) : (t.setStatus lo n v).trap = t.trap := rfl
@[simp] theorem Thread.setStatus_claim (t : Thread) (lo n v : Nat) : (t.setStatus lo n v).claim = t.claim := rfl
@[simp] theorem Thread.setStatus_ident (t : Thread) (lo n v : Nat) : (t.setStatus lo n v).ident = t.ident := rfl
@[simp] theorem Thread.setStatus_core (t : Thread) (lo n v : Nat) : (t.setStatus lo n v).core = t.core := rfl
@[simp] theorem Thread.setStatus_slot (t : Thread) (lo n v : Nat) : (t.setStatus lo n v).slot = t.slot := rfl
@[simp] theorem Thread.setStatus_run (t : Thread) (lo n v : Nat) : (t.setStatus lo n v).run = t.run := rfl
@[simp] theorem Thread.setStatus_prog (t : Thread) (lo n v : Nat) : (t.setStatus lo n v).prog = t.prog := rfl
@[simp] theorem Thread.setStatus_pending (t : Thread) (lo n v : Nat) : (t.setStatus lo n v).pending = t.pending := rfl
@[simp] theorem Thread.setStatus_second (t : Thread) (lo n v : Nat) : (t.setStatus lo n v).second = t.second := rfl
@[simp] theorem Thread.setStatus_late (t : Thread) (lo n v : Nat) : (t.setStatus lo n v).late = t.late := rfl
@[simp] theorem Thread.setStatus_transit (t : Thread) (lo n v : Nat) : (t.setStatus lo n v).transit = t.transit := rfl
@[simp] theorem Thread.setStatus_proxy (t : Thread) (lo n v : Nat) : (t.setStatus lo n v).proxy = t.proxy := rfl
@[simp] theorem Thread.setStatus_patched (t : Thread) (lo n v : Nat) : (t.setStatus lo n v).patched = t.patched := rfl
@[simp] theorem Thread.setStatus_acqFill (t : Thread) (lo n v : Nat) : (t.setStatus lo n v).acqFill = t.acqFill := rfl
@[simp] theorem Thread.setStatus_acqAcc (t : Thread) (lo n v : Nat) : (t.setStatus lo n v).acqAcc = t.acqAcc := rfl
@[simp] theorem Thread.setStatus_lastPerf (t : Thread) (lo n v : Nat) : (t.setStatus lo n v).lastPerf = t.lastPerf := rfl
@[simp] theorem Thread.setStatus_stamp (t : Thread) (lo n v : Nat) : (t.setStatus lo n v).stamp = t.stamp := rfl
@[simp] theorem Thread.enterTrap_regs (t : Thread) (code : Nat) (async : Bool) (pc addr info : Word) (join : Label) : (t.enterTrap code async pc addr info join).regs = t.regs := rfl
@[simp] theorem Thread.enterTrap_pc (t : Thread) (code : Nat) (async : Bool) (pc addr info : Word) (join : Label) : (t.enterTrap code async pc addr info join).pc = t.trap.vec := rfl
@[simp] theorem Thread.enterTrap_ctl (t : Thread) (code : Nat) (async : Bool) (pc addr info : Word) (join : Label) : (t.enterTrap code async pc addr info join).ctl = { t.ctl with clabel := t.ctl.clabel ||| join, status := putField (putField t.ctl.status 0 2 (if t.isDevice then 2 else 1)) 17 1 1 } := rfl
@[simp] theorem Thread.enterTrap_trap (t : Thread) (code : Nat) (async : Bool) (pc addr info : Word) (join : Label) : (t.enterTrap code async pc addr info join).trap = { t.trap with pc := keepBits pc 1 56, code := trapCodeWord t code async, addr := addr, info := info } := rfl
@[simp] theorem Thread.enterTrap_claim (t : Thread) (code : Nat) (async : Bool) (pc addr info : Word) (join : Label) : (t.enterTrap code async pc addr info join).claim = t.claim := rfl
@[simp] theorem Thread.enterTrap_ident (t : Thread) (code : Nat) (async : Bool) (pc addr info : Word) (join : Label) : (t.enterTrap code async pc addr info join).ident = t.ident := rfl
@[simp] theorem Thread.enterTrap_core (t : Thread) (code : Nat) (async : Bool) (pc addr info : Word) (join : Label) : (t.enterTrap code async pc addr info join).core = t.core := rfl
@[simp] theorem Thread.enterTrap_slot (t : Thread) (code : Nat) (async : Bool) (pc addr info : Word) (join : Label) : (t.enterTrap code async pc addr info join).slot = t.slot := rfl
@[simp] theorem Thread.enterTrap_run (t : Thread) (code : Nat) (async : Bool) (pc addr info : Word) (join : Label) : (t.enterTrap code async pc addr info join).run = .ready := rfl
@[simp] theorem Thread.enterTrap_prog (t : Thread) (code : Nat) (async : Bool) (pc addr info : Word) (join : Label) : (t.enterTrap code async pc addr info join).prog = .fresh := rfl
@[simp] theorem Thread.enterTrap_pending (t : Thread) (code : Nat) (async : Bool) (pc addr info : Word) (join : Label) : (t.enterTrap code async pc addr info join).pending = t.pending := rfl
@[simp] theorem Thread.enterTrap_second (t : Thread) (code : Nat) (async : Bool) (pc addr info : Word) (join : Label) : (t.enterTrap code async pc addr info join).second = t.second := rfl
@[simp] theorem Thread.enterTrap_late (t : Thread) (code : Nat) (async : Bool) (pc addr info : Word) (join : Label) : (t.enterTrap code async pc addr info join).late = t.late := rfl
@[simp] theorem Thread.enterTrap_transit (t : Thread) (code : Nat) (async : Bool) (pc addr info : Word) (join : Label) : (t.enterTrap code async pc addr info join).transit = t.transit := rfl
@[simp] theorem Thread.enterTrap_proxy (t : Thread) (code : Nat) (async : Bool) (pc addr info : Word) (join : Label) : (t.enterTrap code async pc addr info join).proxy = false := rfl
@[simp] theorem Thread.enterTrap_patched (t : Thread) (code : Nat) (async : Bool) (pc addr info : Word) (join : Label) : (t.enterTrap code async pc addr info join).patched = t.patched := rfl
@[simp] theorem Thread.enterTrap_acqFill (t : Thread) (code : Nat) (async : Bool) (pc addr info : Word) (join : Label) : (t.enterTrap code async pc addr info join).acqFill = t.acqFill := rfl
@[simp] theorem Thread.enterTrap_acqAcc (t : Thread) (code : Nat) (async : Bool) (pc addr info : Word) (join : Label) : (t.enterTrap code async pc addr info join).acqAcc = t.acqAcc := rfl
@[simp] theorem Thread.enterTrap_lastPerf (t : Thread) (code : Nat) (async : Bool) (pc addr info : Word) (join : Label) : (t.enterTrap code async pc addr info join).lastPerf = t.lastPerf := rfl
@[simp] theorem Thread.enterTrap_stamp (t : Thread) (code : Nat) (async : Bool) (pc addr info : Word) (join : Label) : (t.enterTrap code async pc addr info join).stamp = t.stamp := rfl

end Sys2Proof.Machine
end

