-- ==== Sys2Proof/Laws/Issue.lean ====
section
/-! SUPPORT. What the checks of R101 decide, and what the shared operations of an issue answer. -/

namespace Sys2Proof.Machine

open Sys2Proof

/-! ## The checks (R101) -/

/-- An instruction passes checks 4 to 10 when its mode, unit, claim and registers allow it. -/
theorem State.check_go (s : State) (u : Uses) (hp : u.priv = true → s.t.isTask = false) (ha : u.away = false)
    (hv : u.vec = true → s.t.claim.lanes ≠ 0) (hd : s.writable u.dests) (hvd : ∀ v ∈ u.vdests, s.vempty v = false)
    (hs : s.readable u.reads) (hvs : ∀ v ∈ u.vsrcs, s.vempty v = false) (hm : u.mem = true → s.acquireHeld = false) :
    s.check u = .go := by
  have h1 : (u.priv && s.t.isTask) = false := by cases h : u.priv <;> simp_all
  have h2 : (u.vec && s.t.claim.lanes == 0) = false := by cases h : u.vec <;> simp_all
  have h3 : s.destPending u = false := by
    simp only [State.destPending, Bool.or_eq_false_iff, List.any_eq_false, Bool.not_eq_true]
    exact ⟨fun r hr => by simp [State.empty, hd r hr], hvd⟩
  have hr : ∀ x ∈ u.srcs, s.empty x.1 = false ∧ (s.t.reg x.1).poison = false := fun x hx => by
    have := hs x.1 (List.mem_map_of_mem hx)
    simp [State.empty, this.1, this.2]
  have h4 : s.firstPoison u = none := by
    simp only [State.firstPoison, List.find?_eq_none, Bool.not_eq_true]
    exact fun r hr => (hs r hr).2
  have h5 : s.firstEmptyT u = none := by
    simp only [State.firstEmptyT, Option.map_eq_none_iff, List.find?_eq_none]
    exact fun x hx => by simp [(hr x hx).1]
  have h6 : s.sourceEmpty u = false := by
    simp only [State.sourceEmpty, Bool.or_eq_false_iff, List.any_eq_false, Bool.not_eq_true]
    refine ⟨⟨fun x hx => (hr x hx).1, hvs⟩, ?_⟩
    cases h : u.mem <;> simp_all
  simp [State.check, h1, ha, h2, h3, h4, h5, h6]

/-- An instruction that passes its checks has its own effect. -/
theorem State.issue_go (s : State) (u : Uses) (k : State → Result) (h : s.check u = .go) : s.issue u k = k s := by
  simp [State.issue, h]

/-- An instruction that names only general registers, all of them free, has its own effect. -/
theorem State.issue_scalar (s : State) (dests : List Reg) (srcs : List (Reg × Bool)) (k : State → Result)
    (hd : s.writable dests) (hs : s.readable (srcs.map Prod.fst)) :
    s.issue { Uses.none with dests := dests, srcs := srcs } k = k s :=
  s.issue_go _ k (s.check_go _ (by simp [Uses.none]) rfl (by simp [Uses.none]) hd (by simp [Uses.none]) hs
    (by simp [Uses.none]) (by simp [Uses.none]))

/-- The label of a result as the statements write it. -/
theorem State.resultLabel_eq (s : State) (rs : List Reg) : s.resultLabel rs = s.joined rs := rfl

/-! ## The shapes of scalar instructions (R112 to R126) -/

/-- R format with two sources. -/
theorem aluR_next (f : Word → Word → Word) (d a b : Reg) (ta tb : Bool) (s : State) (hd : s.writable [d])
    (hs : s.readable [a, b]) : aluR f d a b ta tb s = .next (s.wrote d (f (s.val a) (s.val b)) [a, b] 4) := by
  exact (State.issue_scalar s [d] [(a, ta), (b, tb)] _ hd hs).trans
    (by simp [State.wrote, State.put, State.retire, State.write, State.resultLabel_eq])

/-- R format with one source. -/
theorem alu1_next (f : Word → Word) (d a : Reg) (ta : Bool) (s : State) (hd : s.writable [d])
    (hs : s.readable [a]) : alu1 f d a ta s = .next (s.wrote d (f (s.val a)) [a] 4) := by
  exact (State.issue_scalar s [d] [(a, ta)] _ hd hs).trans
    (by simp [State.wrote, State.put, State.retire, State.write, State.resultLabel_eq])

/-- Compact form. -/
theorem aluC_next (f : Word → Word → Word) (d r : Reg) (s : State) (hs : s.readable [d, r]) :
    aluC f d r s = .next (s.wrote d (f (s.val d) (s.val r)) [d, r] 2) := by
  have hd : s.writable [d] := fun x hx => (hs x (by simp_all)).1
  exact (State.issue_scalar s [d] [(d, false), (r, false)] _ hd hs).trans
    (by simp [State.wrote, State.put, State.retire, State.write, State.resultLabel_eq])

/-- R format that also reads its destination. -/
theorem aluRd_next (f : Word → Word → Word → Word) (d a b : Reg) (ta tb : Bool) (s : State) (hs : s.readable [a, b, d]) :
    aluRd f d a b ta tb s = .next (s.wrote d (f (s.val d) (s.val a) (s.val b)) [d, a, b] 4) := by
  have hd : s.writable [d] := fun x hx => (hs x (by simp_all)).1
  exact (State.issue_scalar s [d] [(a, ta), (b, tb), (d, false)] _ hd hs).trans
    (by simp [State.wrote, State.put, State.retire, State.write, State.resultLabel_eq])

/-- U format. -/
theorem aluU_next (f : Word → Word → Word) (d : Reg) (imm : BitVec 20) (s : State) (hd : s.writable [d]) :
    aluU f d imm s = .next (s.wrote d (f s.t.pc (imm.signExtend 64 <<< 14)) [] 4) := by
  exact (State.issue_scalar s [d] [] _ hd (by intro r hr; cases hr)).trans
    (by simp [State.wrote, State.put, State.retire, State.write, State.resultLabel_eq])

/-! ## Traps (R385) -/

/-- A trap of a thread outside a handler gang of policy 0 is the entry of R385. -/
theorem State.takeTrap_traps (s : State) (c : TrapCode) (pc addr info : Word) (join : Label) (h : s.traps) :
    s.takeTrap c pc addr info join = s.trapped (trapNumber c) pc addr info join := by
  simp only [State.traps] at h; simp [State.takeTrap, h, State.trapped]

/-- A trap of the instruction at the PC. -/
theorem State.fail_traps (s : State) (c : TrapCode) (addr info : Word) (rs : List Reg) (pages : Label) (h : s.traps) :
    s.fail c addr info rs pages =
      s.trapped (trapNumber c) s.t.pc addr info (labelsOf s.t rs ||| s.t.patched ||| pages) :=
  s.takeTrap_traps c _ _ _ _ h

end Sys2Proof.Machine
end

