-- ==== Sys2Proof/Laws/Memory.lean ====
section
/-! SUPPORT. The canonical form of the stores: every operation on memory keeps it, and a byte reads what was last written
to it (R71, R203, R222, R238, R239, R371, R419). -/

namespace Sys2Proof.Machine

open Sys2Proof

/-! ## Cells -/

/-- A list of cells starts above an address. -/
def Cells.above (a : Nat) (m : List Host.Cell) : Prop :=
  match m with
  | [] => True
  | (b, _) :: _ => a < b

theorem Cells.wf_cons (a : Nat) (v : Byte) (m : List Host.Cell) :
    Cells.wf ((a, v) :: m) = true ↔ v ≠ 0 ∧ Cells.above a m ∧ Cells.wf m = true := by
  cases m with
  | nil => simp [Cells.wf, Cells.above]
  | cons c m => obtain ⟨b, w⟩ := c; simp [Cells.wf, Cells.above, and_assoc]

theorem Cells.above_mono {a b : Nat} {m : List Host.Cell} (h : a ≤ b) (hm : Cells.above b m) : Cells.above a m := by
  cases m with
  | nil => trivial
  | cons c m => obtain ⟨x, w⟩ := c; exact Nat.lt_of_le_of_lt h hm

theorem Cells.above_set {a b : Nat} {v : Byte} {m : List Host.Cell} (h : a < b) (hm : Cells.above a m) :
    Cells.wf m = true → Cells.above a (cellSet m b v) := by
  cases m with
  | nil => intro _; simp only [cellSet]; split <;> simp [Cells.above, h]
  | cons c m =>
    obtain ⟨x, w⟩ := c
    intro hw
    have hx : a < x := hm
    have hw := (Cells.wf_cons x w m).1 hw
    simp only [cellSet]
    split
    · split <;> simp [Cells.above, h, hx]
    · split
      · split
        · exact Cells.above_mono (Nat.le_of_lt hx) hw.2.1
        · simp [Cells.above, h]
      · simp [Cells.above, hx]

/-- Writing a byte keeps the canonical form. -/
theorem Cells.wf_set (m : List Host.Cell) (a : Nat) (v : Byte) (h : Cells.wf m = true) :
    Cells.wf (cellSet m a v) = true := by
  induction m with
  | nil => simp only [cellSet]; split <;> simp_all [Cells.wf]
  | cons c m ih =>
    obtain ⟨b, w⟩ := c
    have h' := (Cells.wf_cons b w m).1 h
    simp only [cellSet]
    split
    · split
      · exact h
      · exact (Cells.wf_cons _ _ _).2 ⟨‹_›, ‹a < b›, h⟩
    · split
      · split
        · exact h'.2.2
        · subst a
          exact (Cells.wf_cons _ _ _).2 ⟨‹_›, h'.2.1, h'.2.2⟩
      · exact (Cells.wf_cons _ _ _).2 ⟨h'.1, Cells.above_set (by omega) h'.2.1 h'.2.2, ih h'.2.2⟩

/-- Writing bytes keeps the canonical form. -/
theorem Cells.wf_write (m : List Host.Cell) (a : Nat) (bs : List Byte) (h : Cells.wf m = true) :
    Cells.wf (cellsWrite m a bs) = true := by
  induction bs generalizing m a with
  | nil => exact h
  | cons b bs ih => exact ih _ _ (Cells.wf_set m a b h)

theorem Cells.above_of_mem {a : Nat} {m : List Host.Cell} (hm : Cells.above a m) (hw : Cells.wf m = true) :
    ∀ c ∈ m, a < c.1 := by
  induction m generalizing a with
  | nil => simp
  | cons c m ih =>
    obtain ⟨b, w⟩ := c
    intro x hx
    have hw := (Cells.wf_cons b w m).1 hw
    have hb : a < b := hm
    rcases List.mem_cons.1 hx with rfl | hx
    · exact hb
    · exact Nat.lt_trans hb (ih hw.2.1 hw.2.2 x hx)

/-- Dropping cells keeps the canonical form. -/
theorem Cells.wf_filter (m : List Host.Cell) (p : Host.Cell → Bool) (h : Cells.wf m = true) :
    Cells.wf (m.filter p) = true := by
  induction m with
  | nil => rfl
  | cons c m ih =>
    obtain ⟨b, w⟩ := c
    have h' := (Cells.wf_cons b w m).1 h
    rw [List.filter_cons]
    split
    · refine (Cells.wf_cons _ _ _).2 ⟨h'.1, ?_, ih h'.2.2⟩
      have hall := Cells.above_of_mem h'.2.1 h'.2.2
      cases hf : m.filter p with
      | nil => trivial
      | cons c r =>
        obtain ⟨x, v⟩ := c
        exact hall (x, v) (List.mem_of_mem_filter (hf ▸ List.mem_cons_self ..))
    · exact ih h'.2.2

/-- Clearing a run of bytes keeps the canonical form. -/
theorem Cells.wf_clear (m : List Host.Cell) (lo hi : Nat) (h : Cells.wf m = true) :
    Cells.wf (cellsClear m lo hi) = true := Cells.wf_filter m _ h

/-- A byte below every listed one reads 0. -/
theorem cellGet_above (m : List Host.Cell) (a b : Nat) (h : Cells.above b m) (hab : a ≤ b) : cellGet m a = 0 := by
  cases m with
  | nil => rfl
  | cons c m =>
    obtain ⟨x, w⟩ := c
    have hx : b < x := h
    simp only [cellGet]
    rw [if_neg (by omega), if_pos (by omega)]

/-- A byte reads what was written to it, and every other byte what it read before. -/
theorem cellGet_set (m : List Host.Cell) (a b : Nat) (v : Byte) (h : Cells.wf m = true) :
    cellGet (cellSet m a v) b = if b = a then v else cellGet m b := by
  induction m with
  | nil =>
    simp only [cellSet, cellGet]
    split
    · simp only [cellGet]; split <;> simp_all
    · simp only [cellGet]; split <;> simp_all
  | cons c m ih =>
    obtain ⟨x, w⟩ := c
    have h' := (Cells.wf_cons x w m).1 h
    simp only [cellSet]
    split
    · rename_i hlt
      split
      · rename_i hv
        by_cases hb : b = a
        · subst hb; simp only [cellGet, if_true]; rw [if_neg (by omega), if_pos hlt, hv]
        · rw [if_neg hb]
      · by_cases hb : b = a
        · subst hb; simp [cellGet]
        · rw [if_neg hb]
          by_cases hlt2 : b < a
          · simp only [cellGet]; rw [if_neg hb, if_pos hlt2, if_neg (by omega), if_pos (by omega)]
          · conv_lhs => rw [cellGet]
            rw [if_neg hb, if_neg hlt2]
    · split
      · rename_i hax
        subst hax
        split
        · rename_i hv
          by_cases hb : b = a
          · subst hb; rw [if_pos rfl, hv]; exact cellGet_above m b b h'.2.1 (Nat.le_refl b)
          · rw [if_neg hb]
            simp only [cellGet]; rw [if_neg hb]
            by_cases hlt2 : b < a
            · rw [if_pos hlt2]; exact cellGet_above m b a h'.2.1 (Nat.le_of_lt hlt2)
            · rw [if_neg hlt2]
        · by_cases hb : b = a
          · subst hb; simp [cellGet]
          · simp only [cellGet, hb, if_false]
      · rename_i h1 h2
        simp only [cellGet]
        by_cases hbx : b = x
        · subst hbx; rw [if_pos rfl, if_pos rfl, if_neg (fun e => h2 e.symm)]
        · rw [if_neg hbx, if_neg hbx]
          by_cases hlt2 : b < x
          · rw [if_pos hlt2, if_pos hlt2, if_neg (by omega)]
          · rw [if_neg hlt2, if_neg hlt2]; exact ih h'.2.2

/-- A byte outside a run of bytes that is written reads what it read before. -/
theorem cellGet_write_other (m : List Host.Cell) (a b : Nat) (bs : List Byte) (h : Cells.wf m = true)
    (hb : b < a ∨ a + bs.length ≤ b) : cellGet (cellsWrite m a bs) b = cellGet m b := by
  induction bs generalizing m a with
  | nil => rfl
  | cons x bs ih =>
    simp only [List.length_cons] at hb
    rw [cellsWrite, ih _ _ (Cells.wf_set m a x h) (by omega), cellGet_set m a b x h, if_neg (by omega)]

/-! ## Memory -/

/-- The canonical form of memory as two facts about its stores. -/
theorem Memory.wf_iff (m : Memory) : m.wf = true ↔ Cells.wf m.hbm = true ∧ Cells.wf m.pan = true := by
  simp [Memory.wf]

/-- A memory with the same stores is canonical when the other is. -/
theorem Memory.wf_of_eq {m n : Memory} (h : n.hbm = m.hbm) (p : n.pan = m.pan) (w : m.wf = true) : n.wf = true := by
  simpa [Memory.wf, h, p] using w

theorem Memory.wf_setTag (m : Memory) (n pa : Nat) (f : Bool) (h : m.wf = true) : (m.setTag n pa f).wf = true := h

theorem Memory.wf_hbmWrite (m : Memory) (pa : Nat) (bs : List Byte) (h : m.wf = true) : (m.hbmWrite pa bs).wf = true :=
  (Memory.wf_iff _).2 ⟨Cells.wf_write _ _ _ ((Memory.wf_iff m).1 h).1, ((Memory.wf_iff m).1 h).2⟩

theorem Memory.wf_gpoke (m : Memory) (pa : Nat) (v : Byte) (h : m.wf = true) : (m.gpoke pa v).wf = true := by
  unfold Memory.gpoke
  split
  · exact h
  · exact Memory.wf_hbmWrite m pa [v] h

theorem Memory.wf_gwrite (m : Memory) (pa : Nat) (bs : List Byte) (h : m.wf = true) : (m.gwrite pa bs).wf = true := by
  induction bs generalizing m pa with
  | nil => exact h
  | cons b bs ih => exact ih _ _ (Memory.wf_gpoke m pa b h)

theorem Memory.wf_gclear (m : Memory) (lo hi : Nat) (h : m.wf = true) : (m.gclear lo hi).wf = true :=
  (Memory.wf_iff _).2 ⟨Cells.wf_clear _ _ _ ((Memory.wf_iff m).1 h).1, ((Memory.wf_iff m).1 h).2⟩

/-- A fold of steps that each keep the canonical form keeps it. -/
theorem Memory.wf_foldl {α : Type} (f : Memory → α → Memory) (l : List α) (m : Memory)
    (hf : ∀ m a, m.wf = true → (f m a).wf = true) (h : m.wf = true) : (l.foldl f m).wf = true := by
  induction l generalizing m with
  | nil => exact h
  | cons a l ih => exact ih _ (hf m a h)

theorem Memory.wf_writeBack (m : Memory) (l : L2Line) (h : m.wf = true) : (m.writeBack l).wf = true := by
  refine Memory.wf_foldl _ _ _ (fun m k hm => ?_) h
  split
  · exact Memory.wf_hbmWrite _ _ _ hm
  · exact hm

theorem Memory.wf_evict (m : Memory) (l : L2Line) (h : m.wf = true) : (m.evict l).wf = true :=
  Memory.wf_of_eq rfl rfl (Memory.wf_writeBack m l h)

theorem Memory.wf_install (m : Memory) (line sectors mask stamp : Nat) (h : m.wf = true) :
    (m.install line sectors mask stamp).wf = true := by
  unfold Memory.install
  dsimp only
  split
  · split <;> exact h
  · split
    · exact h
    · split
      · exact Memory.wf_evict m _ h
      · exact h

theorem Memory.wf_claimSector (m : Memory) (sector mask stamp : Nat) (h : m.wf = true) :
    (m.claimSector sector mask stamp).wf = true := by
  unfold Memory.claimSector
  dsimp only
  split
  · exact h
  · split
    · exact h
    · split
      · exact h
      · split
        · exact h
        · split
          · exact Memory.wf_evict m _ h
          · exact h

theorem Memory.wf_healSectors (m : Memory) (pa n : Nat) (h : m.wf = true) : (m.healSectors pa n).wf = true := h

theorem Memory.wf_touch (m : Memory) (line stamp : Nat) (h : m.wf = true) : (m.touch line stamp).wf = true := h

theorem Memory.wf_writeAt (m : Memory) (l : Loc) (n v : Nat) (h : m.wf = true) : (m.writeAt l n v).wf = true := by
  cases l with
  | pan p pa =>
    exact (Memory.wf_iff _).2 ⟨((Memory.wf_iff m).1 h).1, Cells.wf_write _ _ _ ((Memory.wf_iff m).1 h).2⟩
  | hbm pa => exact Memory.wf_gwrite m pa _ h

theorem Memory.wf_healWord (m : Memory) (l : Loc) (h : m.wf = true) : (m.healWord l).wf = true := by
  cases l <;> exact h

theorem Memory.wf_clearFrame (m : Memory) (n cellar frame : Nat) (h : m.wf = true) :
    (m.clearFrame n cellar frame).wf = true :=
  (Memory.wf_iff _).2 ⟨((Memory.wf_iff m).1 h).1, Cells.wf_clear _ _ _ ((Memory.wf_iff m).1 h).2⟩

theorem Memory.wf_setOwner (m : Memory) (o : FrameOwner) (h : m.wf = true) : (m.setOwner o).wf = true := h

theorem Memory.wf_setKeyLabel (m : Memory) (k : Nat) (l : Label) (h : m.wf = true) : (m.setKeyLabel k l).wf = true := h

theorem Memory.wf_clearHbmFrame (m : Memory) (frame : Nat) (h : m.wf = true) : (m.clearHbmFrame frame).wf = true :=
  Memory.wf_gclear m _ _ h

theorem Memory.wf_clearPan (m : Memory) (n lo hi : Nat) (h : m.wf = true) : (m.clearPan n lo hi).wf = true :=
  (Memory.wf_iff _).2 ⟨((Memory.wf_iff m).1 h).1, Cells.wf_clear _ _ _ ((Memory.wf_iff m).1 h).2⟩

theorem Memory.wf_clearVat (m : Memory) (n vat : Nat) (h : m.wf = true) : (m.clearVat n vat).wf = true :=
  Memory.wf_clearPan m _ _ _ h

theorem Memory.wf_clearCellar (m : Memory) (n cellar : Nat) (h : m.wf = true) : (m.clearCellar n cellar).wf = true :=
  Memory.wf_foldl _ _ _ (fun m k hm => Memory.wf_clearVat m n (4 * cellar + k) hm) h

theorem Memory.wf_cleanTile (m : Memory) (tile : Nat) (h : m.wf = true) : (m.cleanTile tile).wf = true :=
  Memory.wf_foldl _ _ _ (fun m l hm => Memory.wf_writeBack m l hm) h

/-- A Pan store in canonical form may take the place of the old one, with its tags and its errors. -/
theorem Memory.wf_setPan (m : Memory) (x : List Host.Cell) (e b w : List Nat) (hx : Cells.wf x = true) (h : m.wf = true) :
    ({ m with pan := x, empties := e, badWords := b, softWords := w } : Memory).wf = true :=
  (Memory.wf_iff _).2 ⟨((Memory.wf_iff m).1 h).1, hx⟩

theorem Memory.wf_copyFrame (m : Memory) (n src dst : Nat) (h : m.wf = true) : (m.copyFrame n src dst).wf = true := by
  rw [Memory.copyFrame.eq_1]
  exact Memory.wf_setPan m _ _ _ _ (Cells.wf_write _ _ _ ((Memory.wf_iff m).1 h).2) h

end Sys2Proof.Machine
end

