-- ==== Sys2Proof/Laws/PerInstr.lean ====
section
/-! SUPPORT. Encoding: what an instruction encodes to decodes back to it, one lemma per constructor (R89 to R99). -/

namespace Sys2Proof.Laws.Encoding

open Sys2Proof

/-! ## Fields of a packed word -/

/-- The lowest field of a packed word. -/
theorem bitsAt_head (n v : Nat) (fs : List (Nat × Nat)) : bitsAt (pack ((n, v) :: fs)) 0 n = v % 2 ^ n := by
  simp [bitsAt, pack, Nat.add_mul_mod_self_left]

/-- A field above the lowest one. -/
theorem bitsAt_tail (n v lo k : Nat) (fs : List (Nat × Nat)) (h : n ≤ lo) :
    bitsAt (pack ((n, v) :: fs)) lo k = bitsAt (pack fs) (lo - n) k := by
  have h2 : 2 ^ lo = 2 ^ n * 2 ^ (lo - n) := by rw [← Nat.pow_add]; congr 1; omega
  simp only [bitsAt, pack, h2, ← Nat.div_div_eq_div_mul]
  rw [Nat.add_mul_div_left _ _ (Nat.two_pow_pos n), Nat.div_eq_of_lt (Nat.mod_lt _ (Nat.two_pow_pos n)), Nat.zero_add]

/-- A field that begins with the lowest one and goes on above it. -/
theorem bitsAt_join (n v k : Nat) (fs : List (Nat × Nat)) (h : n ≤ k) :
    bitsAt (pack ((n, v) :: fs)) 0 k = v % 2 ^ n + 2 ^ n * bitsAt (pack fs) 0 (k - n) := by
  obtain ⟨m, rfl⟩ := Nat.exists_eq_add_of_le h
  simp only [bitsAt, pack, Nat.pow_zero, Nat.div_one, Nat.add_sub_cancel_left, Nat.pow_add]
  rw [Nat.mod_mul, Nat.add_mul_mod_self_left, Nat.mod_mod, Nat.add_mul_div_left _ _ (Nat.two_pow_pos n),
    Nat.div_eq_of_lt (Nat.mod_lt _ (Nat.two_pow_pos n)), Nat.zero_add]

/-- A field that is present. -/
theorem withField_some {α : Type} (x : α) (k : α → Except Reject Instr) : withField (some x) k = k x := rfl
/-- The top bit of a compact vector instruction. -/
theorem vector_high : bitsAt (pack [(2, 2)]) 1 1 = 1 := by decide
/-- The bit below it. -/
theorem vector_low : bitsAt (pack [(2, 2)]) 0 1 = 0 := by decide
/-- vmv is not the form that reads a general register. -/
theorem vmv_not_x (z : Bool) (k : MReg) : (bitsAt (pack [(1, z.toNat), (4, 0), (3, k.val), (8, 23)]) 0 8 = 4) = False := by
  revert z k; simp only [eq_iff_iff, iff_false]; decide
/-- vmv.bc is not the form that reads a general register. -/
theorem vmvBc_not_x (z : Bool) (k : MReg) : (bitsAt (pack [(1, z.toNat), (4, 1), (3, k.val), (8, 23)]) 0 8 = 4) = False := by
  revert z k; simp only [eq_iff_iff, iff_false]; decide
/-- The label forms are told apart by their upper fields. -/
theorem lbl_not_s (a : Reg) (ta tb : Bool) :
    (bitsAt (pack [(5, a.val), (5, 0), (1, ta.toNat), (1, tb.toNat), (8, 0)]) 0 10 = 96) = False := by
  revert a ta tb; simp only [eq_iff_iff, iff_false]; decide
theorem lbl_not_m (a : Reg) (ta tb : Bool) :
    (bitsAt (pack [(5, a.val), (5, 0), (1, ta.toNat), (1, tb.toNat), (8, 0)]) 3 7 = 8) = False := by
  revert a ta tb; simp only [eq_iff_iff, iff_false]; decide
theorem lbl_not_v (a : Reg) (ta tb : Bool) :
    (bitsAt (pack [(5, a.val), (5, 0), (1, ta.toNat), (1, tb.toNat), (8, 0)]) 4 6 = 2) = False := by
  revert a ta tb; simp only [eq_iff_iff, iff_false]; decide
theorem lblV_not_s (a : VReg) (ta tb : Bool) :
    (bitsAt (pack [(4, a.val), (6, 2), (1, ta.toNat), (1, tb.toNat), (8, 0)]) 0 10 = 96) = False := by
  revert a ta tb; simp only [eq_iff_iff, iff_false]; decide
theorem lblV_not_m (a : VReg) (ta tb : Bool) :
    (bitsAt (pack [(4, a.val), (6, 2), (1, ta.toNat), (1, tb.toNat), (8, 0)]) 3 7 = 8) = False := by
  revert a ta tb; simp only [eq_iff_iff, iff_false]; decide
theorem lblM_not_s (a : MReg) (ta tb : Bool) :
    (bitsAt (pack [(3, a.val), (7, 8), (1, ta.toNat), (1, tb.toNat), (8, 0)]) 0 10 = 96) = False := by
  revert a ta tb; simp only [eq_iff_iff, iff_false]; decide
/-- The three major functions of vcvt. -/
theorem vcvt_high (c : Fin 12) : bitsAt (pack [(4, c.val), (4, 4)]) 2 6 = 16 ∨ bitsAt (pack [(4, c.val), (4, 4)]) 2 6 = 17 ∨
    bitsAt (pack [(4, c.val), (4, 4)]) 2 6 = 18 := by revert c; decide
theorem bool_mod (b : Bool) : b.toNat % 2 = b.toNat := by cases b <;> rfl
theorem bool_eq (b : Bool) : decide (b.toNat = 1) = b := by cases b <;> rfl
theorem pwidth_mod (w : PWidth) : w.code % 4 = w.code := by cases w <;> rfl
theorem pwidth_code (w : PWidth) : PWidth.ofCode w.code = some w := by cases w <;> rfl
theorem fpFmt_mod (w : FpFmt) : w.code % 4 = w.code := by cases w <;> rfl
theorem fpFmt_code (w : FpFmt) : FpFmt.ofCode w.code = some w := by cases w <;> rfl
theorem rm_mod (w : Rm) : w.code % 8 = w.code := by cases w <;> rfl
theorem rm_wide (w : Rm) : w.code % 32 = w.code := by cases w <;> rfl
theorem rm_code (w : Rm) : Rm.ofCode w.code = some w := by cases w <;> rfl
theorem memOrder_mod (w : MemOrder) : w.code % 4 = w.code := by cases w <;> rfl
theorem memOrder_code (w : MemOrder) : MemOrder.ofCode w.code = w := by cases w <;> rfl
theorem memSize_mod (w : MemSize) : w.code % 4 = w.code := by cases w <;> rfl
theorem memSize_code (w : MemSize) : MemSize.ofCode w.code = w := by cases w <;> rfl
theorem fmt_mod (w : Fmt) : w.code % 32 = w.code := by cases w <;> rfl
theorem fmt_code (w : Fmt) : Fmt.ofCode w.code = w := by cases w <;> rfl
theorem cvtRound_mod (w : CvtRound) : w.code % 8 = w.code := by
  cases w with
  | status => rfl
  | fixed r => cases r <;> rfl
theorem cvtRound_code (w : CvtRound) : CvtRound.ofCode w.code = some w := by
  cases w with
  | status => rfl
  | fixed r => cases r <;> rfl
theorem vcvt_code (c : Fin 12) : vcvtCode c.val = some c := by simp [vcvtCode, c.isLt]
theorem bv_mod {n : Nat} (x : BitVec n) : x.toNat % 2 ^ n = x.toNat := Nat.mod_eq_of_lt x.isLt
theorem bv_of {n : Nat} (x : BitVec n) : BitVec.ofNat n x.toNat = x := BitVec.ofNat_toNat _ _ |>.trans (BitVec.setWidth_eq x)
theorem lt_of_fin {n : Nat} (x : Fin n) (m : Nat) (h : n ≤ m) : x.val % m = x.val := Nat.mod_eq_of_lt (Nat.lt_of_lt_of_le x.isLt h)

/-- A well-formed instruction passes the check of its limits. -/
theorem checked_wf {i : Instr} (h : i.wellFormed = true) : checked i = .ok i := by
  simp only [Instr.wellFormed, Option.isNone_iff_eq_none] at h; simp [checked, h]

/-- A well-formed mtc names none of the registers with a row of their own. -/
theorem mtc_number {a : Reg} {c : BitVec 12} (h : (Instr.mtc a c).wellFormed = true) :
    (c.toNat = 0) = False ∧ (c.toNat = 2) = False ∧ (c.toNat = 3) = False ∧ (c.toNat = 80) = False ∧
    (c.toNat = 81) = False ∧ (c.toNat = 83) = False ∧ (c.toNat = 97) = False := by
  have key : ownMtc c = false := by
    cases hc : ownMtc c with
    | false => rfl
    | true => simp [Instr.wellFormed, Instr.illFormed, hc] at h
  have no : ∀ n : Nat, n < 4096 → ownMtc (BitVec.ofNat 12 n) = true → (c.toNat = n) = False := fun n _ hn =>
    eq_false fun e => by
      rw [show c = BitVec.ofNat 12 n from by rw [← e]; exact (bv_of c).symm] at key
      rw [key] at hn; cases hn
  exact ⟨no 0 (by decide) (by decide), no 2 (by decide) (by decide), no 3 (by decide) (by decide),
    no 80 (by decide) (by decide), no 81 (by decide) (by decide), no 83 (by decide) (by decide), no 97 (by decide) (by decide)⟩

/-- The major opcode of a packed word. -/
theorem major (m : Nat) (fs : List (Nat × Nat)) (h : m < 64) : bitsAt (pack ((1, 1) :: (6, m) :: fs)) 1 6 = m := by
  rw [bitsAt_tail _ _ _ _ _ (Nat.le_refl 1), Nat.sub_self, bitsAt_head]; exact Nat.mod_eq_of_lt h

theorem major_decodeAluR (fs : List (Nat × Nat)) : decodeWord (pack ((1, 1) :: (6, 0) :: fs)) = decodeAluR (pack ((1, 1) :: (6, 0) :: fs)) := by
  rw [decodeWord, major 0 fs (by decide)]; rfl
theorem major_decodeAddi (fs : List (Nat × Nat)) : decodeWord (pack ((1, 1) :: (6, 1) :: fs)) = decodeAddi (pack ((1, 1) :: (6, 1) :: fs)) := by
  rw [decodeWord, major 1 fs (by decide)]; rfl
theorem major_decodeAndi (fs : List (Nat × Nat)) : decodeWord (pack ((1, 1) :: (6, 2) :: fs)) = decodeAndi (pack ((1, 1) :: (6, 2) :: fs)) := by
  rw [decodeWord, major 2 fs (by decide)]; rfl
theorem major_decodeOri (fs : List (Nat × Nat)) : decodeWord (pack ((1, 1) :: (6, 3) :: fs)) = decodeOri (pack ((1, 1) :: (6, 3) :: fs)) := by
  rw [decodeWord, major 3 fs (by decide)]; rfl
theorem major_decodeXori (fs : List (Nat × Nat)) : decodeWord (pack ((1, 1) :: (6, 4) :: fs)) = decodeXori (pack ((1, 1) :: (6, 4) :: fs)) := by
  rw [decodeWord, major 4 fs (by decide)]; rfl
theorem major_decodeShiftImm (fs : List (Nat × Nat)) : decodeWord (pack ((1, 1) :: (6, 5) :: fs)) = decodeShiftImm (pack ((1, 1) :: (6, 5) :: fs)) := by
  rw [decodeWord, major 5 fs (by decide)]; rfl
theorem major_decodeSlti (fs : List (Nat × Nat)) : decodeWord (pack ((1, 1) :: (6, 6) :: fs)) = decodeSlti (pack ((1, 1) :: (6, 6) :: fs)) := by
  rw [decodeWord, major 6 fs (by decide)]; rfl
theorem major_decodeSltiu (fs : List (Nat × Nat)) : decodeWord (pack ((1, 1) :: (6, 7) :: fs)) = decodeSltiu (pack ((1, 1) :: (6, 7) :: fs)) := by
  rw [decodeWord, major 7 fs (by decide)]; rfl
theorem major_decodeLui (fs : List (Nat × Nat)) : decodeWord (pack ((1, 1) :: (6, 8) :: fs)) = decodeLui (pack ((1, 1) :: (6, 8) :: fs)) := by
  rw [decodeWord, major 8 fs (by decide)]; rfl
theorem major_decodeAddpc (fs : List (Nat × Nat)) : decodeWord (pack ((1, 1) :: (6, 9) :: fs)) = decodeAddpc (pack ((1, 1) :: (6, 9) :: fs)) := by
  rw [decodeWord, major 9 fs (by decide)]; rfl
theorem major_decodeMulDiv (fs : List (Nat × Nat)) : decodeWord (pack ((1, 1) :: (6, 10) :: fs)) = decodeMulDiv (pack ((1, 1) :: (6, 10) :: fs)) := by
  rw [decodeWord, major 10 fs (by decide)]; rfl
theorem major_decodePsimd (fs : List (Nat × Nat)) : decodeWord (pack ((1, 1) :: (6, 11) :: fs)) = decodePsimd (pack ((1, 1) :: (6, 11) :: fs)) := by
  rw [decodeWord, major 11 fs (by decide)]; rfl
theorem major_decodeCplx (fs : List (Nat × Nat)) : decodeWord (pack ((1, 1) :: (6, 12) :: fs)) = decodeCplx (pack ((1, 1) :: (6, 12) :: fs)) := by
  rw [decodeWord, major 12 fs (by decide)]; rfl
theorem major_decodeBitf (fs : List (Nat × Nat)) : decodeWord (pack ((1, 1) :: (6, 13) :: fs)) = decodeBitf (pack ((1, 1) :: (6, 13) :: fs)) := by
  rw [decodeWord, major 13 fs (by decide)]; rfl
theorem major_decodeFp (fs : List (Nat × Nat)) : decodeWord (pack ((1, 1) :: (6, 14) :: fs)) = decodeFp (pack ((1, 1) :: (6, 14) :: fs)) := by
  rw [decodeWord, major 14 fs (by decide)]; rfl
theorem major_decodeCvt (fs : List (Nat × Nat)) : decodeWord (pack ((1, 1) :: (6, 15) :: fs)) = decodeCvt (pack ((1, 1) :: (6, 15) :: fs)) := by
  rw [decodeWord, major 15 fs (by decide)]; rfl
theorem major_decodeLd (fs : List (Nat × Nat)) : decodeWord (pack ((1, 1) :: (6, 16) :: fs)) = decodeLd (pack ((1, 1) :: (6, 16) :: fs)) := by
  rw [decodeWord, major 16 fs (by decide)]; rfl
theorem major_decodeSt (fs : List (Nat × Nat)) : decodeWord (pack ((1, 1) :: (6, 17) :: fs)) = decodeSt (pack ((1, 1) :: (6, 17) :: fs)) := by
  rw [decodeWord, major 17 fs (by decide)]; rfl
theorem major_decodeBurst (fs : List (Nat × Nat)) : decodeWord (pack ((1, 1) :: (6, 18) :: fs)) = decodeBurst (pack ((1, 1) :: (6, 18) :: fs)) := by
  rw [decodeWord, major 18 fs (by decide)]; rfl
theorem major_decodeSyncMem (fs : List (Nat × Nat)) : decodeWord (pack ((1, 1) :: (6, 19) :: fs)) = decodeSyncMem (pack ((1, 1) :: (6, 19) :: fs)) := by
  rw [decodeWord, major 19 fs (by decide)]; rfl
theorem major_decodeAmo (fs : List (Nat × Nat)) : decodeWord (pack ((1, 1) :: (6, 20) :: fs)) = decodeAmo (pack ((1, 1) :: (6, 20) :: fs)) := by
  rw [decodeWord, major 20 fs (by decide)]; rfl
theorem major_decodeRed (fs : List (Nat × Nat)) : decodeWord (pack ((1, 1) :: (6, 21) :: fs)) = decodeRed (pack ((1, 1) :: (6, 21) :: fs)) := by
  rw [decodeWord, major 21 fs (by decide)]; rfl
theorem major_decodeCas (fs : List (Nat × Nat)) : decodeWord (pack ((1, 1) :: (6, 22) :: fs)) = decodeCas (pack ((1, 1) :: (6, 22) :: fs)) := by
  rw [decodeWord, major 22 fs (by decide)]; rfl
theorem major_decodeWait (fs : List (Nat × Nat)) : decodeWord (pack ((1, 1) :: (6, 23) :: fs)) = decodeWait (pack ((1, 1) :: (6, 23) :: fs)) := by
  rw [decodeWord, major 23 fs (by decide)]; rfl
theorem major_decodeFence (fs : List (Nat × Nat)) : decodeWord (pack ((1, 1) :: (6, 24) :: fs)) = decodeFence (pack ((1, 1) :: (6, 24) :: fs)) := by
  rw [decodeWord, major 24 fs (by decide)]; rfl
theorem major_decodeMigr (fs : List (Nat × Nat)) : decodeWord (pack ((1, 1) :: (6, 25) :: fs)) = decodeMigr (pack ((1, 1) :: (6, 25) :: fs)) := by
  rw [decodeWord, major 25 fs (by decide)]; rfl
theorem major_decodeBranch (fs : List (Nat × Nat)) : decodeWord (pack ((1, 1) :: (6, 26) :: fs)) = decodeBranch (pack ((1, 1) :: (6, 26) :: fs)) := by
  rw [decodeWord, major 26 fs (by decide)]; rfl
theorem major_decodeJal (fs : List (Nat × Nat)) : decodeWord (pack ((1, 1) :: (6, 27) :: fs)) = decodeJal (pack ((1, 1) :: (6, 27) :: fs)) := by
  rw [decodeWord, major 27 fs (by decide)]; rfl
theorem major_decodeJalr (fs : List (Nat × Nat)) : decodeWord (pack ((1, 1) :: (6, 28) :: fs)) = decodeJalr (pack ((1, 1) :: (6, 28) :: fs)) := by
  rw [decodeWord, major 28 fs (by decide)]; rfl
theorem major_decodeLoop (fs : List (Nat × Nat)) : decodeWord (pack ((1, 1) :: (6, 29) :: fs)) = decodeLoop (pack ((1, 1) :: (6, 29) :: fs)) := by
  rw [decodeWord, major 29 fs (by decide)]; rfl
theorem major_decodeTask (fs : List (Nat × Nat)) : decodeWord (pack ((1, 1) :: (6, 30) :: fs)) = decodeTask (pack ((1, 1) :: (6, 30) :: fs)) := by
  rw [decodeWord, major 30 fs (by decide)]; rfl
theorem major_decodeSys (fs : List (Nat × Nat)) : decodeWord (pack ((1, 1) :: (6, 31) :: fs)) = decodeSys (pack ((1, 1) :: (6, 31) :: fs)) := by
  rw [decodeWord, major 31 fs (by decide)]; rfl
theorem major_decodeValu (fs : List (Nat × Nat)) : decodeWord (pack ((1, 1) :: (6, 32) :: fs)) = decodeValu (pack ((1, 1) :: (6, 32) :: fs)) := by
  rw [decodeWord, major 32 fs (by decide)]; rfl
theorem major_decodeVfp (fs : List (Nat × Nat)) : decodeWord (pack ((1, 1) :: (6, 33) :: fs)) = decodeVfp (pack ((1, 1) :: (6, 33) :: fs)) := by
  rw [decodeWord, major 33 fs (by decide)]; rfl
theorem major_decodeVmem (fs : List (Nat × Nat)) : decodeWord (pack ((1, 1) :: (6, 34) :: fs)) = decodeVmem (pack ((1, 1) :: (6, 34) :: fs)) := by
  rw [decodeWord, major 34 fs (by decide)]; rfl
theorem major_decodeVctl (fs : List (Nat × Nat)) : decodeWord (pack ((1, 1) :: (6, 35) :: fs)) = decodeVctl (pack ((1, 1) :: (6, 35) :: fs)) := by
  rw [decodeWord, major 35 fs (by decide)]; rfl
theorem major_decodeVsfu (fs : List (Nat × Nat)) : decodeWord (pack ((1, 1) :: (6, 36) :: fs)) = decodeVsfu (pack ((1, 1) :: (6, 36) :: fs)) := by
  rw [decodeWord, major 36 fs (by decide)]; rfl
theorem major_decodeRack (fs : List (Nat × Nat)) : decodeWord (pack ((1, 1) :: (6, 37) :: fs)) = decodeRack (pack ((1, 1) :: (6, 37) :: fs)) := by
  rw [decodeWord, major 37 fs (by decide)]; rfl
theorem major_decodePress (fs : List (Nat × Nat)) : decodeWord (pack ((1, 1) :: (6, 38) :: fs)) = decodePress (pack ((1, 1) :: (6, 38) :: fs)) := by
  rw [decodeWord, major 38 fs (by decide)]; rfl
theorem major_decodeDir (fs : List (Nat × Nat)) : decodeWord (pack ((1, 1) :: (6, 39) :: fs)) = decodeDir (pack ((1, 1) :: (6, 39) :: fs)) := by
  rw [decodeWord, major 39 fs (by decide)]; rfl
theorem major_decodeLabelGroup (fs : List (Nat × Nat)) : decodeWord (pack ((1, 1) :: (6, 40) :: fs)) = decodeLabelGroup (pack ((1, 1) :: (6, 40) :: fs)) := by
  rw [decodeWord, major 40 fs (by decide)]; rfl
theorem major_decodeLaunch (fs : List (Nat × Nat)) : decodeWord (pack ((1, 1) :: (6, 41) :: fs)) = decodeLaunch (pack ((1, 1) :: (6, 41) :: fs)) := by
  rw [decodeWord, major 41 fs (by decide)]; rfl


/-! ## One lemma per constructor -/

/-- Decoding what an instruction encodes to gives it back, with every operand at every value the encoding admits. -/
def Statement (i : Instr) : Prop :=
  i.encoded = true → i.wellFormed = true →
    (i.bits = 16 ∧ encode i < 2 ^ 16 ∧ encode i % 2 = 0 ∧ decodeHalf (encode i) = .ok i) ∨
    (i.bits = 32 ∧ encode i < 2 ^ 32 ∧ encode i % 2 = 1 ∧ decodeWord (encode i) = .ok i)

/-- A packed word lies below the power of two of its widths. -/
theorem pack_lt : (fs : List (Nat × Nat)) → pack fs < 2 ^ (fs.map Prod.fst).sum
  | [] => by simp [pack]
  | (n, v) :: fs => by
    have h := pack_lt fs
    have h2 : v % 2 ^ n < 2 ^ n := Nat.mod_lt _ (Nat.two_pow_pos n)
    simp only [pack, List.map_cons, List.sum_cons, Nat.pow_add]
    calc v % 2 ^ n + 2 ^ n * pack fs < 2 ^ n * (pack fs + 1) := by rw [Nat.mul_add]; omega
      _ ≤ 2 ^ n * 2 ^ (fs.map Prod.fst).sum := Nat.mul_le_mul_left _ h

/-- The lowest bit of a packed word. -/
theorem pack_mod_two (v : Nat) (fs : List (Nat × Nat)) : pack ((1, v) :: fs) % 2 = v % 2 := by
  simp [pack]

/-- A 32-bit instruction whose word decodes to it. -/
theorem wide {i : Instr} {fs : List (Nat × Nat)} (hb : i.bits = 32) (he : encode i = pack ((1, 1) :: fs))
    (hl : (fs.map Prod.fst).sum = 31) (hd : decodeWord (pack ((1, 1) :: fs)) = .ok i) :
    (i.bits = 16 ∧ encode i < 2 ^ 16 ∧ encode i % 2 = 0 ∧ decodeHalf (encode i) = .ok i) ∨
    (i.bits = 32 ∧ encode i < 2 ^ 32 ∧ encode i % 2 = 1 ∧ decodeWord (encode i) = .ok i) := by
  refine .inr ⟨hb, he ▸ ?_, he ▸ pack_mod_two 1 fs, he ▸ hd⟩
  have := pack_lt ((1, 1) :: fs)
  rwa [List.map_cons, List.sum_cons, hl] at this

/-- A compact instruction whose halfword decodes to it. -/
theorem narrow {i : Instr} {fs : List (Nat × Nat)} (hb : i.bits = 16) (he : encode i = pack ((1, 0) :: fs))
    (hl : (fs.map Prod.fst).sum = 15) (hd : decodeHalf (pack ((1, 0) :: fs)) = .ok i) :
    (i.bits = 16 ∧ encode i < 2 ^ 16 ∧ encode i % 2 = 0 ∧ decodeHalf (encode i) = .ok i) ∨
    (i.bits = 32 ∧ encode i < 2 ^ 32 ∧ encode i % 2 = 1 ∧ decodeWord (encode i) = .ok i) := by
  refine .inl ⟨hb, he ▸ ?_, he ▸ pack_mod_two 0 fs, he ▸ hd⟩
  have := pack_lt ((1, 0) :: fs)
  rwa [List.map_cons, List.sum_cons, hl] at this

theorem asyncTrapDelivery : Statement (.asyncTrapDelivery) := fun h => nomatch h
theorem fetchLineInstall (read : Nat) : Statement (.fetchLineInstall read) := fun h => nomatch h
theorem bankArbitration (pan : Nat) (bank : Nat) : Statement (.bankArbitration pan bank) := fun h => nomatch h
theorem resultFill (fill : Nat) : Statement (.resultFill fill) := fun h => nomatch h
theorem migrationArrival (uid : Nat) : Statement (.migrationArrival uid) := fun h => nomatch h
theorem arrivalBufferPlace (core : Nat) (part : Nat) : Statement (.arrivalBufferPlace core part) := fun h => nomatch h
theorem migrationResend (uid : Nat) : Statement (.migrationResend uid) := fun h => nomatch h
theorem migrationPlacedNotice (core : Nat) (slot : Nat) : Statement (.migrationPlacedNotice core slot) := fun h => nomatch h
theorem migrationFallback (uid : Nat) : Statement (.migrationFallback uid) := fun h => nomatch h
theorem proxiedAccess (acc : Nat) : Statement (.proxiedAccess acc) := fun h => nomatch h
theorem postedWriteArrival (acc : Nat) : Statement (.postedWriteArrival acc) := fun h => nomatch h
theorem postedWriteAck (acc : Nat) : Statement (.postedWriteAck acc) := fun h => nomatch h
theorem postedWakeArrival (acc : Nat) : Statement (.postedWakeArrival acc) := fun h => nomatch h
theorem translationRequest (req : Nat) : Statement (.translationRequest req) := fun h => nomatch h
theorem translationWalkDone (walk : Nat) : Statement (.translationWalkDone walk) := fun h => nomatch h
theorem l2FillBurst (fill : Nat) : Statement (.l2FillBurst fill) := fun h => nomatch h
theorem hbmFillReturn (fill : Nat) : Statement (.hbmFillReturn fill) := fun h => nomatch h
theorem crossDieWriteApply (src : Nat) (dst : Nat) : Statement (.crossDieWriteApply src dst) := fun h => nomatch h
theorem clockBeat : Statement (.clockBeat) := fun h => nomatch h
theorem dclockReport (die : Nat) (counts : List Nat) : Statement (.dclockReport die counts) := fun h => nomatch h
theorem vclockZeroing : Statement (.vclockZeroing) := fun h => nomatch h
theorem globalFenceOrdering (uid : Nat) : Statement (.globalFenceOrdering uid) := fun h => nomatch h
theorem barrierRequest (pan : Nat) (cycle : Nat) : Statement (.barrierRequest pan cycle) := fun h => nomatch h
theorem parkTimeout (uid : Nat) (stamp : Nat) : Statement (.parkTimeout uid stamp) := fun h => nomatch h
theorem sleepTimeout (uid : Nat) (stamp : Nat) : Statement (.sleepTimeout uid stamp) := fun h => nomatch h
theorem launchWindowSubmit (vf : Nat) (off : Nat) (data : List Byte) : Statement (.launchWindowSubmit vf off data) := fun h => nomatch h
theorem invocationArrival (inv : Invocation) : Statement (.invocationArrival inv) := fun h => nomatch h
theorem launchPlacementPass (part : Nat) : Statement (.launchPlacementPass part) := fun h => nomatch h
theorem waitonPoll (part : Nat) : Statement (.waitonPoll part) := fun h => nomatch h
theorem priorityAging : Statement (.priorityAging) := fun h => nomatch h
theorem completionWrite (part : Nat) (seq : Nat) : Statement (.completionWrite part seq) := fun h => nomatch h
theorem msixRaise (vf : Nat) (vec : Nat) : Statement (.msixRaise vf vec) := fun h => nomatch h
theorem handlerErrorCompletion (part : Nat) (ev : FaultEvent) : Statement (.handlerErrorCompletion part ev) := fun h => nomatch h
theorem fold (part : Nat) (gang : Nat) (why : Nat) : Statement (.fold part gang why) := fun h => nomatch h
theorem ownership (part : Nat) (slot : Nat) : Statement (.ownership part slot) := fun h => nomatch h
theorem slotHandover (core : Nat) (slot : Nat) : Statement (.slotHandover core slot) := fun h => nomatch h
theorem slotScrubDone (core : Nat) (slot : Nat) : Statement (.slotScrubDone core slot) := fun h => nomatch h
theorem pageMove (part : Nat) (pan : Nat) (page : Nat) : Statement (.pageMove part pan page) := fun h => nomatch h
theorem pageMoveRetire (part : Nat) (pan : Nat) (page : Nat) : Statement (.pageMoveRetire part pan page) := fun h => nomatch h
theorem cellarClear (pan : Nat) (cellar : Nat) : Statement (.cellarClear pan cellar) := fun h => nomatch h
theorem resized (part : Nat) : Statement (.resized part) := fun h => nomatch h
theorem root (part : Nat) (slot : Nat) : Statement (.root part slot) := fun h => nomatch h
theorem frames (part : Nat) (slot : Nat) : Statement (.frames part slot) := fun h => nomatch h
theorem release (part : Nat) (slot : Nat) : Statement (.release part slot) := fun h => nomatch h
theorem retire (part : Nat) (slot : Nat) : Statement (.retire part slot) := fun h => nomatch h
theorem rackSegment (trellis : Nat) (cmd : Nat) : Statement (.rackSegment trellis cmd) := fun h => nomatch h
theorem rackRetire (trellis : Nat) (cmd : Nat) : Statement (.rackRetire trellis cmd) := fun h => nomatch h
theorem followOnEnqueue (trellis : Nat) (cmd : Nat) : Statement (.followOnEnqueue trellis cmd) := fun h => nomatch h
theorem rackWatchdog (trellis : Nat) (cmd : Nat) : Statement (.rackWatchdog trellis cmd) := fun h => nomatch h
theorem collContribution (msg : CollMsg) : Statement (.collContribution msg) := fun h => nomatch h
theorem collTimeout (tag : Nat) (epoch : Nat) : Statement (.collTimeout tag epoch) := fun h => nomatch h
theorem linkFailure (port : Nat) : Statement (.linkFailure port) := fun h => nomatch h
theorem pressOpStart (trellis : Nat) : Statement (.pressOpStart trellis) := fun h => nomatch h
theorem pressKblock (trellis : Nat) : Statement (.pressKblock trellis) := fun h => nomatch h
theorem pressOpRetire (trellis : Nat) : Statement (.pressOpRetire trellis) := fun h => nomatch h
theorem pressWatchdog (trellis : Nat) : Statement (.pressWatchdog trellis) := fun h => nomatch h
theorem tdirPerform (trellis : Nat) (req : Nat) : Statement (.tdirPerform trellis req) := fun h => nomatch h
theorem tmovePerform (trellis : Nat) (req : Nat) : Statement (.tmovePerform trellis req) := fun h => nomatch h
theorem entryLanding (trellis : Nat) (req : Nat) : Statement (.entryLanding trellis req) := fun h => nomatch h
theorem censusRequest (req : Nat) : Statement (.censusRequest req) := fun h => nomatch h
theorem censusBroadcast (trellis : Nat) (census : Nat) : Statement (.censusBroadcast trellis census) := fun h => nomatch h
theorem responderStart (trellis : Nat) : Statement (.responderStart trellis) := fun h => nomatch h
theorem trellisReport (trellis : Nat) (census : Nat) : Statement (.trellisReport trellis census) := fun h => nomatch h
theorem panNodeReport (pan : Nat) (census : Nat) : Statement (.panNodeReport pan census) := fun h => nomatch h
theorem landingNotice (part : Nat) (move : Nat) : Statement (.landingNotice part move) := fun h => nomatch h
theorem censusComplete (part : Nat) (census : Nat) : Statement (.censusComplete part census) := fun h => nomatch h
theorem policyInstall (pol : PolicyBody) : Statement (.policyInstall pol) := fun h => nomatch h
theorem policyRevoke (pol : PolicyBody) : Statement (.policyRevoke pol) := fun h => nomatch h
theorem labelGrant (pol : PolicyBody) : Statement (.labelGrant pol) := fun h => nomatch h
theorem policyExpiry (id : Nat) : Statement (.policyExpiry id) := fun h => nomatch h
theorem faultQueueEvent (part : Nat) (ev : FaultEvent) : Statement (.faultQueueEvent part ev) := fun h => nomatch h
theorem faultQueueRetry (part : Nat) : Statement (.faultQueueRetry part) := fun h => nomatch h
theorem slotTimerExpiry (uid : Nat) : Statement (.slotTimerExpiry uid) := fun h => nomatch h
theorem heartbeatMiss (uid : Nat) : Statement (.heartbeatMiss uid) := fun h => nomatch h
theorem budgetPeriod : Statement (.budgetPeriod) := fun h => nomatch h
theorem thermtrip (temp : Nat) : Statement (.thermtrip temp) := fun h => nomatch h
theorem regulatorWindow : Statement (.regulatorWindow) := fun h => nomatch h
theorem channelDerate (slice : Nat) : Statement (.channelDerate slice) := fun h => nomatch h
theorem waySweep (slice : Nat) : Statement (.waySweep slice) := fun h => nomatch h
theorem telemetryExport (part : Nat) : Statement (.telemetryExport part) := fun h => nomatch h
theorem functionLevelReset (vf : Nat) : Statement (.functionLevelReset vf) := fun h => nomatch h
theorem rakejob (value : Word) : Statement (.rakejob value) := fun h => nomatch h
theorem rakeItemDone : Statement (.rakeItemDone) := fun h => nomatch h
theorem rakestat (value : Word) : Statement (.rakestat value) := fun h => nomatch h
theorem deviceReset : Statement (.deviceReset) := fun h => nomatch h
theorem powerOn (fw : List Byte) (dm : List Byte) (cfg : List Byte) : Statement (.powerOn fw dm cfg) := fun h => nomatch h
theorem attestationRequest (nonce : List Byte) : Statement (.attestationRequest nonce) := fun h => nomatch h
theorem portAttestation (port : Nat) : Statement (.portAttestation port) := fun h => nomatch h
theorem fabricPacketArrival (pkt : FabricPacket) : Statement (.fabricPacketArrival pkt) := fun h => nomatch h
theorem hostWrite (vf : Nat) (addr : Nat) (data : List Byte) : Statement (.hostWrite vf addr data) := fun h => nomatch h
theorem hostRead (vf : Nat) (addr : Nat) (len : Nat) : Statement (.hostRead vf addr len) := fun h => nomatch h
theorem signedConfigurationRecord (rec : List Byte) : Statement (.signedConfigurationRecord rec) := fun h => nomatch h

theorem add (d : Reg) (a : Reg) (b : Reg) (ta : Bool) (tb : Bool) : Statement (.add d a b ta tb) := fun _ h =>
  wide rfl rfl rfl ((major_decodeAluR _).trans (by simp only [decodeAluR, bitsAt_head, bitsAt_tail, checked_wf h, Nat.le_refl, Nat.reduceLeDiff, Nat.reduceSub, Nat.reducePow, Nat.reduceMod, finAt, bitAt, lt_of_fin d 32 (by decide), lt_of_fin a 32 (by decide), lt_of_fin b 32 (by decide), bool_mod, bool_eq]))
theorem sub (d : Reg) (a : Reg) (b : Reg) (ta : Bool) (tb : Bool) : Statement (.sub d a b ta tb) := fun _ h =>
  wide rfl rfl rfl ((major_decodeAluR _).trans (by simp only [decodeAluR, bitsAt_head, bitsAt_tail, checked_wf h, Nat.le_refl, Nat.reduceLeDiff, Nat.reduceSub, Nat.reducePow, Nat.reduceMod, finAt, bitAt, lt_of_fin d 32 (by decide), lt_of_fin a 32 (by decide), lt_of_fin b 32 (by decide), bool_mod, bool_eq]))
theorem and (d : Reg) (a : Reg) (b : Reg) (ta : Bool) (tb : Bool) : Statement (.and d a b ta tb) := fun _ h =>
  wide rfl rfl rfl ((major_decodeAluR _).trans (by simp only [decodeAluR, bitsAt_head, bitsAt_tail, checked_wf h, Nat.le_refl, Nat.reduceLeDiff, Nat.reduceSub, Nat.reducePow, Nat.reduceMod, finAt, bitAt, lt_of_fin d 32 (by decide), lt_of_fin a 32 (by decide), lt_of_fin b 32 (by decide), bool_mod, bool_eq]))
theorem or (d : Reg) (a : Reg) (b : Reg) (ta : Bool) (tb : Bool) : Statement (.or d a b ta tb) := fun _ h =>
  wide rfl rfl rfl ((major_decodeAluR _).trans (by simp only [decodeAluR, bitsAt_head, bitsAt_tail, checked_wf h, Nat.le_refl, Nat.reduceLeDiff, Nat.reduceSub, Nat.reducePow, Nat.reduceMod, finAt, bitAt, lt_of_fin d 32 (by decide), lt_of_fin a 32 (by decide), lt_of_fin b 32 (by decide), bool_mod, bool_eq]))
theorem xor (d : Reg) (a : Reg) (b : Reg) (ta : Bool) (tb : Bool) : Statement (.xor d a b ta tb) := fun _ h =>
  wide rfl rfl rfl ((major_decodeAluR _).trans (by simp only [decodeAluR, bitsAt_head, bitsAt_tail, checked_wf h, Nat.le_refl, Nat.reduceLeDiff, Nat.reduceSub, Nat.reducePow, Nat.reduceMod, finAt, bitAt, lt_of_fin d 32 (by decide), lt_of_fin a 32 (by decide), lt_of_fin b 32 (by decide), bool_mod, bool_eq]))
theorem sll (d : Reg) (a : Reg) (b : Reg) (ta : Bool) (tb : Bool) : Statement (.sll d a b ta tb) := fun _ h =>
  wide rfl rfl rfl ((major_decodeAluR _).trans (by simp only [decodeAluR, bitsAt_head, bitsAt_tail, checked_wf h, Nat.le_refl, Nat.reduceLeDiff, Nat.reduceSub, Nat.reducePow, Nat.reduceMod, finAt, bitAt, lt_of_fin d 32 (by decide), lt_of_fin a 32 (by decide), lt_of_fin b 32 (by decide), bool_mod, bool_eq]))
theorem srl (d : Reg) (a : Reg) (b : Reg) (ta : Bool) (tb : Bool) : Statement (.srl d a b ta tb) := fun _ h =>
  wide rfl rfl rfl ((major_decodeAluR _).trans (by simp only [decodeAluR, bitsAt_head, bitsAt_tail, checked_wf h, Nat.le_refl, Nat.reduceLeDiff, Nat.reduceSub, Nat.reducePow, Nat.reduceMod, finAt, bitAt, lt_of_fin d 32 (by decide), lt_of_fin a 32 (by decide), lt_of_fin b 32 (by decide), bool_mod, bool_eq]))
theorem sra (d : Reg) (a : Reg) (b : Reg) (ta : Bool) (tb : Bool) : Statement (.sra d a b ta tb) := fun _ h =>
  wide rfl rfl rfl ((major_decodeAluR _).trans (by simp only [decodeAluR, bitsAt_head, bitsAt_tail, checked_wf h, Nat.le_refl, Nat.reduceLeDiff, Nat.reduceSub, Nat.reducePow, Nat.reduceMod, finAt, bitAt, lt_of_fin d 32 (by decide), lt_of_fin a 32 (by decide), lt_of_fin b 32 (by decide), bool_mod, bool_eq]))
theorem rot (d : Reg) (a : Reg) (b : Reg) (ta : Bool) (tb : Bool) : Statement (.rot d a b ta tb) := fun _ h =>
  wide rfl rfl rfl ((major_decodeAluR _).trans (by simp only [decodeAluR, bitsAt_head, bitsAt_tail, checked_wf h, Nat.le_refl, Nat.reduceLeDiff, Nat.reduceSub, Nat.reducePow, Nat.reduceMod, finAt, bitAt, lt_of_fin d 32 (by decide), lt_of_fin a 32 (by decide), lt_of_fin b 32 (by decide), bool_mod, bool_eq]))
theorem min (d : Reg) (a : Reg) (b : Reg) (ta : Bool) (tb : Bool) : Statement (.min d a b ta tb) := fun _ h =>
  wide rfl rfl rfl ((major_decodeAluR _).trans (by simp only [decodeAluR, bitsAt_head, bitsAt_tail, checked_wf h, Nat.le_refl, Nat.reduceLeDiff, Nat.reduceSub, Nat.reducePow, Nat.reduceMod, finAt, bitAt, lt_of_fin d 32 (by decide), lt_of_fin a 32 (by decide), lt_of_fin b 32 (by decide), bool_mod, bool_eq]))
theorem max (d : Reg) (a : Reg) (b : Reg) (ta : Bool) (tb : Bool) : Statement (.max d a b ta tb) := fun _ h =>
  wide rfl rfl rfl ((major_decodeAluR _).trans (by simp only [decodeAluR, bitsAt_head, bitsAt_tail, checked_wf h, Nat.le_refl, Nat.reduceLeDiff, Nat.reduceSub, Nat.reducePow, Nat.reduceMod, finAt, bitAt, lt_of_fin d 32 (by decide), lt_of_fin a 32 (by decide), lt_of_fin b 32 (by decide), bool_mod, bool_eq]))
theorem minu (d : Reg) (a : Reg) (b : Reg) (ta : Bool) (tb : Bool) : Statement (.minu d a b ta tb) := fun _ h =>
  wide rfl rfl rfl ((major_decodeAluR _).trans (by simp only [decodeAluR, bitsAt_head, bitsAt_tail, checked_wf h, Nat.le_refl, Nat.reduceLeDiff, Nat.reduceSub, Nat.reducePow, Nat.reduceMod, finAt, bitAt, lt_of_fin d 32 (by decide), lt_of_fin a 32 (by decide), lt_of_fin b 32 (by decide), bool_mod, bool_eq]))
theorem maxu (d : Reg) (a : Reg) (b : Reg) (ta : Bool) (tb : Bool) : Statement (.maxu d a b ta tb) := fun _ h =>
  wide rfl rfl rfl ((major_decodeAluR _).trans (by simp only [decodeAluR, bitsAt_head, bitsAt_tail, checked_wf h, Nat.le_refl, Nat.reduceLeDiff, Nat.reduceSub, Nat.reducePow, Nat.reduceMod, finAt, bitAt, lt_of_fin d 32 (by decide), lt_of_fin a 32 (by decide), lt_of_fin b 32 (by decide), bool_mod, bool_eq]))
theorem slt (d : Reg) (a : Reg) (b : Reg) (ta : Bool) (tb : Bool) : Statement (.slt d a b ta tb) := fun _ h =>
  wide rfl rfl rfl ((major_decodeAluR _).trans (by simp only [decodeAluR, bitsAt_head, bitsAt_tail, checked_wf h, Nat.le_refl, Nat.reduceLeDiff, Nat.reduceSub, Nat.reducePow, Nat.reduceMod, finAt, bitAt, lt_of_fin d 32 (by decide), lt_of_fin a 32 (by decide), lt_of_fin b 32 (by decide), bool_mod, bool_eq]))
theorem sltu (d : Reg) (a : Reg) (b : Reg) (ta : Bool) (tb : Bool) : Statement (.sltu d a b ta tb) := fun _ h =>
  wide rfl rfl rfl ((major_decodeAluR _).trans (by simp only [decodeAluR, bitsAt_head, bitsAt_tail, checked_wf h, Nat.le_refl, Nat.reduceLeDiff, Nat.reduceSub, Nat.reducePow, Nat.reduceMod, finAt, bitAt, lt_of_fin d 32 (by decide), lt_of_fin a 32 (by decide), lt_of_fin b 32 (by decide), bool_mod, bool_eq]))
theorem seq (d : Reg) (a : Reg) (b : Reg) (ta : Bool) (tb : Bool) : Statement (.seq d a b ta tb) := fun _ h =>
  wide rfl rfl rfl ((major_decodeAluR _).trans (by simp only [decodeAluR, bitsAt_head, bitsAt_tail, checked_wf h, Nat.le_refl, Nat.reduceLeDiff, Nat.reduceSub, Nat.reducePow, Nat.reduceMod, finAt, bitAt, lt_of_fin d 32 (by decide), lt_of_fin a 32 (by decide), lt_of_fin b 32 (by decide), bool_mod, bool_eq]))
theorem sel (d : Reg) (a : Reg) (b : Reg) (ta : Bool) (tb : Bool) : Statement (.sel d a b ta tb) := fun _ h =>
  wide rfl rfl rfl ((major_decodeAluR _).trans (by simp only [decodeAluR, bitsAt_head, bitsAt_tail, checked_wf h, Nat.le_refl, Nat.reduceLeDiff, Nat.reduceSub, Nat.reducePow, Nat.reduceMod, finAt, bitAt, lt_of_fin d 32 (by decide), lt_of_fin a 32 (by decide), lt_of_fin b 32 (by decide), bool_mod, bool_eq]))
theorem extSB (d : Reg) (a : Reg) (ta : Bool) (tb : Bool) : Statement (.extSB d a ta tb) := fun _ h =>
  wide rfl rfl rfl ((major_decodeAluR _).trans (by simp only [decodeAluR, bitsAt_head, bitsAt_tail, checked_wf h, Nat.le_refl, Nat.reduceLeDiff, Nat.reduceSub, Nat.reducePow, Nat.reduceMod, reduceIte, finAt, bitAt, lt_of_fin d 32 (by decide), lt_of_fin a 32 (by decide), bool_mod, bool_eq]))
theorem extSH (d : Reg) (a : Reg) (ta : Bool) (tb : Bool) : Statement (.extSH d a ta tb) := fun _ h =>
  wide rfl rfl rfl ((major_decodeAluR _).trans (by simp only [decodeAluR, bitsAt_head, bitsAt_tail, checked_wf h, Nat.le_refl, Nat.reduceLeDiff, Nat.reduceSub, Nat.reducePow, Nat.reduceMod, reduceIte, finAt, bitAt, lt_of_fin d 32 (by decide), lt_of_fin a 32 (by decide), bool_mod, bool_eq]))
theorem extSW (d : Reg) (a : Reg) (ta : Bool) (tb : Bool) : Statement (.extSW d a ta tb) := fun _ h =>
  wide rfl rfl rfl ((major_decodeAluR _).trans (by simp only [decodeAluR, bitsAt_head, bitsAt_tail, checked_wf h, Nat.le_refl, Nat.reduceLeDiff, Nat.reduceSub, Nat.reducePow, Nat.reduceMod, reduceIte, finAt, bitAt, lt_of_fin d 32 (by decide), lt_of_fin a 32 (by decide), bool_mod, bool_eq]))
theorem extZB (d : Reg) (a : Reg) (ta : Bool) (tb : Bool) : Statement (.extZB d a ta tb) := fun _ h =>
  wide rfl rfl rfl ((major_decodeAluR _).trans (by simp only [decodeAluR, bitsAt_head, bitsAt_tail, checked_wf h, Nat.le_refl, Nat.reduceLeDiff, Nat.reduceSub, Nat.reducePow, Nat.reduceMod, reduceIte, finAt, bitAt, lt_of_fin d 32 (by decide), lt_of_fin a 32 (by decide), bool_mod, bool_eq]))
theorem extZH (d : Reg) (a : Reg) (ta : Bool) (tb : Bool) : Statement (.extZH d a ta tb) := fun _ h =>
  wide rfl rfl rfl ((major_decodeAluR _).trans (by simp only [decodeAluR, bitsAt_head, bitsAt_tail, checked_wf h, Nat.le_refl, Nat.reduceLeDiff, Nat.reduceSub, Nat.reducePow, Nat.reduceMod, reduceIte, finAt, bitAt, lt_of_fin d 32 (by decide), lt_of_fin a 32 (by decide), bool_mod, bool_eq]))
theorem extZW (d : Reg) (a : Reg) (ta : Bool) (tb : Bool) : Statement (.extZW d a ta tb) := fun _ h =>
  wide rfl rfl rfl ((major_decodeAluR _).trans (by simp only [decodeAluR, bitsAt_head, bitsAt_tail, checked_wf h, Nat.le_refl, Nat.reduceLeDiff, Nat.reduceSub, Nat.reducePow, Nat.reduceMod, reduceIte, finAt, bitAt, lt_of_fin d 32 (by decide), lt_of_fin a 32 (by decide), bool_mod, bool_eq]))
theorem addi (d : Reg) (a : Reg) (imm : BitVec 14) (ta : Bool) : Statement (.addi d a imm ta) := fun _ h =>
  wide rfl rfl rfl ((major_decodeAddi _).trans (by simp only [decodeAddi, bitsAt_head, bitsAt_tail, checked_wf h, Nat.le_refl, Nat.reduceLeDiff, Nat.reduceSub, Nat.reducePow, finAt, bvAt, bitAt, lt_of_fin d 32 (by decide), lt_of_fin a 32 (by decide), Nat.mod_eq_of_lt imm.isLt, bool_mod, bool_eq, bv_of]))
theorem andi (d : Reg) (a : Reg) (imm : BitVec 14) (ta : Bool) : Statement (.andi d a imm ta) := fun _ h =>
  wide rfl rfl rfl ((major_decodeAndi _).trans (by simp only [decodeAndi, bitsAt_head, bitsAt_tail, checked_wf h, Nat.le_refl, Nat.reduceLeDiff, Nat.reduceSub, Nat.reducePow, finAt, bvAt, bitAt, lt_of_fin d 32 (by decide), lt_of_fin a 32 (by decide), Nat.mod_eq_of_lt imm.isLt, bool_mod, bool_eq, bv_of]))
theorem ori (d : Reg) (a : Reg) (imm : BitVec 14) (ta : Bool) : Statement (.ori d a imm ta) := fun _ h =>
  wide rfl rfl rfl ((major_decodeOri _).trans (by simp only [decodeOri, bitsAt_head, bitsAt_tail, checked_wf h, Nat.le_refl, Nat.reduceLeDiff, Nat.reduceSub, Nat.reducePow, finAt, bvAt, bitAt, lt_of_fin d 32 (by decide), lt_of_fin a 32 (by decide), Nat.mod_eq_of_lt imm.isLt, bool_mod, bool_eq, bv_of]))
theorem xori (d : Reg) (a : Reg) (imm : BitVec 14) (ta : Bool) : Statement (.xori d a imm ta) := fun _ h =>
  wide rfl rfl rfl ((major_decodeXori _).trans (by simp only [decodeXori, bitsAt_head, bitsAt_tail, checked_wf h, Nat.le_refl, Nat.reduceLeDiff, Nat.reduceSub, Nat.reducePow, finAt, bvAt, bitAt, lt_of_fin d 32 (by decide), lt_of_fin a 32 (by decide), Nat.mod_eq_of_lt imm.isLt, bool_mod, bool_eq, bv_of]))
theorem slti (d : Reg) (a : Reg) (imm : BitVec 14) (ta : Bool) : Statement (.slti d a imm ta) := fun _ h =>
  wide rfl rfl rfl ((major_decodeSlti _).trans (by simp only [decodeSlti, bitsAt_head, bitsAt_tail, checked_wf h, Nat.le_refl, Nat.reduceLeDiff, Nat.reduceSub, Nat.reducePow, finAt, bvAt, bitAt, lt_of_fin d 32 (by decide), lt_of_fin a 32 (by decide), Nat.mod_eq_of_lt imm.isLt, bool_mod, bool_eq, bv_of]))
theorem sltiu (d : Reg) (a : Reg) (imm : BitVec 14) (ta : Bool) : Statement (.sltiu d a imm ta) := fun _ h =>
  wide rfl rfl rfl ((major_decodeSltiu _).trans (by simp only [decodeSltiu, bitsAt_head, bitsAt_tail, checked_wf h, Nat.le_refl, Nat.reduceLeDiff, Nat.reduceSub, Nat.reducePow, finAt, bvAt, bitAt, lt_of_fin d 32 (by decide), lt_of_fin a 32 (by decide), Nat.mod_eq_of_lt imm.isLt, bool_mod, bool_eq, bv_of]))
theorem slli (d : Reg) (a : Reg) (n : BitVec 6) (ta : Bool) : Statement (.slli d a n ta) := fun _ h =>
  wide rfl rfl rfl ((major_decodeShiftImm _).trans (by simp only [decodeShiftImm, bitsAt_head, bitsAt_tail, checked_wf h, Nat.le_refl, Nat.reduceLeDiff, Nat.reduceSub, Nat.reducePow, Nat.reduceMod, finAt, bvAt, bitAt, lt_of_fin d 32 (by decide), lt_of_fin a 32 (by decide), Nat.mod_eq_of_lt n.isLt, bool_mod, bool_eq, bv_of]))
theorem srli (d : Reg) (a : Reg) (n : BitVec 6) (ta : Bool) : Statement (.srli d a n ta) := fun _ h =>
  wide rfl rfl rfl ((major_decodeShiftImm _).trans (by simp only [decodeShiftImm, bitsAt_head, bitsAt_tail, checked_wf h, Nat.le_refl, Nat.reduceLeDiff, Nat.reduceSub, Nat.reducePow, Nat.reduceMod, finAt, bvAt, bitAt, lt_of_fin d 32 (by decide), lt_of_fin a 32 (by decide), Nat.mod_eq_of_lt n.isLt, bool_mod, bool_eq, bv_of]))
theorem srai (d : Reg) (a : Reg) (n : BitVec 6) (ta : Bool) : Statement (.srai d a n ta) := fun _ h =>
  wide rfl rfl rfl ((major_decodeShiftImm _).trans (by simp only [decodeShiftImm, bitsAt_head, bitsAt_tail, checked_wf h, Nat.le_refl, Nat.reduceLeDiff, Nat.reduceSub, Nat.reducePow, Nat.reduceMod, finAt, bvAt, bitAt, lt_of_fin d 32 (by decide), lt_of_fin a 32 (by decide), Nat.mod_eq_of_lt n.isLt, bool_mod, bool_eq, bv_of]))
theorem roti (d : Reg) (a : Reg) (n : BitVec 6) (ta : Bool) : Statement (.roti d a n ta) := fun _ h =>
  wide rfl rfl rfl ((major_decodeShiftImm _).trans (by simp only [decodeShiftImm, bitsAt_head, bitsAt_tail, checked_wf h, Nat.le_refl, Nat.reduceLeDiff, Nat.reduceSub, Nat.reducePow, Nat.reduceMod, finAt, bvAt, bitAt, lt_of_fin d 32 (by decide), lt_of_fin a 32 (by decide), Nat.mod_eq_of_lt n.isLt, bool_mod, bool_eq, bv_of]))
theorem lui (d : Reg) (imm : BitVec 20) : Statement (.lui d imm) := fun _ h =>
  wide rfl rfl rfl ((major_decodeLui _).trans (by simp only [decodeLui, bitsAt_head, bitsAt_tail, checked_wf h, Nat.le_refl, Nat.reduceLeDiff, Nat.reduceSub, Nat.reducePow, finAt, bvAt, lt_of_fin d 32 (by decide), Nat.mod_eq_of_lt imm.isLt, bv_of]))
theorem addpc (d : Reg) (imm : BitVec 20) : Statement (.addpc d imm) := fun _ h =>
  wide rfl rfl rfl ((major_decodeAddpc _).trans (by simp only [decodeAddpc, bitsAt_head, bitsAt_tail, checked_wf h, Nat.le_refl, Nat.reduceLeDiff, Nat.reduceSub, Nat.reducePow, finAt, bvAt, lt_of_fin d 32 (by decide), Nat.mod_eq_of_lt imm.isLt, bv_of]))
theorem mul (d : Reg) (a : Reg) (b : Reg) (ta : Bool) (tb : Bool) : Statement (.mul d a b ta tb) := fun _ h =>
  wide rfl rfl rfl ((major_decodeMulDiv _).trans (by simp only [decodeMulDiv, bitsAt_head, bitsAt_tail, checked_wf h, Nat.le_refl, Nat.reduceLeDiff, Nat.reduceSub, Nat.reducePow, Nat.reduceMod, finAt, bitAt, lt_of_fin d 32 (by decide), lt_of_fin a 32 (by decide), lt_of_fin b 32 (by decide), bool_mod, bool_eq]))
theorem mulh (d : Reg) (a : Reg) (b : Reg) (ta : Bool) (tb : Bool) : Statement (.mulh d a b ta tb) := fun _ h =>
  wide rfl rfl rfl ((major_decodeMulDiv _).trans (by simp only [decodeMulDiv, bitsAt_head, bitsAt_tail, checked_wf h, Nat.le_refl, Nat.reduceLeDiff, Nat.reduceSub, Nat.reducePow, Nat.reduceMod, finAt, bitAt, lt_of_fin d 32 (by decide), lt_of_fin a 32 (by decide), lt_of_fin b 32 (by decide), bool_mod, bool_eq]))
theorem mulhu (d : Reg) (a : Reg) (b : Reg) (ta : Bool) (tb : Bool) : Statement (.mulhu d a b ta tb) := fun _ h =>
  wide rfl rfl rfl ((major_decodeMulDiv _).trans (by simp only [decodeMulDiv, bitsAt_head, bitsAt_tail, checked_wf h, Nat.le_refl, Nat.reduceLeDiff, Nat.reduceSub, Nat.reducePow, Nat.reduceMod, finAt, bitAt, lt_of_fin d 32 (by decide), lt_of_fin a 32 (by decide), lt_of_fin b 32 (by decide), bool_mod, bool_eq]))
theorem div (d : Reg) (a : Reg) (b : Reg) (ta : Bool) (tb : Bool) : Statement (.div d a b ta tb) := fun _ h =>
  wide rfl rfl rfl ((major_decodeMulDiv _).trans (by simp only [decodeMulDiv, bitsAt_head, bitsAt_tail, checked_wf h, Nat.le_refl, Nat.reduceLeDiff, Nat.reduceSub, Nat.reducePow, Nat.reduceMod, finAt, bitAt, lt_of_fin d 32 (by decide), lt_of_fin a 32 (by decide), lt_of_fin b 32 (by decide), bool_mod, bool_eq]))
theorem divu (d : Reg) (a : Reg) (b : Reg) (ta : Bool) (tb : Bool) : Statement (.divu d a b ta tb) := fun _ h =>
  wide rfl rfl rfl ((major_decodeMulDiv _).trans (by simp only [decodeMulDiv, bitsAt_head, bitsAt_tail, checked_wf h, Nat.le_refl, Nat.reduceLeDiff, Nat.reduceSub, Nat.reducePow, Nat.reduceMod, finAt, bitAt, lt_of_fin d 32 (by decide), lt_of_fin a 32 (by decide), lt_of_fin b 32 (by decide), bool_mod, bool_eq]))
theorem rem (d : Reg) (a : Reg) (b : Reg) (ta : Bool) (tb : Bool) : Statement (.rem d a b ta tb) := fun _ h =>
  wide rfl rfl rfl ((major_decodeMulDiv _).trans (by simp only [decodeMulDiv, bitsAt_head, bitsAt_tail, checked_wf h, Nat.le_refl, Nat.reduceLeDiff, Nat.reduceSub, Nat.reducePow, Nat.reduceMod, finAt, bitAt, lt_of_fin d 32 (by decide), lt_of_fin a 32 (by decide), lt_of_fin b 32 (by decide), bool_mod, bool_eq]))
theorem remu (d : Reg) (a : Reg) (b : Reg) (ta : Bool) (tb : Bool) : Statement (.remu d a b ta tb) := fun _ h =>
  wide rfl rfl rfl ((major_decodeMulDiv _).trans (by simp only [decodeMulDiv, bitsAt_head, bitsAt_tail, checked_wf h, Nat.le_refl, Nat.reduceLeDiff, Nat.reduceSub, Nat.reducePow, Nat.reduceMod, finAt, bitAt, lt_of_fin d 32 (by decide), lt_of_fin a 32 (by decide), lt_of_fin b 32 (by decide), bool_mod, bool_eq]))
theorem padd (d : Reg) (a : Reg) (b : Reg) (w : PWidth) (ta : Bool) (tb : Bool) : Statement (.padd d a b w ta tb) := fun _ h =>
  wide rfl rfl rfl ((major_decodePsimd _).trans (by simp only [decodePsimd, bitsAt_head, bitsAt_tail, checked_wf h, Nat.le_refl, Nat.reduceLeDiff, Nat.reduceSub, Nat.reducePow, Nat.reduceMod, finAt, bitAt, withField_some, lt_of_fin d 32 (by decide), lt_of_fin a 32 (by decide), lt_of_fin b 32 (by decide), bool_mod, bool_eq, pwidth_mod, pwidth_code]))
theorem paddSs (d : Reg) (a : Reg) (b : Reg) (w : PWidth) (ta : Bool) (tb : Bool) : Statement (.paddSs d a b w ta tb) := fun _ h =>
  wide rfl rfl rfl ((major_decodePsimd _).trans (by simp only [decodePsimd, bitsAt_head, bitsAt_tail, checked_wf h, Nat.le_refl, Nat.reduceLeDiff, Nat.reduceSub, Nat.reducePow, Nat.reduceMod, finAt, bitAt, withField_some, lt_of_fin d 32 (by decide), lt_of_fin a 32 (by decide), lt_of_fin b 32 (by decide), bool_mod, bool_eq, pwidth_mod, pwidth_code]))
theorem paddUs (d : Reg) (a : Reg) (b : Reg) (w : PWidth) (ta : Bool) (tb : Bool) : Statement (.paddUs d a b w ta tb) := fun _ h =>
  wide rfl rfl rfl ((major_decodePsimd _).trans (by simp only [decodePsimd, bitsAt_head, bitsAt_tail, checked_wf h, Nat.le_refl, Nat.reduceLeDiff, Nat.reduceSub, Nat.reducePow, Nat.reduceMod, finAt, bitAt, withField_some, lt_of_fin d 32 (by decide), lt_of_fin a 32 (by decide), lt_of_fin b 32 (by decide), bool_mod, bool_eq, pwidth_mod, pwidth_code]))
theorem psub (d : Reg) (a : Reg) (b : Reg) (w : PWidth) (ta : Bool) (tb : Bool) : Statement (.psub d a b w ta tb) := fun _ h =>
  wide rfl rfl rfl ((major_decodePsimd _).trans (by simp only [decodePsimd, bitsAt_head, bitsAt_tail, checked_wf h, Nat.le_refl, Nat.reduceLeDiff, Nat.reduceSub, Nat.reducePow, Nat.reduceMod, finAt, bitAt, withField_some, lt_of_fin d 32 (by decide), lt_of_fin a 32 (by decide), lt_of_fin b 32 (by decide), bool_mod, bool_eq, pwidth_mod, pwidth_code]))
theorem psubSs (d : Reg) (a : Reg) (b : Reg) (w : PWidth) (ta : Bool) (tb : Bool) : Statement (.psubSs d a b w ta tb) := fun _ h =>
  wide rfl rfl rfl ((major_decodePsimd _).trans (by simp only [decodePsimd, bitsAt_head, bitsAt_tail, checked_wf h, Nat.le_refl, Nat.reduceLeDiff, Nat.reduceSub, Nat.reducePow, Nat.reduceMod, finAt, bitAt, withField_some, lt_of_fin d 32 (by decide), lt_of_fin a 32 (by decide), lt_of_fin b 32 (by decide), bool_mod, bool_eq, pwidth_mod, pwidth_code]))
theorem psubUs (d : Reg) (a : Reg) (b : Reg) (w : PWidth) (ta : Bool) (tb : Bool) : Statement (.psubUs d a b w ta tb) := fun _ h =>
  wide rfl rfl rfl ((major_decodePsimd _).trans (by simp only [decodePsimd, bitsAt_head, bitsAt_tail, checked_wf h, Nat.le_refl, Nat.reduceLeDiff, Nat.reduceSub, Nat.reducePow, Nat.reduceMod, finAt, bitAt, withField_some, lt_of_fin d 32 (by decide), lt_of_fin a 32 (by decide), lt_of_fin b 32 (by decide), bool_mod, bool_eq, pwidth_mod, pwidth_code]))
theorem pmul (d : Reg) (a : Reg) (b : Reg) (w : PWidth) (ta : Bool) (tb : Bool) : Statement (.pmul d a b w ta tb) := fun _ h =>
  wide rfl rfl rfl ((major_decodePsimd _).trans (by simp only [decodePsimd, bitsAt_head, bitsAt_tail, checked_wf h, Nat.le_refl, Nat.reduceLeDiff, Nat.reduceSub, Nat.reducePow, Nat.reduceMod, finAt, bitAt, withField_some, lt_of_fin d 32 (by decide), lt_of_fin a 32 (by decide), lt_of_fin b 32 (by decide), bool_mod, bool_eq, pwidth_mod, pwidth_code]))
theorem pmulSs (d : Reg) (a : Reg) (b : Reg) (w : PWidth) (ta : Bool) (tb : Bool) : Statement (.pmulSs d a b w ta tb) := fun _ h =>
  wide rfl rfl rfl ((major_decodePsimd _).trans (by simp only [decodePsimd, bitsAt_head, bitsAt_tail, checked_wf h, Nat.le_refl, Nat.reduceLeDiff, Nat.reduceSub, Nat.reducePow, Nat.reduceMod, finAt, bitAt, withField_some, lt_of_fin d 32 (by decide), lt_of_fin a 32 (by decide), lt_of_fin b 32 (by decide), bool_mod, bool_eq, pwidth_mod, pwidth_code]))
theorem pmin (d : Reg) (a : Reg) (b : Reg) (w : PWidth) (ta : Bool) (tb : Bool) : Statement (.pmin d a b w ta tb) := fun _ h =>
  wide rfl rfl rfl ((major_decodePsimd _).trans (by simp only [decodePsimd, bitsAt_head, bitsAt_tail, checked_wf h, Nat.le_refl, Nat.reduceLeDiff, Nat.reduceSub, Nat.reducePow, Nat.reduceMod, finAt, bitAt, withField_some, lt_of_fin d 32 (by decide), lt_of_fin a 32 (by decide), lt_of_fin b 32 (by decide), bool_mod, bool_eq, pwidth_mod, pwidth_code]))
theorem pminU (d : Reg) (a : Reg) (b : Reg) (w : PWidth) (ta : Bool) (tb : Bool) : Statement (.pminU d a b w ta tb) := fun _ h =>
  wide rfl rfl rfl ((major_decodePsimd _).trans (by simp only [decodePsimd, bitsAt_head, bitsAt_tail, checked_wf h, Nat.le_refl, Nat.reduceLeDiff, Nat.reduceSub, Nat.reducePow, Nat.reduceMod, finAt, bitAt, withField_some, lt_of_fin d 32 (by decide), lt_of_fin a 32 (by decide), lt_of_fin b 32 (by decide), bool_mod, bool_eq, pwidth_mod, pwidth_code]))
theorem pmax (d : Reg) (a : Reg) (b : Reg) (w : PWidth) (ta : Bool) (tb : Bool) : Statement (.pmax d a b w ta tb) := fun _ h =>
  wide rfl rfl rfl ((major_decodePsimd _).trans (by simp only [decodePsimd, bitsAt_head, bitsAt_tail, checked_wf h, Nat.le_refl, Nat.reduceLeDiff, Nat.reduceSub, Nat.reducePow, Nat.reduceMod, finAt, bitAt, withField_some, lt_of_fin d 32 (by decide), lt_of_fin a 32 (by decide), lt_of_fin b 32 (by decide), bool_mod, bool_eq, pwidth_mod, pwidth_code]))
theorem pmaxU (d : Reg) (a : Reg) (b : Reg) (w : PWidth) (ta : Bool) (tb : Bool) : Statement (.pmaxU d a b w ta tb) := fun _ h =>
  wide rfl rfl rfl ((major_decodePsimd _).trans (by simp only [decodePsimd, bitsAt_head, bitsAt_tail, checked_wf h, Nat.le_refl, Nat.reduceLeDiff, Nat.reduceSub, Nat.reducePow, Nat.reduceMod, finAt, bitAt, withField_some, lt_of_fin d 32 (by decide), lt_of_fin a 32 (by decide), lt_of_fin b 32 (by decide), bool_mod, bool_eq, pwidth_mod, pwidth_code]))
theorem pshLl (d : Reg) (a : Reg) (b : Reg) (w : PWidth) (ta : Bool) (tb : Bool) : Statement (.pshLl d a b w ta tb) := fun _ h =>
  wide rfl rfl rfl ((major_decodePsimd _).trans (by simp only [decodePsimd, bitsAt_head, bitsAt_tail, checked_wf h, Nat.le_refl, Nat.reduceLeDiff, Nat.reduceSub, Nat.reducePow, Nat.reduceMod, finAt, bitAt, withField_some, lt_of_fin d 32 (by decide), lt_of_fin a 32 (by decide), lt_of_fin b 32 (by decide), bool_mod, bool_eq, pwidth_mod, pwidth_code]))
theorem pshRl (d : Reg) (a : Reg) (b : Reg) (w : PWidth) (ta : Bool) (tb : Bool) : Statement (.pshRl d a b w ta tb) := fun _ h =>
  wide rfl rfl rfl ((major_decodePsimd _).trans (by simp only [decodePsimd, bitsAt_head, bitsAt_tail, checked_wf h, Nat.le_refl, Nat.reduceLeDiff, Nat.reduceSub, Nat.reducePow, Nat.reduceMod, finAt, bitAt, withField_some, lt_of_fin d 32 (by decide), lt_of_fin a 32 (by decide), lt_of_fin b 32 (by decide), bool_mod, bool_eq, pwidth_mod, pwidth_code]))
theorem pshRa (d : Reg) (a : Reg) (b : Reg) (w : PWidth) (ta : Bool) (tb : Bool) : Statement (.pshRa d a b w ta tb) := fun _ h =>
  wide rfl rfl rfl ((major_decodePsimd _).trans (by simp only [decodePsimd, bitsAt_head, bitsAt_tail, checked_wf h, Nat.le_refl, Nat.reduceLeDiff, Nat.reduceSub, Nat.reducePow, Nat.reduceMod, finAt, bitAt, withField_some, lt_of_fin d 32 (by decide), lt_of_fin a 32 (by decide), lt_of_fin b 32 (by decide), bool_mod, bool_eq, pwidth_mod, pwidth_code]))
theorem pcmpEq (d : Reg) (a : Reg) (b : Reg) (w : PWidth) (ta : Bool) (tb : Bool) : Statement (.pcmpEq d a b w ta tb) := fun _ h =>
  wide rfl rfl rfl ((major_decodePsimd _).trans (by simp only [decodePsimd, bitsAt_head, bitsAt_tail, checked_wf h, Nat.le_refl, Nat.reduceLeDiff, Nat.reduceSub, Nat.reducePow, Nat.reduceMod, finAt, bitAt, withField_some, lt_of_fin d 32 (by decide), lt_of_fin a 32 (by decide), lt_of_fin b 32 (by decide), bool_mod, bool_eq, pwidth_mod, pwidth_code]))
theorem pcmpLt (d : Reg) (a : Reg) (b : Reg) (w : PWidth) (ta : Bool) (tb : Bool) : Statement (.pcmpLt d a b w ta tb) := fun _ h =>
  wide rfl rfl rfl ((major_decodePsimd _).trans (by simp only [decodePsimd, bitsAt_head, bitsAt_tail, checked_wf h, Nat.le_refl, Nat.reduceLeDiff, Nat.reduceSub, Nat.reducePow, Nat.reduceMod, finAt, bitAt, withField_some, lt_of_fin d 32 (by decide), lt_of_fin a 32 (by decide), lt_of_fin b 32 (by decide), bool_mod, bool_eq, pwidth_mod, pwidth_code]))
theorem pcmpLtu (d : Reg) (a : Reg) (b : Reg) (w : PWidth) (ta : Bool) (tb : Bool) : Statement (.pcmpLtu d a b w ta tb) := fun _ h =>
  wide rfl rfl rfl ((major_decodePsimd _).trans (by simp only [decodePsimd, bitsAt_head, bitsAt_tail, checked_wf h, Nat.le_refl, Nat.reduceLeDiff, Nat.reduceSub, Nat.reducePow, Nat.reduceMod, finAt, bitAt, withField_some, lt_of_fin d 32 (by decide), lt_of_fin a 32 (by decide), lt_of_fin b 32 (by decide), bool_mod, bool_eq, pwidth_mod, pwidth_code]))
theorem pabsd (d : Reg) (a : Reg) (b : Reg) (w : PWidth) (ta : Bool) (tb : Bool) : Statement (.pabsd d a b w ta tb) := fun _ h =>
  wide rfl rfl rfl ((major_decodePsimd _).trans (by simp only [decodePsimd, bitsAt_head, bitsAt_tail, checked_wf h, Nat.le_refl, Nat.reduceLeDiff, Nat.reduceSub, Nat.reducePow, Nat.reduceMod, finAt, bitAt, withField_some, lt_of_fin d 32 (by decide), lt_of_fin a 32 (by decide), lt_of_fin b 32 (by decide), bool_mod, bool_eq, pwidth_mod, pwidth_code]))
theorem ppack (d : Reg) (a : Reg) (b : Reg) (w : PWidth) (ta : Bool) (tb : Bool) : Statement (.ppack d a b w ta tb) := fun _ h =>
  wide rfl rfl rfl ((major_decodePsimd _).trans (by simp only [decodePsimd, bitsAt_head, bitsAt_tail, checked_wf h, Nat.le_refl, Nat.reduceLeDiff, Nat.reduceSub, Nat.reducePow, Nat.reduceMod, finAt, bitAt, withField_some, lt_of_fin d 32 (by decide), lt_of_fin a 32 (by decide), lt_of_fin b 32 (by decide), bool_mod, bool_eq, pwidth_mod, pwidth_code]))
theorem ppackSs (d : Reg) (a : Reg) (b : Reg) (w : PWidth) (ta : Bool) (tb : Bool) : Statement (.ppackSs d a b w ta tb) := fun _ h =>
  wide rfl rfl rfl ((major_decodePsimd _).trans (by simp only [decodePsimd, bitsAt_head, bitsAt_tail, checked_wf h, Nat.le_refl, Nat.reduceLeDiff, Nat.reduceSub, Nat.reducePow, Nat.reduceMod, finAt, bitAt, withField_some, lt_of_fin d 32 (by decide), lt_of_fin a 32 (by decide), lt_of_fin b 32 (by decide), bool_mod, bool_eq, pwidth_mod, pwidth_code]))
theorem ppackUs (d : Reg) (a : Reg) (b : Reg) (w : PWidth) (ta : Bool) (tb : Bool) : Statement (.ppackUs d a b w ta tb) := fun _ h =>
  wide rfl rfl rfl ((major_decodePsimd _).trans (by simp only [decodePsimd, bitsAt_head, bitsAt_tail, checked_wf h, Nat.le_refl, Nat.reduceLeDiff, Nat.reduceSub, Nat.reducePow, Nat.reduceMod, finAt, bitAt, withField_some, lt_of_fin d 32 (by decide), lt_of_fin a 32 (by decide), lt_of_fin b 32 (by decide), bool_mod, bool_eq, pwidth_mod, pwidth_code]))
theorem cmul (d : Reg) (a : Reg) (b : Reg) (ta : Bool) (tb : Bool) : Statement (.cmul d a b ta tb) := fun _ h =>
  wide rfl rfl rfl ((major_decodeCplx _).trans (by simp only [decodeCplx, bitsAt_head, bitsAt_tail, checked_wf h, Nat.le_refl, Nat.reduceLeDiff, Nat.reduceSub, Nat.reducePow, Nat.reduceMod, finAt, bitAt, lt_of_fin d 32 (by decide), lt_of_fin a 32 (by decide), lt_of_fin b 32 (by decide), bool_mod, bool_eq]))
theorem cmac (d : Reg) (a : Reg) (b : Reg) (ta : Bool) (tb : Bool) : Statement (.cmac d a b ta tb) := fun _ h =>
  wide rfl rfl rfl ((major_decodeCplx _).trans (by simp only [decodeCplx, bitsAt_head, bitsAt_tail, checked_wf h, Nat.le_refl, Nat.reduceLeDiff, Nat.reduceSub, Nat.reducePow, Nat.reduceMod, finAt, bitAt, lt_of_fin d 32 (by decide), lt_of_fin a 32 (by decide), lt_of_fin b 32 (by decide), bool_mod, bool_eq]))
theorem cmacj (d : Reg) (a : Reg) (b : Reg) (ta : Bool) (tb : Bool) : Statement (.cmacj d a b ta tb) := fun _ h =>
  wide rfl rfl rfl ((major_decodeCplx _).trans (by simp only [decodeCplx, bitsAt_head, bitsAt_tail, checked_wf h, Nat.le_refl, Nat.reduceLeDiff, Nat.reduceSub, Nat.reducePow, Nat.reduceMod, finAt, bitAt, lt_of_fin d 32 (by decide), lt_of_fin a 32 (by decide), lt_of_fin b 32 (by decide), bool_mod, bool_eq]))
theorem cabs2 (d : Reg) (a : Reg) (ta : Bool) (tb : Bool) : Statement (.cabs2 d a ta tb) := fun _ h =>
  wide rfl rfl rfl ((major_decodeCplx _).trans (by simp only [decodeCplx, bitsAt_head, bitsAt_tail, checked_wf h, Nat.le_refl, Nat.reduceLeDiff, Nat.reduceSub, Nat.reducePow, Nat.reduceMod, reduceIte, finAt, bitAt, lt_of_fin d 32 (by decide), lt_of_fin a 32 (by decide), bool_mod, bool_eq]))
theorem mulq (d : Reg) (a : Reg) (b : Reg) (ta : Bool) (tb : Bool) : Statement (.mulq d a b ta tb) := fun _ h =>
  wide rfl rfl rfl ((major_decodeCplx _).trans (by simp only [decodeCplx, bitsAt_head, bitsAt_tail, checked_wf h, Nat.le_refl, Nat.reduceLeDiff, Nat.reduceSub, Nat.reducePow, Nat.reduceMod, finAt, bitAt, lt_of_fin d 32 (by decide), lt_of_fin a 32 (by decide), lt_of_fin b 32 (by decide), bool_mod, bool_eq]))
theorem sat (d : Reg) (a : Reg) (n : BitVec 5) (ta : Bool) (tb : Bool) : Statement (.sat d a n ta tb) := fun _ h =>
  wide rfl rfl rfl ((major_decodeCplx _).trans (by simp only [decodeCplx, bitsAt_head, bitsAt_tail, checked_wf h, Nat.le_refl, Nat.reduceLeDiff, Nat.reduceSub, Nat.reducePow, Nat.reduceMod, finAt, bvAt, bitAt, lt_of_fin d 32 (by decide), lt_of_fin a 32 (by decide), Nat.mod_eq_of_lt n.isLt, bool_mod, bool_eq, bv_of]))
theorem satu (d : Reg) (a : Reg) (n : BitVec 5) (ta : Bool) (tb : Bool) : Statement (.satu d a n ta tb) := fun _ h =>
  wide rfl rfl rfl ((major_decodeCplx _).trans (by simp only [decodeCplx, bitsAt_head, bitsAt_tail, checked_wf h, Nat.le_refl, Nat.reduceLeDiff, Nat.reduceSub, Nat.reducePow, Nat.reduceMod, finAt, bvAt, bitAt, lt_of_fin d 32 (by decide), lt_of_fin a 32 (by decide), Nat.mod_eq_of_lt n.isLt, bool_mod, bool_eq, bv_of]))
theorem clz (d : Reg) (a : Reg) (ta : Bool) (tb : Bool) : Statement (.clz d a ta tb) := fun _ h =>
  wide rfl rfl rfl ((major_decodeBitf _).trans (by simp only [decodeBitf, bitsAt_head, bitsAt_tail, checked_wf h, Nat.le_refl, Nat.reduceLeDiff, Nat.reduceSub, Nat.reducePow, Nat.reduceMod, reduceIte, finAt, bitAt, lt_of_fin d 32 (by decide), lt_of_fin a 32 (by decide), bool_mod, bool_eq]))
theorem ctz (d : Reg) (a : Reg) (ta : Bool) (tb : Bool) : Statement (.ctz d a ta tb) := fun _ h =>
  wide rfl rfl rfl ((major_decodeBitf _).trans (by simp only [decodeBitf, bitsAt_head, bitsAt_tail, checked_wf h, Nat.le_refl, Nat.reduceLeDiff, Nat.reduceSub, Nat.reducePow, Nat.reduceMod, reduceIte, finAt, bitAt, lt_of_fin d 32 (by decide), lt_of_fin a 32 (by decide), bool_mod, bool_eq]))
theorem popc (d : Reg) (a : Reg) (ta : Bool) (tb : Bool) : Statement (.popc d a ta tb) := fun _ h =>
  wide rfl rfl rfl ((major_decodeBitf _).trans (by simp only [decodeBitf, bitsAt_head, bitsAt_tail, checked_wf h, Nat.le_refl, Nat.reduceLeDiff, Nat.reduceSub, Nat.reducePow, Nat.reduceMod, reduceIte, finAt, bitAt, lt_of_fin d 32 (by decide), lt_of_fin a 32 (by decide), bool_mod, bool_eq]))
theorem bswap (d : Reg) (a : Reg) (ta : Bool) (tb : Bool) : Statement (.bswap d a ta tb) := fun _ h =>
  wide rfl rfl rfl ((major_decodeBitf _).trans (by simp only [decodeBitf, bitsAt_head, bitsAt_tail, checked_wf h, Nat.le_refl, Nat.reduceLeDiff, Nat.reduceSub, Nat.reducePow, Nat.reduceMod, reduceIte, finAt, bitAt, lt_of_fin d 32 (by decide), lt_of_fin a 32 (by decide), bool_mod, bool_eq]))
theorem bext (d : Reg) (a : Reg) (b : Reg) (ta : Bool) (tb : Bool) : Statement (.bext d a b ta tb) := fun _ h =>
  wide rfl rfl rfl ((major_decodeBitf _).trans (by simp only [decodeBitf, bitsAt_head, bitsAt_tail, checked_wf h, Nat.le_refl, Nat.reduceLeDiff, Nat.reduceSub, Nat.reducePow, Nat.reduceMod, finAt, bitAt, lt_of_fin d 32 (by decide), lt_of_fin a 32 (by decide), lt_of_fin b 32 (by decide), bool_mod, bool_eq]))
theorem bextu (d : Reg) (a : Reg) (b : Reg) (ta : Bool) (tb : Bool) : Statement (.bextu d a b ta tb) := fun _ h =>
  wide rfl rfl rfl ((major_decodeBitf _).trans (by simp only [decodeBitf, bitsAt_head, bitsAt_tail, checked_wf h, Nat.le_refl, Nat.reduceLeDiff, Nat.reduceSub, Nat.reducePow, Nat.reduceMod, finAt, bitAt, lt_of_fin d 32 (by decide), lt_of_fin a 32 (by decide), lt_of_fin b 32 (by decide), bool_mod, bool_eq]))
theorem bins (d : Reg) (a : Reg) (b : Reg) (ta : Bool) (tb : Bool) : Statement (.bins d a b ta tb) := fun _ h =>
  wide rfl rfl rfl ((major_decodeBitf _).trans (by simp only [decodeBitf, bitsAt_head, bitsAt_tail, checked_wf h, Nat.le_refl, Nat.reduceLeDiff, Nat.reduceSub, Nat.reducePow, Nat.reduceMod, finAt, bitAt, lt_of_fin d 32 (by decide), lt_of_fin a 32 (by decide), lt_of_fin b 32 (by decide), bool_mod, bool_eq]))
theorem fadd (d : Reg) (a : Reg) (b : Reg) (f : FpFmt) (ta : Bool) (tb : Bool) : Statement (.fadd d a b f ta tb) := fun _ h =>
  wide rfl rfl rfl ((major_decodeFp _).trans (by simp only [decodeFp, bitsAt_head, bitsAt_tail, checked_wf h, Nat.le_refl, Nat.reduceLeDiff, Nat.reduceSub, Nat.reducePow, Nat.reduceMod, finAt, bitAt, withField_some, lt_of_fin d 32 (by decide), lt_of_fin a 32 (by decide), lt_of_fin b 32 (by decide), bool_mod, bool_eq, fpFmt_mod, fpFmt_code]))
theorem fsub (d : Reg) (a : Reg) (b : Reg) (f : FpFmt) (ta : Bool) (tb : Bool) : Statement (.fsub d a b f ta tb) := fun _ h =>
  wide rfl rfl rfl ((major_decodeFp _).trans (by simp only [decodeFp, bitsAt_head, bitsAt_tail, checked_wf h, Nat.le_refl, Nat.reduceLeDiff, Nat.reduceSub, Nat.reducePow, Nat.reduceMod, finAt, bitAt, withField_some, lt_of_fin d 32 (by decide), lt_of_fin a 32 (by decide), lt_of_fin b 32 (by decide), bool_mod, bool_eq, fpFmt_mod, fpFmt_code]))
theorem fmul (d : Reg) (a : Reg) (b : Reg) (f : FpFmt) (ta : Bool) (tb : Bool) : Statement (.fmul d a b f ta tb) := fun _ h =>
  wide rfl rfl rfl ((major_decodeFp _).trans (by simp only [decodeFp, bitsAt_head, bitsAt_tail, checked_wf h, Nat.le_refl, Nat.reduceLeDiff, Nat.reduceSub, Nat.reducePow, Nat.reduceMod, finAt, bitAt, withField_some, lt_of_fin d 32 (by decide), lt_of_fin a 32 (by decide), lt_of_fin b 32 (by decide), bool_mod, bool_eq, fpFmt_mod, fpFmt_code]))
theorem fma (d : Reg) (a : Reg) (b : Reg) (f : FpFmt) (ta : Bool) (tb : Bool) : Statement (.fma d a b f ta tb) := fun _ h =>
  wide rfl rfl rfl ((major_decodeFp _).trans (by simp only [decodeFp, bitsAt_head, bitsAt_tail, checked_wf h, Nat.le_refl, Nat.reduceLeDiff, Nat.reduceSub, Nat.reducePow, Nat.reduceMod, finAt, bitAt, withField_some, lt_of_fin d 32 (by decide), lt_of_fin a 32 (by decide), lt_of_fin b 32 (by decide), bool_mod, bool_eq, fpFmt_mod, fpFmt_code]))
theorem fdiv (d : Reg) (a : Reg) (b : Reg) (f : FpFmt) (ta : Bool) (tb : Bool) : Statement (.fdiv d a b f ta tb) := fun _ h =>
  wide rfl rfl rfl ((major_decodeFp _).trans (by simp only [decodeFp, bitsAt_head, bitsAt_tail, checked_wf h, Nat.le_refl, Nat.reduceLeDiff, Nat.reduceSub, Nat.reducePow, Nat.reduceMod, finAt, bitAt, withField_some, lt_of_fin d 32 (by decide), lt_of_fin a 32 (by decide), lt_of_fin b 32 (by decide), bool_mod, bool_eq, fpFmt_mod, fpFmt_code]))
theorem fsqrt (d : Reg) (a : Reg) (f : FpFmt) (ta : Bool) (tb : Bool) : Statement (.fsqrt d a f ta tb) := fun _ h =>
  wide rfl rfl rfl ((major_decodeFp _).trans (by simp only [decodeFp, bitsAt_head, bitsAt_tail, checked_wf h, Nat.le_refl, Nat.reduceLeDiff, Nat.reduceSub, Nat.reducePow, Nat.reduceMod, reduceIte, finAt, bitAt, withField_some, lt_of_fin d 32 (by decide), lt_of_fin a 32 (by decide), bool_mod, bool_eq, fpFmt_mod, fpFmt_code]))
theorem fmin (d : Reg) (a : Reg) (b : Reg) (f : FpFmt) (ta : Bool) (tb : Bool) : Statement (.fmin d a b f ta tb) := fun _ h =>
  wide rfl rfl rfl ((major_decodeFp _).trans (by simp only [decodeFp, bitsAt_head, bitsAt_tail, checked_wf h, Nat.le_refl, Nat.reduceLeDiff, Nat.reduceSub, Nat.reducePow, Nat.reduceMod, finAt, bitAt, withField_some, lt_of_fin d 32 (by decide), lt_of_fin a 32 (by decide), lt_of_fin b 32 (by decide), bool_mod, bool_eq, fpFmt_mod, fpFmt_code]))
theorem fmax (d : Reg) (a : Reg) (b : Reg) (f : FpFmt) (ta : Bool) (tb : Bool) : Statement (.fmax d a b f ta tb) := fun _ h =>
  wide rfl rfl rfl ((major_decodeFp _).trans (by simp only [decodeFp, bitsAt_head, bitsAt_tail, checked_wf h, Nat.le_refl, Nat.reduceLeDiff, Nat.reduceSub, Nat.reducePow, Nat.reduceMod, finAt, bitAt, withField_some, lt_of_fin d 32 (by decide), lt_of_fin a 32 (by decide), lt_of_fin b 32 (by decide), bool_mod, bool_eq, fpFmt_mod, fpFmt_code]))
theorem fcmpEq (d : Reg) (a : Reg) (b : Reg) (f : FpFmt) (ta : Bool) (tb : Bool) : Statement (.fcmpEq d a b f ta tb) := fun _ h =>
  wide rfl rfl rfl ((major_decodeFp _).trans (by simp only [decodeFp, bitsAt_head, bitsAt_tail, checked_wf h, Nat.le_refl, Nat.reduceLeDiff, Nat.reduceSub, Nat.reducePow, Nat.reduceMod, finAt, bitAt, withField_some, lt_of_fin d 32 (by decide), lt_of_fin a 32 (by decide), lt_of_fin b 32 (by decide), bool_mod, bool_eq, fpFmt_mod, fpFmt_code]))
theorem fcmpLt (d : Reg) (a : Reg) (b : Reg) (f : FpFmt) (ta : Bool) (tb : Bool) : Statement (.fcmpLt d a b f ta tb) := fun _ h =>
  wide rfl rfl rfl ((major_decodeFp _).trans (by simp only [decodeFp, bitsAt_head, bitsAt_tail, checked_wf h, Nat.le_refl, Nat.reduceLeDiff, Nat.reduceSub, Nat.reducePow, Nat.reduceMod, finAt, bitAt, withField_some, lt_of_fin d 32 (by decide), lt_of_fin a 32 (by decide), lt_of_fin b 32 (by decide), bool_mod, bool_eq, fpFmt_mod, fpFmt_code]))
theorem fcmpLe (d : Reg) (a : Reg) (b : Reg) (f : FpFmt) (ta : Bool) (tb : Bool) : Statement (.fcmpLe d a b f ta tb) := fun _ h =>
  wide rfl rfl rfl ((major_decodeFp _).trans (by simp only [decodeFp, bitsAt_head, bitsAt_tail, checked_wf h, Nat.le_refl, Nat.reduceLeDiff, Nat.reduceSub, Nat.reducePow, Nat.reduceMod, finAt, bitAt, withField_some, lt_of_fin d 32 (by decide), lt_of_fin a 32 (by decide), lt_of_fin b 32 (by decide), bool_mod, bool_eq, fpFmt_mod, fpFmt_code]))
theorem fclass (d : Reg) (a : Reg) (f : FpFmt) (ta : Bool) (tb : Bool) : Statement (.fclass d a f ta tb) := fun _ h =>
  wide rfl rfl rfl ((major_decodeFp _).trans (by simp only [decodeFp, bitsAt_head, bitsAt_tail, checked_wf h, Nat.le_refl, Nat.reduceLeDiff, Nat.reduceSub, Nat.reducePow, Nat.reduceMod, reduceIte, finAt, bitAt, withField_some, lt_of_fin d 32 (by decide), lt_of_fin a 32 (by decide), bool_mod, bool_eq, fpFmt_mod, fpFmt_code]))
theorem rnd (d : Reg) (a : Reg) (f : FpFmt) (rm : Rm) (ta : Bool) (tb : Bool) : Statement (.rnd d a f rm ta tb) := fun _ h =>
  wide rfl rfl rfl ((major_decodeFp _).trans (by simp only [decodeFp, bitsAt_head, bitsAt_tail, checked_wf h, Nat.le_refl, Nat.reduceLeDiff, Nat.reduceSub, Nat.reducePow, Nat.reduceMod, finAt, bitAt, withField_some, lt_of_fin d 32 (by decide), lt_of_fin a 32 (by decide), bool_mod, bool_eq, fpFmt_mod, fpFmt_code, rm_code, rm_wide]))
theorem rseed (d : Reg) (a : Reg) (ta : Bool) (tb : Bool) : Statement (.rseed d a ta tb) := fun _ h =>
  wide rfl rfl rfl ((major_decodeFp _).trans (by simp only [decodeFp, bitsAt_head, bitsAt_tail, checked_wf h, Nat.le_refl, Nat.reduceLeDiff, Nat.reduceSub, Nat.reducePow, Nat.reduceMod, reduceIte, and_self, finAt, bitAt, lt_of_fin d 32 (by decide), lt_of_fin a 32 (by decide), bool_mod, bool_eq]))
theorem cvt (d : Reg) (a : Reg) (rnd : CvtRound) (dst : Fmt) (src : Fmt) (ta : Bool) (tb : Bool) : Statement (.cvt d a rnd dst src ta tb) := fun _ h =>
  wide rfl rfl rfl ((major_decodeCvt _).trans (by simp only [decodeCvt, bitsAt_head, bitsAt_tail, checked_wf h, Nat.le_refl, Nat.reduceLeDiff, Nat.reduceSub, Nat.reducePow, finAt, bitAt, withField_some, lt_of_fin d 32 (by decide), lt_of_fin a 32 (by decide), bool_mod, bool_eq, fmt_mod, fmt_code, cvtRound_mod, cvtRound_code]))
theorem ld (d : Reg) (a : Reg) (imm : BitVec 9) (sz : MemSize) (sx : Bool) (ord : MemOrder) (ta : Bool) : Statement (.ld d a imm sz sx ord ta) := fun _ h =>
  wide rfl rfl rfl ((major_decodeLd _).trans (by simp only [decodeLd, bitsAt_head, bitsAt_tail, checked_wf h, Nat.le_refl, Nat.reduceLeDiff, Nat.reduceSub, Nat.reducePow, finAt, bvAt, bitAt, lt_of_fin d 32 (by decide), lt_of_fin a 32 (by decide), Nat.mod_eq_of_lt imm.isLt, bool_mod, bool_eq, bv_of, memOrder_mod, memOrder_code, memSize_mod, memSize_code]))
theorem st (d : Reg) (a : Reg) (imm : BitVec 9) (sz : MemSize) (ord : MemOrder) (ta : Bool) : Statement (.st d a imm sz ord ta) := fun _ h =>
  wide rfl rfl rfl ((major_decodeSt _).trans (by simp only [decodeSt, bitsAt_head, bitsAt_tail, checked_wf h, Nat.le_refl, Nat.reduceLeDiff, Nat.reduceSub, Nat.reducePow, Nat.reduceMod, reduceIte, finAt, bvAt, bitAt, lt_of_fin d 32 (by decide), lt_of_fin a 32 (by decide), Nat.mod_eq_of_lt imm.isLt, bool_mod, bool_eq, bv_of, memOrder_mod, memOrder_code, memSize_mod, memSize_code]))
theorem ldm (a : Reg) (b : Reg) (off : BitVec 8) (n : BitVec 3) (q : Bool) (ta : Bool) (tb : Bool) : Statement (.ldm a b off n q ta tb) := fun _ h =>
  wide rfl rfl rfl ((major_decodeBurst _).trans (by simp only [decodeBurst, bitsAt_head, bitsAt_tail, checked_wf h, Nat.le_refl, Nat.reduceLeDiff, Nat.reduceSub, Nat.reducePow, Nat.reduceMod, finAt, bvAt, bitAt, lt_of_fin a 32 (by decide), lt_of_fin b 32 (by decide), Nat.mod_eq_of_lt off.isLt, Nat.mod_eq_of_lt n.isLt, bool_mod, bool_eq, bv_of]))
theorem stm (a : Reg) (b : Reg) (off : BitVec 8) (n : BitVec 3) (q : Bool) (ta : Bool) (tb : Bool) : Statement (.stm a b off n q ta tb) := fun _ h =>
  wide rfl rfl rfl ((major_decodeBurst _).trans (by simp only [decodeBurst, bitsAt_head, bitsAt_tail, checked_wf h, Nat.le_refl, Nat.reduceLeDiff, Nat.reduceSub, Nat.reducePow, Nat.reduceMod, finAt, bvAt, bitAt, lt_of_fin a 32 (by decide), lt_of_fin b 32 (by decide), Nat.mod_eq_of_lt off.isLt, Nat.mod_eq_of_lt n.isLt, bool_mod, bool_eq, bv_of]))
theorem ldfe (d : Reg) (a : Reg) (imm : BitVec 9) (ord : MemOrder) (ta : Bool) : Statement (.ldfe d a imm ord ta) := fun _ h =>
  wide rfl rfl rfl ((major_decodeSyncMem _).trans (by simp only [decodeSyncMem, bitsAt_head, bitsAt_tail, checked_wf h, Nat.le_refl, Nat.reduceLeDiff, Nat.reduceSub, Nat.reducePow, Nat.reduceMod, finAt, bvAt, bitAt, lt_of_fin d 32 (by decide), lt_of_fin a 32 (by decide), Nat.mod_eq_of_lt imm.isLt, bool_mod, bool_eq, bv_of, memOrder_mod, memOrder_code]))
theorem ldff (d : Reg) (a : Reg) (imm : BitVec 9) (ord : MemOrder) (ta : Bool) : Statement (.ldff d a imm ord ta) := fun _ h =>
  wide rfl rfl rfl ((major_decodeSyncMem _).trans (by simp only [decodeSyncMem, bitsAt_head, bitsAt_tail, checked_wf h, Nat.le_refl, Nat.reduceLeDiff, Nat.reduceSub, Nat.reducePow, Nat.reduceMod, finAt, bvAt, bitAt, lt_of_fin d 32 (by decide), lt_of_fin a 32 (by decide), Nat.mod_eq_of_lt imm.isLt, bool_mod, bool_eq, bv_of, memOrder_mod, memOrder_code]))
theorem stfe (d : Reg) (a : Reg) (imm : BitVec 9) (ord : MemOrder) (ta : Bool) : Statement (.stfe d a imm ord ta) := fun _ h =>
  wide rfl rfl rfl ((major_decodeSyncMem _).trans (by simp only [decodeSyncMem, bitsAt_head, bitsAt_tail, checked_wf h, Nat.le_refl, Nat.reduceLeDiff, Nat.reduceSub, Nat.reducePow, Nat.reduceMod, finAt, bvAt, bitAt, lt_of_fin d 32 (by decide), lt_of_fin a 32 (by decide), Nat.mod_eq_of_lt imm.isLt, bool_mod, bool_eq, bv_of, memOrder_mod, memOrder_code]))
theorem stff (d : Reg) (a : Reg) (imm : BitVec 9) (ord : MemOrder) (ta : Bool) : Statement (.stff d a imm ord ta) := fun _ h =>
  wide rfl rfl rfl ((major_decodeSyncMem _).trans (by simp only [decodeSyncMem, bitsAt_head, bitsAt_tail, checked_wf h, Nat.le_refl, Nat.reduceLeDiff, Nat.reduceSub, Nat.reducePow, Nat.reduceMod, finAt, bvAt, bitAt, lt_of_fin d 32 (by decide), lt_of_fin a 32 (by decide), Nat.mod_eq_of_lt imm.isLt, bool_mod, bool_eq, bv_of, memOrder_mod, memOrder_code]))
theorem tagr (d : Reg) (a : Reg) (imm : BitVec 9) (ord : MemOrder) (ta : Bool) : Statement (.tagr d a imm ord ta) := fun _ h =>
  wide rfl rfl rfl ((major_decodeSyncMem _).trans (by simp only [decodeSyncMem, bitsAt_head, bitsAt_tail, checked_wf h, Nat.le_refl, Nat.reduceLeDiff, Nat.reduceSub, Nat.reducePow, Nat.reduceMod, finAt, bvAt, bitAt, lt_of_fin d 32 (by decide), lt_of_fin a 32 (by decide), Nat.mod_eq_of_lt imm.isLt, bool_mod, bool_eq, bv_of, memOrder_mod, memOrder_code]))
theorem tagw (d : Reg) (a : Reg) (imm : BitVec 9) (ord : MemOrder) (ta : Bool) : Statement (.tagw d a imm ord ta) := fun _ h =>
  wide rfl rfl rfl ((major_decodeSyncMem _).trans (by simp only [decodeSyncMem, bitsAt_head, bitsAt_tail, checked_wf h, Nat.le_refl, Nat.reduceLeDiff, Nat.reduceSub, Nat.reducePow, Nat.reduceMod, finAt, bvAt, bitAt, lt_of_fin d 32 (by decide), lt_of_fin a 32 (by decide), Nat.mod_eq_of_lt imm.isLt, bool_mod, bool_eq, bv_of, memOrder_mod, memOrder_code]))
theorem setvat (d : Reg) (a : Reg) (imm : BitVec 9) (ta : Bool) : Statement (.setvat d a imm ta) := fun _ h =>
  wide rfl rfl rfl ((major_decodeSyncMem _).trans (by simp only [decodeSyncMem, bitsAt_head, bitsAt_tail, checked_wf h, Nat.le_refl, Nat.reduceLeDiff, Nat.reduceSub, Nat.reducePow, Nat.reduceMod, reduceIte, finAt, bvAt, bitAt, lt_of_fin d 32 (by decide), lt_of_fin a 32 (by decide), Nat.mod_eq_of_lt imm.isLt, bool_mod, bool_eq, bv_of]))
theorem amoAdd (d : Reg) (a : Reg) (b : Reg) (dbl : Bool) (r : Bool) (o : Bool) (ta : Bool) (tb : Bool) : Statement (.amoAdd d a b dbl r o ta tb) := fun _ h =>
  wide rfl rfl rfl ((major_decodeAmo _).trans (by simp only [decodeAmo, bitsAt_head, bitsAt_tail, checked_wf h, Nat.le_refl, Nat.reduceLeDiff, Nat.reduceSub, Nat.reducePow, Nat.reduceMod, reduceIte, finAt, bitAt, lt_of_fin d 32 (by decide), lt_of_fin a 32 (by decide), lt_of_fin b 32 (by decide), bool_mod, bool_eq]))
theorem amoAnd (d : Reg) (a : Reg) (b : Reg) (dbl : Bool) (r : Bool) (o : Bool) (ta : Bool) (tb : Bool) : Statement (.amoAnd d a b dbl r o ta tb) := fun _ h =>
  wide rfl rfl rfl ((major_decodeAmo _).trans (by simp only [decodeAmo, bitsAt_head, bitsAt_tail, checked_wf h, Nat.le_refl, Nat.reduceLeDiff, Nat.reduceSub, Nat.reducePow, Nat.reduceMod, reduceIte, finAt, bitAt, lt_of_fin d 32 (by decide), lt_of_fin a 32 (by decide), lt_of_fin b 32 (by decide), bool_mod, bool_eq]))
theorem amoOr (d : Reg) (a : Reg) (b : Reg) (dbl : Bool) (r : Bool) (o : Bool) (ta : Bool) (tb : Bool) : Statement (.amoOr d a b dbl r o ta tb) := fun _ h =>
  wide rfl rfl rfl ((major_decodeAmo _).trans (by simp only [decodeAmo, bitsAt_head, bitsAt_tail, checked_wf h, Nat.le_refl, Nat.reduceLeDiff, Nat.reduceSub, Nat.reducePow, Nat.reduceMod, reduceIte, finAt, bitAt, lt_of_fin d 32 (by decide), lt_of_fin a 32 (by decide), lt_of_fin b 32 (by decide), bool_mod, bool_eq]))
theorem amoXor (d : Reg) (a : Reg) (b : Reg) (dbl : Bool) (r : Bool) (o : Bool) (ta : Bool) (tb : Bool) : Statement (.amoXor d a b dbl r o ta tb) := fun _ h =>
  wide rfl rfl rfl ((major_decodeAmo _).trans (by simp only [decodeAmo, bitsAt_head, bitsAt_tail, checked_wf h, Nat.le_refl, Nat.reduceLeDiff, Nat.reduceSub, Nat.reducePow, Nat.reduceMod, reduceIte, finAt, bitAt, lt_of_fin d 32 (by decide), lt_of_fin a 32 (by decide), lt_of_fin b 32 (by decide), bool_mod, bool_eq]))
theorem amoMin (d : Reg) (a : Reg) (b : Reg) (dbl : Bool) (r : Bool) (o : Bool) (ta : Bool) (tb : Bool) : Statement (.amoMin d a b dbl r o ta tb) := fun _ h =>
  wide rfl rfl rfl ((major_decodeAmo _).trans (by simp only [decodeAmo, bitsAt_head, bitsAt_tail, checked_wf h, Nat.le_refl, Nat.reduceLeDiff, Nat.reduceSub, Nat.reducePow, Nat.reduceMod, reduceIte, finAt, bitAt, lt_of_fin d 32 (by decide), lt_of_fin a 32 (by decide), lt_of_fin b 32 (by decide), bool_mod, bool_eq]))
theorem amoMax (d : Reg) (a : Reg) (b : Reg) (dbl : Bool) (r : Bool) (o : Bool) (ta : Bool) (tb : Bool) : Statement (.amoMax d a b dbl r o ta tb) := fun _ h =>
  wide rfl rfl rfl ((major_decodeAmo _).trans (by simp only [decodeAmo, bitsAt_head, bitsAt_tail, checked_wf h, Nat.le_refl, Nat.reduceLeDiff, Nat.reduceSub, Nat.reducePow, Nat.reduceMod, reduceIte, finAt, bitAt, lt_of_fin d 32 (by decide), lt_of_fin a 32 (by decide), lt_of_fin b 32 (by decide), bool_mod, bool_eq]))
theorem amoMinu (d : Reg) (a : Reg) (b : Reg) (dbl : Bool) (r : Bool) (o : Bool) (ta : Bool) (tb : Bool) : Statement (.amoMinu d a b dbl r o ta tb) := fun _ h =>
  wide rfl rfl rfl ((major_decodeAmo _).trans (by simp only [decodeAmo, bitsAt_head, bitsAt_tail, checked_wf h, Nat.le_refl, Nat.reduceLeDiff, Nat.reduceSub, Nat.reducePow, Nat.reduceMod, reduceIte, finAt, bitAt, lt_of_fin d 32 (by decide), lt_of_fin a 32 (by decide), lt_of_fin b 32 (by decide), bool_mod, bool_eq]))
theorem amoMaxu (d : Reg) (a : Reg) (b : Reg) (dbl : Bool) (r : Bool) (o : Bool) (ta : Bool) (tb : Bool) : Statement (.amoMaxu d a b dbl r o ta tb) := fun _ h =>
  wide rfl rfl rfl ((major_decodeAmo _).trans (by simp only [decodeAmo, bitsAt_head, bitsAt_tail, checked_wf h, Nat.le_refl, Nat.reduceLeDiff, Nat.reduceSub, Nat.reducePow, Nat.reduceMod, reduceIte, finAt, bitAt, lt_of_fin d 32 (by decide), lt_of_fin a 32 (by decide), lt_of_fin b 32 (by decide), bool_mod, bool_eq]))
theorem amoSwap (d : Reg) (a : Reg) (b : Reg) (dbl : Bool) (r : Bool) (o : Bool) (ta : Bool) (tb : Bool) : Statement (.amoSwap d a b dbl r o ta tb) := fun _ h =>
  wide rfl rfl rfl ((major_decodeAmo _).trans (by simp only [decodeAmo, bitsAt_head, bitsAt_tail, checked_wf h, Nat.le_refl, Nat.reduceLeDiff, Nat.reduceSub, Nat.reducePow, Nat.reduceMod, reduceIte, finAt, bitAt, lt_of_fin d 32 (by decide), lt_of_fin a 32 (by decide), lt_of_fin b 32 (by decide), bool_mod, bool_eq]))
theorem amoFadd32 (d : Reg) (a : Reg) (b : Reg) (r : Bool) (o : Bool) (ta : Bool) (tb : Bool) : Statement (.amoFadd32 d a b r o ta tb) := fun _ h =>
  wide rfl rfl rfl ((major_decodeAmo _).trans (by simp only [decodeAmo, bitsAt_head, bitsAt_tail, checked_wf h, Nat.le_refl, Nat.reduceLeDiff, Nat.reduceSub, Nat.reducePow, Nat.reduceMod, reduceIte, finAt, bitAt, lt_of_fin d 32 (by decide), lt_of_fin a 32 (by decide), lt_of_fin b 32 (by decide), bool_mod, bool_eq]))
theorem redAdd (a : Reg) (b : Reg) (dbl : Bool) (r : Bool) (o : Bool) (ta : Bool) (tb : Bool) : Statement (.redAdd a b dbl r o ta tb) := fun _ h =>
  wide rfl rfl rfl ((major_decodeRed _).trans (by simp only [decodeRed, bitsAt_head, bitsAt_tail, checked_wf h, Nat.le_refl, Nat.reduceLeDiff, Nat.reduceSub, Nat.reducePow, Nat.reduceMod, reduceIte, and_self, finAt, bitAt, lt_of_fin a 32 (by decide), lt_of_fin b 32 (by decide), bool_mod, bool_eq]))
theorem redAnd (a : Reg) (b : Reg) (dbl : Bool) (r : Bool) (o : Bool) (ta : Bool) (tb : Bool) : Statement (.redAnd a b dbl r o ta tb) := fun _ h =>
  wide rfl rfl rfl ((major_decodeRed _).trans (by simp only [decodeRed, bitsAt_head, bitsAt_tail, checked_wf h, Nat.le_refl, Nat.reduceLeDiff, Nat.reduceSub, Nat.reducePow, Nat.reduceMod, reduceIte, and_self, finAt, bitAt, lt_of_fin a 32 (by decide), lt_of_fin b 32 (by decide), bool_mod, bool_eq]))
theorem redOr (a : Reg) (b : Reg) (dbl : Bool) (r : Bool) (o : Bool) (ta : Bool) (tb : Bool) : Statement (.redOr a b dbl r o ta tb) := fun _ h =>
  wide rfl rfl rfl ((major_decodeRed _).trans (by simp only [decodeRed, bitsAt_head, bitsAt_tail, checked_wf h, Nat.le_refl, Nat.reduceLeDiff, Nat.reduceSub, Nat.reducePow, Nat.reduceMod, reduceIte, and_self, finAt, bitAt, lt_of_fin a 32 (by decide), lt_of_fin b 32 (by decide), bool_mod, bool_eq]))
theorem redXor (a : Reg) (b : Reg) (dbl : Bool) (r : Bool) (o : Bool) (ta : Bool) (tb : Bool) : Statement (.redXor a b dbl r o ta tb) := fun _ h =>
  wide rfl rfl rfl ((major_decodeRed _).trans (by simp only [decodeRed, bitsAt_head, bitsAt_tail, checked_wf h, Nat.le_refl, Nat.reduceLeDiff, Nat.reduceSub, Nat.reducePow, Nat.reduceMod, reduceIte, and_self, finAt, bitAt, lt_of_fin a 32 (by decide), lt_of_fin b 32 (by decide), bool_mod, bool_eq]))
theorem redMin (a : Reg) (b : Reg) (dbl : Bool) (r : Bool) (o : Bool) (ta : Bool) (tb : Bool) : Statement (.redMin a b dbl r o ta tb) := fun _ h =>
  wide rfl rfl rfl ((major_decodeRed _).trans (by simp only [decodeRed, bitsAt_head, bitsAt_tail, checked_wf h, Nat.le_refl, Nat.reduceLeDiff, Nat.reduceSub, Nat.reducePow, Nat.reduceMod, reduceIte, and_self, finAt, bitAt, lt_of_fin a 32 (by decide), lt_of_fin b 32 (by decide), bool_mod, bool_eq]))
theorem redMax (a : Reg) (b : Reg) (dbl : Bool) (r : Bool) (o : Bool) (ta : Bool) (tb : Bool) : Statement (.redMax a b dbl r o ta tb) := fun _ h =>
  wide rfl rfl rfl ((major_decodeRed _).trans (by simp only [decodeRed, bitsAt_head, bitsAt_tail, checked_wf h, Nat.le_refl, Nat.reduceLeDiff, Nat.reduceSub, Nat.reducePow, Nat.reduceMod, reduceIte, and_self, finAt, bitAt, lt_of_fin a 32 (by decide), lt_of_fin b 32 (by decide), bool_mod, bool_eq]))
theorem redMinu (a : Reg) (b : Reg) (dbl : Bool) (r : Bool) (o : Bool) (ta : Bool) (tb : Bool) : Statement (.redMinu a b dbl r o ta tb) := fun _ h =>
  wide rfl rfl rfl ((major_decodeRed _).trans (by simp only [decodeRed, bitsAt_head, bitsAt_tail, checked_wf h, Nat.le_refl, Nat.reduceLeDiff, Nat.reduceSub, Nat.reducePow, Nat.reduceMod, reduceIte, and_self, finAt, bitAt, lt_of_fin a 32 (by decide), lt_of_fin b 32 (by decide), bool_mod, bool_eq]))
theorem redMaxu (a : Reg) (b : Reg) (dbl : Bool) (r : Bool) (o : Bool) (ta : Bool) (tb : Bool) : Statement (.redMaxu a b dbl r o ta tb) := fun _ h =>
  wide rfl rfl rfl ((major_decodeRed _).trans (by simp only [decodeRed, bitsAt_head, bitsAt_tail, checked_wf h, Nat.le_refl, Nat.reduceLeDiff, Nat.reduceSub, Nat.reducePow, Nat.reduceMod, reduceIte, and_self, finAt, bitAt, lt_of_fin a 32 (by decide), lt_of_fin b 32 (by decide), bool_mod, bool_eq]))
theorem redSwap (a : Reg) (b : Reg) (dbl : Bool) (r : Bool) (o : Bool) (ta : Bool) (tb : Bool) : Statement (.redSwap a b dbl r o ta tb) := fun _ h =>
  wide rfl rfl rfl ((major_decodeRed _).trans (by simp only [decodeRed, bitsAt_head, bitsAt_tail, checked_wf h, Nat.le_refl, Nat.reduceLeDiff, Nat.reduceSub, Nat.reducePow, Nat.reduceMod, reduceIte, and_self, finAt, bitAt, lt_of_fin a 32 (by decide), lt_of_fin b 32 (by decide), bool_mod, bool_eq]))
theorem redFadd32 (a : Reg) (b : Reg) (r : Bool) (o : Bool) (ta : Bool) (tb : Bool) : Statement (.redFadd32 a b r o ta tb) := fun _ h =>
  wide rfl rfl rfl ((major_decodeRed _).trans (by simp only [decodeRed, bitsAt_head, bitsAt_tail, checked_wf h, Nat.le_refl, Nat.reduceLeDiff, Nat.reduceSub, Nat.reducePow, Nat.reduceMod, reduceIte, and_self, finAt, bitAt, lt_of_fin a 32 (by decide), lt_of_fin b 32 (by decide), bool_mod, bool_eq]))
theorem cas (d : Reg) (a : Reg) (b : Reg) (r : Bool) (o : Bool) (ta : Bool) (tb : Bool) : Statement (.cas d a b r o ta tb) := fun _ h =>
  wide rfl rfl rfl ((major_decodeCas _).trans (by simp only [decodeCas, bitsAt_head, bitsAt_tail, checked_wf h, Nat.le_refl, Nat.reduceLeDiff, Nat.reduceSub, Nat.reducePow, Nat.reduceMod, reduceIte, Nat.reduceEqDiff, finAt, bitAt, lt_of_fin d 32 (by decide), lt_of_fin a 32 (by decide), lt_of_fin b 32 (by decide), bool_mod, bool_eq]))
theorem cas2 (d : Reg) (a : Reg) (b : Reg) (r : Bool) (o : Bool) (ta : Bool) (tb : Bool) : Statement (.cas2 d a b r o ta tb) := fun _ h =>
  wide rfl rfl rfl ((major_decodeCas _).trans (by simp only [decodeCas, bitsAt_head, bitsAt_tail, checked_wf h, Nat.le_refl, Nat.reduceLeDiff, Nat.reduceSub, Nat.reducePow, Nat.reduceMod, reduceIte, Nat.reduceEqDiff, finAt, bitAt, lt_of_fin d 32 (by decide), lt_of_fin a 32 (by decide), lt_of_fin b 32 (by decide), bool_mod, bool_eq]))
theorem park (d : Reg) (a : Reg) (b : Reg) (ta : Bool) (tb : Bool) : Statement (.park d a b ta tb) := fun _ h =>
  wide rfl rfl rfl ((major_decodeWait _).trans (by simp only [decodeWait, bitsAt_head, bitsAt_tail, checked_wf h, Nat.le_refl, Nat.reduceLeDiff, Nat.reduceSub, Nat.reducePow, Nat.reduceMod, finAt, bitAt, lt_of_fin d 32 (by decide), lt_of_fin a 32 (by decide), lt_of_fin b 32 (by decide), bool_mod, bool_eq]))
theorem wake (a : Reg) (b : Reg) (ta : Bool) (tb : Bool) : Statement (.wake a b ta tb) := fun _ h =>
  wide rfl rfl rfl ((major_decodeWait _).trans (by simp only [decodeWait, bitsAt_head, bitsAt_tail, checked_wf h, Nat.le_refl, Nat.reduceLeDiff, Nat.reduceSub, Nat.reducePow, Nat.reduceMod, reduceIte, finAt, bitAt, lt_of_fin a 32 (by decide), lt_of_fin b 32 (by decide), bool_mod, bool_eq]))
theorem sleep (d : Reg) (a : Reg) (ta : Bool) (tb : Bool) : Statement (.sleep d a ta tb) := fun _ h =>
  wide rfl rfl rfl ((major_decodeWait _).trans (by simp only [decodeWait, bitsAt_head, bitsAt_tail, checked_wf h, Nat.le_refl, Nat.reduceLeDiff, Nat.reduceSub, Nat.reducePow, Nat.reduceMod, reduceIte, finAt, bitAt, lt_of_fin d 32 (by decide), lt_of_fin a 32 (by decide), bool_mod, bool_eq]))
theorem bar (d : Reg) (n : Fin 4) (ta : Bool) (tb : Bool) : Statement (.bar d n ta tb) := fun _ h =>
  wide rfl rfl rfl ((major_decodeWait _).trans (by simp only [decodeWait, bitsAt_head, bitsAt_tail, checked_wf h, Nat.le_refl, Nat.reduceLeDiff, Nat.reduceSub, Nat.reducePow, Nat.reduceMod, reduceIte, finAt, bitAt, lt_of_fin d 32 (by decide), lt_of_fin n 4 (by decide), bool_mod, bool_eq]))
theorem barw (d : Reg) (b : Reg) (n : Fin 4) (ta : Bool) (tb : Bool) : Statement (.barw d b n ta tb) := fun _ h =>
  wide rfl rfl rfl ((major_decodeWait _).trans (by simp only [decodeWait, bitsAt_head, bitsAt_tail, checked_wf h, Nat.le_refl, Nat.reduceLeDiff, Nat.reduceSub, Nat.reducePow, Nat.reduceMod, reduceIte, finAt, bitAt, lt_of_fin d 32 (by decide), lt_of_fin b 32 (by decide), lt_of_fin n 4 (by decide), bool_mod, bool_eq]))
theorem fencePan (ta : Bool) (tb : Bool) : Statement (.fencePan ta tb) := fun _ h =>
  wide rfl rfl rfl ((major_decodeFence _).trans (by simp only [decodeFence, bitsAt_head, bitsAt_tail, checked_wf h, Nat.le_refl, Nat.reduceLeDiff, Nat.reduceSub, Nat.reducePow, Nat.reduceMod, reduceIte, bitAt, bool_mod, bool_eq]))
theorem fenceTenant (ta : Bool) (tb : Bool) : Statement (.fenceTenant ta tb) := fun _ h =>
  wide rfl rfl rfl ((major_decodeFence _).trans (by simp only [decodeFence, bitsAt_head, bitsAt_tail, checked_wf h, Nat.le_refl, Nat.reduceLeDiff, Nat.reduceSub, Nat.reducePow, Nat.reduceMod, reduceIte, bitAt, bool_mod, bool_eq]))
theorem fenceSystem (ta : Bool) (tb : Bool) : Statement (.fenceSystem ta tb) := fun _ h =>
  wide rfl rfl rfl ((major_decodeFence _).trans (by simp only [decodeFence, bitsAt_head, bitsAt_tail, checked_wf h, Nat.le_refl, Nat.reduceLeDiff, Nat.reduceSub, Nat.reducePow, Nat.reduceMod, reduceIte, bitAt, bool_mod, bool_eq]))
theorem fenceGlobal (ta : Bool) (tb : Bool) : Statement (.fenceGlobal ta tb) := fun _ h =>
  wide rfl rfl rfl ((major_decodeFence _).trans (by simp only [decodeFence, bitsAt_head, bitsAt_tail, checked_wf h, Nat.le_refl, Nat.reduceLeDiff, Nat.reduceSub, Nat.reducePow, Nat.reduceMod, reduceIte, bitAt, bool_mod, bool_eq]))
theorem hop (a : Reg) (ta : Bool) (tb : Bool) : Statement (.hop a ta tb) := fun _ h =>
  wide rfl rfl rfl ((major_decodeMigr _).trans (by simp only [decodeMigr, bitsAt_head, bitsAt_tail, checked_wf h, Nat.le_refl, Nat.reduceLeDiff, Nat.reduceSub, Nat.reducePow, Nat.reduceMod, reduceIte, and_self, finAt, bitAt, lt_of_fin a 32 (by decide), bool_mod, bool_eq]))
theorem live (d : Reg) (a : Reg) (ta : Bool) (tb : Bool) : Statement (.live d a ta tb) := fun _ h =>
  wide rfl rfl rfl ((major_decodeMigr _).trans (by simp only [decodeMigr, bitsAt_head, bitsAt_tail, checked_wf h, Nat.le_refl, Nat.reduceLeDiff, Nat.reduceSub, Nat.reducePow, Nat.reduceMod, reduceIte, finAt, bitAt, lt_of_fin d 32 (by decide), lt_of_fin a 32 (by decide), bool_mod, bool_eq]))
theorem tlbinvTrellis (a : Reg) (b : Reg) (ta : Bool) (tb : Bool) : Statement (.tlbinvTrellis a b ta tb) := fun _ h =>
  wide rfl rfl rfl ((major_decodeMigr _).trans (by simp only [decodeMigr, bitsAt_head, bitsAt_tail, checked_wf h, Nat.le_refl, Nat.reduceLeDiff, Nat.reduceSub, Nat.reducePow, Nat.reduceMod, reduceIte, finAt, bitAt, lt_of_fin a 32 (by decide), lt_of_fin b 32 (by decide), bool_mod, bool_eq]))
theorem tlbinvPan (a : Reg) (b : Reg) (ta : Bool) (tb : Bool) : Statement (.tlbinvPan a b ta tb) := fun _ h =>
  wide rfl rfl rfl ((major_decodeMigr _).trans (by simp only [decodeMigr, bitsAt_head, bitsAt_tail, checked_wf h, Nat.le_refl, Nat.reduceLeDiff, Nat.reduceSub, Nat.reducePow, Nat.reduceMod, reduceIte, finAt, bitAt, lt_of_fin a 32 (by decide), lt_of_fin b 32 (by decide), bool_mod, bool_eq]))
theorem tlbinvPartition (a : Reg) (b : Reg) (ta : Bool) (tb : Bool) : Statement (.tlbinvPartition a b ta tb) := fun _ h =>
  wide rfl rfl rfl ((major_decodeMigr _).trans (by simp only [decodeMigr, bitsAt_head, bitsAt_tail, checked_wf h, Nat.le_refl, Nat.reduceLeDiff, Nat.reduceSub, Nat.reducePow, Nat.reduceMod, reduceIte, finAt, bitAt, lt_of_fin a 32 (by decide), lt_of_fin b 32 (by decide), bool_mod, bool_eq]))
theorem tlbinvPackage (a : Reg) (b : Reg) (ta : Bool) (tb : Bool) : Statement (.tlbinvPackage a b ta tb) := fun _ h =>
  wide rfl rfl rfl ((major_decodeMigr _).trans (by simp only [decodeMigr, bitsAt_head, bitsAt_tail, checked_wf h, Nat.le_refl, Nat.reduceLeDiff, Nat.reduceSub, Nat.reducePow, Nat.reduceMod, reduceIte, finAt, bitAt, lt_of_fin a 32 (by decide), lt_of_fin b 32 (by decide), bool_mod, bool_eq]))
theorem beq (a : Reg) (b : Reg) (imm : BitVec 12) : Statement (.beq a b imm) := fun _ h =>
  wide rfl rfl rfl ((major_decodeBranch _).trans (by simp only [decodeBranch, bitsAt_head, bitsAt_tail, checked_wf h, Nat.le_refl, Nat.reduceLeDiff, Nat.reduceSub, Nat.reducePow, Nat.reduceMod, finAt, bvAt, lt_of_fin a 32 (by decide), lt_of_fin b 32 (by decide), Nat.mod_eq_of_lt imm.isLt, bv_of]))
theorem bne (a : Reg) (b : Reg) (imm : BitVec 12) : Statement (.bne a b imm) := fun _ h =>
  wide rfl rfl rfl ((major_decodeBranch _).trans (by simp only [decodeBranch, bitsAt_head, bitsAt_tail, checked_wf h, Nat.le_refl, Nat.reduceLeDiff, Nat.reduceSub, Nat.reducePow, Nat.reduceMod, finAt, bvAt, lt_of_fin a 32 (by decide), lt_of_fin b 32 (by decide), Nat.mod_eq_of_lt imm.isLt, bv_of]))
theorem blt (a : Reg) (b : Reg) (imm : BitVec 12) : Statement (.blt a b imm) := fun _ h =>
  wide rfl rfl rfl ((major_decodeBranch _).trans (by simp only [decodeBranch, bitsAt_head, bitsAt_tail, checked_wf h, Nat.le_refl, Nat.reduceLeDiff, Nat.reduceSub, Nat.reducePow, Nat.reduceMod, finAt, bvAt, lt_of_fin a 32 (by decide), lt_of_fin b 32 (by decide), Nat.mod_eq_of_lt imm.isLt, bv_of]))
theorem bge (a : Reg) (b : Reg) (imm : BitVec 12) : Statement (.bge a b imm) := fun _ h =>
  wide rfl rfl rfl ((major_decodeBranch _).trans (by simp only [decodeBranch, bitsAt_head, bitsAt_tail, checked_wf h, Nat.le_refl, Nat.reduceLeDiff, Nat.reduceSub, Nat.reducePow, Nat.reduceMod, finAt, bvAt, lt_of_fin a 32 (by decide), lt_of_fin b 32 (by decide), Nat.mod_eq_of_lt imm.isLt, bv_of]))
theorem bltu (a : Reg) (b : Reg) (imm : BitVec 12) : Statement (.bltu a b imm) := fun _ h =>
  wide rfl rfl rfl ((major_decodeBranch _).trans (by simp only [decodeBranch, bitsAt_head, bitsAt_tail, checked_wf h, Nat.le_refl, Nat.reduceLeDiff, Nat.reduceSub, Nat.reducePow, Nat.reduceMod, finAt, bvAt, lt_of_fin a 32 (by decide), lt_of_fin b 32 (by decide), Nat.mod_eq_of_lt imm.isLt, bv_of]))
theorem bgeu (a : Reg) (b : Reg) (imm : BitVec 12) : Statement (.bgeu a b imm) := fun _ h =>
  wide rfl rfl rfl ((major_decodeBranch _).trans (by simp only [decodeBranch, bitsAt_head, bitsAt_tail, checked_wf h, Nat.le_refl, Nat.reduceLeDiff, Nat.reduceSub, Nat.reducePow, Nat.reduceMod, finAt, bvAt, lt_of_fin a 32 (by decide), lt_of_fin b 32 (by decide), Nat.mod_eq_of_lt imm.isLt, bv_of]))
theorem jal (d : Reg) (imm : BitVec 20) : Statement (.jal d imm) := fun _ h =>
  wide rfl rfl rfl ((major_decodeJal _).trans (by simp only [decodeJal, bitsAt_head, bitsAt_tail, checked_wf h, Nat.le_refl, Nat.reduceLeDiff, Nat.reduceSub, Nat.reducePow, finAt, bvAt, lt_of_fin d 32 (by decide), Nat.mod_eq_of_lt imm.isLt, bv_of]))
theorem jalr (d : Reg) (a : Reg) (imm : BitVec 14) (ta : Bool) : Statement (.jalr d a imm ta) := fun _ h =>
  wide rfl rfl rfl ((major_decodeJalr _).trans (by simp only [decodeJalr, bitsAt_head, bitsAt_tail, checked_wf h, Nat.le_refl, Nat.reduceLeDiff, Nat.reduceSub, Nat.reducePow, finAt, bvAt, bitAt, lt_of_fin d 32 (by decide), lt_of_fin a 32 (by decide), Nat.mod_eq_of_lt imm.isLt, bool_mod, bool_eq, bv_of]))
theorem nest (d : Reg) (a : Reg) (ta : Bool) (tb : Bool) : Statement (.nest d a ta tb) := fun _ h =>
  wide rfl rfl rfl ((major_decodeLoop _).trans (by simp only [decodeLoop, bitsAt_head, bitsAt_tail, checked_wf h, Nat.le_refl, Nat.reduceLeDiff, Nat.reduceSub, Nat.reducePow, Nat.reduceMod, reduceIte, finAt, bitAt, lt_of_fin d 32 (by decide), lt_of_fin a 32 (by decide), bool_mod, bool_eq]))
theorem next (d : Reg) (ta : Bool) (tb : Bool) : Statement (.next d ta tb) := fun _ h =>
  wide rfl rfl rfl ((major_decodeLoop _).trans (by simp only [decodeLoop, bitsAt_head, bitsAt_tail, checked_wf h, Nat.le_refl, Nat.reduceLeDiff, Nat.reduceSub, Nat.reducePow, Nat.reduceMod, reduceIte, finAt, bitAt, lt_of_fin d 32 (by decide), bool_mod, bool_eq]))
theorem fork (d : Reg) (a : Reg) (b : Reg) (ta : Bool) (tb : Bool) : Statement (.fork d a b ta tb) := fun _ h =>
  wide rfl rfl rfl ((major_decodeTask _).trans (by simp only [decodeTask, bitsAt_head, bitsAt_tail, checked_wf h, Nat.le_refl, Nat.reduceLeDiff, Nat.reduceSub, Nat.reducePow, Nat.reduceMod, finAt, bitAt, lt_of_fin d 32 (by decide), lt_of_fin a 32 (by decide), lt_of_fin b 32 (by decide), bool_mod, bool_eq]))
theorem join (d : Reg) (a : Reg) (b : Reg) (ta : Bool) (tb : Bool) : Statement (.join d a b ta tb) := fun _ h =>
  wide rfl rfl rfl ((major_decodeTask _).trans (by simp only [decodeTask, bitsAt_head, bitsAt_tail, checked_wf h, Nat.le_refl, Nat.reduceLeDiff, Nat.reduceSub, Nat.reducePow, Nat.reduceMod, finAt, bitAt, lt_of_fin d 32 (by decide), lt_of_fin a 32 (by decide), lt_of_fin b 32 (by decide), bool_mod, bool_eq]))
theorem jdone (a : Reg) (b : Reg) (ta : Bool) (tb : Bool) : Statement (.jdone a b ta tb) := fun _ h =>
  wide rfl rfl rfl ((major_decodeTask _).trans (by simp only [decodeTask, bitsAt_head, bitsAt_tail, checked_wf h, Nat.le_refl, Nat.reduceLeDiff, Nat.reduceSub, Nat.reducePow, Nat.reduceMod, reduceIte, finAt, bitAt, lt_of_fin a 32 (by decide), lt_of_fin b 32 (by decide), bool_mod, bool_eq]))
theorem spawn (d : Reg) (a : Reg) (b : Reg) (ta : Bool) (tb : Bool) : Statement (.spawn d a b ta tb) := fun _ h =>
  wide rfl rfl rfl ((major_decodeTask _).trans (by simp only [decodeTask, bitsAt_head, bitsAt_tail, checked_wf h, Nat.le_refl, Nat.reduceLeDiff, Nat.reduceSub, Nat.reducePow, Nat.reduceMod, finAt, bitAt, lt_of_fin d 32 (by decide), lt_of_fin a 32 (by decide), lt_of_fin b 32 (by decide), bool_mod, bool_eq]))
theorem quit (ta : Bool) (tb : Bool) : Statement (.quit ta tb) := fun _ h =>
  wide rfl rfl rfl ((major_decodeTask _).trans (by simp only [decodeTask, bitsAt_head, bitsAt_tail, checked_wf h, Nat.le_refl, Nat.reduceLeDiff, Nat.reduceSub, Nat.reducePow, Nat.reduceMod, reduceIte, bitAt, bool_mod, bool_eq]))
theorem beat (ta : Bool) (tb : Bool) : Statement (.beat ta tb) := fun _ h =>
  wide rfl rfl rfl ((major_decodeTask _).trans (by simp only [decodeTask, bitsAt_head, bitsAt_tail, checked_wf h, Nat.le_refl, Nat.reduceLeDiff, Nat.reduceSub, Nat.reducePow, Nat.reduceMod, reduceIte, bitAt, bool_mod, bool_eq]))
theorem ifence (ta : Bool) (tb : Bool) : Statement (.ifence ta tb) := fun _ h =>
  wide rfl rfl rfl ((major_decodeTask _).trans (by simp only [decodeTask, bitsAt_head, bitsAt_tail, checked_wf h, Nat.le_refl, Nat.reduceLeDiff, Nat.reduceSub, Nat.reducePow, Nat.reduceMod, reduceIte, bitAt, bool_mod, bool_eq]))
theorem mfc (d : Reg) (c : BitVec 12) : Statement (.mfc d c) := fun _ h =>
  wide rfl rfl rfl ((major_decodeSys _).trans (by simp only [decodeSys, bitsAt_head, bitsAt_tail, checked_wf h, Nat.le_refl, Nat.reduceLeDiff, Nat.reduceSub, Nat.reducePow, Nat.reduceMod, reduceIte, finAt, bvAt, lt_of_fin d 32 (by decide), Nat.mod_eq_of_lt c.isLt, bv_of]))
theorem mtc (a : Reg) (c : BitVec 12) : Statement (.mtc a c) := fun _ h =>
  wide rfl rfl rfl ((major_decodeSys _).trans (by
    obtain ⟨h0, h2, h3, h4, h5, h6, h7⟩ := mtc_number h
    simp only [decodeSys, bitsAt_head, bitsAt_tail, checked_wf h, Nat.le_refl, Nat.reduceLeDiff, Nat.reduceSub, Nat.reducePow, Nat.reduceMod, reduceIte, and_false, finAt, bvAt, lt_of_fin a 32 (by decide), Nat.mod_eq_of_lt c.isLt, bv_of, h0, h2, h3, h4, h5, h6, h7]))
theorem mtcStatus (a : Reg) : Statement (.mtcStatus a) := fun _ h =>
  wide rfl rfl rfl ((major_decodeSys _).trans (by simp only [decodeSys, bitsAt_head, bitsAt_tail, checked_wf h, Nat.le_refl, Nat.reduceLeDiff, Nat.reduceSub, Nat.reducePow, Nat.reduceMod, reduceIte, and_self, Nat.reduceEqDiff, and_false, finAt, lt_of_fin a 32 (by decide)]))
theorem mtcLive (a : Reg) : Statement (.mtcLive a) := fun _ h =>
  wide rfl rfl rfl ((major_decodeSys _).trans (by simp only [decodeSys, bitsAt_head, bitsAt_tail, checked_wf h, Nat.le_refl, Nat.reduceLeDiff, Nat.reduceSub, Nat.reducePow, Nat.reduceMod, reduceIte, and_self, Nat.reduceEqDiff, and_false, finAt, lt_of_fin a 32 (by decide)]))
theorem mtcSeed (a : Reg) : Statement (.mtcSeed a) := fun _ h =>
  wide rfl rfl rfl ((major_decodeSys _).trans (by simp only [decodeSys, bitsAt_head, bitsAt_tail, checked_wf h, Nat.le_refl, Nat.reduceLeDiff, Nat.reduceSub, Nat.reducePow, Nat.reduceMod, reduceIte, and_self, Nat.reduceEqDiff, and_false, finAt, lt_of_fin a 32 (by decide)]))
theorem mtcDeftrapvec (a : Reg) : Statement (.mtcDeftrapvec a) := fun _ h =>
  wide rfl rfl rfl ((major_decodeSys _).trans (by simp only [decodeSys, bitsAt_head, bitsAt_tail, checked_wf h, Nat.le_refl, Nat.reduceLeDiff, Nat.reduceSub, Nat.reducePow, Nat.reduceMod, reduceIte, and_self, Nat.reduceEqDiff, and_false, finAt, lt_of_fin a 32 (by decide)]))
theorem mtcHtbase (a : Reg) : Statement (.mtcHtbase a) := fun _ h =>
  wide rfl rfl rfl ((major_decodeSys _).trans (by simp only [decodeSys, bitsAt_head, bitsAt_tail, checked_wf h, Nat.le_refl, Nat.reduceLeDiff, Nat.reduceSub, Nat.reducePow, Nat.reduceMod, reduceIte, and_self, Nat.reduceEqDiff, and_false, finAt, lt_of_fin a 32 (by decide)]))
theorem mtcFqbase (a : Reg) : Statement (.mtcFqbase a) := fun _ h =>
  wide rfl rfl rfl ((major_decodeSys _).trans (by simp only [decodeSys, bitsAt_head, bitsAt_tail, checked_wf h, Nat.le_refl, Nat.reduceLeDiff, Nat.reduceSub, Nat.reducePow, Nat.reduceMod, reduceIte, and_self, Nat.reduceEqDiff, and_false, finAt, lt_of_fin a 32 (by decide)]))
theorem mtcWmdata (a : Reg) : Statement (.mtcWmdata a) := fun _ h =>
  wide rfl rfl rfl ((major_decodeSys _).trans (by simp only [decodeSys, bitsAt_head, bitsAt_tail, checked_wf h, Nat.le_refl, Nat.reduceLeDiff, Nat.reduceSub, Nat.reducePow, Nat.reduceMod, reduceIte, and_self, Nat.reduceEqDiff, and_false, finAt, lt_of_fin a 32 (by decide)]))
theorem trap (n : BitVec 12) : Statement (.trap n) := fun _ h =>
  wide rfl rfl rfl ((major_decodeSys _).trans (by simp only [decodeSys, bitsAt_head, bitsAt_tail, checked_wf h, Nat.le_refl, Nat.reduceLeDiff, Nat.reduceSub, Nat.reducePow, Nat.reduceMod, reduceIte, bvAt, Nat.mod_eq_of_lt n.isLt, bv_of]))
theorem sys (n : BitVec 12) : Statement (.sys n) := fun _ h =>
  wide rfl rfl rfl ((major_decodeSys _).trans (by simp only [decodeSys, bitsAt_head, bitsAt_tail, checked_wf h, Nat.le_refl, Nat.reduceLeDiff, Nat.reduceSub, Nat.reducePow, Nat.reduceMod, reduceIte, bvAt, Nat.mod_eq_of_lt n.isLt, bv_of]))
theorem eret : Statement (.eret) := fun _ h =>
  wide rfl rfl rfl ((major_decodeSys _).trans (by simp only [decodeSys, bitsAt_head, bitsAt_tail, checked_wf h, Nat.le_refl, Nat.reduceLeDiff, Nat.reduceSub, Nat.reducePow, Nat.reduceMod, reduceIte, and_self]))
theorem vadd (d : VReg) (a : VReg) (b : VReg) (k : MReg) (e : Bool) (z : Bool) : Statement (.vadd d a b k e z) := fun _ h =>
  wide rfl rfl rfl ((major_decodeValu _).trans (by simp only [decodeValu, bitsAt_head, bitsAt_tail, checked_wf h, Nat.le_refl, Nat.reduceLeDiff, Nat.reduceSub, Nat.reducePow, Nat.reduceMod, finAt, bitAt, lt_of_fin d 16 (by decide), lt_of_fin a 16 (by decide), lt_of_fin b 16 (by decide), lt_of_fin k 8 (by decide), bool_mod, bool_eq]))
theorem vsub (d : VReg) (a : VReg) (b : VReg) (k : MReg) (e : Bool) (z : Bool) : Statement (.vsub d a b k e z) := fun _ h =>
  wide rfl rfl rfl ((major_decodeValu _).trans (by simp only [decodeValu, bitsAt_head, bitsAt_tail, checked_wf h, Nat.le_refl, Nat.reduceLeDiff, Nat.reduceSub, Nat.reducePow, Nat.reduceMod, finAt, bitAt, lt_of_fin d 16 (by decide), lt_of_fin a 16 (by decide), lt_of_fin b 16 (by decide), lt_of_fin k 8 (by decide), bool_mod, bool_eq]))
theorem vmul (d : VReg) (a : VReg) (b : VReg) (k : MReg) (e : Bool) (z : Bool) : Statement (.vmul d a b k e z) := fun _ h =>
  wide rfl rfl rfl ((major_decodeValu _).trans (by simp only [decodeValu, bitsAt_head, bitsAt_tail, checked_wf h, Nat.le_refl, Nat.reduceLeDiff, Nat.reduceSub, Nat.reducePow, Nat.reduceMod, finAt, bitAt, lt_of_fin d 16 (by decide), lt_of_fin a 16 (by decide), lt_of_fin b 16 (by decide), lt_of_fin k 8 (by decide), bool_mod, bool_eq]))
theorem vmac (d : VReg) (a : VReg) (b : VReg) (k : MReg) (e : Bool) (z : Bool) : Statement (.vmac d a b k e z) := fun _ h =>
  wide rfl rfl rfl ((major_decodeValu _).trans (by simp only [decodeValu, bitsAt_head, bitsAt_tail, checked_wf h, Nat.le_refl, Nat.reduceLeDiff, Nat.reduceSub, Nat.reducePow, Nat.reduceMod, finAt, bitAt, lt_of_fin d 16 (by decide), lt_of_fin a 16 (by decide), lt_of_fin b 16 (by decide), lt_of_fin k 8 (by decide), bool_mod, bool_eq]))
theorem vmin (d : VReg) (a : VReg) (b : VReg) (k : MReg) (e : Bool) (z : Bool) : Statement (.vmin d a b k e z) := fun _ h =>
  wide rfl rfl rfl ((major_decodeValu _).trans (by simp only [decodeValu, bitsAt_head, bitsAt_tail, checked_wf h, Nat.le_refl, Nat.reduceLeDiff, Nat.reduceSub, Nat.reducePow, Nat.reduceMod, finAt, bitAt, lt_of_fin d 16 (by decide), lt_of_fin a 16 (by decide), lt_of_fin b 16 (by decide), lt_of_fin k 8 (by decide), bool_mod, bool_eq]))
theorem vmax (d : VReg) (a : VReg) (b : VReg) (k : MReg) (e : Bool) (z : Bool) : Statement (.vmax d a b k e z) := fun _ h =>
  wide rfl rfl rfl ((major_decodeValu _).trans (by simp only [decodeValu, bitsAt_head, bitsAt_tail, checked_wf h, Nat.le_refl, Nat.reduceLeDiff, Nat.reduceSub, Nat.reducePow, Nat.reduceMod, finAt, bitAt, lt_of_fin d 16 (by decide), lt_of_fin a 16 (by decide), lt_of_fin b 16 (by decide), lt_of_fin k 8 (by decide), bool_mod, bool_eq]))
theorem vand (d : VReg) (a : VReg) (b : VReg) (k : MReg) (e : Bool) (z : Bool) : Statement (.vand d a b k e z) := fun _ h =>
  wide rfl rfl rfl ((major_decodeValu _).trans (by simp only [decodeValu, bitsAt_head, bitsAt_tail, checked_wf h, Nat.le_refl, Nat.reduceLeDiff, Nat.reduceSub, Nat.reducePow, Nat.reduceMod, finAt, bitAt, lt_of_fin d 16 (by decide), lt_of_fin a 16 (by decide), lt_of_fin b 16 (by decide), lt_of_fin k 8 (by decide), bool_mod, bool_eq]))
theorem vor (d : VReg) (a : VReg) (b : VReg) (k : MReg) (e : Bool) (z : Bool) : Statement (.vor d a b k e z) := fun _ h =>
  wide rfl rfl rfl ((major_decodeValu _).trans (by simp only [decodeValu, bitsAt_head, bitsAt_tail, checked_wf h, Nat.le_refl, Nat.reduceLeDiff, Nat.reduceSub, Nat.reducePow, Nat.reduceMod, finAt, bitAt, lt_of_fin d 16 (by decide), lt_of_fin a 16 (by decide), lt_of_fin b 16 (by decide), lt_of_fin k 8 (by decide), bool_mod, bool_eq]))
theorem vxor (d : VReg) (a : VReg) (b : VReg) (k : MReg) (e : Bool) (z : Bool) : Statement (.vxor d a b k e z) := fun _ h =>
  wide rfl rfl rfl ((major_decodeValu _).trans (by simp only [decodeValu, bitsAt_head, bitsAt_tail, checked_wf h, Nat.le_refl, Nat.reduceLeDiff, Nat.reduceSub, Nat.reducePow, Nat.reduceMod, finAt, bitAt, lt_of_fin d 16 (by decide), lt_of_fin a 16 (by decide), lt_of_fin b 16 (by decide), lt_of_fin k 8 (by decide), bool_mod, bool_eq]))
theorem vshLl (d : VReg) (a : VReg) (b : VReg) (k : MReg) (e : Bool) (z : Bool) : Statement (.vshLl d a b k e z) := fun _ h =>
  wide rfl rfl rfl ((major_decodeValu _).trans (by simp only [decodeValu, bitsAt_head, bitsAt_tail, checked_wf h, Nat.le_refl, Nat.reduceLeDiff, Nat.reduceSub, Nat.reducePow, Nat.reduceMod, finAt, bitAt, lt_of_fin d 16 (by decide), lt_of_fin a 16 (by decide), lt_of_fin b 16 (by decide), lt_of_fin k 8 (by decide), bool_mod, bool_eq]))
theorem vshRl (d : VReg) (a : VReg) (b : VReg) (k : MReg) (e : Bool) (z : Bool) : Statement (.vshRl d a b k e z) := fun _ h =>
  wide rfl rfl rfl ((major_decodeValu _).trans (by simp only [decodeValu, bitsAt_head, bitsAt_tail, checked_wf h, Nat.le_refl, Nat.reduceLeDiff, Nat.reduceSub, Nat.reducePow, Nat.reduceMod, finAt, bitAt, lt_of_fin d 16 (by decide), lt_of_fin a 16 (by decide), lt_of_fin b 16 (by decide), lt_of_fin k 8 (by decide), bool_mod, bool_eq]))
theorem vshRa (d : VReg) (a : VReg) (b : VReg) (k : MReg) (e : Bool) (z : Bool) : Statement (.vshRa d a b k e z) := fun _ h =>
  wide rfl rfl rfl ((major_decodeValu _).trans (by simp only [decodeValu, bitsAt_head, bitsAt_tail, checked_wf h, Nat.le_refl, Nat.reduceLeDiff, Nat.reduceSub, Nat.reducePow, Nat.reduceMod, finAt, bitAt, lt_of_fin d 16 (by decide), lt_of_fin a 16 (by decide), lt_of_fin b 16 (by decide), lt_of_fin k 8 (by decide), bool_mod, bool_eq]))
theorem vcmpEq (d : MReg) (a : VReg) (b : VReg) (k : MReg) (e : Bool) (z : Bool) : Statement (.vcmpEq d a b k e z) := fun _ h =>
  wide rfl rfl rfl ((major_decodeValu _).trans (by simp only [decodeValu, bitsAt_head, bitsAt_tail, checked_wf h, Nat.le_refl, Nat.reduceLeDiff, Nat.reduceSub, Nat.reducePow, Nat.reduceMod, reduceIte, finAt, bitAt, lt_of_fin d 8 (by decide), lt_of_fin a 16 (by decide), lt_of_fin b 16 (by decide), lt_of_fin k 8 (by decide), bool_mod, bool_eq]))
theorem vcmpLt (d : MReg) (a : VReg) (b : VReg) (k : MReg) (e : Bool) (z : Bool) : Statement (.vcmpLt d a b k e z) := fun _ h =>
  wide rfl rfl rfl ((major_decodeValu _).trans (by simp only [decodeValu, bitsAt_head, bitsAt_tail, checked_wf h, Nat.le_refl, Nat.reduceLeDiff, Nat.reduceSub, Nat.reducePow, Nat.reduceMod, reduceIte, finAt, bitAt, lt_of_fin d 8 (by decide), lt_of_fin a 16 (by decide), lt_of_fin b 16 (by decide), lt_of_fin k 8 (by decide), bool_mod, bool_eq]))
theorem vcmpLtu (d : MReg) (a : VReg) (b : VReg) (k : MReg) (e : Bool) (z : Bool) : Statement (.vcmpLtu d a b k e z) := fun _ h =>
  wide rfl rfl rfl ((major_decodeValu _).trans (by simp only [decodeValu, bitsAt_head, bitsAt_tail, checked_wf h, Nat.le_refl, Nat.reduceLeDiff, Nat.reduceSub, Nat.reducePow, Nat.reduceMod, reduceIte, finAt, bitAt, lt_of_fin d 8 (by decide), lt_of_fin a 16 (by decide), lt_of_fin b 16 (by decide), lt_of_fin k 8 (by decide), bool_mod, bool_eq]))
theorem vsel (d : VReg) (a : VReg) (b : VReg) (k : MReg) : Statement (.vsel d a b k) := fun _ h =>
  wide rfl rfl rfl ((major_decodeValu _).trans (by simp only [decodeValu, bitsAt_head, bitsAt_tail, checked_wf h, Nat.le_refl, Nat.reduceLeDiff, Nat.reduceSub, Nat.reducePow, Nat.reduceMod, reduceIte, and_self, finAt, lt_of_fin d 16 (by decide), lt_of_fin a 16 (by decide), lt_of_fin b 16 (by decide), lt_of_fin k 8 (by decide)]))
theorem vcmul (d : VReg) (a : VReg) (b : VReg) (k : MReg) (e : Bool) (z : Bool) : Statement (.vcmul d a b k e z) := fun _ h =>
  wide rfl rfl rfl ((major_decodeValu _).trans (by simp only [decodeValu, bitsAt_head, bitsAt_tail, checked_wf h, Nat.le_refl, Nat.reduceLeDiff, Nat.reduceSub, Nat.reducePow, Nat.reduceMod, finAt, bitAt, lt_of_fin d 16 (by decide), lt_of_fin a 16 (by decide), lt_of_fin b 16 (by decide), lt_of_fin k 8 (by decide), bool_mod, bool_eq]))
theorem vcmac (d : VReg) (a : VReg) (b : VReg) (k : MReg) (e : Bool) (z : Bool) : Statement (.vcmac d a b k e z) := fun _ h =>
  wide rfl rfl rfl ((major_decodeValu _).trans (by simp only [decodeValu, bitsAt_head, bitsAt_tail, checked_wf h, Nat.le_refl, Nat.reduceLeDiff, Nat.reduceSub, Nat.reducePow, Nat.reduceMod, finAt, bitAt, lt_of_fin d 16 (by decide), lt_of_fin a 16 (by decide), lt_of_fin b 16 (by decide), lt_of_fin k 8 (by decide), bool_mod, bool_eq]))
theorem vredAdd (d : VReg) (a : VReg) (k : MReg) (e : Bool) : Statement (.vredAdd d a k e) := fun _ h =>
  wide rfl rfl rfl ((major_decodeValu _).trans (by simp only [decodeValu, bitsAt_head, bitsAt_tail, checked_wf h, Nat.le_refl, Nat.reduceLeDiff, Nat.reduceSub, Nat.reducePow, Nat.reduceMod, reduceIte, finAt, bitAt, lt_of_fin d 16 (by decide), lt_of_fin a 16 (by decide), lt_of_fin k 8 (by decide), bool_mod, bool_eq]))
theorem vredMin (d : VReg) (a : VReg) (k : MReg) (e : Bool) : Statement (.vredMin d a k e) := fun _ h =>
  wide rfl rfl rfl ((major_decodeValu _).trans (by simp only [decodeValu, bitsAt_head, bitsAt_tail, checked_wf h, Nat.le_refl, Nat.reduceLeDiff, Nat.reduceSub, Nat.reducePow, Nat.reduceMod, reduceIte, finAt, bitAt, lt_of_fin d 16 (by decide), lt_of_fin a 16 (by decide), lt_of_fin k 8 (by decide), bool_mod, bool_eq]))
theorem vredMax (d : VReg) (a : VReg) (k : MReg) (e : Bool) : Statement (.vredMax d a k e) := fun _ h =>
  wide rfl rfl rfl ((major_decodeValu _).trans (by simp only [decodeValu, bitsAt_head, bitsAt_tail, checked_wf h, Nat.le_refl, Nat.reduceLeDiff, Nat.reduceSub, Nat.reducePow, Nat.reduceMod, reduceIte, finAt, bitAt, lt_of_fin d 16 (by decide), lt_of_fin a 16 (by decide), lt_of_fin k 8 (by decide), bool_mod, bool_eq]))
theorem vredFadd (d : VReg) (a : VReg) (k : MReg) (e : Bool) : Statement (.vredFadd d a k e) := fun _ h =>
  wide rfl rfl rfl ((major_decodeValu _).trans (by simp only [decodeValu, bitsAt_head, bitsAt_tail, checked_wf h, Nat.le_refl, Nat.reduceLeDiff, Nat.reduceSub, Nat.reducePow, Nat.reduceMod, reduceIte, finAt, bitAt, lt_of_fin d 16 (by decide), lt_of_fin a 16 (by decide), lt_of_fin k 8 (by decide), bool_mod, bool_eq]))
theorem vperm (d : VReg) (a : VReg) (b : VReg) (k : MReg) (e : Bool) (z : Bool) : Statement (.vperm d a b k e z) := fun _ h =>
  wide rfl rfl rfl ((major_decodeValu _).trans (by simp only [decodeValu, bitsAt_head, bitsAt_tail, checked_wf h, Nat.le_refl, Nat.reduceLeDiff, Nat.reduceSub, Nat.reducePow, Nat.reduceMod, finAt, bitAt, lt_of_fin d 16 (by decide), lt_of_fin a 16 (by decide), lt_of_fin b 16 (by decide), lt_of_fin k 8 (by decide), bool_mod, bool_eq]))
theorem vmv (d : VReg) (a : VReg) (k : MReg) (e : Bool) (z : Bool) : Statement (.vmv d a k e z) := fun _ h =>
  wide rfl rfl rfl ((major_decodeValu _).trans (by simp only [decodeValu, bitsAt_head, bitsAt_tail, checked_wf h, Nat.le_refl, Nat.reduceLeDiff, Nat.reduceSub, Nat.reducePow, Nat.reduceMod, reduceIte, Nat.reduceEqDiff, and_false, finAt, bitAt, lt_of_fin d 16 (by decide), lt_of_fin a 16 (by decide), lt_of_fin k 8 (by decide), bool_mod, bool_eq, vmv_not_x z k]))
theorem vmvBc (d : VReg) (a : LowReg) (k : MReg) (e : Bool) (z : Bool) : Statement (.vmvBc d a k e z) := fun _ h =>
  wide rfl rfl rfl ((major_decodeValu _).trans (by simp only [decodeValu, bitsAt_head, bitsAt_tail, checked_wf h, Nat.le_refl, Nat.reduceLeDiff, Nat.reduceSub, Nat.reducePow, Nat.reduceMod, reduceIte, Nat.reduceEqDiff, and_false, finAt, bitAt, lt_of_fin d 16 (by decide), lt_of_fin a 16 (by decide), lt_of_fin k 8 (by decide), bool_mod, bool_eq, vmvBc_not_x z k]))
theorem vmvX (d : LowReg) (a : VReg) : Statement (.vmvX d a) := fun _ h =>
  wide rfl rfl rfl ((major_decodeValu _).trans (by simp only [decodeValu, bitsAt_head, bitsAt_tail, checked_wf h, Nat.le_refl, Nat.reduceLeDiff, Nat.reduceSub, Nat.reducePow, Nat.reduceMod, reduceIte, and_self, finAt, lt_of_fin d 16 (by decide), lt_of_fin a 16 (by decide)]))
theorem vfadd (d : VReg) (a : VReg) (b : VReg) (k : MReg) (e : Bool) (z : Bool) (f : FpFmt) : Statement (.vfadd d a b k e z f) := fun _ h =>
  wide rfl rfl rfl ((major_decodeVfp _).trans (by simp only [decodeVfp, bitsAt_head, bitsAt_tail, checked_wf h, Nat.le_refl, Nat.reduceLeDiff, Nat.reduceSub, Nat.reducePow, Nat.reduceMod, finAt, bitAt, withField_some, lt_of_fin d 16 (by decide), lt_of_fin a 16 (by decide), lt_of_fin b 16 (by decide), lt_of_fin k 8 (by decide), bool_mod, bool_eq, fpFmt_mod, fpFmt_code]))
theorem vfmul (d : VReg) (a : VReg) (b : VReg) (k : MReg) (e : Bool) (z : Bool) (f : FpFmt) : Statement (.vfmul d a b k e z f) := fun _ h =>
  wide rfl rfl rfl ((major_decodeVfp _).trans (by simp only [decodeVfp, bitsAt_head, bitsAt_tail, checked_wf h, Nat.le_refl, Nat.reduceLeDiff, Nat.reduceSub, Nat.reducePow, Nat.reduceMod, finAt, bitAt, withField_some, lt_of_fin d 16 (by decide), lt_of_fin a 16 (by decide), lt_of_fin b 16 (by decide), lt_of_fin k 8 (by decide), bool_mod, bool_eq, fpFmt_mod, fpFmt_code]))
theorem vfma (d : VReg) (a : VReg) (b : VReg) (k : MReg) (e : Bool) (z : Bool) (f : FpFmt) : Statement (.vfma d a b k e z f) := fun _ h =>
  wide rfl rfl rfl ((major_decodeVfp _).trans (by simp only [decodeVfp, bitsAt_head, bitsAt_tail, checked_wf h, Nat.le_refl, Nat.reduceLeDiff, Nat.reduceSub, Nat.reducePow, Nat.reduceMod, finAt, bitAt, withField_some, lt_of_fin d 16 (by decide), lt_of_fin a 16 (by decide), lt_of_fin b 16 (by decide), lt_of_fin k 8 (by decide), bool_mod, bool_eq, fpFmt_mod, fpFmt_code]))
theorem vfmin (d : VReg) (a : VReg) (b : VReg) (k : MReg) (e : Bool) (z : Bool) (f : FpFmt) : Statement (.vfmin d a b k e z f) := fun _ h =>
  wide rfl rfl rfl ((major_decodeVfp _).trans (by simp only [decodeVfp, bitsAt_head, bitsAt_tail, checked_wf h, Nat.le_refl, Nat.reduceLeDiff, Nat.reduceSub, Nat.reducePow, Nat.reduceMod, finAt, bitAt, withField_some, lt_of_fin d 16 (by decide), lt_of_fin a 16 (by decide), lt_of_fin b 16 (by decide), lt_of_fin k 8 (by decide), bool_mod, bool_eq, fpFmt_mod, fpFmt_code]))
theorem vfmax (d : VReg) (a : VReg) (b : VReg) (k : MReg) (e : Bool) (z : Bool) (f : FpFmt) : Statement (.vfmax d a b k e z f) := fun _ h =>
  wide rfl rfl rfl ((major_decodeVfp _).trans (by simp only [decodeVfp, bitsAt_head, bitsAt_tail, checked_wf h, Nat.le_refl, Nat.reduceLeDiff, Nat.reduceSub, Nat.reducePow, Nat.reduceMod, finAt, bitAt, withField_some, lt_of_fin d 16 (by decide), lt_of_fin a 16 (by decide), lt_of_fin b 16 (by decide), lt_of_fin k 8 (by decide), bool_mod, bool_eq, fpFmt_mod, fpFmt_code]))
theorem vcvt (d : VReg) (a : VReg) (c : Fin 12) (k : MReg) (e : Bool) (z : Bool) : Statement (.vcvt d a c k e z) := fun _ h =>
  wide rfl rfl rfl ((major_decodeVfp _).trans (by
    rcases vcvt_high c with hc | hc | hc <;>
      simp only [decodeVfp, bitsAt_head, bitsAt_tail, checked_wf h, Nat.le_refl, Nat.reduceLeDiff, Nat.reduceSub, Nat.reducePow, Nat.reduceMod, reduceIte, and_self, Nat.reduceEqDiff, and_false, false_and, finAt, bitAt, lt_of_fin d 16 (by decide), lt_of_fin a 16 (by decide), lt_of_fin c 16 (by decide), lt_of_fin k 8 (by decide), bool_mod, bool_eq, vcvt_code, withField_some, hc]))
theorem vld (d : VReg) (a : Reg) (k : MReg) (e : Bool) (z : Bool) (ta : Bool) (tb : Bool) : Statement (.vld d a k e z ta tb) := fun _ h =>
  wide rfl rfl rfl ((major_decodeVmem _).trans (by simp only [decodeVmem, bitsAt_head, bitsAt_tail, checked_wf h, Nat.le_refl, Nat.reduceLeDiff, Nat.reduceSub, Nat.reducePow, Nat.reduceMod, reduceIte, and_self, finAt, bitAt, lt_of_fin d 16 (by decide), lt_of_fin a 32 (by decide), lt_of_fin k 8 (by decide), bool_mod, bool_eq]))
theorem vst (d : VReg) (a : Reg) (k : MReg) (e : Bool) (ta : Bool) (tb : Bool) : Statement (.vst d a k e ta tb) := fun _ h =>
  wide rfl rfl rfl ((major_decodeVmem _).trans (by simp only [decodeVmem, bitsAt_head, bitsAt_tail, checked_wf h, Nat.le_refl, Nat.reduceLeDiff, Nat.reduceSub, Nat.reducePow, Nat.reduceMod, reduceIte, and_self, finAt, bitAt, lt_of_fin d 16 (by decide), lt_of_fin a 32 (by decide), lt_of_fin k 8 (by decide), bool_mod, bool_eq]))
theorem vlds (d : VReg) (a : Reg) (b : Reg) (k : MReg) (e : Bool) (z : Bool) (ta : Bool) (tb : Bool) : Statement (.vlds d a b k e z ta tb) := fun _ h =>
  wide rfl rfl rfl ((major_decodeVmem _).trans (by simp only [decodeVmem, bitsAt_head, bitsAt_tail, checked_wf h, Nat.le_refl, Nat.reduceLeDiff, Nat.reduceSub, Nat.reducePow, Nat.reduceMod, reduceIte, finAt, bitAt, lt_of_fin d 16 (by decide), lt_of_fin a 32 (by decide), lt_of_fin b 32 (by decide), lt_of_fin k 8 (by decide), bool_mod, bool_eq]))
theorem vldx (d : VReg) (a : Reg) (b : VReg) (k : MReg) (e : Bool) (z : Bool) (ta : Bool) (tb : Bool) : Statement (.vldx d a b k e z ta tb) := fun _ h =>
  wide rfl rfl rfl ((major_decodeVmem _).trans (by simp only [decodeVmem, bitsAt_head, bitsAt_tail, checked_wf h, Nat.le_refl, Nat.reduceLeDiff, Nat.reduceSub, Nat.reducePow, Nat.reduceMod, reduceIte, and_self, finAt, bitAt, lt_of_fin d 16 (by decide), lt_of_fin a 32 (by decide), lt_of_fin b 16 (by decide), lt_of_fin k 8 (by decide), bool_mod, bool_eq]))
theorem vstx (d : VReg) (a : Reg) (b : VReg) (k : MReg) (e : Bool) (ta : Bool) (tb : Bool) : Statement (.vstx d a b k e ta tb) := fun _ h =>
  wide rfl rfl rfl ((major_decodeVmem _).trans (by simp only [decodeVmem, bitsAt_head, bitsAt_tail, checked_wf h, Nat.le_refl, Nat.reduceLeDiff, Nat.reduceSub, Nat.reducePow, Nat.reduceMod, reduceIte, and_self, finAt, bitAt, lt_of_fin d 16 (by decide), lt_of_fin a 32 (by decide), lt_of_fin b 16 (by decide), lt_of_fin k 8 (by decide), bool_mod, bool_eq]))
theorem vclaim (d : Reg) (a : Reg) (b : Reg) (ta : Bool) (tb : Bool) : Statement (.vclaim d a b ta tb) := fun _ h =>
  wide rfl rfl rfl ((major_decodeVctl _).trans (by simp only [decodeVctl, bitsAt_head, bitsAt_tail, checked_wf h, Nat.le_refl, Nat.reduceLeDiff, Nat.reduceSub, Nat.reducePow, Nat.reduceMod, finAt, bitAt, lt_of_fin d 32 (by decide), lt_of_fin a 32 (by decide), lt_of_fin b 32 (by decide), bool_mod, bool_eq]))
theorem vrel (ta : Bool) (tb : Bool) : Statement (.vrel ta tb) := fun _ h =>
  wide rfl rfl rfl ((major_decodeVctl _).trans (by simp only [decodeVctl, bitsAt_head, bitsAt_tail, checked_wf h, Nat.le_refl, Nat.reduceLeDiff, Nat.reduceSub, Nat.reducePow, Nat.reduceMod, reduceIte, bitAt, bool_mod, bool_eq]))
theorem vsync (d : Reg) (a : Reg) (b : Reg) (ta : Bool) (tb : Bool) : Statement (.vsync d a b ta tb) := fun _ h =>
  wide rfl rfl rfl ((major_decodeVctl _).trans (by simp only [decodeVctl, bitsAt_head, bitsAt_tail, checked_wf h, Nat.le_refl, Nat.reduceLeDiff, Nat.reduceSub, Nat.reducePow, Nat.reduceMod, finAt, bitAt, lt_of_fin d 32 (by decide), lt_of_fin a 32 (by decide), lt_of_fin b 32 (by decide), bool_mod, bool_eq]))
theorem mand (d : MReg) (a : MReg) (b : MReg) (ta : Bool) (tb : Bool) : Statement (.mand d a b ta tb) := fun _ h =>
  wide rfl rfl rfl ((major_decodeVctl _).trans (by simp only [decodeVctl, bitsAt_head, bitsAt_tail, checked_wf h, Nat.le_refl, Nat.reduceLeDiff, Nat.reduceSub, Nat.reducePow, Nat.reduceMod, reduceIte, and_self, finAt, bitAt, lt_of_fin d 8 (by decide), lt_of_fin a 8 (by decide), lt_of_fin b 8 (by decide), bool_mod, bool_eq]))
theorem mor (d : MReg) (a : MReg) (b : MReg) (ta : Bool) (tb : Bool) : Statement (.mor d a b ta tb) := fun _ h =>
  wide rfl rfl rfl ((major_decodeVctl _).trans (by simp only [decodeVctl, bitsAt_head, bitsAt_tail, checked_wf h, Nat.le_refl, Nat.reduceLeDiff, Nat.reduceSub, Nat.reducePow, Nat.reduceMod, reduceIte, and_self, finAt, bitAt, lt_of_fin d 8 (by decide), lt_of_fin a 8 (by decide), lt_of_fin b 8 (by decide), bool_mod, bool_eq]))
theorem mnot (d : MReg) (a : MReg) (ta : Bool) (tb : Bool) : Statement (.mnot d a ta tb) := fun _ h =>
  wide rfl rfl rfl ((major_decodeVctl _).trans (by simp only [decodeVctl, bitsAt_head, bitsAt_tail, checked_wf h, Nat.le_refl, Nat.reduceLeDiff, Nat.reduceSub, Nat.reducePow, Nat.reduceMod, reduceIte, and_self, finAt, bitAt, lt_of_fin d 8 (by decide), lt_of_fin a 8 (by decide), bool_mod, bool_eq]))
theorem vsfuExp2 (d : VReg) (a : VReg) (k : MReg) (e : Bool) (z : Bool) : Statement (.vsfuExp2 d a k e z) := fun _ h =>
  wide rfl rfl rfl ((major_decodeVsfu _).trans (by simp only [decodeVsfu, bitsAt_head, bitsAt_tail, checked_wf h, Nat.le_refl, Nat.reduceLeDiff, Nat.reduceSub, Nat.reducePow, Nat.reduceMod, reduceIte, finAt, bitAt, lt_of_fin d 16 (by decide), lt_of_fin a 16 (by decide), lt_of_fin k 8 (by decide), bool_mod, bool_eq]))
theorem vsfuLog2 (d : VReg) (a : VReg) (k : MReg) (e : Bool) (z : Bool) : Statement (.vsfuLog2 d a k e z) := fun _ h =>
  wide rfl rfl rfl ((major_decodeVsfu _).trans (by simp only [decodeVsfu, bitsAt_head, bitsAt_tail, checked_wf h, Nat.le_refl, Nat.reduceLeDiff, Nat.reduceSub, Nat.reducePow, Nat.reduceMod, reduceIte, finAt, bitAt, lt_of_fin d 16 (by decide), lt_of_fin a 16 (by decide), lt_of_fin k 8 (by decide), bool_mod, bool_eq]))
theorem vsfuRcp (d : VReg) (a : VReg) (k : MReg) (e : Bool) (z : Bool) : Statement (.vsfuRcp d a k e z) := fun _ h =>
  wide rfl rfl rfl ((major_decodeVsfu _).trans (by simp only [decodeVsfu, bitsAt_head, bitsAt_tail, checked_wf h, Nat.le_refl, Nat.reduceLeDiff, Nat.reduceSub, Nat.reducePow, Nat.reduceMod, reduceIte, finAt, bitAt, lt_of_fin d 16 (by decide), lt_of_fin a 16 (by decide), lt_of_fin k 8 (by decide), bool_mod, bool_eq]))
theorem vsfuRsqrt (d : VReg) (a : VReg) (k : MReg) (e : Bool) (z : Bool) : Statement (.vsfuRsqrt d a k e z) := fun _ h =>
  wide rfl rfl rfl ((major_decodeVsfu _).trans (by simp only [decodeVsfu, bitsAt_head, bitsAt_tail, checked_wf h, Nat.le_refl, Nat.reduceLeDiff, Nat.reduceSub, Nat.reducePow, Nat.reduceMod, reduceIte, finAt, bitAt, lt_of_fin d 16 (by decide), lt_of_fin a 16 (by decide), lt_of_fin k 8 (by decide), bool_mod, bool_eq]))
theorem vsfuSin (d : VReg) (a : VReg) (k : MReg) (e : Bool) (z : Bool) : Statement (.vsfuSin d a k e z) := fun _ h =>
  wide rfl rfl rfl ((major_decodeVsfu _).trans (by simp only [decodeVsfu, bitsAt_head, bitsAt_tail, checked_wf h, Nat.le_refl, Nat.reduceLeDiff, Nat.reduceSub, Nat.reducePow, Nat.reduceMod, reduceIte, finAt, bitAt, lt_of_fin d 16 (by decide), lt_of_fin a 16 (by decide), lt_of_fin k 8 (by decide), bool_mod, bool_eq]))
theorem vsfuCos (d : VReg) (a : VReg) (k : MReg) (e : Bool) (z : Bool) : Statement (.vsfuCos d a k e z) := fun _ h =>
  wide rfl rfl rfl ((major_decodeVsfu _).trans (by simp only [decodeVsfu, bitsAt_head, bitsAt_tail, checked_wf h, Nat.le_refl, Nat.reduceLeDiff, Nat.reduceSub, Nat.reducePow, Nat.reduceMod, reduceIte, finAt, bitAt, lt_of_fin d 16 (by decide), lt_of_fin a 16 (by decide), lt_of_fin k 8 (by decide), bool_mod, bool_eq]))
theorem vsfuTanh (d : VReg) (a : VReg) (k : MReg) (e : Bool) (z : Bool) : Statement (.vsfuTanh d a k e z) := fun _ h =>
  wide rfl rfl rfl ((major_decodeVsfu _).trans (by simp only [decodeVsfu, bitsAt_head, bitsAt_tail, checked_wf h, Nat.le_refl, Nat.reduceLeDiff, Nat.reduceSub, Nat.reducePow, Nat.reduceMod, reduceIte, finAt, bitAt, lt_of_fin d 16 (by decide), lt_of_fin a 16 (by decide), lt_of_fin k 8 (by decide), bool_mod, bool_eq]))
theorem vsfuSigmoid (d : VReg) (a : VReg) (k : MReg) (e : Bool) (z : Bool) : Statement (.vsfuSigmoid d a k e z) := fun _ h =>
  wide rfl rfl rfl ((major_decodeVsfu _).trans (by simp only [decodeVsfu, bitsAt_head, bitsAt_tail, checked_wf h, Nat.le_refl, Nat.reduceLeDiff, Nat.reduceSub, Nat.reducePow, Nat.reduceMod, reduceIte, finAt, bitAt, lt_of_fin d 16 (by decide), lt_of_fin a 16 (by decide), lt_of_fin k 8 (by decide), bool_mod, bool_eq]))
theorem vbflyR2 (d : VReg) (a : VReg) (b : VReg) (scl : Bool) : Statement (.vbflyR2 d a b scl) := fun _ h =>
  wide rfl rfl rfl ((major_decodeVsfu _).trans (by simp only [decodeVsfu, bitsAt_head, bitsAt_tail, checked_wf h, Nat.le_refl, Nat.reduceLeDiff, Nat.reduceSub, Nat.reducePow, Nat.reduceMod, reduceIte, and_self, finAt, bitAt, lt_of_fin d 16 (by decide), lt_of_fin a 16 (by decide), lt_of_fin b 16 (by decide), bool_mod, bool_eq]))
theorem vbflyR4 (d : VReg) (a : VReg) (b : VReg) (scl : Bool) : Statement (.vbflyR4 d a b scl) := fun _ h =>
  wide rfl rfl rfl ((major_decodeVsfu _).trans (by simp only [decodeVsfu, bitsAt_head, bitsAt_tail, checked_wf h, Nat.le_refl, Nat.reduceLeDiff, Nat.reduceSub, Nat.reducePow, Nat.reduceMod, reduceIte, and_self, finAt, bitAt, lt_of_fin d 16 (by decide), lt_of_fin a 16 (by decide), lt_of_fin b 16 (by decide), bool_mod, bool_eq]))
theorem rack (d : Reg) (a : Reg) : Statement (.rack d a) := fun _ h =>
  wide rfl rfl rfl ((major_decodeRack _).trans (by simp only [decodeRack, bitsAt_head, bitsAt_tail, checked_wf h, Nat.le_refl, Nat.reduceLeDiff, Nat.reduceSub, Nat.reducePow, Nat.reduceMod, reduceIte, finAt, lt_of_fin d 32 (by decide), lt_of_fin a 32 (by decide)]))
theorem rackv (d : Reg) (a : Reg) (b : Reg) : Statement (.rackv d a b) := fun _ h =>
  wide rfl rfl rfl ((major_decodeRack _).trans (by simp only [decodeRack, bitsAt_head, bitsAt_tail, checked_wf h, Nat.le_refl, Nat.reduceLeDiff, Nat.reduceSub, Nat.reducePow, Nat.reduceMod, reduceIte, finAt, lt_of_fin d 32 (by decide), lt_of_fin a 32 (by decide), lt_of_fin b 32 (by decide)]))
theorem rfenceEngine : Statement (.rfenceEngine) := fun _ h =>
  wide rfl rfl rfl ((major_decodeRack _).trans (by simp only [decodeRack, bitsAt_head, bitsAt_tail, checked_wf h, Nat.le_refl, Nat.reduceLeDiff, Nat.reduceSub, Nat.reducePow, Nat.reduceMod, reduceIte, Nat.reduceEqDiff]))
theorem rfencePartition : Statement (.rfencePartition) := fun _ h =>
  wide rfl rfl rfl ((major_decodeRack _).trans (by simp only [decodeRack, bitsAt_head, bitsAt_tail, checked_wf h, Nat.le_refl, Nat.reduceLeDiff, Nat.reduceSub, Nat.reducePow, Nat.reduceMod, reduceIte, Nat.reduceEqDiff]))
theorem qfence (d : Reg) (a : Reg) : Statement (.qfence d a) := fun _ h =>
  wide rfl rfl rfl ((major_decodeRack _).trans (by simp only [decodeRack, bitsAt_head, bitsAt_tail, checked_wf h, Nat.le_refl, Nat.reduceLeDiff, Nat.reduceSub, Nat.reducePow, Nat.reduceMod, reduceIte, finAt, lt_of_fin d 32 (by decide), lt_of_fin a 32 (by decide)]))
theorem qwait (d : Reg) (a : Reg) : Statement (.qwait d a) := fun _ h =>
  wide rfl rfl rfl ((major_decodeRack _).trans (by simp only [decodeRack, bitsAt_head, bitsAt_tail, checked_wf h, Nat.le_refl, Nat.reduceLeDiff, Nat.reduceSub, Nat.reducePow, Nat.reduceMod, reduceIte, finAt, lt_of_fin d 32 (by decide), lt_of_fin a 32 (by decide)]))
theorem rstat (d : Reg) (a : Reg) : Statement (.rstat d a) := fun _ h =>
  wide rfl rfl rfl ((major_decodeRack _).trans (by simp only [decodeRack, bitsAt_head, bitsAt_tail, checked_wf h, Nat.le_refl, Nat.reduceLeDiff, Nat.reduceSub, Nat.reducePow, Nat.reduceMod, reduceIte, finAt, lt_of_fin d 32 (by decide), lt_of_fin a 32 (by decide)]))
theorem collAllreduce (d : Reg) (a : Reg) : Statement (.collAllreduce d a) := fun _ h =>
  wide rfl rfl rfl ((major_decodeRack _).trans (by simp only [decodeRack, bitsAt_head, bitsAt_tail, checked_wf h, Nat.le_refl, Nat.reduceLeDiff, Nat.reduceSub, Nat.reducePow, Nat.reduceMod, reduceIte, Nat.reduceEqDiff, finAt, lt_of_fin d 32 (by decide), lt_of_fin a 32 (by decide)]))
theorem collAllgather (d : Reg) (a : Reg) : Statement (.collAllgather d a) := fun _ h =>
  wide rfl rfl rfl ((major_decodeRack _).trans (by simp only [decodeRack, bitsAt_head, bitsAt_tail, checked_wf h, Nat.le_refl, Nat.reduceLeDiff, Nat.reduceSub, Nat.reducePow, Nat.reduceMod, reduceIte, Nat.reduceEqDiff, finAt, lt_of_fin d 32 (by decide), lt_of_fin a 32 (by decide)]))
theorem collReducescatter (d : Reg) (a : Reg) : Statement (.collReducescatter d a) := fun _ h =>
  wide rfl rfl rfl ((major_decodeRack _).trans (by simp only [decodeRack, bitsAt_head, bitsAt_tail, checked_wf h, Nat.le_refl, Nat.reduceLeDiff, Nat.reduceSub, Nat.reducePow, Nat.reduceMod, reduceIte, Nat.reduceEqDiff, finAt, lt_of_fin d 32 (by decide), lt_of_fin a 32 (by decide)]))
theorem pmm (d : Reg) (a : Reg) : Statement (.pmm d a) := fun _ h =>
  wide rfl rfl rfl ((major_decodePress _).trans (by simp only [decodePress, bitsAt_head, bitsAt_tail, checked_wf h, Nat.le_refl, Nat.reduceLeDiff, Nat.reduceSub, Nat.reducePow, Nat.reduceMod, reduceIte, finAt, lt_of_fin d 32 (by decide), lt_of_fin a 32 (by decide)]))
theorem pzero (d : Reg) (a : Reg) : Statement (.pzero d a) := fun _ h =>
  wide rfl rfl rfl ((major_decodePress _).trans (by simp only [decodePress, bitsAt_head, bitsAt_tail, checked_wf h, Nat.le_refl, Nat.reduceLeDiff, Nat.reduceSub, Nat.reducePow, Nat.reduceMod, reduceIte, finAt, lt_of_fin d 32 (by decide), lt_of_fin a 32 (by decide)]))
theorem pwait (d : Reg) (a : Reg) : Statement (.pwait d a) := fun _ h =>
  wide rfl rfl rfl ((major_decodePress _).trans (by simp only [decodePress, bitsAt_head, bitsAt_tail, checked_wf h, Nat.le_refl, Nat.reduceLeDiff, Nat.reduceSub, Nat.reducePow, Nat.reduceMod, reduceIte, finAt, lt_of_fin d 32 (by decide), lt_of_fin a 32 (by decide)]))
theorem pprog (d : Reg) (a : Reg) : Statement (.pprog d a) := fun _ h =>
  wide rfl rfl rfl ((major_decodePress _).trans (by simp only [decodePress, bitsAt_head, bitsAt_tail, checked_wf h, Nat.le_refl, Nat.reduceLeDiff, Nat.reduceSub, Nat.reducePow, Nat.reduceMod, reduceIte, finAt, lt_of_fin d 32 (by decide), lt_of_fin a 32 (by decide)]))
theorem tdirPut (d : Reg) (a : Reg) : Statement (.tdirPut d a) := fun _ h =>
  wide rfl rfl rfl ((major_decodeDir _).trans (by simp only [decodeDir, bitsAt_head, bitsAt_tail, checked_wf h, Nat.le_refl, Nat.reduceLeDiff, Nat.reduceSub, Nat.reducePow, Nat.reduceMod, reduceIte, Nat.reduceEqDiff, finAt, lt_of_fin d 32 (by decide), lt_of_fin a 32 (by decide)]))
theorem tdirDel (d : Reg) (a : Reg) : Statement (.tdirDel d a) := fun _ h =>
  wide rfl rfl rfl ((major_decodeDir _).trans (by simp only [decodeDir, bitsAt_head, bitsAt_tail, checked_wf h, Nat.le_refl, Nat.reduceLeDiff, Nat.reduceSub, Nat.reducePow, Nat.reduceMod, reduceIte, Nat.reduceEqDiff, finAt, lt_of_fin d 32 (by decide), lt_of_fin a 32 (by decide)]))
theorem tmove (d : Reg) (a : Reg) (b : Reg) : Statement (.tmove d a b) := fun _ h =>
  wide rfl rfl rfl ((major_decodeDir _).trans (by simp only [decodeDir, bitsAt_head, bitsAt_tail, checked_wf h, Nat.le_refl, Nat.reduceLeDiff, Nat.reduceSub, Nat.reducePow, Nat.reduceMod, reduceIte, finAt, lt_of_fin d 32 (by decide), lt_of_fin a 32 (by decide), lt_of_fin b 32 (by decide)]))
theorem solicitSum (d : Reg) (a : Reg) (b : Reg) : Statement (.solicitSum d a b) := fun _ h =>
  wide rfl rfl rfl ((major_decodeDir _).trans (by simp only [decodeDir, bitsAt_head, bitsAt_tail, checked_wf h, Nat.le_refl, Nat.reduceLeDiff, Nat.reduceSub, Nat.reducePow, Nat.reduceMod, reduceIte, finAt, lt_of_fin d 32 (by decide), lt_of_fin a 32 (by decide), lt_of_fin b 32 (by decide)]))
theorem solicitMin (d : Reg) (a : Reg) (b : Reg) : Statement (.solicitMin d a b) := fun _ h =>
  wide rfl rfl rfl ((major_decodeDir _).trans (by simp only [decodeDir, bitsAt_head, bitsAt_tail, checked_wf h, Nat.le_refl, Nat.reduceLeDiff, Nat.reduceSub, Nat.reducePow, Nat.reduceMod, reduceIte, finAt, lt_of_fin d 32 (by decide), lt_of_fin a 32 (by decide), lt_of_fin b 32 (by decide)]))
theorem solicitMax (d : Reg) (a : Reg) (b : Reg) : Statement (.solicitMax d a b) := fun _ h =>
  wide rfl rfl rfl ((major_decodeDir _).trans (by simp only [decodeDir, bitsAt_head, bitsAt_tail, checked_wf h, Nat.le_refl, Nat.reduceLeDiff, Nat.reduceSub, Nat.reducePow, Nat.reduceMod, reduceIte, finAt, lt_of_fin d 32 (by decide), lt_of_fin a 32 (by decide), lt_of_fin b 32 (by decide)]))
theorem solicitOr (d : Reg) (a : Reg) (b : Reg) : Statement (.solicitOr d a b) := fun _ h =>
  wide rfl rfl rfl ((major_decodeDir _).trans (by simp only [decodeDir, bitsAt_head, bitsAt_tail, checked_wf h, Nat.le_refl, Nat.reduceLeDiff, Nat.reduceSub, Nat.reducePow, Nat.reduceMod, reduceIte, finAt, lt_of_fin d 32 (by decide), lt_of_fin a 32 (by decide), lt_of_fin b 32 (by decide)]))
theorem solicitCount (d : Reg) (a : Reg) (b : Reg) : Statement (.solicitCount d a b) := fun _ h =>
  wide rfl rfl rfl ((major_decodeDir _).trans (by simp only [decodeDir, bitsAt_head, bitsAt_tail, checked_wf h, Nat.le_refl, Nat.reduceLeDiff, Nat.reduceSub, Nat.reducePow, Nat.reduceMod, reduceIte, finAt, lt_of_fin d 32 (by decide), lt_of_fin a 32 (by decide), lt_of_fin b 32 (by decide)]))
theorem answer (a : Reg) : Statement (.answer a) := fun _ h =>
  wide rfl rfl rfl ((major_decodeDir _).trans (by simp only [decodeDir, bitsAt_head, bitsAt_tail, checked_wf h, Nat.le_refl, Nat.reduceLeDiff, Nat.reduceSub, Nat.reducePow, Nat.reduceMod, reduceIte, and_self, finAt, lt_of_fin a 32 (by decide)]))
theorem cwait (d : Reg) : Statement (.cwait d) := fun _ h =>
  wide rfl rfl rfl ((major_decodeDir _).trans (by simp only [decodeDir, bitsAt_head, bitsAt_tail, checked_wf h, Nat.le_refl, Nat.reduceLeDiff, Nat.reduceSub, Nat.reducePow, Nat.reduceMod, reduceIte, finAt, lt_of_fin d 32 (by decide)]))
theorem lbl (d : Reg) (a : Reg) (ta : Bool) (tb : Bool) : Statement (.lbl d a ta tb) := fun _ h =>
  wide rfl rfl rfl ((major_decodeLabelGroup _).trans (by simp only [decodeLabelGroup, bitsAt_head, bitsAt_tail, checked_wf h, Nat.le_refl, Nat.reduceLeDiff, Nat.reduceSub, Nat.reducePow, Nat.reduceMod, reduceIte, finAt, bitAt, lt_of_fin d 32 (by decide), lt_of_fin a 32 (by decide), bool_mod, bool_eq, lbl_not_s a ta tb, lbl_not_m a ta tb, lbl_not_v a ta tb]))
theorem lblV (d : Reg) (a : VReg) (ta : Bool) (tb : Bool) : Statement (.lblV d a ta tb) := fun _ h =>
  wide rfl rfl rfl ((major_decodeLabelGroup _).trans (by simp only [decodeLabelGroup, bitsAt_head, bitsAt_tail, checked_wf h, Nat.le_refl, Nat.reduceLeDiff, Nat.reduceSub, Nat.reducePow, Nat.reduceMod, reduceIte, finAt, bitAt, lt_of_fin d 32 (by decide), lt_of_fin a 16 (by decide), bool_mod, bool_eq, lblV_not_s a ta tb, lblV_not_m a ta tb]))
theorem lblM (d : Reg) (a : MReg) (ta : Bool) (tb : Bool) : Statement (.lblM d a ta tb) := fun _ h =>
  wide rfl rfl rfl ((major_decodeLabelGroup _).trans (by simp only [decodeLabelGroup, bitsAt_head, bitsAt_tail, checked_wf h, Nat.le_refl, Nat.reduceLeDiff, Nat.reduceSub, Nat.reducePow, Nat.reduceMod, reduceIte, finAt, bitAt, lt_of_fin d 32 (by decide), lt_of_fin a 8 (by decide), bool_mod, bool_eq, lblM_not_s a ta tb]))
theorem lblS (d : Reg) (ta : Bool) (tb : Bool) : Statement (.lblS d ta tb) := fun _ h =>
  wide rfl rfl rfl ((major_decodeLabelGroup _).trans (by simp only [decodeLabelGroup, bitsAt_head, bitsAt_tail, checked_wf h, Nat.le_refl, Nat.reduceLeDiff, Nat.reduceSub, Nat.reducePow, Nat.reduceMod, reduceIte, finAt, bitAt, lt_of_fin d 32 (by decide), bool_mod, bool_eq]))
theorem sluice (d : Reg) (a : Reg) (ta : Bool) (tb : Bool) : Statement (.sluice d a ta tb) := fun _ h =>
  wide rfl rfl rfl ((major_decodeLabelGroup _).trans (by simp only [decodeLabelGroup, bitsAt_head, bitsAt_tail, checked_wf h, Nat.le_refl, Nat.reduceLeDiff, Nat.reduceSub, Nat.reducePow, Nat.reduceMod, reduceIte, finAt, bitAt, lt_of_fin d 32 (by decide), lt_of_fin a 32 (by decide), bool_mod, bool_eq]))
theorem launch (d : Reg) (a : Reg) : Statement (.launch d a) := fun _ h =>
  wide rfl rfl rfl ((major_decodeLaunch _).trans (by simp only [decodeLaunch, bitsAt_head, bitsAt_tail, checked_wf h, Nat.le_refl, Nat.reduceLeDiff, Nat.reduceSub, Nat.reducePow, Nat.reduceMod, reduceIte, finAt, lt_of_fin d 32 (by decide), lt_of_fin a 32 (by decide)]))
theorem invoke (d : Reg) (a : Reg) (b : Reg) (prio : Fin 4) : Statement (.invoke d a b prio) := fun _ h =>
  wide rfl rfl rfl ((major_decodeLaunch _).trans (by simp only [decodeLaunch, bitsAt_head, bitsAt_tail, checked_wf h, Nat.le_refl, Nat.reduceLeDiff, Nat.reduceSub, Nat.reducePow, Nat.reduceMod, finAt, lt_of_fin d 32 (by decide), lt_of_fin a 32 (by decide), lt_of_fin b 32 (by decide), lt_of_fin prio 4 (by decide)]))
theorem cAdd (d : Reg) (r : Reg) : Statement (.cAdd d r) := fun _ h =>
  narrow rfl rfl rfl (by simp only [decodeHalf, decodeCompactScalar, bitsAt_head, bitsAt_tail, checked_wf h, Nat.le_refl, Nat.reduceLeDiff, Nat.reduceSub, Nat.reducePow, Nat.reduceMod, reduceIte, Nat.zero_ne_one, finAt, lt_of_fin d 32 (by decide), lt_of_fin r 32 (by decide)])
theorem cSub (d : Reg) (r : Reg) : Statement (.cSub d r) := fun _ h =>
  narrow rfl rfl rfl (by simp only [decodeHalf, decodeCompactScalar, bitsAt_head, bitsAt_tail, checked_wf h, Nat.le_refl, Nat.reduceLeDiff, Nat.reduceSub, Nat.reducePow, Nat.reduceMod, reduceIte, Nat.zero_ne_one, finAt, lt_of_fin d 32 (by decide), lt_of_fin r 32 (by decide)])
theorem cAnd (d : Reg) (r : Reg) : Statement (.cAnd d r) := fun _ h =>
  narrow rfl rfl rfl (by simp only [decodeHalf, decodeCompactScalar, bitsAt_head, bitsAt_tail, checked_wf h, Nat.le_refl, Nat.reduceLeDiff, Nat.reduceSub, Nat.reducePow, Nat.reduceMod, reduceIte, Nat.zero_ne_one, finAt, lt_of_fin d 32 (by decide), lt_of_fin r 32 (by decide)])
theorem cOr (d : Reg) (r : Reg) : Statement (.cOr d r) := fun _ h =>
  narrow rfl rfl rfl (by simp only [decodeHalf, decodeCompactScalar, bitsAt_head, bitsAt_tail, checked_wf h, Nat.le_refl, Nat.reduceLeDiff, Nat.reduceSub, Nat.reducePow, Nat.reduceMod, reduceIte, Nat.zero_ne_one, finAt, lt_of_fin d 32 (by decide), lt_of_fin r 32 (by decide)])
theorem cXor (d : Reg) (r : Reg) : Statement (.cXor d r) := fun _ h =>
  narrow rfl rfl rfl (by simp only [decodeHalf, decodeCompactScalar, bitsAt_head, bitsAt_tail, checked_wf h, Nat.le_refl, Nat.reduceLeDiff, Nat.reduceSub, Nat.reducePow, Nat.reduceMod, reduceIte, Nat.zero_ne_one, finAt, lt_of_fin d 32 (by decide), lt_of_fin r 32 (by decide)])
theorem cSll (d : Reg) (r : Reg) : Statement (.cSll d r) := fun _ h =>
  narrow rfl rfl rfl (by simp only [decodeHalf, decodeCompactScalar, bitsAt_head, bitsAt_tail, checked_wf h, Nat.le_refl, Nat.reduceLeDiff, Nat.reduceSub, Nat.reducePow, Nat.reduceMod, reduceIte, Nat.zero_ne_one, finAt, lt_of_fin d 32 (by decide), lt_of_fin r 32 (by decide)])
theorem cSrl (d : Reg) (r : Reg) : Statement (.cSrl d r) := fun _ h =>
  narrow rfl rfl rfl (by simp only [decodeHalf, decodeCompactScalar, bitsAt_head, bitsAt_tail, checked_wf h, Nat.le_refl, Nat.reduceLeDiff, Nat.reduceSub, Nat.reducePow, Nat.reduceMod, reduceIte, Nat.zero_ne_one, finAt, lt_of_fin d 32 (by decide), lt_of_fin r 32 (by decide)])
theorem cSra (d : Reg) (r : Reg) : Statement (.cSra d r) := fun _ h =>
  narrow rfl rfl rfl (by simp only [decodeHalf, decodeCompactScalar, bitsAt_head, bitsAt_tail, checked_wf h, Nat.le_refl, Nat.reduceLeDiff, Nat.reduceSub, Nat.reducePow, Nat.reduceMod, reduceIte, Nat.zero_ne_one, finAt, lt_of_fin d 32 (by decide), lt_of_fin r 32 (by decide)])
theorem cMul (d : Reg) (r : Reg) : Statement (.cMul d r) := fun _ h =>
  narrow rfl rfl rfl (by simp only [decodeHalf, decodeCompactScalar, bitsAt_head, bitsAt_tail, checked_wf h, Nat.le_refl, Nat.reduceLeDiff, Nat.reduceSub, Nat.reducePow, Nat.reduceMod, reduceIte, Nat.zero_ne_one, finAt, lt_of_fin d 32 (by decide), lt_of_fin r 32 (by decide)])
theorem cMin (d : Reg) (r : Reg) : Statement (.cMin d r) := fun _ h =>
  narrow rfl rfl rfl (by simp only [decodeHalf, decodeCompactScalar, bitsAt_head, bitsAt_tail, checked_wf h, Nat.le_refl, Nat.reduceLeDiff, Nat.reduceSub, Nat.reducePow, Nat.reduceMod, reduceIte, Nat.zero_ne_one, finAt, lt_of_fin d 32 (by decide), lt_of_fin r 32 (by decide)])
theorem cMax (d : Reg) (r : Reg) : Statement (.cMax d r) := fun _ h =>
  narrow rfl rfl rfl (by simp only [decodeHalf, decodeCompactScalar, bitsAt_head, bitsAt_tail, checked_wf h, Nat.le_refl, Nat.reduceLeDiff, Nat.reduceSub, Nat.reducePow, Nat.reduceMod, reduceIte, Nat.zero_ne_one, finAt, lt_of_fin d 32 (by decide), lt_of_fin r 32 (by decide)])
theorem mv (d : Reg) (r : Reg) : Statement (.mv d r) := fun _ h =>
  narrow rfl rfl rfl (by simp only [decodeHalf, decodeCompactScalar, bitsAt_head, bitsAt_tail, checked_wf h, Nat.le_refl, Nat.reduceLeDiff, Nat.reduceSub, Nat.reducePow, Nat.reduceMod, reduceIte, Nat.zero_ne_one, finAt, lt_of_fin d 32 (by decide), lt_of_fin r 32 (by decide)])
theorem cAddi (d : Reg) (imm : BitVec 5) : Statement (.cAddi d imm) := fun _ h =>
  narrow rfl rfl rfl (by simp only [decodeHalf, decodeCompactScalar, bitsAt_head, bitsAt_tail, checked_wf h, Nat.le_refl, Nat.reduceLeDiff, Nat.reduceSub, Nat.reducePow, Nat.reduceMod, reduceIte, Nat.zero_ne_one, finAt, bvAt, lt_of_fin d 32 (by decide), Nat.mod_eq_of_lt imm.isLt, bv_of])
theorem cCmac (d : Reg) (r : Reg) : Statement (.cCmac d r) := fun _ h =>
  narrow rfl rfl rfl (by simp only [decodeHalf, decodeCompactScalar, bitsAt_head, bitsAt_tail, checked_wf h, Nat.le_refl, Nat.reduceLeDiff, Nat.reduceSub, Nat.reducePow, Nat.reduceMod, reduceIte, Nat.zero_ne_one, finAt, lt_of_fin d 32 (by decide), lt_of_fin r 32 (by decide)])
theorem cFadd (d : Reg) (r : Reg) : Statement (.cFadd d r) := fun _ h =>
  narrow rfl rfl rfl (by simp only [decodeHalf, decodeCompactScalar, bitsAt_head, bitsAt_tail, checked_wf h, Nat.le_refl, Nat.reduceLeDiff, Nat.reduceSub, Nat.reducePow, Nat.reduceMod, reduceIte, Nat.zero_ne_one, finAt, lt_of_fin d 32 (by decide), lt_of_fin r 32 (by decide)])
theorem cFmul (d : Reg) (r : Reg) : Statement (.cFmul d r) := fun _ h =>
  narrow rfl rfl rfl (by simp only [decodeHalf, decodeCompactScalar, bitsAt_head, bitsAt_tail, checked_wf h, Nat.le_refl, Nat.reduceLeDiff, Nat.reduceSub, Nat.reducePow, Nat.reduceMod, reduceIte, Nat.zero_ne_one, finAt, lt_of_fin d 32 (by decide), lt_of_fin r 32 (by decide)])
theorem cvAdd (d : VReg) (r : VReg) : Statement (.cvAdd d r) := fun _ h =>
  narrow rfl rfl rfl (by simp only [decodeHalf, decodeCompactVector, bitsAt_head, bitsAt_tail, checked_wf h, Nat.le_refl, Nat.reduceLeDiff, Nat.reduceSub, Nat.reducePow, Nat.reduceMod, reduceIte, and_self, vector_high, vector_low, finAt, lt_of_fin d 16 (by decide), lt_of_fin r 16 (by decide)])
theorem cvSub (d : VReg) (r : VReg) : Statement (.cvSub d r) := fun _ h =>
  narrow rfl rfl rfl (by simp only [decodeHalf, decodeCompactVector, bitsAt_head, bitsAt_tail, checked_wf h, Nat.le_refl, Nat.reduceLeDiff, Nat.reduceSub, Nat.reducePow, Nat.reduceMod, reduceIte, and_self, vector_high, vector_low, finAt, lt_of_fin d 16 (by decide), lt_of_fin r 16 (by decide)])
theorem cvAnd (d : VReg) (r : VReg) : Statement (.cvAnd d r) := fun _ h =>
  narrow rfl rfl rfl (by simp only [decodeHalf, decodeCompactVector, bitsAt_head, bitsAt_tail, checked_wf h, Nat.le_refl, Nat.reduceLeDiff, Nat.reduceSub, Nat.reducePow, Nat.reduceMod, reduceIte, and_self, vector_high, vector_low, finAt, lt_of_fin d 16 (by decide), lt_of_fin r 16 (by decide)])
theorem cvOr (d : VReg) (r : VReg) : Statement (.cvOr d r) := fun _ h =>
  narrow rfl rfl rfl (by simp only [decodeHalf, decodeCompactVector, bitsAt_head, bitsAt_tail, checked_wf h, Nat.le_refl, Nat.reduceLeDiff, Nat.reduceSub, Nat.reducePow, Nat.reduceMod, reduceIte, and_self, vector_high, vector_low, finAt, lt_of_fin d 16 (by decide), lt_of_fin r 16 (by decide)])
theorem cvXor (d : VReg) (r : VReg) : Statement (.cvXor d r) := fun _ h =>
  narrow rfl rfl rfl (by simp only [decodeHalf, decodeCompactVector, bitsAt_head, bitsAt_tail, checked_wf h, Nat.le_refl, Nat.reduceLeDiff, Nat.reduceSub, Nat.reducePow, Nat.reduceMod, reduceIte, and_self, vector_high, vector_low, finAt, lt_of_fin d 16 (by decide), lt_of_fin r 16 (by decide)])
theorem cvSll (d : VReg) (r : VReg) : Statement (.cvSll d r) := fun _ h =>
  narrow rfl rfl rfl (by simp only [decodeHalf, decodeCompactVector, bitsAt_head, bitsAt_tail, checked_wf h, Nat.le_refl, Nat.reduceLeDiff, Nat.reduceSub, Nat.reducePow, Nat.reduceMod, reduceIte, and_self, vector_high, vector_low, finAt, lt_of_fin d 16 (by decide), lt_of_fin r 16 (by decide)])
theorem cvSrl (d : VReg) (r : VReg) : Statement (.cvSrl d r) := fun _ h =>
  narrow rfl rfl rfl (by simp only [decodeHalf, decodeCompactVector, bitsAt_head, bitsAt_tail, checked_wf h, Nat.le_refl, Nat.reduceLeDiff, Nat.reduceSub, Nat.reducePow, Nat.reduceMod, reduceIte, and_self, vector_high, vector_low, finAt, lt_of_fin d 16 (by decide), lt_of_fin r 16 (by decide)])
theorem cvSra (d : VReg) (r : VReg) : Statement (.cvSra d r) := fun _ h =>
  narrow rfl rfl rfl (by simp only [decodeHalf, decodeCompactVector, bitsAt_head, bitsAt_tail, checked_wf h, Nat.le_refl, Nat.reduceLeDiff, Nat.reduceSub, Nat.reducePow, Nat.reduceMod, reduceIte, and_self, vector_high, vector_low, finAt, lt_of_fin d 16 (by decide), lt_of_fin r 16 (by decide)])
theorem cvMul (d : VReg) (r : VReg) : Statement (.cvMul d r) := fun _ h =>
  narrow rfl rfl rfl (by simp only [decodeHalf, decodeCompactVector, bitsAt_head, bitsAt_tail, checked_wf h, Nat.le_refl, Nat.reduceLeDiff, Nat.reduceSub, Nat.reducePow, Nat.reduceMod, reduceIte, and_self, vector_high, vector_low, finAt, lt_of_fin d 16 (by decide), lt_of_fin r 16 (by decide)])
theorem cvMin (d : VReg) (r : VReg) : Statement (.cvMin d r) := fun _ h =>
  narrow rfl rfl rfl (by simp only [decodeHalf, decodeCompactVector, bitsAt_head, bitsAt_tail, checked_wf h, Nat.le_refl, Nat.reduceLeDiff, Nat.reduceSub, Nat.reducePow, Nat.reduceMod, reduceIte, and_self, vector_high, vector_low, finAt, lt_of_fin d 16 (by decide), lt_of_fin r 16 (by decide)])
theorem cvMax (d : VReg) (r : VReg) : Statement (.cvMax d r) := fun _ h =>
  narrow rfl rfl rfl (by simp only [decodeHalf, decodeCompactVector, bitsAt_head, bitsAt_tail, checked_wf h, Nat.le_refl, Nat.reduceLeDiff, Nat.reduceSub, Nat.reducePow, Nat.reduceMod, reduceIte, and_self, vector_high, vector_low, finAt, lt_of_fin d 16 (by decide), lt_of_fin r 16 (by decide)])
theorem cvMv (d : VReg) (r : VReg) : Statement (.cvMv d r) := fun _ h =>
  narrow rfl rfl rfl (by simp only [decodeHalf, decodeCompactVector, bitsAt_head, bitsAt_tail, checked_wf h, Nat.le_refl, Nat.reduceLeDiff, Nat.reduceSub, Nat.reducePow, Nat.reduceMod, reduceIte, and_self, vector_high, vector_low, finAt, lt_of_fin d 16 (by decide), lt_of_fin r 16 (by decide)])
theorem cvAddi (d : VReg) (imm : BitVec 5) : Statement (.cvAddi d imm) := fun _ h =>
  narrow rfl rfl rfl (by simp only [decodeHalf, decodeCompactVector, bitsAt_head, bitsAt_tail, checked_wf h, Nat.le_refl, Nat.reduceLeDiff, Nat.reduceSub, Nat.reducePow, Nat.reduceMod, reduceIte, finAt, bvAt, lt_of_fin d 16 (by decide), Nat.mod_eq_of_lt imm.isLt, bv_of])
theorem cvCmac (d : VReg) (r : VReg) : Statement (.cvCmac d r) := fun _ h =>
  narrow rfl rfl rfl (by simp only [decodeHalf, decodeCompactVector, bitsAt_head, bitsAt_tail, checked_wf h, Nat.le_refl, Nat.reduceLeDiff, Nat.reduceSub, Nat.reducePow, Nat.reduceMod, reduceIte, and_self, vector_high, vector_low, finAt, lt_of_fin d 16 (by decide), lt_of_fin r 16 (by decide)])
theorem cvFadd (d : VReg) (r : VReg) : Statement (.cvFadd d r) := fun _ h =>
  narrow rfl rfl rfl (by simp only [decodeHalf, decodeCompactVector, bitsAt_head, bitsAt_tail, checked_wf h, Nat.le_refl, Nat.reduceLeDiff, Nat.reduceSub, Nat.reducePow, Nat.reduceMod, reduceIte, and_self, vector_high, vector_low, finAt, lt_of_fin d 16 (by decide), lt_of_fin r 16 (by decide)])
theorem cvFmul (d : VReg) (r : VReg) : Statement (.cvFmul d r) := fun _ h =>
  narrow rfl rfl rfl (by simp only [decodeHalf, decodeCompactVector, bitsAt_head, bitsAt_tail, checked_wf h, Nat.le_refl, Nat.reduceLeDiff, Nat.reduceSub, Nat.reducePow, Nat.reduceMod, reduceIte, and_self, vector_high, vector_low, finAt, lt_of_fin d 16 (by decide), lt_of_fin r 16 (by decide)])

end Sys2Proof.Laws.Encoding
end

