-- ==== Sys2Proof/Tests/Slice0.lean ====
section
/-! SUPPORT. Tests of the package: the checks of WellFormed, the decoding of a word of every encoded row, and, for every
statement that has hypotheses, states and operands that meet them, clause by clause. -/

namespace Sys2Proof.Tests

open Sys2Proof Sys2Proof.Machine Sys2Proof.Claims

set_option Elab.async false

/-! ## Ill-formed terms -/

/-- One term for every check of WellFormed, which refuses it (R92 to R99). -/
theorem test_ill_formed :
    [(.cmul 3 1 2 false false, .oddPair), (.cmul 0 1 2 false false, .oddPair), (.cas2 4 1 31 false false false false, .oddPair),
     (.ld 1 2 0 .double true .plain false, .wideSignExtend), (.ld 1 2 0 .word false .release false, .readRelease),
     (.ldfe 1 2 0 .release false, .readRelease), (.st 1 2 0 .word .acquire false, .writeAcquire),
     (.tagw 1 2 0 .acquire false, .writeAcquire), (.ldm 1 28 0 4 false false false, .registerRun),
     (.stm 1 31 0 1 false false false, .registerRun), (.join 0 1 2 false false, .joinLink), (.join 31 1 2 false false, .joinLink),
     (.rackv 31 1 2, .pairRange), (.solicitSum 0 1 2, .pairRange), (.cvt 1 2 .status .e8 .int8 false false, .formatPair),
     (.cvt 1 2 .status .ci16 .fp32 false false, .formatPair), (.ppack 1 2 3 .b8 false false, .packByte),
     (.vadd 1 2 3 1 false false, .unusedMask), (.vadd 1 2 3 0 false true, .unusedMask), (.cAdd 0 0, .zeroHalfword),
     (.cCmac 2 31, .oddPair), (.cvCmac 2 15, .registerRun),
     (.mtc 1 0x050, .ownRow)].all (fun x : Instr × IllFormed => decide (x.1.illFormed = some x.2) && !x.1.wellFormed) = true := by
  decide +kernel

/-- Terms at the edge of those checks are well formed. -/
theorem test_well_formed :
    [Instr.cmul 30 1 2 false false, .cas2 4 1 30 false false false false, .ld 1 2 0 .word true .acquire false,
     .ldm 1 27 0 4 false false false, .join 30 1 2 false false, .rackv 30 1 2, .cvt 1 2 .status .e8 .fp32 false false,
     .ppack 1 2 3 .h16 false false, .vadd 1 2 3 0 false false, .vadd 1 2 3 7 true true, .cAdd 0 1, .cCmac 2 30, .cvCmac 2 14,
     .mtc 1 0x052].all Instr.wellFormed = true := by
  decide +kernel

/-! ## Decoding -/

/-- Every word of the list decodes to the well-formed instruction beside it. -/
noncomputable def agrees (l : List (Nat × Nat × Instr)) : Bool :=
  l.all fun x => x.2.2.wellFormed && decide (decodeTableWord x.1 x.2.1 = some x.2.2)

/-- Words that the spec writes out for its assembly examples (R112, R116 to R118, R133, R138, R146, R147, R169 to R171, R188, R193, R197,
R198, R200, R218, R221, R332). -/
theorem test_decode_examples : agrees [
    (32, 0x00041181, .add 3 1 2 false false), (32, 0x01C41181, .sub 3 1 2 true true), (32, 0x000C520B, .slli 4 5 3 false),
    (32, 0x12345311, .lui 6 0x12345), (32, 0x05128397, .paddSs 7 8 9 .h16 false false), (32, 0x010A4119, .cmac 2 4 5 false false),
    (32, 0x0000A4BB, .nest 9 10 false false), (32, 0x0012643D, .fork 8 6 9 false false), (32, 0x000062D3, .launch 5 6),
    (32, 0x0D0A419D, .fma 3 4 5 .fp16 false false), (32, 0x3400601D, .rseed 0 6 false false),
    (32, 0xAF18429F, .cvt 5 4 (.fixed .sr) .fp8a .fp32 false false), (32, 0x00005145, .vld 2 5 0 false false false false),
    (32, 0xB8005145, .vld 2 5 3 true true false false), (32, 0x000620C1, .vadd 1 2 3 0 false false),
    (32, 0x080C5243, .vfma 4 5 6 0 false false .fp32), (32, 0x400020C3, .vcvt 1 2 0 0 false false),
    (32, 0x080411C9, .vbflyR2 3 1 2 false), (32, 0x010C41A1, .ld 3 4 2 .word true .plain false),
    (32, 0x021051A5, .ldm 5 8 2 3 false false false), (32, 0x040602AF, .barw 5 3 0 false false)] = true := by
  decide +kernel

/-- A word of every row of the ALU.R group (R112), field by field from its encoding. -/
theorem test_decode_alu : agrees [
    (32, 0b00000000_0_1_10100_01001_00110_000000_1, .add 6 9 20 true false),
    (32, 0b00000001_1_0_10100_01001_00110_000000_1, .sub 6 9 20 false true),
    (32, 0b00000010_0_1_10100_01001_00110_000000_1, .and 6 9 20 true false),
    (32, 0b00000011_1_0_10100_01001_00110_000000_1, .or 6 9 20 false true),
    (32, 0b00000100_0_1_10100_01001_00110_000000_1, .xor 6 9 20 true false),
    (32, 0b00000101_1_0_10100_01001_00110_000000_1, .sll 6 9 20 false true),
    (32, 0b00000110_0_1_10100_01001_00110_000000_1, .srl 6 9 20 true false),
    (32, 0b00000111_1_0_10100_01001_00110_000000_1, .sra 6 9 20 false true),
    (32, 0b00001000_0_1_10100_01001_00110_000000_1, .rot 6 9 20 true false),
    (32, 0b00001001_1_0_10100_01001_00110_000000_1, .min 6 9 20 false true),
    (32, 0b00001010_0_1_10100_01001_00110_000000_1, .max 6 9 20 true false),
    (32, 0b00001011_1_0_10100_01001_00110_000000_1, .minu 6 9 20 false true),
    (32, 0b00001100_0_1_10100_01001_00110_000000_1, .maxu 6 9 20 true false),
    (32, 0b00001101_1_0_10100_01001_00110_000000_1, .slt 6 9 20 false true),
    (32, 0b00001110_0_1_10100_01001_00110_000000_1, .sltu 6 9 20 true false),
    (32, 0b00001111_1_0_10100_01001_00110_000000_1, .seq 6 9 20 false true),
    (32, 0b00010000_0_1_10100_01001_00110_000000_1, .sel 6 9 20 true false),
    (32, 0b00010001_1_0_00000_01001_00110_000000_1, .extSB 6 9 false true),
    (32, 0b00010010_0_1_00000_01001_00110_000000_1, .extSH 6 9 true false),
    (32, 0b00010011_1_0_00000_01001_00110_000000_1, .extSW 6 9 false true),
    (32, 0b00010100_0_1_00000_01001_00110_000000_1, .extZB 6 9 true false),
    (32, 0b00010101_1_0_00000_01001_00110_000000_1, .extZH 6 9 false true),
    (32, 0b00010110_0_1_00000_01001_00110_000000_1, .extZW 6 9 true false)] = true := by
  decide +kernel

/-- A word of every row of the immediate groups, `lui` and `addpc` (R113 to R115), field by field from its encoding. -/
theorem test_decode_immediates : agrees [
    (32, 0b11111111111101_0_01001_00110_000001_1, .addi 6 9 16381 false),
    (32, 0b11111111111101_1_01001_00110_000010_1, .andi 6 9 16381 true),
    (32, 0b11111111111101_0_01001_00110_000011_1, .ori 6 9 16381 false),
    (32, 0b11111111111101_1_01001_00110_000100_1, .xori 6 9 16381 true),
    (32, 0b11111111111101_0_01001_00110_000110_1, .slti 6 9 16381 false),
    (32, 0b11111111111101_1_01001_00110_000111_1, .sltiu 6 9 16381 true),
    (32, 0b00000000_000101_0_01001_00110_000101_1, .slli 6 9 5 false),
    (32, 0b00000001_000101_1_01001_00110_000101_1, .srli 6 9 5 true),
    (32, 0b00000010_000101_0_01001_00110_000101_1, .srai 6 9 5 false),
    (32, 0b00000011_000101_1_01001_00110_000101_1, .roti 6 9 5 true),
    (32, 0b11111111111111111101_00110_001000_1, .lui 6 1048573),
    (32, 0b11111111111111111101_00110_001001_1, .addpc 6 1048573)] = true := by
  decide +kernel

/-- A word of every row of the MULDIV group (R116), field by field from its encoding. -/
theorem test_decode_muldiv : agrees [
    (32, 0b00000000_1_0_10100_01001_00110_001010_1, .mul 6 9 20 false true),
    (32, 0b00000001_0_1_10100_01001_00110_001010_1, .mulh 6 9 20 true false),
    (32, 0b00000010_1_0_10100_01001_00110_001010_1, .mulhu 6 9 20 false true),
    (32, 0b00000011_0_1_10100_01001_00110_001010_1, .div 6 9 20 true false),
    (32, 0b00000100_1_0_10100_01001_00110_001010_1, .divu 6 9 20 false true),
    (32, 0b00000101_0_1_10100_01001_00110_001010_1, .rem 6 9 20 true false),
    (32, 0b00000110_1_0_10100_01001_00110_001010_1, .remu 6 9 20 false true)] = true := by
  decide +kernel

/-- A word of every row of the PSIMD group (R117), field by field from its encoding. -/
theorem test_decode_psimd : agrees [
    (32, 0b000000_01_0_1_10100_01001_00110_001011_1, .padd 6 9 20 .h16 true false),
    (32, 0b000001_01_1_0_10100_01001_00110_001011_1, .paddSs 6 9 20 .h16 false true),
    (32, 0b000010_01_0_1_10100_01001_00110_001011_1, .paddUs 6 9 20 .h16 true false),
    (32, 0b000011_01_1_0_10100_01001_00110_001011_1, .psub 6 9 20 .h16 false true),
    (32, 0b000100_01_0_1_10100_01001_00110_001011_1, .psubSs 6 9 20 .h16 true false),
    (32, 0b000101_01_1_0_10100_01001_00110_001011_1, .psubUs 6 9 20 .h16 false true),
    (32, 0b000110_01_0_1_10100_01001_00110_001011_1, .pmul 6 9 20 .h16 true false),
    (32, 0b000111_01_1_0_10100_01001_00110_001011_1, .pmulSs 6 9 20 .h16 false true),
    (32, 0b001000_01_0_1_10100_01001_00110_001011_1, .pmin 6 9 20 .h16 true false),
    (32, 0b001001_01_1_0_10100_01001_00110_001011_1, .pminU 6 9 20 .h16 false true),
    (32, 0b001010_01_0_1_10100_01001_00110_001011_1, .pmax 6 9 20 .h16 true false),
    (32, 0b001011_01_1_0_10100_01001_00110_001011_1, .pmaxU 6 9 20 .h16 false true),
    (32, 0b001100_01_0_1_10100_01001_00110_001011_1, .pshLl 6 9 20 .h16 true false),
    (32, 0b001101_01_1_0_10100_01001_00110_001011_1, .pshRl 6 9 20 .h16 false true),
    (32, 0b001110_01_0_1_10100_01001_00110_001011_1, .pshRa 6 9 20 .h16 true false),
    (32, 0b001111_01_1_0_10100_01001_00110_001011_1, .pcmpEq 6 9 20 .h16 false true),
    (32, 0b010000_01_0_1_10100_01001_00110_001011_1, .pcmpLt 6 9 20 .h16 true false),
    (32, 0b010001_01_1_0_10100_01001_00110_001011_1, .pcmpLtu 6 9 20 .h16 false true),
    (32, 0b010010_01_0_1_10100_01001_00110_001011_1, .pabsd 6 9 20 .h16 true false),
    (32, 0b010011_01_1_0_10100_01001_00110_001011_1, .ppack 6 9 20 .h16 false true),
    (32, 0b010100_01_0_1_10100_01001_00110_001011_1, .ppackSs 6 9 20 .h16 true false),
    (32, 0b010101_01_1_0_10100_01001_00110_001011_1, .ppackUs 6 9 20 .h16 false true)] = true := by
  decide +kernel

/-- A word of every row of the complex and bit-field groups (R120 to R125), field by field from its encoding. -/
theorem test_decode_complex_and_bits : agrees [
    (32, 0b00000000_0_1_10100_01001_00110_001100_1, .cmul 6 9 20 true false),
    (32, 0b00000001_1_0_10100_01001_00110_001100_1, .cmac 6 9 20 false true),
    (32, 0b00000010_0_1_10100_01001_00110_001100_1, .cmacj 6 9 20 true false),
    (32, 0b00000011_1_0_00000_01001_00110_001100_1, .cabs2 6 9 false true),
    (32, 0b00000100_0_1_10100_01001_00110_001100_1, .mulq 6 9 20 true false),
    (32, 0b00000101_1_0_00101_01001_00110_001100_1, .sat 6 9 5 false true),
    (32, 0b00000110_0_1_00101_01001_00110_001100_1, .satu 6 9 5 true false),
    (32, 0b00000000_1_0_00000_01001_00110_001101_1, .clz 6 9 false true),
    (32, 0b00000001_0_1_00000_01001_00110_001101_1, .ctz 6 9 true false),
    (32, 0b00000010_1_0_00000_01001_00110_001101_1, .popc 6 9 false true),
    (32, 0b00000011_0_1_00000_01001_00110_001101_1, .bswap 6 9 true false),
    (32, 0b00000100_1_0_10100_01001_00110_001101_1, .bext 6 9 20 false true),
    (32, 0b00000101_0_1_10100_01001_00110_001101_1, .bextu 6 9 20 true false),
    (32, 0b00000110_1_0_10100_01001_00110_001101_1, .bins 6 9 20 false true)] = true := by
  decide +kernel

/-- A word of every row of the floating group and `cvt` (R167, R171), field by field from its encoding. -/
theorem test_decode_floating : agrees [
    (32, 0b000000_10_0_1_10100_01001_00110_001110_1, .fadd 6 9 20 .bf16 true false),
    (32, 0b000001_01_1_0_10100_01001_00110_001110_1, .fsub 6 9 20 .fp16 false true),
    (32, 0b000010_10_0_1_10100_01001_00110_001110_1, .fmul 6 9 20 .bf16 true false),
    (32, 0b000011_01_1_0_10100_01001_00110_001110_1, .fma 6 9 20 .fp16 false true),
    (32, 0b000100_10_0_1_10100_01001_00110_001110_1, .fdiv 6 9 20 .bf16 true false),
    (32, 0b000101_01_1_0_00000_01001_00110_001110_1, .fsqrt 6 9 .fp16 false true),
    (32, 0b000110_10_0_1_10100_01001_00110_001110_1, .fmin 6 9 20 .bf16 true false),
    (32, 0b000111_01_1_0_10100_01001_00110_001110_1, .fmax 6 9 20 .fp16 false true),
    (32, 0b001000_10_0_1_10100_01001_00110_001110_1, .fcmpEq 6 9 20 .bf16 true false),
    (32, 0b001001_01_1_0_10100_01001_00110_001110_1, .fcmpLt 6 9 20 .fp16 false true),
    (32, 0b001010_10_0_1_10100_01001_00110_001110_1, .fcmpLe 6 9 20 .bf16 true false),
    (32, 0b001011_01_1_0_00000_01001_00110_001110_1, .fclass 6 9 .fp16 false true),
    (32, 0b001100_10_0_1_00011_01001_00110_001110_1, .rnd 6 9 .bf16 .rup true false),
    (32, 0b00110100_1_0_00000_01001_00110_001110_1, .rseed 6 9 false true),
    (32, 0b101_01111_0_1_01100_01001_00110_001111_1, .cvt 6 9 (.fixed .sr) .fp8a .fp32 true false)] = true := by
  decide +kernel

/-- A word of every row of loads, stores, bursts and the tag group (R218, R221, R226), field by field from its encoding. -/
theorem test_decode_loads_and_stores : agrees [
    (32, 0b111111101_0_01_0_10_01001_00110_010000_1, .ld 6 9 509 .word false .acquire false),
    (32, 0b111111101_1_10_0_10_01001_00110_010001_1, .st 6 9 509 .word .release true),
    (32, 0b11111110_1_0_10100_01001_0_0_100_010010_1, .ldm 9 20 254 4 false false true),
    (32, 0b11111110_0_1_10100_01001_1_1_100_010010_1, .stm 9 20 254 4 true true false),
    (32, 0b111111101_0_01_000_01001_00110_010011_1, .ldfe 6 9 509 .acquire false),
    (32, 0b111111101_1_01_001_01001_00110_010011_1, .ldff 6 9 509 .acquire true),
    (32, 0b111111101_0_11_010_01001_00110_010011_1, .stfe 6 9 509 .sequential false),
    (32, 0b111111101_1_10_011_01001_00110_010011_1, .stff 6 9 509 .release true),
    (32, 0b111111101_0_01_100_01001_00110_010011_1, .tagr 6 9 509 .acquire false),
    (32, 0b111111101_1_10_101_01001_00110_010011_1, .tagw 6 9 509 .release true),
    (32, 0b111111101_0_00110_01001_00110_010011_1, .setvat 6 9 509 false)] = true := by
  decide +kernel

/-- A word of every row of the returning atomics (R313), field by field from its encoding. -/
theorem test_decode_atomics : agrees [
    (32, 0b0000_0_1_0_0_0_1_10100_01001_00110_010100_1, .amoAdd 6 9 20 false true false true false),
    (32, 0b0001_1_0_0_1_1_0_10100_01001_00110_010100_1, .amoAnd 6 9 20 true false true false true),
    (32, 0b0010_0_1_0_0_0_1_10100_01001_00110_010100_1, .amoOr 6 9 20 false true false true false),
    (32, 0b0011_1_0_0_1_1_0_10100_01001_00110_010100_1, .amoXor 6 9 20 true false true false true),
    (32, 0b0100_0_1_0_0_0_1_10100_01001_00110_010100_1, .amoMin 6 9 20 false true false true false),
    (32, 0b0101_1_0_0_1_1_0_10100_01001_00110_010100_1, .amoMax 6 9 20 true false true false true),
    (32, 0b0110_0_1_0_0_0_1_10100_01001_00110_010100_1, .amoMinu 6 9 20 false true false true false),
    (32, 0b0111_1_0_0_1_1_0_10100_01001_00110_010100_1, .amoMaxu 6 9 20 true false true false true),
    (32, 0b1000_0_1_0_0_0_1_10100_01001_00110_010100_1, .amoSwap 6 9 20 false true false true false),
    (32, 0b1001_1_0_00_1_0_10100_01001_00110_010100_1, .amoFadd32 6 9 20 false true false true)] = true := by
  decide +kernel

/-- A word of every row of the reductions (R315), field by field from its encoding. -/
theorem test_decode_reductions : agrees [
    (32, 0b0000_0_1_0_0_0_1_10100_01001_00000010101_1, .redAdd 9 20 false true false true false),
    (32, 0b0001_1_0_0_1_1_0_10100_01001_00000010101_1, .redAnd 9 20 true false true false true),
    (32, 0b0010_0_1_0_0_0_1_10100_01001_00000010101_1, .redOr 9 20 false true false true false),
    (32, 0b0011_1_0_0_1_1_0_10100_01001_00000010101_1, .redXor 9 20 true false true false true),
    (32, 0b0100_0_1_0_0_0_1_10100_01001_00000010101_1, .redMin 9 20 false true false true false),
    (32, 0b0101_1_0_0_1_1_0_10100_01001_00000010101_1, .redMax 9 20 true false true false true),
    (32, 0b0110_0_1_0_0_0_1_10100_01001_00000010101_1, .redMinu 9 20 false true false true false),
    (32, 0b0111_1_0_0_1_1_0_10100_01001_00000010101_1, .redMaxu 9 20 true false true false true),
    (32, 0b1000_0_1_0_0_0_1_10100_01001_00000010101_1, .redSwap 9 20 false true false true false),
    (32, 0b1001_1_0_00_1_0_10100_01001_00000010101_1, .redFadd32 9 20 false true false true)] = true := by
  decide +kernel

/-- A word of every row of `cas`, the waits, the fences and the migration group (R314, R324, R335, R257), field by field from its encoding. -/
theorem test_decode_waits_fences_hop : agrees [
    (32, 0b0000_0_1_01_0_1_10100_01001_00110_010110_1, .cas 6 9 20 true false true false),
    (32, 0b0000_1_0_10_1_0_10100_01001_00110_010110_1, .cas2 6 9 20 false true false true),
    (32, 0b00000000_0_1_10100_01001_00110_010111_1, .park 6 9 20 true false),
    (32, 0b00000001_1_0_10100_01001_00000010111_1, .wake 9 20 false true),
    (32, 0b00000010_0_1_00000_01001_00110_010111_1, .sleep 6 9 true false),
    (32, 0b00000011_1_0_00000000_10_00110_010111_1, .bar 6 2 false true),
    (32, 0b00000100_0_1_10100_000_10_00110_010111_1, .barw 6 20 2 true false),
    (32, 0b00000000_1_0_000000000000000011000_1, .fencePan false true),
    (32, 0b00000001_0_1_000000000000000011000_1, .fenceTenant true false),
    (32, 0b00000010_1_0_000000000000000011000_1, .fenceSystem false true),
    (32, 0b00000011_0_1_000000000000000011000_1, .fenceGlobal true false),
    (32, 0b00000000_1_0_00000_01001_00000011001_1, .hop 9 false true),
    (32, 0b00000001_0_1_00000_01001_00110_011001_1, .live 6 9 true false),
    (32, 0b00000010_1_0_10100_01001_00000011001_1, .tlbinvTrellis 9 20 false true),
    (32, 0b00000011_0_1_10100_01001_00000011001_1, .tlbinvPan 9 20 true false),
    (32, 0b00000100_1_0_10100_01001_00000011001_1, .tlbinvPartition 9 20 false true),
    (32, 0b00000101_0_1_10100_01001_00000011001_1, .tlbinvPackage 9 20 true false)] = true := by
  decide +kernel

/-- A word of every row of the branches, `jal` and `jalr` (R128, R129), field by field from its encoding. -/
theorem test_decode_control_flow : agrees [
    (32, 0b111111111101_10100_01001_000011010_1, .beq 9 20 4093),
    (32, 0b111111111101_10100_01001_001011010_1, .bne 9 20 4093),
    (32, 0b111111111101_10100_01001_010011010_1, .blt 9 20 4093),
    (32, 0b111111111101_10100_01001_011011010_1, .bge 9 20 4093),
    (32, 0b111111111101_10100_01001_100011010_1, .bltu 9 20 4093),
    (32, 0b111111111101_10100_01001_101011010_1, .bgeu 9 20 4093),
    (32, 0b11111111111111111101_00110_011011_1, .jal 6 1048573),
    (32, 0b11111111111101_1_01001_00110_011100_1, .jalr 6 9 16381 true)] = true := by
  decide +kernel

/-- A word of every row of the nest, task and system groups (R133, R137, R78), field by field from its encoding. -/
theorem test_decode_nest_tasks_system : agrees [
    (32, 0b00000000_1_0_00000_01001_00110_011101_1, .nest 6 9 false true),
    (32, 0b00000001_0_1_0000000000_00110_011101_1, .next 6 true false),
    (32, 0b00000000_1_0_10100_01001_00110_011110_1, .fork 6 9 20 false true),
    (32, 0b00000001_0_1_10100_01001_00110_011110_1, .join 6 9 20 true false),
    (32, 0b00000010_1_0_10100_01001_00000011110_1, .jdone 9 20 false true),
    (32, 0b00000011_0_1_10100_01001_00110_011110_1, .spawn 6 9 20 true false),
    (32, 0b00000100_1_0_000000000000000011110_1, .quit false true),
    (32, 0b00000101_0_1_000000000000000011110_1, .beat true false),
    (32, 0b00000110_1_0_000000000000000011110_1, .ifence false true),
    (32, 0b000000000100_00000000_00110_011111_1, .mfc 6 4),
    (32, 0b000000010000_001_01001_00000011111_1, .mtc 9 16),
    (32, 0b000000000000001_01001_00000011111_1, .mtcStatus 9),
    (32, 0b000000000010001_01001_00000011111_1, .mtcLive 9),
    (32, 0b000000000011001_01001_00000011111_1, .mtcSeed 9),
    (32, 0b000001010000001_01001_00000011111_1, .mtcDeftrapvec 9),
    (32, 0b000001010001001_01001_00000011111_1, .mtcHtbase 9),
    (32, 0b000001010011001_01001_00000011111_1, .mtcFqbase 9),
    (32, 0b000001100001001_01001_00000011111_1, .mtcWmdata 9),
    (32, 0b000000000101_0100000000000011111_1, .trap 5),
    (32, 0b000000000101_0110000000000011111_1, .sys 5),
    (32, 0b0000000000001000000000000011111_1, .eret)] = true := by
  decide +kernel

/-- A word of every row of the VALU group (R193 to R196), field by field from its encoding. -/
theorem test_decode_vector_alu : agrees [
    (32, 0b00000000_011_1011_1_0101_1_0010_100000_1, .vadd 2 5 11 3 true true),
    (32, 0b00000001_011_1011_1_0101_1_0010_100000_1, .vsub 2 5 11 3 true true),
    (32, 0b00000010_011_1011_1_0101_1_0010_100000_1, .vmul 2 5 11 3 true true),
    (32, 0b00000011_011_1011_1_0101_1_0010_100000_1, .vmac 2 5 11 3 true true),
    (32, 0b00000100_011_1011_1_0101_1_0010_100000_1, .vmin 2 5 11 3 true true),
    (32, 0b00000101_011_1011_1_0101_1_0010_100000_1, .vmax 2 5 11 3 true true),
    (32, 0b00000110_011_1011_1_0101_1_0010_100000_1, .vand 2 5 11 3 true true),
    (32, 0b00000111_011_1011_1_0101_1_0010_100000_1, .vor 2 5 11 3 true true),
    (32, 0b00001000_011_1011_1_0101_1_0010_100000_1, .vxor 2 5 11 3 true true),
    (32, 0b00001001_011_1011_1_0101_1_0010_100000_1, .vshLl 2 5 11 3 true true),
    (32, 0b00001010_011_1011_1_0101_1_0010_100000_1, .vshRl 2 5 11 3 true true),
    (32, 0b00001011_011_1011_1_0101_1_0010_100000_1, .vshRa 2 5 11 3 true true),
    (32, 0b00001100_011_1011_1_0101_1_0_101_100000_1, .vcmpEq 5 5 11 3 true true),
    (32, 0b00001101_011_1011_1_0101_1_0_101_100000_1, .vcmpLt 5 5 11 3 true true),
    (32, 0b00001110_011_1011_1_0101_1_0_101_100000_1, .vcmpLtu 5 5 11 3 true true),
    (32, 0b00001111_011_1011_0_0101_0_0010_100000_1, .vsel 2 5 11 3),
    (32, 0b00010000_011_1011_1_0101_1_0010_100000_1, .vcmul 2 5 11 3 true true),
    (32, 0b00010001_011_1011_1_0101_1_0010_100000_1, .vcmac 2 5 11 3 true true),
    (32, 0b00010010_011_00000_0101_1_0010_100000_1, .vredAdd 2 5 3 true),
    (32, 0b00010011_011_00000_0101_1_0010_100000_1, .vredMin 2 5 3 true),
    (32, 0b00010100_011_00000_0101_1_0010_100000_1, .vredMax 2 5 3 true),
    (32, 0b00010101_011_00000_0101_1_0010_100000_1, .vredFadd 2 5 3 true),
    (32, 0b00010110_011_1011_1_0101_1_0010_100000_1, .vperm 2 5 11 3 true true),
    (32, 0b00010111_011_0000_1_0101_1_0010_100000_1, .vmv 2 5 3 true true),
    (32, 0b00010111_011_0001_1_0101_1_0010_100000_1, .vmvBc 2 5 3 true true),
    (32, 0b0001011100000100_0101_0_0010_100000_1, .vmvX 2 5)] = true := by
  decide +kernel

/-- A word of every row of the VFP, vector memory and claim groups (R197, R188, R178), field by field from its encoding. -/
theorem test_decode_vector_float_memory_claim : agrees [
    (32, 0b000000_10_011_1011_1_0101_1_0010_100001_1, .vfadd 2 5 11 3 true true .bf16),
    (32, 0b000001_01_011_1011_1_0101_1_0010_100001_1, .vfmul 2 5 11 3 true true .fp16),
    (32, 0b000010_10_011_1011_1_0101_1_0010_100001_1, .vfma 2 5 11 3 true true .bf16),
    (32, 0b000011_01_011_1011_1_0101_1_0010_100001_1, .vfmin 2 5 11 3 true true .fp16),
    (32, 0b000100_10_011_1011_1_0101_1_0010_100001_1, .vfmax 2 5 11 3 true true .bf16),
    (32, 0b0100_1001_011_0000_1_0101_1_0010_100001_1, .vcvt 2 5 9 3 true true),
    (32, 0b1_011_1_000_0_1_00000_01001_0_0010_100010_1, .vld 2 9 3 true true true false),
    (32, 0b0_011_1_001_1_0_00000_01001_0_0010_100010_1, .vst 2 9 3 true false true),
    (32, 0b1_011_1_010_0_1_10100_01001_0_0010_100010_1, .vlds 2 9 20 3 true true true false),
    (32, 0b1_011_1_011_1_0_0_1011_01001_0_0010_100010_1, .vldx 2 9 11 3 true true false true),
    (32, 0b0_011_1_100_0_1_0_1011_01001_0_0010_100010_1, .vstx 2 9 11 3 true true false),
    (32, 0b00000000_1_0_10100_01001_00110_100011_1, .vclaim 6 9 20 false true),
    (32, 0b00000001_0_1_000000000000000100011_1, .vrel true false),
    (32, 0b00000010_1_0_10100_01001_00110_100011_1, .vsync 6 9 20 false true),
    (32, 0b00000011_0_1_00_001_00_110_00_101_100011_1, .mand 5 6 1 true false),
    (32, 0b00000100_1_0_00_001_00_110_00_101_100011_1, .mor 5 6 1 false true),
    (32, 0b00000101_0_1_0000000_110_00_101_100011_1, .mnot 5 6 true false)] = true := by
  decide +kernel

/-- A word of every row of the vector functions, masks and butterflies (R199 to R201), field by field from its encoding. -/
theorem test_decode_vector_functions : agrees [
    (32, 0b00000000_011_0000_1_0101_1_0010_100100_1, .vsfuExp2 2 5 3 true true),
    (32, 0b00000001_011_0000_1_0101_1_0010_100100_1, .vsfuLog2 2 5 3 true true),
    (32, 0b00000010_011_0000_1_0101_1_0010_100100_1, .vsfuRcp 2 5 3 true true),
    (32, 0b00000011_011_0000_1_0101_1_0010_100100_1, .vsfuRsqrt 2 5 3 true true),
    (32, 0b00000100_011_0000_1_0101_1_0010_100100_1, .vsfuSin 2 5 3 true true),
    (32, 0b00000101_011_0000_1_0101_1_0010_100100_1, .vsfuCos 2 5 3 true true),
    (32, 0b00000110_011_0000_1_0101_1_0010_100100_1, .vsfuTanh 2 5 3 true true),
    (32, 0b00000111_011_0000_1_0101_1_0010_100100_1, .vsfuSigmoid 2 5 3 true true),
    (32, 0b00001000000_1011_0_0101_0_0010_100100_1, .vbflyR2 2 5 11 false),
    (32, 0b00001001000_1011_1_0101_0_0010_100100_1, .vbflyR4 2 5 11 true)] = true := by
  decide +kernel

/-- A word of every row of the engine groups (R262, R287), field by field from its encoding. -/
theorem test_decode_engines : agrees [
    (32, 0b000000000000000_01001_00110_100101_1, .rack 6 9),
    (32, 0b0000000100_10100_01001_00110_100101_1, .rackv 6 9 20),
    (32, 0b0000001000000000000000000100101_1, .rfenceEngine),
    (32, 0b0000001001000000000000000100101_1, .rfencePartition),
    (32, 0b000000110000000_01001_00110_100101_1, .qfence 6 9),
    (32, 0b000001000000000_01001_00110_100101_1, .qwait 6 9),
    (32, 0b000001010000000_01001_00110_100101_1, .rstat 6 9),
    (32, 0b000001100000000_01001_00110_100101_1, .collAllreduce 6 9),
    (32, 0b000001100100000_01001_00110_100101_1, .collAllgather 6 9),
    (32, 0b000001101000000_01001_00110_100101_1, .collReducescatter 6 9),
    (32, 0b000000000000000_01001_00110_100110_1, .pmm 6 9),
    (32, 0b000000010000000_01001_00110_100110_1, .pzero 6 9),
    (32, 0b000000100000000_01001_00110_100110_1, .pwait 6 9),
    (32, 0b000000110000000_01001_00110_100110_1, .pprog 6 9)] = true := by
  decide +kernel

/-- A word of every row of the directory, label and launch groups (R357, R382, R146), field by field from its encoding. -/
theorem test_decode_labels_launch : agrees [
    (32, 0b000000000000000_01001_00110_100111_1, .tdirPut 6 9),
    (32, 0b000000000100000_01001_00110_100111_1, .tdirDel 6 9),
    (32, 0b0000000100_10100_01001_00110_100111_1, .tmove 6 9 20),
    (32, 0b0000001000_10100_01001_00110_100111_1, .solicitSum 6 9 20),
    (32, 0b0000001100_10100_01001_00110_100111_1, .solicitMin 6 9 20),
    (32, 0b0000010000_10100_01001_00110_100111_1, .solicitMax 6 9 20),
    (32, 0b0000010100_10100_01001_00110_100111_1, .solicitOr 6 9 20),
    (32, 0b0000011000_10100_01001_00110_100111_1, .solicitCount 6 9 20),
    (32, 0b000001110000000_01001_00000100111_1, .answer 9),
    (32, 0b00001000000000000000_00110_100111_1, .cwait 6),
    (32, 0b00000000_1_0_00000_01001_00110_101000_1, .lbl 6 9 false true),
    (32, 0b00000000_0_1_000010_0101_00110_101000_1, .lblV 6 5 true false),
    (32, 0b00000000_1_0_0001000_110_00110_101000_1, .lblM 6 6 false true),
    (32, 0b00000000_0_1_0001100000_00110_101000_1, .lblS 6 true false),
    (32, 0b00000001_1_0_00000_01001_00110_101000_1, .sluice 6 9 false true),
    (32, 0b000000000000000_01001_00110_101001_1, .launch 6 9),
    (32, 0b00000001_10_10100_01001_00110_101001_1, .invoke 6 9 20 2)] = true := by
  decide +kernel

/-- A word of every row of the scalar compact forms (R126), field by field from its encoding. -/
theorem test_decode_compact : agrees [
    (16, 0b0_01101_00110_00000, .cAdd 6 13),
    (16, 0b0_01101_00110_00010, .cSub 6 13),
    (16, 0b0_01101_00110_00100, .cAnd 6 13),
    (16, 0b0_01101_00110_00110, .cOr 6 13),
    (16, 0b0_01101_00110_01000, .cXor 6 13),
    (16, 0b0_01101_00110_01010, .cSll 6 13),
    (16, 0b0_01101_00110_01100, .cSrl 6 13),
    (16, 0b0_01101_00110_01110, .cSra 6 13),
    (16, 0b0_01101_00110_10000, .cMul 6 13),
    (16, 0b0_01101_00110_10010, .cMin 6 13),
    (16, 0b0_01101_00110_10100, .cMax 6 13),
    (16, 0b0_01101_00110_10110, .mv 6 13),
    (16, 0b0_11101_00110_11000, .cAddi 6 29),
    (16, 0b0_01101_00110_11010, .cCmac 6 13),
    (16, 0b0_01101_00110_11100, .cFadd 6 13),
    (16, 0b0_01101_00110_11110, .cFmul 6 13)] = true := by
  decide +kernel

/-- A word of every row of the vector compact forms (R202), field by field from its encoding. -/
theorem test_decode_compact_vector : agrees [
    (16, 0b10_1100_0_0010_00000, .cvAdd 2 12),
    (16, 0b10_1100_0_0010_00010, .cvSub 2 12),
    (16, 0b10_1100_0_0010_00100, .cvAnd 2 12),
    (16, 0b10_1100_0_0010_00110, .cvOr 2 12),
    (16, 0b10_1100_0_0010_01000, .cvXor 2 12),
    (16, 0b10_1100_0_0010_01010, .cvSll 2 12),
    (16, 0b10_1100_0_0010_01100, .cvSrl 2 12),
    (16, 0b10_1100_0_0010_01110, .cvSra 2 12),
    (16, 0b10_1100_0_0010_10000, .cvMul 2 12),
    (16, 0b10_1100_0_0010_10010, .cvMin 2 12),
    (16, 0b10_1100_0_0010_10100, .cvMax 2 12),
    (16, 0b10_1100_0_0010_10110, .cvMv 2 12),
    (16, 0b1_11101_0_0010_11000, .cvAddi 2 29),
    (16, 0b10_1100_0_0010_11010, .cvCmac 2 12),
    (16, 0b10_1100_0_0010_11100, .cvFadd 2 12),
    (16, 0b10_1100_0_0010_11110, .cvFmul 2 12)] = true := by
  decide +kernel


/-! ## A small state -/

/-- An ownership of Pan 0 with its cellars 0 and 1. -/
def own0 : Ownership :=
  { gen := 1, panmask := 1, keyslot := 1, slotmask := 3, chslotmask := 1, waymask := 1, colours := 255, vlaneq := 8, pressq := 4
    flags := 0, regmin := 0, regcap := 0, savearena := 0, saverecs := 0, cellars := [3, 0, 0, 0, 0, 0, 0, 0] }

/-- Partition 0, with nothing submitted. -/
def part0 : Part :=
  { num := 0, own := own0, regs := ⟨0, 0, 0, 0, none⟩, faults := ⟨0, 0, 0, [], false⟩, budget := 0, accounts := List.replicate 8 0
    charged := List.replicate 8 0, unit := ⟨0, [], []⟩, arena := [], fenceCap := false, fenceTrap := false, migFallback := 0
    perf := [], firm := false, manager := false, pubkey := [], retiring := false, used := [], derates := [] }

/-- A gang of one thread in Pan 0, with one barrier and images of 4 lanes. -/
def gang1 : Gang :=
  { gid := 1, part := 0, pan := 0, num := 0, seq := 0, image := 0, vlanes := 4, nbars := 1, trapvec := some 0x400, livemask := 0
    patches := [], plabel := 0, js := 0, size := 1, affinity := 0, placed := 0, handler := none, policy0 := false, killed := none
    responder := false, bars := [⟨0, 0, 2, 0, 0⟩], perf := [], folding := false, forced := false, folded := none, cmds := [] }

/-- The thread of that gang, in slot 0 of core 0, in task mode. -/
def task1 : Thread :=
  { Thread.management with
    pc := 0x1000
    ctl := Ctl.start
    ident := { uid := 1, part := 0, gang := 1, gangid := 0, lthread := 0, pan := 0, trellis := 0, core0 := 0, slot0 := 0, js := 0
               spawns := 0, census := 0, answered := false }
    core := 0, slot := 0 }

/-- Page k of partition 0's window on Pan 0: frame k of cellar 0, to read and write, with the partition's label. -/
def page0 (k : Nat) : MapEntry := ⟨0, 0, k, true, true, true, false, 0, k, 1⟩

/-- Partition 0 with its gang's thread at its turn, eight pages of its Pan mapped. -/
def small : State :=
  { State.reset with
    t := task1
    mem := { State.reset.mem with maps := (List.range 8).map page0 }
    slots := [⟨0, 0, .occupied, false, 0, []⟩, ⟨8448, 0, .occupied, false, 0, []⟩]
    gangs := [gang1]
    parts := [part0]
    time := { State.reset.time with next := 100 } }

/-- The start of the local window. -/
def base : Word := 0x0080000000000000

/-- A state with another thread at its turn. -/
def onT (s : State) (f : Thread → Thread) : State := { s with t := f s.t }

/-- A state with values in registers. -/
def given (s : State) (l : List (Reg × Word)) : State :=
  onT s fun t => l.foldl (fun t x => { t with regs := t.regs.set x.1.val ⟨x.2, true, false, 0⟩ }) t

/-- A state with other control registers, and one in another mode with a value of TRAPCODE. -/
def ctl (s : State) (f : Ctl → Ctl) : State := onT s fun t => { t with ctl := f t.ctl }
def inMode (s : State) (m : Nat) (code : Word) : State :=
  onT s fun t => { t with ctl := { t.ctl with status := BitVec.ofNat 64 m }, trap := { t.trap with code := code } }

/-- The state with a claim of 1 lane, whose elements number themselves. -/
def claimed : State :=
  onT small fun t => { t with claim :=
    ⟨1, List.replicate 16 ⟨(List.range 16).map fun i => BitVec.ofNat 32 i, true, 0⟩,
      List.replicate 8 ⟨List.replicate 16 true, 0⟩, 0⟩ }

/-- An access of the thread to the word at an address of Pan 0's store, at its bank. -/
def access (op : MemOp) : Acc :=
  { id := 7, uid := 1, part := 0, op := op, loc := .pan 0 0x108, va := base, pc := 0x1000, label := 0, plabel := 1, posted := false
    ordered := false, clock := [], srcDie := 0, num := 0, pair := 0, cross := false, input := 0, trellis := 0, source := 0, klass := 0
    legs := 0, asked := 0, due := 0, fill := some 8, noalloc := false, kept := false, came := 0, port := none, state := .queued }

/-- A result of one part for g1 of the thread. -/
def result : Fill :=
  { id := 8, uid := 1, regs := [1], vals := [0], parts := 1, label := 1, join := 0, kind := .plain, resume := true, advance := true
    err := none, discard := false, legs := 0, velems := [] }

/-- The state with that access alone at its bank and its result outstanding. -/
def banked (op : MemOp) : State :=
  { small with fab := { small.fab with accs := [access op], fills := [result], banks := [⟨0, bankOf 0x108, 0, [], [], [7], 0, 1, none⟩] } }

/-- A result that is a value. -/
def okIs {ε α : Type} [DecidableEq α] (r : Except ε α) (x : α) : Bool := match r with
  | .ok y => decide (y = x)
  | .error _ => false

theorem ok_of {ε α : Type} [DecidableEq α] {r : Except ε α} {x : α} (h : okIs r x = true) : r = .ok x := by
  cases r with
  | error e => cases h
  | ok y => exact congrArg _ (of_decide_eq_true h)

/-! ## Witnesses: results of one instruction -/

theorem witness_ScalarResults : small.writable [0, 1, 31] ∧ small.readable [0, 1, 31] := by
  unfold State.writable State.readable; decide +kernel

/-- The corners of division: a zero divisor, and −2^63 by −1. -/
theorem witness_MultiplyDivide :
    let s := given small [(1, 0x8000000000000000), (2, 0xFFFFFFFFFFFFFFFF)]
    s.writable [31] ∧ s.readable [1, 2, 3] ∧ s.val 3 = 0 ∧ s.val 1 = 0x8000000000000000 ∧ s.val 2 = 0xFFFFFFFFFFFFFFFF := by
  unfold State.writable State.readable; decide +kernel

theorem witness_PackedLanes : small.writable [0, 31] ∧ small.readable [1, 2] := by
  unfold State.writable State.readable; decide +kernel

/-- A width that the packing operations have, the pairs at both ends, and the registers of every form. -/
theorem witness_NarrowComplexAndBits :
    PWidth.w32 ≠ .b8 ∧ pairOk 2 = true ∧ pairOk 30 = true ∧ small.writable [2, nextReg 2, 30, nextReg 30] ∧
    small.readable [1, 4, 2, nextReg 2, 30, nextReg 30, nextReg 1] ∧ (30 : Reg).val ≤ 30 := by
  unfold State.writable State.readable; decide +kernel

/-- No flag traps, and one that does. -/
theorem witness_FloatResults :
    small.traps ∧ small.writable [0, 1] ∧ small.readable [0, 1, 2] ∧ small.t.fpen = 0 ∧ (ctl small fun c => { c with status := 0x400 }).t.fpen ≠ 0 := by
  unfold State.writable State.readable State.traps; decide +kernel

/-- The least subnormal, one and the largest finite number of a format. -/
theorem witness_RoundingIsExact :
    [1, 0x3F800000, 0x7F7FFFFF].all (fun c => match decodeF (floatOf .fp32) c with
      | .fin _ m _ => decide (m ≠ 0 ∧ c < 2 ^ fwidth (floatOf .fp32))
      | _ => false) = true := by
  decide +kernel

/-- A branch, an even target and an odd one. -/
theorem witness_ControlFlow :
    let s := given small [(1, 0x2000), (2, 0x2001)]
    s.readable [1, 2] ∧ s.writable [0, 31] ∧ s.traps ∧ (s.val 1 + (2 : BitVec 14).signExtend 64).toNat % 2 = 0 ∧
    (s.val 2 + (2 : BitVec 14).signExtend 64).toNat % 2 = 1 := by
  unfold State.writable State.readable State.traps; decide +kernel

/-- A return that is allowed in each mode, and the modes and saved modes of one that is not. -/
theorem witness_TrapEntryAndReturn :
    let pmode (s : State) := s.t.trap.code.toNat / 2 ^ 6 % 4
    small.traps ∧ (inMode small 1 0).t.mode = 1 ∧ pmode (inMode small 1 0) = 0 ∧ pmode (inMode small 1 0x40) = 1 ∧
    (inMode small 2 0x80).t.mode = 2 ∧ pmode (inMode small 2 0x80) = 2 ∧ small.t.mode = 0 ∧ (inMode small 1 0x80).traps ∧
    (inMode small 1 0x80).t.mode = 1 ∧ pmode (inMode small 1 0x80) = 2 ∧ pmode (inMode small 2 0x40) ≠ 2 := by
  unfold State.traps; decide +kernel

theorem witness_ControlRegisterReads :
    small.writable [1] ∧ small.traps ∧ small.t.isTask = true ∧ (inMode small 1 0).t.isTask = false ∧
    (inMode small 2 0).t.isDevice = true ∧ (small.gang? small.t.ident.gang).isSome = true ∧ (small.part? small.t.ident.part).isSome = true ∧
    small.ownsPan 0 0 = true ∧ small.ownsPan 0 1 = false ∧ (0 : Word).toNat / 2 ^ 12 % 8 = 0 ∧ (0x1FFF : Word).toNat / 2 ^ 12 % 8 = 1 := by
  unfold State.writable State.traps; decide +kernel

/-- The first and the last number of each kind of control register, and of what is none. -/
theorem witness_ControlRegisterNumbers :
    (∀ n ∈ [0x032, 0x040, 0x044, 0x048, 0x050, 0x053, 0x060, 0x061], hiddenNum n) ∧
    (∀ n ∈ [0x001, 0x004, 0x005, 0x008, 0x00C, 0x018, 0x01F, 0x020, 0x027, 0x031, 0x052], fixedNum n) ∧
    (∀ n ∈ [0x006, 0x007, 0x00D, 0x014, 0x028, 0x033, 0x045, 0x054, 0x062, 0xEFF], n < 0xF00 ∧ ¬ listedNum n) := by
  unfold listedNum hiddenNum fixedNum; decide +kernel

/-- Both sides of the mode check, and the last legal rounding mode with the first that is not. -/
theorem witness_ControlRegisterWrites :
    let s := given small [(1, 0x10), (2, 0x14)]
    s.readable [1, 2] ∧ s.traps ∧ s.t.isTask = true ∧ (inMode s 1 0).t.isTask = false ∧ (s.val 1).toNat / 4 % 8 ≤ 4 ∧
    4 < (s.val 2).toNat / 4 % 8 := by
  unfold State.readable State.traps; decide +kernel

/-- Values of HTBASE at the ends of what is allowed and beyond, values of FQBASE, and requests that arrive at the launch unit. -/
theorem witness_PartitionRegisterWrites :
    let s := inMode (given small [(1, 0), (2, 0x7FFFFFFFFFE000), (3, 0x80000000000000), (4, 0x0081000000000FC0),
      (5, 0x0081000000001000)]) 1 0
    let arrives (k : FillKind) : Prop :=
      let t : State := onT { s with fab := { s.fab with fills := [{ result with kind := k }] } } fun t => { t with run := .reply }
      t.fill? result.id = some { result with kind := k } ∧ t.thread result.uid = some t.t ∧ t.t.run = .reply
    s.readable [1, 2, 3, 4, 5] ∧ s.writable [1, 31] ∧ s.t.isTask = false ∧ small.t.isTask = true ∧ small.traps ∧ s.traps ∧ s.val 1 = 0 ∧
    arrives (.partRead 0x053) ∧ arrives (.partWrite 0x050 0x400) ∧ arrives (.partWrite 0x051 0x2000) ∧ arrives (.partWrite 0x053 0) ∧
    ((s.val 2).toNat % 8192 = 0 ∧ (s.val 2).toNat < 2 ^ 55) ∧
    ¬ (s.val 3 = 0 ∨ ((s.val 3).toNat % 8192 = 0 ∧ (s.val 3).toNat < 2 ^ 55)) ∧ s.fqbaseOk (s.val 1) = true ∧
    s.fqbaseOk (s.val 4) = true ∧ s.fqbaseOk (s.val 5) = false := by
  unfold State.readable State.writable State.traps; decide +kernel

/-- Page 9, which is free: a frame of an owned cellar may be mapped, one of another cellar and a frame in use may not, and a Pan
that the partition lacks is refused; another partition's label is replaced; and a vat whose pages may all be written. -/
theorem witness_MapAndFormatWrites :
    let at_ (sel v : Word) (s : State) : State := ctl (given (inMode s 1 0) [(1, v)]) fun c => { c with wmsel := sel }
    let ok (s : State) : Prop := s.readable [1] ∧ s.t.isTask = false ∧
      (let n := s.t.ctl.wmsel.toNat / 2 ^ 12 % 8
       let page := s.t.ctl.wmsel.toNat % 2 ^ 12
       s.ownsPan 0 n = true ∧ s.mapRefused (s.mapEntry 0 n page) (mapEntryOf 0 n page (s.val 1)) = false ∧
       (s.mapEntry 0 n page).moving = false ∧ s.underPage 0 n page = false)
    let other : State := { small with mem := { small.mem with maps := small.mem.maps ++ [⟨0, 0, 9, true, true, true, false, 1, 0, 2⟩] } }
    ok (at_ 9 0x100000017 small) ∧ ok (at_ 9 0x100000017 other) ∧ labelLe (other.mapEntry 0 0 9).label (partLabel 0) = false ∧
    ((at_ 9 0x100000027 small).mapRefused (small.mapEntry 0 0 9) (mapEntryOf 0 0 9 0x100000027) = true) ∧
    ((at_ 9 0x100000007 small).mapRefused (small.mapEntry 0 0 9) (mapEntryOf 0 0 9 0x100000007) = true) ∧
    (at_ 0x1009 7 small).ownsPan 0 1 = false ∧ (at_ 9 7 small).traps ∧
    (let s := given small [(1, base + 0xFFF8), (2, 0xC), (3, 0x40)]
     s.readable [1, 2, 3] ∧ s.traps ∧ s.acquireHeld = false ∧ (s.val 1).toNat % 8 = 0 ∧ ownPan s (s.val 1) 0 0xFFF8 1 false true ∧
     (∀ k, k < 8 → ∃ e ∈ s.vatEntries 0 0 (vatOf 0xFFF8), e.frame % 8 = k ∧ e.write = true) ∧ vatValueOk (s.val 2) = true ∧
     vatValueOk (s.val 3) = false ∧ (∀ e ∈ s.vatEntries 0 0 (vatOf 0xFFF8), labelLe (s.joined [2, 1]) e.label = true ) ∧
     s.drained = true ∧ s.vatBusy 0 0 (vatOf 0xFFF8) = false ∧
     ({ s with mem := { s.mem with maps := s.mem.maps.map fun e => { e with moving := true } } } : State).vatBusy 0 0 (vatOf 0xFFF8) = true) := by
  unfold State.readable State.traps
  refine ⟨?_, ?_, ?_, ?_, ?_, ?_, ?_, ?_, ?_, ?_, ?_, ⟨?_, ?_, 0xFFF8, ?_, rfl⟩, ?_⟩ <;> decide +kernel

theorem witness_ThreadState :
    small.writable [0, 1] ∧ small.readable [0, 1] ∧ small.drained = true ∧ claimed.t.atOrigin = true ∧ claimed.t.claim.lanes ≠ 0 ∧
    claimed.vempty 0 = false ∧ claimed.vempty 15 = false ∧ ∀ k < 4, small.causalOk (8 + k) small.t.ctl.vclock (8 + k) = true := by
  unfold State.writable State.readable; decide +kernel

/-- A fence at its first turn, with and without an export that is not acknowledged, one whose count ends in this cycle, one that is
answered, and partitions that cap their fences; and a `tlbinv` with nothing left, with work left, and at its end. -/
theorem witness_FencesAndInvalidation :
    let capped (trap : Bool) : State := { small with parts := [{ part0 with fenceCap := true, fenceTrap := trap }] }
    let at_ (s : State) (p : Progress) : State := onT s fun t => { t with prog := p }
    small.t.prog = .fresh ∧ small.drained = true ∧ (at_ small (.counting 0)).t.prog = .counting 0 ∧ 0 ≤ small.time.cycle ∧
    small.fenceCap.1 = false ∧ (capped false).fenceCap = (true, false) ∧ (capped true).fenceCap = (true, true) ∧ (capped true).traps ∧
    (at_ small (.answered 0 0)).t.prog = .answered 0 0 ∧ small.readable [1, 2] ∧ (inMode small 1 0).t.isTask = false ∧
    small.ackedAt 1 ≤ small.time.cycle ∧
    small.time.cycle < ({ small with fab := { small.fab with exports := [(1, 5)] } } : State).ackedAt 1 ∧
    (let s := inMode small 1 0
     let left : Discard := ⟨0, 0, s.time.next, s.time.cycle⟩
     s.drained = true ∧ s.underEntries 0 left = false ∧ engineWork 0 s.time.next s = false ∧
     (let t : State := { s with fab := { s.fab with accs := [{ access (.load 8 false) with uid := 2, loc := .hbm 0, va := 0x2000 }] } }
      t.drained = true ∧ t.underEntries 0 ⟨1, 2, 100, 0⟩ = true) ∧
     (at_ s (.discards (some left))).t.prog = .discards (some left)) ∧
    small.t.isTask = true ∧ small.traps := by
  unfold State.readable State.traps; decide +kernel

/-! ## Witnesses: accesses, waits and tasks -/

/-- A load and a store at both ends of the mapped pages, of a byte and of 8 bytes; a label that may not be written; a wait for a tag; and
bursts that end at the page's end, or leave it. -/
theorem witness_LocalAccesses :
    let s := given small [(1, base + 0xFFF8), (2, 5), (3, base + 0x1FC0), (4, base + 0x1FC8)]
    let out := ctl s fun c => { c with clabel := 2 }
    s.writable [2, 5, 6, 7, 8] ∧ s.readable [1, 2, 3, 4, 5, 6, 7, 8, 9, 10, 11, 12] ∧ s.acquireHeld = false ∧ s.t.run = .ready ∧
    s.drained = true ∧ s.traps ∧ out.traps ∧
    (s.val 1).toNat % sizeBytes .double = 0 ∧ (s.val 1 + BitVec.ofInt 64 (-256 * (sizeBytes .byte : Int))).toNat % sizeBytes .byte = 0 ∧
    (ownPan s (s.val 1) 0 0xFFF8 1 true false ∧ ownPan s (s.val 1) 0 0xFFF8 1 false true ∧ ownPan s (s.val 1) 0 0xFFF8 1 true true ∧
      ownPan s (s.val 3) 0 0x1FC0 1 true false ∧ ownPan s (s.val 3) 0 0x1FC0 1 false true) ∧
    labelLe (s.joined [1, 2]) 1 = true ∧ labelLe (out.joined [1, 2]) 1 = false ∧
    (5 : Reg).val + (7 : BitVec 3).toNat ≤ 31 ∧ ((s.val 3).toNat % 8 = 0 ∧ (s.val 3).toNat % 8192 + 8 * 8 ≤ 8192) ∧
    ¬ ((s.val 4).toNat % 8 = 0 ∧ (s.val 4).toNat % 8192 + 8 * 8 ≤ 8192) := by
  unfold State.writable State.readable State.traps
  refine ⟨?_, ?_, ?_, ?_, ?_, ?_, ?_, ?_, ?_, ⟨⟨?_, ?_, 0xFFF8, ?_, ok_of ?_⟩, ⟨?_, ?_, 0xFFF8, ?_, ok_of ?_⟩, ⟨?_, ?_, 0xFFF8, ?_, ok_of ?_⟩,
    ⟨?_, ?_, 0x1FC0, ?_, ok_of ?_⟩, ⟨?_, ?_, 0x1FC0, ?_, ok_of ?_⟩⟩, ?_⟩ <;> decide +kernel

/-- An atomic of 4, 8 and 16 bytes; a reduction with 15 and with 16 outstanding; and addresses that are misaligned by the least amount. -/
theorem witness_LocalUpdates :
    let s := given small [(1, base + 0xFFF0), (2, 5), (3, base + 0xFFF1), (4, base + 0xFFF8)]
    let full := ctl s fun c => { c with pendred := 16 }
    s.writable [2] ∧ s.readable [1, 2, 3, 4, nextReg 2, nextReg 4] ∧ s.acquireHeld = false ∧ s.drained = true ∧ s.t.run = .ready ∧ s.traps ∧
    ownPan s (s.val 1) 0 0xFFF0 1 true true ∧ (s.val 1).toNat % 16 = 0 ∧ (s.val 1).toNat % (if true then 8 else 4) = 0 ∧
    labelLe (s.joined [1, 2, 3]) 1 = true ∧ (ctl s fun c => { c with pendred := 15 }).t.ctl.pendred ≠ 16 ∧ full.t.ctl.pendred = 16 ∧
    (s.val 3 + BitVec.ofInt 64 (0 * (sizeBytes .half : Int))).toNat % sizeBytes .half ≠ 0 ∧ (s.val 3).toNat % 4 ≠ 0 ∧
    (s.val 3).toNat % 8 ≠ 0 ∧ (s.val 4).toNat % 16 ≠ 0 := by
  unfold State.writable State.readable State.traps
  refine ⟨?_, ?_, ?_, ?_, ?_, ?_, ⟨?_, ?_, 0xFFF0, ?_, ok_of ?_⟩, ?_⟩ <;> decide +kernel

/-- A load and a store alone at their bank, of 1 and of 8 bytes, and a result that arrives. -/
theorem witness_BankAccesses :
    alone (banked (.load 8 true)) (access (.load 8 true)) 0 0x108 ∧ (access (.load 1 true)).op = .load 1 true ∧
    (banked (.load 8 true)).fill? result.id = some result ∧ (access (.load 8 true)).fill = some result.id ∧ result.parts = 1 ∧
    result.vals.length = 1 ∧ alone (banked (.store 8 5)) (access (.store 8 5)) 0 0x108 ∧ (banked (.store 8 5)).canonical ∧
    (let f := { result with parts := 0, vals := [7] }
     let s : State := { small with fab := { small.fab with fills := [f] } }
     s.fill? f.id = some f ∧ f.uid = s.t.ident.uid ∧ f.kind = .plain ∧ f.regs = [1] ∧ f.vals = [7] ∧ f.err = none ∧ f.discard = false ∧
     s.t.run = .ready ∧ s.t.late = none ∧ s.t.prog = .fresh ∧ (onT s fun t => { t with run := .reply }).t.run = .reply) := by
  unfold alone State.canonical; decide +kernel

/-- An atomic alone at its bank, and the steps of a deque: an empty one, one with an entry, and one with 63. -/
theorem witness_BankAtomics :
    let a := access (.amo .fadd32 false 1)
    let s := banked (.amo .fadd32 false 1)
    s.canonical ∧ s.fab.waiters = [] ∧ alone s a 0 0x108 ∧ a.op = .amo .fadd32 false 1 ∧ a.fill = some result.id ∧
    s.fill? result.id = some result ∧ result.parts = 1 ∧ result.vals.length = 1 ∧ a.klass ≤ 2 ∧
    (let d (op : MemOp) (l : List Host.Cell) : State :=
       let b := banked op
       { b with mem := { b.mem with pan := l }, fab := { b.fab with accs := [{ access op with loc := .pan 0 0 }]
                                                                    banks := [⟨0, bankOf 0, 0, [], [], [7], 0, 1, none⟩] } }
     let count (s : State) := (s.mem.readAt (.pan 0 2) 2 + 2 ^ 16 - s.mem.readAt (.pan 0 0) 2) % 2 ^ 16
     (∀ x ∈ ([(.push 0x3000 0x2000, []), (.push 0x3000 0x2000, [⟨2, 63⟩]), (.pop, [⟨2, 1⟩]), (.pop, []), (.steal, [⟨2, 1⟩]), (.steal, [])] :
         List (MemOp × List Host.Cell)),
       let s := d x.1 x.2
       let a : Acc := { access x.1 with loc := .pan 0 0 }
       let b := s.bank 0 (bankOf 0)
       s.mem.wf = true ∧ s.fab.waiters = [] ∧ s.mem.badWords = [] ∧ b.queue = [a.id] ∧ s.acc? a.id = some a ∧ b.pair = none ∧ b.pairAt ≠ 0 ∧
         s.blocked a = false) ∧
     count (d .pop []) = 0 ∧ count (d .pop [⟨2, 1⟩]) = 1 ∧ count (d .pop [⟨2, 63⟩]) = 63 ∧ count (d .pop [⟨2, 64⟩]) = 64) := by
  unfold alone State.canonical; decide +kernel

/-- A descriptor, one that is misaligned by the least amount, no nest, and the last index of a chunk. -/
theorem witness_NestResults :
    let s := given small [(1, base + 0x1FE0), (2, base + 0x1FE8)]
    let n := ctl s fun c => { c with nest := [0x8000000000000000, 0x0001000100010003, 2, 3] }
    s.writable [5, 28, 29, 30, 31] ∧ s.readable [1, 2] ∧ s.acquireHeld = false ∧ s.t.run = .ready ∧ s.t.claiming = false ∧
    0 = s.t.ident.pan ∧ (s.val 1).toNat % 32 = 0 ∧ ownPan s (s.val 1) 0 0x1FE0 1 true true ∧ (s.val 2).toNat % 32 ≠ 0 ∧ s.traps ∧
    s.t.nestValid = false ∧ n.writable [27, 28, 29, 30, 31] ∧ (27 : Reg).val < 28 ∧ n.t.nestValid = true ∧
    (n.t.nestWord 2).toNat % 2 ^ 48 < (n.t.nestWord 3).toNat % 2 ^ 48 ∧ n.t.ctl.nest.length = 4 := by
  unfold State.writable State.readable State.traps
  refine ⟨?_, ?_, ?_, ?_, ?_, ?_, ?_, ⟨?_, ?_, 0x1FE0, ?_, ok_of ?_⟩, ?_⟩ <;> decide +kernel

/-- A park; a wake bit that is set and one that is not; a wake in the own Pan and of a channel core; and the barrier that the gang has with
the first that it lacks. -/
theorem witness_WaitsAndBarriers :
    let s := given small [(1, base + 8), (2, 0), (3, 1), (4, 0x2000)]
    let set : State := { s with slots := [⟨0, 0, .occupied, true, 1, []⟩] }
    s.readable [1, 2, 3, 4] ∧ s.writable [5] ∧ s.acquireHeld = false ∧ s.drained = true ∧ s.traps ∧ (s.val 1).toNat % 8 = 0 ∧
    ownPan s (s.val 1) 0 8 1 true false ∧
    (let x := set.slot set.t.ident.core0 set.t.ident.slot0
     set.t.run = .ready ∧ x.wake = true ∧ x.core = set.t.ident.core0 ∧ x.slot = set.t.ident.slot0 ∧ x.state ≠ .free) ∧
    (s.slot s.t.ident.core0 s.t.ident.slot0).wake = false ∧
    (s.t.inPanOf (s.val 2).toNat = true ∧ s.ownsPan s.t.ident.part (corePan (s.val 2).toNat) = true ∧
      8447 < (0x2100 : Word).toNat ∧ isCompute 1024 = true ∧ s.ownsPan s.t.ident.part (corePan 1024) = false) ∧
    isChannel (s.val 4).toNat = true ∧ isCompute s.t.core = true ∧ corePan s.t.core = s.t.ident.pan ∧
    (0 : Fin 4).val < s.bars.length ∧ s.bars.length ≤ (1 : Fin 4).val := by
  unfold State.writable State.readable State.traps
  refine ⟨?_, ?_, ?_, ?_, ?_, ?_, ⟨?_, ?_, 8, ?_, ok_of ?_⟩, ?_⟩ <;> decide +kernel

/-- A place in the own trellis, one in another, and one where the partition has no slot. -/
theorem witness_HopResults :
    let far : State := { small with mem := { small.mem with maps := [⟨0, 0, 0, true, true, true, false, 1, 0, 1⟩] } }
    let s := given small [(1, base)]
    let t := given far [(1, base)]
    let none_ : State := { t with parts := [{ part0 with own := { own0 with slotmask := 0 } }] }
    s.readable [1] ∧ ownPan s (s.val 1) 0 0 1 true false ∧ (1024 * 0 + 8 * (0 / 2 ^ 18)) / 8 = s.t.core / 8 ∧
    t.readable [1] ∧ ownPan t (t.val 1) 0 0x40000 1 true false ∧ (8 * (0x40000 / 2 ^ 18)) / 8 ≠ t.t.core / 8 ∧
    isCompute (8 * (0x40000 / 2 ^ 18)) = true ∧ t.slotMask t.t.ident.part (8 * (0x40000 / 2 ^ 18)) ≠ 0 ∧ t.departWaits [1] = false ∧
    none_.slotMask none_.t.ident.part (8 * (0x40000 / 2 ^ 18)) = 0 := by
  unfold State.readable
  refine ⟨?_, ⟨?_, ?_, 0, ?_, ok_of ?_⟩, ?_, ?_, ⟨?_, ?_, 0, ?_, ok_of ?_⟩, ?_⟩ <;> decide +kernel

/-- A deque at the window's start and a frame in the next page; the answers of `fork` and `join` at each of their steps, with a task and
without; and a slot to spawn in, none, and an odd address. -/
theorem witness_Tasks :
    let regs : List (Reg × Word) := [(1, base), (2, base + 0x2000), (3, 0x3000), (4, 0x3001)]
    let s := given small regs
    let answer (k : FillKind) (vals : List Word) : Fill :=
      { result with kind := k, regs := [], vals := vals, resume := false, advance := false, parts := 0 }
    let has (k : FillKind) (vals : List Word) : Prop :=
      answers (onT { s with fab := { s.fab with fills := [answer k vals] } } fun t => { t with run := .reply }) (answer k vals) k
    let spot (n : Nat) : Loc × Label := (.pan 0 n, 1)
    s.readable [1, 2, 3] ∧ s.acquireHeld = false ∧ s.drained = true ∧ (s.val 3).toNat % 2 = 0 ∧
    taskPlaces s (s.val 1) (s.val 2) (spot 0x2000) (spot 0) 0 0x2000 0 ∧ labelLe (s.joined [3, 2]) 1 = true ∧
    (has (.fork false 3 1 2) [0] ∧ has (.fork true 3 1 2) [0] ∧ has (.fork true 3 1 2) [1] ∧ has (.join .count 5 2 1) [0] ∧
      has (.join .count 5 2 1) [3] ∧ has (.join (.pop 3) 5 2 1) [0] ∧ has (.join (.pop 3) 5 2 1) [1, 0x3000, 0x2000]) ∧
    s.stealSpan = 1 ∧ s.writable [5, nextReg 5] ∧ s.t.run = .ready ∧ s.t.ctl.pendred ≠ 16 ∧
    (s.val 2).toNat % 8 = 0 ∧ ownPan s (s.val 2) 0 0x2000 1 true true ∧ labelLe (s.joined [2, 3]) 1 = true ∧
    s.gang? s.t.ident.gang = some gang1 ∧ gang1.gid = s.t.ident.gang ∧ (s.val 3).toNat < 2 ^ 55 ∧ s.gangSize gang1.gid < 16384 ∧
    s.freeAmong s.t.ident.part s.t.spawnCores = some (0, 1) ∧
    ({ s with parts := [{ part0 with own := { own0 with slotmask := 1, panmask := 0 } }] } : State).freeAmong 0 s.t.spawnCores = none ∧
    (s.val 4).toNat % 2 = 1 ∧ s.traps := by
  unfold State.writable State.readable State.traps answers
  refine ⟨?_, ?_, ?_, ?_, ⟨?_, ?_, ?_, ?_, ⟨0, ?_⟩, ok_of ?_, ok_of ?_, ?_⟩, ?_, ?_, ?_, ?_, ?_, ?_, ?_, ⟨?_, ?_, 0x2000, ?_, ok_of ?_⟩, ?_⟩ <;> decide +kernel

/-! ## Witnesses: the vector lanes -/

theorem witness_VectorElements :
    vready claimed [0, 7, 15] ∧ claimed.readable [1] ∧ claimed.writable [1] := by
  unfold vready State.readable State.writable; decide +kernel

/-- An active lane that raises a flag (1 + 2^−149 in FP32) without a trap, with one, and at the turn after. -/
theorem witness_VectorFloat :
    let v (x : BitVec 32) : VecReg := ⟨List.replicate 16 x, true, 0⟩
    let s := onT small fun t => { t with claim := ⟨1, [v 0x3F800000, v 1, v 0], [], 0⟩ }
    let trapping := ctl s fun c => { c with status := 0x7C00 }
    let fl := (fAdd fmtFp32 .rne 0 (decodeF fmtFp32 0x3F800000) (decodeF fmtFp32 1)).2
    vready s [2, 0, 1] ∧ fl ≠ 0 ∧ fl &&& s.t.fpen = 0 ∧ vready trapping [2, 0, 1] ∧ fl &&& trapping.t.fpen ≠ 0 ∧ trapping.traps ∧
    trapping.t.prog = .fresh ∧ (onT trapping fun t => { t with prog := .stage 1 0 0 }).t.prog = .stage 1 0 0 := by
  unfold vready State.traps; decide +kernel

theorem witness_VectorWhole :
    vready claimed [0, 7, 15] ∧ claimed.t.claim.lanes ≤ 64 ∧ claimed.t.rm ≠ .sr ∧ claimed.t.fpen = 0 ∧
    (let s := ctl claimed fun c => { c with status := 0x7C00 }
     flagNX &&& s.t.fpen ≠ 0 ∧ s.traps ∧ s.t.prog = .fresh) := by
  unfold vready State.traps; decide +kernel

/-- Every refusal of a claim; a claim for which there is no room; one that is granted with all that is left; and the ends of a claim. -/
theorem witness_VectorClaims :
    let s := given small [(1, 8), (2, 8), (3, 0), (4, 65), (5, 4), (6, 64)]
    let none_ : State := { s with gangs := [{ gang1 with vlanes := 0 }] }
    let held := onT s fun t => { t with claim := claimed.t.claim }
    let busy := onT held fun t => { t with claim := { t.claim with regs := [⟨[], false, 0⟩] } }
    let room (x y : Nat) := min (min x s.imageLanes) (s.vlaneq 0 - s.lanesHeld 0 0 0) - max y 1
    s.t.atOrigin = true ∧ s.writable [7] ∧ s.readable [1, 2, 3, 4, 5, 6] ∧ s.traps ∧ held.t.claim.lanes ≠ 0 ∧ s.t.claim.lanes = 0 ∧
    none_.imageLanes = 0 ∧ s.imageLanes ≠ 0 ∧ (s.val 3).toNat = 0 ∧ 64 < (s.val 4).toNat ∧ (s.val 5).toNat < (s.val 2).toNat ∧
    (min (min 8 s.imageLanes) (s.vlaneq 0 - s.lanesHeld 0 0 0) < max 8 1) ∧
    (1 ≤ (s.val 6).toNat ∧ (s.val 6).toNat ≤ 64 ∧ max 4 1 ≤ min (min 64 s.imageLanes) (s.vlaneq 0 - s.lanesHeld 0 0 0)) ∧
    room 64 4 = 0 ∧ held.t.atOrigin = true ∧ held.vecDrained = true ∧ held.val 3 = 0 ∧ held.val 6 ≠ 0 ∧ held.imageLanes ≠ 0 ∧
    (held.lanesHeld 0 0 0 - held.t.claim.lanes = 0) ∧ busy.vecDrained = false := by
  unfold State.writable State.readable State.traps; decide +kernel

/-- A load that passes its checks with and without an active element, one whose base is not mapped, a store, and a page whose label may
not be written. -/
theorem witness_VectorMemory :
    let s0 := given claimed [(1, base + 0xFFF0), (2, base + 0x10000)]
    let s : State := { s0 with mem := { s0.mem with vats := [(0, 44)] } }
    let acts := List.range 16
    let ok (r : Except (TrapCode × Word) (Fmt × List VecElem)) (n : Nat) : Bool := match r with
      | .ok (_, els) => els.length == n && els.map VecElem.i == List.range n && (els.flatMap VecElem.labels).all fun l => labelLe 1 l
      | .error _ => false
    let bad (r : Except (TrapCode × Word) (Fmt × List VecElem)) : Bool := match r with
      | .ok _ => false
      | .error _ => true
    vready s [0, 15] ∧ s.readable [1, 2] ∧ s.acquireHeld = false ∧ s.t.run = .ready ∧ isCompute s.t.core = true ∧
    corePan s.t.core = s.t.ident.pan ∧ s.t.fpen = 0 ∧ s.traps ∧ s.t.rm ≠ .sr ∧
    ok (s.vecCheck .unit (s.val 1 - 0x30) acts false) 16 = true ∧ ok (s.vecCheck .unit (s.val 1) [] false) 0 = true ∧
    bad (s.vecCheck .unit (s.val 2) acts false) = true ∧ ok (s.vecCheck .unit (s.val 1 - 0x30) acts true) 16 = true ∧
    bad (s.vecCheck .unit (s.val 1) acts true) = true ∧ ok (s.vecCheck (.indexed 0) (s.val 1 - 0x100) acts true) 16 = true := by
  unfold vready State.readable State.traps; decide +kernel

/-! ## Witnesses: engines, launches, exports and the census -/

/-- A state with bytes in Pan 0's store. -/
def bytes (s : State) (l : List (Nat × List Byte)) : State :=
  { s with mem := { s.mem with pan := l.foldl (fun m x => cellsWrite m x.1 x.2) s.mem.pan } }

/-- The same with the first 2 GiB of the global addresses mapped to the HBM of the same numbers: tables in frames 1 to 3. -/
def mapped (s : State) : State :=
  { s with
    parts := s.parts.map fun p => { p with regs := { p.regs with root := some 0x2000 } }
    mem := { s.mem with
      hbm := [⟨0x2000, 1⟩, ⟨0x2001, 0x40⟩, ⟨0x4000, 1⟩, ⟨0x4001, 0x60⟩, ⟨0x6000, 0x3F⟩, ⟨0x6008, 1⟩]
      owners := [⟨0, true, 0, 0, 1⟩, ⟨2, true, 0, 0, 1⟩, ⟨3, true, 0, 0, 1⟩] } }

/-- A copy block in bytes: 16 elements from page 1 to page 2, shaped at its destination, by the shape record of page 3. -/
def copyBlock (shape : Nat) : List Byte :=
  natBytes 8 (base.toNat + 0x2000) ++ natBytes 8 (base.toNat + 0x4000) ++ natBytes 8 shape ++ natBytes 8 0 ++ natBytes 4 16 ++
    natBytes 4 0 ++ natBytes 4 0 ++ natBytes 2 1 ++ natBytes 18 0

/-- A shape record of one row of 16 bytes. -/
def shapeRecord : List Byte :=
  natBytes 8 0 ++ natBytes 4 16 ++ natBytes 4 1 ++ natBytes 4 1 ++ natBytes 4 1 ++ natBytes 8 1 ++ natBytes 24 0 ++ natBytes 1 1 ++
    natBytes 1 0x20 ++ natBytes 6 0

/-- `rackv`: a length of 1 byte and the longest one, one that is too long, and an address outside both windows. `rack`: a block that is accepted,
one without a shape, one with a side outside both windows, and a misaligned address. -/
theorem witness_CopySubmissions :
    let far : Word := 0x00FE000000000000
    let s := given (bytes small [(0xE000, copyBlock (base.toNat + 0x6000)), (0x6000, shapeRecord), (0xE040, copyBlock 0)])
      [(1, base + 0x2000), (2, base + 0x4000), (3, 1), (5, 0x1000000), (7, 0x1000001), (8, far), (10, base + 0xE000), (11, base + 0xE008),
       (12, base + 0xE040), (13, 0x300000010)]
    let n (r : Reg) := (s.val r).toNat % 2 ^ 25
    let legal (r : Reg) := 1 ≤ n r ∧ n r ≤ 2 ^ 24 ∧ (s.val r).toNat / 2 ^ 25 % 2 ^ 7 = 0 ∧ (s.val r).toNat / 2 ^ 34 = 0
    let c := s.newCmd .rackv 3 0 (rackvBlock (s.val 1) (s.val 2) 16) [] [] s.t.ctl.clabel (s.joined [2, 1, 13]) 0
    (s.t.atOrigin = true ∧ s.writable [2, 4, 6, 12] ∧ s.readable [1, 2, 3, 5, 7, 8, 10, 11, 12, 13] ∧ s.drained = true) ∧ s.traps ∧
    s.acquireHeld = false ∧ ¬ (s.vaClass (s.val 1) = .none ∨ s.vaClass (s.val 1) = .device) ∧ ¬ (s.vaClass (s.val 2) = .none ∨ s.vaClass (s.val 2) = .device) ∧
    legal 3 ∧ legal 5 ∧ ¬ legal 7 ∧ legal 13 ∧ s.vaClass (s.val 8) = .none ∧ s.sidesOverlap 0 0 c.copy 0 = false ∧
    s.roomFor s.t.place c = true ∧ (s.val 10).toNat % 64 = 0 ∧ (s.val 11).toNat % 64 ≠ 0 ∧
    blockAt s (s.val 10) 64 (copyBlock (base.toNat + 0x6000)) 1 ∧ blockAt s (s.val 12) 64 (copyBlock 0) 1 ∧
    wordAt (copyBlock 0) 0x10 = 0 ∧ wordAt (copyBlock 0) 0x18 = 0 ∧
    (let bs := copyBlock (base.toNat + 0x6000)
     wordAt bs 0x18 = 0 ∧ wordAt bs 0x10 ≠ 0 ∧ (wordAt bs 0x10).toNat % 64 = 0 ∧ blockAt s (wordAt bs 0x10) 64 shapeRecord 1 ∧
     ((s.engine s.t.place).shapes.find? fun x => x.part = s.t.ident.part && x.va = wordAt bs 0x10) = none ∧
     s.blockRead (s.val 10) 64 = s ∧ s.blockRead (wordAt bs 0x10) 64 = s ∧
     let s1 := s.modEngine s.t.place fun e => e.keepShape ⟨s.t.ident.part, wordAt bs 0x10, shapeRecord, 1⟩
     let rnd := fieldOf s.t.ctl.status 2 3
     let rm := boundRound (fieldAt bs 0x2A 1) rnd
     let block := bindRound bs 0x2A rnd
     let x := copyOf block shapeRecord
     let done := fieldAt block 0x24 4
     let c := { s1.newCmd .copy (fieldAt block 0x28 1) (s.val 10) block shapeRecord [] (s.t.ctl.clabel ||| (1 ||| 1))
       (s.joined [10] ||| 1) rm with done := done, draws := s1.copyDraws s.t.ident.part s.t.ident.pan x done rm }
     copyBlockOk s.t.ident.pan bs shapeRecord = true ∧
     (s1.laidOut 0 x ((s1.sideFmt 0 0 x false 0).bind Prod.fst) s.t.isTask 0).layoutOk = true ∧ s.outside (x.origin false) = false ∧
     s.outside (x.origin true) = false ∧ s.outside ((copyOf (natBytes 8 far.toNat ++ block.drop 8) shapeRecord).origin false) = true ∧ s1.sidesOverlap s.t.ident.part s.t.ident.pan x done = false ∧
     s1.haltedCopy s.t.place s.t.ident.part c.queue (s.val 10) = none ∧
     s1.roomFor s.t.place c = true) := by
  unfold State.writable State.readable State.traps blockAt
  refine ⟨?_, ?_, ?_, ?_, ?_, ?_, ?_, ?_, ?_, ?_, ?_, ?_, ?_, ?_, ⟨?_, ok_of ?_, ?_⟩, ⟨?_, ok_of ?_, ?_⟩, ?_, ?_, ?_, ?_, ?_, ⟨?_, ok_of ?_, ?_⟩, ?_, rfl, rfl, ?_⟩ <;> decide +kernel

/-- A Press block of the least size and one without rows; and a collective whose block and group record are legal, with one whose block is not. -/
theorem witness_PressAndCollectiveSubmissions :
    let press (m : Nat) : List Byte := natBytes 8 base.toNat ++ natBytes 8 (base.toNat + 0x2000) ++ natBytes 8 (base.toNat + 0x4000) ++ natBytes 16 0 ++
      natBytes 2 8 ++ natBytes 2 8 ++ natBytes 2 32 ++ natBytes 1 m ++ natBytes 1 1 ++ natBytes 2 8 ++ natBytes 2 0 ++ natBytes 1 0 ++
      natBytes 1 29 ++ natBytes 1 0 ++ natBytes 9 0
    let coll (count : Nat) : List Byte := natBytes 8 base.toNat ++ natBytes 8 (base.toNat + 0x2000) ++ natBytes 8 0x10000 ++ natBytes 4 count ++
      natBytes 1 12 ++ natBytes 35 0
    let group : List Byte := natBytes 4 0 ++ natBytes 1 2 ++ natBytes 1 0 ++ natBytes 2 1 ++ natBytes 8 0 ++ natBytes 4 0 ++ natBytes 4 1 ++ natBytes 232 0
    let s0 := given (mapped (bytes small [(0xE000, press 1), (0xE040, press 0), (0xE080, coll 1), (0xE0C0, coll 0)]))
      [(1, base + 0xE000), (2, base + 0xE040), (3, base + 0xE080), (4, base + 0xE0C0)]
    let s : State := { s0 with mem := { s0.mem with hbm := cellsWrite s0.mem.hbm 0x10000 group } }
    let q := s.rangeQuota s.t.ident.pan
    let label := s.t.ctl.clabel ||| s.lbl 1 ||| 1
    let tl := s.joined [1] ||| 1
    let block := bindRound (press 1) 0x36 0
    let b := pressBlock block
    (s.t.atOrigin = true ∧ s.writable [5] ∧ s.readable [1, 2, 3, 4] ∧ s.drained = true) ∧ (s.val 1).toNat % 64 = 0 ∧
    blockAt s (s.val 1) 64 (press 1) 1 ∧ blockAt s (s.val 2) 64 (press 0) 1 ∧ s.outside (s.val 1) = false ∧ s.acquireHeld = false ∧
    b.ok block s.t.ident.pan q = true ∧ b.resume = false ∧ b.zeroOk s.t.ident.pan q = true ∧
    s.roomFor s.t.place { s.newCmd .press 6 (s.val 1) block [] [] label tl b.round with draws := b.draws b.round } = true ∧
    s.roomFor s.t.place { s.newCmd .zero 6 (s.val 1) block [] [] label tl 0 with draws := 0 } = true ∧
    (pressBlock (press 0)).ok (press 0) s.t.ident.pan q = false ∧ (pressBlock (press 0)).zeroOk s.t.ident.pan q = false ∧
    blockAt s (s.val 3) 64 (coll 1) 1 ∧ blockAt s (s.val 4) 64 (coll 0) 1 ∧ isGlobal (wordAt (coll 1) 0x10).toNat = true ∧
    (wordAt (coll 1) 0x10).toNat % 64 = 0 ∧ blockAt s (wordAt (coll 1) 0x10) 256 group 1 ∧ groupOk group = true ∧
    (∀ k ∈ [0, 1, 2], collBlockOk (coll 1) k = true ∧ collBlockOk (coll 0) k = false ∧
      s.roomFor s.t.place { s.newCmd .coll 4 (s.val 3) (coll 1) group [] (s.t.ctl.clabel ||| 1 ||| 1) (s.joined [3] ||| 1) 0 with req := k } = true) := by
  unfold State.writable State.readable blockAt
  refine ⟨?_, ?_, ⟨?_, ok_of ?_, ?_⟩, ⟨?_, ok_of ?_, ?_⟩, ?_, ?_, ?_, ?_, ?_, ?_, ?_, ?_, ?_, ⟨?_, ok_of ?_, ?_⟩, ⟨?_, ok_of ?_, ?_⟩, ?_, ?_, ⟨?_, ok_of ?_, ?_⟩, ?_⟩ <;> decide +kernel

/-- A command in an engine. -/
def command (k : CmdKind) (q : Nat) (st : CmdState) : Cmd :=
  { small.newCmd k q base (copyBlock (base.toNat + 0x6000)) shapeRecord [] 1 1 0 with id := 9, ticket := BitVec.ofNat 64 (q * 2 ^ 16), state := st }

/-- The engine of trellis 0, with commands. -/
def engine0 (cs : List Cmd) : Engine := ⟨0, cs, [], [], [], [], [], [], [], [], 0, 0, 0, none, [], [], [], [], []⟩

/-- A ticket that no command has, those of a live and of a halted command in a racking queue and in the Press queue, and that of a retired one; the fences of
an engine with a command. -/
theorem witness_TicketsAndFences :
    let s := given { small with engines := [engine0 [command .copy 0 .started, command .press 6 .halted]] }
      [(1, 0x100000000), (2, 0), (3, 0x60000)]
    let r : Retired := ⟨0, 6, 1, 0x60001, 0, 1, none, List.replicate 16 0⟩
    let old := given { small with engines := [{ engine0 [] with retired := [r] }] } [(1, 0x60001)]
    let f (s : State) (w : Word) := (s.engine s.t.place).cmds.find? fun c => c.part = s.t.ident.part && c.ticket = w
    s.t.atOrigin = true ∧ s.writable [5] ∧ s.readable [1, 2, 3] ∧ (s.val 1).toNat / 2 ^ 32 % 2 ^ 16 ≠ 0 ∧
    f s (s.val 2) = some (command .copy 0 .started) ∧ f s (s.val 3) = some (command .press 6 .halted) ∧
    (s.val 3).toNat / 2 ^ 32 % 2 ^ 16 = 0 ∧ (s.val 3).toNat / 2 ^ 16 % 8 = 6 ∧ (s.val 2).toNat / 2 ^ 16 % 8 ≠ 7 ∧
    f old (old.val 1) = none ∧ ((old.engine old.t.place).fences.any fun f => f.part = old.t.ident.part && f.ticket = old.val 1) = false ∧
    ((old.engine old.t.place).retired.find? fun r => r.part = old.t.ident.part && r.ticket = old.val 1) = some r ∧ s.drained = true ∧
    ((s.engine s.t.place).fences.filter fun f => f.part = s.t.ident.part).length < 8 ∧
    ((s.engine s.t.place).cmds.filter fun c => c.part = s.t.ident.part && (1 : Nat).testBit c.queue).map Cmd.id ≠ [] := by
  unfold State.writable State.readable; decide +kernel

/-- A launch record that is legal, one that is not, and one that is misaligned; a Sluice block for every clause; and invocations of this chip, of a chip without a
port, and out of range. -/
theorem witness_LaunchSluiceInvoke :
    let rec_ (n : Nat) : List Byte := natBytes 8 0x10000 ++ natBytes 8 0 ++ natBytes 4 1 ++ natBytes 2 n ++ natBytes 42 0
    let block (op n : Nat) : List Byte := natBytes 8 (base.toNat + 0x2000) ++ natBytes 8 0 ++ natBytes 4 n ++ natBytes 1 op ++ natBytes 43 0
    let policy : List Byte := natBytes 8 0x10000 ++ natBytes 8 0x20000 ++ natBytes 4 (64 + signatureBytes) ++ natBytes 1 1 ++ natBytes 43 0
    let s0 := given (bytes small [(0x1000, rec_ 1), (0x1040, rec_ 0), (0x1080, block 0 1), (0x10C0, block 0 0), (0x1100, policy), (0x1140, block 0x80 1)])
      [(1, base + 0x1000), (2, base + 0x1040), (3, base + 0x1001), (4, 4095), (5, 255), (6, 4096), (7, base + 0x1080), (8, 0), (9, base + 0x1140), (11, base + 0x1100)]
    let s : State := { s0 with vfs := [⟨0, 0, true, false, false, false, [], [], 0, 0⟩] }
    let foreign : State := { s0 with vfs := [⟨0, 1, true, false, false, false, [], [], 0, 0⟩] }
    let read (s : State) (r : Reg) (n : Nat) := s.readVa s.t.ident.part s.t.localPan (s.val r) n s.t.isTask
    let open_ (bs : List Byte) : Bool := s.vaClass (wordAt bs 0) != .none && s.vaClass (wordAt bs 0) != .device
    s.writable [10] ∧ s.readable [1, 2, 3, 4, 5, 6, 7, 8, 9, 11] ∧ s.traps ∧ s.drained = true ∧ s.acquireHeld = false ∧ (s.val 3).toNat % 8 ≠ 0 ∧
    (∀ r ∈ ([1, 2, 7, 9, 11] : List Reg), s.readHeld (s.val r) 64 = false) ∧ s.readHeld (wordAt (block 0 1) 0) 1 = false ∧
    ((s.val 1).toNat % 8 = 0 ∧ read s 1 64 = .ok (rec_ 1, 1) ∧ read s 2 64 = .ok (rec_ 0, 1) ∧ s.part? s.t.ident.part = some part0 ∧
      part0.retiring = false ∧ labelLe (s.joined [1] ||| 1) (partLabel part0.num) = true ∧ s.recordOk 0 (rec_ 1) true = true ∧
      s.recordOk 0 (rec_ 0) true = false ∧ fieldAt (rec_ 1) 0x20 8 = 0 ∧
      (part0.unit.jobs.filter fun j => j.inv.isNone && j.prio = fieldAt (rec_ 1) 0x17 1 && !j.closed).length < 256) ∧
    ((s.val 7).toNat % 64 = 0 ∧ read s 7 64 = .ok (block 0 1, 1) ∧ read s 9 64 = .ok (block 0x80 1, 1) ∧ read s 11 64 = .ok (policy, 1) ∧ sluiceBlockOk (block 0 0) (open_ (block 0 1)) = false ∧
      sluiceBlockOk policy (open_ (block 0 1)) = true ∧ fieldAt policy 0x14 1 % 4 ≠ 0 ∧ fieldAt policy 0x14 1 / 128 % 2 = 0 ∧ s.t.isTask = true ∧ sluiceBlockOk (block 0 1) (open_ (block 0 1)) = true ∧ sluiceBlockOk (block 0x80 1) (open_ (block 0 1)) = true ∧
      s.readVa s.t.ident.part s.t.localPan (wordAt (block 0 1) 0) 1 s.t.isTask = .ok ([0], 1) ∧
      (s.vfs.find? fun v => v.num = 0 && v.valid).map VirtFn.part = some 0 ∧
      (foreign.vfs.find? fun v => v.num = 0 && v.valid).map VirtFn.part = some 1 ∧
      labelLe (s.t.ctl.clabel ||| s.lbl 7 ||| 1 ||| 1) (partLabel 0) = true ∧ labelLe (s.t.ctl.clabel ||| s.lbl 7 ||| 1 ||| 1) (partLabel 1) = false ∧
      ∀ e ∈ foreign.sec.policies, ¬ (e.dkind = 0 ∧ e.dest = 0)) ∧
    ((s.val 4).toNat ≤ 4095 ∧ (s.val 5).toNat ≤ 255 ∧ 4095 < (s.val 6).toNat ∧ (s.val 4).toNat ≠ s.dev.chip ∧
      (s.portFor (s.val 4).toNat).filter Port.attested = none ∧ (s.val 8).toNat = s.dev.chip) := by
  unfold State.writable State.readable State.traps
  refine ⟨?_, ?_, ?_, ?_, ?_, ?_, ?_, ?_, ⟨?_, ok_of ?_, ok_of ?_, ?_⟩, ⟨?_, ok_of ?_, ok_of ?_, ok_of ?_, ?_, ?_, ?_, ?_, ?_, ?_, ?_, ok_of ?_, ?_⟩, ?_⟩ <;> decide +kernel

/-- A thread outside a census and a responder, before and after its answer; no result outstanding, one, and two that came; and a directory block with the place of a
move. -/
theorem witness_SolicitAndDirectory :
    let block : List Byte := natBytes 8 5 ++ natBytes 8 base.toNat ++ natBytes 4 8 ++ natBytes 12 0
    let s := given (bytes small [(0x1000, block)]) [(1, base + 0x1000), (2, base + 0x2000), (3, base)]
    let last : State := onT { s with fab := { s.fab with fills := [{ result with kind := .census 3, resume := false, advance := false }] } }
      fun t => { t with run := .reply, prog := .results 5 1 0 }
    let m : Match := ⟨20, 3, 0, 0, some 1, false, 0⟩
    let resp (done : Bool) : State := { onT s (fun t => { t with ident := { t.ident with census := 3, answered := done } }) with
      engines := [{ engine0 [] with matched := [m] }] }
    let waits : State := { s with fab := { s.fab with fills := [{ result with kind := .census 3 }] } }
    let left (s : State) := s.fab.fills.filter fun f => f.uid = s.t.ident.uid && (match f.kind with
      | .census id => id ≠ 0
      | _ => false)
    s.writable [5, nextReg 5] ∧ s.readable [1, 2, 3] ∧ s.traps ∧ (s.drained = true ∧ s.acquireHeld = false) ∧ s.t.ident.census = 0 ∧ (resp false).t.ident.census ≠ 0 ∧
    (resp true).t.ident.answered = true ∧ (resp false).t.ident.answered = false ∧ (resp false).matchOf 1 = some (0, m) ∧
    ((resp false).engine 0).place = 0 ∧ m ∈ ((resp false).engine 0).matched ∧ left waits ≠ [] ∧ left s = [] ∧ s.t.prog = .fresh ∧
    ((last.fab.fills.map Fill.id = [result.id]) ∧ (left last).map Fill.id = [result.id] ∧ (last.fill? result.id).map Fill.kind = some (.census 3) ∧
      last.t.run = .reply ∧ last.t.prog = .results 5 1 0) ∧ s.readHeld (s.val 1) 32 = false ∧
    ((s.val 1).toNat % 32 = 0 ∧ s.readVa s.t.ident.part s.t.localPan (s.val 1) 32 s.t.isTask = .ok (block, 1) ∧
      s.tileWindow (wordAt block 8) true false = .ok (namedVa 0 0) ∧ s.tileWindow (s.val 2) false true = .ok (namedVa 0 0x2000)) := by
  unfold State.writable State.readable State.traps
  refine ⟨?_, ?_, ?_, ?_, ?_, ?_, ?_, ?_, ?_, ?_, ?_, ?_, ?_, ?_, ?_, ?_, ?_, ok_of ?_, ok_of ?_, ok_of ?_⟩ <;> decide +kernel

/-! ## Witnesses: events of threads, of ordering and of the fabric -/

/-- The state with a trap pending, and the same within a handler. -/
def pended (k : AsyncKind) : State := onT small fun t => { t with pending := [⟨k, 5, 6, 2⟩] }
def within (s : State) : State := onT s fun t => t.setStatus 17 1 1

/-- The thread asleep, and a watch of it at a word. -/
def asleep : State := onT small fun t => { t with run := .sleeping, prog := .stage 5 1 2, stamp := 3 }
def watched : State :=
  let s := banked (.park 0 5)
  { s with fab := { s.fab with waiters := [⟨7, 0, .pan 0 0x108, false, true, 0⟩] } }

/-- One trap outside a handler, DATAERR within one, TIMER within one, and no TIMER; a sleep and a watch that time out, and none; and a
thread in rotation. -/
theorem witness_ThreadEvents :
    (∀ s ∈ [pended .timer, within (pended .dataerr)], s.t.run = .ready ∧ s.t.pending.length = 1 ∧ s.t.second = [] ∧
      (s.t.inTrap = false ∨ s.t.pending.map AsyncTrap.kind = [.dataerr])) ∧
    ((within (pended .timer)).t.run = .ready ∧ (within (pended .timer)).t.pending = [⟨.timer, 5, 6, 2⟩] ∧ (within (pended .timer)).t.inTrap = true) ∧
    (small.thread 1 = some task1 ∧ task1.run = .ready ∧ (task1.pending.any fun x => x.kind == .timer) = false ∧ 1 = task1.ident.uid) ∧
    (asleep.thread 1 = some asleep.t ∧ asleep.t.run = .sleeping ∧ asleep.t.prog = .stage (5 : Reg).val 1 2 ∧ (0 : Nat) ≠ asleep.t.stamp) ∧
    (let a := access (.park 0 5)
     (watched.fab.waiters.find? fun w => w.acc = a.id && w.watch) = some ⟨a.id, 0, .pan 0 0x108, false, true, 0⟩ ∧ watched.acc? a.id = some a ∧
       a.uid = 1 ∧ a.fill = some result.id ∧ watched.fill? result.id = some result ∧ result.parts = 1 ∧ result.vals.length = 1) ∧
    (small.fab.waiters.find? fun w => w.acc = 7 && w.watch) = none ∧
    (let t := { task1 with ctl := { task1.ctl with hbint := 100, hbcnt := 100 } }
     (onT small fun _ => t).thread 1 = some t ∧ t.run = .ready ∧ t.ctl.hbint ≤ t.ctl.hbcnt) := by
  decide +kernel

/-- A request at the barrier of the gang, with so many arrived. -/
def barrier (wait : Bool) (arrived : Nat) : State :=
  { small with
    gangs := [{ gang1 with bars := [⟨0, arrived, 2, 0, 0⟩] }]
    fab := { small.fab with bars := [⟨1, 0, 1, 0, wait, 0, 8, 0, 1, false⟩], fills := [result] } }

/-- A thread at a global fence. -/
def fencing : State := onT small fun t => { t with prog := .asked 0 }

/-- A resize with nothing to do. -/
def resize0 : Resize := ⟨[0], [], [], [], [], [], []⟩

/-- A sweep of slice 0, of the way 0. -/
def sweeping (r : Resize) : State := { small with dev := { small.dev with resize := some r } }

/-- An arrival that is the last and one that is not, one that waits for its thread's past, a wait for the phase that runs and one for the phase before it, a
barrier's result on its way, and a thread at a global fence; no burst held, a channel that is derated and one that is not; and a sweep that goes on. -/
theorem witness_OrderAndClockEvents :
    (∀ s ∈ [barrier false 0, barrier false 1, barrier true 0], ∃ r g b,
      (s.fab.bars.filter fun x => x.pan = 0 && x.due ≤ s.time.cycle && !x.listed) = [r] ∧ s.gang? r.gang = some g ∧ g.bars[r.n]? = some b ∧
      s.fill? r.fill = some result ∧ b.phase = r.token ∧ r.token < 2 ^ 16 ∧ s.barWaits r = false ∧ (s.thread r.uid).isSome = true) ∧
    (let s := ctl (barrier false 0) fun c => { c with vclock := [0, 0, 0, 0, 0, 1] }
     ∃ r, s.fab.bars = [r] ∧ s.barWaits r = true) ∧
    (let s : State := { barrier true 0 with gangs := [{ gang1 with bars := [⟨1, 0, 2, 0, 0⟩] }] }
     ∃ r, s.fab.bars = [r] ∧ (s.gang? r.gang).bind (fun g => g.bars[r.n]?) = some ⟨1, 0, 2, 0, 0⟩ ∧ 1 = (r.token + 1) % 2 ^ 16) ∧
    (let f : Fill := { result with kind := .phase 1 0, vals := [0], parts := 0 }
     let s := onT { small with fab := { small.fab with fills := [f] } } fun t => { t with run := .reply }
     s.fill? f.id = some f ∧ f.uid = s.t.ident.uid ∧ f.kind = .phase gang1.gid 0 ∧ f.regs = [1] ∧ f.err = none ∧ f.resume = true ∧ f.advance = true ∧
       s.t.run = .reply ∧ s.t.late = none ∧ s.gang? gang1.gid = some gang1 ∧ gang1.bars[0]? = some ⟨0, 0, 2, 0, 0⟩) ∧
    fencing.thread 1 = some fencing.t ∧ fencing.t.prog = .asked 0 ∧ small.ctrl.held = [] ∧ 3 ∉ small.ctrl.derated ∧
    3 ∈ ({ small with ctrl := { small.ctrl with derated := [3] } } : State).ctrl.derated ∧
    (let r := { resize0 with sweeps := [(0, 1)] }
     (sweeping r).dev.resize = some r ∧ (r.sweeps.find? fun x => x.1 = 0) = some (0, 1) ∧ 1 / 2 ^ 16 + 1 < 256 * onesBelow 16 (1 % 2 ^ 16)) := by
  refine ⟨fun s h => ?_, ⟨_, rfl, ?_⟩, ⟨_, rfl, ?_⟩, ?_⟩
  · simp only [List.mem_cons, List.not_mem_nil, or_false] at h
    rcases h with rfl | rfl | rfl <;> exact ⟨_, _, _, rfl, rfl, rfl, rfl, rfl, by decide +kernel⟩
  all_goals decide +kernel

/-- The thread on its way to core 16, with what its packet carries. -/
def moving (f : Transit → Transit) : State :=
  onT small fun t => { t with run := .transit, transit := some (f ⟨16, 0, 0x0000FFFF, false, false, 40, 1, none⟩) }

/-- The same with no slot for it there; and its end 4,096 cycles later. -/
def shut (s : State) : State := { s with parts := [{ part0 with own := { own0 with slotmask := 0 } }] }
def later (s : State) (n : Nat) : State := { s with time := { s.time with cycle := n } }

/-- The thread in slot 0 of core 16, with its slot in core 0. -/
def away : State := onT small fun t => { t with core := 16, slot := 0 }

/-- A packet that finds a slot, one that finds none, one held in a buffer, one that is given up, one whose translation is asked for again, and the notice to
the slot it left. -/
theorem witness_MigrationEvents :
    let x : Transit := ⟨16, 0, 0x0000FFFF, false, false, 40, 1, none⟩
    let home (s : State) (x : Transit) : Prop := isCompute x.core = true ∧ x.core / 8 = 128 * s.t.ident.pan + s.t.ident.trellis
    let s := moving id
    let b := moving fun x => { x with buffered := true }
    (s.thread 1 = some s.t ∧ s.t.transit = some x ∧ x.buffered = false ∧ s.time.cycle < x.since + 4096 ∧ ¬ home s x ∧
      s.arrivalSlot s.t.ident.part x.core = some (16, 0)) ∧
    ((shut s).arrivalSlot s.t.ident.part x.core = none ∧
      ((shut s).bufferedAt (if isCompute x.core = true then x.core / 8 else x.core) s.t.ident.part).length < 128) ∧
    (b.bufferedAt (16 / 8) b.t.ident.part = [b.t] ∧ isCompute 16 = true ∧ b.arrivalSlot b.t.ident.part 16 = some (16, 0)) ∧
    ((moving fun x => { x with via := some (0x2000, 0) }).t.transit.bind Transit.via = some (0x2000, 0) ∧ x.via = none) ∧
    ((later s 4096).time.cycle = x.since + 4096 ∧ (later s 4096).thread 1 = some s.t) ∧
    ((away.threads.find? fun t => t.ident.core0 = 0 && t.ident.slot0 = 0 && t.run != .ended && t.run != .saved) = some away.t ∧
      ¬ (away.t.core = 0 ∧ away.t.slot = 0) ∧ (away.slot 0 0).core = 0 ∧ (away.slot 0 0).slot = 0) := by
  decide +kernel
/-! ## Witnesses: accesses on their way, launches and the fault queue -/

/-- A posted access alone on its way, and a leaf that a hub holds. -/
def posted (f : Acc → Acc) : State :=
  { small with fab := { small.fab with accs := [f { access (.store 8 5) with posted := true, state := .sent, fill := none }] } }
def leaf0 : CachedLeaf := ⟨0, 0, 1, 5, 0, true, true, true, true, 1, 1, 0, 0, false⟩

/-- A request of a posted write's translation, and a block read for a line of core 0. -/
def request0 : TransReq := ⟨20, 0, 0, 0x1000, 1, true, .posted 1, false, false, none⟩
def asking (hubs : List (Nat × CachedLeaf)) : State := let s := mapped small; { s with trans := { s.trans with hubs := hubs, reqs := [request0] } }
def read0 (failed : Option (Nat × Word)) : FetchRead := ⟨30, 0, 256, 0, [(0, 2049, true)], some 0x10000, false, failed, none, List.replicate 16 0, 1⟩
def fetching (failed : Option (Nat × Word)) : State := { small with fetch := { small.fetch with reads := [read0 failed] } }

/-- A burst of a fill, of a partition without a share of the channel and of one with. -/
def burst0 : L2Fill := ⟨40, 0x100, 1, false, 0, false, [], 0⟩
def bursting (cap : Nat) : State :=
  { small with parts := [{ part0 with own := { own0 with regcap := cap } }], mem := { small.mem with l2fills := [burst0] } }

/-- The same fill when its way holds a line that a sweep has still to write back. -/
def unswept0 : State := let s := bursting 5000; { s with
  mem := { s.mem with lines := [⟨8, 0, 0x202100, 1, 1, [], 0⟩] }
  dev := { s.dev with resize := some ⟨[], [], [], [], [], [(8, 1)], []⟩ } }

/-- A read of a page that is not task-accessible, and one whose reader's past is not applied yet. -/
def denied0 : FetchRead := { read0 none with deny := some 4 }
def behind0 : FetchRead := { read0 none with clock := [0, 0, 1] }

/-- A write of the own die, one of another die in order and one that is early, an early one that has arrived, an acknowledgement of a write and of
a reduction, a wake of the thread's slot, and a request of each kind. -/
theorem witness_AccessEvents :
    let ok (s : State) (a : Acc) (n : Nat) : Prop := s.acc? a.id = some a ∧ a.loc = .pan n 0x108 ∧ a.op = .store 8 5 ∧
      (a.cross = false ∨ ((∀ b ∈ s.fab.accs, a.port = none ∨ b.port ≠ a.port ∨ a.id ≤ b.id ∨ b.state = .performed) ∧
        (s.die a.loc.die).pairDone.getD a.srcDie 0 = a.pair ∧ s.causalOk a.loc.die a.clock a.srcDie = true))
    let first (s : State) := s.fab.accs.head?
    (∀ f ∈ ([id, fun a => { a with cross := true, srcDie := 3, state := .arrived }] : List (Acc → Acc)),
      ∃ a, first (posted f) = some a ∧ ok (posted f) a 0) ∧
    (∃ a, first (posted fun a => { a with cross := true, srcDie := 3, pair := 1 }) = some a ∧
      ¬ (a.cross = false ∨ ((small.die a.loc.die).pairDone.getD a.srcDie 0 = a.pair ∧ small.causalOk a.loc.die a.clock a.srcDie = true))) ∧
    (let f (a : Acc) : Acc := { a with cross := true, srcDie := 3, state := .arrived }
     let s := posted f
     (s.fab.accs.find? fun x => x.state == .arrived && x.srcDie = 3 && x.loc.die = (Loc.pan 0 0x108).die && s.applicable x) = first s) ∧
    (MemOp.store 8 5).isRed = false ∧ (MemOp.red .add true 1).isRed = true ∧ (access (.red .add true 1)).uid = small.t.ident.uid ∧
    ((small.slotMask 0 0).testBit 0 = true ∧
      (small.threads.find? fun t => t.ident.core0 = 0 && t.ident.slot0 = 0 && t.run != .ended && t.run != .saved) = some task1 ∧
      (∀ t ∈ small.threads, t.core = 0 → t.slot = 0 → t.ident.core0 = 0 ∧ t.ident.slot0 = 0) ∧ task1.run = .ready ∧
      (small.slot 0 0).state = .occupied) ∧
    (∀ h ∈ [[(0, leaf0)], []], ((asking h).trans.reqs.find? fun x => x.id = request0.id) = some request0) ∧
    ((asking [(0, leaf0)]).hubLeaf 0 0 0x1000).isSome = true ∧ (asking []).hubLeaf 0 0 0x1000 = none ∧ request0.dest = .posted 1 ∧
    request0.walking = false ∧ ((asking []).trans.reqs.filter fun x => x.hub = 0 && x.walking).length < 64 := by
  refine ⟨fun f h => ?_, ⟨_, rfl, ?_⟩, ?_⟩
  · simp only [List.mem_cons, List.not_mem_nil, or_false] at h
    rcases h with rfl | rfl <;> exact ⟨_, rfl, by decide +kernel⟩
  all_goals decide +kernel

/-- A block read that gives bytes, one that fails, one that is denied and one that waits; a burst that is held, one that another comes before, one whose channel is
behind, and a fill that returns, or waits for a sweep. -/
theorem witness_FetchAndFillEvents :
    (∀ f ∈ [none, some (7, 0)], ((fetching f).fetch.reads.find? fun x => x.id = 30) = some (read0 f) ∧ (read0 f).wants = [(0, 2049, true)] ∧
      (read0 f).failed = f) ∧
    (denied0.wants = [(0, 2049, true)] ∧ denied0.deny = some 4 ∧ denied0.failed = none ∧
      small.causalOk (Loc.hbm 0x10000).die (read0 none).clock (Loc.hbm 0x10000).die = true ∧
      small.causalOk (Loc.hbm 0x10000).die behind0.clock (Loc.hbm 0x10000).die = false ∧ (bursting 5000).blockWait 0 0x10000 false = 0 ∧
      small.blockWait 0 0x10000 false ≠ 0) ∧
    ((bursting 5000).behind (lineSlice burst0.line) = 0 ∧ ((bursting 5000).served (lineSlice burst0.line)).map L2Fill.id ∈ [none, some burst0.id] ∧
      (let s : State := { bursting 5000 with ctrl := { small.ctrl with moved := [(lineSlice burst0.line, 0, 50)] } }
       s.capped (lineSlice burst0.line) 0 = false ∧ s.behind (lineSlice burst0.line) ≠ 0) ∧
      (let s : State := { bursting 5000 with mem := { small.mem with l2fills := [burst0, { burst0 with id := 39 }] } }
       (s.served (lineSlice burst0.line)).map L2Fill.id = some 39)) ∧
    ((∀ k, k < 8 → small.mem.bad (.hbm (0x10000 + 32 * k)) = false) ∧ 0x10000 % 256 = 0) ∧
    (∀ n ∈ [0, 5000], ((bursting n).mem.l2fills.find? fun x => x.id = burst0.id && !x.sent) = some burst0) ∧ burst0.waiting = [] ∧
    (∀ x ∈ [(bursting 5000, false), (unswept0, true)], (x.1.mem.l2fills.find? fun x => x.id = burst0.id) = some burst0 ∧
      x.1.unswept burst0.line (x.1.fillMask burst0) = x.2) ∧
    (bursting 0).capped (lineSlice burst0.line) 0 = true ∧ (bursting 5000).capped (lineSlice burst0.line) 0 = false ∧ small.canonical := by
  unfold State.canonical; decide +kernel

/-- A launch of one gang of two threads, and the partition with it. -/
def job0 : Job :=
  { num := 5, inv := none, policy0 := false, image := 0x10000, param := 7, gangcount := 1, gangsize := 2, panmask := 0, prio := 1
    completion := 0, waiton := base.toNat + 0x1000, jobseed := 0, affinity := 0, flags := 0, quantum := 0, msivec := 0, vf := none
    eligible := none, allPlaced := none, hdr := none, next := 0, ended := 0, status := 3, cancelled := false, closed := false, acked := 0 }
def launched (s : State) (j : Job) : State := { s with parts := s.parts.map fun p => { p with unit := ⟨6, [j], []⟩ } }

/-- A window of partition 0, a record for it, and an entry of the handler table at 0x10000 with an invocation of it. -/
def window0 : VirtFn := ⟨0, 0, true, false, false, false, [], [], 0, 0⟩
def record0 : List Byte := natBytes 8 0x10000 ++ natBytes 8 0 ++ natBytes 4 1 ++ natBytes 2 1 ++ natBytes 42 0
def entry0 : List Byte := natBytes 8 0x12000 ++ natBytes 2 1 ++ natBytes 1 0x83 ++ natBytes 5 0 ++ natBytes 4 1 ++ natBytes 12 0
def invoked (s : State) : State :=
  let s := mapped s
  { s with
    parts := s.parts.map fun p => { p with regs := { p.regs with htbase := 0x10000 } }
    mem := { s.mem with hbm := cellsWrite s.mem.hbm 0x10040 entry0 }
    fab := { s.fab with fills := [result] } }
def invocation0 : Invocation := ⟨0, none, some 0, 2, 2, [1, 2, 3, 4, 5, 6], [1, 0, 0, 0, 0, 0], 8⟩

/-- Bytes that fill no slot, and the last slot's record; a wait-on word that is full and one that is not; completion words; and invocations for a partition
that the chip does not have and for a handler of partition 0. -/
theorem witness_LaunchUnitEvents :
    let s : State := { small with vfs := [window0], dev := { small.dev with pwrgd := true } }
    (s.dev.pwrgd = true ∧ 0 % 64 + 63 ≤ 63 ∧ 0 + 63 ≤ 2048 ∧ (s.vfs.find? fun x => x.num = 0) = some window0 ∧ window0.valid = true ∧ record0.length = 64 ∧
      part s window0.part part0 ∧ part0.num = window0.part ∧ part0.retiring = false ∧
      (let m := cellsWrite [] (64 * 31) record0
       let r := (List.range 64).map fun i => cellGet m (64 * 31 + i)
       s.recordOk 0 r false = true ∧ fieldAt r 0x20 8 = 0 ∧
       (part0.unit.jobs.filter fun j => j.inv.isNone && j.prio = fieldAt r 0x17 1 && !j.closed).length < 256)) ∧
    (∀ b ∈ [natBytes 8 0, natBytes 8 (2 ^ 63)], let s := launched (bytes small [(0x1000, b)]) job0
      part s 0 { part0 with unit := ⟨6, [job0], []⟩ } ∧ job0.eligible = none ∧ job0.closed = false ∧ job0.flags.testBit 3 = false ∧
      s.unitRead 0 (BitVec.ofNat 64 job0.waiton) 8 = some (b, 1) ∧ labelLe 1 (partLabel 0) = true) ∧
    (bytesNat (natBytes 8 (2 ^ 63))).testBit 63 = true ∧ (bytesNat (natBytes 8 0)).testBit 63 = false ∧
    (let j := { job0 with completion := base.toNat + 0x1FF8 }
     let s := launched small j
     part s 0 { part0 with unit := ⟨6, [j], []⟩ } ∧ s.wordMoves 0 0 = false ∧ s.wordMoves 0 j.completion = false ∧ j.flags.testBit 2 = false ∧ s.canonical ∧
       s.fab.waiters = [] ∧ ((s.placeOf 0 0 (BitVec.ofNat 64 j.completion) writeKind false).toOption.map fun x => (x.loc, labelLe (partLabel 0) x.label)) =
         some (.pan 0 0x1FF8, true) ∧ j.status < 2 ^ 16) ∧
    (let s := invoked small
     let p := { part0 with regs := { part0.regs with root := some 0x2000, htbase := 0x10000 } }
     part s 0 p ∧ invocation0.part = some p.num ∧ invocation0.port = none ∧ p.retiring = false ∧ p.regs.htbase ≠ 0 ∧
       s.unitRead 0 (p.regs.htbase + BitVec.ofNat 64 (32 * invocation0.handler)) 32 = some (entry0, partLabel 0) ∧ entryOk entry0 = true ∧
       Nat.land invocation0.fromChip (fieldAt entry0 0xE 2) = Nat.land (fieldAt entry0 0xC 2) (fieldAt entry0 0xE 2) ∧
       labelLe (invocation0.labels.foldl (fun u x => u ||| x) 0) (BitVec.ofNat 32 (fieldAt entry0 0x10 4)) = true ∧
       (p.unit.jobs.filter fun j => j.inv.isSome && j.prio = min invocation0.prio (fieldAt entry0 0xA 1 % 4)).length < 64 ∧
       s.fill? invocation0.reply = some result ∧ result.parts = 1 ∧ result.vals.length = 1) := by
  unfold State.canonical part; decide +kernel

/-- A vector that is masked and one that is not; and an invocation by a port that gives its partition no local one. -/
theorem witness_CompletionEvents :
    let s (m : Word) : State := { small with vfs := [{ window0 with masked := m }] }
    (∀ v ∈ (s 0).vfs, v.num = 0 → v.masked.getLsbD 3 = false) ∧ (∀ v ∈ (s 8).vfs, v.masked.getLsbD 3 = true) ∧
    small.localOf 0 (some 3) = none := by
  decide +kernel

/-- An image of one barrier, and the launch ready to be placed. -/
def header0 : Header := ⟨0x40, 0, 1, 4, 1, 0, 0, 8, [], 1⟩
def ready0 : Job := { job0 with eligible := some 0, hdr := some header0 }

/-- A save arena of 16 records in the window's first pages; and a gang of no thread that is being folded. -/
def saving (s : State) : State := { s with parts := s.parts.map fun p => { p with own := { p.own with savearena := base.toNat, saverecs := 64 } } }
def folding (g : Gang) : Gang := { g with folding := true }

/-- No work, and a launch that can be placed; a fold that has no room, one that has, one whose thread still runs, and one that ends. -/
theorem witness_PlacementAndFold :
    let s := launched small ready0
    let p := { part0 with unit := ⟨6, [ready0], []⟩ }
    (part small 0 part0 ∧ part0.unit.jobs = [] ∧ part0.unit.folds = [] ∧ ∀ g ∈ small.gangs, g.folded = none) ∧
    (part s 0 p ∧ p.unit.folds = [] ∧ ready0.eligible ≠ none ∧ ready0.hdr = some header0 ∧ ready0.next + 1 = ready0.gangcount ∧ p.own.panmask = 2 ^ 0 ∧
      ready0.panmask = 0 ∧ ready0.gangsize ≤ (s.freeSlots 0 0 ready0.affinity).length ∧ header0.barriers ≤ (s.freeUnits 0).length ∧
      ready0.gangsize < 2 ^ 16) ∧
    (small.gang? gang1.gid = some gang1 ∧ gang1.folding = false ∧ small.canFold gang1 = false ∧ (saving small).canFold gang1 = true) ∧
    (let s : State := { small with gangs := [folding gang1] }
     s.gang? 1 = some (folding gang1) ∧ (folding gang1).folding = true ∧ (folding gang1).forced = false ∧ (folding gang1).killed = none ∧
       (∃ t ∈ s.foldThreads 1, t.run ≠ .saved) ∧ ∀ t ∈ s.foldThreads 1, t.run ≠ .fencedAway) ∧
    (let g := folding { gang1 with gid := 2, size := 0 }
     let s : State := saving { small with gangs := [g] }
     s.gang? 2 = some g ∧ g.forced = false ∧ g.killed = none ∧ (∀ t ∈ s.foldThreads 2, t.run = .saved) ∧ (s.foldThreads 2).length = s.gangSize 2 ∧
       s.enginesQuiet 2 = true ∧ (∀ x ∈ s.gangCmds 2, s.blockWaits x.1 x.2 = false) ∧ (s.finishFold g).isSome = true) ∧
    (let g := folding { gang1 with forced := true }
     let s : State := { small with gangs := [g] }
     s.gang? 1 = some g ∧ g.folding = true ∧ g.forced = true ∧ s.dev.resize = none) := by
  unfold part; decide +kernel

/-- A partition with a fault queue at an address, and its events. -/
def queueAt (a : Word) (q : List (Nat × FaultEvent)) (s : State) : State :=
  { s with parts := [{ part0 with regs := { part0.regs with fqbase := a }, faults := { part0.faults with queue := q, wr := 63 } }] }

/-- No base, an empty entry at the end of the queue, a base that no page has, and events that wait. -/
theorem witness_FaultQueueEvents :
    let p (a : Word) (q : List (Nat × FaultEvent)) : Part := { part0 with regs := { part0.regs with fqbase := a }, faults := { part0.faults with queue := q, wr := 63 } }
    let ev : FaultEvent := ⟨0x20, 0, 0, [1]⟩
    let s := queueAt (base + 0x2000) [] { small with mem := { small.mem with empties := [0x2000 + 64 + 64 * 63] } }
    let off : Word := base + 0x20000
    (part small 0 part0 ∧ part0.regs.fqbase = 0) ∧
    (part s 0 (p (base + 0x2000) []) ∧ s.fqPlace (p (base + 0x2000) []) = some (0, 0x2000) ∧ s.mem.tagFull 0 (0x2000 + 0x40 + 64 * (63 % 64)) = false ∧
      s.fab.waiters = [] ∧ s.canonical ∧ 0x2000 % 4096 = 0 ∧ 0x2000 + 4160 ≤ 2 ^ 25) ∧
    (part (queueAt off [] small) 0 (p off []) ∧ (p off []).faults.queue = [] ∧ (p off []).faults.retry = false ∧ (queueAt off [] small).fqPlace (p off []) = none) ∧
    (part (queueAt off [(0, ev)] small) 0 (p off [(0, ev)]) ∧ (p off [(0, ev)]).faults.queue ≠ [] ∧
      (queueAt off [(0, ev)] small).fqPlace (p off [(0, ev)]) = none) := by
  unfold part State.canonical; decide +kernel
/-! ## Witnesses: the device manager, copies and collectives -/

/-- A partition whose service pages stand at 0x20000, with a request in its slot 0. -/
def served (manager : Bool) (req : List Byte) : State :=
  let s := mapped small
  { s with
    parts := s.parts.map fun p => { p with manager := manager, regs := { p.regs with ownbase := 0x20000 } }
    mem := { s.mem with hbm := cellsWrite s.mem.hbm 0x22000 req } }
def request (op : List Byte) : List Byte := natBytes 16 0 ++ op
def requestOf (s : State) : List Byte := (s.requestSlot 0 0).getD []

/-- A root in a frame of the partition; one frame of any colour, and one of no colour; a frame that is the partition's and one that is not; a set of a
manager and of another; and a retirement. Sets that are not legal, that break a bound, and that come while a resize runs. A partition with nothing in progress. -/
theorem witness_ServiceEvents :
    let root := served false (request (natBytes 8 0x4000))
    let one := served false (request (natBytes 1 1 ++ natBytes 1 255))
    let none_ := served false (request (natBytes 1 1))
    let free (n : Nat) := served false (request (natBytes 8 1 ++ natBytes 8 0 ++ natBytes 8 n))
    let own (m : Bool) := served m (request (natBytes 8 0x30000))
    let taken (s : State) : State := s.takeRequest 0 0 (requestOf s)
    let setB (o : Ownership) : List Byte := o.bytes ++ List.replicate (31 * 256) 0
    (∀ s ∈ [root, one, none_, free 2, free 9, own false, own true], (s.part? 0).map Part.num = some 0 ∧ (s.requestSlot 0 0).isSome = true) ∧
    (let pa := fieldAt (requestOf root) 16 8
     pa % 2048 = 0 ∧ ((taken root).frameOwner (pa / 8192)).valid = true ∧ ((taken root).frameOwner (pa / 8192)).owner = 0) ∧
    (let fit (s : State) := fieldAt (requestOf s) 16 1
     fit one = 1 ∧ fit none_ = 1 ∧ Nat.land (fieldAt (requestOf one) 17 1) own0.colours = fieldAt (requestOf one) 17 1 ∧
       Nat.land (fieldAt (requestOf none_) 17 1) own0.colours = fieldAt (requestOf none_) 17 1 ∧
       ((taken one).freeFrames 255 1).length = 1 ∧ ((taken none_).freeFrames 0 1).length < 1 ∧
       ((taken one).part? 0).isSome = true ∧ ((taken none_).part? 0).isSome = true) ∧
    (let fs (s : State) := (List.range (fieldAt (requestOf s) 16 8)).map fun i => fieldAt (requestOf s) (32 + 8 * i) 8
     fs (free 2) = [2] ∧ fs (free 9) = [9] ∧ ((taken (free 2)).frameOwner 2).valid = true ∧ ((taken (free 2)).frameOwner 2).owner = 0 ∧
       ((taken (free 9)).frameOwner 9).valid = false) ∧
    ((((taken (own false)).part? 0).map Part.manager = some false ∧ ((taken (own true)).part? 0).map Part.manager = some true) ∧
      ((taken (own true)).readVa 0 0 (wordAt (requestOf (own true)) 16) 8192 false).toOption.isSome = true) ∧
    (fieldAt (requestOf none_) 16 1 % 32 = 1 ∧ fieldAt (requestOf (own false)) 16 1 % 32 = 0 ∧ (taken (own false)).dev.retiring = [] ∧ 0 < 16) ∧
    (small.setOf (setB { own0 with keyslot := 64 }) = none ∧ (small.setOf (setB own0)).isSome = true ∧ setOk [own0] = true ∧ regminsOk [(own0, false)] = true ∧
      Ownership.ofBytes (setB own0) = own0 ∧ regminsOk [({ own0 with regmin := 2881, regcap := 2881 }, false)] = false ∧
      (small.setOf (setB { own0 with regmin := 2881, regcap := 2881 })).isSome = true ∧ (sweeping resize0).dev.resize ≠ none) ∧
    (let s : State := { small with t := Thread.management, gangs := [] }
     s.part? 0 = some part0 ∧ part0.unit.jobs = [] ∧ s.colls = [] ∧ s.engines = [] ∧ s.abandonCmds 0 = s ∧ s.retireReady 0 = true ∧
      (∀ t ∈ s.threads, t.ident.part ≠ 0) ∧ (∀ g ∈ s.gangs, g.part ≠ 0)) ∧
    (let r : Retirement := ⟨0, some (1, 2, 3), false, some 0⟩
     let begun : State := { small with dev := { small.dev with retiring := [r] } }
     let s : State := { begun with parts := [], dev := { begun.dev with rake := ⟨[], 4, 4, false⟩ } }
     (begun.dev.retiring.any fun r => r.part = 0) = true ∧
     s.part? 0 = none ∧ s.dev.retiring = [⟨0, some (1, 2, 3), false, some 0⟩] ∧ s.framesOf 0 = [] ∧ s.dev.rake.fin ≤ s.dev.rake.done) := by
  decide +kernel

/-- A resize of every kind of thing. -/
def move0 : PageMove := ⟨0, 0, 3, 1, 31, true⟩
def resize1 : Resize := { resize0 with slots := [(1, 0)], moves := [move0] }
def resize2 : Resize := { resize1 with cellars := [(0, 5, some 0)] }

/-- A slot that departs with and without a gang on it, one that stays, one in SCRUB and one that is not; a page that begins to move, one that moves already, and one
whose move ends, with one of no move; a cellar with a new owner and one without; a partition with and without its record; and no resize at all. -/
theorem witness_ResizeEvents :
    let s := sweeping resize1
    let taken := sweeping { resize1 with slots := [(0, 0)] }
    let scrub : State := { s with slots := [⟨1, 0, .scrub, false, 0, []⟩] }
    (small.dev.resize = none ∧ s.dev.resize = some resize1 ∧ (1, 1) ∉ resize1.slots ∧ (1, 0) ∈ resize1.slots ∧ s.gangsOn [(1, 0)] = [] ∧
      taken.gangsOn [(0, 0)] = [gang1.gid] ∧ taken.gang? gang1.gid = some gang1 ∧ gang1.folding = false ∧ (scrub.slot 1 0).state = .scrub ∧
      (s.slot 0 0).state = .occupied ∧ resize1.moves ≠ []) ∧
    ((s.mapEntry 0 0 3).moving = false ∧ (({ s.mapEntry 0 0 3 with moving := true } : MapEntry).moving = true) ∧ s.fab.ranges = [] ∧ s.fab.waiters = []) ∧
    ((resize1.moves.find? fun m => m.part = 0 && m.pan = 0 && m.page = 3) = some move0 ∧ s.engines = [] ∧ s.fab.accs = [] ∧ s.canonical ∧
      (s.mapEntry 0 0 3).valid = true ∧ move0.cellar < 128 ∧ move0.frame < 32) ∧
    (∀ m ∈ s.dev.resize.toList.flatMap Resize.moves, ¬ (m.part = 0 ∧ m.pan = 0 ∧ m.page = 4)) ∧
    (∀ o ∈ [none, some 0], let r : Resize := { resize2 with cellars := [(0, 5, o)] }
      let x := r.cellars.find? fun x => x.1 = 0 && x.2.1 = 5
      (sweeping r).dev.resize = some r ∧ x.isSome = true ∧ (x.bind fun y => y.2.2) = o ∧ (sweeping r).canonical) ∧
    (resize2.moves ≠ [] ∧ s.part? 0 = some part0 ∧ part0.num = 0 ∧ part0.regs.ownbase = 0 ∧ 0 < part0.own.cellars.length ∧ s.part? 9 = none) := by
  unfold State.canonical; decide +kernel

/-- The Rake with a list, done up to an item. -/
def raking (l : List RakeItem) (done fin : Nat) : State := { small with dev := { small.dev with rake := ⟨l, done, fin, true⟩ } }

/-- The same while the page of move 0 moves, and with a claim of one lane. -/
def rakingMove (l : List RakeItem) : State := let s := raking l 0 1; { s with dev := { s.dev with resize := some resize1 } }
def rakingLane (l : List RakeItem) : State := let s := raking l 0 1; { s with t := claimed.t }

/-- An item for an idle Rake and for one at work; both writes of RAKESTAT; the end of a vat's item with another after it; and a slot's item for a slot in SCRUB and for one
with a thread. -/
theorem witness_RakeAndFunctionReset :
    (fieldOf (5 : Word) 0 3 < 6 ∧ (raking [] 4 4).dev.rake.done = (raking [] 4 4).dev.rake.fin ∧
      (raking [⟨1, 0, 2⟩] 0 2).dev.rake.done ≠ (raking [⟨1, 0, 2⟩] 0 2).dev.rake.fin ∧ fieldOf (2 : Word) 1 1 = 1 ∧ fieldOf (0 : Word) 1 1 = 0 ∧
      rakeItem [⟨1, 0, 2⟩] 0 = some (1, 0) ∧ rakeItem [⟨1, 0, 2⟩] 1 = some (1, 1) ∧ (raking [] 4 4).fab.waiters = [] ∧
      rakeItem [⟨0, 16, 1⟩] 0 = some (0, 16) ∧ (({ raking [⟨0, 16, 1⟩] 0 1 with slots := [⟨1, 0, .scrub, false, 0, []⟩] } : State).slot 1 0).state = .scrub ∧
      rakeItem [⟨0, 0, 1⟩] 0 = some (0, 0) ∧ ((raking [⟨0, 0, 1⟩] 0 1).slot 0 0).state = .occupied ∧ (raking [⟨0, 0, 1⟩] 0 1).t.core = 0 ∧
      (raking [⟨0, 0, 1⟩] 0 1).t.slot = 0 ∧ (raking [⟨0, 0, 1⟩] 0 1).t.run = .ready ∧ 6 ≤ fieldOf (7 : Word) 0 3 ∧
      rakeItem [] 4 = none ∧ (raking [] 4 4).dev.resize = none) := by
  decide +kernel

/-- A cellar's item while a page of it moves, and a lane's and a Press's items. -/
theorem witness_RakeMovesAndLanes :
    ((rakingMove [⟨2, 1, 1⟩]).dev.resize = some resize1 ∧ resize1.moves = [move0] ∧ move0.begun = true ∧ 1 = move0.pan * 128 + move0.cellar ∧
      move0.cellar < 128 ∧ move0.frame < 32 ∧ rakeItem [⟨2, 1, 1⟩] 0 = some (2, 1)) ∧
    ((rakingLane [⟨5, 0, 1⟩]).poolClaims 0 = [(0, claimed.t)] ∧ (rakingLane [⟨5, 0, 1⟩]).t = claimed.t ∧ 0 < claimed.t.claim.lanes ∧
      rakeItem [⟨5, 0, 1⟩] 0 = some (5, 0) ∧ rakeItem [⟨4, 0, 1⟩] 0 = some (4, 0)) := by
  decide +kernel

/-- Functions unbound, with a launch, without and with their own memory, and while an earlier reset or a retirement goes on. -/
theorem witness_FunctionReset :
    (let s : State := { launched small { job0 with vf := some 0 } with vfs := [window0] }
     s.vf? window0.num = some window0 ∧ (s.part? window0.part).isSome = true ∧ s.vf? 9 = none ∧ window0.ownsMem = false ∧ s.colls = [] ∧ s.engines = []) ∧
    (let v : VirtFn := { window0 with ownsMem := true }
     let r (b : Bool) : Retirement := ⟨0, none, b, none⟩
     let s (b : Bool) : State := { small with vfs := [v], t := Thread.management, dev := { small.dev with retiring := [r b] }, parts := [{ part0 with retiring := true }] }
     (s true).vf? v.num = some v ∧ (s true).dev.retiring = [r true] ∧ (r true).part = v.part ∧ (r true).reset = true ∧ (s true).parts.Pairwise (fun a b => a.num ≠ b.num) ∧
     (s false).vf? v.num = some v ∧ (∀ x ∈ (s false).dev.retiring, x.part ≠ v.part ∨ (x.reset = false ∧ x.erased = none)) ∧
     (∀ t ∈ (s false).threads, t.ident.part ≠ v.part)) ∧
    (∀ b ∈ [false, true], let v : VirtFn := { window0 with ownsMem := b }
     let s : State := { small with vfs := [v], t := Thread.management }
     s.vf? v.num = some v ∧ s.part? v.part = some part0 ∧ part0.unit.jobs = [] ∧ s.colls = [] ∧ s.engines = [] ∧ v.ownsMem = b ∧
       (∀ r ∈ s.dev.retiring, r.part ≠ v.part) ∧ ∀ t ∈ s.threads, t.ident.part ≠ v.part) := by
  decide +kernel

/-- A telemetry policy of partition 0. -/
def exported0 : Policy := ⟨0, 77, 1, 2, 0, 4096, 2 ^ 31, 0, 0, false⟩
def exporting : State := { small with sec := { small.sec with policies := [exported0] }, vfs := [window0] }

theorem witness_PeriodEvents :
    115 ≤ 115 ∧ 114 < 115 ∧ small.part? 0 = some part0 ∧ (∀ e ∈ small.sec.policies, ¬ (e.dkind = 2 ∧ e.owner = 0)) ∧ exporting.part? 0 = some part0 ∧
    exporting.sec.policies = [exported0] ∧ exported0.dkind = 2 ∧ exported0.owner = 0 ∧
    (exporting.sluice 0 (partLabel 0) (.telemetry exported0.dest) 128).toOption.isSome = true := by
  decide +kernel
/-! ## Witnesses: engines at work, directories and censuses -/

/-- The state with a copy in the engine of trellis 0, of 16 bytes of page 1. -/
def copying (f : Cmd → Cmd) : State :=
  { bytes small [(0x2000, (List.range 16).map fun i => BitVec.ofNat 8 (i + 1))] with engines := [engine0 [f (command .copy 0 .started)]] }

/-- The first command of the first engine. -/
def first? (s : State) : Option Cmd := s.engines.head?.bind fun e => e.cmds.head?

/-- A Press block of the least size. -/
def pressBytes : List Byte :=
  natBytes 8 base.toNat ++ natBytes 8 (base.toNat + 0x2000) ++ natBytes 8 (base.toNat + 0x4000) ++ natBytes 16 0 ++ natBytes 2 8 ++ natBytes 2 8 ++
    natBytes 2 32 ++ natBytes 1 1 ++ natBytes 1 1 ++ natBytes 2 8 ++ natBytes 2 0 ++ natBytes 1 0 ++ natBytes 1 29 ++ natBytes 1 0 ++ natBytes 9 0

/-- A copy that a range of another command holds, one whose past is missing, one that moves, one that has a follow-on, one that has landed, and one that has run
for 16,384 cycles. -/
theorem witness_CopyEvents :
    let held : State := { copying id with fab := { small.fab with ranges := [⟨0, 3, 0, 0, 2, 2, true, true, 0⟩, ⟨0, 9, 0, 0, 2, 2, true, true, 1⟩] } }
    let late := copying fun c => { c with clock := List.replicate 16 5 }
    let done := copying fun c => { c with done := 16 }
    let follow := copying fun c => { c with follow := pressBytes }
    let landed := copying fun c => { c with follow := pressBytes, state := .landed }
    let raw := later (copying fun c => { c with kind := .rackv }) 16384
    let due : State := { raw with time := { raw.time with calendar := [(20000, .rackSegment 0 9)] } }
    let slow : State := { copying (fun c => { c with block := rackvBlock 0x10000 base 8, shape := [], kind := .rackv }) with
      parts := [{ part0 with own := { own0 with regcap := 0 }, regs := { part0.regs with root := some 0x2000 } }] }
    (∀ s ∈ [held, late, copying id, done, follow, landed, raw], ∃ c, first? s = some c ∧ s.cmd? 0 c.id = some c ∧ c.kind ≠ .tmove ∧ quietEngines s c ∧
      c.id < s.time.next ∧ c.queue < 4 ∧ s.queueRoom 0 c.part 6 = true) ∧
    (∃ c, first? held = some c ∧ held.heldBack 0 c = true) ∧
    (∃ c, first? late = some c ∧ late.heldBack 0 c = false ∧ late.pastMissing 0 c (late.segmentDies 0 c).1 ((late.segmentDies 0 c).2 ++ late.blockDies 0 c) = true) ∧
    (∃ c, first? done = some c ∧ c.state = .started ∧ c.kind.isCopy = true ∧ done.heldBack 0 c = false ∧
      done.pastMissing 0 c (done.segmentDies 0 c).1 ((done.segmentDies 0 c).2 ++ done.blockDies 0 c) = false ∧ done.segmentWait 0 c = 0 ∧
      (done.runSegment 0 c).fault = none ∧ (done.runSegment 0 c).waits = false ∧ c.copy.elems ≤ (done.runSegment 0 c).i) ∧
    ((first? follow).map Cmd.follow = some pressBytes ∧ pressBytes ≠ []) ∧ (first? (copying id)).map Cmd.follow = some [] ∧ (first? landed).map Cmd.state = some .landed ∧
    (∃ c, first? raw = some c ∧ c.kind = .rackv ∧ raw.thread c.uid = some raw.t ∧ raw.t.run = .ready ∧ raw.t.pending = [] ∧ c.state = .started ∧
      c.startAt + 16384 ≤ raw.time.cycle ∧ raw.inSegment 0 c.id = false ∧ due.inSegment 0 c.id = true) := by
  unfold quietEngines
  refine ⟨fun s h => ?_, ⟨_, rfl, ?_⟩, ⟨_, rfl, ?_⟩, ⟨_, rfl, ?_⟩, ?_, ?_, ?_, ⟨_, rfl, ?_⟩⟩
  · simp only [List.mem_cons, List.not_mem_nil, or_false] at h
    rcases h with rfl | rfl | rfl | rfl | rfl | rfl | rfl <;> exact ⟨_, rfl, by decide +kernel⟩
  all_goals decide +kernel

/-- A collective of two members of this chip, and its messages. -/
def collBytes : List Byte :=
  natBytes 8 base.toNat ++ natBytes 8 (base.toNat + 0x2000) ++ natBytes 8 0x10000 ++ natBytes 4 1 ++ natBytes 1 12 ++ natBytes 35 0
def groupBytes : List Byte :=
  natBytes 4 0 ++ natBytes 1 2 ++ natBytes 1 0 ++ natBytes 2 1 ++ natBytes 8 0 ++ natBytes 4 0 ++ natBytes 4 1 ++ natBytes 232 0
def collecting (l : List Coll) : State :=
  { small with engines := [engine0 [{ command .coll 4 .started with block := collBytes, shape := groupBytes }]], colls := l }
def message (role rank : Nat) : CollMsg := ⟨none, 0, 0, role, rank, 0, 0, 0, 2, 1, 12, 0, 0, 1, [0, 0], [1, 2, 3, 4], 1⟩
def coll0 : Coll := ⟨0, 0, 0, 2, 1, 12, 0, 0, 0, 1, [message 0 0]⟩

/-- A member's segment; the first contribution, the last, and one that does not agree; an abort and a result for a member; and a link that fails with an
invocation on it. -/
theorem witness_CollectiveEvents :
    let s := collecting []
    let two := collecting [coll0]
    (∃ c, first? s = some c ∧ s.cmd? 0 c.id = some c ∧ c.state = .started ∧ c.kind = .coll ∧ s.heldBack 0 c = false ∧
      s.pastMissing 0 c (s.runDies c.part 0 [(wordAt c.block 0, c.contribution)] readKind c.task) [] = false ∧ s.segmentWait 0 c = 0 ∧
      s.placesWait c.part (s.runPlaces c.part 0 [(wordAt c.block 8, 4)] writeKind c.task) = 0 ∧
      (s.readVa c.part 0 (wordAt c.block 0) c.contribution c.task).toOption.isSome = true ∧ (groupChips c.shape).getD 0 0 = s.dev.chip ∧
      (s.collCmds fun c => c.isRank (message 2 0) && c.state == .started).map (fun x => x.2.id) = [c.id] ∧ quietEngines s c ∧
      s.pastMissing 0 c [] (s.runDies c.part 0 [(wordAt c.block 8, 4)] writeKind c.task) = false) ∧
    ((message 0 0).port = none ∧ s.coll? 0 0 = none ∧ 2 ≤ (message 0 0).members ∧ 1 ≤ (message 0 0).timeout) ∧
    (two.colls = [coll0] ∧ coll0.tag = (message 0 1).tag ∧ coll0.epoch = (message 0 1).epoch ∧ coll0.given = [message 0 0] ∧ coll0.timeout ≠ 0 ∧
      coll0.members = 2 ∧ coll0.since + coll0.timeout * 65536 = (later two 65536).time.cycle ∧ coll0.since + coll0.timeout * 65536 ≠ two.time.cycle ∧ coll0.agrees (message 0 1) = true ∧ coll0.agrees { message 0 1 with count := 2 } = false ∧ (message 0 1).chip = two.dev.chip) ∧
    small.colls = [] ∧ small.engines = [] ∧ small.out = [] ∧
    (let t : State := { small with out := [.invoke 3 1 invocation0], fab := { small.fab with fills := [result] } }
     t.fill? invocation0.reply = some result ∧ result.parts = 1 ∧ result.vals.length = 1) := by
  unfold quietEngines
  exact ⟨⟨_, rfl, by decide +kernel⟩, by decide +kernel⟩

/-- A command of the Press in the engine of trellis 0, with what runs there. -/
def pressing (k : CmdKind) (st : CmdState) (run : Option PressRun) : State :=
  { small with
    mem := { small.mem with vats := [(0, 44)] }
    engines := [{ engine0 [{ command k 6 st with block := pressBytes, bva := base + 0x6000 }] with press := run }] }
def run0 : PressRun := ⟨9, [7], 0, 0, false, 1, true⟩

/-- Nothing to serve, a clearing that may start, an operation within its run, one at its end, one of each kind that ends, and one that has run for 16,384
cycles. -/
theorem witness_PressEvents :
    let start := pressing .zero .queued none
    let run := pressing .press .started (some run0)
    (((small.engine 0).press = none) ∧ small.pressNext 0 none = none) ∧
    (∃ c, first? start = some c ∧ (start.engine 0).press = none ∧ start.pressNext 0 none = some c ∧ c.kind = .zero ∧
      (start.takeUp 0 c false [] 0).pastMissing 0 c [0] ((start.takeUp 0 c false [] 0).blockDies 0 c) = false ∧
      (start.takeUp 0 c false [] 0).heldBack 0 c = false ∧
      (((start.takeUp 0 c false [] 0).noteUse c.part 4 0).startChecks 0 c false 0).1.toOption.isSome = true) ∧
    (∃ c, first? run = some c ∧ (run.engine 0).press = some run0 ∧ run.cmd? 0 run0.cmd = some c ∧ c.owed = false ∧ c.kind = .press ∧ quietEngines run c ∧
      run.blockWaits 0 c = false ∧ run.mem.softWords = [] ∧
      ((run.pressOp c.part 0 (pressBlock c.block)).map fun o => ((run.chargeUnits c.part c.gang 0
        (pressUnits (pressBlock c.block) o 0 (!run0.cont && ((pressBlock c.block).fn ≠ 1 || 0 < run0.first)) false)).pressNext 0 (some c.id)).isNone) = some true ∧
      run.time.cycle < c.startAt + 16384 ∧ c.startAt + 16384 ≤ (later run 16384).time.cycle ∧ run0.running = true ∧
      ((run.pressOp c.part 0 (pressBlock c.block)).bind fun o => (run.blockChecks c 0 (pressBlock c.block) o run0).toOption).isSome = true) ∧
    (∃ c, first? (pressing .zero .started (some run0)) = some c ∧ c.kind = .zero ∧ (pressing .zero .started (some run0)).blockWaits 0 c = false ∧
      quietEngines (pressing .zero .started (some run0)) c) ∧
    (let late (c : Cmd) : Cmd := { c with clock := List.replicate 16 5 }
     let s : State := { run with engines := run.engines.map fun (e : Engine) => { e with cmds := e.cmds.map late } }
     ∃ c, first? s = some c ∧ s.cmd? 0 run0.cmd = some c ∧ (s.engine 0).press = some run0 ∧ s.blockWaits 0 c = true) := by
  unfold quietEngines
  refine ⟨?_, ⟨_, rfl, ?_⟩, ⟨_, rfl, ?_⟩, ⟨_, rfl, ?_⟩, ⟨_, rfl, ?_⟩⟩ <;> decide +kernel

/-- An entry of the directory, requests, and the state with them: page 1 in another trellis. -/
def entryOf (tile : Word) : DirEntry := ⟨4, 1, 0, 5, tile, 64, 0x1000, 1, 0, 0⟩
def dirReq0 (k : Nat) (landed : Bool) : DirReq :=
  ⟨9, 1, 0, 0, 0, 0, k, natBytes 8 5 ++ natBytes 8 (namedVa 0 0).toNat ++ natBytes 4 64 ++ natBytes 4 0 ++ natBytes 8 0x1000, namedVa 0 0x2000, 1, 0, true, 1, 8, 0, 4, 1, 7,
    landed, 1⟩
def directing (k : Nat) (landed : Bool) (d : List DirEntry) (moves : Bool) : State :=
  { small with
    engines := [{ engine0 [] with dir := d }, { engine0 [] with place := 1 }]
    census := { small.census with reqs := [dirReq0 k landed] }
    fab := { small.fab with fills := [{ result with kind := .census 0 }] }
    mem := { small.mem with maps := small.mem.maps.map fun e => if e.page = 1 then { e with cellar := 1 } else { e with moving := moves } } }

/-- A tile whose page moves; a put with and without an entry of its key, a deletion with and without one; a move to another trellis; and landings. -/
theorem witness_DirectoryEvents :
    let x := entryOf (namedVa 0 0)
    let r := dirReq0 0 false
    let e (s : State) := s.tilePage 0 (wordAt r.block 8)
    let d (s : State) := s.tilePage 0 (namedVa 0 0x2000)
    (∀ s ∈ [directing 0 false [] true, directing 0 false [] false, directing 0 false [x] false, directing 1 false [x] false, directing 2 true [x] false],
      (s.dirReq? 9).map DirReq.id = some 9 ∧ (s.fill? r.fill).map Fill.parts = some 1) ∧
    (e (directing 0 false [] true)).moving = true ∧
    (let s := directing 0 false [] false
     (e s).moving = false ∧ pageCause (e s) false = none ∧ dirBlockOk r.block = true ∧ (s.engine (e s).place).dirFind 0 5 = none ∧
       (s.dirFree (e s).place 0).isSome = true) ∧
    (let s := directing 2 false [x] false
     wordAt r.block 0 = 5 ∧ (s.engine (e s).place).dirFind 0 5 = some x ∧ s.dirHeld (e s).place x = false ∧ (d s).moving = false ∧
       pageCause (d s) true = none ∧ (namedVa 0 0x2000).toNat % 8192 + x.length ≤ 8192 ∧ (d s).place ≠ (e s).place ∧
       (s.engine (d s).place).dirFind 0 5 = none ∧ (s.dirFree (d s).place 0).isSome = true) ∧
    (∀ b ∈ [false, true], let s := directing 2 b [x] false
     (s.engine (dirReq0 2 b).srcAt).dir.find? (fun y => y.idx = (dirReq0 2 b).srcIdx) = some x ∧ s.census.asked = [] ∧ (dirReq0 2 b).landed = b) := by
  decide +kernel

/-- A census at the root, with a census network. -/
def census0 (f : Census → Census) : Census := f ⟨30, 0, 0, 0, 5, 0xFF, 0, 1, 8, 0, 1, 0, 0, 0, 0, false, List.replicate 16 0⟩
def polling (f : Census → Census) (e : Engine → Engine) (nodes : List PanNode) : State :=
  { small with
    census := { small.census with asked := [census0 f], nodes := nodes }
    engines := [e (engine0 [])]
    fab := { small.fab with fills := [{ result with kind := .census 30, parts := 2, vals := [0, 0], regs := [1, 2] }] } }
def begun (pans : Nat) (c : Census) : Census := { c with cseq := 3, pans := pans, sent := true }

/-- A census that is asked for; a broadcast without a match and with one, and a match that waits; a trellis's report, the last of its Pan and another; a Pan's
report; a late answer; and a census that is complete, and one that is not. -/
theorem witness_CensusEvents :
    let node (n : Nat) : PanNode := ⟨0, 30, 4, 2, 1, n⟩
    let x := entryOf base
    let m : Match := ⟨20, 30, 0, 4, none, true, 0⟩
    let asked := polling id id []
    let hit := polling (begun 1) (fun e => { e with dir := [x] }) []
    let waiting := polling (begun 1) (fun e => { e with dir := [x], matched := [m] }) []
    let report (n : Nat) := polling (begun 1) id [node n]
    let late := polling (begun 0) (fun e => { e with late := [⟨9, 30, 6, 1, 1⟩] }) []
    let over_ := polling (begun 0) id []
    (∀ s ∈ [asked, hit, waiting, report 127, report 1, late, over_], (s.cen? 30).isSome = true ∧ (∀ t ∈ s.threads, t.ident.uid < s.time.next)) ∧
    (asked.census.asked = [census0 id] ∧ (census0 id).cseq = 0 ∧ asked.nextCseq 0 ≠ 0 ∧ asked.part? 0 = some part0 ∧ part0.own.panmask = 2 ^ 0) ∧
    ((asked.engine 0).dir = [] ∧ x.part = 0 ∧ x.state = 1 ∧ (census0 (begun 1)).hits x = true ∧ serialLess x.lastcen (census0 (begun 1)).cseq = true ∧
      hit.freeAmong 0 (placeCores 0) = some (0, 1)) ∧
    ((∀ p ∈ asked.parts, asked.nextMatch 0 p.num = none) ∧ waiting.parts = [part0] ∧ (waiting.engine 0).matched = [m] ∧ m.queued = true ∧
      waiting.nextMatch 0 0 = some (m, x, census0 (begun 1)) ∧ waiting.freeAmong 0 (placeCores 0) = some (0, 1)) ∧
    ((report 127).census.nodes = [node 127] ∧ (node 127).pan = placePan 0 ∧ (node 127).census = 30 ∧ ((report 127).engine 0).census = [] ∧
      (census0 (begun 1)).pans = 2 ^ 0) ∧
    late.census.asked = [census0 (begun 0)] ∧ over_.censusDone (census0 (begun 0)) = true ∧ (report 1).censusDone (census0 (begun 1)) = false ∧
    ((over_.fill? 8).map Fill.parts = some 2 ∧ (over_.fill? 8).map (fun f => f.vals.length) = some 2) := by
  decide +kernel
/-! ## Witnesses: security, the outside, encodings and the step -/

/-- A policy body of partition 0 with its label, with room for n signatures; a body of a revocation; and one of a grant of page 1. -/
def policy0 (n : Nat) : PolicyBody :=
  { bytes := natBytes 8 77 ++ natBytes 4 1 ++ natBytes 1 2 ++ natBytes 1 0 ++ natBytes 2 0 ++ natBytes 8 4096 ++ natBytes 8 0 ++ natBytes 8 9 ++
      natBytes 24 0 ++ List.replicate (n * signatureBytes) 0
    part := 0, dst := base }
def revoke0 : PolicyBody := { bytes := natBytes 8 77 ++ natBytes 56 0 ++ List.replicate signatureBytes 0, part := 0, dst := base }
def grant0 : PolicyBody :=
  { bytes := natBytes 8 (namedVa 0 0x2000).toNat ++ natBytes 4 1 ++ natBytes 4 1 ++ natBytes 48 0 ++ List.replicate signatureBytes 0, part := 0, dst := base }

/-- The same of the global page at 0. -/
def grant1 : PolicyBody :=
  { bytes := natBytes 8 0 ++ natBytes 4 1 ++ natBytes 4 1 ++ natBytes 48 0 ++ List.replicate signatureBytes 0, part := 0, dst := base }

/-- Partition 0 with no policy, with that policy, and page 1 of its window. -/
def guarded (l : List Policy) : State := { small with sec := { small.sec with bootId := 0, policies := l, usedIds := [] } }
def page1 : MapEntry := (guarded []).mapEntry 0 0 1
def signers0 : List Nat := labelBits (policyOf (policy0 1) 0).labels

/-- A policy that may be installed if its signature is right, and one that is too short; a revocation of a policy that stands; and a grant of a page, with the slot of
its key. Whether a signature is right is open (assumption 6), so one clause applies or the other. -/
theorem witness_SecurityEvents :
    let s := guarded []
    (s.policyOk (policy0 1) = true ∧ requestLength (policy0 1).bytes signers0.length = true ∧ s.policyPlace = some 0 ∧
      (policyOf (policy0 1) 0).id ∉ s.sec.usedIds ∧ (s.sec.policies.filter fun x => x.owner = 0 && !x.lapsed).length < 32 ∧
      s.policyOk { policy0 1 with bytes := natBytes 64 0 } = false) ∧
    (fieldAt revoke0.bytes 8 1 < 32 ∧ zeroAt revoke0.bytes 9 55 = true ∧ requestLength revoke0.bytes 1 = true ∧
      (((guarded [policyOf (policy0 1) 0]).sec.policies.find? fun y => y.id = wordAt revoke0.bytes 0 && !y.lapsed).map fun x => x.labels.getLsbD 0) = some true) ∧
    ((wordAt grant0.bytes 0).toNat % 8192 = 0 ∧ fieldAt grant0.bytes 8 4 = 1 ∧ (BitVec.ofNat 32 (fieldAt grant0.bytes 0xC 4)).getLsbD 0 = true ∧
      wordAt grant0.bytes 0x10 = s.sec.bootId ∧ zeroAt grant0.bytes 0x18 40 = true ∧
      requestLength grant0.bytes (labelBits (1 ||| page1.label)).length = true ∧ page1.valid = true ∧ s.fab.waiters = []) ∧
    (let s : State := { mapped (guarded []) with sec := s.sec }
     wordAt grant1.bytes 0 = 0 ∧ fieldAt grant1.bytes 8 4 = 1 ∧ zeroAt grant1.bytes 0x18 40 = true ∧
      (match s.grantPages 0 (wordAt grant1.bytes 0) 1 with
        | some [.global frame held] => requestLength grant1.bytes (labelBits (1 ||| held)).length && (s.frameOwner frame).valid
        | _ => false) = true ∧ s.grantSlot 0 1 = some 1 ∧
      ({ s with parts := [], mem := { s.mem with keyLabels := (List.range 64).map fun k => (k, 2) } } : State).grantSlot 0 1 = none) ∧
    (∃ l, s.grantPages 0 (wordAt grant0.bytes 0) 1 = some l ∧ l.length = 1) ∧
    (s.signed (policy0 1).bytes signers0 = true ∨ s.signed (policy0 1).bytes signers0 = false) :=
  ⟨by decide +kernel, by decide +kernel, by decide +kernel, by decide +kernel, ⟨_, rfl, rfl⟩, (Bool.eq_false_or_eq_true _).elim .inl .inr⟩

/-- A port that maps the sender 5 to partition 0 and its label 1 to 7, and a function of partition 0. -/
def port0 : Port :=
  ⟨3, true, true, [1], (List.range 32).map fun k => if k = 0 then some 7 else none, (List.range 32).map fun k => if k = 5 then some 0 else none⟩
def linked (l : Label) : State :=
  { small with
    vfs := [window0], dev := { small.dev with pwrgd := true }, sec := { small.sec with ports := [port0] }, fab := { small.fab with fills := [result] }
    mem := { small.mem with maps := small.mem.maps.map fun e => { e with label := l } } }

/-- A function that is not bound and one that is; a write that is refused and one of a whole word; reads of the window, of a page and of what is not mapped. -/
theorem witness_HostAccesses :
    let s := linked 1
    let at_ : Nat := (namedVa 0 0x2000).toNat
    let data : List Byte := natBytes 8 5
    (small.dev.pwrgd = false ∧ s.dev.pwrgd = true ∧ s.vf? 999 = none ∧ s.function? 0 = some window0 ∧ window0.valid = true ∧ at_ < 2 ^ 64 ∧ (namedWindow at_).isSome = true) ∧
    (match s.outsidePlaces 0 (wordPieces 9 at_ data) with
      | .ok [(a, d, x)] => decide (a = at_ ∧ d = data ∧ x.loc = .pan 0 0x2000)
      | _ => false) = true ∧
    (s.outsidePlaces 0 (wordPieces 9 (at_ + 0x40000) data)).toOption.isSome = false := by
  refine ⟨?_, ?_, ?_⟩ <;> decide +kernel

/-- Host reads that are given, at a page that is not mapped, and with the Sluice open and shut. -/
theorem witness_HostReads :
    let s := linked 1
    let at_ : Nat := (namedVa 0 0x2000).toNat
    ((s.readVa 0 0 (BitVec.ofNat 64 at_) 8 false).toOption.isSome = true ∧
      (s.readVa 0 0 (BitVec.ofNat 64 (at_ + 0x40000)) 8 false).toOption.isSome = false) ∧
    ((s.sluice 0 1 (.host 0) 8).toOption.isSome = true ∧ (s.sluice 0 2 (.host 0) 8).toOption.isSome = false) := by
  refine ⟨?_, ?_⟩ <;> decide +kernel

/-- A write of a partition that the port does not map, of a label that it does not map, and one that may be performed; a port that stands and one that does not. -/
theorem witness_LinkEvents :
    let s := linked 0x81
    let at_ : Nat := (namedVa 0 0x2000).toNat
    let data : List Byte := natBytes 8 5
    (s.fill? result.id = some result ∧ result.parts = 1 ∧ result.vals.length = 1) ∧ (s.localOf 3 (some 4)).bind s.part? = none ∧
    s.part? 0 = some part0 ∧ s.port? 3 = some port0 ∧ port0.parts[5]? = some (some 0) ∧ mapIn port0 0 2 = none ∧ (mapIn port0 0 0x80).isSome = true ∧
    (∃ x, s.outsidePlaces 0 (wordPieces 9 at_ data) = .ok [(at_, data, x)] ∧ ((mapIn port0 0 0x80).map fun l => labelLe l x.label) = some true) ∧
    s.port? 4 = none := by
  refine ⟨?_, ?_, ?_, ?_, ?_, ?_, ?_, ⟨_, rfl, ?_⟩, ?_⟩ <;> decide +kernel

/-- An image without a signature; a record that is too short; and the answers of the signatures, which are open (assumption 6). -/
theorem witness_PowerEvents :
    vendorSigned [] = false ∧ small.configSigned [] = false ∧ small.dev.owner = [] ∧ ({ small with dev := { small.dev with owner := [1] } } : State).dev.owner ≠ [] ∧
    (∀ img, vendorSigned img = true ∨ vendorSigned img = false) ∧ (∀ r, small.configSigned r = true ∨ small.configSigned r = false) := by
  refine ⟨by decide +kernel, by decide +kernel, by decide +kernel, by decide +kernel, fun img => ?_, fun r => ?_⟩ <;> exact (Bool.eq_false_or_eq_true _).elim .inl .inr

/-- A record that configures nothing but the process limit; the bytes that it lacks read as 0. -/
def config0 : List Byte := natBytes 4 0x5A434352 ++ natBytes 2 1 ++ natBytes 2 0 ++ natBytes 2 600

theorem witness_EmptyConfiguration :
    configOk config0 = true ∧ configured config0 = [] ∧ State.reset.parts = [] ∧
    ({ State.reset with dev := { State.reset.dev with rake := ⟨[], 4, 4, false⟩ } } : State).dev.rake.fin ≤ 4 := by
  decide +kernel

/-- Instructions of 32 and of 16 bits, and their words. -/
theorem witness_EncodeDecode :
    (∀ i ∈ [Instr.add 3 1 2 false false, .cAdd 3 1, .fork 8 6 9 false false], i.encoded = true ∧ i.wellFormed = true) ∧
    (encode (.add 3 1 2 false false) = 0x00041181 ∧ 0x00041181 % 2 = 1 ∧ decodeWord 0x00041181 = .ok (.add 3 1 2 false false)) ∧
    (encode (.cAdd 3 1) % 2 = 0 ∧ encode (.cAdd 3 1) < 2 ^ 16) := by
  refine ⟨?_, ⟨?_, ?_, ok_of ?_⟩, ?_⟩ <;> decide +kernel

/-- A step that is due; and a thread at its turn with an instruction in its instruction cache, held by it or not. -/
theorem witness_StepRunsDecoded :
    let s := small.withFetchWord 32 0x00041181
    let due : State := { small with time := { small.time with agenda := [.clockBeat] } }
    (due.dev.halted = false ∧ due.time.agenda = [.clockBeat] ∧ arrivalRank .clockBeat = none) ∧
    (s.dev.halted = false ∧ s.time.agenda = [] ∧ s.time.closed = true ∧ s.time.todo.head? = some s.t.ident.uid ∧ s.t.run = .ready ∧ s.t.late = none ∧
      s.t.pending = [] ∧ s.mustEnd = false ∧ s.foldsHere = false ∧ s.t.ctl.hbcnt < s.t.ctl.hbint ∧ s.throttled 0 s.t.localPan = false ∧
      s.t.prog.holds = false ∧ Progress.holds (.stage 1 0 0) = true) := by
  decide +kernel

/-- A step from a state in its canonical form. -/
theorem witness_StepKeepsCanonical :
    let s := small.withFetchWord 32 0x00041181
    s.canonical ∧ (match step s with
      | .next _ => true
      | _ => false) = true := by
  unfold State.canonical; decide +kernel

theorem witness_HaltedPartStays : heldInReset { small with dev := { small.dev with halted := true } } :=
  ⟨rfl, fun _ _ _ => List.not_mem_nil⟩

/-- A destination and sources that are pending, poisoned and empty. -/
theorem witness_FrameAndChecks :
    let hole (f : GReg) : State := onT small fun t => { t with regs := t.regs.set 2 f }
    small.traps ∧ (3 : Reg) ≠ 0 ∧ ((hole ⟨0, false, false, 0⟩).t.reg 2).full = false ∧ ((hole ⟨0, true, true, 0⟩).t.reg 2).poison = true ∧
    (small.t.reg 1).full = true ∧ (small.t.reg 1).poison = false := by
  unfold State.traps; decide +kernel
/-! ## Witnesses: nests that claim, the steal round, the traps of tasks, and values of the engines -/

/-- A nest with its descriptor in the last words of page 0, at the end of its chunk; its claim at the bank; and the answers to it and to `nest`. -/
theorem witness_NestClaims :
    let s := ctl small fun c => { c with nest := [0x8080000000000000 + 0x1FE0, 0x0001000100010003, 5, 5] }
    let claim := banked (.claimNest 100 4 2)
    let two : Fill := { result with parts := 2, vals := [0, 0] }
    let asked : State := { claim with fab := { claim.fab with fills := [two] } }
    let lo (w : Word) (a b : Nat) : Nat := w.toNat % 2 ^ b / 2 ^ a
    (s.writable [5, 28, 29, 30, 31] ∧ s.acquireHeld = false ∧ s.t.run = .ready ∧ s.t.nestValid = true ∧ lo (s.t.nestWord 3) 0 48 ≤ lo (s.t.nestWord 2) 0 48 ∧
      s.t.ctl.nest.length = 4 ∧ ownPan s (BitVec.ofNat 64 (lo (s.t.nestWord 0) 0 56)) 0 0x1FE0 1 true true ∧ labelLe (s.joined []) 1 = true) ∧
    (asked.canonical ∧ asked.fab.waiters = [] ∧ alone asked (access (.claimNest 100 4 2)) 0 0x108 ∧ (access (.claimNest 100 4 2)).fill = some two.id ∧
      asked.fill? two.id = some two ∧ two.parts = 2 ∧ two.vals.length = 2 ∧ (access (.claimNest 100 4 2)).klass ≤ 2) ∧
    (∀ k ∈ [FillKind.claim, .nest (base + 0x1FE0) 1],
      let f : Fill := { result with kind := k, regs := if k = .claim then [5, 28, 29, 30, 31] else [5], vals := [5, 2, 0, 0], parts := 0, advance := false }
      let w := onT { s with fab := { s.fab with fills := [f] } } fun t => { t with run := .reply }
      w.fill? f.id = some f ∧ f.uid = w.t.ident.uid ∧ f.err = none ∧ f.discard = false ∧ f.resume = true ∧ w.t.run = .reply ∧ w.t.late = none ∧
        w.t.prog = .fresh ∧ w.t.ctl.nest.length = 4 ∧ (f.vals.getD 0 0).toNat + (f.vals.getD 1 0).toNat < 2 ^ 48) := by
  unfold State.writable alone State.canonical
  refine ⟨⟨?_, ?_, ?_, ?_, ?_, ?_, ⟨?_, ?_, 0x1FE0, ?_, ok_of ?_⟩, ?_⟩, ?_, ?_⟩ <;> decide +kernel

/-- A gang of two threads whose deques stand in page 0, an answer of each step of a steal round, and the places of a steal. -/
theorem witness_StealRound :
    let s0 := given small [(1, base), (2, base + 0x2000)]
    let s : State := { s0 with others := [{ task1 with ident := { task1.ident with uid := 2, lthread := 1, slot0 := 1 }, slot := 1 }] }
    let answer (k : FillKind) : Fill := { result with kind := k, regs := [], vals := [0], resume := false, advance := false, parts := 0 }
    let has (k : FillKind) : Prop :=
      answers (onT { s with fab := { s.fab with fills := [answer k] } } fun t => { t with run := .reply }) (answer k) k
    (has (.join (.pop 3) 5 2 1) ∧ has (.join (.steal 3 2 7 1) 5 2 1) ∧ has (.join (.steal 3 2 0 9) 5 2 1)) ∧ s.stealSpan = 2 ∧
    (∃ x, s.taskSpot (dequeVa (s.val 1) 1) = .ok x ∧ x.1 = .pan 0 1024) ∧ s.mem.bad (.pan 0 8) = false ∧ s.canonical ∧ s.fab.waiters = [] ∧ 0 % 1024 = 0 := by
  unfold answers State.canonical
  refine ⟨?_, ?_, ⟨_, rfl, ?_⟩, ?_, ?_, ?_, ?_⟩ <;> decide +kernel

/-- A deque, a frame and an arm that are misaligned by the least amount; places outside the Pan, unmapped, and with a label that may not be written. -/
theorem witness_TaskTraps :
    let s := given small [(1, base + 8), (2, base), (3, base + 0x2004), (4, base + 0x2000), (5, 0x3001), (6, 0x3000), (7, 0x10000), (8, base + 0x20000),
      (9, namedVa 1 0)]
    let out := ctl s fun c => { c with clabel := 2 }
    let outside (va : Word) : Bool := match s.vaClass va with
      | .pan m _ => m != s.t.ident.pan
      | .global | .device | .none => true
    (s.traps ∧ out.traps ∧ isCompute s.t.core = true ∧ corePan s.t.core = s.t.ident.pan ∧ s.acquireHeld = false) ∧
    (s.readable [1, 2, 3, 4, 5, 6, 7, 8, 9] ∧ s.writable [5, 6, 10, 11]) ∧ (s.val 1).toNat % 1024 ≠ 0 ∧ (s.val 2).toNat % 1024 = 0 ∧ (s.val 3).toNat % 8 ≠ 0 ∧
    (s.val 4).toNat % 8 = 0 ∧ (s.val 5).toNat % 2 = 1 ∧ (s.val 6).toNat % 2 = 0 ∧ outside (s.val 7) = true ∧ outside (s.val 9) = true ∧
    outside (s.val 2) = false ∧ outside (s.val 8) = false ∧ (s.taskSpot (s.val 8)).toOption.isSome = false ∧
    (∃ f q, s.taskSpot (s.val 4) = .ok f ∧ s.taskSpot (dequeVa (s.val 2) 0) = .ok q ∧ f.1 = .pan 0 0x2000 ∧ q.1 = .pan 0 0 ∧
      labelLe (out.joined [6, 4]) q.2 = false ∧ labelLe (s.joined [6, 4]) q.2 = true) ∧
    (16384 ≤ 16384 ∧ (base : Word).toNat % 2 = 0 ∧ 2 ^ 55 ≤ (base : Word).toNat) := by
  unfold State.traps State.readable State.writable
  refine ⟨?_, ?_, ?_, ?_, ?_, ?_, ?_, ?_, ?_, ?_, ?_, ?_, ?_, ⟨_, _, rfl, rfl, ?_⟩, ?_⟩ <;> decide +kernel

/-- A copy of 5 raw bytes from page 1 to the end of page 2. -/
def rawCopy : State :=
  { bytes small [(0x2000, (List.range 16).map fun i => BitVec.ofNat 8 (i + 1))] with
    engines := [engine0 [{ command .rackv 0 .started with shape := [], block := rackvBlock (base + 0x2003) (base + 0x5FFB) 5 }]] }

theorem witness_CopyBytes :
    ∃ c, first? rawCopy = some c ∧ rawCopy.cmd? 0 c.id = some c ∧ c.kind = .rackv ∧ c.state = .started ∧ c.done = 0 ∧
      c.block = rackvBlock (base + 0x2003) (base + 0x5FFB) 5 ∧ c.shape = [] ∧
      classify 0 (base + 0x2003).toNat = .pan 0 0x2003 ∧ classify 0 (base + 0x5FFB).toNat = .pan 0 0x5FFB ∧ rawCopy.ownsPan c.part 0 = true ∧
      0x2003 % 8192 + 5 ≤ 8192 ∧ 0x5FFB % 8192 + 5 ≤ 8192 ∧ rawCopy.mapEntry 0 0 (0x2003 / 8192) = page0 1 ∧ rawCopy.mapEntry 0 0 (0x5FFB / 8192) = page0 2 ∧
      labelLe ((page0 1).label ||| c.label) (page0 2).label = true ∧ rawCopy.mem.badWords = [] ∧ rawCopy.heldBack 0 c = false ∧
      rawCopy.pastMissing 0 c (rawCopy.segmentDies 0 c).1 ((rawCopy.segmentDies 0 c).2 ++ rawCopy.blockDies 0 c) = false ∧ rawCopy.segmentWait 0 c = 0 :=
  ⟨_, rfl, by decide +kernel⟩

/-- An operation of one element on bytes, with an exact C in another vat, and with all that it needs to be written back. -/
def multiplying : State :=
  { pressing .press .started (some run0) with
    mem := { small.mem with
      maps := small.mem.maps.map fun e => if e.page = 2 then { e with frame := 8 } else e
      vats := [(0, 32), (1, 61)] }
    engines := [{ engine0 [{ command .press 6 .started with block := pressBytes, bva := 0x10000 }] with press := some run0 }] }

theorem witness_PressValues :
    ∃ c o, first? multiplying = some c ∧ multiplying.pressOp c.part 0 (pressBlock c.block) = some o ∧ (multiplying.engine 0).press = some run0 ∧
      multiplying.cmd? 0 run0.cmd = some c ∧ c.kind = .press ∧ multiplying.blockWaits 0 c = false ∧ (pressBlock c.block).complex = false ∧
      (pressBlock c.block).acc = .acc32i ∧ (multiplying.blockChecks c 0 (pressBlock c.block) o run0).toOption.isSome = true ∧ c.owed = false ∧
      o.fa = .int8 ∧ o.fb = .int8 ∧ (pressBlock c.block).fn ≠ 2 ∧ (pressBlock c.block).ascale = 0 ∧ (pressBlock c.block).bscale = 0 ∧
      (pressBlock c.block).m = 1 ∧ (pressBlock c.block).n = 1 ∧ run0.acc = [7] ∧ destExact o.fc (pressBlock c.block).acc = true ∧
      ((multiplying.chargeUnits c.part c.gang 0 (pressUnits (pressBlock c.block) o 0 (!run0.cont && ((pressBlock c.block).fn ≠ 1 || 0 < run0.first))
        false)).pressNext 0 (some c.id)).isNone = true ∧ isGlobal c.bva.toNat = true ∧ c.bva.toNat % 64 = 0 ∧ multiplying.canonical ∧
      classify 0 (pressBlock c.block).c.toNat = .pan 0 0x4000 ∧ 0x4000 % 8192 + 0 + 1 * (fmtBits o.fc / 8) ≤ 8192 ∧ 1 * (fmtBits o.fc / 8) ≤ (pressBlock c.block).sc ∧
      quietEngines multiplying c := by
  unfold State.canonical quietEngines
  exact ⟨_, _, rfl, rfl, by decide +kernel⟩

end Sys2Proof.Tests
end

/-! # Every step keeps the stores canonical (O57)

A state is canonical when both of its stores list their bytes at strictly rising addresses and no byte 0 (R6, R203). The
invariant follows the layers of the model:

* most operations on the state leave `mem` as it is: one frame lemma each, named `…_mem`;
* the others change `mem` through the operations of memory whose canonical form stands under `Laws/Memory`: one lemma
  each, named `State.wf_…`;
* a handler is made of these: one lemma each, named `canonical_…`;
* the dispatch of `exec`, a thread's turn and the step put the handlers together. -/

namespace Sys2Proof.Machine

/-! ## Operations that leave memory as it is -/

/-- A fold of steps that each leave memory as it was leaves it as it was. -/
@[simp] theorem State.foldl_mem {α : Type} {f : State → α → State} {l : List α} {s : State}
    (hf : ∀ s a, (f s a).mem = s.mem) : (l.foldl f s).mem = s.mem := by
  induction l generalizing s with
  | nil => rfl
  | cons a l ih => exact ih.trans (hf s a)

@[simp] theorem State.ite_mem (c : Prop) [Decidable c] (s t : State) :
    (if c then s else t).mem = if c then s.mem else t.mem :=
  apply_ite State.mem c s t

/-! ### Machine/Ops.lean -/

@[simp] theorem State.focus_mem (s : State) (uid : Nat) : (s.focus uid).mem = s.mem := by
  unfold State.focus
  (repeat' split) <;> rfl

@[simp] theorem State.scheduleOnce_mem (s : State) (c : Nat) (i : Instr) : (s.scheduleOnce c i).mem = s.mem := by
  simp [State.scheduleOnce]

@[simp] theorem State.noteUse_mem (s : State) (part kind place : Nat) :
    (s.noteUse part kind place).mem = s.mem :=
  rfl

@[simp] theorem State.modResize_mem (s : State) (f : Resize → Resize) : (s.modResize f).mem = s.mem := by
  unfold State.modResize
  split <;> rfl

@[simp] theorem State.checkResize_mem (s : State) : s.checkResize.mem = s.mem := by
  unfold State.checkResize
  split
  · rfl
  · split
    · exact State.foldl_mem fun _ _ => rfl
    · rfl

@[simp] theorem State.foldOver_mem (s : State) (gid : Nat) : (s.foldOver gid).mem = s.mem := by
  simp [State.foldOver]

@[simp] theorem State.abortHandler_mem (s : State) (code : Nat) (pc : Word) :
    (s.abortHandler code pc).mem = s.mem :=
  rfl

@[simp] theorem State.takeTrap_mem (s : State) (c : TrapCode) (pc addr info : Word) (join : Label) :
    (s.takeTrap c pc addr info join).mem = s.mem := by
  simp [State.takeTrap]

@[simp] theorem State.fail_mem (s : State) (c : TrapCode) (addr info : Word) (rs : List Reg) (pages : Label) :
    (s.fail c addr info rs pages).mem = s.mem := by
  simp [State.fail]

@[simp] theorem State.returnFromTrap_mem (s : State) (word : Word) : (s.returnFromTrap word).mem = s.mem := by
  simp [State.returnFromTrap]

/-! ### Machine/Operands.lean -/

@[simp] theorem State.depart_mem (s : State) (core : Nat) (reads : List Reg) (hop : Bool)
    (relay extra : Nat) : (s.depart core reads hop relay extra).mem = s.mem := by
  simp [State.depart]

@[simp] theorem State.goHome_mem (s : State) (u : Uses) : (s.goHome u).mem = s.mem := by
  simp [State.goHome]

/-! ### Machine/Regulator.lean -/

@[simp] theorem State.count_mem (s : State) (part gang k n : Nat) : (s.count part gang k n).mem = s.mem :=
  rfl

@[simp] theorem State.countSectors_mem (s : State) (ch part gang n : Nat) :
    (s.countSectors ch part gang n).mem = s.mem :=
  rfl

@[simp] theorem State.countMissing_mem (s : State) (part gang line sectors : Nat) :
    (s.countMissing part gang line sectors).mem = s.mem := by
  simp [State.countMissing]

/-! ### Machine/Access.lean -/

@[simp] theorem State.modDie_mem (s : State) (z : Nat) (f : DieClock → DieClock) : (s.modDie z f).mem = s.mem :=
  rfl

@[simp] theorem State.sendCross_mem (s : State) (x z : Nat) : (s.sendCross x z).2.2.mem = s.mem :=
  rfl

@[simp] theorem State.modAcc_mem (s : State) (id : Nat) (f : Acc → Acc) : (s.modAcc id f).mem = s.mem :=
  rfl

@[simp] theorem State.dropAcc_mem (s : State) (id : Nat) : (s.dropAcc id).mem = s.mem :=
  rfl

@[simp] theorem State.modFill_mem (s : State) (id : Nat) (f : Fill → Fill) : (s.modFill id f).mem = s.mem :=
  rfl

@[simp] theorem State.dropFill_mem (s : State) (id : Nat) : (s.dropFill id).mem = s.mem :=
  rfl

@[simp] theorem State.fault_mem (s : State) (p : Nat) (e : FaultEvent) : (s.fault p e).mem = s.mem :=
  rfl

@[simp] theorem State.holdAcc_mem (s : State) (a : Acc) : (s.holdAcc a).mem = s.mem :=
  rfl

@[simp] theorem State.deliver_mem (s : State) (fid : Nat) (i : Nat) (v : Word) (err : Option (Word × Bool))
    (delay : Nat) : (s.deliver fid i v err delay).mem = s.mem := by
  unfold State.deliver
  split <;> simp

@[simp] theorem State.readJoins_mem (s : State) (a : Acc) : (s.readJoins a).mem = s.mem := by
  simp [State.readJoins]

@[simp] theorem State.setBank_mem (s : State) (x : Bank) : (s.setBank x).mem = s.mem :=
  rfl

@[simp] theorem State.unhold_mem (s : State) (a : Acc) : (s.unhold a).mem = s.mem := by
  unfold State.unhold
  dsimp only
  split <;> simp

@[simp] theorem State.releaseHeld_mem (s : State) : s.releaseHeld.mem = s.mem := by
  simp [State.releaseHeld]

@[simp] theorem State.retargetAll_mem (s : State) : s.retargetAll.mem = s.mem :=
  State.foldl_mem fun _ _ => by dsimp only; (repeat' split) <;> simp

@[simp] theorem State.processBeats_mem (s : State) (z : Nat) : (s.processBeats z).mem = s.mem :=
  rfl

@[simp] theorem State.applied_mem (s : State) (x z num : Nat) : (s.applied x z num).mem = s.mem := by
  unfold State.applied
  rw [State.releaseHeld_mem, State.foldl_mem fun _ _ => State.push_mem ..]
  simp

@[simp] theorem State.markApplied_mem (s : State) (a : Acc) : (s.markApplied a).mem = s.mem := by
  simp [State.markApplied]

@[simp] theorem State.finishAcc_mem (s : State) (a : Acc) : (s.finishAcc a).mem = s.mem := by
  simp [State.finishAcc]

@[simp] theorem State.dropWaiter_mem (s : State) (acc : Nat) : (s.dropWaiter acc).mem = s.mem :=
  rfl

@[simp] theorem State.endWatch_mem (s : State) (acc : Nat) (status : Word) :
    (s.endWatch acc status).mem = s.mem := by
  unfold State.endWatch
  (repeat' split) <;> simp

@[simp] theorem State.wake_mem (s : State) (l : Loc) : (s.wake l).mem = s.mem := by
  simp [State.wake]

@[simp] theorem State.resumeSync_mem (s : State) (a : Acc) : (s.resumeSync a).mem = s.mem := by
  unfold State.resumeSync
  split <;> simp

@[simp] theorem State.syncFails_mem (s : State) (a : Acc) : (s.syncFails a).mem = s.mem := by
  unfold State.syncFails
  split <;> simp

@[simp] theorem State.deliverTask_mem (s : State) (a : Acc) (x : Taken) (delay : Nat) :
    (s.deliverTask a x delay).mem = s.mem := by
  unfold State.deliverTask
  split <;> simp

@[simp] theorem State.dataErrEvent_mem (s : State) (a : Acc) : (s.dataErrEvent a).mem = s.mem :=
  rfl

@[simp] theorem State.labelEvent_mem (s : State) (a : Acc) (page : Label) : (s.labelEvent a page).mem = s.mem :=
  rfl

@[simp] theorem State.countVictim_mem (s : State) (line mask : Nat) : (s.countVictim line mask).mem = s.mem := by
  unfold State.countVictim
  split <;> simp

@[simp] theorem State.countMerge_mem (s : State) (a : Acc) : (s.countMerge a).mem = s.mem := by
  unfold State.countMerge
  (repeat' split) <;> rfl

@[simp] theorem State.markNow_mem (s : State) (a : Acc) : (s.markNow a).mem = s.mem := by
  simp [State.markNow]

@[simp] theorem State.enqueue_mem (s : State) (a : Acc) : (s.enqueue a).mem = s.mem := by
  unfold State.enqueue
  split <;> simp

/-! ### Machine/Send.lean -/

@[simp] theorem State.newHeldFill_mem (s : State) (regs : List Reg) (parts : Nat) (label join : Label)
    (kind : FillKind) (resume advance : Bool) :
    (s.newHeldFill regs parts label join kind resume advance).2.mem = s.mem :=
  rfl

@[simp] theorem State.newFill_mem (s : State) (regs : List Reg) (parts : Nat) (label join : Label)
    (kind : FillKind) (resume advance : Bool) :
    (s.newFill regs parts label join kind resume advance).2.mem = s.mem :=
  rfl

@[simp] theorem State.proxyLegs_mem (s : State) (way : Way) (fid acc : Nat) :
    (s.proxyLegs way fid acc).mem = s.mem := by
  unfold State.proxyLegs
  split <;> rfl

@[simp] theorem State.departFor_mem (s : State) (core : Nat) (reads : List Reg) (join : Label) (legs : Nat) :
    (s.departFor core reads join legs).mem = s.mem := by
  simp [State.departFor]

@[simp] theorem State.askHub_mem (s : State) (va : Word) (kind f : Nat) (dest : TransFor) :
    (s.askHub va kind f dest).2.mem = s.mem :=
  rfl

@[simp] theorem State.dropReq_mem (s : State) (id : Nat) : (s.dropReq id).mem = s.mem :=
  rfl

@[simp] theorem State.departGlobal_mem (s : State) (va : Word) (r w : Bool) (reads : List Reg) (join : Label)
    (hop : Bool) : (s.departGlobal va r w reads join hop).mem = s.mem := by
  simp [State.departGlobal]

@[simp] theorem State.deviceAnswer_mem (s : State) (dests reads : List Reg) (len : Nat) :
    (s.deviceAnswer dests reads len).mem = s.mem :=
  State.foldl_mem fun _ _ => rfl

@[simp] theorem State.goOn_mem (s : State) (hold : Bool) (len : Nat) : (s.goOn hold len).mem = s.mem := by
  simp [State.goOn]

@[simp] theorem State.waitHere_mem (s : State) : s.waitHere.mem = s.mem :=
  rfl

/-! ### Machine/CodeFetch.lean -/

@[simp] theorem State.installLine_mem (s : State) (core part line : Nat) (data : List Byte)
    (deny : Option Word) : (s.installLine core part line data deny).mem = s.mem :=
  rfl

@[simp] theorem State.touchCode_mem (s : State) (core part va n : Nat) :
    (s.touchCode core part va n).mem = s.mem :=
  rfl

@[simp] theorem State.serveLine_mem (s : State) (part core line : Nat) (task : Bool) (data : List Byte)
    (deny : Option Word) (other : Option (Nat × Word)) :
    (s.serveLine part core line task data deny other).mem = s.mem := by
  unfold State.serveLine
  split <;> rfl

@[simp] theorem State.startFetch_mem (s : State) (core part va : Nat) (task : Bool) :
    (s.startFetch core part va task).mem = s.mem := by
  unfold State.startFetch
  dsimp only
  (repeat' split) <;> simp

@[simp] theorem State.fetchAnswer_mem (s : State) (id hub : Nat) (a : TransAnswer) :
    (s.fetchAnswer id hub a).mem = s.mem := by
  unfold State.fetchAnswer
  (repeat' split) <;> rfl

@[simp] theorem State.keepBlock_mem (s : State) (b : Block) : (s.keepBlock b).mem = s.mem :=
  rfl

@[simp] theorem State.dropBlocks_mem (s : State) (place : Nat) : (s.dropBlocks place).mem = s.mem :=
  rfl

@[simp] theorem State.serveLines_mem (s : State) (r : FetchRead) (data : List Byte)
    (other : Nat → Option (Nat × Word)) (x : List (Nat × Nat × Bool)) :
    (s.serveLines r data other x).mem = s.mem := by
  induction x generalizing s with
  | nil => rfl
  | cons w ws ih => exact (ih _).trans (by simp)

/-! ### Machine/Deque.lean -/

@[simp] theorem State.taskEnd_mem (s : State) (pc : Word) : (s.taskEnd pc).mem = s.mem :=
  rfl

@[simp] theorem State.forkEnd_mem (s : State) (d : Reg) (ok : Bool) : (s.forkEnd d ok).mem = s.mem := by
  simp [State.forkEnd]

@[simp] theorem State.joinTake_mem (s : State) (d a b : Reg) (pc frame : Word) (l : Label) :
    (s.joinTake d a b pc frame l).mem = s.mem := by
  simp [State.joinTake]

/-! ### Machine/LoadStore.lean -/

@[simp] theorem State.deviceLoad_mem (s : State) (va : Word) (d : Reg) (reads : List Reg) (n : Nat)
    (sx : Bool) : (s.deviceLoad va d reads n sx).mem = s.mem := by
  unfold State.deviceLoad
  split <;> rfl

@[simp] theorem State.deviceStore_mem (s : State) (va v : Word) (reads : List Reg) (n : Nat) :
    (s.deviceStore va v reads n).mem = s.mem := by
  simp [State.deviceStore]

/-! ### Machine/FaultQueue.lean -/

@[simp] theorem State.modFq_mem (s : State) (p : Nat) (f : FaultQueue → FaultQueue) :
    (s.modFq p f).mem = s.mem :=
  rfl

@[simp] theorem State.fqArm_mem (s : State) (p : Nat) : (s.fqArm p).mem = s.mem := by
  unfold State.fqArm
  split <;> simp

/-! ### Machine/Flags.lean -/

@[simp] theorem State.finishFp_mem (s : State) (d : Reg) (v : Word) (fl : FFlags) (draws : Nat) (l : Label)
    (reads : List Reg) (len : Nat) : (s.finishFp d v fl draws l reads len).mem = s.mem := by
  simp [State.finishFp]

/-! ### Machine/Sys.lean -/

@[simp] theorem State.sendPartReg_mem (s : State) (n : Nat) (v : Word) : (s.sendPartReg n v).mem = s.mem :=
  rfl

@[simp] theorem State.setPerf_mem (s : State) (k : Nat) (v : Word) : (s.setPerf k v).mem = s.mem :=
  rfl

@[simp] theorem State.cregWrite_mem (s : State) (n : Nat) (v : Word) : (s.cregWrite n v).mem = s.mem := by
  simp [State.cregWrite]

@[simp] theorem State.writeLabel_mem (s : State) (d : Reg) (l : Label) : (s.writeLabel d l).mem = s.mem :=
  rfl

/-! ### Machine/FabricEvents.lean -/

@[simp] theorem State.countWait_mem (s : State) (a : Acc) : (s.countWait a).mem = s.mem :=
  rfl

@[simp] theorem State.cwaitDone_mem (s : State) (uid : Nat) : (s.cwaitDone uid).mem = s.mem := by
  simp [State.cwaitDone]

@[simp] theorem State.replyAt_mem (s : State) (uid c : Nat) : (s.replyAt uid c).mem = s.mem :=
  rfl

@[simp] theorem State.keepFills_mem (s : State) (uid : Nat) : (s.keepFills uid).mem = s.mem :=
  rfl

@[simp] theorem State.migrateAnswer_mem (s : State) (q : TransReq) (uid : Nat) (a : TransAnswer) :
    (s.migrateAnswer q uid a).mem = s.mem := by
  unfold State.migrateAnswer
  dsimp only
  (repeat' split) <;> simp

@[simp] theorem State.deliverAnswer_mem (s : State) (q : TransReq) (a : TransAnswer) :
    (s.deliverAnswer q a).mem = s.mem := by
  unfold State.deliverAnswer
  split <;> simp

@[simp] theorem State.startWalk_mem (s : State) (q : TransReq) : (s.startWalk q).mem = s.mem := by
  simp [State.startWalk]

@[simp] theorem State.tellRegulator_mem (s : State) (part ch : Nat) (e : Nat × Nat) :
    (s.tellRegulator part ch e).mem = s.mem :=
  rfl

@[simp] theorem State.regulated_mem (s old : State) : (s.regulated old).mem = s.mem := by
  simp [State.regulated]

@[simp] theorem State.sendBeats_mem (s : State) (x : Nat) : (s.sendBeats x).mem = s.mem := by
  simp [State.sendBeats]

@[simp] theorem State.place_mem (s : State) (t : Thread) (x : Transit) (core slot : Nat) :
    (s.place t x core slot).mem = s.mem := by
  simp [State.place]

@[simp] theorem State.arriveThread_mem (s : State) (t : Thread) (x : Transit) :
    (s.arriveThread t x).mem = s.mem := by
  unfold State.arriveThread
  dsimp only
  (repeat' split) <;> simp

@[simp] theorem State.vacate_mem (s : State) (core slot part : Nat) : (s.vacate core slot part).mem = s.mem := by
  simp [State.vacate]

@[simp] theorem State.endTransit_mem (s : State) (uid : Nat) : (s.endTransit uid).mem = s.mem :=
  rfl

/-! ### Machine/Reach.lean -/

@[simp] theorem State.charge_mem (s : State) (part pan units : Nat) : (s.charge part pan units).mem = s.mem :=
  rfl

@[simp] theorem State.chargeUnits_mem (s : State) (part gang pan units : Nat) :
    (s.chargeUnits part gang pan units).mem = s.mem :=
  rfl

/-! ### Machine/Engine.lean -/

@[simp] theorem State.modEngine_mem (s : State) (place : Nat) (f : Engine → Engine) :
    (s.modEngine place f).mem = s.mem := by
  simp [State.modEngine]

@[simp] theorem State.modCmd_mem (s : State) (place id : Nat) (f : Cmd → Cmd) :
    (s.modCmd place id f).mem = s.mem := by
  simp [State.modCmd]

@[simp] theorem State.notify_mem (s : State) (c : Cmd) (kind : AsyncKind) (cause : Nat) (addr : Word) :
    (s.notify c kind cause addr).mem = s.mem := by
  simp [State.notify]

@[simp] theorem State.answerWaits_mem (s : State) (part : Nat) (ticket : Word) (src : Option Word)
    (press : Bool) (word : Word) (label : Label) (clock : List Nat) :
    (s.answerWaits part ticket src press word label clock).mem = s.mem := by
  simp [State.answerWaits]

@[simp] theorem State.retireFence_mem (s : State) (place : Nat) (f : QFence) :
    (s.retireFence place f).mem = s.mem := by
  simp [State.retireFence]

@[simp] theorem State.leaveFences_mem (s : State) (id : Nat) (clock : List Nat) :
    (s.leaveFences id clock).mem = s.mem := by
  simp [State.leaveFences]

@[simp] theorem State.freeRanges_mem (s : State) (place id : Nat) : (s.freeRanges place id).mem = s.mem := by
  simp [State.freeRanges]

@[simp] theorem State.beginSegment_mem (s : State) (place : Nat) (c : Cmd) (latency bytes : Nat) :
    (s.beginSegment place c latency bytes).mem = s.mem := by
  simp [State.beginSegment]

@[simp] theorem State.kickPress_mem (s : State) (place : Nat) : (s.kickPress place).mem = s.mem := by
  simp [State.kickPress]

@[simp] theorem State.kick_mem (s : State) (place : Nat) (latency : State → Cmd → Nat × Nat) :
    (s.kick place latency).mem = s.mem := by
  simp [State.kick]

@[simp] theorem State.cmdRead_mem (s : State) (place id z : Nat) : (s.cmdRead place id z).mem = s.mem := by
  simp [State.cmdRead]

@[simp] theorem State.cmdWrite_mem (s : State) (place id z : Nat) : (s.cmdWrite place id z).mem = s.mem := by
  simp [State.cmdWrite]

/-! ### Machine/Vector.lean -/

@[simp] theorem State.vecTrap_mem (s : State) (fl : FFlags) (l : Label) : (s.vecTrap fl l).mem = s.mem := by
  unfold State.vecTrap
  split <;> simp

@[simp] theorem State.newVecFill_mem (s : State) (d : VReg) (m : Masking) (parts : Nat) (label : Label)
    (resume : Bool) (elems : List (BitVec 32)) : (s.newVecFill d m parts label resume elems).2.mem = s.mem :=
  rfl

/-! ### Machine/Queue.lean -/

@[simp] theorem State.takeRanges_mem (s : State) (place : Nat) (c : Cmd) (order : Nat) :
    (s.takeRanges place c order).mem = s.mem :=
  rfl

@[simp] theorem State.accept_mem (s : State) (place : Nat) (c : Cmd) : (s.accept place c).2.mem = s.mem := by
  simp [State.accept]

@[simp] theorem State.acceptFence_mem (s : State) (place part gang uid mask : Nat) :
    (s.acceptFence place part gang uid mask).2.mem = s.mem := by
  simp [State.acceptFence]

@[simp] theorem State.kickAll_mem (s : State) (place : Nat) : (s.kickAll place).mem = s.mem := by
  simp [State.kickAll]

@[simp] theorem State.tryWait_mem (s : State) (place : Nat) (w : CmdWait) : (s.tryWait place w).mem = s.mem := by
  unfold State.tryWait
  split <;> simp

@[simp] theorem State.turnQueues_mem (s : State) (place : Nat) : (s.turnQueues place).mem = s.mem := by
  simp [State.turnQueues]

@[simp] theorem State.pushFollowOns_mem (s : State) (place part : Nat) :
    (s.pushFollowOns place part).mem = s.mem := by
  simp [State.pushFollowOns]

@[simp] theorem State.endCmd_mem (s : State) (place id : Nat) (status cause : Nat) :
    (s.endCmd place id status cause).mem = s.mem := by
  unfold State.endCmd
  split <;> simp

@[simp] theorem State.refuse_mem (s : State) (d : Reg) (label : Label) : (s.refuse d label).mem = s.mem := by
  simp [State.refuse]

@[simp] theorem State.submit_mem (s : State) (d : Reg) (c : Cmd) : (s.submit d c).mem = s.mem := by
  simp [State.submit]

@[simp] theorem State.replaceHalted_mem (s : State) (d : Reg) (old new : Cmd) :
    (s.replaceHalted d old new).mem = s.mem := by
  simp [State.replaceHalted]

@[simp] theorem State.giveStatus_mem (s : State) (d : Reg) (word : Word) (label : Label) :
    (s.giveStatus d word label).mem = s.mem := by
  simp [State.giveStatus]

@[simp] theorem State.fillStatus_mem (s : State) (d : Reg) (word : Word) (label : Label) :
    (s.fillStatus d word label).mem = s.mem := by
  simp [State.fillStatus]

@[simp] theorem State.report_mem (s : State) (d : Reg) (x : Standing) (label : Label) :
    (s.report d x label).mem = s.mem := by
  unfold State.report
  split <;> simp

@[simp] theorem State.watchTicket_mem (s : State) (d : Reg) (w : Word) (press : Bool) (x : Standing)
    (label : Label) : (s.watchTicket d w press x label).mem = s.mem := by
  unfold State.watchTicket
  split <;> simp

@[simp] theorem State.awaitTicket_mem (s : State) (d : Reg) (w : Word) (press : Bool) (x : Standing)
    (label : Label) : (s.awaitTicket d w press x label).mem = s.mem := by
  simp [State.awaitTicket]

/-! ### Machine/Rack.lean -/

@[simp] theorem State.dropShapes_mem (s : State) (part : Nat) (f : Nat → Bool) :
    (s.dropShapes part f).mem = s.mem :=
  rfl

/-! ### Machine/Sluice.lean -/

@[simp] theorem State.usePolicy_mem (s : State) (place n : Nat) : (s.usePolicy place n).mem = s.mem :=
  rfl

theorem State.sluice_mem {s s' : State} {part : Nat} {l m : Label} {d : Dest} {n : Nat}
    (e : s.sluice part l d n = .ok (m, s')) : s'.mem = s.mem := by
  unfold State.sluice at e
  dsimp only at e
  (repeat' split at e) <;> simp at e <;> obtain ⟨-, rfl⟩ := e <;> simp

@[simp] theorem State.sluiceEvent_mem (s : State) (part reason : Nat) (addr : Word) (label : Label)
    (dest : Nat) : (s.sluiceEvent part reason addr label dest).mem = s.mem :=
  rfl

@[simp] theorem State.emit_mem (s : State) (o : Outgoing) : (s.emit o).mem = s.mem :=
  rfl

@[simp] theorem State.exported_mem (s : State) (d : Dest) (addr : Word) (bs : List Byte) (l : Label) :
    (s.exported d addr bs l).mem = s.mem := by
  unfold State.exported
  (repeat' split) <;> rfl

@[simp] theorem State.noteExport_mem (s : State) (d : Dest) : (s.noteExport d).mem = s.mem := by
  unfold State.noteExport
  split <;> rfl

@[simp] theorem State.endSluice_mem (s : State) (d a : Reg) (status reason : Nat) (trap : Bool)
    (pages : Label) : (s.endSluice d a status reason trap pages).mem = s.mem := by
  simp [State.endSluice]

@[simp] theorem State.dropPolicy_mem (s : State) (id : Word) : (s.dropPolicy id).mem = s.mem :=
  rfl

/-! ### Machine/Collective.lean -/

@[simp] theorem State.sendColl_mem (s : State) (part chip : Nat) (m : CollMsg) :
    (s.sendColl part chip m).2.mem = s.mem := by
  unfold State.sendColl
  split
  · simp
  · split
    · rename_i e _; simp [State.sluice_mem e]
    · rename_i e _; simp [State.sluice_mem e]
    · simp

@[simp] theorem State.tellRoot_mem (s : State) (c : Cmd) : (s.tellRoot c).mem = s.mem := by
  simp [State.tellRoot]

@[simp] theorem State.collFault_mem (s : State) (place : Nat) (c : Cmd) (cause : Nat) (addr : Word) :
    (s.collFault place c cause addr).mem = s.mem := by
  simp [State.collFault]

@[simp] theorem State.collAnswer_mem (s : State) (part : Nat) (m : CollMsg) (role : Nat) (data : List Byte)
    (label : Label) : (s.collAnswer part m role data label).mem = s.mem := by
  simp [State.collAnswer]

@[simp] theorem State.collAbort_mem (s : State) (c : Coll) : (s.collAbort c).mem = s.mem := by
  simp [State.collAbort]

@[simp] theorem State.dropColl_mem (s : State) (tag epoch : Nat) : (s.dropColl tag epoch).mem = s.mem :=
  rfl

@[simp] theorem State.collEnter_mem (s : State) (m : CollMsg) : (s.collEnter m).mem = s.mem := by
  unfold State.collEnter
  dsimp only
  (repeat' split) <;> simp

@[simp] theorem State.collsLost_mem (s : State) (part : Option Nat) (chips : List Nat) :
    (s.collsLost part chips).mem = s.mem := by
  simp [State.collsLost]

/-! ### Machine/Press.lean -/

@[simp] theorem State.passRange_mem (s : State) (place : Nat) (x y : Cmd) :
    (s.passRange place x y).mem = s.mem :=
  rfl

@[simp] theorem State.takeUp_mem (s : State) (place : Nat) (c : Cmd) (cont : Bool) (acc : List Int)
    (label : Label) : (s.takeUp place c cont acc label).mem = s.mem := by
  simp [State.takeUp]

/-! ### Machine/RackEvents.lean -/

@[simp] theorem State.modReq_mem (s : State) (id : Nat) (f : DirReq → DirReq) : (s.modReq id f).mem = s.mem :=
  rfl

@[simp] theorem State.endMove_mem (s : State) (place : Nat) (c : Cmd) (fault : Option Nat) :
    (s.endMove place c fault).mem = s.mem := by
  unfold State.endMove
  (repeat' split) <;> rfl

@[simp] theorem State.passThrough_mem (s : State) (place id : Nat) (dies : List Nat × List Nat) :
    (s.passThrough place id dies).mem = s.mem := by
  simp [State.passThrough]

/-! ### Machine/Start.lean -/

@[simp] theorem State.startThread_mem (s : State) (b : Beginning) (i : Ident) (core slot : Nat) :
    (s.startThread b i core slot).mem = s.mem :=
  rfl

/-! ### Machine/Census.lean -/

@[simp] theorem State.setDir_mem (s : State) (place : Nat) (x : DirEntry) : (s.setDir place x).mem = s.mem := by
  simp [State.setDir]

@[simp] theorem State.dropDir_mem (s : State) (place idx : Nat) : (s.dropDir place idx).mem = s.mem := by
  simp [State.dropDir]

@[simp] theorem State.sendDir_mem (s : State) (kind : Nat) (d : Reg) (bs : List Byte) (dest : Word)
    (label dlabel : Label) : (s.sendDir kind d bs dest label dlabel).mem = s.mem :=
  rfl

@[simp] theorem State.endDir_mem (s : State) (r : DirReq) (status cause : Nat) :
    (s.endDir r status cause).mem = s.mem := by
  simp [State.endDir]

@[simp] theorem State.performDir_mem (s : State) (r : DirReq) (e : MapEntry) : (s.performDir r e).mem = s.mem := by
  unfold State.performDir
  dsimp only
  (repeat' split) <;> simp

@[simp] theorem State.startMove_mem (s : State) (r : DirReq) (x : DirEntry) (dstAt : Nat) :
    (s.startMove r x dstAt).mem = s.mem := by
  simp [State.startMove]

@[simp] theorem State.performMove_mem (s : State) (r : DirReq) (es ed : MapEntry) :
    (s.performMove r es ed).mem = s.mem := by
  unfold State.performMove
  dsimp only
  (repeat' split) <;> simp

@[simp] theorem State.responderGang_mem (s : State) (place part : Nat) :
    (s.responderGang place part).2.mem = s.mem := by
  unfold State.responderGang
  split <;> rfl

@[simp] theorem State.startResponder_mem (s : State) (place : Nat) (m : Match) (x : DirEntry) (c : Census)
    (core slot : Nat) : (s.startResponder place m x c core slot).mem = s.mem := by
  simp [State.startResponder]

@[simp] theorem State.matchEntry_mem (s : State) (place : Nat) (x : DirEntry) (c : Census) (move : Nat) :
    (s.matchEntry place x c move).mem = s.mem := by
  unfold State.matchEntry
  dsimp only
  split <;> simp

@[simp] theorem State.startWaiting_mem (s : State) (place part : Nat) (x : Nat) :
    (s.startWaiting place part x).mem = s.mem := by
  induction x generalizing s with
  | zero => rfl
  | succ n ih => unfold State.startWaiting; split <;> simp [ih]

@[simp] theorem State.modCen_mem (s : State) (id : Nat) (f : Census → Census) : (s.modCen id f).mem = s.mem :=
  rfl

@[simp] theorem State.completeCensuses_mem (s : State) (part : Nat) : (s.completeCensuses part).mem = s.mem :=
  State.foldl_mem fun _ _ => rfl

@[simp] theorem State.startCensus_mem (s : State) (c : Census) (slot : Nat) :
    (s.startCensus c slot).mem = s.mem := by
  unfold State.startCensus
  simp only [State.completeCensuses_mem]
  rw [State.foldl_mem fun _ _ => State.foldl_mem fun _ _ => State.schedule_mem ..]
  simp

@[simp] theorem State.takeSlots_mem (s : State) (part : Nat) (x : Nat) : (s.takeSlots part x).mem = s.mem := by
  induction x generalizing s with
  | zero => rfl
  | succ n ih => unfold State.takeSlots; dsimp only; split <;> simp [ih]

@[simp] theorem State.endMatch_mem (s : State) (place : Nat) (m : Match) (answer : Option Word)
    (label : Label) : (s.endMatch place m answer label).mem = s.mem := by
  simp [State.endMatch]

@[simp] theorem State.land_mem (s : State) (place : Nat) (x : DirEntry) (move : Nat) :
    (s.land place x move).mem = s.mem := by
  unfold State.land
  extract_lets +onlyGivenNames tr passed s1 s2
  have h2 : s2.mem = s.mem := by
    refine (State.foldl_mem fun t c => ?_).trans (State.setDir_mem ..)
    dsimp only
    split <;> simp
  split <;> simp [h2]

@[simp] theorem State.emptyAnswer_mem (s : State) (t : Thread) : (s.emptyAnswer t).mem = s.mem := by
  unfold State.emptyAnswer
  (repeat' split) <;> simp

/-! ### Machine/Save.lean -/

@[simp] theorem State.dropWait_mem (s : State) (uid : Nat) (pick : Fill → Bool) :
    (s.dropWait uid pick).mem = s.mem := by
  simp [State.dropWait]

@[simp] theorem State.abandonWait_mem (s : State) (uid : Nat) : (s.abandonWait uid).2.mem = s.mem := by
  unfold State.abandonWait
  split
  · rfl
  · extract_lets +onlyGivenNames listed barrier queued pick mine away done
    have hdone (t : State) : (done t).mem = t.mem := by simp [done]
    clear_value done
    (repeat' split) <;> simp [hdone]

@[simp] theorem State.stopThread_mem (s : State) (uid : Nat) (run : Run) : (s.stopThread uid run).mem = s.mem := by
  simp [State.stopThread]

@[simp] theorem State.pwaitAgain_mem (s : State) (f : Fill) : (s.pwaitAgain f).mem = s.mem := by
  unfold State.pwaitAgain
  split <;> simp

@[simp] theorem State.pwaitsAgain_mem (s : State) (uid : Nat) : (s.pwaitsAgain uid).mem = s.mem := by
  simp [State.pwaitsAgain]

@[simp] theorem State.freeRecords_mem (s : State) (part : Nat) (is : List Nat) :
    (s.freeRecords part is).mem = s.mem :=
  rfl

@[simp] theorem State.restoreContext_mem (s : State) (t : Thread) (core slot : Nat) :
    (s.restoreContext t core slot).mem = s.mem := by
  unfold State.restoreContext
  split <;> simp

@[simp] theorem State.giveSlot_mem (s : State) (core slot part : Nat) :
    (s.giveSlot core slot part).mem = s.mem := by
  simp [State.giveSlot]

@[simp] theorem State.giveSlots_mem (s : State) (t : Thread) : (s.giveSlots t).mem = s.mem := by
  simp [State.giveSlots]

@[simp] theorem State.requeue_mem (s : State) (place : Nat) (c : Cmd) : (s.requeue place c).mem = s.mem := by
  simp [State.requeue]

@[simp] theorem State.moveFences_mem (s : State) (gid : Nat) (placeOf : Nat → Nat) :
    (s.moveFences gid placeOf).mem = s.mem := by
  simp [State.moveFences]

@[simp] theorem State.unfold_mem (s : State) (g : Gang) (places : List (Nat × Nat)) (units : List Nat) :
    (s.unfold g places units).mem = s.mem := by
  unfold State.unfold
  split <;> simp

/-! ### Machine/Launch.lean -/

@[simp] theorem State.modUnit_mem (s : State) (part : Nat) (f : LaunchUnit → LaunchUnit) :
    (s.modUnit part f).mem = s.mem :=
  rfl

@[simp] theorem State.modJob_mem (s : State) (part num : Nat) (f : Job → Job) :
    (s.modJob part num f).mem = s.mem :=
  rfl

@[simp] theorem State.askPass_mem (s : State) (part : Nat) : (s.askPass part).mem = s.mem := by
  simp [State.askPass]

@[simp] theorem State.closeJob_mem (s : State) (part : Nat) (j : Job) (status : Nat) :
    (s.closeJob part j status).mem = s.mem :=
  rfl

@[simp] theorem State.makeEligible_mem (s : State) (part num : Nat) : (s.makeEligible part num).mem = s.mem := by
  simp [State.makeEligible]

@[simp] theorem State.readWaiton_mem (s : State) (part : Nat) (j : Job) : (s.readWaiton part j).mem = s.mem := by
  unfold State.readWaiton
  (repeat' split) <;> simp

@[simp] theorem State.readWaitons_mem (s : State) (part : Nat) : (s.readWaitons part).mem = s.mem := by
  unfold State.readWaitons
  split <;> simp

@[simp] theorem State.addJob_mem (s : State) (part : Nat) (j : Job) : (s.addJob part j).2.mem = s.mem :=
  rfl

@[simp] theorem State.submitRecord_mem (s : State) (part : Option Nat) (r : List Byte) (label : Label)
    (vf : Option Nat) (program : Bool) : (s.submitRecord part r label vf program).2.2.mem = s.mem := by
  unfold State.submitRecord
  (repeat' split) <;> simp

@[simp] theorem State.modVf_mem (s : State) (vf : Nat) (f : VirtFn → VirtFn) : (s.modVf vf f).mem = s.mem :=
  rfl

@[simp] theorem State.submitSlot_mem (s : State) (v : VirtFn) (k : Nat) : (s.submitSlot v k).mem = s.mem := by
  simp [State.submitSlot]

@[simp] theorem State.errorCompletion_mem (s : State) (part : Nat) (inv : Invocation) (code pcOff : Nat)
    (g1 : Word) (l : Label) (status : Nat) : (s.errorCompletion part inv code pcOff g1 l status).mem = s.mem := by
  unfold State.errorCompletion
  split
  · simp
  · split
    · rename_i e; simp [State.sluice_mem e]
    · simp

@[simp] theorem State.finishJob_mem (s : State) (part : Nat) (j : Job) (status : Nat) :
    (s.finishJob part j status).mem = s.mem := by
  unfold State.finishJob
  split <;> simp

@[simp] theorem State.checkJob_mem (s : State) (part num : Nat) : (s.checkJob part num).mem = s.mem := by
  unfold State.checkJob
  split <;> simp

@[simp] theorem State.endGang_mem (s : State) (g : Gang) : (s.endGang g).mem = s.mem := by
  unfold State.endGang
  split <;> simp

@[simp] theorem State.cancelJobs_mem (s : State) (part : Nat) (pick : Job → Bool) :
    (s.cancelJobs part pick).mem = s.mem := by
  unfold State.cancelJobs
  split <;> simp

@[simp] theorem State.acceptInvocation_mem (s : State) (i : Invocation) : (s.acceptInvocation i).2.mem = s.mem := by
  unfold State.acceptInvocation
  dsimp only
  (repeat' split) <;> simp

@[simp] theorem State.placeGang_mem (s : State) (part pan : Nat) (j : Job) (h : Header)
    (places : List (Nat × Nat)) (units : List Nat) : (s.placeGang part pan j h places units).mem = s.mem := by
  unfold State.placeGang
  dsimp only
  rw [State.modJob_mem, State.foldl_mem fun _ _ => State.startThread_mem ..]
  exact State.fresh_mem s

@[simp] theorem State.startJob_mem (s : State) (part : Nat) (j : Job) : (s.startJob part j).2.mem = s.mem := by
  unfold State.startJob
  (repeat' split) <;> simp

theorem State.tryPlace_mem {s : State} {part pan : Nat} {j : Job} {h : Header} {s' : State}
    (e : s.tryPlace part pan j h = some s') : s'.mem = s.mem := by
  unfold State.tryPlace at e
  dsimp only at e
  (repeat' split at e) <;> simp at e <;> subst e <;> simp

theorem State.foldFor_mem {s : State} {part pan : Nat} {j : Job} {h : Header} {s' : State}
    (e : s.foldFor part pan j h = some s') : s'.mem = s.mem := by
  unfold State.foldFor at e
  dsimp only at e
  split at e
  · contradiction
  · split at e
    · contradiction
    · obtain rfl := Option.some.inj e
      exact State.foldl_mem fun _ _ => rfl

@[simp] theorem State.panStep_mem (s : State) (part pan : Nat) (x : List Job) :
    (s.panStep part pan x).2.mem = s.mem := by
  induction x generalizing s with
  | nil => rfl
  | cons j js ih =>
    unfold State.panStep
    split
    · exact ih s
    · have hs := s.startJob_mem part j
      split
      · rename_i e; simpa [e] using hs
      · rename_i h t e
        have ht : t.mem = s.mem := by simpa [e] using hs
        split
        · rename_i e; exact (State.tryPlace_mem e).trans ht
        · cases e : t.foldFor part pan j h with
          | none => exact ht
          | some u => exact (State.foldFor_mem e).trans ht

@[simp] theorem State.placeResponders_mem (s : State) (part pan : Nat) :
    (s.placeResponders part pan).mem = s.mem := by
  simp [State.placeResponders]

@[simp] theorem State.panPass_mem (s : State) (part pan : Nat) (x : Nat) : (s.panPass part pan x).mem = s.mem := by
  induction x generalizing s with
  | zero => rfl
  | succ n ih =>
    have hs := s.panStep_mem part pan (s.candidates part)
    unfold State.panPass
    split
    · rename_i e; exact (ih _).trans (by simpa [e] using hs)
    · rename_i e; simpa [e] using hs

@[simp] theorem State.keptPan_mem (s : State) (part pan : Nat) : (s.keptPan part pan).2.mem = s.mem := by
  have kept (t : State) (j : Job) (h : Header) : ((t.tryPlace part pan j h).getD t).mem = t.mem := by
    cases e : t.tryPlace part pan j h with
    | none => rfl
    | some u => exact State.tryPlace_mem e
  unfold State.keptPan
  split
  · rfl
  · split
    · rfl
    · dsimp only
      (repeat' split) <;> simp [kept]

/-! ### Machine/Sync.lean -/

@[simp] theorem State.endSleep_mem (s : State) (uid : Nat) (woken : Bool) : (s.endSleep uid woken).mem = s.mem := by
  unfold State.endSleep
  (repeat' split) <;> simp

@[simp] theorem State.consumeWake_mem (s : State) (d a : Reg) : (s.consumeWake d a).mem = s.mem :=
  rfl

@[simp] theorem State.askBarrier_mem (s : State) (n token fid : Nat) (wait : Bool) (label : Label) :
    (s.askBarrier n token fid wait label).mem = s.mem := by
  simp [State.askBarrier]

@[simp] theorem State.answerBarw_mem (s : State) (r : BarReq) (status : Word) :
    (s.answerBarw r status).mem = s.mem := by
  simp [State.answerBarw]

@[simp] theorem State.completePhase_mem (s : State) (g n : Nat) : (s.completePhase g n).mem = s.mem := by
  simp [State.completePhase]

@[simp] theorem State.performBar_mem (s : State) (r : BarReq) : (s.performBar r).mem = s.mem := by
  unfold State.performBar
  split <;> simp

@[simp] theorem State.endFence_mem (s : State) (fn : Nat) (demoted : Bool) :
    (s.endFence fn demoted).mem = s.mem := by
  simp [State.endFence]

@[simp] theorem State.countFence_mem (s : State) (fn : Nat) (demoted : Bool) (base : Nat) :
    (s.countFence fn demoted base).mem = s.mem := by
  simp [State.countFence]

@[simp] theorem State.discard_mem (s : State) (part : Nat) (inScope : Nat → Bool) (hubs : Bool)
    (r : Option (Nat × Nat)) : (s.discard part inScope hubs r).mem = s.mem :=
  rfl

/-! ### Machine/Interrupt.lean -/

@[simp] theorem State.resumeFenced_mem (s : State) (t : Thread) : (s.resumeFenced t).mem = s.mem := by
  unfold State.resumeFenced
  split <;> simp

@[simp] theorem State.wakeSlot_mem (s : State) (core slot : Nat) (sup : Bool) (label : Label)
    (clock : List Nat) : (s.wakeSlot core slot sup label clock).mem = s.mem := by
  unfold State.wakeSlot
  dsimp only
  (repeat' split) <;> simp

@[simp] theorem State.wakeCore_mem (s : State) (part core slots : Nat) (sup : Bool) (label : Label)
    (clock : List Nat) : (s.wakeCore part core slots sup label clock).mem = s.mem := by
  simp [State.wakeCore]

@[simp] theorem State.wakeNear_mem (s : State) (core slots : Nat) (sup : Bool) (l : Label) :
    (s.wakeNear core slots sup l).mem = s.mem :=
  rfl

@[simp] theorem State.readyForTrap_mem (s : State) : s.readyForTrap.2.mem = s.mem := by
  unfold State.readyForTrap
  (repeat' split) <;> simp

/-! ### Machine/Task.lean -/

@[simp] theorem State.leaveBarriers_mem (s : State) (g : Nat) : (s.leaveBarriers g).mem = s.mem := by
  unfold State.leaveBarriers
  refine (State.foldl_mem fun t k => ?_).trans (State.modGang_mem ..)
  split <;> simp

@[simp] theorem State.dropThread_mem (s : State) (uid : Nat) : (s.dropThread uid).mem = s.mem := by
  simp [State.dropThread]

@[simp] theorem State.awaitAcks_mem (s : State) (t : Thread) : (s.awaitAcks t).mem = s.mem := by
  unfold State.awaitAcks
  split <;> simp

@[simp] theorem State.endOne_mem (s : State) (t : Thread) : (s.endOne t).mem = s.mem := by
  unfold State.endOne
  dsimp only
  (repeat' split) <;> simp

@[simp] theorem State.endThread_mem (s : State) (t : Thread) : (s.endThread t).mem = s.mem := by
  unfold State.endThread
  dsimp only
  split <;> simp

/-! ### Machine/Partition.lean -/

@[simp] theorem State.setCaps_mem (s : State) : s.setCaps.mem = s.mem :=
  rfl

@[simp] theorem State.rakeNext_mem (s : State) : s.rakeNext.mem = s.mem := by
  unfold State.rakeNext
  split <;> rfl

@[simp] theorem State.rakeAppend_mem (s : State) (items : List RakeItem) : (s.rakeAppend items).mem = s.mem := by
  simp [State.rakeAppend]

@[simp] theorem State.freeScrubbed_mem (s : State) (core slot : Nat) : (s.freeScrubbed core slot).mem = s.mem := by
  unfold State.freeScrubbed
  split <;> simp

@[simp] theorem State.clearLane_mem (s : State) (place lane : Nat) : (s.clearLane place lane).mem = s.mem := by
  unfold State.clearLane
  split <;> simp

@[simp] theorem State.clearPress_mem (s : State) (place : Nat) : (s.clearPress place).mem = s.mem :=
  rfl

@[simp] theorem State.clearSlot_mem (s : State) (core slot : Nat) : (s.clearSlot core slot).mem = s.mem := by
  unfold State.clearSlot
  dsimp only
  (repeat' split) <;> simp

@[simp] theorem State.forceEnd_mem (s : State) (uid : Nat) : (s.forceEnd uid).mem = s.mem := by
  simp [State.forceEnd]

@[simp] theorem State.endSaved_mem (s : State) (part : Nat) : (s.endSaved part).mem = s.mem := by
  simp [State.endSaved]

@[simp] theorem State.forceGangs_mem (s : State) (part : Nat) : (s.forceGangs part).mem = s.mem := by
  simp [State.forceGangs]

@[simp] theorem State.startRetire_mem (s : State) (part : Nat) (force : Bool)
    (req : Option (Nat × Nat × Nat)) : (s.startRetire part force req).mem = s.mem := by
  simp [State.startRetire]

@[simp] theorem State.abandonCmds_mem (s : State) (part : Nat) : (s.abandonCmds part).mem = s.mem := by
  simp [State.abandonCmds]

@[simp] theorem State.modRetirement_mem (s : State) (part : Nat) (f : Retirement → Retirement) :
    (s.modRetirement part f).mem = s.mem :=
  rfl

/-! ### Machine/Resize.lean -/

@[simp] theorem State.startMoves_mem (s : State) : s.startMoves.mem = s.mem := by
  unfold State.startMoves
  split
  · rfl
  · refine State.foldl_mem fun t m => ?_
    dsimp only
    (repeat' split) <;> simp

@[simp] theorem State.startClears_mem (s : State) (old : List (Nat × Nat)) : (s.startClears old).mem = s.mem := by
  unfold State.startClears
  split
  · rfl
  · exact State.foldl_mem fun _ _ => rfl

@[simp] theorem State.scrubSlot_mem (s : State) (core slot : Nat) : (s.scrubSlot core slot).mem = s.mem := by
  simp [State.scrubSlot]

@[simp] theorem State.releaseWaiters_mem (s : State) (part n page : Nat) :
    (s.releaseWaiters part n page).mem = s.mem := by
  simp [State.releaseWaiters]

/-! ### Machine/Outside.lean -/

@[simp] theorem State.outsideWord_mem (s : State) (part die : Nat) (port : Option Nat) (label : Label)
    (va : Word) (x : Target) (bs : List Byte) : (s.outsideWord part die port label va x bs).mem = s.mem :=
  rfl

@[simp] theorem State.outsideWrite_mem (s : State) (part die : Nat) (port : Option Nat) (addr : Nat)
    (data : List Byte) (label : Label) : (s.outsideWrite part die port addr data label).2.mem = s.mem := by
  unfold State.outsideWrite
  split
  · rfl
  · exact State.foldl_mem fun _ _ => State.outsideWord_mem ..

@[simp] theorem State.refusePacket_mem (s : State) (port : Nat) (sender : Option Nat) (addr : Word)
    (label : Label) : (s.refusePacket port sender addr label).mem = s.mem :=
  rfl

@[simp] theorem State.answerInvoke_mem (s : State) (fid status : Nat) :
    (s.answerInvoke fid status).mem = s.mem := by
  unfold State.answerInvoke
  split <;> simp

@[simp] theorem State.modPort_mem (s : State) (n : Nat) (f : Port → Port) : (s.modPort n f).mem = s.mem :=
  rfl

@[simp] theorem State.startManagers_mem (s : State) : s.startManagers.mem = s.mem := by
  refine State.foldl_mem fun t k => ?_
  simp

/-! ### Machine/Turn.lean -/

@[simp] theorem State.dropLineFault_mem (s : State) (core part : Nat) (task : Bool) (va : Nat) :
    (s.dropLineFault core part task va).mem = s.mem :=
  rfl

@[simp] theorem State.takeCode_mem (s : State) (code : Nat) (addr info : Word) (join : Label) :
    (s.takeCode code addr info join).mem = s.mem := by
  simp [State.takeCode]

@[simp] theorem State.takeLate_mem (s : State) (f : LateFault) : (s.takeLate f).mem = s.mem := by
  simp [State.takeLate]

@[simp] theorem State.dropRecord_mem (s : State) (t : Thread) : (s.dropRecord t).mem = s.mem := by
  unfold State.dropRecord
  split <;> rfl

@[simp] theorem State.tryEnd_mem (s : State) : s.tryEnd.mem = s.mem := by
  simp [State.tryEnd]

@[simp] theorem State.account_mem (s : State) (part gang pan : Nat) : (s.account part gang pan).mem = s.mem := by
  unfold State.account
  split <;> rfl

@[simp] theorem State.listTurns_mem (s : State) : s.listTurns.mem = s.mem := by
  simp [State.listTurns]

/-! ## Operations that write memory -/

/-- A fold of steps that each keep memory in canonical form keeps it so: the shape of every operation that
stores word by word, page by page or frame by frame. -/
theorem State.wf_foldl {α : Type} {f : State → α → State} {l : List α} {s : State}
    (hf : ∀ s a, s.mem.wf → (f s a).mem.wf) (h : s.mem.wf) : (l.foldl f s).mem.wf := by
  induction l generalizing s with
  | nil => exact h
  | cons a l ih => exact ih (hf s a h)

/-- For an operation that answers a value and a state, once its answer is taken apart. -/
theorem State.wf_of_pair {α : Type} {p : α × State} {x : α} {t : State} (h : p.2.mem.wf) (e : p = (x, t)) :
    t.mem.wf := by
  subst e; exact h

theorem State.wf_of_mem_eq {s t : State} (e : t.mem = s.mem) (h : s.mem.wf) : t.mem.wf :=
  e ▸ h

/-- The canonical form speaks of the two stores alone: the tags, the map, the frames' owners and the L2 are free. -/
@[simp] theorem Memory.wf_update (m : Memory) (e b bs w d : List Nat) (v : List (Nat × Word)) (mp : List MapEntry)
    (o : List FrameOwner) (l : List L2Line) (f : List L2Fill) (k : List (Nat × Label)) :
    (⟨m.hbm, m.pan, e, b, bs, w, d, v, mp, o, l, f, k⟩ : Memory).wf = m.wf :=
  rfl

/-! ### Machine/Translate.lean -/

@[simp] theorem State.wf_setMapEntry {s : State} {e : MapEntry} (h : s.mem.wf) : (s.setMapEntry e).mem.wf :=
  h

/-! ### Machine/Access.lean -/

@[simp] theorem State.wf_store {s : State} {l : Loc} {n v : Nat} (h : s.mem.wf) : (s.store l n v).mem.wf := by
  have hw := Memory.wf_writeAt s.mem l n v h
  unfold State.store
  split
  · exact h
  · simp only [State.wake_mem]
    split
    · exact Memory.wf_healWord _ l hw
    · exact hw

@[simp] theorem State.wf_storeWords {s : State} {l : Loc} {x : List Word} (h : s.mem.wf) :
    (s.storeWords l x).mem.wf := by
  induction x generalizing s l with
  | nil => exact h
  | cons v vs ih => exact ih (State.wf_store h)

@[simp] theorem State.wf_healRun {s : State} {l : Loc} {n : Nat} (h : s.mem.wf) : (s.healRun l n).mem.wf := by
  cases l with
  | pan p pa => exact h
  | hbm pa => exact h

@[simp] theorem State.wf_storeGood {s : State} {l : Loc} {vs : List Word} {lost : List Nat} (h : s.mem.wf) :
    (s.storeGood l vs lost).mem.wf := by
  refine State.wf_healRun (State.wf_foldl (fun t k ht => ?_) h)
  split
  · exact ht
  · exact State.wf_store ht

@[simp] theorem State.wf_writeVat {s : State} {n vat : Nat} {v : Word} (h : s.mem.wf) :
    (s.writeVat n vat v).mem.wf :=
  h

@[simp] theorem State.wf_performTag {s : State} {a : Acc} (h : s.mem.wf) : (s.performTag a).mem.wf := by
  unfold State.performTag
  split
  · exact h
  · dsimp only
    (repeat' split) <;> simp [Memory.wf_setTag, h]

@[simp] theorem State.wf_syncDone {s : State} {a : Acc} (h : s.mem.wf) : (s.syncDone a).mem.wf := by
  unfold State.syncDone
  split <;> simp [h]

@[simp] theorem State.wf_serviceQueue {s : State} {l : Loc} {x : List Nat} (h : s.mem.wf) :
    (s.serviceQueue l x).mem.wf := by
  induction x generalizing s with
  | nil => exact h
  | cons id ids ih =>
    unfold State.serviceQueue
    split
    · split
      · exact ih (by simp [h])
      · exact h
    · exact h

@[simp] theorem State.wf_tagChanged {s : State} {l : Loc} (h : s.mem.wf) : (s.tagChanged l).mem.wf := by
  simp [State.tagChanged, h]

@[simp] theorem State.wf_tagsSet {s : State} {n lo hi : Nat} (h : s.mem.wf) : (s.tagsSet n lo hi).mem.wf :=
  State.wf_foldl (fun _ _ ht => by simp [ht]) h

@[simp] theorem State.wf_storeElement {s : State} {l : Loc} {off width code : Nat} (h : s.mem.wf) :
    (s.storeElement l off width code).mem.wf := by
  unfold State.storeElement
  dsimp only
  split
  · exact State.wf_foldl (fun _ _ ht => State.wf_store ht) h
  · exact State.wf_store h

@[simp] theorem State.wf_dequePush {s : State} {l : Loc} {pc frame : Word} (h : s.mem.wf) :
    (s.dequePush l pc frame).2.mem.wf := by
  unfold State.dequePush
  (repeat' split) <;> simp [h]

@[simp] theorem State.wf_dequePop {s : State} {l : Loc} (h : s.mem.wf) : (s.dequePop l).2.mem.wf := by
  unfold State.dequePop
  dsimp only
  (repeat' split) <;> simp [h]

@[simp] theorem State.wf_dequeSteal {s : State} {l : Loc} (h : s.mem.wf) : (s.dequeSteal l).2.mem.wf := by
  unfold State.dequeSteal
  (repeat' split) <;> simp [h]

@[simp] theorem State.wf_correctWord {s : State} {part gang : Nat} {reads : Bool} {l : Loc} (h : s.mem.wf) :
    (s.correctWord part gang reads l).mem.wf := by
  unfold State.correctWord
  split
  · exact h
  · dsimp only
    (repeat' split) <;> simpa using h

@[simp] theorem State.wf_correct {s : State} {a : Acc} (h : s.mem.wf) : (s.correct a).mem.wf := by
  unfold State.correct
  dsimp only
  split
  · exact h
  · exact State.wf_foldl (fun _ _ ht => State.wf_correctWord ht) h

@[simp] theorem State.wf_install {s : State} {line sectors mask : Nat} (h : s.mem.wf) :
    (s.install line sectors mask).mem.wf :=
  Memory.wf_install _ _ _ _ _ (by simpa using h)

@[simp] theorem State.wf_claimSectors {s : State} {a : Acc} {n : Nat} (h : s.mem.wf) :
    (s.claimSectors a n).mem.wf := by
  unfold State.claimSectors
  split
  · exact h
  · refine State.wf_foldl (fun t k ht => ?_) h
    dsimp only
    split
    · exact Memory.wf_claimSector _ _ _ _ (by simpa using ht)
    · exact ht

@[simp] theorem State.wf_perform {s : State} {a : Acc} {d : Nat} (h : s.mem.wf) : (s.perform a d).mem.wf := by
  unfold State.perform
  extract_lets +onlyGivenNames s a bad delay give page
  have hs : s.mem.wf := by simp [s, h]
  have hgive (t : State) (i : Nat) (v : Word) (n : Nat) : (give t i v n).mem = t.mem := by
    simp only [give]
    (repeat' split) <;> simp
  clear_value s a give page bad delay
  split
  · simp [hs]
  · split <;> (repeat' split) <;> simp [hs, hgive, apply_ite Memory.wf]

@[simp] theorem State.wf_missSector {s : State} {a : Acc} {x : Nat} (h : s.mem.wf) : (s.missSector a x).mem.wf := by
  unfold State.missSector
  dsimp only
  (repeat' split) <;> exact h

@[simp] theorem State.wf_touchLines {s : State} {sectors : List Nat} (h : s.mem.wf) :
    (s.touchLines sectors).mem.wf :=
  State.wf_foldl (fun t line ht => Memory.wf_touch _ _ _ (by simpa using ht)) h

@[simp] theorem State.wf_sliceAccess {s : State} {a : Acc} (h : s.mem.wf) : (s.sliceAccess a).mem.wf := by
  unfold State.sliceAccess
  split
  · exact h
  · split
    · simpa using h
    · dsimp only
      split
      · split
        · simpa using h
        · simp [h]
      · exact State.wf_foldl (fun _ _ ht => State.wf_missSector ht) (by simpa using h)

@[simp] theorem State.wf_present {s : State} {a : Acc} (h : s.mem.wf) : (s.present a).mem.wf := by
  unfold State.present
  split <;> simp [h]

/-! ### Machine/Send.lean -/

@[simp] theorem State.wf_fillSector {s : State} {part gang pa : Nat} {noalloc : Bool} (h : s.mem.wf) :
    (s.fillSector part gang pa noalloc).mem.wf := by
  unfold State.fillSector
  split <;> simp [h]

@[simp] theorem State.wf_walkInstall {s : State} {p gang va : Nat} (h : s.mem.wf) :
    (s.walkInstall p gang va).mem.wf :=
  State.wf_foldl (fun _ _ ht => by simp [ht]) h

@[simp] theorem State.wf_translate {s : State} {hub p gang : Nat} {va : Word} {k : AccKind} {task : Bool}
    (h : s.mem.wf) : (s.translate hub p gang va k task).2.mem.wf := by
  unfold State.translate
  (repeat' split) <;> simp [h]

@[simp] theorem State.wf_route {s : State} {va : Word} {r w : Bool} (h : s.mem.wf) : (s.route va r w).2.mem.wf := by
  unfold State.route
  split
  case h_4 =>
    split
    · exact h
    · split <;> rename_i e <;> exact State.wf_of_pair (State.wf_translate h) e
  all_goals (repeat' split) <;> exact h

@[simp] theorem State.wf_target {s : State} {va : Word} {r w : Bool} (h : s.mem.wf) :
    (s.target va r w).2.mem.wf := by
  unfold State.target
  split <;> rename_i e <;> have ht := State.wf_of_pair (State.wf_route h) e
  case h_4 => split <;> rename_i e <;> exact State.wf_of_pair (State.wf_translate ht) e
  all_goals exact ht

@[simp] theorem State.wf_sendAfter {s : State} {later source : Nat} {op : MemOp} {x : Target} {va : Word}
    {label : Label} {way : Way} {ordered : Bool} {fill : Option Nat} {n : Nat} (h : s.mem.wf) :
    (s.sendAfter later source op x va label way ordered fill n).2.mem.wf := by
  unfold State.sendAfter
  dsimp only
  (repeat' split) <;> simp [h]

@[simp] theorem State.wf_sendFrom {s : State} {source : Nat} {op : MemOp} {x : Target} {va : Word}
    {label : Label} {way : Way} {ordered : Bool} {fill : Option Nat} {n : Nat} (h : s.mem.wf) :
    (s.sendFrom source op x va label way ordered fill n).2.mem.wf := by
  simp [State.sendFrom, h]

@[simp] theorem State.wf_send {s : State} {op : MemOp} {x : Target} {va : Word} {label : Label} {way : Way}
    {ordered : Bool} {fill : Option Nat} {n : Nat} (h : s.mem.wf) :
    (s.send op x va label way ordered fill n).2.mem.wf := by
  simp [State.send, h]

@[simp] theorem State.wf_storeRoute {s : State} {va : Word} {r red : Bool} (h : s.mem.wf) :
    (s.storeRoute va r red).2.mem.wf := by
  unfold State.storeRoute
  split
  · rename_i e
    have ht := State.wf_of_pair (State.wf_route h) e
    split
    · exact State.wf_route ht
    · exact ht
  · exact State.wf_route h

/-! ### Machine/CodeFetch.lean -/

@[simp] theorem State.wf_codeBlock {s : State} {part gang pa : Nat} {noalloc : Bool} (h : s.mem.wf) :
    (s.codeBlock part gang pa noalloc).mem.wf := by
  unfold State.codeBlock
  dsimp only
  split
  · simp [h]
  · exact Memory.wf_touch _ _ _ h

/-! ### Machine/Deque.lean -/

@[simp] theorem State.wf_taskSend {s : State} {op : MemOp} {va : Word} {x : Loc × Label} {kind : FillKind}
    {got join : Label} (h : s.mem.wf) : (s.taskSend op va x kind got join).mem.wf := by
  simp [State.taskSend, h]

@[simp] theorem State.wf_forkPush {s : State} {d a b : Reg} (h : s.mem.wf) : (s.forkPush d a b).mem.wf := by
  unfold State.forkPush
  dsimp only
  split <;> simp [h]

@[simp] theorem State.wf_keepSteal {s : State} {a x : Word} (h : s.mem.wf) : (s.keepSteal a x).mem.wf := by
  unfold State.keepSteal
  split <;> simp [h]

@[simp] theorem State.wf_joinPark {s : State} {b : Reg} {c : Word} (h : s.mem.wf) : (s.joinPark b c).mem.wf := by
  unfold State.joinPark
  dsimp only
  (repeat' split) <;> simp [h]

@[simp] theorem State.wf_stealNext {s : State} {d a b : Reg} {c : Word} {n : Nat} {k : Nat} {x : Word}
    (h : s.mem.wf) : (s.stealNext d a b c n k x).mem.wf := by
  induction k generalizing x with
  | zero => simp [State.stealNext, h]
  | succ k ih =>
    unfold State.stealNext
    dsimp only
    split
    · exact ih
    · simp [h]

@[simp] theorem State.wf_taskAnswer {s : State} {f : Fill} (h : s.mem.wf) : (s.taskAnswer f).mem.wf := by
  unfold State.taskAnswer
  dsimp only
  (repeat' split) <;> simp [h]

@[simp] theorem State.wf_taskFill {s : State} {f : Fill} (h : s.mem.wf) : (s.taskFill f).mem.wf := by
  unfold State.taskFill
  (repeat' split) <;> simp [h]

/-! ### Machine/LoadStore.lean -/

@[simp] theorem State.wf_sendWords {s : State} {x : Target} {ea : Word} {l : Label} {way : Way} {fid : Nat}
    {op : Nat → MemOp} {n k : Nat} (h : s.mem.wf) : (s.sendWords x ea l way fid op n k).mem.wf := by
  induction k with
  | zero => exact h
  | succ k ih => simp [State.sendWords, ih]

/-! ### Machine/FaultQueue.lean -/

@[simp] theorem State.wf_fqHeader {s : State} {p : Nat} (h : s.mem.wf) : (s.fqHeader p).mem.wf := by
  unfold State.fqHeader
  (repeat' split) <;> simp [h]

theorem State.wf_fqWrite {s : State} {p : Nat} {e : Nat × FaultEvent} {s' : State} (h : s.mem.wf)
    (eq : s.fqWrite p e = some s') : s'.mem.wf := by
  unfold State.fqWrite at eq
  split at eq
  · contradiction
  · split at eq
    · contradiction
    · extract_lets +onlyGivenNames pa at eq
      split at eq
      · contradiction
      · obtain rfl := Option.some.inj eq
        refine State.wf_fqHeader ?_
        simp only [State.modFq_mem]
        refine State.wf_tagChanged (Memory.wf_setTag _ _ _ _ (State.wf_store ?_))
        exact State.wf_foldl (fun _ _ ht => State.wf_store ht) h

@[simp] theorem State.wf_fqDrain {s : State} {p : Nat} {x : List (Nat × FaultEvent)} (h : s.mem.wf) :
    (s.fqDrain p x).mem.wf := by
  induction x generalizing s with
  | nil => exact h
  | cons e es ih =>
    unfold State.fqDrain
    split
    · rename_i e; exact ih (by simpa using State.wf_fqWrite h e)
    · exact h

/-! ### Machine/Sys.lean -/

@[simp] theorem State.wf_setPartReg {s : State} {part n : Nat} {v : Word} (h : s.mem.wf) :
    (s.setPartReg part n v).mem.wf := by
  unfold State.setPartReg
  (repeat' split) <;> simp [h]

@[simp] theorem State.wf_clearFrame {s : State} {n cellar frame : Nat} (h : s.mem.wf) :
    (s.clearFrame n cellar frame).mem.wf :=
  State.wf_tagsSet (Memory.wf_clearFrame _ _ _ _ h)

/-! ### Machine/FabricEvents.lean -/

@[simp] theorem State.wf_grant {s : State} {id : Nat} (h : s.mem.wf) : (s.grant id).mem.wf := by
  unfold State.grant
  split <;> simp [h]

@[simp] theorem State.wf_arbitrate {s : State} {pan bank : Nat} (h : s.mem.wf) : (s.arbitrate pan bank).mem.wf := by
  unfold State.arbitrate
  extract_lets +onlyGivenNames b c
  split
  · dsimp only
    split
    · simp [h]
    · split <;> simp [h]
  · split
    · simp [h]
    · extract_lets +onlyGivenNames here away s1 b1 cands1 cands
      have h1 : s1.mem.wf := State.wf_of_mem_eq (State.foldl_mem State.holdAcc_mem) h
      clear_value s1
      split
      · simp [h1]
      · dsimp only
        split
        · simp [h1]
        · exact State.wf_foldl (fun _ _ ht => State.wf_grant ht) (by simp [h1])

@[simp] theorem State.wf_partRequest {s : State} {f : Fill} (h : s.mem.wf) : (s.partRequest f).mem.wf := by
  unfold State.partRequest
  (repeat' split) <;> simp [h]

@[simp] theorem State.wf_splitWords {s : State} {a : Acc} {vs : List Word} (h : s.mem.wf) :
    (s.splitWords a vs).mem.wf :=
  State.wf_foldl (fun _ _ ht => by dsimp only; (repeat' split) <;> simp [ht]) h

@[simp] theorem State.wf_release {s : State} {a : Acc} (h : s.mem.wf) : (s.release a).mem.wf := by
  unfold State.release
  dsimp only
  split <;> simp [h]

@[simp] theorem State.wf_arrive {s : State} {a : Acc} (h : s.mem.wf) : (s.arrive a).mem.wf := by
  unfold State.arrive
  split <;> simp [h]

@[simp] theorem State.wf_reqAnswer {s : State} {q : TransReq} (h : s.mem.wf) : (s.reqAnswer q).2.mem.wf := by
  unfold State.reqAnswer
  split <;> rename_i e <;> exact State.wf_of_pair (State.wf_translate h) e

@[simp] theorem State.wf_burst {s : State} {f : L2Fill} (h : s.mem.wf) : (s.burst f).mem.wf := by
  unfold State.burst
  dsimp only
  (repeat' split) <;> simpa using h

@[simp] theorem State.wf_serveFill {s : State} {x : List Nat} (h : s.mem.wf) : (s.serveFill x).mem.wf := by
  induction x generalizing s with
  | nil => exact h
  | cons id ids ih =>
    unfold State.serveFill
    split
    · exact ih h
    · refine ih ?_
      (repeat' split) <;> simp [h]

/-! ### Machine/Reach.lean -/

@[simp] theorem State.wf_fillPlaces {s : State} {part gang : Nat} {ts : List (Target × Nat)} (h : s.mem.wf) :
    (s.fillPlaces part gang ts).mem.wf :=
  State.wf_foldl (fun _ _ ht => by simp [ht]) h

@[simp] theorem State.wf_correctRun {s : State} {part gang : Nat} {writes : Bool} {l : Loc} {n : Nat}
    (h : s.mem.wf) : (s.correctRun part gang writes l n).mem.wf := by
  unfold State.correctRun
  dsimp only
  split
  · exact h
  · exact State.wf_foldl (fun _ _ ht => State.wf_correctWord ht) h

@[simp] theorem State.wf_correctPlaces {s : State} {part gang : Nat} {writes : Bool}
    {ts : List (Target × Nat)} (h : s.mem.wf) : (s.correctPlaces part gang writes ts).mem.wf :=
  State.wf_foldl (fun _ _ ht => by simp [ht]) h

@[simp] theorem State.wf_blockRead {s : State} {va : Word} {n : Nat} (h : s.mem.wf) :
    (s.blockRead va n).mem.wf := by
  simp [State.blockRead, h]

@[simp] theorem State.wf_putBytes {s : State} {l : Loc} {bs : List Byte} (h : s.mem.wf) :
    (s.putBytes l bs).mem.wf := by
  refine State.wf_healRun (State.wf_foldl (fun t k ht => ?_) h)
  dsimp only
  split
  · exact State.wf_store ht
  · exact State.wf_foldl (fun _ _ hu => State.wf_store hu) ht

@[simp] theorem State.wf_writeVa {s : State} {p localPan : Nat} {va : Word} {bs : List Byte} {label : Label}
    {task : Bool} (h : s.mem.wf) : (s.writeVa p localPan va bs label task).2.mem.wf := by
  refine List.foldlRecOn
    (motive := fun acc : Option (TrapCode × Word) × State × List Byte => acc.2.1.mem.wf) _ _ h
    fun _ hacc _ _ => ?_
  (repeat' split) <;> simp_all

/-! ### Machine/Engine.lean -/

@[simp] theorem State.wf_writeBlock {s : State} {place : Nat} {c : Cmd} {off : Nat} {bs : List Byte}
    {label : Label} (h : s.mem.wf) : (s.writeBlock place c off bs label).mem.wf := by
  unfold State.writeBlock
  split <;> rename_i e <;> simpa using State.wf_of_pair (State.wf_writeVa h) e

/-! ### Machine/Copy.lean -/

@[simp] theorem State.wf_microLook {s : State} {key p gang : Nat} {va : Word} {k : AccKind} {task : Bool}
    (h : s.mem.wf) : (s.microLook key p gang va k task).2.mem.wf := by
  unfold State.microLook
  split
  · exact h
  · split <;> rename_i e
    · exact (State.wf_of_pair (State.wf_translate h) e :)
    · exact State.wf_of_pair (State.wf_translate h) e

@[simp] theorem State.wf_engineSpot {s : State} {key p gang : Nat} {va : Word} {k : AccKind} {task : Bool}
    (h : s.mem.wf) : (s.engineSpot key p gang va k task).2.mem.wf := by
  unfold State.engineSpot
  dsimp only
  split
  case h_2 => split <;> rename_i e <;> exact State.wf_of_pair (State.wf_microLook h) e
  all_goals (repeat' split) <;> exact h

@[simp] theorem State.wf_engineSpots {s : State} {key p gang : Nat} {runs : List (Word × Nat)} {k : AccKind}
    {task : Bool} (h : s.mem.wf) : (s.engineSpots key p gang runs k task).2.mem.wf := by
  refine List.foldlRecOn
    (motive := fun acc : Except (TrapCode × Word) (List (Target × Nat)) × State => acc.2.mem.wf) _ _ h
    fun _ hacc _ _ => ?_
  split
  · exact hacc
  · split <;> rename_i e <;> exact State.wf_of_pair (State.wf_engineSpot hacc) e

@[simp] theorem State.wf_putSpots {s : State} {x : List (Target × Nat)} {y : List Byte} (h : s.mem.wf) :
    (s.putSpots x y).mem.wf := by
  induction x generalizing s y with
  | nil => exact h
  | cons t ts ih => exact ih (State.wf_putBytes h)

@[simp] theorem State.wf_putElem {s : State} {ts : List (Target × Nat)} {f : Option Fmt} {bit w v : Nat}
    (h : s.mem.wf) : (s.putElem ts f bit w v).mem.wf := by
  unfold State.putElem
  dsimp only
  split
  · split
    · exact State.wf_foldl (fun _ _ ht => State.wf_store ht) h
    · simp [h]
  · simp [h]

@[simp] theorem State.wf_readTiles {s : State} {part gang : Nat} {ts : List (Target × Nat)} (h : s.mem.wf) :
    (s.readTiles part gang ts).mem.wf := by
  refine State.wf_foldl (fun t x ht => ?_) h
  split
  · exact ht
  · dsimp only
    have hc := Memory.wf_cleanTile t.mem
    (repeat' split) <;> simp [hc, ht]

@[simp] theorem State.wf_padPlanes {s : State} {key : Nat} {c : Cmd} {x : Copy} {g : Fmt} {stride : Nat}
    {label : Label} (h : s.mem.wf) : (s.padPlanes key c x g stride label).mem.wf := by
  refine State.wf_foldl (fun _ _ ht => State.wf_foldl (fun u y hu => ?_) ht) h
  split <;> rename_i e <;> have he := State.wf_of_pair (State.wf_engineSpots hu) e
  · split <;> simp [he]
  · exact he

/-! ### Machine/Sluice.lean -/

@[simp] theorem State.wf_requestDone {s : State} {p : PolicyBody} {status : Nat} (h : s.mem.wf) :
    (s.requestDone p status).mem.wf := by
  simp [State.requestDone, h]

@[simp] theorem State.wf_grantPage {s : State} {labels : Label} {key : Nat} {g : GrantPage} (h : s.mem.wf) :
    (s.grantPage labels key g).mem.wf := by
  unfold State.grantPage
  split
  · simp [h]
  · exact Memory.wf_setKeyLabel _ _ _ (Memory.wf_setOwner _ _ (Memory.wf_clearHbmFrame _ _ h))

/-! ### Machine/Collective.lean -/

@[simp] theorem State.wf_collSend {s : State} {place : Nat} {c : Cmd} (h : s.mem.wf) :
    (s.collSend place c).mem.wf := by
  unfold State.collSend
  dsimp only
  split <;> simp [h]

@[simp] theorem State.wf_collLand {s : State} {place : Nat} {c : Cmd} {m : CollMsg} {dies : List Nat}
    (h : s.mem.wf) : (s.collLand place c m dies).mem.wf := by
  unfold State.collLand
  extract_lets +onlyGivenNames pan s
  have hs : s.mem.wf := by simpa [s] using h
  split <;> rename_i e <;> simpa using State.wf_of_pair (State.wf_writeVa hs) e

@[simp] theorem State.wf_collReceive {s : State} {m : CollMsg} (h : s.mem.wf) : (s.collReceive m).mem.wf := by
  unfold State.collReceive
  split
  · exact h
  · split
    · simp [h]
    · extract_lets +onlyGivenNames ts dies wait
      split
      · simp [h]
      · exact State.wf_collLand (by simp [h])

/-! ### Machine/Press.lean -/

@[simp] theorem State.wf_winPut {s : State} {p pan : Nat} {va : Word} {bs : List Byte} (h : s.mem.wf) :
    (s.winPut p pan va bs).mem.wf :=
  List.foldlRecOn (motive := fun acc : State × List Byte => acc.1.mem.wf) _ _ h
    fun _ hacc _ _ => State.wf_putBytes hacc

@[simp] theorem State.wf_putC {s : State} {p pan : Nat} {b : PressBlock} {w i v : Nat} (h : s.mem.wf) :
    (s.putC p pan b w i v).mem.wf := by
  simp [State.putC, h]

@[simp] theorem State.wf_writeC {s : State} {p pan : Nat} {b : PressBlock} {fc : Fmt} {rm : Rm} {seed : Word}
    {acc : List Int} (h : s.mem.wf) : (s.writeC p pan b fc rm seed acc).1.mem.wf :=
  List.foldlRecOn (motive := fun acc : State × FFlags × Word => acc.1.mem.wf) _ _ h
    fun _ hacc _ _ => State.wf_putC hacc

@[simp] theorem State.wf_scaleCheck {s : State} {place : Nat} {c : Cmd} {va : Word} {n : Nat} (h : s.mem.wf) :
    (s.scaleCheck place c va n).2.mem.wf := by
  unfold State.scaleCheck
  split
  · exact h
  · split <;> rename_i e <;> have he := State.wf_of_pair (State.wf_engineSpots h) e
    · exact he
    · split <;> exact he

@[simp] theorem State.wf_startChecks {s : State} {place : Nat} {c : Cmd} {cont : Bool} {chain : Label}
    (h : s.mem.wf) : (s.startChecks place c cont chain).2.mem.wf := by
  unfold State.startChecks
  extract_lets +onlyGivenNames pan base b p zero
  split
  · exact h
  · split
    · split
      · exact h
      · extract_lets +onlyGivenNames w pages bad
        clear_value bad
        cases bad <;> exact h
    · split
      · exact h
      · exact h
      · extract_lets +onlyGivenNames w pages reads
        split
        · exact h
        · split <;> rename_i e <;> have h1 := State.wf_of_pair (State.wf_scaleCheck h) e
          · exact h1
          · split <;> rename_i e <;> have h2 := State.wf_of_pair (State.wf_scaleCheck h1) e
            · exact h2
            · extract_lets +onlyGivenNames readsC l
              split
              · exact h2
              · extract_lets +onlyGivenNames bad
                clear_value bad
                cases bad <;> exact h2

@[simp] theorem State.wf_pressReport {s : State} {place : Nat} {c : Cmd} {progress fstate : Nat}
    {label : Label} (h : s.mem.wf) : (s.pressReport place c progress fstate label).mem.wf :=
  State.wf_writeBlock (State.wf_writeBlock (State.wf_writeBlock h))

@[simp] theorem State.wf_stopPress {s : State} {place : Nat} {c : Cmd} {r : PressRun} {fstate : Nat}
    (h : s.mem.wf) : (s.stopPress place c r fstate).1.mem.wf := by
  unfold State.stopPress
  extract_lets +onlyGivenNames pan b known exact keeps progress writes s1 s2 s3 s4
  have h1 : s1.mem.wf := by
    simp only [s1]
    (repeat' split) <;> simp [h]
  have h2 : s2.mem.wf := by
    simp only [s2]
    (repeat' split) <;> simp [h1]
  simpa [s4, s3] using State.wf_pressReport h2

@[simp] theorem State.wf_pressFault {s : State} {place : Nat} {c : Cmd} {r : PressRun} {f : PressFail}
    (h : s.mem.wf) : (s.pressFault place c r f).mem.wf := by
  unfold State.pressFault
  dsimp only
  split <;> simp [h]

@[simp] theorem State.wf_pressAbort {s : State} {place : Nat} {c : Cmd} {r : PressRun} (h : s.mem.wf) :
    (s.pressAbort place c r).mem.wf := by
  unfold State.pressAbort
  dsimp only
  split <;> simp [h]

@[simp] theorem State.wf_winCorrect {s : State} {p gang pan : Nat} {writes : Bool} {runs : List (Word × Nat)}
    (h : s.mem.wf) : (s.winCorrect p gang pan writes runs).mem.wf := by
  unfold State.winCorrect
  split
  · exact h
  · exact State.wf_foldl (fun _ _ ht => State.wf_correctRun ht) h

@[simp] theorem State.wf_startPress {s : State} {place : Nat} {c : Cmd} {r : PressRun} (h : s.mem.wf) :
    (s.startPress place c r).mem.wf := by
  unfold State.startPress
  extract_lets +onlyGivenNames now pan b scales dies wait
  split
  · simp [h]
  · split
    · simp [h]
    · have hn : (s.noteUse c.part 4 place).mem.wf := by simpa using h
      split <;> rename_i e <;> have ht := State.wf_of_pair (State.wf_startChecks hn) e
      · exact State.wf_pressFault ht
      · rename_i t
        split
        · simpa using ht
        · split
          · exact ht
          · have hf : ((t.fillPlaces c.part c.gang scales).correctPlaces c.part c.gang false scales).mem.wf := by
              simp [ht]
            dsimp only
            simp only [State.schedule_mem, State.modEngine_mem, State.modCmd_mem]
            rw [State.foldl_mem fun _ _ => State.cmdRead_mem ..]
            split
            · exact hf
            · exact State.wf_winCorrect hf

@[simp] theorem State.wf_retirePress {s : State} {place : Nat} {c : Cmd} {progress : Nat} {label : Label}
    {flags : FFlags} (h : s.mem.wf) : (s.retirePress place c progress label flags).mem.wf := by
  simp [State.retirePress, h]

theorem wf_pressWriteBack {trellis : Nat} {o : PressOp} {b : PressBlock} {r : PressRun} {c : Cmd}
    {blocks : Nat} {readsC : Bool} {s : State} (h : s.mem.wf) :
    (execPressOpRetire.writeBack trellis o b r c blocks readsC s).mem.wf := by
  unfold execPressOpRetire.writeBack
  extract_lets +onlyGivenNames pan s1 x s2 s3
  have hx : x.1.mem.wf := State.wf_writeC (State.wf_winCorrect h)
  exact State.wf_retirePress (by simpa [s3, s2] using hx)

/-! ### Machine/RackEvents.lean -/

@[simp] theorem State.wf_writeDone {s : State} {place : Nat} {c : Cmd} {done : Nat} (h : s.mem.wf) :
    (s.writeDone place c done).mem.wf := by
  unfold State.writeDone
  split <;> simp [h]

@[simp] theorem State.wf_copyFault {s : State} {place : Nat} {c : Cmd} {code : TrapCode} {addr : Word}
    (h : s.mem.wf) : (s.copyFault place c code addr).mem.wf := by
  unfold State.copyFault
  split <;> simp [h]

theorem wf_moveElem {key : Nat} {c : Cmd} {x : Copy} {sf df : Option Fmt} {ss ds : Nat} {rm : Rm}
    {r : CopyRun} (h : r.s.mem.wf) : (moveElem key c x sf df ss ds rm r).s.mem.wf := by
  unfold moveElem
  extract_lets +onlyGivenNames x src dst sva dva
  split
  · exact h
  · split
    · exact h
    · split <;> rename_i e <;> have h1 := State.wf_of_pair (State.wf_engineSpots h) e
      · exact h1
      · split <;> rename_i t e <;> have h2 := State.wf_of_pair (State.wf_engineSpots h1) e
        · exact h2
        · extract_lets +onlyGivenNames conv slabel l r2
          split
          · exact h2
          · split
            · exact h2
            · split
              · exact h2
              · extract_lets +onlyGivenNames s1 s2 v z out n s3
                have h1 : s1.mem.wf := by
                  refine State.wf_fillPlaces ?_
                  split <;> simp [h2]
                exact State.wf_putElem (by simp [s2, h1])

theorem wf_moveElems {key : Nat} {c : Cmd} {x : Copy} {sf df : Option Fmt} {ss ds : Nat} {rm : Rm} {n : Nat}
    {r : CopyRun} (h : r.s.mem.wf) : (moveElems key c x sf df ss ds rm n r).s.mem.wf := by
  induction n generalizing r with
  | zero => exact h
  | succ n ih =>
    unfold moveElems
    split
    · exact h
    · exact ih (wf_moveElem h)

theorem State.wf_runSegment {s : State} {place : Nat} {c : Cmd} (h : s.mem.wf) :
    (s.runSegment place c).s.mem.wf := by
  unfold State.runSegment
  extract_lets +onlyGivenNames x pan start source
  split
  · split <;> exact h
  · extract_lets +onlyGivenNames sf df f rm per start2 n r
    have hr : r.s.mem.wf := wf_moveElems h
    split
    · split
      · exact State.wf_padPlanes hr
      · exact hr
    · exact hr

@[simp] theorem State.wf_copySegment {s : State} {place : Nat} {c : Cmd} {dies : List Nat × List Nat}
    (h : s.mem.wf) : (s.copySegment place c dies).mem.wf := by
  unfold State.copySegment
  extract_lets +onlyGivenNames r bytes s1 c s2
  have hr : r.s.mem.wf := State.wf_runSegment h
  have h2 : s2.mem.wf := by simpa [s2, s1] using hr
  split
  · simp [h2]
  · (repeat' split) <;> simp [h2]

/-! ### Machine/Save.lean -/

@[simp] theorem State.wf_writeRecord {s : State} {part i : Nat} {bs : List Byte} (h : s.mem.wf) :
    (s.writeRecord part i bs).mem.wf := by
  unfold State.writeRecord
  split <;> simp [h]

theorem State.wf_saveContext {s : State} {t : Thread} {s' : State} (h : s.mem.wf)
    (e : s.saveContext t = some s') : s'.mem.wf := by
  unfold State.saveContext at e
  split at e
  · contradiction
  · extract_lets +onlyGivenNames rec_ vec ext wake s1 s2 s3 s4 at e
    have h2 : s2.mem.wf := State.wf_writeRecord (by simpa [s1] using h)
    have h3 : s3.mem.wf := by
      simp only [s3]
      clear_value vec
      cases vec <;> simp [h2]
    have h4 : s4.mem.wf := by
      simp only [s4]
      clear_value ext
      cases ext <;> simp [h3]
    obtain rfl := Option.some.inj e
    simpa using h4

@[simp] theorem State.wf_recordWake {s : State} {t : Thread} (h : s.mem.wf) : (s.recordWake t).mem.wf := by
  unfold State.recordWake
  dsimp only
  (repeat' split) <;> simp [h]

@[simp] theorem State.wf_takeCmd {s : State} {place : Nat} {c : Cmd} (h : s.mem.wf) :
    (s.takeCmd place c).mem.wf := by
  unfold State.takeCmd
  split <;> simp [h]

@[simp] theorem State.wf_saveThread {s : State} {t : Thread} (h : s.mem.wf) : (s.saveThread t).mem.wf := by
  unfold State.saveThread
  dsimp only
  split
  · simp [h]
  · split
    · split
      · rename_i e; simpa using State.wf_saveContext h e
      · exact h
    · exact h

@[simp] theorem State.wf_stoppedTurn {s : State} (h : s.mem.wf) : s.stoppedTurn.mem.wf := by
  simp [State.stoppedTurn, h]

theorem State.wf_finishFold {s : State} {g : Gang} {s' : State} (h : s.mem.wf)
    (e : s.finishFold g = some s') : s'.mem.wf := by
  unfold State.finishFold at e
  extract_lets +onlyGivenNames ts cmds owed q xn at e
  split at e
  · contradiction
  · extract_lets +onlyGivenNames f x c list0 list s1 s2 s3 s4 places s5 s6 s7 at e
    have h2 : s2.mem.wf := State.wf_writeRecord (State.wf_writeRecord (by simpa [s1] using h))
    have h3 : s3.mem.wf := State.wf_foldl (fun _ _ ht => State.wf_takeCmd ht) h2
    have h4 : s4.mem.wf := by
      simp only [s4]
      clear_value c
      cases c <;> simp [h3]
    have h6 : s6.mem.wf := State.wf_foldl (fun _ _ ht => by simpa using ht) (by simpa [s5] using h4)
    obtain rfl := Option.some.inj e
    simpa [s7] using h6

/-! ### Machine/Launch.lean -/

theorem State.wf_writeCompletion {s : State} {part va : Nat} {w : Word} {s' : State} (h : s.mem.wf)
    (e : s.writeCompletion part va w = some s') : s'.mem.wf := by
  unfold State.writeCompletion at e
  split at e
  · contradiction
  · split at e
    · contradiction
    · split at e <;> obtain rfl := Option.some.inj e
      · exact State.wf_tagChanged (Memory.wf_setTag _ _ _ _ (State.wf_store h))
      · exact State.wf_store (State.wf_fillSector h)

/-! ### Machine/Interrupt.lean -/

@[simp] theorem State.wf_saveFenced {s : State} {t : Thread} (h : s.mem.wf) : (s.saveFenced t).mem.wf := by
  unfold State.saveFenced
  dsimp only
  split
  · rename_i e
    have ht := State.wf_saveContext h e
    split <;> simp [ht]
  · simp [h]

/-! ### Machine/Partition.lean -/

@[simp] theorem State.wf_syncRecord {s : State} {part : Nat} (h : s.mem.wf) : (s.syncRecord part).mem.wf := by
  unfold State.syncRecord
  (repeat' split) <;> simp [h]

@[simp] theorem State.wf_allot {s : State} {part frame : Nat} (h : s.mem.wf) : (s.allot part frame).mem.wf := by
  unfold State.allot
  split
  · exact h
  · exact Memory.wf_setOwner _ _ (Memory.wf_clearHbmFrame _ _ h)

@[simp] theorem State.wf_freeFrame {s : State} {frame : Nat} (h : s.mem.wf) : (s.freeFrame frame).mem.wf :=
  Memory.wf_setOwner _ _ (Memory.wf_clearHbmFrame _ _ h)

@[simp] theorem State.wf_mapService {s : State} {part : Nat} (h : s.mem.wf) : (s.mapService part).mem.wf := by
  unfold State.mapService
  split
  · exact h
  · split
    · extract_lets +onlyGivenNames s0 put
      have h0 : s0.mem.wf := State.wf_foldl (fun _ _ ht => State.wf_allot ht) h
      have hput (t : State) (table level : Nat) (va : Word) (e : List Byte) (ht : t.mem.wf) :
          (put t table level va e).mem.wf := State.wf_putBytes ht
      refine State.wf_syncRecord ?_
      exact hput _ _ _ _ _ (hput _ _ _ _ _ (hput _ _ _ _ _ (hput _ _ _ _ _ (hput _ _ _ _ _ (hput _ _ _ _ _ h0)))))
    · exact h

@[simp] theorem State.wf_keyOf {s : State} {part : Nat} (h : s.mem.wf) : (s.keyOf part).mem.wf := by
  unfold State.keyOf
  split <;> exact h

theorem State.wf_applyConfig {s : State} {body : List Byte} {s' : State} (h : s.mem.wf)
    (e : s.applyConfig body = some s') : s'.mem.wf := by
  unfold State.applyConfig at e
  extract_lets +onlyGivenNames new entry parts busy at e
  split at e
  · contradiction
  · extract_lets +onlyGivenNames old dev s1 s2 s3 at e
    have h2 : s2.mem.wf := by simpa [s2, s1] using h
    have h3 : s3.mem.wf := State.wf_foldl (fun _ _ ht => State.wf_mapService (State.wf_keyOf ht)) h2
    obtain rfl := Option.some.inj e
    exact State.wf_foldl (fun _ _ ht => State.wf_syncRecord ht) ((congrArg Memory.wf (State.regulated_mem ..)).trans h3)

@[simp] theorem State.wf_vatsCleared {s : State} {n vat k : Nat} (h : s.mem.wf) :
    (s.vatsCleared n vat k).mem.wf := by
  simp [State.vatsCleared, h]

@[simp] theorem State.wf_rakeClear {s : State} {kind target : Nat} (h : s.mem.wf) :
    (s.rakeClear kind target).mem.wf := by
  unfold State.rakeClear
  split
  case h_2 => exact State.wf_vatsCleared (Memory.wf_clearVat _ _ _ h)
  case h_3 => exact State.wf_vatsCleared (Memory.wf_clearCellar _ _ _ h)
  case h_4 => exact h
  all_goals simp [h]

@[simp] theorem State.wf_slotWord {s : State} {part k i : Nat} {v : Word} (h : s.mem.wf) :
    (s.slotWord part k i v).mem.wf := by
  unfold State.slotWord
  split <;> simp [h]

@[simp] theorem State.wf_takeRequest {s : State} {part k : Nat} {bs : List Byte} (h : s.mem.wf) :
    (s.takeRequest part k bs).mem.wf := by
  simp [State.takeRequest, h]

@[simp] theorem State.wf_answerRequest {s : State} {part k tag status : Nat} (h : s.mem.wf) :
    (s.answerRequest part k tag status).mem.wf := by
  simp [State.answerRequest, h]

@[simp] theorem State.wf_serveSlot {s : State} {part k : Nat} {bs : List Byte} (h : s.mem.wf) :
    (s.serveSlot part k bs).mem.wf := by
  unfold State.serveSlot
  (repeat' split) <;> simp [h]

@[simp] theorem State.wf_servePart {s : State} {part : Nat} (h : s.mem.wf) : (s.servePart part).mem.wf := by
  unfold State.servePart
  dsimp only
  split
  · exact h
  · refine List.foldlRecOn (motive := fun x : State × Bool => x.1.mem.wf) _ _ h fun x hx k _ => ?_
    split
    · split
      · exact hx
      · exact State.wf_serveSlot hx
    · exact hx

@[simp] theorem State.wf_serveAll {s : State} (h : s.mem.wf) : s.serveAll.mem.wf :=
  State.wf_foldl (fun _ _ ht => by simp [ht]) h

@[simp] theorem State.wf_eraseKeys {s : State} {part : Nat} (h : s.mem.wf) : (s.eraseKeys part).mem.wf :=
  State.wf_foldl (fun _ _ ht => Memory.wf_clearHbmFrame _ _ ht) h

@[simp] theorem State.wf_orderErase {s : State} {part : Nat} (h : s.mem.wf) : (s.orderErase part).mem.wf := by
  unfold State.orderErase
  split
  · exact h
  · simp only [State.modRetirement_mem]
    exact State.wf_foldl (fun _ _ ht => Memory.wf_setKeyLabel _ _ _ ht) (State.wf_eraseKeys h)

@[simp] theorem State.wf_releaseFrames {s : State} {part : Nat} (h : s.mem.wf) : (s.releaseFrames part).mem.wf := by
  unfold State.releaseFrames
  split
  · exact State.wf_foldl (fun _ _ ht => State.wf_freeFrame ht) h
  · exact h

@[simp] theorem State.wf_forget {s : State} {part : Nat} (h : s.mem.wf) : (s.forget part).mem.wf :=
  h

@[simp] theorem State.wf_finishRetire {s : State} {part : Nat} (h : s.mem.wf) : (s.finishRetire part).mem.wf := by
  simp [State.finishRetire, h]

@[simp] theorem State.wf_moreRetire {s : State} {part : Nat} (h : s.mem.wf) : (s.moreRetire part).mem.wf := by
  unfold State.moreRetire
  dsimp only
  split
  · split <;> simp [h]
  · split
    · simp [h]
    · refine State.wf_foldl (fun t r ht => ?_) (by simpa using State.wf_releaseFrames h)
      split <;> simp [ht]

@[simp] theorem State.wf_resetPart {s : State} {part : Nat} (h : s.mem.wf) : (s.resetPart part).mem.wf := by
  unfold State.resetPart
  (repeat' split) <;> simp [h]

/-! ### Machine/Resize.lean -/

theorem State.wf_moveTo {s s' : State} {keep : Nat} {taken : List PageMove} {e : MapEntry} {m : PageMove}
    (h : s.mem.wf) (eq : s.moveTo keep taken e = some (m, s')) : s'.mem.wf := by
  unfold State.moveTo at eq
  dsimp only at eq
  (repeat' split at eq) <;> simp at eq <;> obtain ⟨-, rfl⟩ := eq <;> exact h

theorem State.wf_planMoves {s s' : State} {keepOf : MapEntry → Nat} {es : List MapEntry}
    {ms ms' : List PageMove} (h : s.mem.wf) (eq : s.planMoves keepOf es ms = some (ms', s')) : s'.mem.wf := by
  induction es generalizing s ms with
  | nil =>
    obtain ⟨-, rfl⟩ := by simpa [State.planMoves] using eq
    exact h
  | cons e es ih =>
    unfold State.planMoves at eq
    split at eq
    · simp at eq
    · rename_i e; exact ih (State.wf_moveTo h e) eq

@[simp] theorem State.wf_takeOver {s : State} {p : Part} {new : Ownership} (h : s.mem.wf) :
    (s.takeOver p new).mem.wf :=
  State.wf_syncRecord h

@[simp] theorem State.wf_beginResize {s : State} {set : List (Part × Ownership)} {moves : List PageMove}
    {out : List Nat} (h : s.mem.wf) : (s.beginResize set moves out).mem.wf := by
  unfold State.beginResize
  extract_lets +onlyGivenNames old new affected slots cellars ways s1 s2 sweeps dev s3 now s4 s5 onSlots fold s6
  have h1 : s1.mem.wf := State.wf_foldl (fun _ _ ht => Memory.wf_setKeyLabel _ _ _ ht) h
  have h2 : s2.mem.wf := by
    simp only [s2, State.regulated_mem]
    exact State.wf_foldl (fun _ _ ht => State.wf_takeOver ht) h1
  have h4 : s4.mem.wf := State.wf_foldl (fun _ _ ht => ht) h2
  have h5 : s5.mem.wf := State.wf_foldl (fun _ _ ht => ht) h4
  have h6 : s6.mem.wf := by
    refine State.wf_foldl (fun t g ht => ?_) h5
    simp only [fold]
    (repeat' split) <;> simpa using ht
  simpa using h6

@[simp] theorem State.wf_submitSet {s : State} {bs : List Byte} (h : s.mem.wf) : (s.submitSet bs).2.mem.wf := by
  unfold State.submitSet
  split
  · exact h
  · dsimp only
    split
    · exact h
    · split
      · exact h
      · split
        · exact h
        · rename_i e; exact State.wf_beginResize (State.wf_planMoves h e)

/-! ### Machine/Outside.lean -/

@[simp] theorem State.wf_restarted (s : State) (sec : Security) (dev : Device) : (s.restarted sec dev).mem.wf :=
  rfl

/-! ## Handlers of instructions and events -/

/-- The next state, where there is one, is canonical. Handlers take a continuation that answers a `Result`, so their
lemmas are stated of results. -/
def Result.canonical (r : Result) : Prop :=
  match r with
  | .next s => s.canonical
  | .fault _ | .refused _ => True

@[simp] theorem Result.canonical_next {s : State} : Result.canonical (.next s) ↔ s.mem.wf = true :=
  Iff.rfl

/-! ### Machine/Operands.lean -/

theorem State.canonical_issue {s : State} {u : Uses} {k : State → Result} (h : s.mem.wf)
    (hk : (k s).canonical) : (s.issue u k).canonical := by
  unfold State.issue
  split <;> simp [h, hk]

@[simp] theorem canonical_aluR {f : Word → Word → Word} {d a b : Reg} {ta tb : Bool} {s : State}
    (h : s.mem.wf) : Result.canonical (aluR f d a b ta tb s) :=
  State.canonical_issue h (by simp [h])

@[simp] theorem canonical_alu1 {f : Word → Word} {d a : Reg} {ta : Bool} {s : State} (h : s.mem.wf) :
    Result.canonical (alu1 f d a ta s) :=
  State.canonical_issue h (by simp [h])

@[simp] theorem canonical_aluRd {f : Word → Word → Word → Word} {d a b : Reg} {ta tb : Bool} {s : State}
    (h : s.mem.wf) : Result.canonical (aluRd f d a b ta tb s) :=
  State.canonical_issue h (by simp [h])

@[simp] theorem canonical_aluI {f : Word → Word → Word} {d a : Reg} {imm : BitVec 14} {ta : Bool} {s : State}
    (h : s.mem.wf) : Result.canonical (aluI f d a imm ta s) := by
  simp [aluI, h]

@[simp] theorem canonical_aluU {f : Word → Word → Word} {d : Reg} {imm : BitVec 20} {s : State}
    (h : s.mem.wf) : Result.canonical (aluU f d imm s) :=
  State.canonical_issue h (by simp [h])

@[simp] theorem canonical_aluC {f : Word → Word → Word} {d r : Reg} {s : State} (h : s.mem.wf) :
    Result.canonical (aluC f d r s) :=
  State.canonical_issue h (by simp [h])

@[simp] theorem canonical_cplx {acc conj : Bool} {d a b : Reg} {ta tb : Bool} {len : Nat} {s : State}
    (h : s.mem.wf) : Result.canonical (cplx acc conj d a b ta tb len s) := by
  unfold cplx
  exact State.canonical_issue h (by simp [h])

/-! ### Machine/Send.lean -/

theorem State.canonical_returning {s : State} {va : Word} {r w : Bool} {dests reads : List Reg} {join : Label}
    {k : State → Target → Way → Result} (h : s.mem.wf) (hk : ∀ s x way, s.mem.wf → (k s x way).canonical) :
    (s.returning va r w dests reads join k).canonical := by
  unfold State.returning
  split
  · simp [h]
  · split <;> rename_i e <;> have ht := State.wf_of_pair (State.wf_route h) e
    · simp [ht]
    · exact hk _ _ _ ht
    · split
      · exact hk _ _ _ ht
      · simp [ht]
    · split
      · split <;> rename_i e <;> have hx := State.wf_of_pair (State.wf_target ht) e
        · simp [hx]
        · exact hk _ _ _ hx
      · simp [ht]

theorem State.canonical_releaseWait {s : State} {on : Bool} {k : State → Result} (h : s.mem.wf)
    (hk : (k s).canonical) : (s.releaseWait on k).canonical := by
  unfold State.releaseWait
  split <;> simp [h, hk]

theorem State.canonical_commandWait {s : State} {k : State → Result} (h : s.mem.wf) (hk : (k s).canonical) :
    (s.commandWait k).canonical := by
  unfold State.commandWait
  split <;> simp [h, hk]

@[simp] theorem State.canonical_storing {s : State} {va : Word} {r : Bool} {reads : List Reg} {op : MemOp}
    {ord : MemOrder} {ordered : Bool} {globalOk : Bool} {n len : Nat} (h : s.mem.wf) :
    (s.storing va r reads op ord ordered globalOk n len).canonical := by
  unfold State.storing
  extract_lets +onlyGivenNames l red finish
  have hf (t : State) (x : Target) (way : Way) (ht : t.mem.wf) : (finish t x way).canonical := by
    simp only [finish]
    split
    · simp [ht]
    · refine State.canonical_releaseWait ht ?_
      split <;> simp [ht]
  clear_value finish
  split
  · simp [h]
  · split
    · simp [h]
    · split <;> rename_i e <;> have ht := State.wf_of_pair (State.wf_storeRoute h) e
      · simp [ht]
      · split
        · exact hf _ _ _ ht
        · simp [ht]
      · exact hf _ _ _ ht
      · split
        · split
          · split
            · exact hf _ _ _ (by simp [ht])
            · simp [ht]
            · simp [ht]
          · simp [ht]
        · simp [ht]

@[simp] theorem State.canonical_loading {s : State} {va : Word} {d : Reg} {reads : List Reg} {op : MemOp}
    {ord : MemOrder} {w join hold : Bool} {n : Nat} (h : s.mem.wf) :
    (s.loading va d reads op ord w join hold n).canonical := by
  refine State.canonical_returning h fun s x way h => ?_
  split
  · simp [h]
  · exact State.canonical_releaseWait h (by simp [h])

/-! ### Machine/CodeFetch.lean -/

@[simp] theorem canonical_execFetchLineInstall {read : Nat} {s : State} (h : s.mem.wf) :
    Result.canonical (execFetchLineInstall read s) := by
  unfold execFetchLineInstall
  dsimp only
  (repeat' split) <;> simp [h]

/-! ### Machine/LoadStore.lean -/

theorem canonical_memIssue {dests : List Reg} {srcs : List (Reg × Bool)} {a : Reg} {off : Word} {n : Nat}
    {s : State} {k : State → Word → Result} (h : s.mem.wf) (hk : ∀ ea, (k s ea).canonical) :
    (memIssue dests srcs a off n s k).canonical := by
  refine State.canonical_issue h ?_
  dsimp only
  split <;> simp [h, hk]

@[simp] theorem canonical_execLd {d a : Reg} {imm : BitVec 9} {sz : MemSize} {sx : Bool} {ord : MemOrder}
    {ta : Bool} {s : State} (h : s.mem.wf) : Result.canonical (execLd d a imm sz sx ord ta s) := by
  refine canonical_memIssue h fun ea => ?_
  split <;> simp [h]

@[simp] theorem canonical_execSt {d a : Reg} {imm : BitVec 9} {sz : MemSize} {ord : MemOrder} {ta : Bool}
    {s : State} (h : s.mem.wf) : Result.canonical (execSt d a imm sz ord ta s) := by
  refine canonical_memIssue h fun ea => ?_
  split <;> simp [h]

@[simp] theorem canonical_execLdm {a b : Reg} {off : BitVec 8} {n : BitVec 3} {q ta _tb : Bool} {s : State}
    (h : s.mem.wf) : Result.canonical (execLdm a b off n q ta _tb s) := by
  unfold execLdm
  refine State.canonical_issue h ?_
  dsimp only
  split
  · simp [h]
  · refine State.canonical_returning h fun s x way h => ?_
    simp [h]

@[simp] theorem canonical_execStm {a b : Reg} {off : BitVec 8} {n : BitVec 3} {q ta tb : Bool} {s : State}
    (h : s.mem.wf) : Result.canonical (execStm a b off n q ta tb s) := by
  unfold execStm
  refine State.canonical_issue h ?_
  dsimp only
  split
  · simp [h]
  · split
    · rename_i e
      have ht := State.wf_of_pair (State.wf_route h) e
      split
      · simp [ht]
      · refine State.canonical_releaseWait ht ?_
        split <;> simp [ht]
    · simp [h]

@[simp] theorem canonical_execLdfe {d a : Reg} {imm : BitVec 9} {ord : MemOrder} {ta : Bool} {s : State}
    (h : s.mem.wf) : Result.canonical (execLdfe d a imm ord ta s) := by
  refine canonical_memIssue h fun ea => ?_
  split <;> simp [h]

@[simp] theorem canonical_execLdff {d a : Reg} {imm : BitVec 9} {ord : MemOrder} {ta : Bool} {s : State}
    (h : s.mem.wf) : Result.canonical (execLdff d a imm ord ta s) := by
  refine canonical_memIssue h fun ea => ?_
  split <;> simp [h]

@[simp] theorem canonical_execTagr {d a : Reg} {imm : BitVec 9} {ord : MemOrder} {ta : Bool} {s : State}
    (h : s.mem.wf) : Result.canonical (execTagr d a imm ord ta s) := by
  refine canonical_memIssue h fun ea => ?_
  split <;> simp [h]

@[simp] theorem canonical_execStfe {d a : Reg} {imm : BitVec 9} {ord : MemOrder} {ta : Bool} {s : State}
    (h : s.mem.wf) : Result.canonical (execStfe d a imm ord ta s) := by
  refine canonical_memIssue h fun ea => ?_
  split
  · simp [h]
  · refine State.canonical_returning h fun s x way h => ?_
    split
    · simp [h]
    · exact State.canonical_releaseWait h (by simp [h])

@[simp] theorem canonical_execStff {d a : Reg} {imm : BitVec 9} {ord : MemOrder} {ta : Bool} {s : State}
    (h : s.mem.wf) : Result.canonical (execStff d a imm ord ta s) :=
  canonical_memIssue h fun ea => by simp [h]

@[simp] theorem canonical_execTagw {d a : Reg} {imm : BitVec 9} {ord : MemOrder} {ta : Bool} {s : State}
    (h : s.mem.wf) : Result.canonical (execTagw d a imm ord ta s) :=
  canonical_memIssue h fun ea => by simp [h]

@[simp] theorem canonical_execSetvat {d a : Reg} {imm : BitVec 9} {ta : Bool} {s : State} (h : s.mem.wf) :
    Result.canonical (execSetvat d a imm ta s) := by
  refine canonical_memIssue h fun ea => ?_
  split
  · simp [h]
  · refine State.canonical_returning h fun s x way h => ?_
    dsimp only
    (repeat' split) <;> simp [h]

@[simp] theorem canonical_amo {fn : AmoFn} {dbl : Bool} {d a b : Reg} {o r ta tb : Bool} {s : State}
    (h : s.mem.wf) : Result.canonical (amo fn dbl d a b o r ta tb s) := by
  refine canonical_memIssue h fun ea => State.canonical_returning h fun s x way h => ?_
  dsimp only
  split
  · simp [h]
  · exact State.canonical_releaseWait h (by simp [h])

@[simp] theorem canonical_reduce {fn : AmoFn} {dbl : Bool} {a b : Reg} {o r ta tb : Bool} {s : State}
    (h : s.mem.wf) : Result.canonical (reduce fn dbl a b o r ta tb s) := by
  refine canonical_memIssue h fun ea => ?_
  split <;> simp [h]

@[simp] theorem canonical_execCas {d a b : Reg} {r o ta tb : Bool} {s : State} (h : s.mem.wf) :
    Result.canonical (execCas d a b r o ta tb s) := by
  refine canonical_memIssue h fun ea => State.canonical_returning h fun s x way h => ?_
  dsimp only
  split
  · simp [h]
  · exact State.canonical_releaseWait h (by simp [h])

@[simp] theorem canonical_execCas2 {d a b : Reg} {r o ta tb : Bool} {s : State} (h : s.mem.wf) :
    Result.canonical (execCas2 d a b r o ta tb s) := by
  unfold execCas2
  refine canonical_memIssue h fun ea => State.canonical_returning h fun s x way h => ?_
  dsimp only
  split
  · simp [h]
  · exact State.canonical_releaseWait h (by simp [h])

@[simp] theorem canonical_execNest {d a : Reg} {ta _tb : Bool} {s : State} (h : s.mem.wf) :
    Result.canonical (execNest d a ta _tb s) := by
  unfold execNest
  refine State.canonical_issue h ?_
  dsimp only
  split
  · simp [h]
  · split
    · simp [h]
    · split
      · split
        · simp [h]
        · exact State.canonical_returning h fun s x way h => by simp [h]
      all_goals simp [h]

@[simp] theorem canonical_execNext {d : Reg} {_ta _tb : Bool} {s : State} (h : s.mem.wf) :
    Result.canonical (execNext d _ta _tb s) := by
  unfold execNext
  refine State.canonical_issue h ?_
  dsimp only
  split
  · simp [h]
  · split
    · simp [h]
    · split
      · simp [h]
      · refine State.canonical_returning h fun s x way h => ?_
        split <;> simp [h]

/-! ### Machine/FaultQueue.lean -/

@[simp] theorem canonical_execFaultQueueEvent {part : Nat} {ev : FaultEvent} {s : State} (h : s.mem.wf) :
    Result.canonical (execFaultQueueEvent part ev s) := by
  unfold execFaultQueueEvent
  split
  · exact h
  · dsimp only
    split
    · simp [h]
    · split
      · split
        · rename_i e; exact State.wf_fqWrite (by simpa using h) e
        · simp [h]
      · split <;> simp [h]

@[simp] theorem canonical_execFaultQueueRetry {part : Nat} {s : State} (h : s.mem.wf) :
    Result.canonical (execFaultQueueRetry part s) := by
  unfold execFaultQueueRetry
  split <;> simp [h]

/-! ### Machine/Flags.lean -/

@[simp] theorem canonical_fpArith {f : Rm → Word → State → Nat × FFlags} {dests : List Reg}
    {srcs : List (Reg × Bool)} {d : Reg} {len : Nat} {s : State} (h : s.mem.wf) :
    Result.canonical (fpArith f dests srcs d len s) :=
  State.canonical_issue h (by simp [h])

@[simp] theorem canonical_fpPlain {f : State → Word × FFlags} {srcs : List (Reg × Bool)} {d : Reg} {s : State}
    (h : s.mem.wf) : Result.canonical (fpPlain f srcs d s) :=
  State.canonical_issue h (by simp [h])

@[simp] theorem canonical_fpCompare {c : FCmp} {f : FpFmt} {d a b : Reg} {ta tb : Bool} {s : State}
    (h : s.mem.wf) : Result.canonical (fpCompare c f d a b ta tb s) := by
  simp [fpCompare, h]

@[simp] theorem canonical_fpMinMax {least : Bool} {f : FpFmt} {d a b : Reg} {ta tb : Bool} {s : State}
    (h : s.mem.wf) : Result.canonical (fpMinMax least f d a b ta tb s) := by
  simp [fpMinMax, h]

/-! ### Machine/Sys.lean -/

theorem canonical_cregIssue {n : Nat} {write : Bool} {word : Nat} {dests : List Reg}
    {srcs : List (Reg × Bool)} {s : State} {k : State → Result} (h : s.mem.wf) (hk : (k s).canonical) :
    (cregIssue n write word dests srcs s k).canonical := by
  unfold cregIssue
  split
  · simp [h]
  · exact State.canonical_issue h hk

@[simp] theorem canonical_execMfc {d : Reg} {c : BitVec 12} {s : State} (h : s.mem.wf) :
    Result.canonical (execMfc d c s) := by
  refine canonical_cregIssue h ?_
  dsimp only
  split
  · simp [h]
  · split <;> simp [h]

theorem canonical_mtc {n : Nat} {a : Reg} {s : State} {k : State → Word → Result} (h : s.mem.wf)
    (hk : ∀ v, (k s v).canonical) : (mtc n a s k).canonical :=
  canonical_cregIssue h (hk _)

@[simp] theorem canonical_execMtc {a : Reg} {c : BitVec 12} {s : State} (h : s.mem.wf) :
    Result.canonical (execMtc a c s) := by
  refine canonical_mtc h fun v => ?_
  dsimp only
  split <;> simp [h]

@[simp] theorem canonical_execMtcStatus {a : Reg} {s : State} (h : s.mem.wf) :
    Result.canonical (execMtcStatus a s) := by
  refine canonical_mtc h fun v => ?_
  dsimp only
  split <;> simp [h]

@[simp] theorem canonical_execMtcLive {a : Reg} {s : State} (h : s.mem.wf) :
    Result.canonical (execMtcLive a s) :=
  canonical_cregIssue h (by simp [h])

@[simp] theorem canonical_execMtcSeed {a : Reg} {s : State} (h : s.mem.wf) :
    Result.canonical (execMtcSeed a s) :=
  canonical_cregIssue h (by simp [h])

@[simp] theorem canonical_execMtcDeftrapvec {a : Reg} {s : State} (h : s.mem.wf) :
    Result.canonical (execMtcDeftrapvec a s) :=
  canonical_cregIssue h (by simp [h])

@[simp] theorem canonical_execMtcHtbase {a : Reg} {s : State} (h : s.mem.wf) :
    Result.canonical (execMtcHtbase a s) := by
  refine canonical_mtc h fun v => ?_
  dsimp only
  split <;> simp [h]

@[simp] theorem canonical_execMtcFqbase {a : Reg} {s : State} (h : s.mem.wf) :
    Result.canonical (execMtcFqbase a s) := by
  refine canonical_mtc h fun v => ?_
  dsimp only
  split <;> simp [h]

@[simp] theorem canonical_execMtcWmdata {a : Reg} {s : State} (h : s.mem.wf) :
    Result.canonical (execMtcWmdata a s) := by
  refine canonical_mtc h fun v => ?_
  extract_lets +onlyGivenNames p n page old new l
  split
  · simp [h]
  · split
    · simp [h]
    · split
      · simp [h]
      · dsimp only
        split <;> simp [h]

@[simp] theorem canonical_execLbl {d a : Reg} {ta _tb : Bool} {s : State} (h : s.mem.wf) :
    Result.canonical (execLbl d a ta _tb s) :=
  State.canonical_issue h (by simp [h])

@[simp] theorem canonical_execLblV {d : Reg} {a : VReg} {_ta _tb : Bool} {s : State} (h : s.mem.wf) :
    Result.canonical (execLblV d a _ta _tb s) :=
  State.canonical_issue h (by simp [h])

@[simp] theorem canonical_execLblM {d : Reg} {a : MReg} {_ta _tb : Bool} {s : State} (h : s.mem.wf) :
    Result.canonical (execLblM d a _ta _tb s) :=
  State.canonical_issue h (by simp [h])

@[simp] theorem canonical_execLblS {d : Reg} {_ta _tb : Bool} {s : State} (h : s.mem.wf) :
    Result.canonical (execLblS d _ta _tb s) :=
  State.canonical_issue h (by simp [h])

/-! ### Machine/FabricEvents.lean -/

@[simp] theorem canonical_execBankArbitration {pan bank : Nat} {s : State} (h : s.mem.wf) :
    Result.canonical (execBankArbitration pan bank s) := by
  simp [execBankArbitration, h]

@[simp] theorem canonical_execResultFill {fill : Nat} {s : State} (h : s.mem.wf) :
    Result.canonical (execResultFill fill s) := by
  unfold execResultFill
  dsimp only
  (repeat' split) <;> simp [h]

@[simp] theorem canonical_execPostedWriteArrival {acc : Nat} {s : State} (h : s.mem.wf) :
    Result.canonical (execPostedWriteArrival acc s) := by
  unfold execPostedWriteArrival
  split <;> simp [h]

@[simp] theorem canonical_execCrossDieWriteApply {src dst : Nat} {s : State} (h : s.mem.wf) :
    Result.canonical (execCrossDieWriteApply src dst s) := by
  unfold execCrossDieWriteApply
  split <;> simp [h]

@[simp] theorem canonical_execProxiedAccess {acc : Nat} {s : State} (h : s.mem.wf) :
    Result.canonical (execProxiedAccess acc s) := by
  unfold execProxiedAccess
  split <;> simp [h]

@[simp] theorem canonical_execPostedWriteAck {acc : Nat} {s : State} (h : s.mem.wf) :
    Result.canonical (execPostedWriteAck acc s) := by
  unfold execPostedWriteAck
  split <;> simp [h]

@[simp] theorem canonical_execTranslationRequest {req : Nat} {s : State} (h : s.mem.wf) :
    Result.canonical (execTranslationRequest req s) := by
  unfold execTranslationRequest
  (repeat' split) <;> simp [h]

@[simp] theorem canonical_execTranslationWalkDone {walk : Nat} {s : State} (h : s.mem.wf) :
    Result.canonical (execTranslationWalkDone walk s) := by
  unfold execTranslationWalkDone
  dsimp only
  (repeat' split) <;> simp [h]

@[simp] theorem canonical_execL2FillBurst {fill : Nat} {s : State} (h : s.mem.wf) :
    Result.canonical (execL2FillBurst fill s) := by
  unfold execL2FillBurst
  split <;> simp [h]

@[simp] theorem canonical_execHbmFillReturn {fill : Nat} {s : State} (h : s.mem.wf) :
    Result.canonical (execHbmFillReturn fill s) := by
  unfold execHbmFillReturn
  split
  · exact h
  · split
    · exact h
    · exact State.wf_serveFill (State.wf_install h)

@[simp] theorem canonical_execRegulatorWindow {s : State} (h : s.mem.wf) :
    Result.canonical (execRegulatorWindow s) :=
  State.wf_foldl (fun _ _ ht => ht) h

@[simp] theorem canonical_execChannelDerate {slice : Nat} {s : State} (h : s.mem.wf) :
    Result.canonical (execChannelDerate slice s) := by
  unfold execChannelDerate
  split <;> simp [h]

@[simp] theorem canonical_execClockBeat {s : State} (h : s.mem.wf) : Result.canonical (execClockBeat s) := by
  unfold execClockBeat
  extract_lets +onlyGivenNames s1 s2 s3 late s4
  have h1 : s1.mem = s.mem := State.foldl_mem State.sendBeats_mem
  have h2 : s2.mem = s1.mem := State.foldl_mem State.processBeats_mem
  have h3 : s3.mem = s2.mem := (State.foldl_mem fun _ _ => State.schedule_mem ..).trans (State.releaseHeld_mem s2)
  have h4 : s4.mem = s3.mem := State.foldl_mem fun _ _ => State.push_mem ..
  simpa [h4, h3, h2, h1] using h

@[simp] theorem canonical_execDclockReport {die : Nat} {counts : List Nat} {s : State} (h : s.mem.wf) :
    Result.canonical (execDclockReport die counts s) := by
  simp [execDclockReport, h]

@[simp] theorem canonical_execVclockZeroing {s : State} (h : s.mem.wf) :
    Result.canonical (execVclockZeroing s) := by
  simp [execVclockZeroing, h]

@[simp] theorem canonical_execMigrationArrival {uid : Nat} {s : State} (h : s.mem.wf) :
    Result.canonical (execMigrationArrival uid s) := by
  unfold execMigrationArrival
  (repeat' split) <;> simp [h]

@[simp] theorem canonical_execMigrationResend {uid : Nat} {s : State} (h : s.mem.wf) :
    Result.canonical (execMigrationResend uid s) := by
  unfold execMigrationResend
  dsimp only
  (repeat' split) <;> simp [h]

@[simp] theorem canonical_execArrivalBufferPlace {core part : Nat} {s : State} (h : s.mem.wf) :
    Result.canonical (execArrivalBufferPlace core part s) := by
  unfold execArrivalBufferPlace
  dsimp only
  (repeat' split) <;> simp [h]

@[simp] theorem canonical_execMigrationPlacedNotice {core slot : Nat} {s : State} (h : s.mem.wf) :
    Result.canonical (execMigrationPlacedNotice core slot s) := by
  unfold execMigrationPlacedNotice
  (repeat' split) <;> simp [h]

@[simp] theorem canonical_execMigrationFallback {uid : Nat} {s : State} (h : s.mem.wf) :
    Result.canonical (execMigrationFallback uid s) := by
  unfold execMigrationFallback
  (repeat' split) <;> simp [h]

/-! ### Machine/Vector.lean -/

theorem canonical_vissue {vdests vsrcs : List VReg} {mem : Bool} {dests : List Reg} {srcs : List (Reg × Bool)}
    {s : State} {k : State → Result} (h : s.mem.wf) (hk : (k s).canonical) :
    (vissue vdests vsrcs mem dests srcs s k).canonical :=
  State.canonical_issue h hk

@[simp] theorem canonical_vrotate {d : VReg} {srcs : List VReg} {masks : List MReg} {merges : Bool}
    {rs : List Reg} {rounds : Bool} {len : Nat} {f : Thread → VecOut} {s : State} (h : s.mem.wf) :
    Result.canonical (vrotate d srcs masks merges rs rounds len f s) := by
  unfold vrotate
  refine canonical_vissue h ?_
  dsimp only
  split <;> simp [h]

@[simp] theorem canonical_velementwise {d : VReg} {srcs : List VReg} {m : Masking} {readsD : Bool} {len : Nat}
    {f : Thread → Nat → BitVec 32} {s : State} (h : s.mem.wf) :
    Result.canonical (velementwise d srcs m readsD len f s) := by
  simp [velementwise, h]

@[simp] theorem canonical_vbinary {f : BitVec 32 → BitVec 32 → BitVec 32} {d a b : VReg} {m : Masking}
    {len : Nat} {s : State} (h : s.mem.wf) : Result.canonical (vbinary f d a b m len s) := by
  simp [vbinary, h]

@[simp] theorem canonical_vrounding {d : VReg} {srcs : List VReg} {m : Masking} {readsD draws : Bool}
    {len : Nat} {f : Thread → Word → Nat → BitVec 32 × FFlags} {s : State} (h : s.mem.wf) :
    Result.canonical (vrounding d srcs m readsD draws len f s) := by
  simp [vrounding, h]

@[simp] theorem canonical_vwhole {d : VReg} {srcs : List VReg} {m : Masking} {merges raises rounds : Bool}
    {f : Thread → VecOut} {s : State} (h : s.mem.wf) :
    Result.canonical (vwhole d srcs m merges raises rounds f s) := by
  unfold vwhole
  refine canonical_vissue h ?_
  dsimp only
  split
  · split <;> simp [h]
  · simp [h]

@[simp] theorem canonical_vcompare {p : BitVec 32 → BitVec 32 → Bool} {d : MReg} {a b : VReg} {m : Masking}
    {s : State} (h : s.mem.wf) : Result.canonical (vcompare p d a b m s) := by
  unfold vcompare
  exact State.canonical_issue h (by simp [h])

@[simp] theorem canonical_vreduce {d a : VReg} {m : Masking} {raises : Bool}
    {f : Thread → List (Option (BitVec 32)) → BitVec 32 × FFlags × Nat} {s : State} (h : s.mem.wf) :
    Result.canonical (vreduce d a m raises f s) := by
  simp [vreduce, h]

@[simp] theorem canonical_vsfu {fn : SfuFn} {d a : VReg} {m : Masking} {s : State} (h : s.mem.wf) :
    Result.canonical (vsfu fn d a m s) := by
  simp [vsfu, h]

@[simp] theorem canonical_execCvCmac {d r : VReg} {s : State} (h : s.mem.wf) :
    Result.canonical (execCvCmac d r s) := by
  simp [execCvCmac, h]

@[simp] theorem canonical_execVperm {d a b : VReg} {k : MReg} {e z : Bool} {s : State} (h : s.mem.wf) :
    Result.canonical (execVperm d a b k e z s) := by
  simp [execVperm, h]

@[simp] theorem canonical_execVmvBc {d : VReg} {a : LowReg} {k : MReg} {e z : Bool} {s : State}
    (h : s.mem.wf) : Result.canonical (execVmvBc d a k e z s) := by
  simp [execVmvBc, h]

@[simp] theorem canonical_execVmvX {d : LowReg} {a : VReg} {s : State} (h : s.mem.wf) :
    Result.canonical (execVmvX d a s) := by
  unfold execVmvX
  exact State.canonical_issue h (by simp [h])

@[simp] theorem canonical_execVbflyR2 {d a b : VReg} {scl : Bool} {s : State} (h : s.mem.wf) :
    Result.canonical (execVbflyR2 d a b scl s) := by
  simp [execVbflyR2, h]

@[simp] theorem canonical_execVbflyR4 {d a b : VReg} {scl : Bool} {s : State} (h : s.mem.wf) :
    Result.canonical (execVbflyR4 d a b scl s) := by
  simp [execVbflyR4, h]

@[simp] theorem canonical_execMand {d a b : MReg} {_ta _tb : Bool} {s : State} (h : s.mem.wf) :
    Result.canonical (execMand d a b _ta _tb s) := by
  unfold execMand
  exact State.canonical_issue h (by simp [h])

@[simp] theorem canonical_execMor {d a b : MReg} {_ta _tb : Bool} {s : State} (h : s.mem.wf) :
    Result.canonical (execMor d a b _ta _tb s) := by
  unfold execMor
  exact State.canonical_issue h (by simp [h])

@[simp] theorem canonical_execMnot {d a : MReg} {_ta _tb : Bool} {s : State} (h : s.mem.wf) :
    Result.canonical (execMnot d a _ta _tb s) := by
  unfold execMnot
  exact State.canonical_issue h (by simp [h])

@[simp] theorem canonical_execVclaim {d a b : Reg} {ta tb : Bool} {s : State} (h : s.mem.wf) :
    Result.canonical (execVclaim d a b ta tb s) := by
  refine State.canonical_issue h ?_
  dsimp only
  split
  · simp [h]
  · split
    · simp [h]
    · split <;> simp [h]

@[simp] theorem canonical_execVrel {_ta _tb : Bool} {s : State} (h : s.mem.wf) :
    Result.canonical (execVrel _ta _tb s) := by
  refine canonical_vissue h ?_
  split <;> simp [h]

@[simp] theorem canonical_execVsync {d a b : Reg} {ta tb : Bool} {s : State} (h : s.mem.wf) :
    Result.canonical (execVsync d a b ta tb s) := by
  refine canonical_vissue h ?_
  dsimp only
  split
  · simp [h]
  · split
    · simp [h]
    · split
      · simp [h]
      · split <;> simp [h]

@[simp] theorem canonical_vload {form : VecForm} {d : VReg} {a : Reg} {bs : List (Reg × Bool)}
    {vs : List VReg} {m : Masking} {ta : Bool} {s : State} (h : s.mem.wf) :
    Result.canonical (vload form d a bs vs m ta s) := by
  unfold vload
  refine canonical_vissue h ?_
  dsimp only
  split
  · simp [h]
  · split
    · simp [h]
    · exact State.wf_foldl (fun _ _ ht => State.wf_sendFrom ht) (by simp [h])

@[simp] theorem canonical_vstoreTo {form : VecForm} {d : VReg} {a : Reg} {vs : List VReg} {m : Masking}
    {ta : Bool} {s : State} (h : s.mem.wf) : Result.canonical (vstoreTo form d a vs m ta s) := by
  unfold vstoreTo
  refine canonical_vissue h ?_
  dsimp only
  split
  · simp [h]
  · split
    · simp [h]
    · split
      · simp [h]
      · exact State.wf_foldl (fun _ _ ht =>
          State.wf_foldl (fun _ _ hu => State.wf_sendFrom hu) ht) h

/-! ### Machine/Rack.lean -/

theorem State.canonical_readBlock {s : State} {va : Word} {n : Nat} {reads : List Reg}
    {k : State → List Byte → Label → Result} (h : s.mem.wf) (hk : ∀ s bs l, s.mem.wf → (k s bs l).canonical) :
    (s.readBlock va n reads k).canonical := by
  unfold State.readBlock
  dsimp only
  split
  · simp [h]
  · split
    · simp [h]
    · split
      · simp [h]
      · exact hk _ _ _ (by simp [h])

theorem State.canonical_shapeRecord {s : State} {va : Word} {reads : List Reg}
    {k : State → List Byte → Label → Result} (h : s.mem.wf) (hk : ∀ s bs l, s.mem.wf → (k s bs l).canonical) :
    (s.shapeRecord va reads k).canonical := by
  unfold State.shapeRecord
  dsimp only
  split
  · split
    · simp [h]
    · exact hk _ _ _ (by simp [h])
  · exact State.canonical_readBlock h fun s bs l h => hk _ _ _ (by simp [h])

@[simp] theorem canonical_rackWith {d a : Reg} {va : Word} {bs shape follow : List Byte} {own labels : Label}
    {s : State} (h : s.mem.wf) : Result.canonical (rackWith d a va bs shape follow own labels s) := by
  unfold rackWith
  dsimp only
  (repeat' split) <;> simp [h]

@[simp] theorem canonical_execRack {d a : Reg} {s : State} (h : s.mem.wf) : Result.canonical (execRack d a s) := by
  unfold execRack
  refine State.canonical_issue h (State.canonical_commandWait h ?_)
  dsimp only
  split
  · simp [h]
  · refine State.canonical_readBlock h fun s bs l1 h => ?_
    split
    · simp [h]
    · refine State.canonical_shapeRecord h fun s shape l2 h => ?_
      split
      · simp [h]
      · exact State.canonical_readBlock h fun s follow l3 h => by simp [h]

@[simp] theorem canonical_execRackv {d a b : Reg} {s : State} (h : s.mem.wf) :
    Result.canonical (execRackv d a b s) := by
  unfold execRackv
  refine State.canonical_issue h (State.canonical_commandWait h ?_)
  dsimp only
  (repeat' split) <;> simp [h]

@[simp] theorem canonical_execRfenceEngine {s : State} (h : s.mem.wf) : Result.canonical (execRfenceEngine s) := by
  refine State.canonical_issue h (State.canonical_releaseWait h ?_)
  simp [h]

@[simp] theorem canonical_execRfencePartition {s : State} (h : s.mem.wf) :
    Result.canonical (execRfencePartition s) := by
  refine State.canonical_issue h (State.canonical_releaseWait h ?_)
  simp [h]

@[simp] theorem canonical_execQfence {d a : Reg} {s : State} (h : s.mem.wf) :
    Result.canonical (execQfence d a s) :=
  State.canonical_issue h (by simp [h])

@[simp] theorem canonical_execQwait {d a : Reg} {s : State} (h : s.mem.wf) :
    Result.canonical (execQwait d a s) :=
  State.canonical_issue h (by simp [h])

@[simp] theorem canonical_execRstat {d a : Reg} {s : State} (h : s.mem.wf) :
    Result.canonical (execRstat d a s) :=
  State.canonical_issue h (by simp [h])

/-! ### Machine/Sluice.lean -/

@[simp] theorem canonical_execSluice {d a : Reg} {ta _tb : Bool} {s : State} (h : s.mem.wf) :
    Result.canonical (execSluice d a ta _tb s) := by
  unfold execSluice
  refine State.canonical_issue h ?_
  dsimp only
  split
  · simp [h]
  · split
    · simp [h]
    · split
      · simp [h]
      · refine State.canonical_releaseWait (by simp [h]) ?_
        have h : (s.blockRead (s.val a) 64).mem.wf := by simp [h]
        split
        · simp [h]
        · split
          · split
            · simp [h]
            · split <;> simp [h]
          · split
            · simp [h]
            · split
              · simp [h]
              · split
                · simp [h]
                · rename_i e; simp [State.sluice_mem e, h]

@[simp] theorem canonical_execPolicyInstall {pol : PolicyBody} {s : State} (h : s.mem.wf) :
    Result.canonical (execPolicyInstall pol s) := by
  unfold execPolicyInstall
  dsimp only
  (repeat' split) <;> simp [h]

@[simp] theorem canonical_execPolicyRevoke {pol : PolicyBody} {s : State} (h : s.mem.wf) :
    Result.canonical (execPolicyRevoke pol s) := by
  unfold execPolicyRevoke
  dsimp only
  (repeat' split) <;> simp [h]

@[simp] theorem canonical_execPolicyExpiry {id : Nat} {s : State} (h : s.mem.wf) :
    Result.canonical (execPolicyExpiry id s) := by
  simp [execPolicyExpiry, h]

@[simp] theorem canonical_execLabelGrant {pol : PolicyBody} {s : State} (h : s.mem.wf) :
    Result.canonical (execLabelGrant pol s) := by
  unfold execLabelGrant
  dsimp only
  split
  · simp [h]
  · split
    · simp [h]
    · split
      · simp [h]
      · split
        · simp [h]
        · split
          · simp [h]
          · exact State.wf_requestDone (State.wf_foldl (fun _ _ ht => State.wf_grantPage ht) h)

/-! ### Machine/Collective.lean -/

@[simp] theorem canonical_collSubmit {kind : Nat} {d a : Reg} {s : State} (h : s.mem.wf) :
    Result.canonical (collSubmit kind d a s) := by
  unfold collSubmit
  refine State.canonical_issue h (State.canonical_releaseWait h ?_)
  dsimp only
  split
  · simp [h]
  · refine State.canonical_readBlock h fun s bs l1 h => ?_
    split
    · simp [h]
    · exact State.canonical_readBlock h fun s g l2 h => by simp [h]

@[simp] theorem canonical_execCollContribution {msg : CollMsg} {s : State} (h : s.mem.wf) :
    Result.canonical (execCollContribution msg s) := by
  unfold execCollContribution
  dsimp only
  (repeat' split) <;> simp [h]

@[simp] theorem canonical_execCollTimeout {tag epoch : Nat} {s : State} (h : s.mem.wf) :
    Result.canonical (execCollTimeout tag epoch s) := by
  unfold execCollTimeout
  (repeat' split) <;> simp [h]

/-! ### Machine/Press.lean -/

@[simp] theorem canonical_execPressOpStart {trellis : Nat} {s : State} (h : s.mem.wf) :
    Result.canonical (execPressOpStart trellis s) := by
  unfold execPressOpStart
  (repeat' split) <;> simp [h]

@[simp] theorem canonical_execPressKblock {trellis : Nat} {s : State} (h : s.mem.wf) :
    Result.canonical (execPressKblock trellis s) := by
  unfold execPressKblock
  dsimp only
  (repeat' split) <;> simp [h]

@[simp] theorem canonical_execPressOpRetire {trellis : Nat} {s : State} (h : s.mem.wf) :
    Result.canonical (execPressOpRetire trellis s) := by
  unfold execPressOpRetire
  extract_lets +onlyGivenNames pan
  split
  · exact h
  · split
    · exact h
    · extract_lets +onlyGivenNames b
      split
      · simp [h]
      · split
        · extract_lets +onlyGivenNames w s1 s2 s3 s4
          have h2 : s2.mem.wf :=
            State.wf_foldl (fun _ _ ht => State.wf_putC ht) (State.wf_winCorrect h)
          exact State.wf_retirePress (by simpa [s4, s3] using h2)
        · split
          · simp [h]
          · extract_lets +onlyGivenNames blocks readsC
            split
            · split
              · simp [h]
              · exact wf_pressWriteBack h
            · exact wf_pressWriteBack h

@[simp] theorem canonical_execPressWatchdog {trellis : Nat} {s : State} (h : s.mem.wf) :
    Result.canonical (execPressWatchdog trellis s) := by
  unfold execPressWatchdog
  (repeat' split) <;> simp [h]

@[simp] theorem canonical_pressSubmit {zero : Bool} {d a : Reg} {s : State} (h : s.mem.wf) :
    Result.canonical (pressSubmit zero d a s) := by
  unfold pressSubmit
  refine State.canonical_issue h ?_
  dsimp only
  split
  · simp [h]
  · split
    · simp [h]
    · refine State.canonical_commandWait h (State.canonical_readBlock h fun s bs l h => ?_)
      (repeat' split) <;> simp [h]

@[simp] theorem canonical_execPwait {d a : Reg} {s : State} (h : s.mem.wf) :
    Result.canonical (execPwait d a s) :=
  State.canonical_issue h (by simp [h])

@[simp] theorem canonical_execPprog {d a : Reg} {s : State} (h : s.mem.wf) :
    Result.canonical (execPprog d a s) :=
  State.canonical_issue h (by simp [h])

/-! ### Machine/RackEvents.lean -/

@[simp] theorem canonical_execRackSegment {trellis cmd : Nat} {s : State} (h : s.mem.wf) :
    Result.canonical (execRackSegment trellis cmd s) := by
  unfold execRackSegment
  dsimp only
  (repeat' split) <;> simp [h]

@[simp] theorem canonical_execRackRetire {trellis cmd : Nat} {s : State} (h : s.mem.wf) :
    Result.canonical (execRackRetire trellis cmd s) := by
  unfold execRackRetire
  (repeat' split) <;> simp [h]

@[simp] theorem canonical_execFollowOnEnqueue {trellis cmd : Nat} {s : State} (h : s.mem.wf) :
    Result.canonical (execFollowOnEnqueue trellis cmd s) := by
  unfold execFollowOnEnqueue
  dsimp only
  (repeat' split) <;> simp [h]

@[simp] theorem canonical_execRackWatchdog {trellis cmd : Nat} {s : State} (h : s.mem.wf) :
    Result.canonical (execRackWatchdog trellis cmd s) := by
  unfold execRackWatchdog
  (repeat' split) <;> simp [h]

/-! ### Machine/Census.lean -/

@[simp] theorem canonical_dirIssue {kind : Nat} {d a : Reg} {b : Option Reg} {s : State} (h : s.mem.wf) :
    Result.canonical (dirIssue kind d a b s) := by
  unfold dirIssue
  dsimp only
  refine State.canonical_issue h ?_
  split
  · simp [h]
  · refine State.canonical_releaseWait h ?_
    (repeat' split) <;> simp [h]

@[simp] theorem canonical_execTdirPerform {trellis req : Nat} {s : State} (h : s.mem.wf) :
    Result.canonical (execTdirPerform trellis req s) := by
  unfold execTdirPerform
  dsimp only
  (repeat' split) <;> simp [h]

@[simp] theorem canonical_execTmovePerform {trellis req : Nat} {s : State} (h : s.mem.wf) :
    Result.canonical (execTmovePerform trellis req s) := by
  unfold execTmovePerform
  dsimp only
  (repeat' split) <;> simp [h]

@[simp] theorem canonical_execResponderStart {trellis : Nat} {s : State} (h : s.mem.wf) :
    Result.canonical (execResponderStart trellis s) := by
  simp [execResponderStart, h]

@[simp] theorem canonical_execCensusRequest {req : Nat} {s : State} (h : s.mem.wf) :
    Result.canonical (execCensusRequest req s) := by
  unfold execCensusRequest
  split <;> simp [h]

@[simp] theorem canonical_execCensusBroadcast {trellis census : Nat} {s : State} (h : s.mem.wf) :
    Result.canonical (execCensusBroadcast trellis census s) := by
  unfold execCensusBroadcast
  dsimp only
  (repeat' split) <;> simp [h]

@[simp] theorem canonical_execTrellisReport {trellis census : Nat} {s : State} (h : s.mem.wf) :
    Result.canonical (execTrellisReport trellis census s) := by
  unfold execTrellisReport
  split <;> simp [h]

@[simp] theorem canonical_execPanNodeReport {pan census : Nat} {s : State} (h : s.mem.wf) :
    Result.canonical (execPanNodeReport pan census s) := by
  unfold execPanNodeReport
  split <;> simp [h]

@[simp] theorem canonical_execLandingNotice {part move : Nat} {s : State} (h : s.mem.wf) :
    Result.canonical (execLandingNotice part move s) := by
  simp [execLandingNotice, h]

@[simp] theorem canonical_execCensusComplete {part census : Nat} {s : State} (h : s.mem.wf) :
    Result.canonical (execCensusComplete part census s) := by
  unfold execCensusComplete
  (repeat' split) <;> simp [h]

@[simp] theorem canonical_execEntryLanding {trellis req : Nat} {s : State} (h : s.mem.wf) :
    Result.canonical (execEntryLanding trellis req s) := by
  unfold execEntryLanding
  (repeat' split) <;> simp [h]

@[simp] theorem canonical_solicit {op : Nat} {d a b : Reg} {s : State} (h : s.mem.wf) :
    Result.canonical (solicit op d a b s) := by
  unfold solicit
  refine State.canonical_issue h ?_
  split <;> simp [h]

@[simp] theorem canonical_execAnswer {a : Reg} {s : State} (h : s.mem.wf) : Result.canonical (execAnswer a s) := by
  unfold execAnswer
  refine State.canonical_issue h ?_
  split
  · simp [h]
  · split
    · simp [h]
    · refine State.canonical_releaseWait h ?_
      dsimp only
      split <;> simp [h]

@[simp] theorem canonical_execCwait {d : Reg} {s : State} (h : s.mem.wf) : Result.canonical (execCwait d s) := by
  refine State.canonical_issue h ?_
  dsimp only
  split <;> simp [h]

/-! ### Machine/Control.lean -/

@[simp] theorem canonical_branch {taken : Word → Word → Bool} {a b : Reg} {imm : BitVec 12} {s : State}
    (h : s.mem.wf) : Result.canonical (branch taken a b imm s) :=
  State.canonical_issue h (by simp [h])

@[simp] theorem canonical_execJal {d : Reg} {imm : BitVec 20} {s : State} (h : s.mem.wf) :
    Result.canonical (execJal d imm s) :=
  State.canonical_issue h (by simp [h])

@[simp] theorem canonical_execJalr {d a : Reg} {imm : BitVec 14} {ta : Bool} {s : State} (h : s.mem.wf) :
    Result.canonical (execJalr d a imm ta s) := by
  refine State.canonical_issue h ?_
  dsimp only
  split <;> simp [h]

@[simp] theorem canonical_execTrap {n : BitVec 12} {s : State} (h : s.mem.wf) :
    Result.canonical (execTrap n s) := by
  simp [execTrap, h]

@[simp] theorem canonical_execSys {n : BitVec 12} {s : State} (h : s.mem.wf) : Result.canonical (execSys n s) := by
  simp [execSys, h]

@[simp] theorem canonical_execEret {s : State} (h : s.mem.wf) : Result.canonical (execEret s) := by
  unfold execEret
  exact State.canonical_issue h (by simp [h])

/-! ### Machine/Fp.lean -/

@[simp] theorem canonical_execRnd {d a : Reg} {f : FpFmt} {rm : Rm} {ta _tb : Bool} {s : State}
    (h : s.mem.wf) : Result.canonical (execRnd d a f rm ta _tb s) :=
  State.canonical_issue h (by simp [h])

@[simp] theorem canonical_execRseed {d a : Reg} {ta _tb : Bool} {s : State} (h : s.mem.wf) :
    Result.canonical (execRseed d a ta _tb s) :=
  State.canonical_issue h (by simp [h])

@[simp] theorem canonical_execCvt {d a : Reg} {rnd : CvtRound} {dst src : Fmt} {ta _tb : Bool} {s : State}
    (h : s.mem.wf) : Result.canonical (execCvt d a rnd dst src ta _tb s) :=
  State.canonical_issue h (by simp [h])

@[simp] theorem canonical_execMv {d r : Reg} {s : State} (h : s.mem.wf) : Result.canonical (execMv d r s) :=
  State.canonical_issue h (by simp [h])

@[simp] theorem canonical_execCAddi {d : Reg} {imm : BitVec 5} {s : State} (h : s.mem.wf) :
    Result.canonical (execCAddi d imm s) :=
  State.canonical_issue h (by simp [h])

/-! ### Machine/Save.lean -/

@[simp] theorem canonical_execFold {part gang why : Nat} {s : State} (h : s.mem.wf) :
    Result.canonical (execFold part gang why s) := by
  unfold execFold
  extract_lets +onlyGivenNames again
  split
  · exact h
  · split
    · split <;> simp [again, h]
    · split
      · simp [h]
      · extract_lets +onlyGivenNames s1 ts
        have hs : s1.mem.wf := State.wf_foldl (fun _ _ ht => State.wf_saveThread ht) h
        split
        · split
          · rename_i e; exact State.wf_finishFold hs e
          · simp [again, hs]
        · simp [again, hs]

/-! ### Machine/Launch.lean -/

@[simp] theorem canonical_execLaunch {d a : Reg} {s : State} (h : s.mem.wf) :
    Result.canonical (execLaunch d a s) := by
  refine State.canonical_issue h ?_
  dsimp only
  split
  · simp [h]
  · split
    · simp [h]
    · split <;> simp [h]

@[simp] theorem canonical_execLaunchWindowSubmit {vf off : Nat} {data : List Byte} {s : State}
    (h : s.mem.wf) : Result.canonical (execLaunchWindowSubmit vf off data s) := by
  unfold execLaunchWindowSubmit
  split
  · exact h
  · refine State.wf_foldl (fun t k ht => ?_) (by simpa using h)
    split <;> simpa using ht

@[simp] theorem canonical_execWaitonPoll {part : Nat} {s : State} (h : s.mem.wf) :
    Result.canonical (execWaitonPoll part s) := by
  simp [execWaitonPoll, h]

@[simp] theorem canonical_execCompletionWrite {part seq : Nat} {s : State} (h : s.mem.wf) :
    Result.canonical (execCompletionWrite part seq s) := by
  unfold execCompletionWrite
  split
  · exact h
  · rename_i j _
    split
    · simp [h]
    · extract_lets +onlyGivenNames s1 w s2 s3
      have h2 : s2.mem.wf := by
        simp only [s2]
        split
        · simp [s1, h]
        · split
          · rename_i e; exact State.wf_writeCompletion (by simpa [s1] using h) e
          · simp [s1, h]
      have h3 : s3.mem = s2.mem := by
        simp only [s3]
        (repeat' split) <;> simp
      simp [h3, h2]

@[simp] theorem canonical_execMsixRaise {vf vec : Nat} {s : State} (h : s.mem.wf) :
    Result.canonical (execMsixRaise vf vec s) := by
  simp [execMsixRaise, h]

@[simp] theorem canonical_execHandlerErrorCompletion {part : Nat} {ev : FaultEvent} {s : State}
    (h : s.mem.wf) : Result.canonical (execHandlerErrorCompletion part ev s) := by
  simp [execHandlerErrorCompletion, h]

@[simp] theorem canonical_execInvocationArrival {inv : Invocation} {s : State} (h : s.mem.wf) :
    Result.canonical (execInvocationArrival inv s) := by
  unfold execInvocationArrival
  dsimp only
  split <;> simp [h]

@[simp] theorem canonical_execInvoke {d a b : Reg} {prio : Fin 4} {s : State} (h : s.mem.wf) :
    Result.canonical (execInvoke d a b prio s) := by
  unfold execInvoke
  refine State.canonical_issue h ?_
  dsimp only
  split
  · simp [h]
  · split
    · simp [h]
    · split
      · simp [h]
      · split
        · simp [h]
        · rename_i e; simp [State.sluice_mem e, h]

@[simp] theorem canonical_execLaunchPlacementPass {part : Nat} {s : State} (h : s.mem.wf) :
    Result.canonical (execLaunchPlacementPass part s) := by
  unfold execLaunchPlacementPass
  split
  · exact h
  · refine State.wf_foldl (fun t n ht => ?_) (State.wf_foldl (fun _ _ ht => by simpa using ht) h)
    have hk := t.keptPan_mem part n
    split <;> rename_i e <;> rw [e] at hk
    · exact (congrArg Memory.wf hk).trans ht
    · simpa using (congrArg Memory.wf hk).trans ht

@[simp] theorem canonical_execPriorityAging {s : State} (h : s.mem.wf) :
    Result.canonical (execPriorityAging s) := by
  simp [execPriorityAging, h]

/-! ### Machine/Sync.lean -/

@[simp] theorem canonical_execPark {d a b : Reg} {ta tb : Bool} {s : State} (h : s.mem.wf) :
    Result.canonical (execPark d a b ta tb s) := by
  refine canonical_memIssue h fun ea => State.canonical_returning h fun s x way h => ?_
  simp [h]

@[simp] theorem canonical_execParkTimeout {uid stamp : Nat} {s : State} (h : s.mem.wf) :
    Result.canonical (execParkTimeout uid stamp s) := by
  unfold execParkTimeout
  (repeat' split) <;> simp [h]

@[simp] theorem canonical_execSleep {d a : Reg} {ta _tb : Bool} {s : State} (h : s.mem.wf) :
    Result.canonical (execSleep d a ta _tb s) := by
  refine State.canonical_issue h ?_
  dsimp only
  split <;> simp [h]

@[simp] theorem canonical_execSleepTimeout {uid stamp : Nat} {s : State} (h : s.mem.wf) :
    Result.canonical (execSleepTimeout uid stamp s) := by
  unfold execSleepTimeout
  split <;> simp [h]

@[simp] theorem canonical_execBar {d : Reg} {n : Fin 4} {_ta _tb : Bool} {s : State} (h : s.mem.wf) :
    Result.canonical (execBar d n _ta _tb s) := by
  refine State.canonical_issue h ?_
  split
  · simp [h]
  · exact State.canonical_releaseWait h (by simp [h])

@[simp] theorem canonical_execBarw {d b : Reg} {n : Fin 4} {_ta tb : Bool} {s : State} (h : s.mem.wf) :
    Result.canonical (execBarw d b n _ta tb s) := by
  refine State.canonical_issue h ?_
  dsimp only
  split <;> simp [h]

@[simp] theorem canonical_execBarrierRequest {pan cycle : Nat} {s : State} (h : s.mem.wf) :
    Result.canonical (execBarrierRequest pan cycle s) := by
  refine List.foldlRecOn (motive := fun acc : State × List (Nat × Nat) => acc.1.mem.wf) _ _ h fun acc hacc r _ => ?_
  dsimp only
  split <;> simp [hacc]

@[simp] theorem canonical_fence {fn : Nat} {s : State} (h : s.mem.wf) : Result.canonical (fence fn s) := by
  unfold fence
  refine State.canonical_issue h ?_
  split <;> simp [h]

@[simp] theorem canonical_execGlobalFenceOrdering {uid : Nat} {s : State} (h : s.mem.wf) :
    Result.canonical (execGlobalFenceOrdering uid s) := by
  unfold execGlobalFenceOrdering
  (repeat' split) <;> simp [h]

@[simp] theorem canonical_execHop {a : Reg} {ta _tb : Bool} {s : State} (h : s.mem.wf) :
    Result.canonical (execHop a ta _tb s) := by
  unfold execHop
  refine State.canonical_issue h ?_
  extract_lets +onlyGivenNames va l stay move
  have hstay (t : State) (ht : t.mem.wf) : (stay t).mem.wf := by simpa [stay] using ht
  have hmove (t : State) (x : Target) (ht : t.mem.wf) : (move t x).canonical := by
    simp only [move]
    split
    · exact hstay t ht
    · split <;> simp [ht]
  clear_value stay move
  split
  · exact hstay s h
  · split <;> rename_i e <;> have ht := State.wf_of_pair (State.wf_route h) e
    · simp [ht]
    · exact hmove _ _ ht
    · exact hmove _ _ ht
    · split
      · simp [ht]
      · split <;> rename_i e <;> have hx := State.wf_of_pair (State.wf_target ht) e
        · simp [hx]
        · exact hstay _ hx

@[simp] theorem canonical_execLive {d a : Reg} {ta _tb : Bool} {s : State} (h : s.mem.wf) :
    Result.canonical (execLive d a ta _tb s) :=
  State.canonical_issue h (by simp [h])

@[simp] theorem canonical_tlbinv {scope : Nat} {word : Word} {a b : Reg} {ta tb : Bool}
    {busy : Nat → State → Bool} {s : State} (h : s.mem.wf) :
    Result.canonical (tlbinv scope word a b ta tb busy s) := by
  unfold tlbinv
  refine State.canonical_issue h ?_
  extract_lets +onlyGivenNames part wait
  have hw (t : State) (x : Discard) (ht : t.mem.wf) : (wait t x).canonical := by simp [wait, ht]
  clear_value wait
  split
  · exact hw s _ h
  all_goals
    split
    · simp [h]
    · dsimp only
      split
      · exact hw _ _ (by simp [h])
      · simp [h]

/-! ### Machine/Interrupt.lean -/

@[simp] theorem canonical_execWake {a b : Reg} {ta tb : Bool} {s : State} (h : s.mem.wf) :
    Result.canonical (execWake a b ta tb s) := by
  unfold execWake
  refine State.canonical_issue h ?_
  dsimp only
  split
  · simp [h]
  · refine State.canonical_releaseWait h ?_
    (repeat' split) <;> simp [h]

@[simp] theorem canonical_execPostedWakeArrival {acc : Nat} {s : State} (h : s.mem.wf) :
    Result.canonical (execPostedWakeArrival acc s) := by
  unfold execPostedWakeArrival
  (repeat' split) <;> simp [h]

@[simp] theorem canonical_execAsyncTrapDelivery {s : State} (h : s.mem.wf) :
    Result.canonical (execAsyncTrapDelivery s) := by
  have hr := s.readyForTrap_mem
  unfold execAsyncTrapDelivery
  (repeat' split) <;> simp_all

@[simp] theorem canonical_execSlotTimerExpiry {uid : Nat} {s : State} (h : s.mem.wf) :
    Result.canonical (execSlotTimerExpiry uid s) := by
  simp [execSlotTimerExpiry, h]

@[simp] theorem canonical_execHeartbeatMiss {uid : Nat} {s : State} (h : s.mem.wf) :
    Result.canonical (execHeartbeatMiss uid s) := by
  unfold execHeartbeatMiss
  dsimp only
  (repeat' split) <;> simp [h]

@[simp] theorem canonical_execBudgetPeriod {s : State} (h : s.mem.wf) : Result.canonical (execBudgetPeriod s) := by
  unfold execBudgetPeriod
  simp only [Result.canonical_next, State.schedule_mem]
  refine State.wf_foldl (fun _ _ ht => by simpa using ht) (State.wf_foldl (fun _ _ ht => ht) h)

@[simp] theorem canonical_execTelemetryExport {part : Nat} {s : State} (h : s.mem.wf) :
    Result.canonical (execTelemetryExport part s) := by
  unfold execTelemetryExport
  split
  · exact h
  · refine State.wf_foldl (fun t vf ht => ?_) (by simpa using h)
    split
    · rename_i e; simp [State.sluice_mem e, ht]
    · exact ht

@[simp] theorem canonical_execThermtrip {temp : Nat} {s : State} (h : s.mem.wf) :
    Result.canonical (execThermtrip temp s) := by
  unfold execThermtrip
  split <;> simp [h]

/-! ### Machine/Task.lean -/

theorem canonical_taskIssue {dests : List Reg} {srcs : List (Reg × Bool)} {deque frame : Reg}
    {odd : State → Bool} {s : State} {k : State → Loc × Label → Loc × Label → Result} (h : s.mem.wf)
    (hk : ∀ f q, (k s f q).canonical) : (taskIssue dests srcs deque frame odd s k).canonical := by
  refine State.canonical_issue h ?_
  dsimp only
  (repeat' split) <;> simp [h, hk]

@[simp] theorem canonical_execFork {d a b : Reg} {ta tb : Bool} {s : State} (h : s.mem.wf) :
    Result.canonical (execFork d a b ta tb s) := by
  refine canonical_taskIssue h fun f q => ?_
  split
  · simp [h]
  · exact State.canonical_releaseWait h (by simp [h])

@[simp] theorem canonical_execJoin {d a b : Reg} {ta tb : Bool} {s : State} (h : s.mem.wf) :
    Result.canonical (execJoin d a b ta tb s) :=
  canonical_taskIssue h fun f q => (by simp [h])

@[simp] theorem canonical_execJdone {a b : Reg} {ta tb : Bool} {s : State} (h : s.mem.wf) :
    Result.canonical (execJdone a b ta tb s) := by
  unfold execJdone
  refine State.canonical_issue h ?_
  dsimp only
  split
  · simp [h]
  · split
    · simp [h]
    · have hs : (s.storing (s.val a) true [a, b] (.red .add true (-1)) .release false true 8 4).canonical :=
        State.canonical_storing h
      split
      · rename_i e
        rw [e] at hs
        split <;> simpa using hs
      · exact hs

@[simp] theorem canonical_execSpawn {d a b : Reg} {ta tb : Bool} {s : State} (h : s.mem.wf) :
    Result.canonical (execSpawn d a b ta tb s) := by
  refine State.canonical_issue h ?_
  dsimp only
  split
  · simp [h]
  · split
    · simp [h]
    · split
      · split
        · simp [h]
        · split <;> simp [h]
      · simp [h]

@[simp] theorem canonical_execQuit {_ta _tb : Bool} {s : State} (h : s.mem.wf) :
    Result.canonical (execQuit _ta _tb s) :=
  State.canonical_issue h (by simp [h])

@[simp] theorem canonical_execBeat {_ta _tb : Bool} {s : State} (h : s.mem.wf) :
    Result.canonical (execBeat _ta _tb s) :=
  State.canonical_issue h (by simp [h])

@[simp] theorem canonical_execIfence {_ta _tb : Bool} {s : State} (h : s.mem.wf) :
    Result.canonical (execIfence _ta _tb s) := by
  refine State.canonical_issue h ?_
  dsimp only
  split <;> simp [h]

/-! ### Machine/Partition.lean -/

@[simp] theorem canonical_execSignedConfigurationRecord {rec_ : List Byte} {s : State} (h : s.mem.wf) :
    Result.canonical (execSignedConfigurationRecord rec_ s) := by
  unfold execSignedConfigurationRecord
  split
  · exact h
  · split
    · exact h
    · rename_i t e
      have ht : t.mem.wf := State.wf_applyConfig h e
      exact ht

@[simp] theorem canonical_execRakeItemDone {s : State} (h : s.mem.wf) : Result.canonical (execRakeItemDone s) := by
  unfold execRakeItemDone
  dsimp only
  (repeat' split) <;> simp [h]

@[simp] theorem canonical_execRakejob {value : Word} {s : State} (h : s.mem.wf) :
    Result.canonical (execRakejob value s) := by
  simp [execRakejob, h]

@[simp] theorem canonical_execRakestat {value : Word} {s : State} (h : s.mem.wf) :
    Result.canonical (execRakestat value s) := by
  simp [execRakestat, h]

theorem canonical_serveRequest {part k : Nat} {s : State} {f : List Byte → State → Nat × State} (h : s.mem.wf)
    (hf : ∀ bs s, s.mem.wf → (f bs s).2.mem.wf) : (serveRequest part k s f).canonical := by
  unfold serveRequest
  split
  · exact h
  · rename_i bs _
    exact State.wf_answerRequest (hf bs _ (State.wf_takeRequest h))

@[simp] theorem canonical_execRoot {part slot : Nat} {s : State} (h : s.mem.wf) :
    Result.canonical (execRoot part slot s) := by
  refine canonical_serveRequest h fun bs s h => ?_
  dsimp only
  (repeat' split) <;> simp [h]

@[simp] theorem canonical_execFrames {part slot : Nat} {s : State} (h : s.mem.wf) :
    Result.canonical (execFrames part slot s) := by
  refine canonical_serveRequest h fun bs s h => ?_
  extract_lets +onlyGivenNames n colours own
  split
  · exact h
  · extract_lets +onlyGivenNames fs
    split
    · exact h
    · exact State.wf_foldl (fun _ _ ht => State.wf_slotWord ht)
        (State.wf_foldl (fun _ _ ht => State.wf_allot ht) h)

@[simp] theorem canonical_execRelease {part slot : Nat} {s : State} (h : s.mem.wf) :
    Result.canonical (execRelease part slot s) := by
  refine canonical_serveRequest h fun bs s h => ?_
  dsimp only
  split
  · exact h
  · split
    · exact h
    · exact State.wf_foldl (fun _ _ ht => State.wf_freeFrame ht) h

@[simp] theorem canonical_execRetire {part slot : Nat} {s : State} (h : s.mem.wf) :
    Result.canonical (execRetire part slot s) := by
  unfold execRetire
  dsimp only
  (repeat' split) <;> simp [h]

@[simp] theorem canonical_execFunctionLevelReset {vf : Nat} {s : State} (h : s.mem.wf) :
    Result.canonical (execFunctionLevelReset vf s) := by
  unfold execFunctionLevelReset
  dsimp only
  (repeat' split) <;> simp [h]

/-! ### Machine/Resize.lean -/

@[simp] theorem canonical_execOwnership {part slot : Nat} {s : State} (h : s.mem.wf) :
    Result.canonical (execOwnership part slot s) := by
  refine canonical_serveRequest h fun bs s h => ?_
  dsimp only
  (repeat' split) <;> simp [h]

@[simp] theorem canonical_execSlotHandover {core slot : Nat} {s : State} (h : s.mem.wf) :
    Result.canonical (execSlotHandover core slot s) := by
  unfold execSlotHandover
  split
  · exact h
  · dsimp only
    split
    · simp [h]
    · refine State.wf_foldl (fun t g ht => ?_) h
      split
      · split <;> simpa using ht
      · exact ht

@[simp] theorem canonical_execSlotScrubDone {core slot : Nat} {s : State} (h : s.mem.wf) :
    Result.canonical (execSlotScrubDone core slot s) := by
  simp [execSlotScrubDone, h]

@[simp] theorem canonical_execPageMove {part pan page : Nat} {s : State} (h : s.mem.wf) :
    Result.canonical (execPageMove part pan page s) := by
  unfold execPageMove
  dsimp only
  (repeat' split) <;> simp [h]

@[simp] theorem canonical_execPageMoveRetire {part pan page : Nat} {s : State} (h : s.mem.wf) :
    Result.canonical (execPageMoveRetire part pan page s) := by
  unfold execPageMoveRetire
  dsimp only
  split
  · exact h
  · simp [Memory.wf_copyFrame, h]

@[simp] theorem canonical_execCellarClear {pan cellar : Nat} {s : State} (h : s.mem.wf) :
    Result.canonical (execCellarClear pan cellar s) := by
  unfold execCellarClear
  extract_lets +onlyGivenNames x s1 s2 gain
  have h2 : s2.mem.wf := by simp [s2, s1, Memory.wf_clearCellar, h]
  split
  · simp [h2]
  · simpa using h2

@[simp] theorem canonical_execWaySweep {slice : Nat} {s : State} (h : s.mem.wf) :
    Result.canonical (execWaySweep slice s) := by
  unfold execWaySweep
  split
  · exact h
  · dsimp only
    (repeat' split) <;> simp [Memory.wf_evict, h]

@[simp] theorem canonical_execResized {part : Nat} {s : State} (h : s.mem.wf) :
    Result.canonical (execResized part s) := by
  unfold execResized
  split <;> simp [h]

/-! ### Machine/Outside.lean -/

@[simp] theorem canonical_execHostWrite {vf addr : Nat} {data : List Byte} {s : State} (h : s.mem.wf) :
    Result.canonical (execHostWrite vf addr data s) := by
  unfold execHostWrite
  split
  · exact h
  · split
    · exact h
    · rename_i v _
      have hw := s.outsideWrite_mem v.part s.hostDie none addr data (partLabel v.part)
      split <;> rename_i e <;> rw [e] at hw
      · exact (congrArg Memory.wf hw).trans h
      · simpa using (congrArg Memory.wf hw).trans h

@[simp] theorem canonical_execHostRead {vf addr len : Nat} {s : State} (h : s.mem.wf) :
    Result.canonical (execHostRead vf addr len s) := by
  unfold execHostRead
  split
  · exact h
  · split
    · simp [h]
    · dsimp only
      split
      · simp [h]
      · split
        · simp [h]
        · split
          · simp [h]
          · split
            · simp [h]
            · split
              · simp [h]
              · rename_i e; simp [State.sluice_mem e, h]

@[simp] theorem canonical_execFabricPacketArrival {pkt : FabricPacket} {s : State} (h : s.mem.wf) :
    Result.canonical (execFabricPacketArrival pkt s) := by
  unfold execFabricPacketArrival
  split
  · simp [h]
  · simp [h]
  · split
    · split
      · simp [h]
      · dsimp only
        split
        all_goals
          rename_i e
          have hw := (congrArg (fun x => x.2.mem) e).symm.trans (State.outsideWrite_mem ..)
          have ht := (congrArg Memory.wf hw).trans h
        · split <;> simpa using ht
        · simpa using ht
    · simp [h]

@[simp] theorem canonical_execLinkFailure {port : Nat} {s : State} (h : s.mem.wf) :
    Result.canonical (execLinkFailure port s) := by
  simp [execLinkFailure, h]

@[simp] theorem canonical_execPortAttestation {port : Nat} {s : State} (h : s.mem.wf) :
    Result.canonical (execPortAttestation port s) := by
  unfold execPortAttestation
  split <;> simp [h]

@[simp] theorem canonical_execDeviceReset {s : State} : Result.canonical (execDeviceReset s) := by
  simp [execDeviceReset]

@[simp] theorem canonical_execPowerOn {fw dm cfg : List Byte} {s : State} :
    Result.canonical (execPowerOn fw dm cfg s) := by
  unfold execPowerOn
  extract_lets +onlyGivenNames s1 error measured mrs src sec src2 dev s2
  have h2 : s2.mem.wf := State.wf_restarted s1 sec dev
  split
  · exact h2
  · simpa using h2

@[simp] theorem canonical_execAttestationRequest {nonce : List Byte} {s : State} (h : s.mem.wf) :
    Result.canonical (execAttestationRequest nonce s) := by
  simp [execAttestationRequest, h]

/-! ## Dispatch, turns and the step -/

/-- Every instruction and event keeps the stores canonical: the instructions of one shared operation together, then each
handler by its own lemma. -/
theorem canonical_exec {i : Instr} {s : State} (h : s.mem.wf) : Result.canonical (exec i s) := by
  cases i with
  | add | sub | and | or | xor | sll | srl | sra | rot | min | max | minu | maxu | slt | sltu | seq
  | mul | mulh | mulhu | div | divu | rem | remu | padd | paddSs | paddUs | psub | psubSs | psubUs
  | pmul | pmulSs | pmin | pminU | pmax | pmaxU | pshLl | pshRl | pshRa | pcmpEq | pcmpLt | pcmpLtu
  | pabsd | ppack | ppackSs | ppackUs | mulq | bext | bextu =>
    unfold exec; exact canonical_aluR h
  | sel | bins =>
    unfold exec; exact canonical_aluRd h
  | extSB | extSH | extSW | extZB | extZH | extZW | slli | srli | srai | roti | cabs2 | sat | satu | clz
  | ctz | popc | bswap =>
    unfold exec; exact canonical_alu1 h
  | addi | andi | ori | xori | slti | sltiu =>
    unfold exec; exact canonical_aluI h
  | lui | addpc =>
    unfold exec; exact canonical_aluU h
  | cmul | cmac | cmacj | cCmac =>
    unfold exec; exact canonical_cplx h
  | fadd | fsub | fmul | fma | fdiv | fsqrt | cFadd | cFmul =>
    unfold exec; exact canonical_fpArith h
  | fmin | fmax =>
    unfold exec; exact canonical_fpMinMax h
  | fcmpEq | fcmpLt | fcmpLe =>
    unfold exec; exact canonical_fpCompare h
  | fclass =>
    unfold exec; exact canonical_fpPlain h
  | amoAdd | amoAnd | amoOr | amoXor | amoMin | amoMax | amoMinu | amoMaxu | amoSwap | amoFadd32 =>
    unfold exec; exact canonical_amo h
  | redAdd | redAnd | redOr | redXor | redMin | redMax | redMinu | redMaxu | redSwap | redFadd32 =>
    unfold exec; exact canonical_reduce h
  | fencePan | fenceTenant | fenceSystem | fenceGlobal =>
    unfold exec; exact canonical_fence h
  | tlbinvTrellis | tlbinvPan | tlbinvPartition | tlbinvPackage =>
    unfold exec; exact canonical_tlbinv h
  | beq | bne | blt | bge | bltu | bgeu =>
    unfold exec; exact canonical_branch h
  | vadd | vsub | vmul | vmin | vmax | vand | vor | vxor | vshLl | vshRl | vshRa | vcmul | cvAdd | cvSub
  | cvAnd | cvOr | cvXor | cvSll | cvSrl | cvSra | cvMul | cvMin | cvMax =>
    unfold exec; exact canonical_vbinary h
  | vmac | vcmac | vmv | cvMv | cvAddi =>
    unfold exec; exact canonical_velementwise h
  | vcmpEq | vcmpLt | vcmpLtu =>
    unfold exec; exact canonical_vcompare h
  | vsel =>
    unfold exec; exact canonical_vrotate h
  | vredAdd | vredMin | vredMax | vredFadd =>
    unfold exec; exact canonical_vreduce h
  | vfadd | vfmul | vfma | vfmin | vfmax | vcvt | cvFadd | cvFmul =>
    unfold exec; exact canonical_vrounding h
  | vld | vlds | vldx =>
    unfold exec; exact canonical_vload h
  | vst | vstx =>
    unfold exec; exact canonical_vstoreTo h
  | vsfuExp2 | vsfuLog2 | vsfuRcp | vsfuRsqrt | vsfuSin | vsfuCos | vsfuTanh | vsfuSigmoid =>
    unfold exec; exact canonical_vsfu h
  | collAllreduce | collAllgather | collReducescatter =>
    unfold exec; exact canonical_collSubmit h
  | pmm | pzero =>
    unfold exec; exact canonical_pressSubmit h
  | tdirPut | tdirDel | tmove =>
    unfold exec; exact canonical_dirIssue h
  | solicitSum | solicitMin | solicitMax | solicitOr | solicitCount =>
    unfold exec; exact canonical_solicit h
  | cAdd | cSub | cAnd | cOr | cXor | cSll | cSrl | cSra | cMul | cMin | cMax =>
    unfold exec; exact canonical_aluC h
  | _ => simp [h]

/-! ### Machine/Turn.lean -/

@[simp] theorem State.canonical_runWord {s : State} {h0 h1 : Nat} (h : s.mem.wf) : (s.runWord h0 h1).canonical := by
  unfold State.runWord
  dsimp only
  split
  · exact canonical_exec h
  · simp [h]

@[simp] theorem State.canonical_runHere {s : State} (h : s.mem.wf) : s.runHere.canonical := by
  unfold State.runHere
  dsimp only
  split <;> simp [h]

@[simp] theorem Result.canonical_account {r : Result} {part gang pan : Nat} (h : r.canonical) :
    (r.account part gang pan).canonical := by
  cases r with
  | next s => simpa [Result.account] using h
  | fault f => trivial
  | refused f => trivial

@[simp] theorem State.canonical_freshTurn {s : State} (h : s.mem.wf) : s.freshTurn.canonical := by
  unfold State.freshTurn
  split
  · simp [h]
  · split <;> simp [h]

@[simp] theorem Result.canonical_thenReady {r : Result} (h : r.canonical) : r.thenReady.canonical := by
  cases r with
  | next s =>
    have h : s.mem.wf := h
    unfold Result.thenReady
    dsimp only
    split
    · exact State.canonical_freshTurn (by simpa using h)
    · exact h
  | fault f => trivial
  | refused f => trivial

@[simp] theorem State.canonical_readyTurn {s : State} (h : s.mem.wf) : s.readyTurn.canonical := by
  unfold State.readyTurn
  split
  · simp [h]
  · split <;> simp [h]

@[simp] theorem Result.canonical_stopsAgain {r : Result} {run : Run} (h : r.canonical) :
    (r.stopsAgain run).canonical := by
  cases r with
  | next s => simpa [Result.stopsAgain] using h
  | fault f => trivial
  | refused f => trivial

@[simp] theorem State.canonical_completingTurn {s : State} (h : s.mem.wf) : s.completingTurn.canonical :=
  Result.canonical_stopsAgain (State.canonical_runHere h)

@[simp] theorem State.canonical_threadTurn {s : State} (h : s.mem.wf) : s.threadTurn.canonical := by
  unfold State.threadTurn
  dsimp only
  (repeat' split) <;> simp [h]

@[simp] theorem State.canonical_takeTurn {s : State} (h : s.mem.wf) : s.takeTurn.canonical := by
  refine Result.canonical_account (State.canonical_threadTurn ?_)
  split <;> exact h

@[simp] theorem State.wf_nextCycle {s : State} (h : s.mem.wf) : s.nextCycle.mem.wf := by
  unfold State.nextCycle
  dsimp only
  split <;> simp [h]

@[simp] theorem State.wf_advance {s : State} (h : s.mem.wf) : s.advance.mem.wf := by
  unfold State.advance
  dsimp only
  split <;> simp [h]

@[simp] theorem State.canonical_haltedStep {s : State} (h : s.mem.wf) : s.haltedStep.canonical := by
  unfold State.haltedStep
  split
  · exact canonical_exec h
  · exact h
  · exact h

@[simp] theorem State.canonical_turnStep {s : State} (h : s.mem.wf) : s.turnStep.canonical := by
  unfold State.turnStep
  split <;> simp [h]

@[simp] theorem State.canonical_dueStep {s : State} {i : Instr} {rest : List Instr} (h : s.mem.wf) :
    (s.dueStep i rest).canonical := by
  unfold State.dueStep
  dsimp only
  split
  · simp [h]
  · exact canonical_exec h

@[simp] theorem State.canonical_stepOnce {s : State} (h : s.mem.wf) : s.stepOnce.canonical := by
  unfold State.stepOnce
  split
  · exact State.canonical_haltedStep h
  · split
    · exact State.canonical_dueStep h
    · exact State.canonical_turnStep (by simpa using h)

end Sys2Proof.Machine

namespace Sys2Proof
open Machine

/-- Settles O57: the step taken from a canonical state is canonical, whichever event or thread's turn it is. -/
theorem stepKeepsCanonical : Obligations.StepKeepsCanonical := by
  intro s s' h e
  have hs : s.stepOnce.canonical := State.canonical_stepOnce h
  rwa [show s.stepOnce = .next s' from e] at hs

end Sys2Proof

/-! # A pass of placement, and the fold of a gang (O38)

The pass is followed through the layers of the launch unit: what a changed partition, gang or slot reads as, what the start of
a gang's threads leaves, what `placeGang` leaves, and then the treatment of a Pan. With no gang folded and no Pan kept, a Pan
takes its first candidate and is treated again, and finds the launch with nothing more to place. The fold has one equation for
each of its branches. -/

namespace Sys2Proof.Machine

/-! ## Changed partitions, gangs and slots read back -/

/-- Of records with a key, the one with a given key after the records of that key have changed and kept it. -/
theorem find?_map_ofKey {α : Type} {key : α → Nat} {n : Nat} {f : α → α} (hf : ∀ x, key (f x) = key x) (l : List α) :
    ((l.map fun x => if key x = n then f x else x).find? fun x => key x = n) = (l.find? fun x => key x = n).map f := by
  induction l with
  | nil => rfl
  | cons x l ih =>
    by_cases hx : key x = n
    · simp [hx, hf]
    · simpa [hx] using ih

theorem State.part?_modPart (s : State) (n : Nat) {f : Part → Part} (hf : ∀ p, (f p).num = p.num) :
    (s.modPart n f).part? n = (s.part? n).map f :=
  find?_map_ofKey hf s.parts

theorem State.gang?_modGang (s : State) (n : Nat) {f : Gang → Gang} (hf : ∀ g, (f g).gid = g.gid) :
    (s.modGang n f).gang? n = (s.gang? n).map f :=
  find?_map_ofKey hf s.gangs

/-- A partition after one of its jobs has changed. -/
def Part.modJob (p : Part) (num : Nat) (f : Job → Job) : Part :=
  { p with unit := { p.unit with jobs := p.unit.jobs.map fun j => if j.num = num then f j else j } }

theorem State.part?_modJob (s : State) (n num : Nat) (f : Job → Job) :
    (s.modJob n num f).part? n = (s.part? n).map fun p => p.modJob num f :=
  s.part?_modPart n fun _ => rfl

theorem State.slot_setSlot_same (s : State) {x : Slot} (h : x.state ≠ .free) : (s.setSlot x).slot x.core x.slot = x := by
  simp [State.setSlot, State.slot, h]

theorem State.slot_setSlot_other (s : State) {x : Slot} {core slot : Nat} (h : ¬(x.core = core ∧ x.slot = slot)) :
    (s.setSlot x).slot core slot = s.slot core slot := by
  have rest : (s.slots.filter fun y => !(y.core = x.core && y.slot = x.slot)).find? (fun y => y.core = core && y.slot = slot) =
      s.slots.find? fun y => y.core = core && y.slot = slot := by
    rw [List.find?_filter]
    congr 1; funext y
    rw [Bool.eq_iff_iff]
    simp only [Bool.and_eq_true, Bool.not_eq_true', Bool.and_eq_false_iff, decide_eq_true_eq, decide_eq_false_iff_not,
      and_iff_right_iff_imp]
    rintro ⟨rfl, rfl⟩
    exact not_and_or.mp fun e => h ⟨e.1.symm, e.2.symm⟩
  unfold State.slot State.setSlot
  split
  · exact congrArg (Option.getD · _) rest
  · exact congrArg (Option.getD · _) ((List.find?_cons_of_neg (by simpa using h)).trans rest)

/-! ## What the start of threads leaves (R15, R58, R62) -/

/-- A thread as it begins in a slot, with its number of the model. -/
def Thread.begun (b : Beginning) (i : Ident) (uid core slot : Nat) : Thread :=
  { regs := b.regs, pc := b.pc
    ctl := { Ctl.start with clabel := b.clabel, live := b.live, seed := b.seed, seedLabel := b.seedLabel }
    trap := ⟨0, 0, 0, 0, b.trapvec, 0⟩
    claim := Claim.none
    ident := { i with uid := uid, pan := corePan core, trellis := coreTrellis core, core0 := core, slot0 := slot }
    core := core, slot := slot, run := .ready, prog := .fresh, pending := [], second := [], late := none
    transit := none, proxy := false, patched := 0, acqFill := none, acqAcc := none, lastPerf := 0, stamp := 0 }

theorem State.startThread_others (s : State) (b : Beginning) (i : Ident) (core slot : Nat) :
    (s.startThread b i core slot).others = s.others ++ [Thread.begun b i s.time.next core slot] := rfl

theorem State.slot_startThread_same (s : State) (b : Beginning) (i : Ident) (core slot : Nat) :
    (s.startThread b i core slot).slot core slot = ⟨core, slot, .occupied, false, 0, []⟩ :=
  s.fresh.2.slot_setSlot_same (x := ⟨core, slot, .occupied, false, 0, []⟩) (by simp)

/-- A start gives no other slot back. -/
theorem State.occupied_startThread {s : State} {core slot : Nat} (h : (s.slot core slot).state = .occupied) (b : Beginning) (i : Ident)
    (core' slot' : Nat) : ((s.startThread b i core' slot').slot core slot).state = .occupied := by
  by_cases e : core' = core ∧ slot' = slot
  · obtain ⟨rfl, rfl⟩ := e
    rw [s.slot_startThread_same]
  · exact (congrArg Slot.state (s.fresh.2.slot_setSlot_other (x := ⟨core', slot', .occupied, false, 0, []⟩) e)).trans h

/-! ## The threads of a new gang (R15, R61, R62) -/

/-- The gang that a job places in a Pan in a cycle, with its barriers in the units given. -/
def Job.gang (j : Job) (h : Header) (part pan gid now : Nat) (units : List Nat) : Gang :=
  { gid := gid, part := part, pan := pan, num := BitVec.ofNat 64 (j.next + j.num * 2 ^ 32), seq := j.num, image := j.image
    vlanes := h.vlanes, nbars := h.barriers
    trapvec := if h.trapoff = 0xFFFFFFFF then none else some (BitVec.ofNat 64 (j.image + 64 + h.trapoff))
    livemask := h.livemask, patches := h.patches, plabel := h.plabel, js := j.jobseed
    size := j.gangsize, affinity := j.affinity, placed := now, handler := j.inv, policy0 := j.policy0
    killed := none, responder := false
    bars := (units.take h.barriers).map fun u => ⟨0, 0, j.gangsize, partLabel part, u⟩
    perf := List.replicate 8 0, folding := false, forced := false, folded := none, cmds := [] }

/-- What tells a thread of a gang from the others, before it has a place. -/
def Job.memberIdent (j : Job) (g : Gang) (lthread : Nat) : Ident :=
  ⟨0, g.part, g.gid, g.num, lthread, 0, 0, 0, 0, j.jobseed, 0, 0, false⟩

/-- A thread of a new gang begins: x is its LTHREAD, with its core and slot. -/
def State.startMember (j : Job) (h : Header) (g : Gang) (s : State) (x : Nat × Nat × Nat) : State :=
  s.startThread (j.beginning h g.part x.1 (s.gangVec g)) (j.memberIdent g x.1) x.2.1 x.2.2

/-- A thread is the member of a new gang that begins with an LTHREAD in a core and slot. -/
def Thread.IsMember (j : Job) (h : Header) (g : Gang) (x : Nat × Nat × Nat) (t : Thread) : Prop :=
  ∃ vec uid, t = Thread.begun (j.beginning h g.part x.1 vec) (j.memberIdent g x.1) uid x.2.1 x.2.2

section Members
variable (j : Job) (h : Header) (g : Gang)

/-- What no start of a member changes, their starts together do not change. -/
theorem State.startMembers_keep {α : Type} {π : State → α} (hπ : ∀ s x, π (State.startMember j h g s x) = π s)
    (l : List (Nat × Nat × Nat)) (s : State) : π (l.foldl (State.startMember j h g) s) = π s := by
  induction l generalizing s with
  | nil => rfl
  | cons x l ih => exact (ih _).trans (hπ s x)

theorem State.startMembers_t (l : List (Nat × Nat × Nat)) (s : State) : (l.foldl (State.startMember j h g) s).t = s.t :=
  State.startMembers_keep j h g (π := State.t) (fun _ _ => rfl) l s

theorem State.startMembers_gangs (l : List (Nat × Nat × Nat)) (s : State) :
    (l.foldl (State.startMember j h g) s).gangs = s.gangs :=
  State.startMembers_keep j h g (π := State.gangs) (fun _ _ => rfl) l s

theorem State.startMembers_parts (l : List (Nat × Nat × Nat)) (s : State) :
    (l.foldl (State.startMember j h g) s).parts = s.parts :=
  State.startMembers_keep j h g (π := State.parts) (fun _ _ => rfl) l s

theorem State.startMembers_cycle (l : List (Nat × Nat × Nat)) (s : State) :
    (l.foldl (State.startMember j h g) s).time.cycle = s.time.cycle :=
  State.startMembers_keep j h g (π := fun s => s.time.cycle) (fun _ _ => rfl) l s

/-- The members join the other threads in their order. -/
theorem State.startMembers_others (l : List (Nat × Nat × Nat)) (s : State) :
    ∃ ts, (l.foldl (State.startMember j h g) s).others = s.others ++ ts ∧ List.Forall₂ (Thread.IsMember j h g) l ts := by
  induction l generalizing s with
  | nil => exact ⟨[], by simp, .nil⟩
  | cons x l ih =>
    obtain ⟨ts, others, members⟩ := ih (State.startMember j h g s x)
    refine ⟨_ :: ts, ?_, .cons ⟨s.gangVec g, s.time.next, rfl⟩ members⟩
    rw [List.foldl_cons, others, State.startMember, State.startThread_others, List.append_assoc, List.singleton_append]

theorem State.occupied_startMembers {s : State} {core slot : Nat} (l : List (Nat × Nat × Nat))
    (o : (s.slot core slot).state = .occupied) : ((l.foldl (State.startMember j h g) s).slot core slot).state = .occupied := by
  induction l generalizing s with
  | nil => exact o
  | cons x l ih => exact ih (State.occupied_startThread o ..)

/-- The slot of every member is OCCUPIED when all have begun. -/
theorem State.startMembers_slot {l : List (Nat × Nat × Nat)} {x : Nat × Nat × Nat} (hx : x ∈ l) (s : State) :
    ((l.foldl (State.startMember j h g) s).slot x.2.1 x.2.2).state = .occupied := by
  induction hx generalizing s with
  | head l =>
    refine State.occupied_startMembers j h g l ?_
    rw [State.startMember, State.slot_startThread_same]
  | tail y _ ih => exact ih _

end Members

theorem seedOf_ne_zero (js : Word) (n : Nat) : seedOf js n ≠ 0 := by
  unfold seedOf
  dsimp only
  split
  · decide
  · assumption

/-- A member of a launch's gang begins ready, in task mode at the image's entry, with its parameter and number in g1 and g2 and a
seed (R15, R159). -/
theorem Thread.IsMember.begins {j : Job} {h : Header} {g : Gang} {x : Nat × Nat × Nat} {t : Thread} (m : t.IsMember j h g x)
    (hinv : j.inv = none) :
    (t.core, t.slot) = x.2 ∧ t.run = .ready ∧ t.mode = 0 ∧ t.ident.gang = g.gid ∧ t.ident.lthread = x.1 ∧
      t.pc = BitVec.ofNat 64 (j.image + 64 + h.entry) ∧ (t.reg 1).val = (if h.paramsize = 0 then 0 else BitVec.ofNat 64 j.param) ∧
      (t.reg 2).val = BitVec.ofNat 64 x.1 ∧ t.ctl.seed ≠ 0 := by
  obtain ⟨vec, uid, rfl⟩ := m
  refine ⟨rfl, rfl, show fieldOf 0 0 2 = 0 by decide, rfl, rfl, rfl, ?_, ?_, seedOf_ne_zero j.jobseed x.1⟩ <;>
    simp [Thread.begun, Thread.reg, Job.beginning, hinv, startRegs, GReg.start]

/-! ## The placement of a new gang (R15, R62) -/

/-- A job after one more of its gangs has been placed. -/
def Job.oneMorePlaced (now : Nat) (j : Job) : Job :=
  { j with next := j.next + 1, allPlaced := if j.next + 1 = j.gangcount then some now else j.allPlaced }

/-- The gang that `placeGang` adds. -/
def State.newGang (s : State) (part pan : Nat) (j : Job) (h : Header) (units : List Nat) : Gang :=
  j.gang h part pan s.time.next s.time.cycle units

/-- The numbers of a gang's threads with their places. -/
def Job.members (j : Job) (places : List (Nat × Nat)) : List (Nat × Nat × Nat) := List.zip (List.range j.gangsize) places

theorem Job.members_getElem? {j : Job} {places : List (Nat × Nat)} {k : Nat} (hk : k < j.gangsize) (hp : k < places.length) :
    (j.members places)[k]? = some (k, places[k]) := by
  simp [Job.members, hk, hp]

section Placing
variable (s : State) (part pan : Nat) (j : Job) (h : Header) (places : List (Nat × Nat)) (units : List Nat)

/-- The state in which the threads of the gang that `placeGang` adds begin. -/
def State.withNewGang : State := { s.fresh.2 with gangs := s.gangs ++ [s.newGang part pan j h units] }

theorem State.placeGang_eq :
    s.placeGang part pan j h places units =
      ((j.members places).foldl (State.startMember j h (s.newGang part pan j h units)) (s.withNewGang part pan j h units)).modJob
        part j.num (Job.oneMorePlaced s.time.cycle) := by
  have cycle := State.startMembers_cycle j h (s.newGang part pan j h units) (j.members places) (s.withNewGang part pan j h units)
  rw [show s.time.cycle = (s.withNewGang part pan j h units).time.cycle from rfl, ← cycle]
  rfl

theorem State.placeGang_t : (s.placeGang part pan j h places units).t = s.t := by
  rw [s.placeGang_eq]
  exact State.startMembers_t ..

theorem State.placeGang_gangs : (s.placeGang part pan j h places units).gangs = s.gangs ++ [s.newGang part pan j h units] := by
  rw [s.placeGang_eq]
  exact State.startMembers_gangs ..

theorem State.placeGang_part? :
    (s.placeGang part pan j h places units).part? part =
      (s.part? part).map fun p => p.modJob j.num (Job.oneMorePlaced s.time.cycle) := by
  rw [s.placeGang_eq, State.part?_modJob, State.part?, State.startMembers_parts]
  rfl

theorem State.placeGang_others :
    ∃ ts, (s.placeGang part pan j h places units).others = s.others ++ ts ∧
      List.Forall₂ (Thread.IsMember j h (s.newGang part pan j h units)) (j.members places) ts := by
  rw [s.placeGang_eq]
  exact State.startMembers_others ..

theorem State.placeGang_slot {x : Nat × Nat × Nat} (hx : x ∈ j.members places) :
    ((s.placeGang part pan j h places units).slot x.2.1 x.2.2).state = .occupied := by
  rw [s.placeGang_eq]
  exact State.startMembers_slot j h _ hx _

theorem State.placeGang_others_length :
    (s.placeGang part pan j h places units).others.length = s.others.length + min j.gangsize places.length := by
  obtain ⟨ts, others, members⟩ := s.placeGang_others part pan j h places units
  simp [others, ← members.length_eq, Job.members]

/-- The thread of each number stands behind the other threads, at its number, and has its place. -/
theorem State.placeGang_member {k : Nat} (hk : k < j.gangsize) (hp : k < places.length) :
    ∃ t, (s.placeGang part pan j h places units).others[s.others.length + k]? = some t ∧
      t.IsMember j h (s.newGang part pan j h units) (k, places[k]) ∧
      ((s.placeGang part pan j h places units).slot places[k].1 places[k].2).state = .occupied := by
  obtain ⟨ts, others, members⟩ := s.placeGang_others part pan j h places units
  have hx := Job.members_getElem? hk hp
  obtain ⟨hkm, hxm⟩ := List.getElem?_eq_some_iff.mp hx
  have hkt : k < ts.length := members.length_eq ▸ hkm
  have member := members.get hkm hkt
  rw [List.get_eq_getElem, hxm] at member
  refine ⟨ts[k], ?_, member, s.placeGang_slot part pan j h places units (List.mem_of_getElem? hx)⟩
  rw [others, List.getElem?_append_right (Nat.le_add_right ..), Nat.add_sub_cancel_left, List.getElem?_eq_getElem hkt]

end Placing

/-! ## The treatment of a Pan (R47) -/

section Unfolded
variable {s : State} {n pan : Nat} {j : Job} {h : Header} (unfolded : ∀ g ∈ s.gangs, g.folded = none)
include unfolded

theorem State.foldedGang_eq_none : s.foldedGang n pan j = none := by
  have none_folded : (s.gangs.filter fun g => g.part = n && g.pan = pan && g.seq = j.num && !g.responder && g.folded.isSome) = [] := by
    simp +contextual [unfolded]
  simp [State.foldedGang, none_folded]

theorem State.placeResponders_eq_self : s.placeResponders n pan = s := by
  have none_folded : (s.gangs.filter fun g => g.part = n && g.pan = pan && g.responder && g.folded.isSome) = [] := by
    simp +contextual [unfolded]
  simp [State.placeResponders, none_folded]

/-- With no gang folded a job is a candidate by a gang still to be placed. -/
theorem State.isCandidate_eq : s.isCandidate n j = (j.eligible.isSome && !j.closed && (j.next < j.gangcount && !j.cancelled)) := by
  have none_folded : (s.gangs.any fun g => g.part = n && g.seq = j.num && !g.responder && g.folded.isSome) = false := by
    simp +contextual [unfolded]
  simp [State.isCandidate, none_folded]

/-- A new gang that fits is placed in the first places and units. -/
theorem State.tryPlace_new (hnext : j.next < j.gangcount) (hcancel : j.cancelled = false)
    (hplaces : j.gangsize ≤ (s.freeSlots n pan j.affinity).length) (hunits : h.barriers ≤ (s.freeUnits pan).length) :
    s.tryPlace n pan j h =
      some (s.placeGang n pan j h ((s.freeSlots n pan j.affinity).take j.gangsize) (s.freeUnits pan)) := by
  unfold State.tryPlace
  rw [State.foldedGang_eq_none unfolded]
  simp [hnext, hcancel, hplaces, hunits, Nat.not_lt.mpr]

/-- The first candidate that may take the Pan, has started and fits is placed, and the Pan is treated again. -/
theorem State.panStep_new (hmask : (s.jobMask n j).testBit pan = true) (hhdr : j.hdr = some h) (hnext : j.next < j.gangcount)
    (hcancel : j.cancelled = false) (hplaces : j.gangsize ≤ (s.freeSlots n pan j.affinity).length)
    (hunits : h.barriers ≤ (s.freeUnits pan).length) (js : List Job) :
    s.panStep n pan (j :: js) =
      (true, s.placeGang n pan j h ((s.freeSlots n pan j.affinity).take j.gangsize) (s.freeUnits pan)) := by
  have busy : s.idleIn n pan j = false := by simp [State.idleIn, hnext, hcancel]
  have started : s.startJob n j = (some h, s) := by simp [State.startJob, hhdr]
  simp [State.panStep, hmask, busy, started, State.tryPlace_new unfolded hnext hcancel hplaces hunits]

end Unfolded

/-- A new gang is not folded. -/
theorem State.placeGang_unfolded {s : State} (unfolded : ∀ g ∈ s.gangs, g.folded = none) (n pan : Nat) (j : Job) (h : Header)
    (places : List (Nat × Nat)) (units : List Nat) : ∀ g ∈ (s.placeGang n pan j h places units).gangs, g.folded = none := by
  rw [State.placeGang_gangs]
  intro g hg
  rcases List.mem_append.mp hg with old | new
  · exact unfolded g old
  · rw [List.mem_singleton.mp new]
    rfl

/-- What a pass does with a Pan: one that is kept waits, another is treated (R47, R48). -/
def State.treatPan (n : Nat) (s : State) (pan : Nat) : State :=
  match s.keptPan n pan with
  | (false, s) => s
  | (true, s) => (s.placeResponders n pan).panPass n pan 65536

section Pass
variable {s : State} {n : Nat} {p : Part} (hp : s.part? n = some p)
include hp

theorem State.candidates_eq_nil (none_waits : ∀ j ∈ p.unit.jobs, s.isCandidate n j = false) : s.candidates n = [] := by
  have e : p.unit.jobs.filter (fun j => s.isCandidate n j) = [] := by simpa using none_waits
  simp [State.candidates, hp, e, sortBy]

theorem State.candidates_singleton {j : Job} (hjobs : p.unit.jobs = [j]) (hj : s.isCandidate n j = true) :
    s.candidates n = [j] := by
  simp [State.candidates, hp, hjobs, hj, sortBy, insertBy]

theorem State.keptPan_of_no_folds (hfolds : p.unit.folds = []) (pan : Nat) : s.keptPan n pan = (true, s) := by
  simp [State.keptPan, hp, hfolds]

/-- A Pan that is not kept, in a part without folded gangs, is treated at once. -/
theorem State.treatPan_eq (hfolds : p.unit.folds = []) (unfolded : ∀ g ∈ s.gangs, g.folded = none) (pan : Nat) :
    State.treatPan n s pan = s.panPass n pan 65536 := by
  rw [State.treatPan, State.keptPan_of_no_folds hp hfolds]
  exact congrArg (State.panPass · n pan 65536) (State.placeResponders_eq_self unfolded)

/-- A pass in which every candidate has started treats the Pans in their order. -/
theorem execLaunchPlacementPass_eq (started : ∀ j ∈ s.candidates n, j.hdr ≠ none) :
    execLaunchPlacementPass n s = .next ((bitsOf 8 p.own.panmask).foldl (State.treatPan n) s) := by
  have lost : ((s.candidates n).filter fun j => j.hdr.isNone && s.jobMask n j = 0) = [] := by
    simp +contextual [started]
  unfold execLaunchPlacementPass
  rw [hp]
  dsimp only
  rw [lost]
  rfl

end Pass

/-- After its last gang has been placed a launch that was alone is no candidate. -/
theorem State.placeGang_candidates {s : State} {n : Nat} {p : Part} {j : Job} (hp : s.part? n = some p) (hjobs : p.unit.jobs = [j])
    (unfolded : ∀ g ∈ s.gangs, g.folded = none) (hnext : j.next + 1 = j.gangcount) (pan : Nat) (h : Header)
    (places : List (Nat × Nat)) (units : List Nat) : (s.placeGang n pan j h places units).candidates n = [] := by
  have still_unfolded := State.placeGang_unfolded unfolded n pan j h places units
  refine State.candidates_eq_nil ((State.placeGang_part? ..).trans (congrArg _ hp)) ?_
  simp [Part.modJob, hjobs, State.isCandidate_eq still_unfolded, Job.oneMorePlaced, hnext]

/-- A Pan without candidates is left as it is. -/
theorem State.panPass_of_no_candidates {s : State} {n : Nat} (hc : s.candidates n = []) (pan turns : Nat) :
    s.panPass n pan turns = s := by
  cases turns with
  | zero => rfl
  | succ _ => simp [State.panPass, hc, State.panStep]

/-- A Pan that has placed its one candidate is treated again and, without candidates, left. -/
theorem State.panPass_of_placed {s s' : State} {n pan : Nat} {l : List Job} (hc : s.candidates n = l)
    (hstep : s.panStep n pan l = (true, s')) (hc' : s'.candidates n = []) (turns : Nat) : s.panPass n pan (turns + 1) = s' := by
  rw [State.panPass, hc, hstep]
  exact State.panPass_of_no_candidates hc' pan turns

theorem bitsOf_two_pow {n : Nat} (hn : n < 8) : bitsOf 8 (2 ^ n) = [n] := by
  have : ∀ k : Fin 8, bitsOf 8 (2 ^ k.val) = [k.val] := by decide
  exact this ⟨n, hn⟩

/-! ## The pass (R15, R47, R61, R62) -/

/-- A pass of a partition without work. -/
theorem execLaunchPlacementPass_of_no_jobs {s : State} {n : Nat} {p : Part} (hp : s.part? n = some p) (hjobs : p.unit.jobs = [])
    (hfolds : p.unit.folds = []) (unfolded : ∀ g ∈ s.gangs, g.folded = none) : execLaunchPlacementPass n s = .next s := by
  have hc : s.candidates n = [] := State.candidates_eq_nil hp (by simp [hjobs])
  rw [execLaunchPlacementPass_eq hp (by simp [hc]), List.foldl_fixed']
  intro pan
  rw [State.treatPan_eq hp hfolds unfolded, State.panPass_of_no_candidates hc]

/-- A pass that finds a started launch with one gang to place, which fits the one Pan of the partition, places that gang and nothing
else. -/
theorem execLaunchPlacementPass_places {s : State} {p : Part} {j : Job} {h : Header} {n : Nat} (hp : s.part? p.num = some p)
    (hfolds : p.unit.folds = []) (unfolded : ∀ g ∈ s.gangs, g.folded = none) (hjobs : p.unit.jobs = [j])
    (heligible : j.eligible ≠ none) (hclosed : j.closed = false) (hcancel : j.cancelled = false) (hhdr : j.hdr = some h)
    (hnext : j.next + 1 = j.gangcount) (hown : p.own.panmask = 2 ^ n) (hn : n < 8) (hmask : j.panmask = 0)
    (hplaces : j.gangsize ≤ (s.freeSlots p.num n j.affinity).length) (hunits : h.barriers ≤ (s.freeUnits n).length) :
    execLaunchPlacementPass p.num s =
      .next (s.placeGang p.num n j h ((s.freeSlots p.num n j.affinity).take j.gangsize) (s.freeUnits n)) := by
  have remains : j.next < j.gangcount := by omega
  have hc : s.candidates p.num = [j] :=
    State.candidates_singleton hp hjobs (by
      simp [State.isCandidate_eq unfolded, Option.isSome_iff_ne_none, heligible, hclosed, hcancel, remains])
  have takes : (s.jobMask p.num j).testBit n = true := by simp [State.jobMask, hp, hmask, hown]
  have step := State.panStep_new unfolded takes hhdr remains hcancel hplaces hunits []
  have done := State.placeGang_candidates hp hjobs unfolded hnext n h ((s.freeSlots p.num n j.affinity).take j.gangsize) (s.freeUnits n)
  rw [execLaunchPlacementPass_eq hp (by simp [hc, hhdr]), hown, bitsOf_two_pow hn, List.foldl_cons, List.foldl_nil,
    State.treatPan_eq hp hfolds unfolded]
  exact congrArg Host.Outcome.next (State.panPass_of_placed hc step done 65535)

/-! ## The fold (R64) -/

/-- A fold that ends while no resize is in progress tells nobody. -/
theorem State.foldOver_of_no_resize (s : State) (h : s.dev.resize = none) (gid : Nat) : s.foldOver gid = s := by
  simp [State.foldOver, State.modResize, State.checkResize, h]

section Fold
variable {s : State} {g : Gang} (hg : s.gang? g.gid = some g) (part why : Nat)
include hg

theorem State.gang?_setFolding (b : Bool) :
    (s.modGang g.gid fun x => { x with folding := b }).gang? g.gid = some { g with folding := b } :=
  (s.gang?_modGang g.gid (f := fun x => { x with folding := b }) fun _ => rfl).trans (congrArg _ hg)

/-- A gang that may not be folded stays. -/
theorem execFold_refused (idle : g.folding = false) (hroom : s.canFold g = false) : execFold part g.gid why s = .next s := by
  simp [execFold, hg, idle, hroom]

/-- A gang that may be folded begins to, and is looked at 16 cycles later. -/
theorem execFold_begins (idle : g.folding = false) (hroom : s.canFold g = true) :
    execFold part g.gid why s =
      .next ((s.modGang g.gid fun x => { x with folding := true }).schedule (s.time.cycle + 16) (.fold part g.gid why)) := by
  simp [execFold, hg, idle, hroom]

/-- The fold of a gang that is forced to end, or killed, is given up. -/
theorem execFold_given_up (folding : g.folding = true) (ends : g.forced = true ∨ g.killed ≠ none) :
    execFold part g.gid why s = .next ((s.modGang g.gid fun x => { x with folding := false }).foldOver g.gid) := by
  have ends' : (g.forced || g.killed.isSome) = true := by simpa [Option.isSome_iff_ne_none] using ends
  simp only [execFold, hg, folding, ends', Bool.not_true, Bool.false_eq_true, if_false, if_true]

section InProgress
variable (folding : g.folding = true) (hforced : g.forced = false) (hkilled : g.killed = none)
  (near : ∀ t ∈ s.foldThreads g.gid, t.run ≠ .fencedAway)
include folding hforced hkilled near

/-- While a thread is still to be saved the fold is looked at again 16 cycles later. -/
theorem execFold_waits (unsaved : ∃ t ∈ s.foldThreads g.gid, t.run ≠ .saved) :
    execFold part g.gid why s = .next (s.schedule (s.time.cycle + 16) (.fold part g.gid why)) := by
  have away : ((s.foldThreads g.gid).filter fun t => t.run == .fencedAway) = [] := by simpa using near
  have all_saved : ((s.foldThreads g.gid).all fun t => t.run == .saved) = false := by simpa using unsaved
  simp [execFold, hg, folding, hforced, hkilled, away, all_saved]

/-- When all threads are saved and the engines quiet the last step of the fold is taken. -/
theorem execFold_finishes (saved : ∀ t ∈ s.foldThreads g.gid, t.run = .saved)
    (all_stopped : (s.foldThreads g.gid).length = s.gangSize g.gid) (quiet : s.enginesQuiet g.gid = true)
    (applied : ∀ x ∈ s.gangCmds g.gid, s.blockWaits x.1 x.2 = false) {s' : State} (finish : s.finishFold g = some s') :
    execFold part g.gid why s = .next s' := by
  have away : ((s.foldThreads g.gid).filter fun t => t.run == .fencedAway) = [] := by simpa using near
  have all_saved : ((s.foldThreads g.gid).all fun t => t.run == .saved) = true := by simpa using saved
  have none_waits : ((s.gangCmds g.gid).any fun x => s.blockWaits x.1 x.2) = false := by simpa using applied
  simp [execFold, hg, folding, hforced, hkilled, away, all_saved, all_stopped, quiet, none_waits, finish]

end InProgress

end Fold

end Sys2Proof.Machine

namespace Sys2Proof
open Machine

/-- A pass leaves a partition without work as it is, and places the one gang of a started launch that fits. -/
theorem placementPass : Claims.PlacementPass := by
  intro s p j h n hp hfolds unfolded
  refine ⟨fun hjobs => execLaunchPlacementPass_of_no_jobs hp hjobs hfolds unfolded, ?_⟩
  intro hjobs heligible hclosed hcancel hhdr hinv hnext hown hn hmask places hplaces hunits _
  have size : (places.take j.gangsize).length = j.gangsize := by simp [hplaces]
  refine ⟨_, s.newGang p.num n j h (s.freeUnits n),
    execLaunchPlacementPass_places hp hfolds unfolded hjobs heligible hclosed hcancel hhdr hnext hown hn hmask hplaces hunits,
    s.placeGang_t .., s.placeGang_mem .., s.placeGang_gangs .., rfl, rfl, rfl, rfl, ?_, ?_, ?_, ?_⟩
  · simp [State.newGang, Job.gang, hunits]
  · intro b hb
    obtain ⟨u, -, rfl⟩ := List.mem_map.mp hb
    exact ⟨rfl, rfl, rfl⟩
  · rw [State.placeGang_others_length, size, min_self]
  · intro k hk
    obtain ⟨t, stands, member, occupied⟩ :=
      s.placeGang_member p.num n j h (places.take j.gangsize) (s.freeUnits n) hk (by rwa [size])
    rw [List.getElem_take] at member occupied
    obtain ⟨place, begins⟩ := member.begins hinv
    have core : t.core = places[k].1 := congrArg Prod.fst place
    have slot : t.slot = places[k].2 := congrArg Prod.snd place
    obtain ⟨run, mode, gang, lthread, pc, param, number, seed⟩ := begins
    refine ⟨t, stands, ?_, run, mode, gang, lthread, pc, param, number, seed, ?_⟩
    · rw [place, List.getElem?_eq_getElem (Nat.lt_of_lt_of_le hk hplaces)]
    · rwa [core, slot]

/-- Each branch of the fold of a gang. -/
theorem foldEvent : Claims.FoldEvent := by
  intro s part why g hg again
  refine ⟨execFold_refused hg part why, fun idle room => ?_, fun folding forced killed near => ⟨?_, ?_⟩, fun folding ends resize => ?_⟩
  · exact ⟨_, _, execFold_begins hg part why idle room, rfl, rfl, State.gang?_setFolding hg true, rfl, by simp [again]⟩
  · exact execFold_waits hg part why folding forced killed near
  · exact fun saved stopped quiet applied _ finish =>
      execFold_finishes hg part why folding forced killed near saved stopped quiet applied finish
  · have untold := State.foldOver_of_no_resize (s.modGang g.gid fun x => { x with folding := false }) resize g.gid
    exact ⟨_, _, (execFold_given_up hg part why folding ends).trans (congrArg _ untold), rfl, rfl, rfl,
      State.gang?_setFolding hg false, rfl⟩

/-- Settles O38: the pass places through `placeGang`, whose threads join the others in order, and the fold goes by its branches. -/
theorem placementAndFold : Obligations.PlacementAndFold := ⟨placementPass, foldEvent⟩

end Sys2Proof

/-! # Answers, and what the launch unit accepts (for O31, O37 and O50)

The rules that the three statements share: a result that is delivered, a step that stands in the calendar once, a job that enters
its launch unit and becomes eligible. -/

namespace Sys2Proof.Machine

open Claims (answered)

/-! ## A result that is delivered (R73, R106) -/

@[simp] theorem State.deliver_t (s : State) (fid i : Nat) (v : Word) (err : Option (Word × Bool)) (delay : Nat) :
    (s.deliver fid i v err delay).t = s.t := by
  unfold State.deliver
  split
  · rfl
  · exact (apply_ite State.t ..).trans (ite_self _)

@[simp] theorem State.deliver_parts (s : State) (fid i : Nat) (v : Word) (err : Option (Word × Bool)) (delay : Nat) :
    (s.deliver fid i v err delay).parts = s.parts := by
  unfold State.deliver
  split
  · rfl
  · exact (apply_ite State.parts ..).trans (ite_self _)

/-- The fill of a result of one part after its value has been delivered. -/
def Fill.answeredWith (f : Fill) (v : Word) : Fill := { f with vals := f.vals.set 0 v, parts := 0 }

/-- The only part of a result sets the time of its fill. -/
theorem State.deliver_only {s : State} {fid : Nat} {f : Fill} (hf : s.fill? fid = some f) (one : f.parts = 1) (v : Word) (delay : Nat) :
    s.deliver fid 0 v none delay =
      (s.modFill fid fun _ => f.answeredWith v).schedule (s.time.cycle + delay + f.legs) (.resultFill fid) := by
  have err : (if f.err.isSome then f.err else none) = f.err := by cases f.err <;> rfl
  simp only [State.deliver, hf, one, Option.map_none, err]
  rfl

/-- A result of one part and one register is answered by its delivery. -/
theorem State.deliver_answers {s : State} {fid : Nat} {f : Fill} (hf : s.fill? fid = some f) (one : f.parts = 1)
    (single : f.vals.length = 1) (v : Word) (delay : Nat) :
    answered (s.deliver fid 0 v none delay) fid v (s.time.cycle + delay + f.legs) := by
  rw [State.deliver_only hf one]
  refine ⟨List.mem_append_right _ (List.mem_singleton_self _), fun g hg hid => ?_⟩
  obtain ⟨x, -, rfl⟩ := List.mem_map.mp hg
  by_cases hx : x.id = fid
  · obtain ⟨w, hw⟩ := List.length_eq_one_iff.mp single
    simp [hx, Fill.answeredWith, hw]
  · simp [hx] at hid

/-! ## Steps of the calendar (assumption 3) -/

/-- What no change of the calendar changes, a step that stands in it once does not change. -/
theorem State.scheduleOnce_keep {α : Type} {π : State → α}
    (hπ : ∀ s calendar, π { s with time := { s.time with calendar := calendar } } = π s) (s : State) (c : Nat) (i : Instr) :
    π (s.scheduleOnce c i) = π s := by
  unfold State.scheduleOnce
  split
  · rfl
  · exact hπ s _

theorem State.mem_scheduleOnce (s : State) (c : Nat) (i : Instr) : (c, i) ∈ (s.scheduleOnce c i).time.calendar := by
  unfold State.scheduleOnce
  split
  · next stands => simpa using stands
  · exact List.mem_append_right _ (List.mem_singleton_self _)

/-- What stands in the calendar stays there. -/
theorem State.scheduleOnce_subset (s : State) (c : Nat) (i : Instr) : s.time.calendar ⊆ (s.scheduleOnce c i).time.calendar := by
  unfold State.scheduleOnce
  split
  · exact List.Subset.refl _
  · exact List.subset_append_left ..

/-! ## Jobs of a launch unit (R42, R46) -/

/-- What no change of the calendar changes of a state with the eligible job, `makeEligible` leaves. -/
theorem State.makeEligible_keep {α : Type} {π : State → α}
    (hπ : ∀ s calendar, π { s with time := { s.time with calendar := calendar } } = π s) (s : State) (n num : Nat) :
    π (s.makeEligible n num) = π (s.modJob n num fun j => { j with eligible := some s.time.cycle }) := by
  have once := State.scheduleOnce_keep hπ
  exact (once _ _ _).trans ((once _ _ _).trans ((once _ _ _).trans (once _ _ _)))

/-- A job enters the unit of a partition with the next arrival number and becomes eligible. -/
def State.acceptJob (s : State) (n : Nat) (j : Job) : State := (s.addJob n j).2.makeEligible n (s.addJob n j).1

/-- What changes neither with the partitions nor with the calendar, an accepted job leaves. -/
theorem State.acceptJob_keep {α : Type} {π : State → α}
    (hπ : ∀ s parts calendar, π { s with parts := parts, time := { s.time with calendar := calendar } } = π s) (s : State) (n : Nat)
    (j : Job) : π (s.acceptJob n j) = π s :=
  (State.makeEligible_keep (fun s calendar => hπ s s.parts calendar) _ n _).trans (hπ s _ s.time.calendar)

@[simp] theorem State.acceptJob_t (s : State) (n : Nat) (j : Job) : (s.acceptJob n j).t = s.t :=
  State.acceptJob_keep (π := State.t) (fun _ _ _ => rfl) s n j
@[simp] theorem State.acceptJob_others (s : State) (n : Nat) (j : Job) : (s.acceptJob n j).others = s.others :=
  State.acceptJob_keep (π := State.others) (fun _ _ _ => rfl) s n j
@[simp] theorem State.acceptJob_mem (s : State) (n : Nat) (j : Job) : (s.acceptJob n j).mem = s.mem :=
  State.acceptJob_keep (π := State.mem) (fun _ _ _ => rfl) s n j
@[simp] theorem State.acceptJob_fab (s : State) (n : Nat) (j : Job) : (s.acceptJob n j).fab = s.fab :=
  State.acceptJob_keep (π := State.fab) (fun _ _ _ => rfl) s n j
@[simp] theorem State.acceptJob_vfs (s : State) (n : Nat) (j : Job) : (s.acceptJob n j).vfs = s.vfs :=
  State.acceptJob_keep (π := State.vfs) (fun _ _ _ => rfl) s n j
@[simp] theorem State.acceptJob_cycle (s : State) (n : Nat) (j : Job) : (s.acceptJob n j).time.cycle = s.time.cycle :=
  State.acceptJob_keep (π := fun s => s.time.cycle) (fun _ _ _ => rfl) s n j

/-- A job as its launch unit keeps it from its acceptance in a cycle: with its number, and eligible. -/
def Job.accepted (j : Job) (num now : Nat) : Job := { j with num := num, eligible := some now }

section Accept
variable {s : State} {n : Nat} {p : Part} (hp : s.part? n = some p)
include hp

theorem State.addJob_eq (j : Job) :
    s.addJob n j = (p.unit.arrivals, s.modUnit n fun u => { u with
      arrivals := (u.arrivals + 1) % 2 ^ 32, jobs := u.jobs ++ [{ j with num := p.unit.arrivals }] }) := by
  simp only [State.addJob, hp]

theorem State.addJob_fst (j : Job) : (s.addJob n j).1 = p.unit.arrivals := by rw [State.addJob_eq hp]

/-- The partition counts one arrival more, and has the job. -/
theorem State.acceptJob_part (j : Job) :
    ∃ p', (s.acceptJob n j).part? n = some p' ∧ p'.num = p.num ∧ p'.unit.arrivals = (p.unit.arrivals + 1) % 2 ^ 32 ∧
      j.accepted p.unit.arrivals s.time.cycle ∈ p'.unit.jobs := by
  rw [State.acceptJob, State.addJob_eq hp]
  have added := s.part?_modPart n (f := fun q => { q with unit := { q.unit with
      arrivals := (q.unit.arrivals + 1) % 2 ^ 32, jobs := q.unit.jobs ++ [{ j with num := p.unit.arrivals }] } }) fun _ => rfl
  have eligible := State.makeEligible_keep (π := fun s => s.part? n) (fun _ _ => rfl) (s.addJob n j).2 n p.unit.arrivals
  rw [State.addJob_eq hp, State.part?_modJob, State.modUnit, added, hp] at eligible
  refine ⟨_, eligible, rfl, rfl, List.mem_map.mpr ⟨_, List.mem_append_right _ (List.mem_singleton_self _), ?_⟩⟩
  simp [Job.accepted, State.modPart]

end Accept

/-! ## Records (R37, R41) -/

section Record
variable {s : State} {n : Nat} {p : Part} {label : Label} (hp : s.part? n = some p) (stays : p.retiring = false)
  (allowed : labelLe label (partLabel p.num) = true) (r : List Byte) (vf : Option Nat) {program : Bool}
include hp stays allowed

theorem State.submitRecord_illegal (illegal : s.recordOk p.num r program = false) :
    s.submitRecord (some n) r label vf program = (3, 0, s) := by
  simp [State.submitRecord, hp, stays, allowed, illegal]

/-- A legal record without a wait-on word, for which there is room, is an eligible launch with the next arrival number. -/
theorem State.submitRecord_accepted (legal : s.recordOk p.num r program = true) (room : p.recordsAt (fieldAt r 0x17 1) < 256)
    (no_waiton : fieldAt r 0x20 8 = 0) :
    s.submitRecord (some n) r label vf program = (0, p.unit.arrivals, s.acceptJob n (jobOfRecord r vf)) := by
  have num : p.num = n := by simpa using List.find?_some hp
  have waiton : (jobOfRecord r vf).waiton = 0 := no_waiton
  subst num
  simp [State.submitRecord, hp, stays, allowed, legal, Nat.not_le.mpr room, waiton, State.acceptJob, State.addJob_fst hp]

end Record

end Sys2Proof.Machine

/-! # Host accesses and link packets (O50)

First what the shared operations leave: the write of a word from outside, a port that changes. Then one
equation for each outcome of a host's access and of a packet, from which the two claims are put together. -/

namespace Sys2Proof.Machine

/-! ## The virtual functions (R40, R377) -/

/-- The first that passes one test and passes another too is the first that passes both. -/
theorem find?_and_of_find? {α : Type} {p q : α → Bool} {x : α} {l : List α} (h : l.find? p = some x) (hq : q x = true) :
    (l.find? fun y => p y && q y) = some x := by
  induction l with
  | nil => simp at h
  | cons y l ih =>
    by_cases hy : p y = true
    · obtain rfl : y = x := by simpa [hy] using h
      simp [hy, hq]
    · simp only [List.find?_cons, hy] at h
      simpa [hy] using ih h

theorem State.vf?_of_function? {s : State} {n : Nat} {v : VirtFn} (h : s.function? n = some v) (bound : v.valid = true) :
    s.vf? n = some v :=
  find?_and_of_find? h bound

/-- A function without a binding is none of the bound ones. -/
theorem State.function?_unbound {s : State} {n : Nat} {v : VirtFn} (h : s.function? n = some v) (none_bound : s.vf? n = none) :
    v.valid = false := by
  by_contra bound
  simp [State.vf?_of_function? h (by simpa using bound)] at none_bound

/-! ## Writes from outside (R347, R452) -/

/-- The access by which a word from outside is written, as it is sent: a posted cross-die write of a hub die. -/
structure Acc.FromOutside (a : Acc) (id part die : Nat) (port : Option Nat) (label : Label) (loc : Loc) (bs : List Byte) : Prop where
  id_eq : a.id = id
  op_eq : a.op = .store bs.length (BitVec.ofNat 64 (bytesNat bs))
  loc_eq : a.loc = loc
  part_eq : a.part = part
  label_eq : a.label = label
  posted_eq : a.posted = true
  cross_eq : a.cross = true
  srcDie_eq : a.srcDie = die
  port_eq : a.port = port

section OutsideWord
variable (s : State) (part die : Nat) (port : Option Nat) (label : Label) (va : Word) (x : Target) (bs : List Byte)

@[simp] theorem State.outsideWord_t : (s.outsideWord part die port label va x bs).t = s.t := rfl
@[simp] theorem State.outsideWord_out : (s.outsideWord part die port label va x bs).out = s.out := rfl

theorem State.outsideWord_sends :
    ∃ a : Acc, (s.outsideWord part die port label va x bs).fab.accs = s.fab.accs ++ [a] ∧
      (s.outsideWord part die port label va x bs).time.agenda = s.time.agenda ++ [.postedWriteArrival a.id] ∧
      a.FromOutside s.time.next part die port label x.loc bs :=
  ⟨_, rfl, rfl, ⟨rfl, rfl, rfl, rfl, rfl, rfl, rfl, rfl, rfl⟩⟩

end OutsideWord

/-- A write that lies within one word is sent as one write. -/
theorem State.outsideWrite_word {s : State} {part addr : Nat} {data : List Byte} {x : Target}
    (h : s.outsidePlaces part (wordPieces (data.length + 1) addr data) = .ok [(addr, data, x)]) (die : Nat) (port : Option Nat)
    (label : Label) :
    s.outsideWrite part die port addr data label =
      (none, s.outsideWord part die port label (BitVec.ofNat 64 addr) x data) := by
  simp [State.outsideWrite, h]

/-- A write that a translation refuses is not sent. -/
theorem State.outsideWrite_refused {s : State} {part addr : Nat} {data : List Byte} {e : TrapCode × Nat}
    (h : s.outsidePlaces part (wordPieces (data.length + 1) addr data) = .error e) (die : Nat) (port : Option Nat) (label : Label) :
    s.outsideWrite part die port addr data label = (some e, s) := by
  simp [State.outsideWrite, h]

/-! ## The host (R40, R376, R377, R452) -/

/-- Before PWRGD nothing of the host arrives (R425). -/
theorem hostAccess_in_reset {s : State} (off : s.dev.pwrgd = false) (vf addr len : Nat) (data : List Byte) :
    execHostWrite vf addr data s = .next s ∧ execHostRead vf addr len s = .next s := by
  simp [execHostWrite, execHostRead, off]

/-- What a host's read may reach is no address of the local window or of device space (R452). -/
theorem reachable_of_reach {addr : Nat} (reach : (namedWindow addr).isSome = true ∨ isGlobal addr = true) :
    ((namedWindow addr).isNone && !isGlobal addr) = false := by
  rcases reach with window | global
  · simp [Option.isNone_eq_false_iff.mpr window]
  · simp [global]

/-- An address of memory is not one of the launch window. -/
theorem below_windowBase {addr : Nat} (low : addr < 2 ^ 64) : ¬ windowBase ≤ addr := Nat.not_le.mpr low

section Host
variable {s : State} (on : s.dev.pwrgd = true) {vf : Nat}
include on

theorem execHostWrite_unbound (none_bound : s.vf? vf = none) (addr : Nat) (data : List Byte) :
    execHostWrite vf addr data s = .next s := by
  simp [execHostWrite, on, none_bound]

/-- A bound function's write that a translation refuses is an event of its partition. -/
theorem execHostWrite_refused {v : VirtFn} (hv : s.vf? vf = some v) {addr : Nat} {data : List Byte} {c : TrapCode} {a : Nat}
    (h : s.outsidePlaces v.part (wordPieces (data.length + 1) addr data) = .error (c, a)) :
    execHostWrite vf addr data s = .next (s.fault v.part (hostFault vf true c a)) := by
  simp [execHostWrite, on, hv, State.outsideWrite_refused h]

theorem execHostWrite_word {v : VirtFn} (hv : s.vf? vf = some v) {addr : Nat} {data : List Byte} {x : Target}
    (h : s.outsidePlaces v.part (wordPieces (data.length + 1) addr data) = .ok [(addr, data, x)]) :
    execHostWrite vf addr data s =
      .next (s.outsideWord v.part s.hostDie none (partLabel v.part) (BitVec.ofNat 64 addr) x data) := by
  simp [execHostWrite, on, hv, State.outsideWrite_word h]

theorem execHostRead_unbound (none_bound : s.vf? vf = none) {addr : Nat} (low : addr < 2 ^ 64) (len : Nat) :
    execHostRead vf addr len s = .next (s.emit (.hostAbort vf (BitVec.ofNat 64 addr))) := by
  cases hv : s.function? vf with
  | none => simp [execHostRead, on, hv]
  | some v =>
    simp [execHostRead, on, hv, below_windowBase low, State.function?_unbound hv none_bound]

theorem execHostRead_window {v : VirtFn} (hv : s.function? vf = some v) {addr : Nat} (high : 2 ^ 64 ≤ addr) (len : Nat) :
    execHostRead vf addr len s =
      .next (s.emit (.hostRead vf (BitVec.ofNat 64 addr) (s.windowBytes v (addr - 2 ^ 64) len))) := by
  simp only [execHostRead, on, hv, windowBase, high, if_true, Bool.not_true, Bool.false_eq_true, if_false]

section Memory
variable {v : VirtFn} (hv : s.function? vf = some v) (bound : v.valid = true) {addr len : Nat} (low : addr < 2 ^ 64)
  (reach : (namedWindow addr).isSome = true ∨ isGlobal addr = true)
include hv bound low reach

theorem execHostRead_refused {c : TrapCode} {info a : Word}
    (h : s.readVa v.part 0 (BitVec.ofNat 64 addr) len false = .error ((c, info), a)) :
    execHostRead vf addr len s =
      .next ((s.fault v.part (if c = .dataerr then ⟨0x0A, 0, 0, [0, 0, a]⟩ else hostFault vf false c a.toNat)).emit
        (.hostAbort vf (BitVec.ofNat 64 addr))) := by
  simp [execHostRead, on, hv, bound, below_windowBase low, reachable_of_reach reach, h]

theorem execHostRead_passed {bs : List Byte} {l m : Label} {s1 : State}
    (h : s.readVa v.part 0 (BitVec.ofNat 64 addr) len false = .ok (bs, l)) (passed : s.sluice v.part l (.host vf) len = .ok (m, s1)) :
    execHostRead vf addr len s = .next (s1.emit (.hostRead vf (BitVec.ofNat 64 addr) bs)) := by
  simp [execHostRead, on, hv, bound, below_windowBase low, reachable_of_reach reach, h, passed]

theorem execHostRead_stopped {bs : List Byte} {l : Label} {r : Nat}
    (h : s.readVa v.part 0 (BitVec.ofNat 64 addr) len false = .ok (bs, l)) (stopped : s.sluice v.part l (.host vf) len = .error r) :
    execHostRead vf addr len s =
      .next ((s.sluiceEvent v.part r (BitVec.ofNat 64 addr) l vf).emit (.hostAbort vf (BitVec.ofNat 64 addr))) := by
  simp [execHostRead, on, hv, bound, below_windowBase low, reachable_of_reach reach, h, stopped]

end Memory
end Host

/-! ## The links (R147, R374, R375) -/

theorem State.answerInvoke_open {s : State} {fid : Nat} {f : Fill} (hf : s.fill? fid = some f) (open_ : f.parts = 1) (status : Nat) :
    s.answerInvoke fid status = s.deliver fid 0 (BitVec.ofNat 64 status) none 0 := by
  simp [State.answerInvoke, hf, open_]

section Write
variable {s : State} {port : Nat} {sender : Option Nat} {addr : Word} {data : List Byte} {label : Label}

/-- A write for a partition that this chip does not know is refused. -/
theorem fabricWrite_unknown (unknown : (s.localOf port sender).bind s.part? = none) :
    execFabricPacketArrival (.write port sender addr data label) s = .next (s.refusePacket port sender addr label) := by
  simp [execFabricPacketArrival, unknown]

variable {p : Part} {q : Port} (known : (s.localOf port sender).bind s.part? = some p) (hq : s.port? port = some q)
include known hq

theorem fabricWrite_unmapped (unmapped : mapIn q p.num label = none) :
    execFabricPacketArrival (.write port sender addr data label) s = .next (s.refusePacket port sender addr label) := by
  simp [execFabricPacketArrival, known, hq, unmapped]

theorem fabricWrite_word {l : Label} {x : Target} (mapped : mapIn q p.num label = some l)
    (h : s.outsidePlaces p.num (wordPieces (data.length + 1) addr.toNat data) = .ok [(addr.toNat, data, x)])
    (fits : labelLe l x.label = true) :
    execFabricPacketArrival (.write port sender addr data label) s =
      .next (s.outsideWord p.num (portDie port) (some port) l (BitVec.ofNat 64 addr.toNat) x data) := by
  have inside : s.outsideRefused p.num addr data l = false := by simp [State.outsideRefused, h, fits]
  simp [execFabricPacketArrival, known, hq, mapped, inside, State.outsideWrite_word h]

end Write

theorem State.port?_modPort (s : State) (n : Nat) {f : Port → Port} (hf : ∀ p, (f p).num = p.num) :
    (s.modPort n f).port? n = (s.port? n).map f :=
  find?_map_ofKey hf s.sec.ports

/-- A changed port leaves the others. -/
theorem State.mem_ports_modPort {s : State} {n : Nat} {f : Port → Port} (hf : ∀ p, (f p).num = p.num) {x : Port}
    (hx : x ∈ (s.modPort n f).sec.ports) (other : x.num ≠ n) : x ∈ s.sec.ports := by
  obtain ⟨p, hp, rfl⟩ := List.mem_map.mp hx
  by_cases e : p.num = n
  · simp [e, hf] at other
  · simpa [e] using hp

/-- A port as its attestation leaves it, with the maps that the two controllers agree. -/
def Port.attestedWith (maps parts : List (Option Nat)) (p : Port) : Port :=
  { p with up := true, attested := true, map := maps, parts := parts }

theorem Port.attestedWith_num (maps parts : List (Option Nat)) (p : Port) : (p.attestedWith maps parts).num = p.num := rfl

theorem execPortAttestation_known {s : State} {port : Nat} {q : Port} (hq : s.port? port = some q) :
    ∃ maps parts, execPortAttestation port s =
      .next ({ s with time := { s.time with draws := s.time.draws + 64 } }.modPort port (Port.attestedWith maps parts)) := by
  simp only [execPortAttestation, hq, Option.isNone_some]
  exact ⟨_, _, rfl⟩

end Sys2Proof.Machine

namespace Sys2Proof
open Machine

/-- Every outcome of a host's write and read. -/
theorem hostAccesses : Claims.HostAccesses := by
  intro s vf addr len data
  refine ⟨fun off => hostAccess_in_reset off vf addr len data, fun on => ⟨fun unbound => ?_, fun v hv high => ?_, fun v hv bound => ?_⟩⟩
  · exact ⟨execHostWrite_unbound on unbound addr data, fun low => execHostRead_unbound on unbound low len⟩
  · exact execHostRead_window on hv high len
  have hvf := State.vf?_of_function? hv bound
  refine ⟨fun c a refused => execHostWrite_refused on hvf refused, fun x places => ?_, fun low reach => ⟨?_, ?_, ?_⟩⟩
  · obtain ⟨a, accs, agenda, sent⟩ :=
      s.outsideWord_sends v.part s.hostDie none (partLabel v.part) (BitVec.ofNat 64 addr) x data
    exact ⟨_, a, execHostWrite_word on hvf places, rfl, rfl, accs, sent.id_eq, sent.op_eq, sent.loc_eq, sent.part_eq, sent.label_eq,
      sent.posted_eq, sent.cross_eq, sent.srcDie_eq, agenda⟩
  · intro c info a refused
    refine ⟨_, execHostRead_refused on hv bound low reach refused, rfl, rfl, rfl, ?_⟩
    simp [State.fault, State.emit, hostFault]
  · intro bs l m s1 read passed
    exact execHostRead_passed on hv bound low reach read passed
  · intro bs l r read stopped
    exact ⟨_, execHostRead_stopped on hv bound low reach read stopped, rfl, rfl, rfl⟩

/-- Every packet of a link, and the attestation of a port. -/
theorem linkEvents : Claims.LinkEvents := by
  intro s port addr data label
  refine ⟨?_, fun _ _ => rfl, fun _ unknown => fabricWrite_unknown unknown, ?_, ?_, ?_⟩
  · intro reply status f hf one single
    refine ⟨_, rfl, ?_⟩
    rw [State.answerInvoke_open hf one]
    exact ⟨State.deliver_t .., State.deliver_mem .., State.deliver_answers hf one single _ 0⟩
  · intro p q sender hp hq mapped_part
    have known : (s.localOf port (some sender)).bind s.part? = some p := by simp [State.localOf, hq, mapped_part, hp]
    refine ⟨fabricWrite_unmapped known hq, fun l x mapped places fits => ?_⟩
    obtain ⟨a, accs, agenda, sent⟩ :=
      s.outsideWord_sends p.num (portDie port) (some port) l (BitVec.ofNat 64 addr.toNat) x data
    refine ⟨_, a, fabricWrite_word known hq mapped places fits, rfl, rfl, rfl, accs, sent.loc_eq, sent.label_eq, sent.part_eq,
      sent.cross_eq, sent.srcDie_eq, sent.port_eq, sent.op_eq, ?_⟩
    rw [agenda]
    exact List.mem_append_right _ (List.mem_singleton_self _)
  · intro q hq
    obtain ⟨maps, parts, attested⟩ := execPortAttestation_known hq
    refine ⟨_, attested, rfl, rfl, ⟨q.attestedWith maps parts, ?_, rfl⟩, fun x hx other => ?_⟩
    · exact (State.port?_modPort _ port (Port.attestedWith_num maps parts)).trans (congrArg _ hq)
    · exact State.mem_ports_modPort (Port.attestedWith_num maps parts) hx other
  · intro unknown
    simp [execPortAttestation, unknown]

/-- Settles O50: a host's accesses and a link's packets go by their outcomes, one equation for each. -/
theorem outsideEvents : Obligations.OutsideEvents := ⟨hostAccesses, linkEvents⟩

end Sys2Proof

/-! # A write of FQBASE wakes who watches the header's word (O11)

A thread may park on any word of its Pan (R324), so also on the word that becomes the header of the fault queue. The write of FQBASE
writes that header (R389, R392); the watch on it ends (R326), and the parked thread's VCLOCK joins the clock of the die (R343). So
a write that arrives at the launch unit does not leave every other thread as it was. -/

namespace Sys2Proof.Machine

/-- A thread of partition 0 with its number and how it stands, that has still seen nothing of any die's clock. -/
def plainThread (uid : Nat) (run : Run) : Thread :=
  { Thread.management with
    ctl := Ctl.start
    ident := { Thread.management.ident with uid := uid, part := 0, core0 := 0 }
    core := 0, run := run }

/-- A partition that owns Pan 0. -/
def panZeroPart : Part :=
  { num := 0
    own := { gen := 1, panmask := 1, keyslot := 1, slotmask := 1, chslotmask := 0, waymask := 0, colours := 0, vlaneq := 0, pressq := 0
             flags := 0, regmin := 0, regcap := 0, savearena := 0, saverecs := 0, cellars := [1, 0, 0, 0, 0, 0, 0, 0] }
    regs := ⟨0, 0, 0, 0, none⟩, faults := ⟨0, 0, 0, [], false⟩, budget := 0, accounts := [], charged := []
    unit := ⟨0, [], []⟩, arena := [], fenceCap := false, fenceTrap := false, migFallback := 0, perf := [], firm := false
    manager := false, pubkey := [], retiring := false, used := [], derates := [] }

/-- The base of a fault queue at the start of Pan 0's window. -/
def headerBase : Word := 0x0081000000000000

/-- The request of thread 1 to write that base to FQBASE, on its way to the launch unit. -/
def fqbaseRequest : Fill :=
  { id := 5, uid := 1, regs := [], vals := [0], parts := 0, label := 0, join := 0, kind := .partWrite 0x053 headerBase, resume := true
    advance := false, err := none, discard := false, legs := 0, velems := [] }

/-- The `park` of thread 2 on the first word of Pan 0. -/
def headerPark : Acc :=
  { id := 3, uid := 2, part := 0, op := .park 0 0, loc := .pan 0 0, va := headerBase, pc := 0, label := 0, plabel := 1, posted := false
    ordered := false, clock := [], srcDie := 0, num := 0, pair := 0, cross := false, input := 0, trellis := 0, source := 0, klass := 0
    legs := 0, asked := 0, due := 0, fill := none, noalloc := false, kept := false, came := 0, port := none, state := .listed }

/-- That request has arrived while thread 2 watches the word that becomes the header; die 0 has sent a cross-die write. -/
def headerWatched : State :=
  { State.reset with
    others := [plainThread 1 .reply, plainThread 2 .parked]
    parts := [panZeroPart]
    mem := { State.reset.mem with maps := [⟨0, 0, 0, true, true, true, false, 0, 0, 1⟩] }
    fab := { State.reset.fab with
      accs := [headerPark], fills := [fqbaseRequest], waiters := [⟨3, 0, .pan 0 0, false, true, 0⟩] }
    clocks := { State.reset.clocks with dies := State.reset.clocks.dies.set 0 { DieClock.reset with sent := 1 } } }

/-- Die 0's entry in the VCLOCKs of the other threads. -/
def State.othersSeen (s : State) : List Nat := s.others.map fun t => t.ctl.vclock.getD 0 0

/-- The write of the header ends the watch, and thread 2 takes in the clock of die 0. -/
theorem fqbaseRequest_wakes {s' : State} (h : exec (.resultFill fqbaseRequest.id) headerWatched = .next s') :
    s'.othersSeen = [0, 1] := by
  have seen : (match exec (.resultFill fqbaseRequest.id) headerWatched with
    | .next s => s.othersSeen
    | _ => []) = [0, 1] := by decide +kernel
  rwa [h] at seen

end Sys2Proof.Machine

namespace Sys2Proof
open Machine

/-- Refutes O11: a request to write FQBASE that writes the queue's header wakes a thread parked on that word, whose VCLOCK changes. -/
theorem not_partitionRegisterWrites : ¬ Obligations.PartitionRegisterWrites := by
  intro h
  obtain ⟨-, unprivileged⟩ := h headerWatched 0 0 (by simp [State.readable, zeroReg]) (by simp [State.writable, zeroReg])
  obtain ⟨-, -, -, -, -, -, arrives⟩ := unprivileged (by decide +kernel)
  obtain ⟨-, -, -, fqbase⟩ := arrives fqbaseRequest (plainThread 1 .reply) headerBase (by decide +kernel) (by decide +kernel) rfl
  obtain ⟨s', ⟨performed, -, others, -⟩, -⟩ := fqbase rfl
  have unchanged : s'.othersSeen = [0, 0] := by
    rw [State.othersSeen, others]
    rfl
  exact absurd (unchanged.symm.trans (fqbaseRequest_wakes performed)) (by decide)

end Sys2Proof

/-! # launch, sluice and invoke (O31) -/

namespace Sys2Proof.Machine

open Claims (outcomeIn pendingOnly)

/-! ## What the read of a block leaves (R217, R239, R343) -/

/-- A change of gangs that keeps their numbers and policies does not change whether a trap ends the gang (R52). -/
theorem State.abortsHandler_mapGangs (s : State) {f : Gang → Gang} (gid : ∀ g, (f g).gid = g.gid)
    (policy : ∀ g, (f g).policy0 = g.policy0) : { s with gangs := s.gangs.map f }.abortsHandler = s.abortsHandler := by
  have found (n : Nat) : (s.gangs.map f).find? (fun g => g.gid = n) = (s.gangs.find? fun g => g.gid = n).map f := by
    simp only [List.find?_map, Function.comp_def, gid]
  simp only [State.abortsHandler, State.gang?, found]
  cases s.gangs.find? fun g => g.gid = s.t.ident.gang with
  | none => rfl
  | some g => simp only [Option.map_some, gid, policy]

/-- From one state another comes by reads at the issue of an instruction: of the thread only VCLOCK may have grown, and what changed
besides are the memory, the counters of R413, the moved sectors, and numbers of the model. -/
structure State.ReadsInto (s s' : State) : Prop where
  thread : ∃ past, s'.t = { s.t with ctl := { s.t.ctl with vclock := past } }
  others : s'.others = s.others
  cycle : s'.time.cycle = s.time.cycle
  fab : s'.fab = s.fab
  vfs : s'.vfs = s.vfs
  sec : s'.sec = s.sec
  out : s'.out = s.out
  handler : s'.abortsHandler = s.abortsHandler

namespace State.ReadsInto

theorem refl (s : State) : s.ReadsInto s := ⟨⟨s.t.ctl.vclock, rfl⟩, rfl, rfl, rfl, rfl, rfl, rfl, rfl⟩

theorem trans {s s1 s2 : State} (h1 : s.ReadsInto s1) (h2 : s1.ReadsInto s2) : s.ReadsInto s2 := by
  obtain ⟨p1, t1⟩ := h1.thread
  obtain ⟨p2, t2⟩ := h2.thread
  exact ⟨⟨p2, by rw [t2, t1]⟩, h2.others.trans h1.others, h2.cycle.trans h1.cycle, h2.fab.trans h1.fab, h2.vfs.trans h1.vfs,
    h2.sec.trans h1.sec, h2.out.trans h1.out, h2.handler.trans h1.handler⟩

protected theorem foldl {α : Type} {f : State → α → State} (hf : ∀ (s : State) x, s.ReadsInto (f s x)) (l : List α) (s : State) :
    s.ReadsInto (l.foldl f s) := by
  induction l generalizing s with
  | nil => exact refl s
  | cons x l ih => exact (hf s x).trans (ih (f s x))

theorem touchLines (s : State) (sectors : List Nat) : s.ReadsInto (s.touchLines sectors) := by
  have touched (s : State) (line : Nat) : s.ReadsInto { s.fresh.2 with mem := s.mem.touch line s.fresh.1 } :=
    ⟨⟨s.t.ctl.vclock, rfl⟩, rfl, rfl, rfl, rfl, rfl, rfl, rfl⟩
  exact ReadsInto.foldl touched _ s

theorem count (s : State) (part gang k n : Nat) : s.ReadsInto (s.count part gang k n) := by
  refine ⟨⟨s.t.ctl.vclock, rfl⟩, rfl, rfl, rfl, rfl, rfl, rfl, ?_⟩
  exact State.abortsHandler_mapGangs { s with parts := _ } (fun g => by dsimp only; (repeat' split) <;> rfl)
    fun g => by dsimp only; (repeat' split) <;> rfl

theorem countSectors (s : State) (ch part gang n : Nat) : s.ReadsInto (s.countSectors ch part gang n) :=
  have moved (ctrl) : s.ReadsInto { s with ctrl := ctrl } := ⟨⟨s.t.ctl.vclock, rfl⟩, rfl, rfl, rfl, rfl, rfl, rfl, rfl⟩
  (moved _).trans (count _ part gang 5 n)

theorem countMissing (s : State) (part gang line sectors : Nat) : s.ReadsInto (s.countMissing part gang line sectors) := by
  unfold State.countMissing
  dsimp only
  split
  · exact refl s
  · exact countSectors s ..

theorem countVictim (s : State) (line mask : Nat) : s.ReadsInto (s.countVictim line mask) := by
  unfold State.countVictim
  split
  · split
    · exact refl s
    · exact countSectors s ..
  · exact refl s

theorem install (s : State) (line sectors mask : Nat) : s.ReadsInto (s.install line sectors mask) :=
  (countVictim s line mask).trans ⟨⟨_, rfl⟩, rfl, rfl, rfl, rfl, rfl, rfl, rfl⟩

theorem fillSector (s : State) (part gang pa : Nat) (noalloc : Bool) : s.ReadsInto (s.fillSector part gang pa noalloc) := by
  unfold State.fillSector
  split
  · exact touchLines s _
  · exact (countMissing s ..).trans (install _ ..)

theorem correctWord (s : State) (part gang : Nat) (reads : Bool) (l : Loc) : s.ReadsInto (s.correctWord part gang reads l) := by
  have dropped (words) : s.ReadsInto { s with mem := { s.mem with softWords := words } } :=
    ⟨⟨s.t.ctl.vclock, rfl⟩, rfl, rfl, rfl, rfl, rfl, rfl, rfl⟩
  unfold State.correctWord
  split
  · exact refl s
  · dsimp only
    split
    · exact refl s
    · split
      · exact (dropped _).trans (count _ ..)
      · exact dropped _

theorem correctRun (s : State) (part gang : Nat) (writes : Bool) (l : Loc) (n : Nat) :
    s.ReadsInto (s.correctRun part gang writes l n) := by
  unfold State.correctRun
  split
  · exact refl s
  · exact ReadsInto.foldl (fun s _ => correctWord s ..) _ s

theorem joinPast (s : State) (c : List Nat) : s.ReadsInto { s with t := s.t.joinPast c } :=
  ⟨⟨_, rfl⟩, rfl, rfl, rfl, rfl, rfl, rfl, rfl⟩

theorem blockRead (s : State) (va : Word) (n : Nat) : s.ReadsInto (s.blockRead va n) :=
  ((ReadsInto.foldl (fun s _ => fillSector s ..) _ s).trans (ReadsInto.foldl (fun s _ => correctRun s ..) _ _)).trans
    (ReadsInto.foldl (fun s _ => joinPast s _) _ _)

section
variable {s s' : State} (h : s.ReadsInto s')
include h

theorem reg (r : Reg) : s'.t.reg r = s.t.reg r := by
  obtain ⟨_, ht⟩ := h.thread
  rw [ht]
  rfl

theorem pc : s'.t.pc = s.t.pc := by
  obtain ⟨_, ht⟩ := h.thread
  rw [ht]

theorem ident : s'.t.ident = s.t.ident := by
  obtain ⟨_, ht⟩ := h.thread
  rw [ht]

theorem isTask : s'.t.isTask = s.t.isTask := by
  obtain ⟨_, ht⟩ := h.thread
  rw [ht]
  rfl

theorem localPan : s'.t.localPan = s.t.localPan := by
  obtain ⟨_, ht⟩ := h.thread
  rw [ht]
  rfl

theorem clabel : s'.t.ctl.clabel = s.t.ctl.clabel := by
  obtain ⟨_, ht⟩ := h.thread
  rw [ht]

theorem labels (rs : List Reg) : labelsOf s'.t rs = labelsOf s.t rs := by
  obtain ⟨_, ht⟩ := h.thread
  rw [ht]
  rfl

theorem patched : s'.t.patched = s.t.patched := by
  obtain ⟨_, ht⟩ := h.thread
  rw [ht]

theorem joined (rs : List Reg) : s'.joined rs = s.joined rs := by
  rw [State.joined, h.clabel, h.patched, h.labels]
  rfl

theorem drained : s'.drained = s.drained := by
  simp only [State.drained, State.unperformed, State.unacked, h.ident, h.fab]

theorem vaClass (va : Word) : s'.vaClass va = s.vaClass va := by rw [State.vaClass, h.localPan]; rfl

theorem lbl (r : Reg) : s'.lbl r = s.lbl r := congrArg GReg.label (h.reg r)

end

end State.ReadsInto

/-! ## An instruction that leaves rotation for its reply (R73) -/

/-- The reply that an instruction waits for: a value with its label for d after n cycles, the thread out of rotation past the
instruction. -/
def State.replyIn (s : State) (d : Reg) (v : Word) (l : Label) (n : Nat) : State :=
  ((s.newHeldFill [d] 1 l 0 .plain true false).2.deliver (s.newHeldFill [d] 1 l 0 .plain true false).1 0 v none n).goOn true 4

@[simp] theorem State.replyIn_parts (s : State) (d : Reg) (v : Word) (l : Label) (n : Nat) : (s.replyIn d v l n).parts = s.parts :=
  (State.deliver_parts ..)

/-- The fill of the reply to the thread at its turn. -/
def State.replyFill (s : State) (d : Reg) (l : Label) : Fill :=
  { id := s.time.next, uid := s.t.ident.uid, regs := [d], vals := [0], parts := 1, label := l, join := 0, kind := .plain,
    resume := true, advance := false, err := none, discard := false, legs := 0, velems := [] }

theorem State.replyIn_eq (s : State) (d : Reg) (v : Word) (l : Label) (n : Nat) :
    s.replyIn d v l n =
      (((s.newHeldFill [d] 1 l 0 .plain true false).2.modFill s.time.next fun _ => (s.replyFill d l).answeredWith v).schedule
        (s.time.cycle + n) (.resultFill s.time.next)).goOn true 4 := by
  have found : (s.newHeldFill [d] 1 l 0 .plain true false).2.fill? s.time.next = some (s.replyFill d l) :=
    List.find?_cons_of_pos (by simp)
  exact congrArg (State.goOn · true 4) (State.deliver_only found rfl v n)

theorem State.replyIn_out (s : State) (d : Reg) (v : Word) (l : Label) (n : Nat) : (s.replyIn d v l n).out = s.out := by
  rw [State.replyIn_eq]
  rfl

theorem State.replyIn_outcome (s : State) (d : Reg) (v : Word) (l : Label) (n : Nat) : outcomeIn s (s.replyIn d v l n) d v l n := by
  rw [State.replyIn_eq]
  refine ⟨rfl, rfl, rfl, rfl, rfl, rfl, (s.replyFill d l).answeredWith v, ?_, rfl, rfl, rfl, rfl, rfl,
    List.mem_append_right _ (List.mem_singleton_self _)⟩
  exact List.mem_map.mpr ⟨s.replyFill d l, List.mem_cons_self, if_pos rfl⟩

/-- The outcome is told against any state with the same thread, memory, threads elsewhere and cycle. -/
theorem outcomeIn_of {s s1 s' : State} {d : Reg} {v : Word} {l : Label} {n : Nat} (h : outcomeIn s1 s' d v l n) (t : s1.t = s.t)
    (mem : s1.mem = s.mem) (others : s1.others = s.others) (cycle : s1.time.cycle = s.time.cycle) : outcomeIn s s' d v l n := by
  unfold outcomeIn at h ⊢
  rwa [t, mem, others, cycle] at h

/-- An instruction that reads memory at its issue has its own effect where its registers are free and nothing holds accesses back. -/
theorem State.issue_reading (s : State) (dests : List Reg) (srcs : List (Reg × Bool)) (k : State → Result)
    (hd : s.writable dests) (hs : s.readable (srcs.map Prod.fst)) (free : s.acquireHeld = false) :
    s.issue { Uses.none with dests := dests, srcs := srcs, mem := true } k = k s :=
  s.issue_go _ k (s.check_go _ (by simp [Uses.none]) rfl (by simp [Uses.none]) hd (by simp [Uses.none]) hs
    (by simp [Uses.none]) fun _ => free)

theorem State.labelsOf_one (s : State) (a : Reg) : labelsOf s.t [a] = s.lbl a := by simp [labelsOf, State.lbl]

/-! ## launch (R37, R41, R42, R146, R451) -/

section Launch
variable {s : State} {d a : Reg} (hd : s.writable [d]) (ha : s.readable [a]) (free : s.acquireHeld = false)
include hd ha free

theorem execLaunch_align (h : (s.val a).toNat % 8 ≠ 0) : execLaunch d a s = .next (s.fail .align (s.val a) 0 [a] 0) := by
  rw [execLaunch, State.issue_reading s [d] [(a, false)] _ hd ha free]
  simp only [h, ↓reduceIte, ne_eq, not_false_eq_true]

/-- A record that can be read is submitted, and d will tell the outcome. -/
theorem execLaunch_read {r : List Byte} {l : Label} (aligned : (s.val a).toNat % 8 = 0) (ready : s.readHeld (s.val a) 64 = false)
    (bytes : s.readVa s.t.ident.part s.t.localPan (s.val a) 64 s.t.isTask = .ok (r, l)) {s1 : State}
    (read : s.blockRead (s.val a) 64 = s1) {outcome num : Nat} {s2 : State}
    (submitted : s1.submitRecord (some s.t.ident.part) r (s.joined [a] ||| l) none true = (outcome, num, s2)) :
    execLaunch d a s = .next (s2.replyIn d (BitVec.ofNat 64 (outcome + num * 2 ^ 16)) (s.joined [a]) 45) := by
  have reads : s.ReadsInto s1 := read ▸ State.ReadsInto.blockRead s _ _
  rw [execLaunch, State.issue_reading s [d] [(a, false)] _ hd ha free]
  simp only [aligned, ready, bytes, read, ne_eq, not_true_eq_false, ↓reduceIte, Bool.false_eq_true, State.resultLabel_eq,
    reads.joined, reads.ident, submitted]
  rfl

end Launch

theorem launchResults : Claims.LaunchResults := by
  intro s d a p r l hd ha free va s1 read prio open_
  have reads : s.ReadsInto s1 := State.ReadsInto.blockRead s _ _
  have after : s.blockRead (s.val a) 64 = s1 := rfl
  clear_value s1
  refine ⟨fun align traps => ?_, fun aligned ⟨ready, bytes⟩ hp ⟨stays, allowed⟩ illegal => ?_,
    fun aligned ⟨ready, bytes⟩ hp ⟨stays, allowed⟩ legal room no_waiton => ?_⟩
  · rw [exec_launch, execLaunch_align hd ha free align, State.fail_traps _ _ _ _ _ _ traps]
    simp [State.labelsOf_one]
    rfl
  · rw [exec_launch, execLaunch_read hd ha free aligned ready bytes after
      (State.submitRecord_illegal hp stays allowed r none illegal)]
    exact ⟨_, rfl, State.replyIn_outcome .., State.replyIn_parts ..⟩
  · rw [exec_launch, execLaunch_read hd ha free aligned ready bytes after
      (State.submitRecord_accepted hp stays allowed r none legal room no_waiton)]
    obtain ⟨p', hp', num, arrivals, job⟩ := State.acceptJob_part hp (jobOfRecord r none)
    refine ⟨_, rfl, ?_, p', ?_, ?_, arrivals, _, job, rfl, rfl, rfl, rfl, rfl, rfl, rfl, ?_, rfl⟩
    · rw [Nat.zero_add]
      exact outcomeIn_of (State.replyIn_outcome ..) (State.acceptJob_t ..) (State.acceptJob_mem ..) (State.acceptJob_others ..)
        (State.acceptJob_cycle ..)
    · rw [State.replyIn_parts]
      exact List.mem_of_find?_eq_some hp'
    · rw [num]
      simpa using List.find?_some hp
    · exact congrArg some reads.cycle

/-! ## sluice (R377, R383) -/

section Sluice
variable {s s1 : State} {d a : Reg} (ta tb : Bool) {bs : List Byte} {lb : Label} (hd : s.writable [d]) (ha : s.readable [a])
  (free : s.acquireHeld = false) (drained : s.drained = true) (aligned : (s.val a).toNat % 64 = 0)
  (ready : s.readHeld (s.val a) 64 = false)
  (block : s.readVa s.t.ident.part s.t.localPan (s.val a) 64 s.t.isTask = .ok (bs, lb)) (after : s.blockRead (s.val a) 64 = s1)
include hd ha free drained aligned ready block after

theorem execSluice_record
    (illegal : sluiceBlockOk bs (s.vaClass (wordAt bs 0) != .none && s.vaClass (wordAt bs 0) != .device) = false) :
    execSluice d a ta tb s = .next (s1.endSluice d a statusRecord 0 false lb) := by
  have reads : s.ReadsInto s1 := after ▸ State.ReadsInto.blockRead s _ _
  rw [execSluice, State.issue_reading s [d] [(a, ta)] _ hd ha free]
  simp only [aligned, ready, block, after, State.releaseWait, reads.drained, drained, reads.vaClass, illegal, ne_eq,
    not_true_eq_false, ↓reduceIte, Bool.false_eq_true, Bool.not_true, Bool.and_false, Bool.not_false]

section Legal
variable (legal : sluiceBlockOk bs (s.vaClass (wordAt bs 0) != .none && s.vaClass (wordAt bs 0) != .device) = true)
include legal

theorem execSluice_request_of_task (request : fieldAt bs 0x14 1 % 4 ≠ 0) (task : s.t.isTask = true) :
    execSluice d a ta tb s = .next (s1.endSluice d a statusDenied 6 ((fieldAt bs 0x14 1).testBit 7) lb) := by
  have reads : s.ReadsInto s1 := after ▸ State.ReadsInto.blockRead s _ _
  rw [execSluice, State.issue_reading s [d] [(a, ta)] _ hd ha free]
  simp only [aligned, ready, block, after, State.releaseWait, reads.drained, drained, reads.vaClass, legal, reads.isTask.trans task,
    request, ne_eq, not_true_eq_false, not_false_eq_true, ↓reduceIte, Bool.false_eq_true, Bool.not_true, Bool.and_false]

section Export
variable {bytes : List Byte} {ls : Label} {vf : Nat} {s2 : State} (no_request : fieldAt bs 0x14 1 % 4 = 0)
  (kind : fieldAt bs 0x15 1 = 0) (dest : fieldAt bs 0x16 2 = vf) (ready1 : s1.readHeld (wordAt bs 0) (fieldAt bs 0x10 4) = false)
  (data : s1.readVa s.t.ident.part s.t.localPan (wordAt bs 0) (fieldAt bs 0x10 4) s.t.isTask = .ok (bytes, ls))
  (after1 : s1.blockRead (wordAt bs 0) (fieldAt bs 0x10 4) = s2)
include no_request kind dest ready1 data after1

theorem execSluice_refused {r : Nat}
    (refused : s2.sluice s.t.ident.part (s.t.ctl.clabel ||| s.lbl a ||| lb ||| ls) (.host vf) (fieldAt bs 0x10 4) = .error r) :
    execSluice d a ta tb s = .next (s2.endSluice d a statusDenied r ((fieldAt bs 0x14 1).testBit 7) (lb ||| ls)) := by
  have reads : s.ReadsInto s1 := after ▸ State.ReadsInto.blockRead s _ _
  have reads1 : s.ReadsInto s2 := reads.trans (after1 ▸ State.ReadsInto.blockRead s1 _ _)
  rw [execSluice, State.issue_reading s [d] [(a, ta)] _ hd ha free]
  simp only [aligned, ready, block, after, State.releaseWait, reads.drained, drained, reads.vaClass, legal, reads.isTask,
    reads.localPan, no_request, ready1, data, after1, kind, dest, destOfKind, reads.clabel, reads1.lbl, refused, ne_eq,
    not_true_eq_false, ↓reduceIte, Bool.false_eq_true, Bool.not_true, Bool.and_false]

theorem execSluice_passed {m : Label} {s3 : State}
    (passed : s2.sluice s.t.ident.part (s.t.ctl.clabel ||| s.lbl a ||| lb ||| ls) (.host vf) (fieldAt bs 0x10 4) = .ok (m, s3)) :
    execSluice d a ta tb s =
      .next (((s3.exported (.host vf) (wordAt bs 8) bytes m).noteExport (.host vf)).endSluice d a 0 0 false lb) := by
  have reads : s.ReadsInto s1 := after ▸ State.ReadsInto.blockRead s _ _
  have reads1 : s.ReadsInto s2 := reads.trans (after1 ▸ State.ReadsInto.blockRead s1 _ _)
  rw [execSluice, State.issue_reading s [d] [(a, ta)] _ hd ha free]
  simp only [aligned, ready, block, after, State.releaseWait, reads.drained, drained, reads.vaClass, legal, reads.isTask,
    reads.localPan, no_request, ready1, data, after1, kind, dest, destOfKind, reads.clabel, reads1.lbl, passed, ne_eq,
    not_true_eq_false, ↓reduceIte, Bool.false_eq_true, Bool.not_true, Bool.and_false]

end Export
end Legal
end Sluice

theorem State.endSluice_answers (s : State) (d a : Reg) {status reason : Nat} {trap : Bool} (pages : Label)
    (told : (decide (status = statusDenied) && trap) = false) :
    s.endSluice d a status reason trap pages = s.replyIn d (sluiceWord status reason) (s.joined [a]) 29 := by
  simp only [State.endSluice, told, Bool.false_eq_true, ↓reduceIte]
  rfl

theorem State.endSluice_traps (s : State) (d a : Reg) (reason : Nat) (pages : Label) (traps : s.traps) :
    s.endSluice d a statusDenied reason true pages =
      s.trapped 0x17 s.t.pc 0 (sluiceWord statusDenied reason) (s.lbl a ||| s.t.patched ||| pages) := by
  simp only [State.endSluice, decide_true, Bool.and_self, ↓reduceIte, State.fail_traps _ _ _ _ _ _ traps, State.labelsOf_one]
  rfl

theorem mem_insertBy {α : Type} {le : α → α → Bool} {x y : α} {l : List α} : y ∈ insertBy le x l ↔ y = x ∨ y ∈ l := by
  induction l with
  | nil => simp [insertBy]
  | cons z l ih =>
    unfold insertBy
    split
    · exact List.mem_cons
    · simp only [List.mem_cons, ih]
      exact or_left_comm

theorem mem_sortBy {α : Type} {le : α → α → Bool} {y : α} {l : List α} : y ∈ sortBy le l ↔ y ∈ l := by
  induction l with
  | nil => exact Iff.rfl
  | cons x l ih => rw [sortBy, mem_insertBy, ih, List.mem_cons]

/-- Data whose label only the owner of a virtual function holds passes to it. -/
theorem State.sluice_owner {s : State} {vf owner : Nat} (part : Nat) {l : Label} (n : Nat)
    (bound : (s.vf? vf).map VirtFn.part = some owner) (held : labelLe l (partLabel owner) = true) :
    s.sluice part l (.host vf) n = .ok (l, s) := by
  simp only [State.sluice, State.destOwner, bound, held, ↓reduceIte]

/-- Other data is refused with 1 where no policy entry fits it. -/
theorem State.sluice_no_entry {s : State} {vf owner : Nat} (part : Nat) {l : Label} (n : Nat)
    (bound : (s.vf? vf).map VirtFn.part = some owner) (foreign : labelLe l (partLabel owner) = false)
    (none_fits : ∀ e ∈ s.sec.policies, ¬ (labelLe l e.labels = true ∧ e.dkind = 0 ∧ e.dest = vf)) :
    s.sluice part l (.host vf) n = .error 1 := by
  have mine : (s.policyOrder.filter fun e => e.fits l (.host vf)) = [] := by
    refine List.filter_eq_nil_iff.mpr fun e he fits => none_fits e (mem_sortBy.mp he) ?_
    have fits : (labelLe l e.labels && decide (e.dkind = 0) && decide (e.dest = vf)) = true := fits
    simpa [and_assoc] using fits
  simp only [State.sluice, State.destOwner, bound, foreign, mine, Bool.false_eq_true, ↓reduceIte, List.find?_nil, List.head?_nil]

/-- What leaves for a virtual function is noted, and of the state nothing else that a reply tells changes. -/
theorem exported_host_keep (s : State) (vf : Nat) (addr : Word) (bytes : List Byte) (m : Label) :
    let s' := (s.exported (.host vf) addr bytes m).noteExport (.host vf)
    s'.t = s.t ∧ s'.mem = s.mem ∧ s'.others = s.others ∧ s'.time.cycle = s.time.cycle ∧ s'.out = s.out ++ [.host vf addr bytes] :=
  ⟨rfl, rfl, rfl, rfl, rfl⟩

theorem testBit_seven (n : Nat) : n.testBit 7 = decide (n / 128 % 2 = 1) := Nat.testBit_eq_decide_div_mod_eq

theorem sluiceResults : Claims.SluiceResults := by
  intro s d a ta tb bs bytes lb ls vf owner hd ha free drained aligned ready block s1 op n s2 store l out
  have reads : s.ReadsInto s1 := State.ReadsInto.blockRead s _ _
  have reads2 : s.ReadsInto s2 := reads.trans (State.ReadsInto.blockRead s1 _ _)
  have after : s.blockRead (s.val a) 64 = s1 := rfl
  have after1 : s1.blockRead (wordAt bs 0) n = s2 := rfl
  have answered {s0 : State} {status reason : Nat} {trap : Bool} {pages : Label} (reads : s.ReadsInto s0)
      (told : (decide (status = statusDenied) && trap) = false)
      (run : execSluice d a ta tb s = .next (s0.endSluice d a status reason trap pages)) : out s0 (sluiceWord status reason) := by
    rw [State.endSluice_answers _ _ _ _ told, reads.joined] at run
    exact ⟨_, run, State.replyIn_outcome .., (State.replyIn_out ..).trans reads.out⟩
  clear_value s1 s2
  refine ⟨fun illegal => ?_, fun legal request task no_trap => ?_, fun legal no_request kind dest ready1 data bound =>
    ⟨fun held => ?_, fun foreign none_fits => ?_⟩⟩
  · exact answered reads rfl (execSluice_record ta tb hd ha free drained aligned ready block after illegal)
  · refine answered reads ?_ (execSluice_request_of_task ta tb hd ha free drained aligned ready block after legal request task)
    simp [testBit_seven, no_trap, op]
  · have bound2 : (s2.vf? vf).map VirtFn.part = some owner := by rw [State.vf?, reads2.vfs]; exact bound
    have run := execSluice_passed ta tb hd ha free drained aligned ready block after legal no_request kind dest ready1 data after1
      (State.sluice_owner _ _ bound2 held)
    obtain ⟨t, mem, others, cycle, sent⟩ := exported_host_keep s2 vf (wordAt bs 8) bytes l
    have label : State.joined _ [a] = s.joined [a] := (congrArg (fun t => t.ctl.clabel ||| t.patched ||| labelsOf t [a]) t).trans
      (reads2.joined [a])
    rw [State.endSluice_answers _ _ _ _ rfl, label] at run
    exact ⟨_, run, outcomeIn_of (State.replyIn_outcome ..) t mem others cycle,
      (State.replyIn_out ..).trans (sent.trans (by rw [reads2.out]))⟩
  · have bound2 : (s2.vf? vf).map VirtFn.part = some owner := by rw [State.vf?, reads2.vfs]; exact bound
    have run := execSluice_refused ta tb hd ha free drained aligned ready block after legal no_request kind dest ready1 data after1
      (State.sluice_no_entry _ _ bound2 foreign (reads2.sec ▸ none_fits))
    refine ⟨fun no_trap => answered reads2 ?_ run, fun trap traps => ?_⟩
    · simp [testBit_seven, no_trap, op]
    · have asked : (fieldAt bs 0x14 1).testBit 7 = true := by simp [testBit_seven, trap, op]
      rw [asked, State.endSluice_traps _ _ _ _ _ (reads2.handler.trans traps), reads2.pc, reads2.lbl, reads2.patched] at run
      exact run

/-! ## invoke (R147) -/

/-- What an instruction that gives a value at once leaves. -/
theorem State.write_retire (s : State) (d : Reg) (v : Word) (srcs : List Reg) :
    (s.write d v (s.resultLabel srcs)).retire 4 = s.wrote d v srcs 4 := by
  simp [State.wrote, State.put, State.retire, State.write, State.resultLabel_eq]

/-- The registers that `invoke` reads: chip, handler and the arguments. -/
theorem State.issue_invoke {s : State} {d a b : Reg} (hd : s.writable [d]) (hs : s.readable [a, b, 1, 2, 3, 4, 5, 6])
    {k : State → Result} :
    s.issue { Uses.none with dests := [d], srcs := ([a, b] ++ [1, 2, 3, 4, 5, 6]).map fun r => (r, false) } k = k s := by
  refine State.issue_scalar s [d] _ k hd ?_
  simpa using hs

section Invoke
variable {s : State} {d a b : Reg} {prio : Fin 4} (hd : s.writable [d]) (hs : s.readable [a, b, 1, 2, 3, 4, 5, 6])
include hd hs

theorem execInvoke_out_of_range (h : 4095 < (s.val a).toNat ∨ 255 < (s.val b).toNat) :
    execInvoke d a b prio s = .next (s.wrote d 3 [a, b] 4) := by
  rw [execInvoke, State.issue_invoke hd hs]
  have refused : (decide (4095 < (s.val a).toNat) || decide (255 < (s.val b).toNat)) = true := by simpa using h
  simp only [refused, ↓reduceIte, State.write_retire]

section Range
variable (chip : (s.val a).toNat ≤ 4095) (handler : (s.val b).toNat ≤ 255)
include chip handler

theorem execInvoke_no_port (other : (s.val a).toNat ≠ s.dev.chip)
    (none_attested : (s.portFor (s.val a).toNat).filter Port.attested = none) :
    execInvoke d a b prio s = .next (s.wrote d 4 [a, b] 4) := by
  rw [execInvoke, State.issue_invoke hd hs]
  have taken : (decide (4095 < (s.val a).toNat) || decide (255 < (s.val b).toNat)) = false := by simp [chip, handler]
  simp only [taken, other, none_attested, Bool.false_eq_true, ↓reduceIte, State.write_retire]

/-- The invocation of the thread at its turn, answered to a result. -/
def State.invocation (s : State) (a b : Reg) (prio : Fin 4) (reply : Nat) : Invocation :=
  ⟨(s.val a).toNat, none, some s.t.ident.part, (s.val b).toNat, prio.val, [1, 2, 3, 4, 5, 6].map s.val,
    [1, 2, 3, 4, 5, 6].map fun r => s.joined [r], reply⟩

theorem execInvoke_own_chip (own : (s.val a).toNat = s.dev.chip) :
    execInvoke d a b prio s =
      .next (((s.newFill [d] 1 (s.joined [a, b]) 0 .plain false false).2.schedule (s.time.cycle + 32)
        (.invocationArrival (s.invocation a b prio s.time.next))).retire 4) := by
  rw [execInvoke, State.issue_invoke hd hs]
  have taken : (decide (4095 < s.dev.chip) || decide (255 < (s.val b).toNat)) = false := by simp [← own, chip, handler]
  rw [State.invocation, own]
  simp only [taken, Bool.false_eq_true, ↓reduceIte]
  rfl

end Range
end Invoke

theorem reg_markEmpty_unless (t : Thread) {d r : Reg} (h : ¬ (r = d ∧ r ≠ 0)) : (t.markEmpty d).reg r = t.reg r := by
  by_cases hr : r = d
  · have zero : r = 0 := by simpa [hr] using h
    subst hr zero
    rfl
  · exact t.reg_markEmpty_other d r hr

/-- What an instruction leaves whose result for d is outstanding and whose turn was an issue. -/
theorem pendingOnly_newFill (s : State) (d : Reg) (l : Label) (c : Nat) (i : Instr) :
    pendingOnly s (((s.newFill [d] 1 l 0 .plain false false).2.schedule c i).retire 4) [d] (s.t.pc + 4) s.t.run := by
  have emptied : (((s.newFill [d] 1 l 0 .plain false false).2.schedule c i).retire 4).t =
      { s.t.markEmpty d with pc := (s.t.markEmpty d).pc + 4, prog := .fresh, proxy := false } := rfl
  unfold pendingOnly
  rw [emptied]
  refine ⟨rfl, rfl, by simp, by simp, by simp, by simp, by simp, by simp, by simp, by simp, fun r => ?_⟩
  show (s.t.markEmpty d).reg r = _
  by_cases hr : r = d ∧ r ≠ 0
  · obtain ⟨rfl, nonzero⟩ := hr
    simp [Thread.reg_markEmpty_same _ _ nonzero, nonzero]
  · exact (reg_markEmpty_unless s.t hr).trans (if_neg (by simpa using hr)).symm

theorem invokeResults : Claims.InvokeResults := by
  intro s d a b prio hd hs chip handler args given
  refine ⟨fun range => execInvoke_out_of_range hd hs range, fun hc hh other unattested =>
    execInvoke_no_port hd hs hc hh other unattested, fun hc hh own => ?_⟩
  refine ⟨_, { s.replyFill d (s.joined [a, b]) with resume := false }, execInvoke_own_chip hd hs hc hh own,
    pendingOnly_newFill .., List.mem_cons.mpr (.inl ?_), rfl, rfl, rfl, List.mem_append_right _ (List.mem_singleton_self _)⟩
  simp [State.replyFill]

end Sys2Proof.Machine

namespace Sys2Proof
open Machine

/-- Settles O31: the state after the read of a record or block differs from the one before only in what `State.ReadsInto` allows,
so the outcome told in d is that of `State.replyIn`. -/
theorem launchSluiceInvoke : Obligations.LaunchSluiceInvoke := ⟨launchResults, sluiceResults, invokeResults⟩

end Sys2Proof

/-! # Intake, completions and invocations of the launch unit (O37) -/

namespace Sys2Proof.Machine

open Claims (part answered)

/-! ## The launch window (R40, R41) -/

theorem labelLe_self (l : Label) : labelLe l l = true := by simp [labelLe]

theorem State.vf_modVf (s : State) (n : Nat) {f : VirtFn → VirtFn} (hf : ∀ v, (f v).num = v.num) :
    ((s.modVf n f).vfs.find? fun v => v.num = n) = (s.vfs.find? fun v => v.num = n).map f :=
  find?_map_ofKey hf s.vfs

theorem State.part?_modVf (s : State) (vf n : Nat) (f : VirtFn → VirtFn) : (s.modVf vf f).part? n = s.part? n := rfl

/-- Bytes that end before the last byte of a slot submit none. -/
theorem no_slot_ends {off n : Nat} (h : off % 64 + n ≤ 63) :
    (List.range 32).filter (fun k => decide (off ≤ 64 * k + 63) && decide (64 * k + 63 < off + n)) = [] := by
  refine List.filter_eq_nil_iff.mpr fun k _ ends => ?_
  simp only [Bool.and_eq_true, decide_eq_true_eq] at ends
  omega

/-- The 64 bytes of a slot submit it alone. -/
theorem one_slot_ends {k n : Nat} (hk : k < 32) (len : n = 64) :
    (List.range 32).filter (fun x => decide (64 * k ≤ 64 * x + 63) && decide (64 * x + 63 < 64 * k + n)) = [k] := by
  subst len
  interval_cases k <;> decide

/-- The host's bytes in the staging slots of a function. -/
def State.staged (s : State) (vf off : Nat) (data : List Byte) : State :=
  s.modVf vf fun v => { v with staging := cellsWrite v.staging off data }

theorem execLaunchWindowSubmit_eq {s : State} (powered : s.dev.pwrgd = true) (vf : Nat) {off : Nat} {data : List Byte}
    (fits : off + data.length ≤ 2048) {slots : List Nat}
    (ends : (List.range 32).filter (fun k => decide (off ≤ 64 * k + 63) && decide (64 * k + 63 < off + data.length)) = slots) :
    execLaunchWindowSubmit vf off data s = .next (slots.foldl (fun (s : State) k =>
      match s.vfs.find? fun v => v.num = vf with
      | some v => s.submitSlot v k
      | none => s) (s.staged vf off data)) := by
  have all : data.take (0x800 - off) = data := List.take_of_length_le (by omega)
  simp only [execLaunchWindowSubmit, powered, Bool.not_true, Bool.false_eq_true, ↓reduceIte, all, ends]
  rfl

/-- The record that a slot of a launch window holds. -/
def slotRecord (m : List Host.Cell) (k : Nat) : List Byte := (List.range 64).map fun i => cellGet m (64 * k + i)

/-- A function whose status word of a slot tells an arrival number. -/
def VirtFn.told (v : VirtFn) (k num : Nat) : VirtFn :=
  { v with status := (k, BitVec.ofNat 64 (num * 2 ^ 16)) :: v.status.filter fun x => x.1 ≠ k }

/-- A slot whose record is accepted: the job has entered, and the status word tells its number. -/
theorem State.submitSlot_accepted {s : State} {v : VirtFn} {p : Part} {k : Nat} (valid : v.valid = true)
    (hp : s.part? v.part = some p) (stays : p.retiring = false) (legal : s.recordOk p.num (slotRecord v.staging k) false = true)
    (room : p.recordsAt (fieldAt (slotRecord v.staging k) 0x17 1) < 256)
    (no_waiton : fieldAt (slotRecord v.staging k) 0x20 8 = 0) :
    s.submitSlot v k = (s.acceptJob v.part (jobOfRecord (slotRecord v.staging k) (some v.num))).modVf v.num fun x =>
      x.told k p.unit.arrivals := by
  have num : p.num = v.part := by simpa using List.find?_some hp
  have submitted := State.submitRecord_accepted hp stays (num ▸ labelLe_self (partLabel v.part)) (slotRecord v.staging k) (some v.num)
    legal room no_waiton
  rw [num] at submitted
  unfold slotRecord at submitted ⊢
  simp only [State.submitSlot, valid, submitted, ↓reduceIte]
  rfl

section Slot
variable {s : State} {v : VirtFn} (hv : (s.vfs.find? fun x => x.num = v.num) = some v) (data : List Byte)
include hv

theorem State.staged_vf (off : Nat) : ((s.staged v.num off data).vfs.find? fun x => x.num = v.num) =
    some { v with staging := cellsWrite v.staging off data } := by
  have found := s.vf_modVf v.num (f := fun v => { v with staging := cellsWrite v.staging off data }) fun _ => rfl
  rw [hv] at found
  exact found

/-- A slot that the host writes whole, with a record that is accepted. -/
theorem execLaunchWindowSubmit_slot {p : Part} {k : Nat} {m : List Host.Cell} (powered : s.dev.pwrgd = true) (hk : k < 32)
    (len : data.length = 64) (stored : cellsWrite v.staging (64 * k) data = m) (valid : v.valid = true)
    (hp : s.part? v.part = some p) (stays : p.retiring = false)
    (legal : (s.staged v.num (64 * k) data).recordOk p.num (slotRecord m k) false = true)
    (room : p.recordsAt (fieldAt (slotRecord m k) 0x17 1) < 256) (no_waiton : fieldAt (slotRecord m k) 0x20 8 = 0) :
    execLaunchWindowSubmit v.num (64 * k) data s =
      .next (((s.staged v.num (64 * k) data).acceptJob v.part (jobOfRecord (slotRecord m k) (some v.num))).modVf v.num fun x =>
        x.told k p.unit.arrivals) := by
  have found := State.staged_vf hv data (64 * k)
  rw [stored] at found
  have submitted := State.submitSlot_accepted (s := s.staged v.num (64 * k) data) (v := { v with staging := m }) valid hp stays legal
    room no_waiton
  rw [execLaunchWindowSubmit_eq powered v.num (by omega) (one_slot_ends hk len)]
  simp only [List.foldl_cons, List.foldl_nil, found, submitted]

/-- The function then has the bytes and tells the number, and the job is eligible. -/
theorem launchWindowSubmit_slot {p : Part} {k : Nat} {m : List Host.Cell} (powered : s.dev.pwrgd = true) (hk : k < 32)
    (len : data.length = 64) (stored : cellsWrite v.staging (64 * k) data = m) (valid : v.valid = true)
    (hp : s.part? v.part = some p) (stays : p.retiring = false)
    (legal : (s.staged v.num (64 * k) data).recordOk p.num (slotRecord m k) false = true)
    (room : p.recordsAt (fieldAt (slotRecord m k) 0x17 1) < 256) (no_waiton : fieldAt (slotRecord m k) 0x20 8 = 0) :
    ∃ s', exec (.launchWindowSubmit v.num (64 * k) data) s = .next s' ∧ s'.t = s.t ∧ s'.mem = s.mem ∧
      (∃ v', (s'.vfs.find? fun x => x.num = v.num) = some v' ∧ v'.staging = m ∧
        (v'.status.find? fun x => x.1 = k) = some (k, BitVec.ofNat 64 (p.unit.arrivals * 2 ^ 16))) ∧
      ∃ p', s'.part? v.part = some p' ∧
        (jobOfRecord (slotRecord m k) (some v.num)).accepted p.unit.arrivals s.time.cycle ∈ p'.unit.jobs := by
  have found := State.staged_vf hv data (64 * k)
  obtain ⟨p', hp', -, -, job⟩ :=
    State.acceptJob_part (s := s.staged v.num (64 * k) data) hp (jobOfRecord (slotRecord m k) (some v.num))
  have told := ((s.staged v.num (64 * k) data).acceptJob v.part (jobOfRecord (slotRecord m k) (some v.num))).vf_modVf v.num
    (f := fun x => x.told k p.unit.arrivals) fun _ => rfl
  rw [State.acceptJob_vfs, found, stored] at told
  have t := State.acceptJob_t (s.staged v.num (64 * k) data) v.part (jobOfRecord (slotRecord m k) (some v.num))
  have mem := State.acceptJob_mem (s.staged v.num (64 * k) data) v.part (jobOfRecord (slotRecord m k) (some v.num))
  have run := execLaunchWindowSubmit_slot hv data powered hk len stored valid hp stays legal room no_waiton
  generalize (s.staged v.num (64 * k) data).acceptJob v.part (jobOfRecord (slotRecord m k) (some v.num)) = accepted at *
  exact ⟨_, (exec_launchWindowSubmit ..).trans run, t, mem, ⟨_, told, rfl, List.find?_cons_of_pos (by simp)⟩, p', hp', job⟩

end Slot

/-! ## Wait-on words and aging (R43, R46) -/

section Waiton
variable {s : State} {p : Part} {j : Job} (hp : s.part? p.num = some p) (only : p.unit.jobs = [j]) (waits : j.eligible = none)
  (stands : j.closed = false)
include hp only waits stands

theorem State.readWaitons_one : s.readWaitons p.num = s.readWaiton p.num j := by
  simp [State.readWaitons, hp, only, waits, stands]

variable {bs : List Byte} {l : Label} (word : s.unitRead p.num (BitVec.ofNat 64 j.waiton) 8 = some (bs, l))
  (allowed : labelLe l (partLabel p.num) = true)
include word allowed

theorem execWaitonPoll_full (full : (bytesNat bs).testBit 63 = true)
    (good : j.flags.testBit 3 = true → bytesNat bs % 2 ^ 16 = 0) :
    execWaitonPoll p.num s = .next (s.makeEligible p.num j.num) := by
  have read : s.readWaitons p.num = s.makeEligible p.num j.num := by
    have ok : (j.flags.testBit 3 && decide (bytesNat bs % 2 ^ 16 ≠ 0)) = false := by simpa using good
    rw [State.readWaitons_one hp only waits stands]
    simp only [State.readWaiton, waits, stands, word, allowed, full, ok, Option.isSome_none, Bool.or_self, Bool.not_true,
      Bool.false_eq_true, ↓reduceIte]
  have left : (s.makeEligible p.num j.num).part? p.num = some (p.modJob j.num fun j => { j with eligible := some s.time.cycle }) := by
    refine (State.makeEligible_keep (π := fun s => s.part? p.num) (fun _ _ => rfl) s p.num j.num).trans ?_
    rw [State.part?_modJob, hp]
    rfl
  simp [execWaitonPoll, read, left, Part.modJob, only]

theorem execWaitonPoll_empty (empty : (bytesNat bs).testBit 63 = false) :
    execWaitonPoll p.num s = .next (s.scheduleOnce (s.time.cycle + 4096) (.waitonPoll p.num)) := by
  have read : s.readWaitons p.num = s := by
    rw [State.readWaitons_one hp only waits stands]
    simp only [State.readWaiton, waits, stands, word, allowed, empty, Option.isSome_none, Bool.or_self, Bool.not_true,
      Bool.not_false, Bool.false_eq_true, ↓reduceIte]
  simp [execWaitonPoll, read, hp, only, waits, stands]

end Waiton

/-- Asking partitions for passes changes the calendar alone, and a pass of each of them stands in it. -/
theorem State.askPasses (l : List Part) (s : State) :
    let s' := l.foldl (fun (s : State) p => s.askPass p.num) s
    s'.t = s.t ∧ s'.mem = s.mem ∧ s'.parts = s.parts ∧ s'.time.cycle = s.time.cycle ∧ s.time.calendar ⊆ s'.time.calendar ∧
      ∀ q ∈ l, (s.time.cycle, Instr.launchPlacementPass q.num) ∈ s'.time.calendar := by
  induction l generalizing s with
  | nil => exact ⟨rfl, rfl, rfl, rfl, List.Subset.refl _, by simp⟩
  | cons p l ih =>
    obtain ⟨t, mem, parts, cycle, kept, asked⟩ := ih (s.askPass p.num)
    have keep {α : Type} {π : State → α} (hπ : ∀ s calendar, π { s with time := { s.time with calendar := calendar } } = π s) :
        π (s.askPass p.num) = π s := State.scheduleOnce_keep hπ ..
    have cycle1 : (s.askPass p.num).time.cycle = s.time.cycle := keep (π := fun s => s.time.cycle) fun _ _ => rfl
    refine ⟨t.trans (keep (π := State.t) fun _ _ => rfl), mem.trans (keep (π := State.mem) fun _ _ => rfl),
      parts.trans (keep (π := State.parts) fun _ _ => rfl), cycle.trans cycle1,
      fun x hx => kept (State.scheduleOnce_subset _ _ _ hx), fun q hq => ?_⟩
    rcases List.mem_cons.mp hq with rfl | hq
    · exact kept (State.mem_scheduleOnce ..)
    · exact cycle1 ▸ asked q hq

theorem launchIntakeEvents : Claims.LaunchIntakeEvents := by
  intro s v data p j
  refine ⟨fun off powered hv inside fits => ?_, fun k hk powered hv valid len => ?_,
    fun hp only waits stands bs l word allowed => ⟨fun full good => ?_, fun empty => ?_⟩, ?_⟩
  · rw [exec_launchWindowSubmit, execLaunchWindowSubmit_eq powered v.num fits (no_slot_ends inside)]
    rfl
  · intro m r s1 hp num stays legal no_waiton room
    obtain ⟨s', run, t, mem, told, p', hp', job⟩ :=
      launchWindowSubmit_slot hv data powered hk len rfl valid hp stays (num ▸ legal) room no_waiton
    exact ⟨s', run, t, mem, told, p', hp', _, job, rfl, rfl, rfl, rfl⟩
  · rw [exec_waitonPoll, execWaitonPoll_full hp only waits stands word allowed full good]
    have keep {α : Type} {π : State → α} (hπ : ∀ s calendar, π { s with time := { s.time with calendar := calendar } } = π s) :=
      State.makeEligible_keep hπ s p.num j.num
    have left : (s.makeEligible p.num j.num).part? p.num = _ :=
      (keep (π := fun s => s.part? p.num) fun _ _ => rfl).trans (State.part?_modJob ..)
    rw [hp] at left
    refine ⟨_, _, rfl, keep (π := State.t) fun _ _ => rfl, keep (π := State.mem) fun _ _ => rfl, left, ?_⟩
    simp [Part.modJob, only]
  · rw [exec_waitonPoll, execWaitonPoll_empty hp only waits stands word allowed empty]
  · obtain ⟨t, mem, parts, -, -, asked⟩ := State.askPasses s.parts s
    exact ⟨_, rfl, t, mem, parts, asked⟩

/-! ## A completion word in a Pan store (R44) -/

/-- Bytes that were written read back as their number. -/
theorem cellsRead_write {m : List Host.Cell} (h : Cells.wf m = true) (a n v : Nat) :
    cellsRead (cellsWrite m a (natBytes n v)) a n = v % 256 ^ n := by
  induction n generalizing m a v with
  | zero => simp [cellsRead, Nat.mod_one]
  | succ n ih =>
    have set := Cells.wf_set m a (BitVec.ofNat 8 v) h
    have first : cellGet (cellsWrite (cellSet m a (BitVec.ofNat 8 v)) (a + 1) (natBytes n (v / 256))) a = BitVec.ofNat 8 v := by
      rw [cellGet_write_other _ _ _ _ set (.inl a.lt_succ_self), cellGet_set _ _ _ _ h, if_pos rfl]
    calc cellsRead (cellsWrite m a (natBytes (n + 1) v)) a (n + 1)
        = (BitVec.ofNat 8 v).toNat + 256 * (v / 256 % 256 ^ n) := by
          simp only [natBytes, cellsWrite, cellsRead, first, ih set]
      _ = v % 256 ^ (n + 1) := by rw [Nat.pow_succ', Nat.mod_mul, BitVec.toNat_ofNat]

/-- A store as it is after a word with its tag full. -/
def Memory.putFull (m : Memory) (n pa v : Nat) : Memory := ((m.writeAt (.pan n pa) 8 v).healWord (.pan n pa)).setTag n pa true

theorem Memory.putFull_read {m : Memory} (h : m.wf = true) (n pa : Nat) {v : Nat} (fits : v < 2 ^ 64) :
    (m.putFull n pa v).readAt (.pan n pa) 8 = v :=
  (cellsRead_write ((Memory.wf_iff m).mp h).2 _ 8 v).trans (Nat.mod_eq_of_lt fits)

theorem Memory.putFull_tag (m : Memory) (n pa v : Nat) : (m.putFull n pa v).tagFull n pa = true := by
  simp [Memory.putFull, Memory.tagFull, Memory.setTag, setDrop]

/-- A state after a word of a Pan store was written with its tag full. -/
def State.putFull (s : State) (n pa v : Nat) : State := { s with mem := s.mem.putFull n pa v }

theorem State.putFull_part? (s : State) (n pa v k : Nat) : (s.putFull n pa v).part? k = s.part? k := rfl

/-- A completion word is written into a store on which nothing waits. -/
theorem State.writeCompletion_pan {s : State} {n pa : Nat} {x : Target} (quiet : s.fab.waiters = []) {part va : Nat} (w : Word)
    (place : s.placeOf part 0 (BitVec.ofNat 64 va) writeKind false = .ok x) (loc : x.loc = .pan n pa)
    (allowed : labelLe (partLabel part) x.label = true) :
    s.writeCompletion part va w = some (s.putFull n pa w.toNat) := by
  have stored : s.store (.pan n pa) 8 w.toNat =
      { s with mem := (s.mem.writeAt (.pan n pa) 8 w.toNat).healWord (.pan n pa) } := by
    simp [State.store, State.erasedAt, State.wake, quiet]
  simp only [State.writeCompletion, place, allowed, loc, stored, State.tagChanged, State.waitersOn, quiet, Bool.not_true,
    Bool.false_eq_true, ↓reduceIte, List.filter_nil, List.map_nil, State.serviceQueue, State.putFull, Memory.putFull]

/-- A place in a Pan store is that of the partition's Pans and of the memory. -/
theorem State.placeOf_pan {s s' : State} {p pan : Nat} {va : Word} {k : AccKind} {task : Bool} {x : Target} {n pa : Nat}
    (place : s.placeOf p pan va k task = .ok x) (loc : x.loc = .pan n pa) (mem : s'.mem = s.mem)
    (owns : ∀ n, s'.ownsPan p n = s.ownsPan p n) : s'.placeOf p pan va k task = .ok x := by
  unfold State.placeOf at place ⊢
  split at place
  · split at place
    · simp at place
    · obtain rfl := Except.ok.inj place
      simp at loc
  · next h =>
    simp only [State.window, State.mapEntry, mem, owns] at place ⊢
    exact place
  · simp at place
  · simp at place

/-! ## The end of a launch (R44 to R46) -/

/-- A partition whose job is gone. -/
def Part.dropJob (p : Part) (num : Nat) : Part :=
  { p with unit := { p.unit with jobs := p.unit.jobs.filter fun x => x.num ≠ num } }

/-- A state in which the job of a partition is gone. -/
def State.dropJob (s : State) (n num : Nat) : State :=
  s.modUnit n fun u => { u with jobs := u.jobs.filter fun x => x.num ≠ num }

theorem State.dropJob_part? (s : State) (n num : Nat) : (s.dropJob n num).part? n = (s.part? n).map fun p => p.dropJob num :=
  s.part?_modPart n fun _ => rfl

theorem State.dropJob_ownsPan (s : State) (n num k : Nat) : (s.dropJob n num).ownsPan n k = s.ownsPan n k := by
  simp only [State.ownsPan, State.dropJob_part?]
  cases s.part? n with
  | none => rfl
  | some p => rfl

theorem State.dropJob_some {s : State} {p : Part} (hp : s.part? p.num = some p) (num : Nat) :
    (s.dropJob p.num num).part? p.num = some (p.dropJob num) := by
  rw [State.dropJob_part?, hp]
  rfl

theorem Part.dropJob_one {p : Part} {j : Job} (only : p.unit.jobs = [j]) : (p.dropJob j.num).unit.jobs = [] := by
  simp [Part.dropJob, only]

theorem State.job?_one {s : State} {p : Part} {j : Job} (hp : s.part? p.num = some p)
    (hj : (p.unit.jobs.find? fun y => y.num = j.num) = some j) : s.job? p.num j.num = some j := by
  rw [State.job?, hp]
  exact hj

/-- A partition without jobs has no wait-on word to read. -/
theorem State.readWaitons_none {s : State} {n : Nat} {p : Part} (hp : s.part? n = some p) (empty : p.unit.jobs = []) :
    s.readWaitons n = s := by
  simp [State.readWaitons, hp, empty]

/-- The end of a launch whose word, where it has one, is written, and which asks for no vector. -/
theorem execCompletionWrite_eq {s s1 : State} {n : Nat} {j : Job} (hj : s.job? n j.num = some j)
    (still : s.wordMoves n j.completion = false) (no_vector : j.flags.testBit 2 = false)
    (word : (if j.completion = 0 then some (s.dropJob n j.num) else (s.dropJob n j.num).writeCompletion n j.completion
      (BitVec.ofNat 64 (j.status + j.ended % 2 ^ 32 * 2 ^ 16 + 2 ^ 63))) = some s1) :
    execCompletionWrite n j.num s = .next (s1.readWaitons n) := by
  simp only [execCompletionWrite, hj, still, no_vector, Bool.false_eq_true, ↓reduceIte]
  by_cases none_asked : j.completion = 0
  · simp only [none_asked, ↓reduceIte, Option.some.injEq] at word ⊢
    rw [← word]
    rfl
  · simp only [none_asked, ↓reduceIte] at word ⊢
    unfold State.dropJob at word
    rw [word]

/-! ## Vectors (R45) -/

theorem State.vectorMasked_iff (s : State) (vf vec : Nat) :
    s.vectorMasked vf vec = true ↔ ∃ v ∈ s.vfs, v.num = vf ∧ v.masked.getLsbD vec = true := by
  simp [State.vectorMasked]

theorem completionEvents : Claims.CompletionEvents := by
  intro s p j vf vec ev n pa x
  refine ⟨fun unmasked => ?_, fun v hv num masked => ?_, rfl, fun hp hj only still no_vector =>
    ⟨fun none_asked => ?_, fun asked canonical quiet place loc allowed status => ?_⟩⟩
  · have clear : s.vectorMasked vf vec = false := by
      refine Bool.eq_false_iff.mpr fun set => ?_
      obtain ⟨v, hv, num, masked⟩ := (s.vectorMasked_iff vf vec).mp set
      simp [unmasked v hv num] at masked
    rw [exec_msixRaise, execMsixRaise, clear]
    rfl
  · rw [exec_msixRaise, execMsixRaise, (s.vectorMasked_iff vf vec).mpr ⟨v, hv, num, masked⟩]
    exact ⟨_, rfl, rfl, rfl, rfl, List.mem_map.mpr ⟨v, hv, if_pos num⟩⟩
  · have left := State.dropJob_some hp j.num
    rw [exec_completionWrite, execCompletionWrite_eq (State.job?_one hp hj) still no_vector (if_pos none_asked),
      State.readWaitons_none left (Part.dropJob_one only)]
    exact ⟨_, _, rfl, rfl, rfl, left, Part.dropJob_one only⟩
  · have fits : j.status + j.ended % 2 ^ 32 * 2 ^ 16 + 2 ^ 63 < 2 ^ 64 := by omega
    have place1 := State.placeOf_pan (s' := s.dropJob p.num j.num) place loc rfl (s.dropJob_ownsPan p.num j.num)
    have written := State.writeCompletion_pan (s := s.dropJob p.num j.num) quiet
      (BitVec.ofNat 64 (j.status + j.ended % 2 ^ 32 * 2 ^ 16 + 2 ^ 63)) place1 loc allowed
    rw [BitVec.toNat_ofNat, Nat.mod_eq_of_lt fits] at written
    have left := (State.putFull_part? (s.dropJob p.num j.num) n pa (j.status + j.ended % 2 ^ 32 * 2 ^ 16 + 2 ^ 63) p.num).trans
      (State.dropJob_some hp j.num)
    rw [exec_completionWrite, execCompletionWrite_eq (State.job?_one hp hj) still no_vector ((if_neg asked).trans written),
      State.readWaitons_none left (Part.dropJob_one only)]
    exact ⟨_, _, rfl, rfl, left, Part.dropJob_one only, Memory.putFull_read canonical n pa fits, Memory.putFull_tag ..⟩

/-! ## Invocations (R49 to R51, R147) -/

/-- An invocation whose sending partition is none of this chip is denied. -/
theorem State.acceptInvocation_unknown {s : State} {i : Invocation} {k : Nat} (port : i.port = some k)
    (unknown : s.localOf k i.part = none) : s.acceptInvocation i = (2, s) := by
  simp [State.acceptInvocation, State.senderHere, port, unknown]

/-- An invocation of the own chip that passes the checks of R50. -/
theorem State.acceptInvocation_own {s : State} {i : Invocation} {p : Part} {e : List Byte} (sender : i.part = some p.num)
    (hp : s.part? p.num = some p) (own : i.port = none) (stays : p.retiring = false) (table : p.regs.htbase ≠ 0)
    (entry : s.unitRead p.num (p.regs.htbase + BitVec.ofNat 64 (32 * i.handler)) 32 = some (e, partLabel p.num))
    (valid : entryOk e = true) (chip : Nat.land i.fromChip (fieldAt e 0xE 2) = Nat.land (fieldAt e 0xC 2) (fieldAt e 0xE 2))
    (allowed : labelLe (i.labels.foldl (fun u x => u ||| x) 0) (BitVec.ofNat 32 (fieldAt e 0x10 4)) = true)
    (room : (p.unit.jobs.filter fun j => j.inv.isSome && j.prio = min i.prio (fieldAt e 0xA 1 % 4)).length < 64) :
    s.acceptInvocation i = (0, s.acceptJob p.num (jobOfEntry i e (min i.prio (fieldAt e 0xA 1 % 4)))) := by
  obtain ⟨fromChip, port, sendingPart, handler, prio, data, labels, reply⟩ := i
  obtain rfl : port = none := own
  have here : sendingPart.bind s.part? = some p := by rw [show sendingPart = _ from sender]; exact hp
  have kept : (labels.map some).map (fun x => x.getD 0) = labels := by simp
  have joined : (labels.map some).foldl (fun (u : Label) x => u ||| x.getD 0) 0 = labels.foldl (fun u x => u ||| x) 0 := by
    simp [List.foldl_map]
  have mapped : (labels.map some).all Option.isSome = true := by simp
  have open_ : (p.retiring || decide (p.regs.htbase = 0)) = false := by
    rw [stays, decide_eq_false table]
    rfl
  simp only [State.acceptInvocation, State.senderHere, here, open_, entry, valid, chip, kept, joined, mapped, allowed,
    Nat.not_le.mpr room, ne_eq, not_true_eq_false, decide_false, Bool.not_true, Bool.or_self, Bool.false_eq_true, ↓reduceIte]
  rfl

theorem invocationEvents : Claims.InvocationEvents := by
  intro s i p e f
  refine ⟨fun k port unknown => ?_, fun sender hp own stays table entry valid chip allowed => ?_⟩
  · rw [exec_invocationArrival, execInvocationArrival, State.acceptInvocation_unknown port unknown]
    simp only [port]
    rfl
  · intro prio room hf one single
    obtain ⟨p', hp', -, -, job⟩ := State.acceptJob_part hp (jobOfEntry i e prio)
    have accepted := State.acceptInvocation_own sender hp own stays table entry valid chip allowed room
    have waiting : (s.acceptJob p.num (jobOfEntry i e prio)).fill? i.reply = some f := by
      rw [State.fill?, State.acceptJob_fab]
      exact hf
    have told := State.deliver_answers waiting one single 0 45
    rw [State.acceptJob_cycle] at told
    rw [exec_invocationArrival, execInvocationArrival, accepted]
    simp only [own]
    have left : ((s.acceptJob p.num (jobOfEntry i e prio)).deliver i.reply 0 0 none 45).part? p.num = some p' := by
      rw [State.part?, State.deliver_parts]
      exact hp'
    exact ⟨_, p', rfl, (State.deliver_t ..).trans (State.acceptJob_t ..), (State.deliver_mem ..).trans (State.acceptJob_mem ..), told,
      left, _, job, rfl, rfl, rfl, rfl, rfl, rfl, rfl⟩

end Sys2Proof.Machine

namespace Sys2Proof
open Machine

/-- Settles O37: a record or an invocation that passes its checks is accepted by `State.acceptJob`, and the end of a job takes it
from its unit before its word is written. -/
theorem launchUnitEvents : Obligations.LaunchUnitEvents := ⟨launchIntakeEvents, completionEvents, invocationEvents⟩

end Sys2Proof

/-! # What reset leaves (O56) -/

namespace Sys2Proof.Machine

/-! ## Threads, slots and memory at reset (R71, R82, R421) -/

/-- At reset the one slot that is not FREE is that of the thread of the ROM. -/
theorem State.slot_reset_free {core slot : Nat} (other : core ≠ 8448 ∨ slot ≠ 0) : (State.reset.slot core slot).state = .free := by
  have elsewhere : ¬ (8448 = core ∧ 0 = slot) := fun ⟨c, n⟩ => other.elim (· c.symm) (· n.symm)
  simp [State.slot, State.reset, elsewhere]

/-- At reset no byte of either store is listed, no tag empty and no word or sector in error. -/
theorem reset_mem_clear :
    (∀ pa, State.reset.mem.gbyte pa = 0) ∧ (∀ k, cellGet State.reset.mem.pan k = 0) ∧
      (∀ n pa, State.reset.mem.tagFull n pa = true) ∧ ∀ l, State.reset.mem.bad l = false :=
  ⟨fun _ => rfl, fun _ => rfl, fun _ _ => rfl, fun l => by cases l <;> rfl⟩

theorem reset_function_clear {v : VirtFn} (h : v ∈ State.reset.vfs) : v.valid = false ∧ v.staging = [] ∧ v.status = [] := by
  obtain ⟨n, -, rfl⟩ := List.mem_map.mp h
  exact ⟨rfl, rfl, rfl⟩

theorem reset_port_unattested {p : Port} (h : p ∈ State.reset.sec.ports) : p.attested = false := by
  obtain ⟨n, -, rfl⟩ := List.mem_map.mp h
  rfl

end Sys2Proof.Machine

namespace Sys2Proof
open Machine

/-- Settles O56: the thread, its slot and the empty lists are the record's own fields; slots, memory, functions and ports by the lemmas
above. -/
theorem resetState : Obligations.ResetState := by
  obtain ⟨global, pan, full, good⟩ := reset_mem_clear
  exact ⟨rfl, rfl, rfl, rfl, rfl, rfl, rfl, fun _ _ => State.slot_reset_free, global, pan, full, good, rfl, rfl,
    by simp [State.reset], fun _ => reset_function_clear, by simp [State.reset], fun _ => reset_port_unattested, rfl, rfl, rfl, rfl, rfl, rfl, rfl⟩

end Sys2Proof

/-! # Operations that a resize and the Rake share (for O41 and O42)

What they leave is said once for every part of the state, as a projection `π` that the fields they write do not change; a slot that is
freed and a run of a store that is cleared are read back. -/

namespace Sys2Proof.Machine

/-- What each step of a fold leaves, for the elements it meets, the fold leaves. -/
theorem foldl_keep_of_mem {σ α β : Type} {π : σ → β} {f : σ → α → σ} {l : List α} (hf : ∀ a ∈ l, ∀ s, π (f s a) = π s) (s : σ) :
    π (l.foldl f s) = π s := by
  induction l generalizing s with
  | nil => rfl
  | cons a l ih =>
    obtain ⟨head, tail⟩ := List.forall_mem_cons.mp hf
    exact (ih tail _).trans (head s)

theorem foldl_keep {σ α β : Type} {π : σ → β} {f : σ → α → σ} (hf : ∀ s a, π (f s a) = π s) (l : List α) (s : σ) :
    π (l.foldl f s) = π s :=
  foldl_keep_of_mem (fun a _ s => hf s a) s

/-! ## The resize in progress (R66 to R71) -/

section Resize
variable {s : State} {r : Resize} {α : Type} {π : State → α}

theorem State.modResize_of (h : s.dev.resize = some r) (f : Resize → Resize) :
    s.modResize f = { s with dev := { s.dev with resize := some (f r) } } := by simp [State.modResize, h]

theorem State.modResize_keep (hπ : ∀ s resize, π { s with dev := { s.dev with resize := resize } } = π s) (s : State)
    (f : Resize → Resize) : π (s.modResize f) = π s := by
  unfold State.modResize
  split
  · exact hπ ..
  · rfl

/-- A resize with a page still to move goes on. -/
theorem State.checkResize_of_moves (h : s.dev.resize = some r) (moves : r.moves ≠ []) : s.checkResize = s := by
  simp [State.checkResize, h, moves]

/-- The end of a resize changes the resize and what is due. -/
theorem State.checkResize_keep
    (hπ : ∀ s resize agenda, π { s with dev := { s.dev with resize := resize }, time := { s.time with agenda := agenda } } = π s)
    (s : State) : π s.checkResize = π s := by
  unfold State.checkResize
  split
  · rfl
  · split
    · exact (foldl_keep (fun s _ => hπ s s.dev.resize _) _ _).trans (hπ s none s.time.agenda)
    · rfl

end Resize

/-! ## A slot becomes FREE (R58, R67) -/

/-- A slot's record names its place. -/
theorem State.slot_place (s : State) (core slot : Nat) : (s.slot core slot).core = core ∧ (s.slot core slot).slot = slot := by
  unfold State.slot
  cases found : s.slots.find? fun x => x.core = core && x.slot = slot with
  | none => exact ⟨rfl, rfl⟩
  | some x => simpa using List.find?_some found

theorem State.slot_setSlot_free (s : State) (core slot : Nat) :
    ((s.setSlot ⟨core, slot, .free, false, 0, []⟩).slot core slot).state = .free := by
  have none_left : (s.slots.filter fun y => !(y.core = core && y.slot = slot)).find? (fun y => y.core = core && y.slot = slot) = none :=
    List.find?_eq_none.mpr fun y hy here => by simpa [here] using (List.mem_filter.mp hy).2
  exact congrArg (fun x : Option Slot => (x.getD ⟨core, slot, .free, false, 0, []⟩).state) none_left

section Free
variable {α : Type} {π : State → α} (hπ : ∀ s agenda calendar, π { s with time := { s.time with agenda := agenda, calendar := calendar } } = π s)
  (s : State) (core slot : Nat)
include hπ

/-- Beside the slot, what becomes FREE changes only what is due. -/
theorem State.vacate_keep (part : Nat) : π (s.vacate core slot part) = π (s.setSlot ⟨core, slot, .free, false, 0, []⟩) := by
  unfold State.vacate
  dsimp only
  split
  · exact (State.scheduleOnce_keep (fun s calendar => hπ s s.time.agenda calendar) ..).trans (hπ _ _ s.time.calendar)
  · exact hπ _ _ s.time.calendar

theorem State.freeScrubbed_keep : π (s.freeScrubbed core slot) = π (s.setSlot ⟨core, slot, .free, false, 0, []⟩) := by
  unfold State.freeScrubbed
  split
  · exact State.vacate_keep hπ ..
  · rfl

end Free

theorem State.freeScrubbed_slot (s : State) (core slot : Nat) : ((s.freeScrubbed core slot).slot core slot).state = .free :=
  (State.freeScrubbed_keep (π := fun s => (s.slot core slot).state) (fun _ _ _ => rfl) s core slot).trans (s.slot_setSlot_free ..)

/-! ## Stores that are cleared, written and waited on (R71, R203, R224, R420) -/

/-- A byte that no cell lists reads 0. -/
theorem cellGet_unlisted {m : List Host.Cell} {a : Nat} (h : ∀ c ∈ m, c.1 ≠ a) : cellGet m a = 0 := by
  induction m with
  | nil => rfl
  | cons c m ih =>
    obtain ⟨head, tail⟩ := List.forall_mem_cons.mp h
    simp [cellGet, Ne.symm head, ih tail]

/-- A run of bytes that is written reads back. -/
theorem cellGet_write {m : List Host.Cell} (h : Cells.wf m = true) (a : Nat) {bs : List Byte} {k : Nat} (hk : k < bs.length) :
    cellGet (cellsWrite m a bs) (a + k) = bs[k] := by
  induction bs generalizing m a k with
  | nil => simp at hk
  | cons b bs ih =>
    have set := Cells.wf_set m a b h
    cases k with
    | zero => rw [cellsWrite, cellGet_write_other _ _ _ _ set (.inl (by omega)), cellGet_set _ _ _ _ h]; exact if_pos rfl
    | succ k => rw [cellsWrite, show a + (k + 1) = a + 1 + k by omega, ih set (a + 1) (by simpa using hk)]; rfl

/-- A cleared vat keeps the cells outside it. -/
theorem Memory.mem_clearVat {m : Memory} {n vat : Nat} {c : Host.Cell} :
    c ∈ (m.clearVat n vat).pan ↔ c ∈ m.pan ∧ ¬ (panKey n (vat * 2 ^ 16) ≤ c.1 ∧ c.1 < panKey n (vat * 2 ^ 16) + 2 ^ 16) := by
  have size : (vat + 1) * 2 ^ 16 - vat * 2 ^ 16 = 2 ^ 16 := by omega
  simp only [Memory.clearVat, Memory.clearPan, cellsClear, size, List.mem_filter, Bool.not_eq_true', Bool.and_eq_false_iff,
    decide_eq_false_iff_not, not_and_or]

theorem panKey_small (n : Nat) {pa : Nat} (h : pa < 2 ^ 25) : panKey n pa = n * 2 ^ 25 + pa := by rw [panKey, Nat.mod_eq_of_lt h]

/-- A vat of a Pan that is cleared reads 0. -/
theorem Memory.clearVat_read (m : Memory) (n vat : Nat) {k : Nat} (hk : k < 2 ^ 16) :
    cellGet (m.clearVat n vat).pan (panKey n (vat * 2 ^ 16) + k) = 0 :=
  cellGet_unlisted fun _ listed e => (Memory.mem_clearVat.mp listed).2 ⟨e ▸ Nat.le_add_right .., e ▸ Nat.add_lt_add_left hk _⟩

/-- Cleared vats keep the cells outside all of them. -/
theorem Memory.mem_clearVats {m : Memory} {n : Nat} {vat : Nat → Nat} {l : List Nat} {c : Host.Cell} :
    c ∈ (l.foldl (fun m k => m.clearVat n (vat k)) m).pan ↔
      c ∈ m.pan ∧ ∀ k ∈ l, ¬ (panKey n (vat k * 2 ^ 16) ≤ c.1 ∧ c.1 < panKey n (vat k * 2 ^ 16) + 2 ^ 16) := by
  induction l generalizing m with
  | nil => simp
  | cons k l ih => rw [List.foldl_cons, ih, Memory.mem_clearVat, List.forall_mem_cons, and_assoc]

/-- A cellar of a Pan that is cleared reads 0. -/
theorem Memory.clearCellar_read (m : Memory) (n : Nat) {cellar k : Nat} (hc : cellar < 128) (hk : k < 2 ^ 18) :
    cellGet (m.clearCellar n cellar).pan (panKey n (cellar * 2 ^ 18) + k) = 0 := by
  refine cellGet_unlisted fun c listed e => (Memory.mem_clearVats.mp listed).2 (k / 2 ^ 16) (List.mem_range.mpr (by omega)) ?_
  rw [panKey_small n (by omega)] at e ⊢
  omega

/-- On a store on which nothing waits, set tags serve nobody. -/
theorem State.tagsSet_quiet {s : State} (quiet : s.fab.waiters = []) (n lo hi : Nat) : s.tagsSet n lo hi = s := by
  simp [State.tagsSet, quiet]

end Sys2Proof.Machine

/-! # Slots, pages and cellars that change their owner (O41) -/

namespace Sys2Proof.Machine

/-! ## The handover of a slot (R67) -/

section Handover
variable {s : State} {core slot : Nat}

/-- A slot whose owner does not change stays. -/
theorem execSlotHandover_stays (h : s.departing core slot = false) : execSlotHandover core slot s = .next s := by
  simp [execSlotHandover, h]

/-- A departing slot that no gang holds enters SCRUB. -/
theorem execSlotHandover_scrubs (h : s.departing core slot = true) (empty : s.gangsOn [(core, slot)] = []) :
    execSlotHandover core slot s = .next (s.scrubSlot core slot) := by
  simp [execSlotHandover, h, empty]

/-- What a scrub leaves. -/
theorem State.scrubSlot_spec {r : Resize} (h : s.dev.resize = some r) :
    (s.scrubSlot core slot).t = s.t ∧ (s.scrubSlot core slot).mem = s.mem ∧ ((s.scrubSlot core slot).slot core slot).state = .scrub ∧
      (s.time.cycle + 64, Instr.slotScrubDone core slot) ∈ (s.scrubSlot core slot).time.calendar ∧
      (s.scrubSlot core slot).dev.resize =
        some { r with slots := r.slots.filter (fun x => x ≠ (core, slot)), scrubs := r.scrubs ++ [(core, slot)] } := by
  have scrubbed := State.slot_setSlot_same (s.dropBlocks (fetchPlace core)) (x := ⟨core, slot, .scrub, false, 0, []⟩) (by simp)
  have resize : ((s.dropBlocks (fetchPlace core)).setSlot ⟨core, slot, .scrub, false, 0, []⟩).dev.resize = some r := h
  simp only [State.scrubSlot, State.modResize_of resize]
  exact ⟨rfl, rfl, congrArg Slot.state scrubbed, List.mem_append_right _ (List.mem_singleton_self _), rfl⟩

/-- The fold of a gang that holds a departing slot is asked for, and the resize waits for it. -/
def State.displace (s : State) (g : Nat) : State :=
  match s.gang? g with
  | some x =>
    let s := s.modResize fun r => { r with folds := if r.folds.contains g then r.folds else r.folds ++ [g] }
    if x.folding then s else s.push (.fold x.part g 0)
  | none => s

theorem execSlotHandover_folds (h : s.departing core slot = true) (held : s.gangsOn [(core, slot)] ≠ []) :
    execSlotHandover core slot s = .next
      (((s.gangsOn [(core, slot)]).foldl State.displace s).schedule (s.time.cycle + 16) (.slotHandover core slot)) := by
  simp only [execSlotHandover, h, Bool.not_true, Bool.false_eq_true, ↓reduceIte, List.isEmpty_iff, held]
  rfl

theorem State.displace_keep {α : Type} {π : State → α}
    (hπ : ∀ s resize agenda, π { s with dev := { s.dev with resize := resize }, time := { s.time with agenda := agenda } } = π s)
    (s : State) (g : Nat) : π (s.displace g) = π s := by
  have resized := State.modResize_keep (π := π) (fun s resize => hπ s resize s.time.agenda) s
  unfold State.displace
  split
  · dsimp only
    split
    · exact resized _
    · exact (hπ _ _ _).trans (resized _)
  · rfl

/-- The folds asked for change the resize and what is due. -/
theorem State.displaceAll_keep {α : Type} {π : State → α}
    (hπ : ∀ s resize agenda, π { s with dev := { s.dev with resize := resize }, time := { s.time with agenda := agenda } } = π s)
    (l : List Nat) (s : State) : π (l.foldl State.displace s) = π s :=
  foldl_keep (State.displace_keep hπ) l s

theorem State.displace_agenda_subset (s : State) (g : Nat) : s.time.agenda ⊆ (s.displace g).time.agenda := by
  unfold State.displace
  split
  · dsimp only
    split
    · rw [State.modResize_keep (π := fun s => s.time.agenda) fun _ _ => rfl]; exact List.Subset.refl _
    · rw [State.push_time, State.modResize_keep (π := State.time) fun _ _ => rfl]; exact List.subset_append_left ..
  · exact List.Subset.refl _

theorem State.displaceAll_agenda_subset (l : List Nat) (s : State) : s.time.agenda ⊆ (l.foldl State.displace s).time.agenda := by
  induction l generalizing s with
  | nil => exact List.Subset.refl _
  | cons g l ih => exact List.Subset.trans (s.displace_agenda_subset g) (ih _)

theorem State.mem_displace {s : State} {gid : Nat} {g : Gang} (hg : s.gang? gid = some g) (idle : g.folding = false) :
    Instr.fold g.part gid 0 ∈ (s.displace gid).time.agenda := by
  simp [State.displace, hg, idle]

/-- Each gang of a list that does not fold yet has its fold asked for. -/
theorem State.mem_displaceAll {l : List Nat} {s : State} {gid : Nat} {g : Gang} (listed : gid ∈ l) (hg : s.gang? gid = some g)
    (idle : g.folding = false) : Instr.fold g.part gid 0 ∈ (l.foldl State.displace s).time.agenda := by
  induction l generalizing s with
  | nil => simp at listed
  | cons x l ih =>
    rcases List.mem_cons.mp listed with rfl | later
    · exact State.displaceAll_agenda_subset l _ (State.mem_displace hg idle)
    · exact ih later ((State.displace_keep (π := fun s => s.gang? gid) (fun _ _ _ => rfl) s x).trans hg)

/-- A resize without the scrub of a slot. -/
def State.scrubOver (s : State) (core slot : Nat) : State :=
  s.modResize fun r => { r with scrubs := r.scrubs.filter fun x => x ≠ (core, slot) }

/-- A scrub that is over leaves the record of each slot to what follows it. -/
theorem State.slot_scrubOver (s : State) (core slot : Nat) : (s.scrubOver core slot).slot core slot = s.slot core slot :=
  State.modResize_keep (π := fun s => s.slot core slot) (fun _ _ => rfl) s _

theorem execSlotScrubDone_frees (h : (s.slot core slot).state = .scrub) :
    execSlotScrubDone core slot s = .next ((s.scrubOver core slot).freeScrubbed core slot).checkResize := by
  have scrub : ((s.scrubOver core slot).slot core slot).state = .scrub := by rw [s.slot_scrubOver, h]
  exact congrArg (fun x : State => Host.Outcome.next x.checkResize) (if_pos (beq_iff_eq.mpr scrub))

theorem execSlotScrubDone_stays (h : (s.slot core slot).state ≠ .scrub) :
    execSlotScrubDone core slot s = .next (s.scrubOver core slot).checkResize := by
  have other : ((s.scrubOver core slot).slot core slot).state ≠ .scrub := by rwa [s.slot_scrubOver]
  exact congrArg (fun x : State => Host.Outcome.next x.checkResize) (if_neg (beq_iff_eq.not.mpr other))

/-- What changes neither with the resize nor with what is due, the end of a scrub leaves. -/
theorem State.scrubOver_keep {α : Type} {π : State → α}
    (hπ : ∀ s resize agenda, π { s with dev := { s.dev with resize := resize }, time := { s.time with agenda := agenda } } = π s)
    (s : State) (core slot : Nat) : π (s.scrubOver core slot).checkResize = π s :=
  (State.checkResize_keep hπ _).trans (State.modResize_keep (fun s resize => hπ s resize s.time.agenda) s _)

/-- What changes neither with the slots nor with the resize nor with what is due, a slot that is freed leaves. -/
theorem State.slotFreed_keep {α : Type} {π : State → α} (hπ : ∀ s slots resize agenda calendar,
      π { s with slots := slots, dev := { s.dev with resize := resize }, time := { s.time with agenda := agenda, calendar := calendar } } = π s)
    (s : State) (core slot : Nat) : π ((s.scrubOver core slot).freeScrubbed core slot).checkResize = π s :=
  calc π ((s.scrubOver core slot).freeScrubbed core slot).checkResize
      = π ((s.scrubOver core slot).freeScrubbed core slot) :=
        State.checkResize_keep (fun s resize agenda => hπ s s.slots resize agenda s.time.calendar) _
    _ = π ((s.scrubOver core slot).setSlot ⟨core, slot, .free, false, 0, []⟩) :=
        State.freeScrubbed_keep (fun s agenda calendar => hπ s s.slots s.dev.resize agenda calendar) _ core slot
    _ = π (s.scrubOver core slot) := hπ _ _ (s.scrubOver core slot).dev.resize _ (s.scrubOver core slot).time.calendar
    _ = π s := State.modResize_keep (fun s resize => hπ s s.slots resize s.time.agenda s.time.calendar) s _

/-- A resize with a page still to move has lost the scrub alone. -/
theorem State.slotFreed_resize {r : Resize} (h : s.dev.resize = some r) (moves : r.moves ≠ []) :
    ((s.scrubOver core slot).freeScrubbed core slot).checkResize.dev.resize =
      some { r with scrubs := r.scrubs.filter fun x => x ≠ (core, slot) } := by
  have left : (s.scrubOver core slot).dev.resize = some { r with scrubs := r.scrubs.filter fun x => x ≠ (core, slot) } :=
    congrArg (fun s => s.dev.resize) (State.modResize_of h _)
  have freed := (State.freeScrubbed_keep (π := fun s => s.dev.resize) (fun _ _ _ => rfl) (s.scrubOver core slot) core slot).trans left
  rwa [State.checkResize_of_moves freed moves]

end Handover

theorem slotResize : Claims.SlotResize := by
  intro s core slot c
  refine ⟨fun h => ⟨s, execSlotHandover_stays (by simp [State.departing, h]), rfl⟩, fun r h => ?_, fun scrub => ?_, fun other => ?_⟩
  · have departing (x : (core, slot) ∈ r.slots) : s.departing core slot = true := by simpa [State.departing, h] using x
    refine ⟨fun stays => ⟨s, execSlotHandover_stays (by simpa [State.departing, h] using stays), rfl⟩, fun goes empty => ?_,
      fun goes held => ?_⟩
    · exact ⟨_, execSlotHandover_scrubs (departing goes) empty, State.scrubSlot_spec h⟩
    · have keep {α : Type} {π : State → α} := State.displaceAll_keep (π := π) (l := s.gangsOn [(core, slot)]) (s := s)
      exact ⟨_, execSlotHandover_folds (departing goes) held, keep (π := State.t) fun _ _ _ => rfl, keep (π := State.mem) fun _ _ _ => rfl,
        List.mem_append_right _ (List.mem_singleton_self _), fun gid listed g hg idle => State.mem_displaceAll listed hg idle⟩
  · refine ⟨_, execSlotScrubDone_frees scrub, State.slotFreed_keep (π := State.t) (fun _ _ _ _ _ => rfl) s core slot,
      State.slotFreed_keep (π := State.mem) (fun _ _ _ _ _ => rfl) s core slot, ?_, fun r h moves => State.slotFreed_resize h moves⟩
    exact (congrArg Slot.state (State.checkResize_keep (π := fun s => s.slot core slot) (fun _ _ _ => rfl) _)).trans
      (State.freeScrubbed_slot ..)
  · have keep {α : Type} {π : State → α} := State.scrubOver_keep (π := π) (s := s) (core := core) (slot := slot)
    exact ⟨_, execSlotScrubDone_stays other, keep (π := State.t) fun _ _ _ => rfl, keep (π := State.mem) fun _ _ _ => rfl,
      keep (π := fun s => s.slot core slot) fun _ _ _ => rfl⟩

/-! ## The map of a partition (R205) -/

/-- An entry names its place. -/
theorem State.mapEntry_place (s : State) (part pan page : Nat) :
    (s.mapEntry part pan page).part = part ∧ (s.mapEntry part pan page).pan = pan ∧ (s.mapEntry part pan page).page = page := by
  unfold State.mapEntry
  cases found : s.mem.maps.find? fun e => e.part = part && e.pan = pan && e.page = page with
  | none => exact ⟨rfl, rfl, rfl⟩
  | some e => simpa [and_assoc] using List.find?_some found

/-- The map is a part of the memory. -/
theorem State.mapEntry_of_mem {s s' : State} (h : s'.mem = s.mem) (part pan page : Nat) :
    s'.mapEntry part pan page = s.mapEntry part pan page := by
  unfold State.mapEntry
  rw [h]

@[simp] theorem State.setMapEntry_hbm (s : State) (e : MapEntry) : (s.setMapEntry e).mem.hbm = s.mem.hbm := rfl
@[simp] theorem State.setMapEntry_pan (s : State) (e : MapEntry) : (s.setMapEntry e).mem.pan = s.mem.pan := rfl

/-- An entry that is not 0 reads back. -/
theorem State.mapEntry_setMapEntry (s : State) {e : MapEntry} {part pan page : Nat} (place : e.part = part ∧ e.pan = pan ∧ e.page = page)
    (h : e.valid = true ∨ e.moving = true) : (s.setMapEntry e).mapEntry part pan page = e := by
  obtain ⟨rfl, rfl, rfl⟩ := place
  have listed : (!e.valid && !e.read && !e.write && !e.moving && e.cellar = 0 && e.frame = 0 && e.label = 0) = false := by
    rcases h with h | h <;> simp [h]
  simp only [State.setMapEntry, State.mapEntry, listed, Bool.false_eq_true, ↓reduceIte]
  rw [List.find?_cons_of_pos (by simp)]
  rfl

/-! ## The beginning of a move (R69, R70) -/

section Move
variable {s : State} {part pan page : Nat}

/-- A page that has begun to move: its entry is marked, and a range of the system queue stands over it. -/
def State.moveBegun (s : State) (part pan page : Nat) : State :=
  let s1 := s.fresh.2.setMapEntry { s.mapEntry part pan page with moving := true }
  { s1 with fab := { s1.fab with
    ranges := s1.fab.ranges ++ [⟨systemQueue, moveKey part pan page, part, pan, page, page, true, true, s.fresh.1⟩] } }

/-- A move waits for the commands that hold its page. -/
def State.moveHeld (s : State) (part pan page : Nat) : Bool :=
  s.moveWaits part pan page (((s.fab.ranges.find? fun r => r.engine = systemQueue && r.cmd = moveKey part pan page).map Range.order).getD 0)

/-- A move is looked at: it is looked at again while commands hold its page, and else its copy begins. -/
def State.moveLooked (s : State) (part pan page : Nat) : State :=
  if s.moveHeld part pan page then s.schedule (s.time.cycle + 16) (.pageMove part pan page)
  else s.schedule (s.time.cycle + 10240) (.pageMoveRetire part pan page)

theorem execPageMove_goes_on (moving : (s.mapEntry part pan page).moving = true) :
    execPageMove part pan page s = .next (s.moveLooked part pan page) := by
  simp only [execPageMove, moving, ↓reduceIte]
  exact (apply_ite _ _ _ _).symm

theorem State.releaseWaiters_quiet (quiet : s.fab.waiters = []) : s.releaseWaiters part pan page = s := by
  simp [State.releaseWaiters, quiet]

theorem execPageMove_begins (still : (s.mapEntry part pan page).moving = false) (quiet : s.fab.waiters = []) :
    execPageMove part pan page s = .next ((s.moveBegun part pan page).moveLooked part pan page) := by
  have released := State.releaseWaiters_quiet (s := s.fresh.2.setMapEntry { s.mapEntry part pan page with moving := true })
    (part := part) (pan := pan) (page := page) quiet
  simp only [execPageMove, still, Bool.false_eq_true, ↓reduceIte, released]
  exact (apply_ite _ _ _ _).symm

theorem State.moveLooked_keep {α : Type} {π : State → α}
    (hπ : ∀ s calendar, π { s with time := { s.time with calendar := calendar } } = π s) (s : State) (part pan page : Nat) :
    π (s.moveLooked part pan page) = π s := by
  unfold State.moveLooked
  split <;> exact hπ s _

theorem State.mem_moveLooked_held (held : s.moveHeld part pan page = true) :
    (s.time.cycle + 16, Instr.pageMove part pan page) ∈ (s.moveLooked part pan page).time.calendar := by
  simp [State.moveLooked, held]

theorem State.mem_moveLooked_free (free : s.moveHeld part pan page = false) :
    (s.time.cycle + 10240, Instr.pageMoveRetire part pan page) ∈ (s.moveLooked part pan page).time.calendar := by
  simp [State.moveLooked, free]

theorem State.mem_moveLooked (s : State) (part pan page : Nat) :
    (s.time.cycle + 10240, Instr.pageMoveRetire part pan page) ∈ (s.moveLooked part pan page).time.calendar ∨
      (s.time.cycle + 16, Instr.pageMove part pan page) ∈ (s.moveLooked part pan page).time.calendar := by
  cases held : s.moveHeld part pan page with
  | true => exact .inr (State.mem_moveLooked_held held)
  | false => exact .inl (State.mem_moveLooked_free held)

/-- Where no other range stands, nothing holds a page that begins to move. -/
theorem State.moveBegun_free (alone : s.fab.ranges = []) : (s.moveBegun part pan page).moveHeld part pan page = false := by
  simp [State.moveHeld, State.moveWaits, State.moveBegun, State.setMapEntry, alone]

theorem State.moveBegun_mapEntry (s : State) (part pan page : Nat) :
    (s.moveBegun part pan page).mapEntry part pan page = { s.mapEntry part pan page with moving := true } :=
  State.mapEntry_setMapEntry s.fresh.2 (s.mapEntry_place part pan page) (.inr rfl)

/-- A page that begins to move: its entry is marked, and no byte of it is copied. -/
theorem pageMove_begins (still : (s.mapEntry part pan page).moving = false) (quiet : s.fab.waiters = []) :
    ∃ s', execPageMove part pan page s = .next s' ∧ s'.t = s.t ∧ s'.mem.pan = s.mem.pan ∧
      s'.mapEntry part pan page = { s.mapEntry part pan page with moving := true } ∧
      s' = (s.moveBegun part pan page).moveLooked part pan page := by
  refine ⟨_, execPageMove_begins still quiet, ?_, ?_, ?_, rfl⟩
  · exact State.moveLooked_keep (π := State.t) (fun _ _ => rfl) ..
  · exact State.moveLooked_keep (π := fun s => s.mem.pan) (fun _ _ => rfl) ..
  · exact (State.moveLooked_keep (π := fun s => s.mapEntry part pan page) (fun _ _ => rfl) ..).trans (s.moveBegun_mapEntry ..)

end Move

/-! ## The end of a move (R69 to R71) -/

@[simp] theorem State.modAcc_t (s : State) (id : Nat) (f : Acc → Acc) : (s.modAcc id f).t = s.t := rfl
@[simp] theorem State.setBank_t (s : State) (x : Bank) : (s.setBank x).t = s.t := rfl
@[simp] theorem State.scheduleOnce_t (s : State) (c : Nat) (i : Instr) : (s.scheduleOnce c i).t = s.t :=
  State.scheduleOnce_keep (fun _ _ => rfl) s c i

@[simp] theorem State.unhold_t (s : State) (a : Acc) : (s.unhold a).t = s.t := by
  unfold State.unhold
  dsimp only
  split <;> simp

@[simp] theorem State.releaseHeld_t (s : State) : s.releaseHeld.t = s.t :=
  foldl_keep (fun s a => by split <;> simp) _ s

@[simp] theorem State.retargetAll_t (s : State) : s.retargetAll.t = s.t :=
  foldl_keep (fun s a => by dsimp only; (repeat' split) <;> simp) _ s

@[simp] theorem State.modEngine_t (s : State) (place : Nat) (f : Engine → Engine) : (s.modEngine place f).t = s.t := by
  unfold State.modEngine
  dsimp only
  split <;> rfl

@[simp] theorem State.freeRanges_t (s : State) (place id : Nat) : (s.freeRanges place id).t = s.t := by
  unfold State.freeRanges
  dsimp only
  rw [State.releaseHeld_t]
  split
  · rfl
  · exact State.modEngine_t ..

@[simp] theorem State.modCmd_t (s : State) (place id : Nat) (f : Cmd → Cmd) : (s.modCmd place id f).t = s.t := State.modEngine_t ..

@[simp] theorem State.kickAll_t (s : State) (place : Nat) : (s.kickAll place).t = s.t := by
  have kicked : (s.kick place (segmentOf place)).t = s.t :=
    foldl_keep (π := State.t) (fun s c => by simp [State.beginSegment]) _ s
  unfold State.kickAll State.kickPress
  dsimp only
  split <;> exact kicked

@[simp] theorem State.startMoves_t (s : State) : s.startMoves.t = s.t := by
  unfold State.startMoves
  split
  · rfl
  · refine foldl_keep (π := State.t) (fun s m => ?_) _ s
    dsimp only
    split
    · rfl
    · split <;> rfl

@[simp] theorem State.startClears_t (s : State) (old : List (Nat × Nat)) : (s.startClears old).t = s.t := by
  unfold State.startClears
  split
  · rfl
  · dsimp only
    exact foldl_keep (π := State.t) (fun _ _ => State.schedule_t ..) _ s

theorem Memory.copyFrame_hbm (m : Memory) (n src dst : Nat) : (m.copyFrame n src dst).hbm = m.hbm := by
  rw [Memory.copyFrame.eq_1]

/-- The page's bytes as its move finds them stand in the frame it takes. -/
theorem Memory.copyFrame_read {m : Memory} (h : m.wf = true) (n src dst : Nat) {k : Nat} (hk : k < 8192) :
    cellGet (m.copyFrame n src dst).pan (panKey n dst + k) = cellGet m.pan (panKey n src + k) := by
  rw [Memory.copyFrame.eq_1]
  dsimp only
  rw [cellGet_write ((Memory.wf_iff m).mp h).2 _ (by simpa using hk), List.getElem_map, List.getElem_range]

/-- The address within its Pan of a frame of a cellar. -/
def frameAt (cellar frame : Nat) : Nat := cellar * 2 ^ 18 + frame * 8192

/-- A move that ends copies the page, and then the entry names the new frame. -/
theorem execPageMoveRetire_copies {s : State} {part pan page : Nat} {r : Resize} {m : PageMove} (resize : s.dev.resize = some r)
    (found : (r.moves.find? fun m => m.part = part && m.pan = pan && m.page = page) = some m) :
    let e := s.mapEntry part pan page
    let copied : State := { s with mem := s.mem.copyFrame pan (frameAt e.cellar e.frame) (frameAt m.cellar m.frame) }
    ∃ s', execPageMoveRetire part pan page s = .next s' ∧ s'.t = s.t ∧
      s'.mem = (copied.setMapEntry { e with cellar := m.cellar, frame := m.frame, moving := false }).mem := by
  simp only [execPageMoveRetire, resize, Option.bind_some, found]
  refine ⟨_, rfl, ?_, ?_⟩
  · simp only [State.startClears_t, State.startMoves_t]
    rw [foldl_keep (π := State.t) fun s e => s.kickAll_t _]
    simp [State.modResize_keep (π := State.t), State.setMapEntry]
  · simp [frameAt]

/-- A page of no move stays. -/
theorem execPageMoveRetire_stays {s : State} {part pan page : Nat}
    (none_moves : ∀ r, s.dev.resize = some r → ∀ m ∈ r.moves, ¬ (m.part = part ∧ m.pan = pan ∧ m.page = page)) :
    execPageMoveRetire part pan page s = .next s := by
  have none_found : (s.dev.resize.bind fun r => r.moves.find? fun m => m.part = part && m.pan = pan && m.page = page) = none := by
    simp only [Option.bind_eq_none_iff, List.find?_eq_none]
    intro r h m hm
    simpa [and_assoc] using none_moves r h m hm
  simp only [execPageMoveRetire, none_found]

/-- The copy reads the store in its canonical form, and leaves HBM. -/
theorem pageMoves : Claims.PageMoves := by
  intro s part pan page e c
  refine ⟨fun still alone quiet => ?_, fun quiet => ?_, ?_, fun none_moves => ⟨s, execPageMoveRetire_stays none_moves, rfl⟩⟩
  · obtain ⟨s', next, t, bytes, entry, rfl⟩ := pageMove_begins still quiet
    exact ⟨_, next, t, bytes, entry, State.mem_moveLooked_free (State.moveBegun_free alone)⟩
  · cases moving : e.moving with
    | true =>
      have keep {α : Type} {π : State → α} := State.moveLooked_keep (π := π) (s := s) (part := part) (pan := pan) (page := page)
      have marked : { e with moving := true } = e := by rw [← moving]
      exact ⟨_, execPageMove_goes_on moving, keep (π := State.t) fun _ _ => rfl, keep (π := fun s => s.mem.pan) fun _ _ => rfl,
        (keep (π := fun s => s.mapEntry part pan page) fun _ _ => rfl).trans marked.symm, s.mem_moveLooked ..⟩
    | false =>
      obtain ⟨s', next, t, bytes, entry, rfl⟩ := pageMove_begins moving quiet
      exact ⟨_, next, t, bytes, entry, (s.moveBegun part pan page).mem_moveLooked ..⟩
  · intro r m resize found valid _ _ _ _ canonical
    obtain ⟨s', next, t, mem⟩ := execPageMoveRetire_copies resize found
    refine ⟨s', next, t, by rw [mem, State.setMapEntry_hbm, Memory.copyFrame_hbm], ?_, fun k hk => ?_⟩
    · rw [State.mapEntry_of_mem mem]
      exact State.mapEntry_setMapEntry _ (s.mapEntry_place part pan page) (.inl valid)
    · rw [mem, State.setMapEntry_pan]
      exact Memory.copyFrame_read canonical pan _ _ hk

/-! ## The record of a partition (R55) -/

/-- A store on which nothing waits changes the memory alone. -/
theorem State.store_quiet {s : State} (quiet : s.fab.waiters = []) (l : Loc) (n v : Nat) : ∃ m, s.store l n v = { s with mem := m } := by
  unfold State.store
  split
  · exact ⟨s.mem, rfl⟩
  · simp only [State.wake, quiet, List.filter_nil, List.foldl_nil]
    exact ⟨_, rfl⟩

/-- Steps that change the memory alone while nothing waits change it alone together. -/
theorem State.foldl_mem_alone {α : Type} {f : State → α → State}
    (hf : ∀ (s : State) a, s.fab.waiters = [] → ∃ m, f s a = { s with mem := m }) (l : List α) {s : State} (quiet : s.fab.waiters = []) :
    ∃ m, l.foldl f s = { s with mem := m } := by
  induction l generalizing s with
  | nil => exact ⟨s.mem, rfl⟩
  | cons a l ih =>
    obtain ⟨m, step⟩ := hf s a quiet
    rw [List.foldl_cons, step]
    exact ih (s := { s with mem := m }) quiet

theorem State.putBytes_quiet {s : State} (quiet : s.fab.waiters = []) (l : Loc) (bs : List Byte) : ∃ m, s.putBytes l bs = { s with mem := m } := by
  obtain ⟨m, stored⟩ := State.foldl_mem_alone (f := fun (s : State) k =>
    let i := 8 * k - l.inWord
    let w := (bs.drop i).take (8 * (k + 1) - l.inWord - i)
    if w.length = 8 then s.store (l.plus i) 8 (bytesNat w)
    else (List.range w.length).foldl (fun (s : State) j => s.store (l.plus (i + j)) 1 (w.getD j 0).toNat) s)
    (fun s k quiet => by
      dsimp only
      split
      · exact State.store_quiet quiet ..
      · exact State.foldl_mem_alone (fun s j quiet => State.store_quiet quiet ..) _ quiet)
    (List.range ((l.inWord + bs.length + 7) / 8)) quiet
  have healed : s.putBytes l bs = State.healRun { s with mem := m } l bs.length := congrArg (State.healRun · l bs.length) stored
  cases l <;> exact ⟨_, healed⟩

theorem State.syncRecord_unmapped {s : State} {n : Nat} {p : Part} (hp : s.part? n = some p) (unmapped : p.regs.ownbase = 0) :
    s.syncRecord n = s := by simp [State.syncRecord, hp, unmapped]

/-- A changed partition is found again. -/
theorem State.part?_modPart_some {s : State} {n : Nat} {p : Part} (hp : s.part? n = some p) {f : Part → Part} (hf : ∀ p, (f p).num = p.num) :
    (s.modPart n f).part? n = some (f p) := by rw [s.part?_modPart n hf, hp]; rfl

/-- The record of a partition is brought up to date by a change of the memory alone, and by none where it is not mapped. -/
theorem State.syncRecord_quiet {s : State} {n : Nat} {p : Part} (hp : s.part? n = some p)
    (quiet : p.regs.ownbase = 0 ∨ s.fab.waiters = []) :
    ∃ m, s.syncRecord n = { s with mem := m } ∧ (p.regs.ownbase = 0 → m = s.mem) := by
  by_cases unmapped : p.regs.ownbase = 0
  · exact ⟨s.mem, State.syncRecord_unmapped hp unmapped, fun _ => rfl⟩
  · have quiet := quiet.resolve_left unmapped
    simp only [State.syncRecord, hp, unmapped, ↓reduceIte, false_implies, and_true]
    split
    · exact State.putBytes_quiet quiet ..
    · exact ⟨s.mem, rfl⟩

/-! ## A cellar that has been cleared (R71) -/

section Cellar
variable {s : State} {pan cellar : Nat}

/-- The state with a cellar cleared, whose clearing the resize no longer waits for. -/
def State.cellarCleared (s : State) (pan cellar : Nat) : State :=
  ({ s with mem := s.mem.clearCellar pan cellar } : State).modResize fun r =>
    { r with cellars := r.cellars.filter fun x => !(x.1 = pan && x.2.1 = cellar) }

/-- The partition with a cellar more in its mask. -/
def Part.gains (p : Part) (pan cellar : Nat) : Part :=
  { p with own := { p.own with cellars := p.own.cellars.set pan (Nat.lor (p.own.cellars.getD pan 0) (2 ^ cellar)) } }

theorem Part.gains_mask {p : Part} (known : pan < p.own.cellars.length) :
    (p.gains pan cellar).own.cellars.getD pan 0 = Nat.lor (p.own.cellars.getD pan 0) (2 ^ cellar) := by
  simp [Part.gains, known]

theorem State.cellarCleared_keep {α : Type} {π : State → α}
    (hπ : ∀ s mem resize, π { s with mem := mem, dev := { s.dev with resize := resize } } = π s) (s : State) (pan cellar : Nat) :
    π (s.cellarCleared pan cellar) = π s :=
  (State.modResize_keep (fun s resize => hπ s s.mem resize) _ _).trans (hπ s _ s.dev.resize)

theorem State.cellarCleared_mem (s : State) (pan cellar : Nat) : (s.cellarCleared pan cellar).mem = s.mem.clearCellar pan cellar :=
  State.modResize_mem ..

theorem State.cellarCleared_resize {r : Resize} (h : s.dev.resize = some r) : (s.cellarCleared pan cellar).dev.resize =
    some { r with cellars := r.cellars.filter fun x => !(x.1 = pan && x.2.1 = cellar) } :=
  congrArg (fun s => s.dev.resize) (State.modResize_of (s := { s with mem := s.mem.clearCellar pan cellar }) h _)

variable {r : Resize} (resize : s.dev.resize = some r) (quiet : s.fab.waiters = [])
include resize quiet

theorem execCellarClear_unowned (unowned : ((r.cellars.find? fun x => x.1 = pan && x.2.1 = cellar).bind fun y => y.2.2) = none) :
    execCellarClear pan cellar s = .next (s.cellarCleared pan cellar).checkResize := by
  have served := State.tagsSet_quiet (s := { s with mem := s.mem.clearCellar pan cellar }) quiet
  simp only [execCellarClear, State.vatsCleared, served, resize, Option.bind_some, unowned]
  rfl

theorem execCellarClear_owned {p : Part} (hp : s.part? p.num = some p) (unmapped : p.regs.ownbase = 0)
    (owned : ((r.cellars.find? fun x => x.1 = pan && x.2.1 = cellar).bind fun y => y.2.2) = some p.num) :
    execCellarClear pan cellar s = .next ((s.cellarCleared pan cellar).modPart p.num fun p => p.gains pan cellar).checkResize := by
  have served := State.tagsSet_quiet (s := { s with mem := s.mem.clearCellar pan cellar }) quiet
  have stands : (s.cellarCleared pan cellar).part? p.num = some p :=
    (State.cellarCleared_keep (π := fun s => s.part? p.num) (fun _ _ _ => rfl) ..).trans hp
  have synced := State.syncRecord_unmapped (State.part?_modPart_some stands (f := fun p => p.gains pan cellar) fun _ => rfl) unmapped
  rw [← synced]
  simp only [execCellarClear, State.vatsCleared, served, resize, Option.bind_some, owned]
  rfl

/-- A cellar without a new owner, and one whose new owner is a partition without a record in memory. -/
theorem execCellarClear_spec {p : Part} (hp : s.part? p.num = some p) (unmapped : p.regs.ownbase = 0) {owner : Option Nat}
    (found : ((r.cellars.find? fun x => x.1 = pan && x.2.1 = cellar).bind fun y => y.2.2) = owner)
    (new_owner : owner = none ∨ owner = some p.num) :
    ∃ (s1 : State) (p' : Part), execCellarClear pan cellar s = .next s1.checkResize ∧ s1.t = s.t ∧ s1.mem = s.mem.clearCellar pan cellar ∧
      s1.dev.resize = some { r with cellars := r.cellars.filter fun x => !(x.1 = pan && x.2.1 = cellar) } ∧
      s1.part? p.num = some p' ∧ (owner = some p.num → p' = p.gains pan cellar) ∧ (owner = none → s1.parts = s.parts) := by
  have t : (s.cellarCleared pan cellar).t = s.t := State.cellarCleared_keep (fun _ _ _ => rfl) ..
  have parts : (s.cellarCleared pan cellar).parts = s.parts := State.cellarCleared_keep (fun _ _ _ => rfl) ..
  have stands : (s.cellarCleared pan cellar).part? p.num = some p := by rw [State.part?, parts]; exact hp
  have mem := s.cellarCleared_mem pan cellar
  have left := State.cellarCleared_resize (pan := pan) (cellar := cellar) resize
  rcases new_owner with rfl | rfl
  · exact ⟨_, p, execCellarClear_unowned resize quiet found, t, mem, left, stands, nofun, fun _ => parts⟩
  · exact ⟨_, p.gains pan cellar, execCellarClear_owned resize quiet hp unmapped found, t, mem, left,
      State.part?_modPart_some stands fun _ => rfl, fun _ => rfl, nofun⟩

end Cellar

/-! ## The end of a resize (R71) -/

/-- A partition that is told of the end of a resize. -/
def Part.told (gen : Nat) (p : Part) : Part := { p with own := { p.own with gen := gen, flags := p.own.flags % 2 } }

theorem execResized_tells {s : State} {p : Part} (hp : s.part? p.num = some p) (quiet : p.regs.ownbase = 0 ∨ s.fab.waiters = []) :
    ∃ m, (p.regs.ownbase = 0 → m = s.mem) ∧ execResized p.num s =
      .next ((({ s.modPart p.num (Part.told (p.own.gen + 1)) with mem := m } : State).fault p.num
        ⟨0x20, 0, 0, [BitVec.ofNat 64 (p.own.gen + 1)]⟩).askPass p.num) := by
  have told := State.part?_modPart_some hp (f := Part.told (p.own.gen + 1)) fun _ => rfl
  obtain ⟨m, synced, same⟩ := State.syncRecord_quiet told quiet
  refine ⟨m, same, ?_⟩
  rw [← synced]
  simp only [execResized, hp]
  rfl

/-- A partition that is not configured is told nothing. -/
theorem execResized_unconfigured {s : State} {n : Nat} (h : s.part? n = none) : execResized n s = .next s := by
  simp [execResized, h]

/-- The cleared cellar reads 0 and goes to its new owner, and an affected partition is told. -/
theorem cellarAndResizeEnd : Claims.CellarAndResizeEnd := by
  intro s pan cellar p hp
  refine ⟨?_, fun quiet => ?_, fun n none => ⟨s, execResized_unconfigured none, rfl⟩⟩
  · intro r resize x owner _ new_owner unmapped known quiet hc _
    obtain ⟨s1, p', next, t, mem, left, stands, gains, same⟩ := execCellarClear_spec resize quiet hp unmapped rfl new_owner
    have ends {α : Type} {π : State → α} := State.checkResize_keep (π := π) (s := s1)
    refine ⟨_, p', next, (ends (π := State.t) fun _ _ _ => rfl).trans t,
      (ends (π := fun s => s.part? p.num) fun _ _ _ => rfl).trans stands, fun owned => ?_,
      fun unowned => (ends (π := State.parts) fun _ _ _ => rfl).trans (same unowned), fun k hk => ?_, fun moves => ?_⟩
    · rw [gains owned]
      exact Part.gains_mask known
    · rw [State.checkResize_mem, mem]
      exact s.mem.clearCellar_read pan hc hk
    · rw [State.checkResize_of_moves left moves, left]
  · obtain ⟨m, same, next⟩ := execResized_tells hp quiet
    have asked {α : Type} {π : State → α} := State.scheduleOnce_keep (π := π)
    refine ⟨_, p.told (p.own.gen + 1), next, asked (π := State.t) (fun _ _ => rfl) .., fun unmapped => ?_, ?_, rfl, ?_⟩
    · exact (asked (π := State.mem) (fun _ _ => rfl) ..).trans (same unmapped)
    · exact (asked (π := fun s => s.part? p.num) (fun _ _ => rfl) ..).trans (State.part?_modPart_some hp fun _ => rfl)
    · exact (asked (π := fun s => s.time.agenda) (fun _ _ => rfl) ..).symm ▸ List.mem_append_right _ (List.mem_singleton_self _)

end Sys2Proof.Machine

namespace Sys2Proof
open Machine

/-- Settles O41: the slots by the branches of their handover and scrub, the pages by what the copy of a frame writes, and the end of a
resize by what it leaves of the resize, the stores and the records. -/
theorem resizeEvents : Obligations.ResizeEvents := ⟨slotResize, pageMoves, cellarAndResizeEnd⟩

end Sys2Proof

/-! # The Rake (O42) -/

namespace Sys2Proof.Machine

/-! ## The list (R420) -/

theorem State.rakeNext_keep {α : Type} {π : State → α}
    (hπ : ∀ s calendar, π { s with time := { s.time with calendar := calendar } } = π s) (s : State) : π s.rakeNext = π s := by
  unfold State.rakeNext
  split
  · exact hπ s _
  · rfl

theorem State.mem_rakeNext {s : State} {kind target : Nat} (h : rakeItem s.dev.rake.list s.dev.rake.done = some (kind, target)) :
    (s.time.cycle + rakeCycles kind, Instr.rakeItemDone) ∈ s.rakeNext.time.calendar := by
  simp [State.rakeNext, h]

section Append
variable {s : State} {value : Word}

theorem execRakejob_no_item (h : 6 ≤ fieldOf value 0 3) : execRakejob value s = .next s := by simp [execRakejob, h]

/-- The Rake with one item to do. -/
def State.rakeStarted (s : State) (x : RakeItem) : State :=
  { s with dev := { s.dev with rake := { s.dev.rake with list := [x], done := 0, fin := 1 } } }

theorem execRakejob_begins (h : fieldOf value 0 3 < 6) (idle : s.dev.rake.done = s.dev.rake.fin) :
    execRakejob value s = .next (s.rakeStarted ⟨fieldOf value 0 3, fieldOf value 3 29, 1⟩).rakeNext := by
  simp [execRakejob, Nat.not_le.mpr h, State.rakeAppend, rakeLength, idle, State.rakeStarted]

theorem execRakejob_waits (h : fieldOf value 0 3 < 6) (busy : s.dev.rake.done ≠ s.dev.rake.fin) :
    execRakejob value s = .next { s with dev := { s.dev with rake := { s.dev.rake with
      list := s.dev.rake.list ++ [⟨fieldOf value 0 3, fieldOf value 3 29, 1⟩], fin := s.dev.rake.fin + 1 } } } := by
  simp [execRakejob, Nat.not_le.mpr h, State.rakeAppend, rakeLength, busy]

theorem execRakestat_eq : execRakestat value s = .next (if value.getLsbD 1 then
    { s with dev := { s.dev with rake := { s.dev.rake with restarted := false } } } else s) := by
  have bit : (fieldOf value 1 1 = 1) = (value.getLsbD 1 = true) := by
    simp [fieldOf, bitsAt, BitVec.getLsbD, Nat.testBit_eq_decide_div_mod_eq]
  simp only [execRakestat, bit]

end Append

/-! ## The end of an item (R69, R420) -/

section Item
variable {s : State} {kind target : Nat}

theorem execRakeItemDone_no_item (h : rakeItem s.dev.rake.list s.dev.rake.done = none) : execRakeItemDone s = .next s := by
  simp [execRakeItemDone, h]

/-- The state with an item cleared, and DONE risen. -/
def State.itemCleared (s : State) (kind target : Nat) : State :=
  { s.rakeClear kind target with dev := { (s.rakeClear kind target).dev with rake := { s.dev.rake with done := s.dev.rake.done + 1 } } }

variable (item : rakeItem s.dev.rake.list s.dev.rake.done = some (kind, target))
include item

theorem execRakeItemDone_waits (held : s.rakeWaits kind target = true) :
    execRakeItemDone s = .next (s.schedule (s.time.cycle + 16) .rakeItemDone) := by
  simp [execRakeItemDone, item, held]

theorem execRakeItemDone_clears (free : s.rakeWaits kind target = false) :
    execRakeItemDone s = .next (s.itemCleared kind target).rakeNext := by
  simp only [execRakeItemDone, item, free, Bool.false_eq_true, ↓reduceIte]
  rfl

end Item

/-- A cellar into which a page moves waits for the move. -/
theorem State.rakeWaits_of_move {s : State} {r : Resize} {m : PageMove} (resize : s.dev.resize = some r) (listed : m ∈ r.moves)
    (begun : m.begun = true) (hc : m.cellar < 128) (hf : m.frame < 32) : s.rakeWaits 2 (m.pan * 128 + m.cellar) = true := by
  have pan : (m.pan * 128 + m.cellar) / 128 = m.pan := by omega
  have cellar : (m.pan * 128 + m.cellar) % 128 = m.cellar := by omega
  simp only [State.rakeWaits, pan, cellar, List.any_eq_true, List.mem_range, State.vatMoves, resize]
  exact ⟨m.frame / 8, by omega, m, listed, by simp [begun, frameVat]⟩

/-- Without a resize nothing waits, and but for vats and cellars nothing ever does. -/
theorem State.rakeWaits_free {s : State} {kind : Nat} (h : s.dev.resize = none ∨ kind = 0 ∨ 3 ≤ kind) (target : Nat) :
    s.rakeWaits kind target = false := by
  unfold State.rakeWaits
  split
  · simp [State.vatMoves, h.resolve_right (by omega)]
  · simp [State.vatMoves, h.resolve_right (by omega)]
  · rfl

/-! ## What the clearing of an item leaves (R420) -/

theorem State.modThread_keep {α : Type} {π : State → α} (hπ : ∀ s t others, π { s with t := t, others := others } = π s) (s : State)
    (uid : Nat) (f : Thread → Thread) : π (s.modThread uid f) = π s := by
  unfold State.modThread
  split
  · exact hπ s _ s.others
  · exact hπ s s.t _

theorem State.clearSlot_keep {α : Type} {π : State → α} (hπ : ∀ s t others slots agenda calendar,
      π { s with t := t, others := others, slots := slots, time := { s.time with agenda := agenda, calendar := calendar } } = π s)
    (s : State) (core slot : Nat) : π (s.clearSlot core slot) = π s := by
  have slots (s : State) (l : List Slot) : π { s with slots := l } = π s := hπ s s.t s.others l s.time.agenda s.time.calendar
  have thread := State.modThread_keep (π := π) fun s t others => hπ s t others s.slots s.time.agenda s.time.calendar
  unfold State.clearSlot
  dsimp only
  split
  · exact (State.freeScrubbed_keep (fun s => hπ s s.t s.others s.slots) ..).trans (slots s _)
  · have kept : π (if (s.slot core slot).state == .free then s
        else s.setSlot { s.slot core slot with wake := false, wakeLabel := 0 }) = π s := by
      split
      · rfl
      · exact slots s _
    split
    · exact (thread _ _ _).trans kept
    · exact kept

theorem State.clearLane_keep {α : Type} {π : State → α} (hπ : ∀ s t others, π { s with t := t, others := others } = π s) (s : State)
    (place lane : Nat) : π (s.clearLane place lane) = π s := by
  unfold State.clearLane
  split
  · exact State.modThread_keep hπ ..
  · rfl

section Clear
variable {s : State} (quiet : s.fab.waiters = []) (target : Nat)
include quiet

theorem State.rakeClear_vat : s.rakeClear 1 target = { s with mem := s.mem.clearVat (target / 512) (target % 512) } :=
  State.tagsSet_quiet (s := { s with mem := s.mem.clearVat (target / 512) (target % 512) }) quiet ..

theorem State.rakeClear_cellar : s.rakeClear 2 target = { s with mem := s.mem.clearCellar (target / 128) (target % 128) } :=
  State.tagsSet_quiet (s := { s with mem := s.mem.clearCellar (target / 128) (target % 128) }) quiet ..

/-- An item that is cleared changes threads, slots, memory, engines and what is due. -/
theorem State.rakeClear_keep {α : Type} {π : State → α} (hπ : ∀ s t others mem slots engines agenda calendar,
      π { s with t := t, others := others, mem := mem, slots := slots, engines := engines
                 time := { s.time with agenda := agenda, calendar := calendar } } = π s) (kind : Nat) :
    π (s.rakeClear kind target) = π s := by
  have mem (m : Memory) : π { s with mem := m } = π s := hπ s s.t s.others m s.slots s.engines s.time.agenda s.time.calendar
  match kind with
  | 0 => exact State.clearSlot_keep (fun s t others slots => hπ s t others s.mem slots s.engines) ..
  | 1 => rw [State.rakeClear_vat quiet, mem]
  | 2 => rw [State.rakeClear_cellar quiet, mem]
  | 3 => exact mem _
  | 4 => exact hπ s s.t s.others s.mem s.slots _ s.time.agenda s.time.calendar
  | _ + 5 =>
    exact State.clearLane_keep (fun s t others => hπ s t others s.mem s.slots s.engines s.time.agenda s.time.calendar) ..

end Clear

/-! ## The context of a slot (R420) -/

section Slot
variable {s : State} {core slot : Nat}

theorem State.clearSlot_scrub (h : (s.slot core slot).state = .scrub) : s.clearSlot core slot = s.freeScrubbed core slot := by
  simp [State.clearSlot, h]

/-- The thread in focus, which stands in an occupied slot, has its context cleared, and the slot's wake bit goes. -/
theorem State.clearSlot_occupied (h : (s.slot core slot).state = .occupied) (hcore : s.t.core = core) (hslot : s.t.slot = slot)
    (ready : s.t.run = .ready) : s.clearSlot core slot =
      { s.setSlot { s.slot core slot with wake := false, wakeLabel := 0 } with t := s.t.scrubbed } := by
  have found : ((s.setSlot { s.slot core slot with wake := false, wakeLabel := 0 }).threads.find? fun t =>
      t.core = core && t.slot = slot && t.run != .ended && t.run != .saved) = some s.t :=
    List.find?_cons_of_pos (by simp [hcore, hslot, ready])
  unfold State.clearSlot
  dsimp only
  rw [if_neg (by simp [h]), if_neg (by simp [h]), found]
  exact if_pos rfl

theorem State.slot_setSlot_at (s : State) {x : Slot} (place : x.core = core ∧ x.slot = slot) (h : x.state ≠ .free) :
    (s.setSlot x).slot core slot = x := by
  obtain ⟨rfl, rfl⟩ := place
  exact s.slot_setSlot_same h

theorem State.clearSlot_wake (h : (s.slot core slot).state = .occupied) :
    ((s.setSlot { s.slot core slot with wake := false, wakeLabel := 0 }).slot core slot).wake = false := by
  exact congrArg Slot.wake (s.slot_setSlot_at (x := { s.slot core slot with wake := false, wakeLabel := 0 }) (s.slot_place core slot)
    (by simp [h]))

end Slot

/-! ## Lanes and accumulators (R174, R420) -/

/-- The elements of a cleared lane are 0. -/
theorem Claim.laneCleared_elems {c : Claim} {k : Nat} {v : VecReg} (hv : v ∈ (c.laneCleared k).regs) {i : Nat} {x : BitVec 32}
    (hx : v.elems[i]? = some x) (lane : i / 16 = k) : x = 0 := by
  obtain ⟨w, -, rfl⟩ := List.mem_map.mp hv
  obtain ⟨y, -, rfl⟩ : ∃ y, w.elems[i]? = some y ∧ (if i / 16 = k then 0 else y) = x := by simpa using hx
  exact if_pos lane

theorem Claim.laneCleared_bits {c : Claim} {k : Nat} {v : MaskReg} (hv : v ∈ (c.laneCleared k).masks) {i : Nat} {x : Bool}
    (hx : v.bits[i]? = some x) (lane : i / 16 = k) : x = false := by
  obtain ⟨w, -, rfl⟩ := List.mem_map.mp hv
  obtain ⟨y, -, rfl⟩ : ∃ y, w.bits[i]? = some y ∧ (if i / 16 = k then false else y) = x := by simpa using hx
  exact if_pos lane

/-- A lane of the one claim of a trellis's pool, which the thread in focus holds. -/
theorem State.clearLane_only {s : State} {place lane k : Nat} (only : s.poolClaims place = [(k, s.t)]) (first : k ≤ lane)
    (last : lane < k + s.t.claim.lanes) :
    s.clearLane place lane = { s with t := { s.t with claim := s.t.claim.laneCleared (lane - k) } } := by
  simp [State.clearLane, only, first, last, State.modThread]

theorem State.clearPress_acc {s : State} {place : Nat} {e : Engine} (he : e ∈ (s.clearPress place).engines) (here : e.place = place)
    {x : PressRun} (hx : e.press = some x) {a : Int} (ha : a ∈ x.acc) : a = 0 := by
  obtain ⟨w, -, rfl⟩ := List.mem_map.mp he
  split at here
  · next placed =>
    simp only [placed, ↓reduceIte, Option.map_eq_some_iff] at hx
    obtain ⟨y, -, rfl⟩ := hx
    obtain ⟨b, -, rfl⟩ := List.mem_map.mp ha
    rfl
  · next other => exact absurd here other

/-- Neither a vat, a cellar, a way nor a Press that is cleared changes the thread in focus, nor does a slot in SCRUB. -/
theorem State.rakeClear_t {s : State} (quiet : s.fab.waiters = []) {kind target : Nat}
    (still : (1 ≤ kind ∧ kind ≤ 4) ∨ (kind = 0 ∧ (s.slot (target / 16) (target % 16)).state = .scrub)) :
    (s.rakeClear kind target).t = s.t := by
  match kind, still with
  | 0, .inr ⟨_, scrub⟩ =>
    rw [State.rakeClear, State.clearSlot_scrub scrub]
    exact State.freeScrubbed_keep (π := State.t) (fun _ _ _ => rfl) ..
  | 1, _ => rw [State.rakeClear_vat quiet]
  | 2, _ => rw [State.rakeClear_cellar quiet]
  | 3, _ => rfl
  | 4, _ => rfl

/-- Appended items, and each kind of item as it is cleared. -/
theorem rakeEvents : Claims.RakeEvents := by
  intro s value r kind
  refine ⟨fun h => ⟨s, execRakejob_no_item h, rfl⟩, fun h => ⟨s, execRakeItemDone_no_item h, rfl⟩, fun h idle => ?_,
    fun h busy => ⟨_, execRakejob_waits h busy, rfl⟩, ⟨_, execRakestat_eq, rfl⟩, ?_, ?_⟩
  · have keep {α : Type} {π : State → α} := State.rakeNext_keep (π := π) (s := s.rakeStarted ⟨kind, fieldOf value 3 29, 1⟩)
    exact ⟨_, execRakejob_begins h idle, keep (π := State.t) fun _ _ => rfl, keep (π := State.mem) fun _ _ => rfl,
      keep (π := fun s => s.dev.rake) fun _ _ => rfl, State.mem_rakeNext (s := s.rakeStarted ⟨kind, fieldOf value 3 29, 1⟩) rfl⟩
  · rintro target z m item resize listed begun rfl hc hf
    exact execRakeItemDone_waits item (State.rakeWaits_of_move resize listed begun hc hf)
  · intro kind target item quiet free
    let cleared := s.rakeClear kind target
    have look {α : Type} {π : State → α}
        (hπ : ∀ s rake calendar, π { s with dev := { s.dev with rake := rake }, time := { s.time with calendar := calendar } } = π s) :
        π (s.itemCleared kind target).rakeNext = π cleared :=
      (State.rakeNext_keep (fun s calendar => hπ s s.dev.rake calendar) _).trans (hπ cleared _ cleared.time.calendar)
    have cycle : cleared.time.cycle = s.time.cycle :=
      State.rakeClear_keep quiet target (π := fun s => s.time.cycle) (fun _ _ _ _ _ _ _ _ => rfl) kind
    have rake : (s.itemCleared kind target).rakeNext.dev.rake = { r with done := r.done + 1 } :=
      State.rakeNext_keep (π := fun s => s.dev.rake) (fun _ _ => rfl) _
    refine ⟨_, execRakeItemDone_clears item (State.rakeWaits_free free target), rake, fun still => ?_, ?_, ?_, ?_, ?_, ?_, ?_,
      fun k2 t2 next => ?_⟩
    · exact (look (π := State.t) fun _ _ _ => rfl).trans (State.rakeClear_t quiet still)
    · rintro rfl scrub
      refine (congrArg Slot.state (look (π := fun s => s.slot (target / 16) (target % 16)) fun _ _ _ => rfl)).trans ?_
      rw [show cleared = s.clearSlot (target / 16) (target % 16) from rfl, State.clearSlot_scrub scrub]
      exact s.freeScrubbed_slot ..
    · rintro rfl occupied hcore hslot ready
      have emptied : cleared = _ := State.clearSlot_occupied occupied hcore hslot ready
      refine ⟨(look (π := State.t) fun _ _ _ => rfl).trans (by rw [emptied]; rfl), ?_⟩
      refine (congrArg Slot.wake (look (π := fun s => s.slot (target / 16) (target % 16)) fun _ _ _ => rfl)).trans ?_
      rw [emptied]
      exact State.clearSlot_wake occupied
    · rintro rfl k hk
      rw [look (π := State.mem) fun _ _ _ => rfl, show cleared = _ from State.rakeClear_vat quiet target]
      exact s.mem.clearVat_read _ _ hk
    · rintro rfl k hk
      rw [look (π := State.mem) fun _ _ _ => rfl, show cleared = _ from State.rakeClear_cellar quiet target]
      exact s.mem.clearCellar_read _ (Nat.mod_lt _ (by decide)) hk
    · rintro rfl e he here x hx a ha
      rw [look (π := State.engines) fun _ _ _ => rfl] at he
      exact State.clearPress_acc he here hx ha
    · rintro rfl t k only rfl first last
      have lane : cleared = _ := State.clearLane_only only first last
      have t : (s.itemCleared 5 target).rakeNext.t = { s.t with claim := s.t.claim.laneCleared (target % 64 - k) } :=
        (look (π := State.t) fun _ _ _ => rfl).trans (congrArg State.t lane)
      rw [t]
      exact ⟨rfl, rfl, fun v hv i x hx here => Claim.laneCleared_elems hv hx here, fun v hv i x hx here => Claim.laneCleared_bits hv hx here⟩
    · have standing : rakeItem (s.itemCleared kind target).dev.rake.list (s.itemCleared kind target).dev.rake.done = some (k2, t2) := next
      exact cycle ▸ State.mem_rakeNext standing

end Sys2Proof.Machine

/-! # The function level reset (O42) -/

namespace Sys2Proof.Machine

/-! ## Launches that are cancelled (R53) -/

section Keep
variable {α : Type} {π : State → α} {n : Nat} (hunit : ∀ s f, π (s.modUnit n f) = π s)
  (hcal : ∀ s calendar, π { s with time := { s.time with calendar := calendar } } = π s)
include hunit hcal

/-- A launch whose completion is counted changes the launch unit and the calendar. -/
theorem State.checkJob_keep (s : State) (num : Nat) : π (s.checkJob n num) = π s := by
  have finish (j : Job) (status : Nat) (silent : (status = 0 || status = 0x10A) = true) : π (s.finishJob n j status) = π s := by
    unfold State.finishJob
    split
    · exact (hcal _ _).trans (hunit s _)
    · simp only [silent, ↓reduceIte]
      exact hunit s _
  unfold State.checkJob
  split
  · rfl
  · split
    · rfl
    · split
      · exact finish _ _ (by decide)
      · split
        · exact finish _ _ (by decide)
        · rfl

theorem State.cancelJobs_keep (s : State) (pick : Job → Bool) : π (s.cancelJobs n pick) = π s := by
  unfold State.cancelJobs
  split
  · rfl
  · exact foldl_keep (fun s j => (State.checkJob_keep hunit hcal _ _).trans (hunit s _)) _ s

end Keep

theorem State.part?_modUnit (s : State) (n m : Nat) (f : LaunchUnit → LaunchUnit) :
    (s.modUnit n f).part? m = (s.part? m).map fun p => if p.num = n then { p with unit := f p.unit } else p := by
  have same : ((fun p : Part => decide (p.num = m)) ∘ fun p : Part => if p.num = n then { p with unit := f p.unit } else p) =
      fun p => decide (p.num = m) := by
    funext p
    by_cases h : p.num = n <;> simp [h]
  simp only [State.modUnit, State.modPart, State.part?, List.find?_map, same]

/-- The launches of a partition are no part of another one. -/
theorem State.part?_modUnit_other (s : State) {n m : Nat} (h : m ≠ n) (f : LaunchUnit → LaunchUnit) : (s.modUnit n f).part? m = s.part? m := by
  rw [State.part?_modUnit]
  cases found : s.part? m with
  | none => rfl
  | some p =>
    have num : p.num = m := by simpa using List.find?_some found
    simp [num, h]

/-- Whether a partition retires does not lie in its launch unit. -/
theorem State.retiring_modUnit (s : State) (n m : Nat) (f : LaunchUnit → LaunchUnit) :
    ((s.modUnit n f).part? m).map Part.retiring = (s.part? m).map Part.retiring := by
  rw [State.part?_modUnit, Option.map_map]
  congr 1
  funext p
  by_cases h : p.num = n <;> simp [h]

/-- A launch as it may become while it is cancelled: its flags rise only. -/
def Job.Follows (j' j : Job) : Prop :=
  j'.num = j.num ∧ j'.vf = j.vf ∧ (j.cancelled = true → j'.cancelled = true) ∧ (j.closed = true → j'.closed = true)

theorem Job.Follows.refl (j : Job) : j.Follows j := ⟨rfl, rfl, id, id⟩

/-- The launches of a partition after some of them have completed. -/
theorem State.checkJob_follows {s : State} {n : Nat} {p : Part} (hp : s.part? n = some p) (num : Nat) :
    ∃ p', (s.checkJob n num).part? n = some p' ∧ ∀ j' ∈ p'.unit.jobs, ∃ j ∈ p.unit.jobs, j'.Follows j := by
  have same : ∃ p', s.part? n = some p' ∧ ∀ j' ∈ p'.unit.jobs, ∃ j ∈ p.unit.jobs, j'.Follows j :=
    ⟨p, hp, fun j hj => ⟨j, hj, .refl j⟩⟩
  have finish (j : Job) (status : Nat) (silent : (status = 0 || status = 0x10A) = true) :
      ∃ p', (s.finishJob n j status).part? n = some p' ∧ ∀ j' ∈ p'.unit.jobs, ∃ j ∈ p.unit.jobs, j'.Follows j := by
    unfold State.finishJob
    split
    · refine ⟨_, State.part?_modPart_some hp fun _ => rfl, fun j' hj' => ?_⟩
      obtain ⟨x, hx, rfl⟩ := List.mem_map.mp hj'
      refine ⟨x, hx, ?_⟩
      split
      · exact ⟨rfl, rfl, id, fun _ => rfl⟩
      · exact .refl x
    · simp only [silent, ↓reduceIte]
      exact ⟨_, State.part?_modPart_some hp fun _ => rfl, fun j' hj' => ⟨j', List.mem_of_mem_filter hj', .refl j'⟩⟩
  unfold State.checkJob
  split
  · exact same
  · split
    · exact same
    · split
      · exact finish _ _ (by decide)
      · split
        · exact finish _ _ (by decide)
        · exact same

/-- A launch that will complete without more. -/
def Job.Over (j : Job) : Prop := j.cancelled = true ∨ j.closed = true

theorem Job.Follows.isOver {j' j : Job} (h : j'.Follows j) (o : j.Over) : j'.Over := by
  obtain ⟨-, -, cancelled, closed⟩ := h
  exact o.imp cancelled closed

/-- One launch is cancelled. -/
def State.cancelJob (s : State) (n num : Nat) : State := (s.modJob n num fun j => { j with cancelled := true }).checkJob n num

theorem State.cancelJob_follows {s : State} {n : Nat} {p : Part} (hp : s.part? n = some p) (num : Nat) :
    ∃ p', (s.cancelJob n num).part? n = some p' ∧
      ∀ j' ∈ p'.unit.jobs, ∃ j ∈ p.unit.jobs, j'.Follows j ∧ (j.num = num → j'.Over) := by
  have marked : (s.modJob n num fun j => { j with cancelled := true }).part? n = _ := (s.part?_modJob ..).trans (congrArg _ hp)
  obtain ⟨p', stands, follow⟩ := State.checkJob_follows marked num
  refine ⟨p', stands, fun j' hj' => ?_⟩
  obtain ⟨x, hx, follows⟩ := follow j' hj'
  obtain ⟨j, hj, rfl⟩ := List.mem_map.mp hx
  refine ⟨j, hj, ?_⟩
  split at follows
  · next named =>
    obtain ⟨num, vf, cancelled, closed⟩ := follows
    exact ⟨⟨num, vf, fun _ => cancelled rfl, closed⟩, fun _ => .inl (cancelled rfl)⟩
  · next other => exact ⟨follows, fun named => absurd named other⟩

/-- Launches of a list that are cancelled one after the other: those of a function are over when the others of its launches were. -/
theorem State.cancelled_over {n vf : Nat} {l : List Job} {s : State} {p : Part} (hp : s.part? n = some p)
    (rest : ∀ j ∈ p.unit.jobs, j.vf = some vf → j.Over ∨ ∃ x ∈ l, x.num = j.num) :
    ∃ p', (l.foldl (fun (s : State) j => s.cancelJob n j.num) s).part? n = some p' ∧ ∀ j ∈ p'.unit.jobs, j.vf = some vf → j.Over := by
  induction l generalizing s p with
  | nil => exact ⟨p, hp, fun j hj mine => (rest j hj mine).resolve_right (by simp)⟩
  | cons x l ih =>
    obtain ⟨p1, stands, follow⟩ := State.cancelJob_follows hp x.num
    refine ih stands fun j1 hj1 mine => ?_
    obtain ⟨j, hj, follows, named⟩ := follow j1 hj1
    obtain ⟨num, vf, -, -⟩ := id follows
    rcases rest j hj (vf ▸ mine) with gone | ⟨y, hy, e⟩
    · exact .inl (follows.isOver gone)
    · rcases List.mem_cons.mp hy with rfl | later
      · exact .inl (named e.symm)
      · exact .inr ⟨y, later, e.trans num.symm⟩

/-- The launches of a function in a partition are over once they have been cancelled there. -/
theorem State.cancelJobs_over {s : State} {n vf : Nat} {p : Part} (hp : s.part? n = some p) :
    ∃ p', (s.cancelJobs n fun j => j.vf = some vf).part? n = some p' ∧ ∀ j ∈ p'.unit.jobs, j.vf = some vf → j.Over := by
  simp only [State.cancelJobs, hp]
  refine State.cancelled_over hp fun j hj mine => ?_
  cases closed : j.closed with
  | true => exact .inl (.inr closed)
  | false => exact .inr ⟨j, List.mem_filter.mpr ⟨hj, by simp [mine, closed]⟩, rfl⟩

theorem State.cancelJobs_no_jobs {s : State} {n : Nat} (h : ∀ q ∈ s.parts, q.unit.jobs = []) (pick : Job → Bool) : s.cancelJobs n pick = s := by
  unfold State.cancelJobs
  split
  · rfl
  · next p found => simp [h p (List.mem_of_find?_eq_some found)]

/-! ## The window of a function, and its launches in every partition (R53, R417) -/

/-- The state with the window of a function cleared and its launches cancelled in each partition. -/
def State.functionCancelled (s : State) (vf : Nat) : State :=
  s.parts.foldl (fun (s : State) p => s.cancelJobs p.num fun j => j.vf = some vf) (s.modVf vf VirtFn.cleared)

section Cancelled
variable {s : State} {vf : Nat}

theorem State.functionCancelled_keep {α : Type} {π : State → α} (hvfs : ∀ s vfs, π { s with vfs := vfs } = π s)
    (hunit : ∀ s n f, π (State.modUnit s n f) = π s) (hcal : ∀ s calendar, π { s with time := { s.time with calendar := calendar } } = π s)
    (s : State) (vf : Nat) : π (s.functionCancelled vf) = π s :=
  (foldl_keep (fun s p => State.cancelJobs_keep (fun s f => hunit s p.num f) hcal s _) _ _).trans (hvfs s _)

/-- What the reset of a function leaves but for its window and the launches. -/
theorem State.functionCancelled_frame (s : State) (vf : Nat) :
    (s.functionCancelled vf).t = s.t ∧ (s.functionCancelled vf).threads = s.threads ∧ (s.functionCancelled vf).mem = s.mem ∧
      (s.functionCancelled vf).dev = s.dev ∧ (s.functionCancelled vf).time.cycle = s.time.cycle ∧
      (s.functionCancelled vf).colls = s.colls ∧ (s.functionCancelled vf).engines = s.engines := by
  have keep {α : Type} {π : State → α} := State.functionCancelled_keep (π := π) (s := s) (vf := vf)
  exact ⟨keep (π := State.t) (fun _ _ => rfl) (fun _ _ _ => rfl) fun _ _ => rfl,
    keep (π := State.threads) (fun _ _ => rfl) (fun _ _ _ => rfl) fun _ _ => rfl,
    keep (π := State.mem) (fun _ _ => rfl) (fun _ _ _ => rfl) fun _ _ => rfl,
    keep (π := State.dev) (fun _ _ => rfl) (fun _ _ _ => rfl) fun _ _ => rfl,
    keep (π := fun s => s.time.cycle) (fun _ _ => rfl) (fun _ _ _ => rfl) fun _ _ => rfl,
    keep (π := State.colls) (fun _ _ => rfl) (fun _ _ _ => rfl) fun _ _ => rfl,
    keep (π := State.engines) (fun _ _ => rfl) (fun _ _ _ => rfl) fun _ _ => rfl⟩

/-- Each partition retires as before. -/
theorem State.functionCancelled_retiring {p : Part} {n : Nat} (hp : s.part? n = some p) :
    ∃ q, (s.functionCancelled vf).part? n = some q ∧ q.retiring = p.retiring := by
  have same := State.functionCancelled_keep (π := fun s => (s.part? n).map Part.retiring) (fun _ _ => rfl)
    (fun s m f => s.retiring_modUnit m n f) (fun _ _ => rfl) s vf
  exact Option.map_eq_some_iff.mp (same.trans (congrArg (Option.map Part.retiring) hp))

theorem State.functionCancelled_vfs (s : State) (vf : Nat) :
    (s.functionCancelled vf).vfs = s.vfs.map fun v => if v.num = vf then v.cleared else v :=
  foldl_keep (π := State.vfs) (fun s _ => State.cancelJobs_keep (fun _ _ => rfl) (fun _ _ => rfl) s _) _ _

theorem State.functionCancelled_no_jobs (h : ∀ q ∈ s.parts, q.unit.jobs = []) (vf : Nat) :
    s.functionCancelled vf = { s with vfs := s.vfs.map fun v => if v.num = vf then v.cleared else v } :=
  List.foldl_fixed' (fun _ => State.cancelJobs_no_jobs (s := s.modVf vf VirtFn.cleared) h _) _

/-- The launches of the function are over in each of the partitions, which have numbers of their own. -/
theorem State.functionCancelled_over (apart : s.parts.Pairwise fun a b => a.num ≠ b.num) {q : Part} (hq : q ∈ s.parts) :
    ∃ q', (s.functionCancelled vf).part? q.num = some q' ∧ ∀ j ∈ q'.unit.jobs, j.vf = some vf → j.Over := by
  obtain ⟨before, after, split⟩ := List.append_of_mem hq
  rw [split, List.pairwise_append, List.pairwise_cons] at apart
  obtain ⟨-, ⟨later, -⟩, cross⟩ := apart
  have earlier (a : Part) (ha : a ∈ before) : a.num ≠ q.num := cross a ha q List.mem_cons_self
  have found : (s.modVf vf VirtFn.cleared).part? q.num = some q := by
    show s.parts.find? _ = some q
    rw [split, List.find?_append, List.find?_eq_none.mpr (by simpa using earlier)]
    simp
  have others {l : List Part} (hl : ∀ a ∈ l, a.num ≠ q.num) (s : State) :
      (l.foldl (fun (s : State) p => s.cancelJobs p.num fun j => j.vf = some vf) s).part? q.num = s.part? q.num :=
    foldl_keep_of_mem (π := fun s => s.part? q.num) (fun a ha s =>
      State.cancelJobs_keep (π := fun s => s.part? q.num) (fun s f => s.part?_modUnit_other (hl a ha).symm f) (fun _ _ => rfl) s _) s
  obtain ⟨q', stands, done⟩ := State.cancelJobs_over (vf := vf) ((others earlier _).trans found)
  refine ⟨q', ?_, done⟩
  rw [State.functionCancelled, split, List.foldl_append, List.foldl_cons, others (fun a ha => (later a ha).symm)]
  exact stands

end Cancelled

/-- The window of a function is found again under its number. -/
theorem State.vf?_functionCancelled (s : State) (vf n : Nat) :
    (s.functionCancelled vf).vf? n = (s.vf? n).map fun v => if v.num = vf then v.cleared else v := by
  have same : ((fun v : VirtFn => decide (v.num = n) && v.valid) ∘ fun v : VirtFn => if v.num = vf then v.cleared else v) =
      fun v => decide (v.num = n) && v.valid := by
    funext v
    by_cases h : v.num = vf <;> simp [h, VirtFn.cleared]
  rw [State.vf?, State.functionCancelled_vfs, List.find?_map, same]
  rfl

/-- Without collectives and commands none is lost. -/
theorem State.collsLost_none {s : State} (colls : s.colls = []) (engines : s.engines = []) (part : Option Nat) :
    s.collsLost part [] = s := by
  simp [State.collsLost, State.collCmds, colls, engines]

theorem execFunctionLevelReset_unbound {s : State} {n : Nat} (unbound : s.vf? n = none) :
    execFunctionLevelReset n s = .next (s.functionCancelled n) := by
  have unfound : (s.functionCancelled n).vf? n = none := by rw [State.vf?_functionCancelled, unbound]; rfl
  unfold execFunctionLevelReset
  dsimp only
  split
  · rfl
  · next found => exact absurd (unfound.symm.trans found) (by simp)

theorem execFunctionLevelReset_bound {s : State} {v : VirtFn} {p : Part} (bound : s.vf? v.num = some v)
    (hp : (s.functionCancelled v.num).part? v.part = some p) (colls : s.colls = []) (engines : s.engines = []) :
    execFunctionLevelReset v.num s =
      .next (if v.ownsMem then (s.functionCancelled v.num).resetPart v.part else s.functionCancelled v.num) := by
  have found : (s.functionCancelled v.num).vf? v.num = some v.cleared := by
    rw [State.vf?_functionCancelled, bound, Option.map_some, if_pos rfl]
  obtain ⟨-, -, -, -, -, hcolls, hengines⟩ := s.functionCancelled_frame v.num
  have none_lost := State.collsLost_none (hcolls.trans colls) (hengines.trans engines) (some v.part)
  unfold execFunctionLevelReset
  dsimp only
  split
  · next unfound => exact absurd (unfound.symm.trans found) (by simp)
  · next w here =>
    obtain rfl : w = v.cleared := Option.some.inj (here.symm.trans found)
    have standing : ((s.functionCancelled v.num).part? v.part).isSome = true := by rw [hp]; rfl
    refine congrArg Host.Outcome.next ?_
    refine (congrArg (fun x : State => if v.ownsMem && (x.part? v.part).isSome then x.resetPart v.part else x) none_lost).trans ?_
    simp only [standing, Bool.and_true]

/-! ## The erase of a partition's frames (R418, R419) -/

/-- Nothing of a frame of HBM is listed, in HBM or in the L2. -/
def Memory.Blank (m : Memory) (frame : Nat) : Prop := (∀ c ∈ m.hbm, c.1 / 8192 ≠ frame) ∧ ∀ l ∈ m.lines, l.line * 256 / 8192 ≠ frame

/-- A frame of which nothing is listed reads 0. -/
theorem Memory.gbyte_blank {m : Memory} {frame k : Nat} (h : m.Blank frame) (hk : k < 8192) : m.gbyte (frame * 8192 + k) = 0 := by
  obtain ⟨cells, lines⟩ := h
  have uncached : m.line? ((frame * 8192 + k) / 256) = none :=
    List.find?_eq_none.mpr fun l hl e => lines l hl (by have := of_decide_eq_true e; omega)
  simp only [Memory.gbyte, uncached]
  exact cellGet_unlisted fun c hc e => cells c hc (by omega)

theorem Memory.blank_clearHbmFrame (m : Memory) (frame : Nat) : (m.clearHbmFrame frame).Blank frame := by
  constructor
  · intro c hc
    have outside := (List.mem_filter.mp hc).2
    simp only [Bool.not_eq_true', Bool.and_eq_false_iff, decide_eq_false_iff_not] at outside
    omega
  · intro l hl
    have outside := (List.mem_filter.mp hl).2
    simp only [Bool.not_eq_true', Bool.and_eq_false_iff, decide_eq_false_iff_not] at outside
    omega

/-- A frame of which nothing is listed stays so when another is cleared. -/
theorem Memory.Blank.clearHbmFrame {m : Memory} {frame : Nat} (h : m.Blank frame) (other : Nat) : (m.clearHbmFrame other).Blank frame :=
  ⟨fun c hc => h.1 c (List.mem_of_mem_filter hc), fun l hl => h.2 l (List.mem_of_mem_filter hl)⟩

/-- The memory after the frames of a list have been cleared. -/
def Memory.clearFrames (m : Memory) (l : List FrameOwner) : Memory := l.foldl (fun m o => m.clearHbmFrame o.frame) m

theorem Memory.Blank.clearFrames {frame : Nat} (l : List FrameOwner) {m : Memory} (h : m.Blank frame) : (m.clearFrames l).Blank frame := by
  induction l generalizing m with
  | nil => exact h
  | cons o l ih => exact ih (h.clearHbmFrame o.frame)

theorem Memory.blank_clearFrames {l : List FrameOwner} {o : FrameOwner} (ho : o ∈ l) (m : Memory) : (m.clearFrames l).Blank o.frame := by
  induction l generalizing m with
  | nil => simp at ho
  | cons x l ih =>
    rcases List.mem_cons.mp ho with rfl | later
    · exact (m.blank_clearHbmFrame o.frame).clearFrames l
    · exact ih later _

/-- A fold of steps that change the memory alone. -/
theorem State.foldl_setMem {α : Type} (g : Memory → α → Memory) (l : List α) (s : State) :
    (l.foldl (fun (s : State) a => { s with mem := g s.mem a }) s) = { s with mem := l.foldl g s.mem } :=
  List.foldl_hom (fun m => { s with mem := m }) fun _ _ => rfl

/-- The erase of a partition that has not been erased yet: its frames read 0, and its retirements bear the cycle. -/
theorem State.orderErase_eq {s : State} {n : Nat} (first : ∀ r ∈ s.dev.retiring, r.part = n → r.erased = none) :
    ∃ m, s.orderErase n = ({ s with mem := m } : State).modRetirement n (fun r => { r with erased := some s.time.cycle }) ∧
      ∀ o ∈ s.framesOf n, ∀ k, k < 8192 → m.gbyte (o.frame * 8192 + k) = 0 := by
  have not_yet : (s.dev.retiring.any fun r => r.part = n && r.erased.isSome) = false := by
    rw [List.any_eq_false]
    intro r hr
    by_cases mine : r.part = n <;> simp [mine, first r hr]
  let keys := (s.framesOf n).map FrameOwner.key ++ ((s.part? n).map fun p => p.own.keyslot).toList
  let cleared := s.mem.clearFrames (s.framesOf n)
  have erased : s.eraseKeys n = { s with mem := cleared } := State.foldl_setMem (fun m (o : FrameOwner) => m.clearHbmFrame o.frame) _ s
  have rekeyed := State.foldl_setMem (fun m k => m.setKeyLabel k 0) keys { s with mem := cleared }
  refine ⟨keys.foldl (fun m k => m.setKeyLabel k 0) cleared, ?_, fun o ho k hk => ?_⟩
  · simp only [State.orderErase, not_yet, Bool.false_eq_true, ↓reduceIte, erased]
    rw [rekeyed]
  · refine (foldl_keep (π := fun m : Memory => m.gbyte (o.frame * 8192 + k)) (f := fun m k => m.setKeyLabel k 0) (fun _ _ => rfl) keys cleared).trans ?_
    exact Memory.gbyte_blank (Memory.blank_clearFrames ho s.mem) hk

/-- What the erase of a partition that has not been erased yet leaves. -/
theorem State.orderErase_spec {s : State} {n : Nat} (first : ∀ r ∈ s.dev.retiring, r.part = n → r.erased = none) {r : Retirement}
    (hr : r ∈ s.dev.retiring) (mine : r.part = n) :
    (s.orderErase n).t = s.t ∧ (s.orderErase n).others = s.others ∧ (s.orderErase n).parts = s.parts ∧
      { r with erased := some s.time.cycle } ∈ (s.orderErase n).dev.retiring ∧
      ∀ o ∈ s.framesOf n, ∀ k, k < 8192 → (s.orderErase n).mem.gbyte (o.frame * 8192 + k) = 0 := by
  obtain ⟨m, erased, zeroed⟩ := State.orderErase_eq first
  rw [erased]
  exact ⟨rfl, rfl, rfl, List.mem_map.mpr ⟨r, hr, if_pos mine⟩, zeroed⟩

/-! ## The retirement that a reset begins or forces (R416 to R418) -/

/-- The state with the gangs of a partition marked to end. -/
def State.gangsForced (s : State) (n : Nat) : State :=
  { s with gangs := s.gangs.map fun (g : Gang) => if g.part = n then { g with forced := true } else g }

/-- Where a partition has no thread none ends with its record. -/
theorem State.forceGangs_no_threads {s : State} {n : Nat} (h : ∀ t ∈ s.threads, t.ident.part ≠ n) : s.forceGangs n = s.gangsForced n := by
  have none_saved : (s.threads.filter fun t => t.ident.part = n && (t.run == .saved || t.run == .fencedAway || t.run == .fenced)) = [] :=
    List.filter_eq_nil_iff.mpr fun t ht => by simp [h t ht]
  exact congrArg (List.foldl _ _) none_saved

/-- A partition that retires. -/
def Part.retires (p : Part) : Part := { p with retiring := true }

/-- The state with a partition that retires for a reset of a function, before its launches are cancelled. -/
def State.retireMarked (s : State) (n : Nat) : State :=
  { s.modPart n Part.retires with dev := { s.dev with retiring := s.dev.retiring ++ [⟨n, none, true, none⟩] } }

/-- A partition that begins to retire for a reset of a function: its launches are cancelled. -/
def State.retireBegun (s : State) (n : Nat) : State := (s.retireMarked n).cancelJobs n fun _ => true

theorem State.retireBegun_keep {α : Type} {π : State → α} {n : Nat} (hunit : ∀ s f, π (State.modUnit s n f) = π s)
    (hcal : ∀ s calendar, π { s with time := { s.time with calendar := calendar } } = π s) (s : State) :
    π (s.retireBegun n) = π (s.retireMarked n) :=
  State.cancelJobs_keep hunit hcal _ _

section Reset
variable {s : State} {n : Nat} (threads : ∀ t ∈ s.threads, t.ident.part ≠ n)
include threads

theorem State.startRetire_forced (colls : s.colls = []) (engines : s.engines = []) :
    s.startRetire n true none =
      ((s.retireBegun n).gangsForced n).schedule ((s.retireBegun n).time.cycle + 32) (.retire n 16) := by
  have keep {α : Type} {π : State → α} := State.retireBegun_keep (π := π) (n := n) (s := s)
  have standing : (s.retireBegun n).threads = s.threads := keep (π := State.threads) (fun _ _ => rfl) fun _ _ => rfl
  have forced : (s.retireBegun n).forceGangs n = (s.retireBegun n).gangsForced n :=
    State.forceGangs_no_threads (standing ▸ threads)
  have none_lost : ((s.retireBegun n).gangsForced n).collsLost (some n) [] = _ :=
    State.collsLost_none (s := (s.retireBegun n).gangsForced n) ((keep (π := State.colls) (fun _ _ => rfl) fun _ _ => rfl).trans colls)
      ((keep (π := State.engines) (fun _ _ => rfl) fun _ _ => rfl).trans engines) _
  have begun : s.startRetire n true none = (((s.retireBegun n).forceGangs n).collsLost (some n) []).schedule
      (((s.retireBegun n).forceGangs n).time.cycle + 32) (.retire n 16) := rfl
  rw [begun, forced, none_lost]
  rfl

/-- What the beginning of a retirement for a reset leaves. -/
theorem State.startRetire_spec {p : Part} (hp : s.part? n = some p) (colls : s.colls = []) (engines : s.engines = []) :
    (s.startRetire n true none).t = s.t ∧ (s.startRetire n true none).mem = s.mem ∧
      (s.startRetire n true none).time.cycle = s.time.cycle ∧
      (s.startRetire n true none).dev.retiring = s.dev.retiring ++ [⟨n, none, true, none⟩] ∧
      ((s.startRetire n true none).part? n).map Part.retiring = some true := by
  have keep {α : Type} {π : State → α} := State.retireBegun_keep (π := π) (n := n) (s := s)
  have marked : ((s.retireMarked n).part? n).map Part.retiring = some true :=
    congrArg (Option.map Part.retiring) (State.part?_modPart_some hp (f := Part.retires) fun _ => rfl)
  rw [State.startRetire_forced threads colls engines]
  exact ⟨keep (π := State.t) (fun _ _ => rfl) fun _ _ => rfl, keep (π := State.mem) (fun _ _ => rfl) fun _ _ => rfl,
    keep (π := fun s => s.time.cycle) (fun _ _ => rfl) fun _ _ => rfl, keep (π := fun s => s.dev.retiring) (fun _ _ => rfl) fun _ _ => rfl,
    (keep (π := fun s => (s.part? n).map Part.retiring) (fun s f => s.retiring_modUnit n n f) fun _ _ => rfl).trans marked⟩

/-- A partition that is reset as `resetPart` leaves it: it retires by force, is erased in this cycle, and its frames read 0. -/
def State.IsReset (s' s : State) (n : Nat) : Prop :=
  s'.t = s.t ∧ (s'.part? n).map Part.retiring = some true ∧
    (∃ r ∈ s'.dev.retiring, r.part = n ∧ r.reset = true ∧ r.erased = some s.time.cycle) ∧
    ∀ o ∈ s.framesOf n, ∀ k, k < 8192 → s'.mem.gbyte (o.frame * 8192 + k) = 0

/-- The reset of a partition that does not retire yet begins a retirement. -/
theorem State.resetPart_begins {p : Part} (hp : s.part? n = some p) (colls : s.colls = []) (engines : s.engines = [])
    (none_retires : ∀ r ∈ s.dev.retiring, r.part ≠ n) : (s.resetPart n).IsReset s n := by
  have found : (s.dev.retiring.find? fun r => r.part = n) = none := List.find?_eq_none.mpr (by simpa using none_retires)
  have reset : s.resetPart n = (s.startRetire n true none).orderErase n := by simp only [State.resetPart, found]
  obtain ⟨t, mem, cycle, retiring, part⟩ := State.startRetire_spec threads hp colls engines
  rw [reset]
  generalize s.startRetire n true none = s1 at t mem cycle retiring part ⊢
  have first (r : Retirement) (hr : r ∈ s1.dev.retiring) (mine : r.part = n) : r.erased = none := by
    rw [retiring, List.mem_append, List.mem_singleton] at hr
    rcases hr with hr | rfl
    · exact absurd mine (none_retires r hr)
    · rfl
  have begun : (⟨n, none, true, none⟩ : Retirement) ∈ s1.dev.retiring := by
    rw [retiring]
    exact List.mem_append_right _ (List.mem_singleton_self _)
  obtain ⟨t1, -, parts, erased, zeroed⟩ := State.orderErase_spec first begun rfl
  refine ⟨t1.trans t, ?_, ⟨_, erased, rfl, rfl, congrArg some cycle⟩, fun o ho => zeroed o ?_⟩
  · rwa [State.part?, parts]
  · rwa [State.framesOf, mem]

/-- A retirement that a request began goes on by force. -/
theorem State.resetPart_forces {p : Part} (hp : s.part? n = some p) (retires : p.retiring = true)
    (first : ∀ r ∈ s.dev.retiring, r.part = n → r.erased = none) {r : Retirement}
    (found : (s.dev.retiring.find? fun r => r.part = n) = some r) (request : r.reset = false) : (s.resetPart n).IsReset s n := by
  have mine : r.part = n := by simpa using List.find?_some found
  obtain ⟨t, others, parts, erased, zeroed⟩ := State.orderErase_spec first (List.mem_of_find?_eq_some found) mine
  have reset : s.resetPart n = ((s.orderErase n).gangsForced n).modRetirement n fun r => { r with reset := true } := by
    simp only [State.resetPart, found, request, Bool.false_eq_true, ↓reduceIte]
    rw [State.forceGangs_no_threads (by rwa [State.threads, t, others])]
  have part : (s.orderErase n).part? n = some p := by rwa [State.part?, parts]
  rw [reset]
  exact ⟨t, (congrArg (Option.map Part.retiring) part).trans (congrArg some retires),
    ⟨{ r with erased := some s.time.cycle, reset := true }, List.mem_map.mpr ⟨_, erased, if_pos mine⟩, mine, rfl, rfl⟩, zeroed⟩

/-- A partition of no thread that has not been erased, and whose retirement, if it retires, no reset began, is reset. -/
theorem State.resetPart_isReset {p : Part} (hp : s.part? n = some p) (colls : s.colls = []) (engines : s.engines = [])
    (unforced : ∀ r ∈ s.dev.retiring, r.part ≠ n ∨ (r.reset = false ∧ r.erased = none))
    (retires : p.retiring = true ∨ ∀ r ∈ s.dev.retiring, r.part ≠ n) : (s.resetPart n).IsReset s n := by
  cases found : s.dev.retiring.find? fun r => r.part = n with
  | none => exact State.resetPart_begins threads hp colls engines (by simpa using found)
  | some r =>
    have hr := List.mem_of_find?_eq_some found
    have mine : r.part = n := by simpa using List.find?_some found
    have of_mine (r : Retirement) (hr : r ∈ s.dev.retiring) (mine : r.part = n) := (unforced r hr).resolve_left (not_not_intro mine)
    exact State.resetPart_forces threads hp (retires.resolve_right fun none => none r hr mine) (fun r hr mine => (of_mine r hr mine).2) found
      (of_mine r hr mine).1

end Reset

/-- A function with and without memory of its own, and one that is not bound. -/
theorem functionLevelReset : Claims.FunctionLevelReset := by
  intro s v p bound hp colls engines cleared
  obtain ⟨t, threads, mem, dev, cycle, hcolls, hengines⟩ := s.functionCancelled_frame v.num
  obtain ⟨q, hq, retires⟩ := State.functionCancelled_retiring (vf := v.num) hp
  have reset := execFunctionLevelReset_bound bound hq colls engines
  refine ⟨fun n unbound no_jobs => ?_, fun plain no_jobs => ?_, fun plain apart => ?_, fun owns no_jobs r only mine done => ?_,
    fun owns unforced no_threads begins => ?_⟩
  · exact ⟨_, execFunctionLevelReset_unbound unbound, State.functionCancelled_no_jobs no_jobs n⟩
  · rw [plain] at reset
    exact ⟨_, reset, State.functionCancelled_no_jobs no_jobs v.num⟩
  · rw [plain] at reset
    exact ⟨_, reset, t, mem, s.functionCancelled_vfs v.num, fun x hx => State.functionCancelled_over apart hx⟩
  · rw [owns] at reset
    have found : ((s.functionCancelled v.num).dev.retiring.find? fun r => r.part = v.part) = some r := by simp [dev, only, mine]
    have stays : (s.functionCancelled v.num).resetPart v.part = s.functionCancelled v.num := by
      simp only [State.resetPart, found, done, ↓reduceIte]
    exact ⟨_, reset, stays.trans (State.functionCancelled_no_jobs no_jobs v.num)⟩
  · rw [owns] at reset
    have is_reset := State.resetPart_isReset (s := s.functionCancelled v.num) (n := v.part) (by rwa [threads]) hq (hcolls.trans colls)
      (hengines.trans engines) (by rwa [dev]) (by rwa [dev, retires])
    obtain ⟨t', part', ⟨r, hr, mine, forced, erased⟩, zeroed⟩ := is_reset
    obtain ⟨p', hp', retires'⟩ := Option.map_eq_some_iff.mp part'
    refine ⟨_, p', reset, t'.trans t, hp', retires', ⟨r, hr, mine, forced, cycle ▸ erased⟩, fun o ho => zeroed o ?_⟩
    rwa [State.framesOf, mem]

end Sys2Proof.Machine

namespace Sys2Proof
open Machine

/-- Settles O42: the Rake by what each kind of item clears, and the reset of a function by the launches it cancels and the retirement of
its partition that it begins or forces. -/
theorem rakeAndFunctionReset : Obligations.RakeAndFunctionReset := ⟨rakeEvents, functionLevelReset⟩

end Sys2Proof

/-! # Encoding and decoding: from the instruction to its bytes and back (O52) -/

namespace Sys2Proof.Laws.Encoding

open Sys2Proof

/-- Every instruction keeps the statement that its constructor's lemma makes: the lemmas, in the order of the constructors, are
the cases of `Instr`. -/
theorem statement_all : ∀ i : Instr, Statement i :=
  @Instr.rec Statement
    asyncTrapDelivery fetchLineInstall bankArbitration resultFill migrationArrival arrivalBufferPlace migrationResend migrationPlacedNotice
    migrationFallback proxiedAccess postedWriteArrival postedWriteAck postedWakeArrival translationRequest translationWalkDone l2FillBurst
    hbmFillReturn crossDieWriteApply clockBeat dclockReport vclockZeroing globalFenceOrdering barrierRequest parkTimeout sleepTimeout
    launchWindowSubmit invocationArrival launchPlacementPass waitonPoll priorityAging completionWrite msixRaise handlerErrorCompletion fold
    ownership slotHandover slotScrubDone pageMove pageMoveRetire cellarClear resized root frames release retire rackSegment rackRetire
    followOnEnqueue rackWatchdog collContribution collTimeout linkFailure pressOpStart pressKblock pressOpRetire pressWatchdog tdirPerform
    tmovePerform entryLanding censusRequest censusBroadcast responderStart trellisReport panNodeReport landingNotice censusComplete policyInstall
    policyRevoke labelGrant policyExpiry faultQueueEvent faultQueueRetry slotTimerExpiry heartbeatMiss budgetPeriod thermtrip regulatorWindow
    channelDerate waySweep telemetryExport functionLevelReset rakejob rakeItemDone rakestat deviceReset powerOn attestationRequest portAttestation
    fabricPacketArrival hostWrite hostRead signedConfigurationRecord add sub and or xor sll srl sra rot min max minu maxu slt sltu seq sel extSB
    extSH extSW extZB extZH extZW addi andi ori xori slti sltiu slli srli srai roti lui addpc mul mulh mulhu div divu rem remu padd paddSs paddUs
    psub psubSs psubUs pmul pmulSs pmin pminU pmax pmaxU pshLl pshRl pshRa pcmpEq pcmpLt pcmpLtu pabsd ppack ppackSs ppackUs cmul cmac cmacj cabs2
    mulq sat satu clz ctz popc bswap bext bextu bins fadd fsub fmul fma fdiv fsqrt fmin fmax fcmpEq fcmpLt fcmpLe fclass rnd rseed cvt ld st ldm
    stm ldfe ldff stfe stff tagr tagw setvat amoAdd amoAnd amoOr amoXor amoMin amoMax amoMinu amoMaxu amoSwap amoFadd32 redAdd redAnd redOr redXor
    redMin redMax redMinu redMaxu redSwap redFadd32 cas cas2 park wake sleep bar barw fencePan fenceTenant fenceSystem fenceGlobal hop live
    tlbinvTrellis tlbinvPan tlbinvPartition tlbinvPackage beq bne blt bge bltu bgeu jal jalr nest next fork join jdone spawn quit beat ifence mfc
    mtc mtcStatus mtcLive mtcSeed mtcDeftrapvec mtcHtbase mtcFqbase mtcWmdata trap sys eret vadd vsub vmul vmac vmin vmax vand vor vxor vshLl
    vshRl vshRa vcmpEq vcmpLt vcmpLtu vsel vcmul vcmac vredAdd vredMin vredMax vredFadd vperm vmv vmvBc vmvX vfadd vfmul vfma vfmin vfmax vcvt vld
    vst vlds vldx vstx vclaim vrel vsync mand mor mnot vsfuExp2 vsfuLog2 vsfuRcp vsfuRsqrt vsfuSin vsfuCos vsfuTanh vsfuSigmoid vbflyR2 vbflyR4
    rack rackv rfenceEngine rfencePartition qfence qwait rstat collAllreduce collAllgather collReducescatter pmm pzero pwait pprog tdirPut tdirDel
    tmove solicitSum solicitMin solicitMax solicitOr solicitCount answer cwait lbl lblV lblM lblS sluice launch invoke cAdd cSub cAnd cOr cXor
    cSll cSrl cSra cMul cMin cMax mv cAddi cCmac cFadd cFmul cvAdd cvSub cvAnd cvOr cvXor cvSll cvSrl cvSra cvMul cvMin cvMax cvMv cvAddi cvCmac
    cvFadd cvFmul

/-- The bytes of an even halfword are read back as that halfword (R89). -/
theorem decodeBytes_half (w : Nat) (rest : List Byte) (h : w < 2 ^ 16) (even : w % 2 = 0) :
    decodeBytes (natBytes 2 w ++ rest) = (decodeHalf w).map (·, rest) := by
  have hw : w % 256 + w / 256 % 256 * 256 = w := by omega
  simp [natBytes, decodeBytes, hw, even]

/-- The bytes of an odd word are read back as that word (R89). -/
theorem decodeBytes_word (w : Nat) (rest : List Byte) (h : w < 2 ^ 32) (odd : w % 2 = 1) :
    decodeBytes (natBytes 4 w ++ rest) = (decodeWord w).map (·, rest) := by
  have h0 : (w % 256 + w / 256 % 256 * 256) % 2 = 1 := by omega
  have hw : w % 256 + w / 256 % 256 * 256 + (w / 256 / 256 % 256 + w / 256 / 256 / 256 % 256 * 256) * 65536 = w := by omega
  simp [natBytes, decodeBytes, hw, h0]

end Sys2Proof.Laws.Encoding

namespace Sys2Proof
open Laws.Encoding

/-- Settles O52: the bits of each instruction decode to it by its constructor's lemma, and its bytes are read back as its bits. -/
theorem encodeDecode : Obligations.EncodeDecode := by
  intro i rest he hwf
  obtain ⟨hb, hlt, hpar, hd⟩ | ⟨hb, hlt, hpar, hd⟩ := statement_all i he hwf
  · rw [encodeBytes, hb, decodeBytes_half _ _ hlt hpar, hd]; rfl
  · rw [encodeBytes, hb, decodeBytes_word _ _ hlt hpar, hd]; rfl

end Sys2Proof

/-! # Decoding and encoding: from the bits to the instruction and back (O53)

A result of the decoder is faithful to a number of so many bits when every instruction it gives is well formed and encodes to that
number. Each group's decoder is: its arms are rejections, or instructions whose operands are fields of the number, and the fields
of the encoding are then, from the least significant up, those of the number. -/

namespace Sys2Proof
open Laws.Encoding

/-! ## Fields of a number (R90) -/

theorem bitsAt_lt (w lo n : Nat) : bitsAt w lo n < 2 ^ n := Nat.mod_lt _ (Nat.two_pow_pos n)

/-- A field is the field below followed by the field above. -/
theorem bitsAt_add (w lo m n : Nat) : bitsAt w lo (m + n) = bitsAt w lo m + 2 ^ m * bitsAt w (lo + m) n := by
  simp only [bitsAt, Nat.pow_add, Nat.mod_mul, Nat.div_div_eq_div_mul]

/-- A value, cut to n bits, is the field of n bits at a place. -/
def Field (w lo n v : Nat) : Prop := bitsAt w lo n = v % 2 ^ n

/-- Widths and values, from the least significant up, are the fields of a number from a place on. -/
def Fields (w : Nat) : Nat → List (Nat × Nat) → Prop
  | _, [] => True
  | lo, (n, v) :: fs => Field w lo n v ∧ Fields w (lo + n) fs

/-- The fields of a number, packed, give its bits back. -/
theorem Fields.pack_eq (w : Nat) : ∀ (fs : List (Nat × Nat)) (lo : Nat), Fields w lo fs →
    pack fs = bitsAt w lo (fs.map Prod.fst).sum
  | [], lo, _ => by simp [pack, bitsAt, Nat.mod_one]
  | (n, v) :: fs, lo, ⟨hv, hfs⟩ => by
    rw [pack, ← hv, Fields.pack_eq w fs _ hfs, List.map_cons, List.sum_cons, bitsAt_add]

theorem Field.eq {w lo n v : Nat} (h : bitsAt w lo n = v) : Field w lo n v := by
  rw [Field, ← h, Nat.mod_eq_of_lt (bitsAt_lt w lo n)]

@[simp] theorem field_finAt (w lo n : Nat) : Field w lo n (finAt w lo n).val := .eq rfl

@[simp] theorem field_bvAt (w lo n : Nat) : Field w lo n (bvAt w lo n).toNat :=
  .eq (by rw [bvAt, BitVec.toNat_ofNat, Nat.mod_eq_of_lt (bitsAt_lt w lo n)])

@[simp] theorem field_bitAt (w lo : Nat) : Field w lo 1 (bitAt w lo).toNat := by
  have := bitsAt_lt w lo 1
  refine .eq ?_
  by_cases h : bitsAt w lo 1 = 1 <;> simp [bitAt, h]
  omega

@[simp] theorem field_memOrder (w lo : Nat) : Field w lo 2 (MemOrder.ofCode (bitsAt w lo 2)).code :=
  .eq ((show ∀ n < 4, n = (MemOrder.ofCode n).code by decide) _ (bitsAt_lt w lo 2))

@[simp] theorem field_memSize (w lo : Nat) : Field w lo 2 (MemSize.ofCode (bitsAt w lo 2)).code :=
  .eq ((show ∀ n < 4, n = (MemSize.ofCode n).code by decide) _ (bitsAt_lt w lo 2))

@[simp] theorem field_fmt (w lo : Nat) : Field w lo 5 (Fmt.ofCode (bitsAt w lo 5)).code :=
  .eq ((show ∀ n < 32, n = (Fmt.ofCode n).code by decide) _ (bitsAt_lt w lo 5))

/-! ## Codes that may be reserved (R81, R94, R97, R117, R166) -/

@[simp] theorem pwidth_ofCode_iff (n : Nat) (x : PWidth) : PWidth.ofCode n = some x ↔ n = x.code := by
  constructor
  · intro h; unfold PWidth.ofCode at h; split at h <;> cases h <;> rfl
  · rintro rfl; exact pwidth_code x

@[simp] theorem fpFmt_ofCode_iff (n : Nat) (x : FpFmt) : FpFmt.ofCode n = some x ↔ n = x.code := by
  constructor
  · intro h; unfold FpFmt.ofCode at h; split at h <;> cases h <;> rfl
  · rintro rfl; exact fpFmt_code x

@[simp] theorem rm_ofCode_iff (n : Nat) (x : Rm) : Rm.ofCode n = some x ↔ n = x.code := by
  constructor
  · intro h; unfold Rm.ofCode at h; split at h <;> cases h <;> rfl
  · rintro rfl; exact rm_code x

@[simp] theorem cvtRound_ofCode_iff (n : Nat) (x : CvtRound) : CvtRound.ofCode n = some x ↔ n = x.code := by
  constructor
  · intro h
    cases n with
    | zero => cases h; rfl
    | succ n =>
      obtain ⟨m, hm, rfl⟩ := Option.map_eq_some_iff.1 h
      rw [(rm_ofCode_iff n m).1 hm]; rfl
  · rintro rfl; exact cvtRound_code x

@[simp] theorem vcvtCode_iff (n : Nat) (c : Fin 12) : vcvtCode n = some c ↔ n = c.val := by
  by_cases h : n < 12 <;> simp [vcvtCode, h, Fin.ext_iff]
  omega

/-! ## Results that are faithful to the bits they come from -/

/-- Every instruction that the result gives is well formed and has these n bits. -/
def Faithful (w n : Nat) (r : Except Reject Instr) : Prop :=
  ∀ i, r = .ok i → i.wellFormed = true ∧ i.encoded = true ∧ i.bits = n ∧ encode i = w

theorem faithful_error {w n : Nat} {e : Reject} : Faithful w n (.error e) := fun _ h => by cases h

/-- An instruction that keeps its limits is faithful where the fields of its encoding are those of the number. -/
theorem faithful_checked {w n : Nat} {i : Instr} {fs : List (Nat × Nat)} (hi : i.encoded = true) (hb : i.bits = n)
    (he : encode i = pack fs) (hn : (fs.map Prod.fst).sum = n) (hw : w < 2 ^ n)
    (hf : Fields w 0 fs := by simp_all [Fields, Field.eq]) : Faithful w n (checked i) := by
  intro j hj
  unfold checked at hj
  split at hj
  next hwf =>
    cases hj
    refine ⟨by simp [Instr.wellFormed, hwf], hi, hb, ?_⟩
    rw [he, hf.pack_eq, hn]
    simp [bitsAt, Nat.mod_eq_of_lt hw]
  next => cases hj

/-! ## The groups of 32-bit words (R93 to R98) -/

section Words
-- One group after another: elaborated all at once, these proofs pass the limit on memory.
set_option Elab.async false

variable {w : Nat} (hw : w < 2 ^ 32) (odd : bitsAt w 0 1 = 1)
include hw odd

theorem faithful_decodeAluR (major : bitsAt w 1 6 = 0) : Faithful w 32 (decodeAluR w) := by
  unfold decodeAluR
  repeat' split
  any_goals exact faithful_error
  all_goals exact faithful_checked rfl rfl rfl rfl hw

theorem faithful_decodeShiftImm (major : bitsAt w 1 6 = 5) : Faithful w 32 (decodeShiftImm w) := by
  unfold decodeShiftImm
  repeat' split
  any_goals exact faithful_error
  all_goals exact faithful_checked rfl rfl rfl rfl hw

theorem faithful_decodeMulDiv (major : bitsAt w 1 6 = 10) : Faithful w 32 (decodeMulDiv w) := by
  unfold decodeMulDiv
  repeat' split
  any_goals exact faithful_error
  all_goals exact faithful_checked rfl rfl rfl rfl hw

theorem faithful_decodePsimd (major : bitsAt w 1 6 = 11) : Faithful w 32 (decodePsimd w) := by
  unfold decodePsimd withField
  repeat' split
  any_goals exact faithful_error
  all_goals exact faithful_checked rfl rfl rfl rfl hw

theorem faithful_decodeCplx (major : bitsAt w 1 6 = 12) : Faithful w 32 (decodeCplx w) := by
  unfold decodeCplx
  repeat' split
  any_goals exact faithful_error
  all_goals exact faithful_checked rfl rfl rfl rfl hw

theorem faithful_decodeBitf (major : bitsAt w 1 6 = 13) : Faithful w 32 (decodeBitf w) := by
  unfold decodeBitf
  repeat' split
  any_goals exact faithful_error
  all_goals exact faithful_checked rfl rfl rfl rfl hw

theorem faithful_decodeFp (major : bitsAt w 1 6 = 14) : Faithful w 32 (decodeFp w) := by
  unfold decodeFp withField
  repeat' split
  any_goals exact faithful_error
  all_goals exact faithful_checked rfl rfl rfl rfl hw

theorem faithful_decodeCvt (major : bitsAt w 1 6 = 15) : Faithful w 32 (decodeCvt w) := by
  unfold decodeCvt withField
  repeat' split
  any_goals exact faithful_error
  all_goals exact faithful_checked rfl rfl rfl rfl hw

theorem faithful_decodeSt (major : bitsAt w 1 6 = 17) : Faithful w 32 (decodeSt w) := by
  unfold decodeSt
  repeat' split
  any_goals exact faithful_error
  all_goals exact faithful_checked rfl rfl rfl rfl hw

theorem faithful_decodeBurst (major : bitsAt w 1 6 = 18) : Faithful w 32 (decodeBurst w) := by
  have store : ¬ bitsAt w 10 1 = 0 → bitsAt w 10 1 = 1 := by
    have := bitsAt_lt w 10 1
    omega
  unfold decodeBurst
  repeat' split
  all_goals exact faithful_checked rfl rfl rfl rfl hw

theorem faithful_decodeSyncMem (major : bitsAt w 1 6 = 19) : Faithful w 32 (decodeSyncMem w) := by
  unfold decodeSyncMem
  repeat' split
  any_goals exact faithful_error
  all_goals exact faithful_checked rfl rfl rfl rfl hw

theorem faithful_decodeAmo (major : bitsAt w 1 6 = 20) : Faithful w 32 (decodeAmo w) := by
  unfold decodeAmo
  repeat' split
  any_goals exact faithful_error
  all_goals exact faithful_checked rfl rfl rfl rfl hw

theorem faithful_decodeRed (major : bitsAt w 1 6 = 21) : Faithful w 32 (decodeRed w) := by
  unfold decodeRed
  repeat' split
  any_goals exact faithful_error
  all_goals exact faithful_checked rfl rfl rfl rfl hw

theorem faithful_decodeCas (major : bitsAt w 1 6 = 22) : Faithful w 32 (decodeCas w) := by
  unfold decodeCas
  repeat' split
  any_goals exact faithful_error
  all_goals exact faithful_checked rfl rfl rfl rfl hw

theorem faithful_decodeWait (major : bitsAt w 1 6 = 23) : Faithful w 32 (decodeWait w) := by
  unfold decodeWait
  repeat' split
  any_goals exact faithful_error
  all_goals exact faithful_checked rfl rfl rfl rfl hw

theorem faithful_decodeFence (major : bitsAt w 1 6 = 24) : Faithful w 32 (decodeFence w) := by
  unfold decodeFence
  repeat' split
  any_goals exact faithful_error
  all_goals exact faithful_checked rfl rfl rfl rfl hw

theorem faithful_decodeMigr (major : bitsAt w 1 6 = 25) : Faithful w 32 (decodeMigr w) := by
  unfold decodeMigr
  repeat' split
  any_goals exact faithful_error
  all_goals exact faithful_checked rfl rfl rfl rfl hw

theorem faithful_decodeBranch (major : bitsAt w 1 6 = 26) : Faithful w 32 (decodeBranch w) := by
  unfold decodeBranch
  repeat' split
  any_goals exact faithful_error
  all_goals exact faithful_checked rfl rfl rfl rfl hw

theorem faithful_decodeLoop (major : bitsAt w 1 6 = 29) : Faithful w 32 (decodeLoop w) := by
  unfold decodeLoop
  repeat' split
  any_goals exact faithful_error
  all_goals exact faithful_checked rfl rfl rfl rfl hw

theorem faithful_decodeTask (major : bitsAt w 1 6 = 30) : Faithful w 32 (decodeTask w) := by
  unfold decodeTask
  repeat' split
  any_goals exact faithful_error
  all_goals exact faithful_checked rfl rfl rfl rfl hw

theorem faithful_decodeSys (major : bitsAt w 1 6 = 31) : Faithful w 32 (decodeSys w) := by
  unfold decodeSys
  repeat' split
  any_goals exact faithful_error
  all_goals exact faithful_checked rfl rfl rfl rfl hw

theorem faithful_decodeValu (major : bitsAt w 1 6 = 32) : Faithful w 32 (decodeValu w) := by
  unfold decodeValu
  repeat' split
  any_goals exact faithful_error
  all_goals exact faithful_checked rfl rfl rfl rfl hw

theorem faithful_decodeVfp (major : bitsAt w 1 6 = 33) : Faithful w 32 (decodeVfp w) := by
  have high : bitsAt w 28 4 = bitsAt w 26 6 / 4 := by
    have : bitsAt w 26 6 = bitsAt w 26 2 + 2 ^ 2 * bitsAt w 28 4 := bitsAt_add w 26 2 4
    have := bitsAt_lt w 26 2
    omega
  unfold decodeVfp withField
  repeat' split
  any_goals exact faithful_error
  all_goals exact faithful_checked rfl rfl rfl rfl hw

theorem faithful_decodeVmem (major : bitsAt w 1 6 = 34) : Faithful w 32 (decodeVmem w) := by
  unfold decodeVmem
  repeat' split
  any_goals exact faithful_error
  all_goals exact faithful_checked rfl rfl rfl rfl hw

theorem faithful_decodeVctl (major : bitsAt w 1 6 = 35) : Faithful w 32 (decodeVctl w) := by
  unfold decodeVctl
  repeat' split
  any_goals exact faithful_error
  all_goals exact faithful_checked rfl rfl rfl rfl hw

theorem faithful_decodeVsfu (major : bitsAt w 1 6 = 36) : Faithful w 32 (decodeVsfu w) := by
  unfold decodeVsfu
  repeat' split
  any_goals exact faithful_error
  all_goals exact faithful_checked rfl rfl rfl rfl hw

theorem faithful_decodeRack (major : bitsAt w 1 6 = 37) : Faithful w 32 (decodeRack w) := by
  unfold decodeRack
  repeat' split
  any_goals exact faithful_error
  all_goals exact faithful_checked rfl rfl rfl rfl hw

theorem faithful_decodePress (major : bitsAt w 1 6 = 38) : Faithful w 32 (decodePress w) := by
  unfold decodePress
  repeat' split
  any_goals exact faithful_error
  all_goals exact faithful_checked rfl rfl rfl rfl hw

theorem faithful_decodeDir (major : bitsAt w 1 6 = 39) : Faithful w 32 (decodeDir w) := by
  unfold decodeDir
  repeat' split
  any_goals exact faithful_error
  all_goals exact faithful_checked rfl rfl rfl rfl hw

theorem faithful_decodeLabelGroup (major : bitsAt w 1 6 = 40) : Faithful w 32 (decodeLabelGroup w) := by
  unfold decodeLabelGroup
  repeat' split
  any_goals exact faithful_error
  all_goals exact faithful_checked rfl rfl rfl rfl hw

theorem faithful_decodeLaunch (major : bitsAt w 1 6 = 41) : Faithful w 32 (decodeLaunch w) := by
  unfold decodeLaunch
  repeat' split
  any_goals exact faithful_error
  all_goals exact faithful_checked rfl rfl rfl rfl hw

/-- What decodes from a word is well formed and encodes to the word (R93). -/
theorem faithful_decodeWord : Faithful w 32 (decodeWord w) := by
  unfold decodeWord
  split
  case h_1 major => exact faithful_decodeAluR hw odd major
  case h_6 major => exact faithful_decodeShiftImm hw odd major
  case h_11 major => exact faithful_decodeMulDiv hw odd major
  case h_12 major => exact faithful_decodePsimd hw odd major
  case h_13 major => exact faithful_decodeCplx hw odd major
  case h_14 major => exact faithful_decodeBitf hw odd major
  case h_15 major => exact faithful_decodeFp hw odd major
  case h_16 major => exact faithful_decodeCvt hw odd major
  case h_18 major => exact faithful_decodeSt hw odd major
  case h_19 major => exact faithful_decodeBurst hw odd major
  case h_20 major => exact faithful_decodeSyncMem hw odd major
  case h_21 major => exact faithful_decodeAmo hw odd major
  case h_22 major => exact faithful_decodeRed hw odd major
  case h_23 major => exact faithful_decodeCas hw odd major
  case h_24 major => exact faithful_decodeWait hw odd major
  case h_25 major => exact faithful_decodeFence hw odd major
  case h_26 major => exact faithful_decodeMigr hw odd major
  case h_27 major => exact faithful_decodeBranch hw odd major
  case h_30 major => exact faithful_decodeLoop hw odd major
  case h_31 major => exact faithful_decodeTask hw odd major
  case h_32 major => exact faithful_decodeSys hw odd major
  case h_33 major => exact faithful_decodeValu hw odd major
  case h_34 major => exact faithful_decodeVfp hw odd major
  case h_35 major => exact faithful_decodeVmem hw odd major
  case h_36 major => exact faithful_decodeVctl hw odd major
  case h_37 major => exact faithful_decodeVsfu hw odd major
  case h_38 major => exact faithful_decodeRack hw odd major
  case h_39 major => exact faithful_decodePress hw odd major
  case h_40 major => exact faithful_decodeDir hw odd major
  case h_41 major => exact faithful_decodeLabelGroup hw odd major
  case h_42 major => exact faithful_decodeLaunch hw odd major
  case h_43 => exact faithful_error
  all_goals exact faithful_checked rfl rfl rfl rfl hw

end Words

/-! ## The compact halfwords (R92) -/

section Halfwords
variable {w : Nat} (hw : w < 2 ^ 16) (even : bitsAt w 0 1 = 0)
include hw even

theorem faithful_decodeCompactScalar (scalar : bitsAt w 15 1 = 0) : Faithful w 16 (decodeCompactScalar w) := by
  have := bitsAt_lt w 1 4
  unfold decodeCompactScalar
  split
  case h_16 =>
    have last : bitsAt w 1 4 = 15 := by simp only [imp_false] at *; omega
    exact faithful_checked rfl rfl rfl rfl hw (by simp [Fields, Field.eq, even, last, scalar])
  all_goals exact faithful_checked rfl rfl rfl rfl hw

theorem faithful_decodeCompactVector (vector : bitsAt w 15 1 = 1) : Faithful w 16 (decodeCompactVector w) := by
  have := bitsAt_lt w 1 4
  have top : bitsAt w 14 2 = bitsAt w 14 1 + 2 ^ 1 * bitsAt w 15 1 := bitsAt_add w 14 1 1
  unfold decodeCompactVector
  split
  case h_16 =>
    have last : bitsAt w 1 4 = 15 := by simp only [imp_false] at *; omega
    split
    · exact faithful_checked rfl rfl rfl rfl hw
    · exact faithful_error
  all_goals split
  any_goals exact faithful_error
  all_goals exact faithful_checked rfl rfl rfl rfl hw

/-- What decodes from a halfword is well formed and encodes to the halfword (R92). -/
theorem faithful_decodeHalf : Faithful w 16 (decodeHalf w) := by
  have := bitsAt_lt w 15 1
  unfold decodeHalf
  split
  next vector => exact faithful_decodeCompactVector hw even vector
  next scalar => exact faithful_decodeCompactScalar hw even (by omega)

end Halfwords

/-! ## What is no instruction (R92, R93, R97) -/

theorem decodeWord_reservedMajor {w : Nat} (h : 0x2A ≤ bitsAt w 1 6) : decodeWord w = .error .reservedMajor := by
  unfold decodeWord
  split
  case h_43 => rfl
  all_goals omega

theorem decodeAluR_reserved {w : Nat} (h : 0x17 ≤ bitsAt w 24 8) : decodeAluR w = .error .reservedFunction := by
  unfold decodeAluR
  split
  case h_24 => rfl
  all_goals omega

theorem decodeBranch_reserved {w : Nat} (h : 6 ≤ bitsAt w 7 3) : decodeBranch w = .error .reservedFunction := by
  unfold decodeBranch
  split
  case h_7 => rfl
  all_goals omega

/-- A first halfword that asks for a second one, which is not there (R89). -/
theorem decodeBytes_truncated {b c : Byte} {rest : List Byte} (odd : b.toNat % 2 = 1) (short : rest.length < 2) :
    decodeBytes (b :: c :: rest) = .error .truncated := by
  have h0 : (b.toNat + c.toNat * 256) % 2 = 1 := by omega
  match rest, short with
  | [], _ => simp [decodeBytes, h0]
  | [_], _ => simp [decodeBytes, h0]

/-- Words and byte sequences that are no instruction are refused by name. -/
theorem decodeRejects : Claims.DecodeRejects := by
  refine ⟨fun w h => decodeWord_reservedMajor (by simpa [bitsAt] using h), rfl, rfl, fun _ => rfl,
    fun b c odd => ⟨decodeBytes_truncated odd (by simp), fun d => decodeBytes_truncated odd (by simp)⟩, ?_, ?_⟩
  · intro w major fn
    have hm : bitsAt w 1 6 = 0 := by simpa [bitsAt] using major
    rw [decodeWord, hm]
    exact decodeAluR_reserved fn
  · intro w major cond
    have hm : bitsAt w 1 6 = 0x1A := by simpa [bitsAt] using major
    rw [decodeWord, hm]
    exact decodeBranch_reserved cond

/-- Settles O53: the groups' decoders are faithful to the bits, and what no group lists is refused. -/
theorem decodeEncode : Obligations.DecodeEncode := by
  refine ⟨fun w i => ⟨fun hw odd hd => ?_, fun hw even hd => ?_⟩, decodeRejects⟩
  · exact faithful_decodeWord hw (by simpa [bitsAt] using odd) i hd
  · exact faithful_decodeHalf hw (by simpa [bitsAt] using even) i hd

end Sys2Proof

/-! # The frame of a register write, and the register checks of an issue (O59) -/

namespace Sys2Proof.Machine
open Sys2Proof

/-- A register write leaves every field of the thread but the registers (R73). -/
theorem Thread.write_eq (t : Thread) (r : Reg) (v : Word) (l : Label) : t.write r v l = { t with regs := (t.write r v l).regs } := by
  by_cases h : r = 0 <;> simp [Thread.write, Thread.setReg, h]

/-- The registers that the state after a register write has are those of the write (R73). -/
theorem State.wrote_reg (s : State) (d : Reg) (v : Word) (srcs : List Reg) (n : Nat) (r : Reg) :
    (s.wrote d v srcs n).t.reg r = (s.t.write d v (s.joined srcs)).reg r := rfl

/-- The thread after a register write: its registers, its PC, and an instruction that begins anew. -/
theorem State.wrote_thread (s : State) (d : Reg) (v : Word) (srcs : List Reg) (n : Nat) :
    (s.wrote d v srcs n).t = { s.t with regs := (s.wrote d v srcs n).t.regs, pc := s.t.pc + BitVec.ofNat 64 n, prog := .fresh, proxy := false } := by
  simp only [State.wrote, State.put]
  rw [Thread.write_eq]

theorem registerWriteFrame : Claims.RegisterWriteFrame := fun s d v srcs n =>
  ⟨fun hd => Thread.reg_write_same _ _ _ _ hd, Thread.reg_zero _, fun _ hr => Thread.reg_write_other _ _ _ _ _ hr,
    s.wrote_thread d v srcs n, rfl, fun _ => rfl, fun _ => rfl, fun hd => by subst hd; simp [State.wrote, State.put]⟩

/-! ## The checks of an instruction of two sources (R74 to R76, R101) -/

/-- What an instruction with one destination and two sources names. -/
def Uses.two (d a b : Reg) (ta tb : Bool) : Uses := { Uses.none with dests := [d], srcs := [(a, ta), (b, tb)] }

theorem State.issue_idle (s : State) {u : Uses} (k : State → Result) (h : s.check u = .idle) : s.issue u k = .next s.idle := by
  simp [State.issue, h]

theorem State.issue_trap (s : State) {u : Uses} (k : State → Result) {c : TrapCode} {info : Word} (h : s.check u = .trap c info) :
    s.issue u k = .next (s.fail c 0 info u.reads 0) := by
  simp [State.issue, h]

section Two
variable (s : State) (d a b : Reg) (ta tb : Bool)

/-- The checks that concern registers, in the order of R101. -/
theorem State.check_two : s.check (.two d a b ta tb) =
    if s.empty d then .idle
    else if (s.t.reg a).poison then .trap .poisonreg (BitVec.ofNat 64 a.val)
    else if (s.t.reg b).poison then .trap .poisonreg (BitVec.ofNat 64 b.val)
    else if ta && s.empty a then .trap .emptyreg (BitVec.ofNat 64 a.val)
    else if tb && s.empty b then .trap .emptyreg (BitVec.ofNat 64 b.val)
    else if s.empty a || s.empty b then .idle
    else .go := by
  simp only [State.check, Uses.two, Uses.none, State.destPending, State.firstPoison, State.firstEmptyT, State.sourceEmpty, Uses.reads,
    List.any_cons, List.any_nil, List.map_cons, List.map_nil, List.find?_cons, List.find?_nil, Bool.or_false, Bool.false_and,
    Bool.false_eq_true, if_false]
  cases s.empty d <;> cases (s.t.reg a).poison <;> cases (s.t.reg b).poison <;> cases ta && s.empty a <;> cases tb && s.empty b <;> rfl

theorem exec_add_issue : exec (.add d a b ta tb) s = s.issue (.two d a b ta tb) fun s =>
    .next ((s.write d (s.val a + s.val b) (s.resultLabel [a, b])).retire 4) := rfl

variable {s d a b ta tb}

/-- An instruction that its checks idle has no effect (R104). -/
theorem exec_add_idles (h : s.check (.two d a b ta tb) = .idle) :
    exec (.add d a b ta tb) s = .next { s with time := { s.time with turn := .idle } } := by
  rw [exec_add_issue, s.issue_idle _ h, State.idle]

/-- An instruction that its checks stop takes their trap, and CLABEL joins the labels of its sources (R370, R385). -/
theorem exec_add_traps {c : TrapCode} {info : Word} (ht : s.traps) (h : s.check (.two d a b ta tb) = .trap c info) :
    exec (.add d a b ta tb) s =
      .next (s.trapped (trapNumber c) s.t.pc 0 info (labelsOf s.t [a, b] ||| s.t.patched ||| 0)) := by
  rw [exec_add_issue, s.issue_trap _ h, s.fail_traps c _ _ _ _ ht]; rfl

end Two

/-- The checks of an issue that concern registers, each by the place it has in their order. -/
theorem registerChecks : Claims.RegisterChecks := by
  intro s d a b ta tb ht
  have order := s.check_two d a b ta tb
  refine ⟨fun pending => exec_add_idles ?_, fun free => ⟨fun pa => exec_add_traps ht ?_, fun pa pb => exec_add_traps ht ?_, fun pa pb =>
    ⟨fun ea ha => exec_add_traps ht ?_, fun eb hb ready => exec_add_traps ht ?_, fun ea ha ready => exec_add_idles ?_,
      fun eb hb ready => exec_add_idles ?_⟩⟩⟩
  case refine_5 | refine_6 | refine_7 => rcases ready with ready | ready <;> simp_all [State.empty]
  all_goals simp_all [State.empty]

end Sys2Proof.Machine

namespace Sys2Proof
open Machine

/-- Settles O59: the write by the frame of `Thread.write`, and the issue of `add` by the order of its checks. -/
theorem frameAndChecks : Obligations.FrameAndChecks := ⟨registerWriteFrame, registerChecks⟩

end Sys2Proof

/-! # Reads of the control registers (O9) -/

namespace Sys2Proof.Machine
open Sys2Proof

/-! ## What a mode may not access (R78, R79) -/

section Fault
variable {t : Thread} {n : Nat} {write : Bool}

theorem Thread.not_device_of_task (h : t.isTask = true) : t.isDevice = false := by
  simp_all [Thread.isTask, Thread.isDevice]

/-- The numbers of the device's own range are ILLEGAL in device mode and PRIV in every other. -/
theorem cregFault_deviceRange (h : 0xF00 ≤ n) : cregFault t n write = some (if t.isDevice then .illegal else .priv) := by
  simp [cregFault, h]

theorem cregFault_unlisted (h : n < 0xF00) (unlisted : ¬ Claims.listedNum n) : cregFault t n write = some .illegal := by
  have row : cregRow n = none := by
    unfold Claims.listedNum Claims.hiddenNum Claims.fixedNum at unlisted
    unfold cregRow
    iterate 10 rw [if_neg (by omega)]
  simp [cregFault, row, Nat.not_le.2 h]

/-- Outside device mode an access traps where the mode has none, and a write where it may only read. -/
theorem cregFault_of_row {task sup : CregAccess} (row : cregRow n = some (task, sup)) (h : n < 0xF00) (device : t.isDevice = false) :
    cregFault t n write =
      if (if t.isTask then task else sup) = .none ∨ ((if t.isTask then task else sup) = .ro ∧ write = true) then some .priv else none := by
  simp only [cregFault, row, device, Nat.not_le.2 h, if_false, Bool.false_eq_true]
  cases (if t.isTask then task else sup) <;> cases write <;> rfl

/-- Task mode may not access a hidden register. -/
theorem cregFault_hidden (hidden : Claims.hiddenNum n) (task : t.isTask = true) : cregFault t n write = some .priv := by
  have row : ∃ sup, cregRow n = some (.none, sup) := by
    obtain rfl | ⟨lo, hi⟩ | rfl | ⟨lo, hi⟩ | rfl | rfl := hidden
    case inr.inl | inr.inr.inr.inl => interval_cases n <;> exact ⟨_, rfl⟩
    all_goals exact ⟨_, rfl⟩
  have bound : n < 0xF00 := by unfold Claims.hiddenNum at hidden; omega
  obtain ⟨sup, row⟩ := row
  simp [cregFault_of_row row bound (Thread.not_device_of_task task), task]

/-- A register may be read where its row gives the mode an access. -/
theorem cregFault_read {task sup : CregAccess} (row : cregRow n = some (task, sup)) (h : n < 0xF00)
    (ht : t.isTask = true → task ≠ .none) (hs : sup ≠ .none) : cregFault t n false = none := by
  cases device : t.isDevice with
  | true => simp [cregFault, row, device, Nat.not_le.2 h]
  | false =>
    rw [cregFault_of_row row h device]
    cases mode : t.isTask <;> cases task <;> cases sup <;> simp_all

end Fault

/-! ## The trap of an access that is not allowed (R78, R388) -/

/-- An access that the mode may not make takes its trap before the registers are looked at (R78; log 32). -/
theorem cregIssue_fault {s : State} {n : Nat} {write : Bool} {word : Nat} {dests : List Reg} {srcs : List (Reg × Bool)}
    {k : State → Result} {c : TrapCode} (ht : s.traps) (h : cregFault s.t n write = some c) :
    cregIssue n write word dests srcs s k = .next (s.trapped (trapNumber c) s.t.pc 0 (BitVec.ofNat 64 word) s.t.patched) := by
  simp [cregIssue, h, s.fail_traps c _ _ _ _ ht, labelsOf]

/-- The word that a trapping `mfc` names is its encoding. -/
theorem mfcWord_eq_encode (d : Reg) (c : CregNum) : mfcWord d c = encode (.mfc d c) := by
  show _ = pack _
  have := c.isLt
  simp only [pack, mfcWord]
  omega

theorem exec_mfc_traps {s : State} {d : Reg} {c : CregNum} {code : TrapCode} (ht : s.traps) (h : cregFault s.t c.toNat false = some code) :
    exec (.mfc d c) s =
      .next (s.trapped (trapNumber code) s.t.pc 0 (BitVec.ofNat 64 (encode (.mfc d c))) s.t.patched) := by
  rw [exec_mfc, ← mfcWord_eq_encode]
  exact cregIssue_fault ht h

/-! ## The value that is read -/

/-- The thread may read a control register, and reads it from itself and not from the launch unit (R79, R80, R206). -/
structure State.ReadsCreg (s : State) (n : Nat) : Prop where
  allowed : cregFault s.t n false = none
  here : isPartReg n = false
  own : n = 0x061 → s.wmForeign = false

section Read
variable {s : State} {d : Reg} {c : CregNum}

theorem State.readsCreg_of_row {n : Nat} {task sup : CregAccess} (row : cregRow n = some (task, sup)) (ht : s.t.isTask = true → task ≠ .none)
    (hs : sup ≠ .none) (h : n < 0x061) (here : isPartReg n = false) : s.ReadsCreg n :=
  ⟨cregFault_read row (by omega) ht hs, here, by omega⟩

theorem exec_mfc_passes (hd : s.writable [d]) (h : s.ReadsCreg c.toNat) :
    exec (.mfc d c) s = .next (s.put d (s.cregValue c.toNat) (s.joined [] ||| if c.toNat = 0x003 then s.t.ctl.seedLabel else 0) 4) := by
  obtain ⟨allowed, here, own⟩ := h
  have foreign : ¬ (c.toNat = 0x061 ∧ s.wmForeign = true) := fun ⟨hn, hf⟩ => by simp [own hn] at hf
  rw [exec_mfc, execMfc, cregIssue]
  simp only [allowed]
  rw [s.issue_scalar [d] [] _ hd (by intro r hr; cases hr)]
  simp [foreign, here, State.put, State.retire, State.write, State.resultLabel_eq]

/-- `mfc` of a register other than SEED writes its value, with CLABEL as its label. -/
theorem exec_mfc_reads {v : Word} (hd : s.writable [d]) (h : s.ReadsCreg c.toNat) (hn : c.toNat ≠ 0x003) (hv : s.cregValue c.toNat = v) :
    exec (.mfc d c) s = .next (s.wrote d v [] 4) := by
  simp [exec_mfc_passes hd h, hn, hv, State.wrote]

/-- `mfc` of a register of the thread, by its row of R79. -/
theorem exec_mfc_row {task sup : CregAccess} {v : Word} (hd : s.writable [d]) (row : cregRow c.toNat = some (task, sup))
    (ht : s.t.isTask = true → task ≠ .none) (hs : sup ≠ .none) (h : c.toNat < 0x061 ∧ c.toNat ≠ 0x003 ∧ isPartReg c.toNat = false)
    (hv : s.cregValue c.toNat = v) : exec (.mfc d c) s = .next (s.wrote d v [] 4) :=
  exec_mfc_reads hd (State.readsCreg_of_row row ht hs h.1 h.2.2) h.2.1 hv

end Read

/-! ## The registers by mode -/

theorem perfValue_gang {s : State} {k : Nat} {g : Gang} (task : s.t.isTask = true) (hg : s.gang? s.t.ident.gang = some g) :
    s.perfValue k = g.perf.getD k 0 := by
  simp [State.perfValue, task, hg]

theorem perfValue_part {s : State} {k : Nat} {p : Part} (sup : s.t.isTask = false) (hp : s.part? s.t.ident.part = some p) :
    s.perfValue k = p.perf.getD k 0 := by
  simp [State.perfValue, sup, hp]

section Modes
variable {s : State} {d : Reg} (hd : s.writable [d])
include hd

/-- The nest words and the causal clock, which every mode may read (R131, R343). -/
theorem exec_mfc_nest_vclock :
    (∀ k, k < 4 → exec (.mfc d (BitVec.ofNat 12 (0x010 + k))) s = .next (s.wrote d (s.t.ctl.nest.getD k 0) [] 4)) ∧
    (∀ k, k < 8 → exec (.mfc d (BitVec.ofNat 12 (0x018 + k))) s =
      .next (s.wrote d (BitVec.ofNat 64 (s.t.ctl.vclock.getD (2 * k) 0 + 2 ^ 32 * s.t.ctl.vclock.getD (2 * k + 1) 0)) [] 4)) := by
  constructor <;> intro k hk <;> interval_cases k
  all_goals exact exec_mfc_row hd rfl (fun _ => nofun) nofun (by decide) (by simp [State.cregValue, Nat.mul_comm])

/-- The counters, of the gang in task mode and of the partition outside it (R413). -/
theorem exec_mfc_perf (k : Nat) (hk : k < 8) :
    exec (.mfc d (BitVec.ofNat 12 (0x020 + k))) s = .next (s.wrote d (BitVec.ofNat 64 (s.perfValue k)) [] 4) := by
  interval_cases k
  all_goals exact exec_mfc_row hd rfl (fun _ => nofun) nofun (by decide) (by simp [State.cregValue])

/-- WMDATA, of a Pan of the partition and of another's (R206). -/
theorem exec_mfc_wmdata (sup : s.t.isTask = false) :
    let n := s.t.ctl.wmsel.toNat / 2 ^ 12 % 8
    (s.ownsPan s.t.ident.part n = true →
      exec (.mfc d 0x061) s = .next (s.wrote d (s.mapEntry s.t.ident.part n (s.t.ctl.wmsel.toNat % 2 ^ 12)).word [] 4)) ∧
    (s.ownsPan s.t.ident.part n = false → s.traps → exec (.mfc d 0x061) s = .next (s.trapped 0x07 s.t.pc 0 0 s.t.patched)) := by
  have allowed : cregFault s.t 0x061 false = none := cregFault_read (task := .none) (sup := .rw) rfl (by decide) (by simp [sup]) nofun
  constructor
  · intro own
    refine exec_mfc_reads hd ⟨allowed, rfl, fun _ => ?_⟩ (by decide) ?_
    · simpa [State.wmForeign, fieldOf, bitsAt] using own
    · simp [State.cregValue, fieldOf, bitsAt]
  · intro foreign ht
    have hf : s.wmForeign = true := by simpa [State.wmForeign, fieldOf, bitsAt] using foreign
    rw [exec_mfc, execMfc, cregIssue, show (0x061 : CregNum).toNat = 0x061 from rfl]
    simp only [allowed]
    rw [s.issue_scalar [d] [] _ hd (by intro r hr; cases hr)]
    simp [hf, s.fail_traps _ _ _ _ _ ht, labelsOf, trapNumber]

end Modes

/-- An `mfc` that no mode may make, or not the thread's, traps (R78, R79). -/
theorem exec_mfc_refused {s : State} (d : Reg) (c : CregNum) (ht : s.traps) :
    let traps (code : Nat) : Prop := exec (.mfc d c) s =
      .next (s.trapped code s.t.pc 0 (BitVec.ofNat 64 (encode (.mfc d c))) s.t.patched)
    (0xF00 ≤ c.toNat → traps (if s.t.isDevice = true then 0x01 else 0x02)) ∧
    (c.toNat < 0xF00 → ¬ Claims.listedNum c.toNat → traps 0x01) ∧
    (Claims.hiddenNum c.toNat → s.t.isTask = true → traps 0x02) := by
  refine ⟨fun h => ?_, fun h unlisted => exec_mfc_traps ht (cregFault_unlisted h unlisted),
    fun hidden task => exec_mfc_traps ht (cregFault_hidden hidden task)⟩
  have trap := exec_mfc_traps (d := d) (c := c) ht (cregFault_deviceRange h)
  cases device : s.t.isDevice <;> simpa [device, trapNumber] using trap

end Sys2Proof.Machine

namespace Sys2Proof
open Machine

/-- Settles O9: each register by its row of R79, which the mode's access and then the register's value follow. -/
theorem controlRegisterReads : Obligations.ControlRegisterReads := by
  intro s d hd
  obtain ⟨nest, vclock⟩ := exec_mfc_nest_vclock hd
  refine ⟨?_, ?_, ?_, exec_mfc_passes hd (State.readsCreg_of_row (n := 0x003) (task := .rw) (sup := .rw) rfl (fun _ => nofun) nofun (by decide) rfl),
    ?_, ?_, ?_, ?_, ?_, ?_, ?_, nest, vclock, fun k hk => ⟨fun g task hg => ?gang, fun p sup hp => ?part⟩, ?_, ?_, fun sup => ?supervisor,
    fun ht c => exec_mfc_refused d c ht⟩
  case gang => exact perfValue_gang (k := k) task hg ▸ exec_mfc_perf hd k hk
  case part => exact perfValue_part (k := k) sup hp ▸ exec_mfc_perf hd k hk
  case supervisor =>
    refine ⟨?_, ?_, ?_, ?_, ?_, ?_, ?_, ?_, exec_mfc_wmdata hd sup⟩
    all_goals exact exec_mfc_row hd (task := .none) (sup := .rw) rfl (by simp [sup]) nofun (by decide) rfl
  all_goals exact exec_mfc_row hd rfl (fun _ => nofun) nofun (by decide) (by simp [State.cregValue, Nat.mul_comm])

end Sys2Proof

/-! # Writes of the control registers (O10) -/

namespace Sys2Proof.Machine
open Sys2Proof

/-! ## Values whose read-only bits are dropped or kept (R81, R131, R387) -/

theorem keepBits_eq (v : Word) {lo hi : Nat} (h : lo ≤ hi) :
    keepBits v lo hi = BitVec.ofNat 64 (v.toNat % 2 ^ hi / 2 ^ lo * 2 ^ lo) := by
  rw [keepBits, fieldOf, bitsAt, ← Nat.mod_mul_right_div_self, ← Nat.pow_add, Nat.add_sub_cancel' h]

/-- Low bits of one word beside higher bits of another. -/
theorem keepBits_or (v u : Word) {n lo hi : Nat} (h : n ≤ lo) :
    keepBits v 0 n ||| keepBits u lo hi = BitVec.ofNat 64 (v.toNat % 2 ^ n + u.toNat / 2 ^ lo % 2 ^ (hi - lo) * 2 ^ lo) := by
  have hv : v.toNat % 2 ^ n < 2 ^ lo := Nat.lt_of_lt_of_le (Nat.mod_lt _ (Nat.two_pow_pos n)) (Nat.pow_le_pow_right (by decide) h)
  simp only [keepBits, fieldOf, bitsAt, Nat.pow_zero, Nat.div_one, Nat.mul_one, Nat.sub_zero]
  rw [Nat.add_comm, Nat.mul_comm _ (2 ^ lo), Nat.two_pow_add_eq_or_of_lt hv, BitVec.ofNat_or, BitVec.or_comm]

/-- The RW fields of the four nest words (R131). -/
theorem nestWrite_eq (old v : Word) :
    nestWrite 0 old v = BitVec.ofNat 64 (v.toNat % 2 ^ 56 + v.toNat / 2 ^ 63 * 2 ^ 63) ∧ nestWrite 1 old v = BitVec.ofNat 64 v.toNat ∧
    nestWrite 2 old v = BitVec.ofNat 64 (v.toNat % 2 ^ 62 + old.toNat / 2 ^ 62 % 2 * 2 ^ 62) ∧
    nestWrite 3 old v = BitVec.ofNat 64 (v.toNat % 2 ^ 60) := by
  refine ⟨?_, (by simp [nestWrite]), keepBits_or v old (by decide), (by simp [nestWrite, keepBits_eq])⟩
  have top : v.toNat / 2 ^ 63 % 2 ^ (64 - 63) = v.toNat / 2 ^ 63 := Nat.mod_eq_of_lt (by have := v.isLt; omega)
  rw [← top]
  exact keepBits_or v v (by decide)

theorem testBit_fieldOf (x : Word) (lo n i : Nat) : (fieldOf x lo n).testBit i = (decide (i < n) && x.getLsbD (lo + i)) := by
  simp [fieldOf, bitsAt, Nat.testBit_mod_two_pow, Nat.testBit_div_two_pow, BitVec.getLsbD, Nat.add_comm]

/-- A replaced field lies between the bits below it and those above it. -/
theorem putField_eq (x : Word) (lo n v : Nat) :
    putField x lo n v = BitVec.ofNat 64 (2 ^ lo * (2 ^ n * (x.toNat / 2 ^ (lo + n)) + v % 2 ^ n) + x.toNat % 2 ^ lo) := by
  have split : x.toNat = 2 ^ lo * (2 ^ n * (x.toNat / 2 ^ (lo + n)) + bitsAt x.toNat lo n) + x.toNat % 2 ^ lo := by
    rw [Nat.pow_add, ← Nat.div_div_eq_div_mul, bitsAt, Nat.div_add_mod, Nat.div_add_mod]
  rw [putField, Nat.mul_comm (bitsAt _ _ _), Nat.mul_comm (v % 2 ^ n)]
  congr 1
  generalize bitsAt x.toNat lo n = field at split
  rw [Nat.mul_add] at split ⊢
  omega

/-- A bit of a word with a field replaced is one of the field's new value, or the word's own. -/
theorem getLsbD_putField (x : Word) (lo n v : Nat) {i : Nat} (h : i < 64) :
    (putField x lo n v).getLsbD i = if lo ≤ i ∧ i < lo + n then v.testBit (i - lo) else x.getLsbD i := by
  rw [putField_eq, BitVec.getLsbD_ofNat, Nat.testBit_two_pow_mul_add _ (Nat.mod_lt _ (Nat.two_pow_pos lo)),
    Nat.testBit_two_pow_mul_add _ (Nat.mod_lt _ (Nat.two_pow_pos n))]
  simp only [h, decide_true, Bool.true_and, Nat.testBit_mod_two_pow, Nat.testBit_div_two_pow]
  by_cases low : i < lo
  · simp [low, Nat.not_le.2 low, BitVec.getLsbD]
  · by_cases mid : i < lo + n
    · simp [low, mid, Nat.not_lt.1 low, show i - lo < n by omega]
    · simp [low, mid, show ¬ i - lo < n by omega, show i - lo - n + (lo + n) = i by omega, BitVec.getLsbD]

/-- STATUS as `mtc` writes it (R81). -/
def statusWritten (old v : Word) : Word :=
  let new := putField old 2 13 (fieldOf v 2 13)
  if fieldOf v 15 1 = 1 then putField new 15 1 0 else new

theorem fieldOf_bit_eq_one (v : Word) (lo : Nat) : fieldOf v lo 1 = 1 ↔ v.getLsbD lo = true := by
  have h := testBit_fieldOf v lo 1 0
  have lt : fieldOf v lo 1 < 2 := bitsAt_lt v.toNat lo 1
  simp only [Nat.testBit_zero, Nat.mod_eq_of_lt lt, Nat.add_zero, Nat.zero_lt_one, decide_true, Bool.true_and] at h
  rw [← h, decide_eq_true_iff]

theorem getLsbD_statusWritten (old v : Word) {i : Nat} (h : i < 64) : (statusWritten old v).getLsbD i =
    if 2 ≤ i ∧ i < 15 then v.getLsbD i else if i = 15 then old.getLsbD 15 && !v.getLsbD 15 else old.getLsbD i := by
  have new : (putField old 2 13 (fieldOf v 2 13)).getLsbD i = if 2 ≤ i ∧ i < 15 then v.getLsbD i else old.getLsbD i := by
    rw [getLsbD_putField _ _ _ _ h, testBit_fieldOf]
    split
    · rw [show 2 + (i - 2) = i by omega]
      simp [show i - 2 < 13 by omega]
    · rfl
  unfold statusWritten
  simp only [fieldOf_bit_eq_one]
  by_cases clears : v.getLsbD 15 = true
  · rw [if_pos clears, getLsbD_putField _ _ _ _ h, new]
    by_cases demoted : i = 15
    · simp [demoted, clears]
    · simp [demoted, show ¬ (15 ≤ i ∧ i < 16) by omega]
  · rw [if_neg clears, new]
    by_cases demoted : i = 15
    · subst demoted; simp_all
    · simp [demoted]

/-! ## What a mode may not write (R78, R79) -/

section Fault
variable {t : Thread} {n : Nat}

/-- A register may be written where its row lets the mode do so. -/
theorem cregFault_write {task : CregAccess} (row : cregRow n = some (task, .rw)) (h : n < 0xF00) (ht : t.isTask = true → task = .rw) :
    cregFault t n true = none := by
  cases device : t.isDevice with
  | true => simp [cregFault, row, device, Nat.not_le.2 h]
  | false =>
    rw [cregFault_of_row row h device]
    cases mode : t.isTask <;> simp_all

/-- Outside device mode the registers of the read-only rows are not written. -/
theorem cregFault_fixed (fixed : Claims.fixedNum n) (device : t.isDevice = false) : cregFault t n true = some .priv := by
  have row : ∃ task, cregRow n = some (task, .ro) ∧ task ≠ .rw := by
    obtain rfl | rfl | rfl | ⟨lo, hi⟩ | ⟨lo, hi⟩ | ⟨lo, hi⟩ | rfl | rfl := fixed
    case inr.inr.inr.inl | inr.inr.inr.inr.inl | inr.inr.inr.inr.inr.inl => interval_cases n <;> exact ⟨_, rfl, nofun⟩
    all_goals exact ⟨_, rfl, nofun⟩
  have bound : n < 0xF00 := by unfold Claims.fixedNum at fixed; omega
  obtain ⟨task, row, ht⟩ := row
  rw [cregFault_of_row row bound device]
  cases mode : t.isTask <;> cases task <;> simp_all

/-- Task mode may only read the nest words and HBINT. -/
theorem cregFault_supervisorWrites (h : (0x010 ≤ n ∧ n ≤ 0x013) ∨ n = 0x030) (task : t.isTask = true) : cregFault t n true = some .priv := by
  have row : cregRow n = some (.ro, .rw) := by
    obtain ⟨lo, hi⟩ | rfl := h
    · interval_cases n <;> rfl
    · rfl
  simp [cregFault_of_row row (by omega) (Thread.not_device_of_task task), task]

end Fault

/-! ## The instruction -/

/-- The word that a trapping `mtc` names is its encoding. -/
theorem mtcWord_eq_encode (a : Reg) (c : CregNum) : mtcWord a c.toNat = encode (.mtc a c) := by
  show _ = pack _
  have := c.isLt
  simp only [pack, mtcWord]
  omega

theorem mtcWord_status (a : Reg) : mtcWord a 0x000 = encode (.mtcStatus a) := by
  show _ = pack _
  simp only [pack, mtcWord]
  omega

section Write
variable {s : State} {a : Reg} {c : CregNum}

theorem exec_mtc_traps {code : TrapCode} (ht : s.traps) (h : cregFault s.t c.toNat true = some code) :
    exec (.mtc a c) s = .next (s.trapped (trapNumber code) s.t.pc 0 (BitVec.ofNat 64 (encode (.mtc a c))) s.t.patched) := by
  rw [exec_mtc, ← mtcWord_eq_encode]
  exact cregIssue_fault ht h

/-- An `mtc` that its mode may make, from a register that can be read, has its own effect. -/
theorem mtc_passes {n : Nat} {k : State → Word → Result} (hs : s.readable [a]) (h : cregFault s.t n true = none) :
    mtc n a s k = k s (s.val a) := by
  simp only [mtc, cregIssue, h]
  exact s.issue_scalar [] [(a, false)] _ (by intro r hr; cases hr) hs

/-- `mtc` of a register of the thread, by its row of R79. -/
theorem exec_mtc_row {task : CregAccess} (hs : s.readable [a]) (row : cregRow c.toNat = some (task, .rw))
    (ht : s.t.isTask = true → task = .rw) (h : c.toNat < 0xF00 ∧ isPartReg c.toNat = false) :
    exec (.mtc a c) s = .next (((s.cregWrite c.toNat (s.val a)).joinClabel (s.lbl a)).retire 4) := by
  rw [exec_mtc, execMtc, mtc_passes hs (cregFault_write row h.1 ht)]
  simp [h.2]

/-- A write to the trap registers. -/
theorem exec_mtc_trap {task : CregAccess} {r : TrapRegs} (hs : s.readable [a]) (sup : s.t.isTask = false)
    (row : cregRow c.toNat = some (task, .rw)) (h : c.toNat < 0xF00 ∧ isPartReg c.toNat = false)
    (hw : s.cregWrite c.toNat (s.val a) = s.setTrap r) :
    exec (.mtc a c) s = .next (s.went { s.t.joinClabel (s.lbl a) with trap := r } (s.t.pc + 4)) := by
  rw [exec_mtc_row hs row (by simp [sup]) h, hw]; rfl

/-- A write to the control registers of the thread. -/
theorem exec_mtc_ctl {task : CregAccess} {r : Ctl} (hs : s.readable [a]) (sup : s.t.isTask = false)
    (row : cregRow c.toNat = some (task, .rw)) (h : c.toNat < 0xF00 ∧ isPartReg c.toNat = false)
    (hw : s.cregWrite c.toNat (s.val a) = s.setCtl r) :
    exec (.mtc a c) s = .next (s.went ({ s.t with ctl := r }.joinClabel (s.lbl a)) (s.t.pc + 4)) := by
  rw [exec_mtc_row hs row (by simp [sup]) h, hw]; rfl

/-- An `mtc` that its mode may not make traps (R78, R79). -/
theorem exec_mtc_refused (a : Reg) (c : CregNum) (ht : s.traps) :
    let traps (code : Nat) : Prop := exec (.mtc a c) s = .next (s.trapped code s.t.pc 0 (BitVec.ofNat 64 (encode (.mtc a c))) s.t.patched)
    (s.t.isTask = true → Claims.hiddenNum c.toNat ∨ (0x010 ≤ c.toNat ∧ c.toNat ≤ 0x013) ∨ c.toNat = 0x030 → traps 0x02) ∧
    (s.t.isDevice = false → Claims.fixedNum c.toNat → traps 0x02) ∧
    (0xF00 ≤ c.toNat → traps (if s.t.isDevice = true then 0x01 else 0x02)) ∧
    (c.toNat < 0xF00 → ¬ Claims.listedNum c.toNat → traps 0x01) := by
  refine ⟨fun task h => exec_mtc_traps (code := .priv) ht ?_, fun device fixed => exec_mtc_traps (code := .priv) ht (cregFault_fixed fixed device), fun h => ?_,
    fun h unlisted => exec_mtc_traps (code := .illegal) ht (cregFault_unlisted h unlisted)⟩
  · obtain hidden | h := h
    · exact cregFault_hidden hidden task
    · exact cregFault_supervisorWrites h task
  · have trap := exec_mtc_traps (a := a) (c := c) ht (cregFault_deviceRange h)
    cases device : s.t.isDevice <;> simpa [device, trapNumber] using trap

end Write

/-- The registers of the thread, and the accesses that trap. -/
theorem controlRegisterWrites : Claims.ControlRegisterWrites := by
  intro s a hs t v joined low trap ctl
  refine And.intro (fun sup => ?_) (fun ht c => exec_mtc_refused a c ht)
  have traps {c : CregNum} {task : CregAccess} {r : TrapRegs} (row : cregRow c.toNat = some (task, .rw))
      (hw : s.cregWrite c.toNat v = s.setTrap r) (h : c.toNat < 0xF00 ∧ isPartReg c.toNat = false) : trap c r :=
    exec_mtc_trap hs sup row h hw
  have ctls {c : CregNum} {task : CregAccess} {r : Ctl} (row : cregRow c.toNat = some (task, .rw))
      (hw : s.cregWrite c.toNat v = s.setCtl r) (h : c.toNat < 0xF00 ∧ isPartReg c.toNat = false) : ctl c r :=
    exec_mtc_ctl hs sup row h hw
  have bits {lo hi : Nat} (h : lo ≤ hi) : low lo hi = keepBits v lo hi := (keepBits_eq v h).symm
  have field {n : Nat} : v.toNat % 2 ^ n = fieldOf v 0 n := by simp [fieldOf, bitsAt]
  have nest (k : Nat) := nestWrite_eq (t.ctl.nest.getD k 0) v
  refine ⟨traps rfl ?pc (by decide), traps rfl ?code (by decide), traps rfl rfl (by decide), traps rfl rfl (by decide),
    traps rfl ?vec (by decide), traps rfl ?saveptr (by decide), ctls rfl ?timer (by decide), ctls rfl ?wmsel (by decide),
    ctls rfl ?hbint (by decide), ctls rfl ?nest0 (by decide), ctls rfl ?nest1 (by decide), ctls rfl ?nest2 (by decide),
    ctls rfl ?nest3 (by decide)⟩
  case pc | code | vec | saveptr | wmsel => rw [bits (by decide)]; rfl
  case timer | hbint => rw [field]; rfl
  case nest0 => rw [← (nest 0).1]; rfl
  case nest1 => rw [← (nest 1).2.1]; rfl
  case nest2 => rw [← (nest 2).2.2.1]; rfl
  case nest3 => rw [← (nest 3).2.2.2]; rfl

/-- STATUS, LIVE and SEED, which every mode may write. -/
theorem statusLiveSeedWrites : Claims.StatusLiveSeedWrites := by
  intro s a hs
  have passes {n : Nat} {k : State → Word → Result} (row : cregRow n = some (.rw, .rw)) (h : n < 0xF00) : mtc n a s k = k s (s.val a) :=
    mtc_passes hs (cregFault_write row h fun _ => rfl)
  have mode : fieldOf (s.val a) 2 3 = (s.val a).toNat / 4 % 8 := rfl
  refine ⟨fun ok => ⟨statusWritten s.t.ctl.status (s.val a), ?_, fun i hi => getLsbD_statusWritten _ _ hi⟩, fun reserved ht => ?_, ?_, ?_⟩
  · rw [exec_mtcStatus, execMtcStatus, passes rfl (by decide), if_neg (by omega)]; rfl
  · rw [exec_mtcStatus, execMtcStatus, passes rfl (by decide), if_pos (by omega), s.fail_traps _ _ _ _ _ ht, mtcWord_status]
    simp [labelsOf, trapNumber, State.lbl]
  · rw [exec_mtcLive, execMtcLive, passes rfl (by decide)]; rfl
  · rw [exec_mtcSeed, execMtcSeed, passes rfl (by decide)]; rfl

end Sys2Proof.Machine

namespace Sys2Proof
open Machine

/-- Settles O10: a write passes or traps by its row of R79, and the RW fields of each register are those that `cregWrite` keeps. -/
theorem controlRegisterWrites : Obligations.ControlRegisterWrites := ⟨Machine.controlRegisterWrites, statusLiveSeedWrites⟩

end Sys2Proof

/-! # A turn runs the instruction that its halfwords decode to (O55) -/

namespace Sys2Proof.Machine
open Sys2Proof

/-! ## Steps that are due (R42, assumption 3) -/

/-- A step that is no submission is taken first when it stands first (R42). -/
theorem firstDue_of_unranked {i : Instr} (h : arrivalRank i = none) (rest : List Instr) : firstDue i rest = (i, rest) := by
  have stays : ∀ l : List Instr, l.foldl (fun b x => if (match arrivalRank x, arrivalRank b with
      | some a, some b => decide (a < b)
      | _, _ => false) = true then x else b) i = i := by
    intro l
    induction l with
    | nil => rfl
    | cons x xs ih => simpa [h] using ih
  unfold firstDue
  exact if_pos (stays rest)

theorem step_due {s : State} {i : Instr} {later : List Instr} (on : s.dev.halted = false) (due : s.time.agenda = i :: later)
    (h : arrivalRank i = none) : step s = exec i { s with time := { s.time with agenda := later } } := by
  simp [step, State.stepOnce, on, due, State.dueStep, firstDue_of_unranked h, State.laterToday, h]

/-- With nothing due, the step is the turn of the thread whose turn is next (R102). -/
theorem step_turn {s : State} {uid : Nat} {rest : List Nat} (on : s.dev.halted = false) (none : s.time.agenda = [])
    (listed : s.time.closed = true) (next : s.time.todo = uid :: rest) (here : s.t.ident.uid = uid) :
    step s = ({ s with time := { s.time with todo := rest } } : State).takeTurn := by
  simp [step, State.stepOnce, on, none, State.listTurns, listed, State.turnStep, next, State.focus, here]

/-! ## The turn of a ready thread (R101 to R105) -/

section Turn
variable {s : State}

theorem threadTurn_ready (ready : s.t.run = .ready) (goes : s.mustEnd = false) (stays : s.foldsHere = false)
    (beats : s.t.ctl.hbcnt < s.t.ctl.hbint) : s.threadTurn = s.readyTurn := by
  simp [State.threadTurn, ready, goes, stays, Nat.not_le.2 beats]

/-- The instruction of a ready thread that has no fault or trap pending and is not throttled. -/
theorem readyTurn_runs (ready : s.t.run = .ready) (timely : s.t.late = none) (quiet : s.t.pending = []) (begins : s.t.prog.holds = false)
    (free : s.throttled s.t.ident.part s.t.localPan = false) : s.readyTurn = s.runHere := by
  have undelivered : s.t.deliverable = none := by simp [Thread.deliverable, quiet]
  simp [State.readyTurn, timely, begins, State.freshTurn, State.readyForTrap, ready, undelivered, free]

/-- The instruction that held the thread, and what follows it (R105). -/
theorem readyTurn_completes (timely : s.t.late = none) (held : s.t.prog.holds = true) : s.readyTurn = s.runHere.thenReady := by
  simp [State.readyTurn, timely, held]

/-- The state in which the instruction at the PC executes: its line is the latest used, and the label of its overlay is noted (R26, R85). -/
def State.fetched (s : State) (h0 h1 : Nat) : State :=
  { s.touchCode s.t.core s.t.ident.part s.t.pc.toNat (if h0 % 2 = 0 then 2 else 4) with
    t := { s.t with patched := (s.overlaid h0 h1).2 } }

variable {h0 h1 : Nat} (here : s.fetchInstr = .here h0 h1)
include here

theorem runHere_ok {i : Instr} (h : decodeHalves (s.overlaid h0 h1).1 ((s.overlaid h0 h1).1 / 65536) = .ok i) :
    s.runHere = exec i (s.fetched h0 h1) := by
  rw [State.runHere]
  simp only [here]
  rw [State.runWord]
  simp only [show (s.touchCode _ _ _ _).overlaid h0 h1 = s.overlaid h0 h1 from rfl, h]
  rfl

theorem runHere_error {e : Reject} (h : decodeHalves (s.overlaid h0 h1).1 ((s.overlaid h0 h1).1 / 65536) = .error e) :
    s.runHere = .next ((s.fetched h0 h1).fail .illegal 0 (BitVec.ofNat 64 (s.overlaid h0 h1).1) [] 0) := by
  rw [State.runHere]
  simp only [here]
  rw [State.runWord]
  simp only [show (s.touchCode _ _ _ _).overlaid h0 h1 = s.overlaid h0 h1 from rfl, h]
  rfl

end Turn
end Sys2Proof.Machine

namespace Sys2Proof
open Machine

/-- Settles O55: a due step by the order of submissions, and a turn by the checks that lead to the instruction at the PC. -/
theorem stepRunsDecoded : Obligations.StepRunsDecoded := by
  intro s uid rest on
  refine ⟨fun i later due h => step_due on due h, ?_⟩
  intro none listed next focus s1 s0 ready timely quiet goes stays beats free h0 h1 here
  have turn : step s = Result.account s0.readyTurn s0.t.ident.part s0.t.ident.gang s0.t.localPan := by
    rw [step_turn on none listed next focus, ← threadTurn_ready ready goes stays beats]
    rfl
  have fresh (begins : s0.t.prog.holds = false) : s0.readyTurn = s0.runHere := readyTurn_runs ready timely quiet begins free
  refine ⟨fun i decodes => ⟨fun begins => ?_, fun held => ?_⟩, fun e refused begins => ?_⟩
  · rw [turn, fresh begins, runHere_ok here decodes]; rfl
  · rw [turn, readyTurn_completes timely held, runHere_ok here decodes]; rfl
  · rw [turn, fresh begins, runHere_error here refused]; rfl

end Sys2Proof

/-! # Power, resets, attestation and configuration (O51) -/

namespace Sys2Proof.Machine
open Sys2Proof

/-! ## The device manager's threads (R82) -/

/-- The start of the device manager's thread in slot k of the management core. -/
def State.startManager (s : State) (k : Nat) : State :=
  let (uid, s) := s.fresh
  let m := Thread.management
  { s with others := s.others ++ [{ m with slot := k, ident := { m.ident with uid := uid, slot0 := k } }] }.setSlot
    ⟨8448, k, .occupied, false, 0, []⟩

theorem State.startManagers_eq (s : State) : s.startManagers = ((List.range 15).map (· + 1)).foldl State.startManager s := rfl

/-- A thread of the device manager, ready and in device mode, stands in slot k of the management core. -/
def State.Manages (s : State) (k : Nat) : Prop :=
  (∃ t ∈ s.others, t.core = 8448 ∧ t.slot = k ∧ t.run = .ready ∧ t.mode = 2) ∧ (s.slot 8448 k).state = .occupied

theorem State.startManager_manages (s : State) (k : Nat) : (s.startManager k).Manages k := by
  refine ⟨⟨_, List.mem_append_right _ (List.mem_singleton_self _), rfl, rfl, rfl, (by simp [Thread.mode, Thread.management, fieldOf, bitsAt])⟩, ?_⟩
  exact congrArg Slot.state (State.slot_setSlot_same _ (x := ⟨8448, k, .occupied, false, 0, []⟩) nofun)

theorem State.Manages.startManager {s : State} {j : Nat} (h : s.Manages j) (k : Nat) : (s.startManager k).Manages j := by
  obtain rfl | other := eq_or_ne k j
  · exact s.startManager_manages k
  · obtain ⟨⟨t, ht, stands⟩, occupied⟩ := h
    refine ⟨⟨t, List.mem_append_left _ ht, stands⟩, ?_⟩
    rw [← occupied]
    exact congrArg Slot.state (State.slot_setSlot_other _ fun ⟨_, e⟩ => other e)

theorem State.Manages.foldl {j : Nat} : ∀ (ks : List Nat) {s : State}, s.Manages j → (ks.foldl State.startManager s).Manages j
  | [], _, h => h
  | k :: ks, _, h => Manages.foldl ks (h.startManager k)

theorem State.manages_foldl {k : Nat} : ∀ (ks : List Nat) (s : State), k ∈ ks → (ks.foldl State.startManager s).Manages k
  | [], _, h => nomatch h
  | j :: ks, s, h => by
    obtain rfl | h := List.mem_cons.1 h
    · exact .foldl ks (s.startManager_manages k)
    · exact State.manages_foldl ks _ h

theorem State.foldl_startManager_length : ∀ (ks : List Nat) (s : State),
    (ks.foldl State.startManager s).others.length = s.others.length + ks.length
  | [], _ => rfl
  | k :: ks, s => by
    rw [List.foldl_cons, State.foldl_startManager_length ks, List.length_cons]
    simp only [State.startManager, State.fresh, State.setSlot_others, List.length_append, List.length_singleton]
    omega

/-- What no start of a manager changes, the start of all of them leaves. -/
theorem State.startManagers_keep {α : Type} {π : State → α} (hπ : ∀ s k, π (s.startManager k) = π s) (s : State) :
    π s.startManagers = π s := by
  rw [s.startManagers_eq]
  generalize (List.range 15).map (· + 1) = ks
  induction ks generalizing s with
  | nil => rfl
  | cons k ks ih => rw [List.foldl_cons, ih, hπ]

/-! ## Bringing the part up (R421, R425) -/

/-- A restarted part whose managers have started and whose Rake begins the scrub of the whole device. -/
def State.broughtUp (s : State) (sec : Security) (dev : Device) : State :=
  (s.restarted sec dev).startManagers.rakeAppend wholeDevice

section BringUp
variable {s : State} {sec : Security} {dev : Device} (idle : dev.rake.done = dev.rake.fin)
include idle

/-- The scrub of the whole device is a list of its own, begun at its first item (R420, R421). -/
theorem State.broughtUp_eq : s.broughtUp sec dev =
    ({ (s.restarted sec dev).startManagers with
      dev := { dev with rake := { dev.rake with list := wholeDevice, done := 0, fin := rakeLength wholeDevice } } } : State).rakeNext := by
  have kept : (s.restarted sec dev).startManagers.dev = dev := State.startManagers_keep (π := State.dev) (fun _ _ => rfl) _
  rw [State.broughtUp, State.rakeAppend, if_neg (by decide), kept, if_pos idle]

/-- What neither a manager's start nor the Rake's changes is that of the restarted part. -/
theorem State.broughtUp_keep {α : Type} {π : State → α} (hm : ∀ s k, π (s.startManager k) = π s)
    (hd : ∀ s d, π { s with dev := d } = π s) (hc : ∀ s calendar, π { s with time := { s.time with calendar := calendar } } = π s) :
    π (s.broughtUp sec dev) = π (s.restarted sec dev) := by
  rw [State.broughtUp_eq idle, State.rakeNext_keep hc, hd, State.startManagers_keep hm]

theorem State.broughtUp_dev : (s.broughtUp sec dev).dev =
    { dev with rake := { dev.rake with list := wholeDevice, done := 0, fin := rakeLength wholeDevice } } := by
  rw [State.broughtUp_eq idle, State.rakeNext_keep (π := State.dev) fun _ _ => rfl]

theorem State.broughtUp_managed :
    (s.broughtUp sec dev).others.length = 15 ∧ ∀ k, 1 ≤ k → k ≤ 15 → (s.broughtUp sec dev).Manages k := by
  rw [State.broughtUp_eq idle]
  constructor
  · rw [State.rakeNext_keep (π := fun s => s.others.length) fun _ _ => rfl]
    exact State.foldl_startManager_length _ (s.restarted sec dev)
  · intro k low high
    rw [State.rakeNext_keep (π := fun s => s.Manages k) fun _ _ => rfl]
    exact State.manages_foldl (k := k) _ (s.restarted sec dev) (List.mem_map.2 ⟨k - 1, List.mem_range.2 (by omega), by omega⟩)

end BringUp

/-! ## The reset and the power-on (R421, R422, R425) -/

section Power
variable (s : State)

theorem State.restarted_dev (sec : Security) (dev : Device) : (s.restarted sec dev).dev = dev := rfl

/-- What a device reset and a bring-up leave, whatever the security controller and the device manager keep. -/
theorem State.broughtUp_reset {sec : Security} {dev : Device} (idle : dev.rake.done = dev.rake.fin) :
    (s.broughtUp sec dev).t = State.reset.t ∧ (s.broughtUp sec dev).mem = State.reset.mem ∧
    (s.broughtUp sec dev).parts = State.reset.parts ∧ (s.broughtUp sec dev).sec = sec ∧ (s.broughtUp sec dev).out = s.out ∧
    (s.broughtUp sec dev).time.cycle = s.time.cycle :=
  ⟨State.broughtUp_keep (π := State.t) idle (fun _ _ => rfl) (fun _ _ => rfl) fun _ _ => rfl,
    State.broughtUp_keep (π := State.mem) idle (fun _ _ => rfl) (fun _ _ => rfl) fun _ _ => rfl,
    State.broughtUp_keep (π := State.parts) idle (fun _ _ => rfl) (fun _ _ => rfl) fun _ _ => rfl,
    State.broughtUp_keep (π := State.sec) idle (fun _ _ => rfl) (fun _ _ => rfl) fun _ _ => rfl,
    State.broughtUp_keep (π := State.out) idle (fun _ _ => rfl) (fun _ _ => rfl) fun _ _ => rfl,
    State.broughtUp_keep (π := fun s => s.time.cycle) idle (fun _ _ => rfl) (fun _ _ => rfl) fun _ _ => rfl⟩

/-- What the device manager and the security controller keep over a device reset (R421). -/
def State.resetDevice : Device :=
  { State.reset.dev with
    chip := s.dev.chip, plimit := s.dev.plimit, hostPort := s.dev.hostPort, owner := s.dev.owner, tripped := s.dev.tripped }

/-- The policies and the keys' requests go (R421). -/
def State.resetSec : Security := { s.sec with policies := [], requests := [], error := 0 }

/-- The part after a device reset (R421). -/
def State.deviceReset : State :=
  let up := s.broughtUp s.resetSec s.resetDevice
  { up with dev := { up.dev with rake := { up.dev.rake with restarted := true } } }

theorem exec_deviceReset_next : exec .deviceReset s = .next s.deviceReset := rfl

/-- The error with which the security controller ends a power-on, 0 where it has none (R422, R425; log 88). -/
def State.powerError (fw dm cfg : List Byte) : Nat :=
  if !vendorSigned fw then 1 else if !vendorSigned dm then 2 else if !s.configSigned cfg then 3 else 0

/-- The security controller after a power-on (R422). -/
def State.poweredSec (fw dm cfg : List Byte) : Security :=
  let error := s.powerError fw dm cfg
  let images := if error = 1 then [fw] else if error = 2 then [fw, dm] else [fw, dm, cfg]
  { State.reset.sec with
    boots := s.sec.boots + 1, bootId := wordAt (Config.bootId s.sec.boots) 0, bootAt := s.time.cycle, error := error
    mrs := (List.range 3).map fun k => match images[k]? with
      | some img => extended (List.replicate 64 0) img
      | none => List.replicate 64 0 }

/-- The device manager after a power-on (R425). -/
def State.poweredDevice (fw dm cfg : List Byte) : Device :=
  { State.reset.dev with chip := s.dev.chip, owner := s.dev.owner, tripped := s.dev.tripped, halted := s.powerError fw dm cfg ≠ 0 }

/-- The part that the images and the record bring up (R421, R425). -/
def State.poweredUp (fw dm cfg : List Byte) : State := s.broughtUp (s.poweredSec fw dm cfg) (s.poweredDevice fw dm cfg)

variable {s} {fw dm cfg : List Byte}

theorem exec_powerOn_fails (h : s.provisioned.powerError fw dm cfg ≠ 0) : exec (.powerOn fw dm cfg) s =
    .next (s.provisioned.restarted (s.provisioned.poweredSec fw dm cfg) (s.provisioned.poweredDevice fw dm cfg)) := by
  rw [exec_powerOn]
  exact if_pos h

theorem exec_powerOn_passes (h : s.provisioned.powerError fw dm cfg = 0) : exec (.powerOn fw dm cfg) s =
    .next ((s.provisioned.poweredUp fw dm cfg).schedule ((s.provisioned.poweredUp fw dm cfg).time.cycle + wholeDeviceCycles + 1)
      (.signedConfigurationRecord cfg)) := by
  rw [exec_powerOn]
  exact if_neg (not_not.2 h)

theorem State.poweredUp_dev : (s.poweredUp fw dm cfg).dev =
    { s.poweredDevice fw dm cfg with rake := ⟨wholeDevice, 0, rakeLength wholeDevice, false⟩ } := State.broughtUp_dev rfl

/-- Provisioning concerns the digest of the owner's key alone (R407). -/
theorem State.provisioned_eq (s : State) :
    s.provisioned = { s with dev := { s.dev with owner := if s.dev.owner = [] then ownerDigest else s.dev.owner } } := by
  unfold State.provisioned
  by_cases h : s.dev.owner = [] <;> simp [h]

/-- A record that was the owner's before a power-on is so after its provisioning. -/
theorem State.configSigned_provisioned (h : s.configSigned cfg = true) : s.provisioned.configSigned cfg = true := by
  have key : s.dev.owner = ownerDigest := by
    simp only [State.configSigned, Bool.and_eq_true, beq_iff_eq] at h
    exact h.1.2
  have same : s.provisioned.dev.owner = s.dev.owner := by
    rw [s.provisioned_eq]
    split <;> simp_all
  simpa only [State.configSigned, same] using h

theorem exec_powerOn_owner (s : State) (fw dm cfg : List Byte) : ∃ s', exec (.powerOn fw dm cfg) s = .next s' ∧
    s'.dev.owner = s.provisioned.dev.owner := by
  by_cases h : s.provisioned.powerError fw dm cfg = 0
  · refine ⟨_, exec_powerOn_passes h, ?_⟩
    rw [State.schedule_dev, State.poweredUp_dev, State.poweredDevice]
  · refine ⟨_, exec_powerOn_fails h, ?_⟩
    rw [State.restarted_dev, State.poweredDevice]

end Power

/-- `DEVICE_RESET` (R82, R421). -/
theorem deviceReset_leaves (s : State) : s.deviceReset.t = State.reset.t ∧
    (s.deviceReset.others.length = 15 ∧ ∀ k, 1 ≤ k → k ≤ 15 → s.deviceReset.Manages k) ∧ s.deviceReset.mem = State.reset.mem ∧
    s.deviceReset.parts = State.reset.parts ∧ s.deviceReset.sec.policies = [] ∧ s.deviceReset.dev.rake.list = wholeDevice ∧
    s.deviceReset.dev.rake.done = 0 ∧ s.deviceReset.dev.rake.restarted = true ∧ s.deviceReset.out = s.out ∧
    s.deviceReset.dev.chip = s.dev.chip ∧ s.deviceReset.dev.owner = s.dev.owner := by
  obtain ⟨t, mem, parts, sec, out, -⟩ := s.broughtUp_reset (sec := s.resetSec) (dev := s.resetDevice) rfl
  have managed := State.broughtUp_managed (s := s) (sec := s.resetSec) (dev := s.resetDevice) rfl
  have dev := State.broughtUp_dev (s := s) (sec := s.resetSec) (dev := s.resetDevice) rfl
  simp only [State.deviceReset, t, mem, parts, sec, out, dev]
  exact ⟨trivial, managed, trivial, trivial, rfl, trivial, trivial, trivial, trivial, rfl, rfl⟩

/-- `POWER_ON` of images and a record that are good (R422, R425). -/
theorem exec_powerOn_good {s : State} {fw dm cfg : List Byte} (hfw : vendorSigned fw = true) (hdm : vendorSigned dm = true)
    (hcfg : s.configSigned cfg = true) :
    ∃ s', exec (.powerOn fw dm cfg) s = .next s' ∧ s'.dev.halted = false ∧ s'.sec.error = 0 ∧ s'.t = State.reset.t ∧
      s'.mem = State.reset.mem ∧ s'.sec.boots = s.sec.boots + 1 ∧
      s'.sec.mrs = [extended (List.replicate 64 0) fw, extended (List.replicate 64 0) dm, extended (List.replicate 64 0) cfg] ∧
      s'.dev.rake.list = wholeDevice ∧
      (s.time.cycle + wholeDeviceCycles + 1, Instr.signedConfigurationRecord cfg) ∈ s'.time.calendar := by
  have error : s.provisioned.powerError fw dm cfg = 0 := by
    simp [State.powerError, hfw, hdm, State.configSigned_provisioned hcfg]
  obtain ⟨t, mem, -, sec, -, cycle⟩ := s.provisioned.broughtUp_reset (sec := s.provisioned.poweredSec fw dm cfg)
    (dev := s.provisioned.poweredDevice fw dm cfg) rfl
  have boots : s.provisioned.sec.boots = s.sec.boots := by rw [s.provisioned_eq]
  have since : s.provisioned.time.cycle = s.time.cycle := by rw [s.provisioned_eq]
  refine ⟨_, exec_powerOn_passes error, ?_, ?_, t, mem, ?_, ?_, ?_, ?_⟩
  · simp [State.poweredUp_dev, State.poweredDevice, error]
  · rw [State.schedule_sec, State.poweredUp, sec]
    exact error
  · rw [State.schedule_sec, State.poweredUp, sec, ← boots]
    rfl
  · rw [State.schedule_sec, State.poweredUp, sec]
    simp [State.poweredSec, error, List.range_succ]
  · rw [State.schedule_dev, State.poweredUp_dev]
  · rw [State.poweredUp, cycle, since]
    exact List.mem_append_right _ (List.mem_singleton_self _)

/-- What `DEVICE_RESET` and `POWER_ON` leave, and which reports and records the part accepts (R407, R421 to R425). -/
theorem powerEvents : Claims.PowerEvents := by
  intro s
  refine ⟨⟨s.deviceReset, rfl, ?_⟩, fun fw dm cfg => ?_, fun fw dm cfg bad => ?_, fun fw dm cfg hfw hdm hcfg => exec_powerOn_good hfw hdm hcfg, fun nonce => rfl,
    fun rec_ h => ?_, fun rec_ h bad => ?_, fun rec_ s1 h applied => ?_⟩
  · obtain ⟨t, managed, left⟩ := deviceReset_leaves s
    refine ⟨t, ⟨managed.1, fun k low high => ?_⟩, left⟩
    obtain ⟨⟨m, hm, core, slot, run, mode⟩, occupied⟩ := managed.2 k low high
    exact ⟨m, hm, core, slot, run, mode, occupied⟩
  · obtain ⟨s', next, owner⟩ := exec_powerOn_owner s fw dm cfg
    refine ⟨s', next, fun empty => ?_, fun written => ?_⟩
    · simp [owner, s.provisioned_eq, empty, ownerDigest]
    · simp [owner, s.provisioned_eq, written]
  · have error : s.provisioned.powerError fw dm cfg = 1 := by simp [State.powerError, bad]
    exact ⟨_, exec_powerOn_fails (by simp [error]), by simp [State.restarted, State.poweredDevice, error], error, rfl, rfl⟩
  · rw [exec_signedConfigurationRecord, execSignedConfigurationRecord, h]; rfl
  · have refused : s.applyConfig (rec_.take configBytes) = none := by simp [State.applyConfig, bad]
    rw [exec_signedConfigurationRecord, execSignedConfigurationRecord, h, refused]; rfl
  · refine ⟨{ s1 with dev := { s1.dev with pwrgd := true } }, ?_, rfl, rfl, rfl, rfl⟩
    rw [exec_signedConfigurationRecord, execSignedConfigurationRecord, h, applied]; rfl

/-! ## A record that configures nothing (R407) -/

/-- Where there is no partition, no regulator is told of a change (R411). -/
theorem State.regulated_of_no_parts {s : State} (h : s.parts = []) (old : State) : s.regulated old = s := by
  simp [State.regulated, h]

/-- No ownership breaks no limit (R56, R410). -/
theorem setOk_nil : setOk [] = true ∧ regminsOk [] = true := by decide

/-- The part after a record that configures no partition: the limits, the port and the functions are the record's. -/
theorem applyConfig_of_no_parts {s : State} {body : List Byte} (empty : s.parts = []) (scrubbed : s.dev.rake.fin ≤ s.dev.rake.done)
    (ok : configOk body = true) (nothing : configured body = []) : s.applyConfig body =
      some { s with dev := { s.dev with plimit := fieldAt body 8 2, hostPort := fieldAt body 0xA 1 }, vfs := s.vfsFrom body } := by
  simp only [State.applyConfig, empty, nothing, ok, List.filter_nil, List.map_nil, List.append_nil, List.any_nil, List.foldl_nil,
    setOk_nil.1, setOk_nil.2, sortBy, State.setCaps]
  rw [if_neg (by simp [scrubbed]), State.regulated_of_no_parts rfl]
  simp [State.vfsFrom]

/-- A record of no partition leaves all but the device manager's limits and the functions. -/
theorem emptyConfiguration : Claims.EmptyConfiguration := by
  intro s body empty scrubbed ok nothing
  refine ⟨_, applyConfig_of_no_parts empty scrubbed ok nothing, rfl, rfl, empty, rfl, List.length_map _, fun k v hv => ?_⟩
  exact (List.getElem?_map ..).trans (congrArg _ hv)

end Sys2Proof.Machine

namespace Sys2Proof
open Machine

/-- Settles O51: the resets by what the restarted part keeps, and the record of no partition by the one state that it gives. -/
theorem powerAndConfiguration : Obligations.PowerAndConfiguration := ⟨powerEvents, emptyConfiguration⟩

end Sys2Proof

/-! # Scalar results (O1) -/

namespace Sys2Proof.Machine
open Sys2Proof

/-! ## The values of the integer operations, by arithmetic on numbers and integers (R109, R112 to R115) -/

theorem word_sub_eq (x y : Word) : x - y = BitVec.ofInt 64 (x.toInt - y.toInt) := by
  rw [BitVec.sub_eq_add_neg, Int.sub_eq_add_neg, BitVec.ofInt_add, BitVec.ofInt_neg, BitVec.ofInt_toInt, BitVec.ofInt_toInt]

theorem word_add_eq (x y : Word) : x + y = BitVec.ofNat 64 (x.toNat + y.toNat) := by simp [BitVec.ofNat_add]

theorem word_add_signExtend {n : Nat} (x : Word) (i : BitVec n) :
    x + i.signExtend 64 = BitVec.ofInt 64 (x.toInt + i.toInt) := by
  rw [BitVec.ofInt_add, BitVec.ofInt_toInt, BitVec.signExtend]

theorem shiftLeft_eq_ofNat (x : Word) (k : Nat) : x <<< k = BitVec.ofNat 64 (x.toNat * 2 ^ k) :=
  BitVec.eq_of_toNat_eq (by simp [Nat.shiftLeft_eq])

theorem ushiftRight_eq_ofNat (x : Word) (k : Nat) : x >>> k = BitVec.ofNat 64 (x.toNat / 2 ^ k) :=
  BitVec.eq_of_toNat_eq (by
    simp [Nat.shiftRight_eq_div_pow, Nat.mod_eq_of_lt (Nat.lt_of_le_of_lt (Nat.div_le_self _ _) x.isLt)])

theorem sshiftRight_eq_ofInt (x : Word) (k : Nat) : x.sshiftRight k = BitVec.ofInt 64 (x.toInt / 2 ^ k) := by
  rw [← BitVec.ofInt_toInt (x := x.sshiftRight k), BitVec.toInt_sshiftRight, Int.shiftRight_eq_div_pow]
  norm_cast

theorem rotr_eq (x : Word) {k : Nat} (h : k < 64) : rotr x k = x >>> k ||| x <<< (64 - k) := by
  rw [rotr, BitVec.rotateRight_def, Nat.mod_eq_of_lt h]

theorem ite_lt_eq_ite_le {α β : Type} [LinearOrder β] {f : α → β} (hf : Function.Injective f) (a b : α) :
    (if f a < f b then a else b) = if f a ≤ f b then a else b := by
  obtain h | h | h := lt_trichotomy (f a) (f b)
  · simp [h, h.le]
  · simp [hf h]
  · simp [h.not_gt, h.not_ge]

theorem ite_gt_eq_ite_le {α β : Type} [LinearOrder β] (f : α → β) (a b : α) :
    (if f b < f a then a else b) = if f a ≤ f b then b else a := by simp only [← not_lt, ite_not]

theorem aluMin_eq (x y : Word) : aluMin x y = if x.toInt ≤ y.toInt then x else y := by
  simp only [aluMin, BitVec.slt_iff_toInt_lt, ite_lt_eq_ite_le (f := BitVec.toInt) fun _ _ => BitVec.eq_of_toInt_eq]

theorem aluMax_eq (x y : Word) : aluMax x y = if x.toInt ≤ y.toInt then y else x := by
  simp only [aluMax, BitVec.slt_iff_toInt_lt, ite_gt_eq_ite_le BitVec.toInt]

theorem aluMinu_eq (x y : Word) : aluMinu x y = if x.toNat ≤ y.toNat then x else y := by
  simp only [aluMinu, BitVec.ult_iff_lt, BitVec.lt_def, ite_lt_eq_ite_le (f := BitVec.toNat) fun _ _ => BitVec.eq_of_toNat_eq]

theorem aluMaxu_eq (x y : Word) : aluMaxu x y = if x.toNat ≤ y.toNat then y else x := by
  simp only [aluMaxu, BitVec.ult_iff_lt, BitVec.lt_def, ite_gt_eq_ite_le BitVec.toNat]

theorem aluSlt_eq (x y : Word) : aluSlt x y = if x.toInt < y.toInt then 1 else 0 := by
  simp only [aluSlt, boolWord, BitVec.slt_iff_toInt_lt]

theorem aluSltu_eq (x y : Word) : aluSltu x y = if x.toNat < y.toNat then 1 else 0 := by
  simp only [aluSltu, boolWord, BitVec.ult_iff_lt, BitVec.lt_def]

theorem aluSeq_eq (x y : Word) : aluSeq x y = if x = y then 1 else 0 := by
  simp only [aluSeq, boolWord, beq_iff_eq]

/-- Reading the low bits of a number as two's complement is the balanced remainder (R109). -/
theorem signedNat_eq_bmod {w : Nat} (h : 0 < w) (v : Nat) : signedNat w v = Int.bmod v (2 ^ w) := by
  obtain ⟨n, rfl⟩ := Nat.exists_eq_add_one.2 h
  have half : ((2 ^ (n + 1) : Nat) + 1 : Int) / 2 = (2 ^ n : Nat) := by rw [Nat.pow_succ]; omega
  rw [signedNat, Int.bmod, half, Nat.add_sub_cancel]
  norm_cast

theorem signExtendW_eq {w : Nat} (h : 0 < w) (x : Word) : signExtendW w x = (x.setWidth w).signExtend 64 := by
  rw [signExtendW, signedNat_eq_bmod h, BitVec.signExtend, BitVec.toInt_setWidth]

theorem zeroExtendW_eq (w : Nat) (x : Word) : zeroExtendW w x = (x.setWidth w).setWidth 64 :=
  BitVec.eq_of_toNat_eq (by simp [zeroExtendW])

/-- The immediate of the U format (R115). -/
theorem signExtend_shiftLeft (u : BitVec 20) : (u.signExtend 64 : Word) <<< 14 = BitVec.ofInt 64 (u.toInt * 2 ^ 14) := by
  rw [BitVec.ofInt_mul, BitVec.shiftLeft_eq_mul_twoPow, BitVec.signExtend]; rfl

/-! ## The shapes of the instructions, with the value they write (R112 to R115) -/

section Shapes
variable {s : State} {d a b : Reg} {ta tb : Bool} {v : Word}

theorem aluR_writes {f : Word → Word → Word} (hd : s.writable [d]) (hs : s.readable [a, b]) (h : f (s.val a) (s.val b) = v) :
    aluR f d a b ta tb s = .next (s.wrote d v [a, b] 4) := h ▸ aluR_next f d a b ta tb s hd hs

theorem alu1_writes {f : Word → Word} (hd : s.writable [d]) (hs : s.readable [a]) (h : f (s.val a) = v) :
    alu1 f d a ta s = .next (s.wrote d v [a] 4) := h ▸ alu1_next f d a ta s hd hs

theorem aluRd_writes {f : Word → Word → Word → Word} (hs : s.readable [a, b, d]) (h : f (s.val d) (s.val a) (s.val b) = v) :
    aluRd f d a b ta tb s = .next (s.wrote d v [d, a, b] 4) := h ▸ aluRd_next f d a b ta tb s hs

theorem aluI_writes {f : Word → Word → Word} {imm : BitVec 14} (hd : s.writable [d]) (hs : s.readable [a])
    (h : f (s.val a) (imm.signExtend 64) = v) : aluI f d a imm ta s = .next (s.wrote d v [a] 4) := alu1_writes hd hs h

theorem aluU_writes {f : Word → Word → Word} {u : BitVec 20} (hd : s.writable [d])
    (h : f s.t.pc (BitVec.ofInt 64 (u.toInt * 2 ^ 14)) = v) : aluU f d u s = .next (s.wrote d v [] 4) :=
  h ▸ signExtend_shiftLeft u ▸ aluU_next f d u s hd

end Shapes

/-- The register forms write the values of R112. -/
theorem aluRegisterResults : Claims.AluRegisterResults := by
  intro s d a b ta tb hd hs x y k out
  have hk : k < 64 := Nat.mod_lt _ (by decide)
  exact ⟨aluR_writes hd hs (word_add_eq x y), aluR_writes hd hs (word_sub_eq x y), aluR_writes hd hs rfl, aluR_writes hd hs rfl,
    aluR_writes hd hs rfl, aluR_writes hd hs (shiftLeft_eq_ofNat x k), aluR_writes hd hs (ushiftRight_eq_ofNat x k),
    aluR_writes hd hs (sshiftRight_eq_ofInt x k), aluR_writes hd hs (rotr_eq x hk), aluR_writes hd hs (aluMin_eq x y),
    aluR_writes hd hs (aluMax_eq x y), aluR_writes hd hs (aluMinu_eq x y), aluR_writes hd hs (aluMaxu_eq x y),
    aluR_writes hd hs (aluSlt_eq x y), aluR_writes hd hs (aluSltu_eq x y), aluR_writes hd hs (aluSeq_eq x y)⟩

/-- `sel` and the extensions write the values of R112. -/
theorem selectAndExtend : Claims.SelectAndExtend := by
  intro s d a b ta tb hs x out
  have hd : s.writable [d] := fun r hr => (hs r (by simp_all)).1
  have ha : s.readable [a] := fun r hr => hs r (by simp_all)
  exact ⟨(exec_sel ..).trans (aluRd_writes hs (ite_not ..)), alu1_writes hd ha (signExtendW_eq (by decide) x), alu1_writes hd ha (signExtendW_eq (by decide) x),
    alu1_writes hd ha (signExtendW_eq (by decide) x), alu1_writes hd ha (zeroExtendW_eq 8 x), alu1_writes hd ha (zeroExtendW_eq 16 x),
    alu1_writes hd ha (zeroExtendW_eq 32 x)⟩

/-- The immediate forms, the shifts by an immediate, `lui` and `addpc` write the values of R113 to R115. -/
theorem immediateResults : Claims.ImmediateResults := by
  intro s d a imm n u ta hd ha x i out
  have hi : i.toInt = imm.toInt := BitVec.toInt_signExtend_of_le (by decide)
  exact ⟨aluI_writes hd ha (word_add_signExtend x imm), aluI_writes hd ha rfl, aluI_writes hd ha rfl, aluI_writes hd ha rfl,
    aluI_writes hd ha (hi ▸ aluSlt_eq x i), aluI_writes hd ha (aluSltu_eq x i), (exec_slli ..).trans (alu1_writes hd ha (shiftLeft_eq_ofNat x _)),
    (exec_srli ..).trans (alu1_writes hd ha (ushiftRight_eq_ofNat x _)), (exec_srai ..).trans (alu1_writes hd ha (sshiftRight_eq_ofInt x _)),
    (exec_roti ..).trans (alu1_writes hd ha (rotr_eq x n.isLt)), (exec_lui ..).trans (aluU_writes hd rfl),
    (exec_addpc ..).trans (aluU_writes hd (by rw [BitVec.ofInt_add, BitVec.ofInt_toInt]))⟩

end Sys2Proof.Machine

namespace Sys2Proof

/-- Settles O1: each form is one of the shapes of R112 to R115, and the value it writes is the rule's. -/
theorem scalarResults : Obligations.ScalarResults :=
  ⟨Machine.aluRegisterResults, Machine.selectAndExtend, Machine.immediateResults⟩

end Sys2Proof

/-! # Multiplication and division (O2) -/

namespace Sys2Proof
open Laws.Encoding

/-! ## Words of the R format (R90, R93) -/

/-- An encoded instruction of 32 bits has an odd word, which decodes to it (R89). -/
theorem encode_word {i : Instr} (he : i.encoded = true) (hw : i.wellFormed = true) (hb : i.bits = 32) :
    encode i < 2 ^ 32 ∧ encode i % 2 = 1 ∧ decodeWord (encode i) = .ok i := by
  obtain ⟨half, _⟩ | ⟨_, word⟩ := statement_all i he hw
  · rw [hb] at half; cases half
  · exact word

theorem decodeWord_of_encode {i : Instr} {w : Nat} (he : i.encoded = true) (hw : i.wellFormed = true) (hb : i.bits = 32)
    (h : encode i = w) : decodeWord w = .ok i := h ▸ (encode_word he hw hb).2.2

/-- The fields of the R format, packed, with what stands above them. -/
theorem pack_rFormat {m : Nat} (hm : m < 64) (d a b : Reg) (ta tb : Bool) (fs : List (Nat × Nat)) :
    pack ((1, 1) :: (6, m) :: (5, d.val) :: (5, a.val) :: (5, b.val) :: (1, ta.toNat) :: (1, tb.toNat) :: fs) =
      1 + m * 2 ^ 1 + d.val * 2 ^ 7 + a.val * 2 ^ 12 + b.val * 2 ^ 17 + ta.toNat * 2 ^ 22 + tb.toNat * 2 ^ 23 + pack fs * 2 ^ 24 := by
  simp only [pack, Nat.reducePow, lt_of_fin d 32 (by decide), lt_of_fin a 32 (by decide), lt_of_fin b 32 (by decide), bool_mod,
    Nat.mod_eq_of_lt hm]
  omega

theorem decodeMulDiv_reserved {w : Nat} (h : 7 ≤ bitsAt w 24 8) : decodeMulDiv w = .error .reservedFunction := by
  unfold decodeMulDiv
  split
  case h_8 => rfl
  all_goals omega

/-- The word of the multiply and divide group with a function (R116). -/
theorem pack_mulDiv (d a b : Reg) (ta tb : Bool) {fn : Nat} (h : fn < 256) :
    pack [(1, 1), (6, 10), (5, d.val), (5, a.val), (5, b.val), (1, ta.toNat), (1, tb.toNat), (8, fn)] =
      1 + 0x0A * 2 ^ 1 + d.val * 2 ^ 7 + a.val * 2 ^ 12 + b.val * 2 ^ 17 + ta.toNat * 2 ^ 22 + tb.toNat * 2 ^ 23 + fn * 2 ^ 24 := by
  rw [pack_rFormat (by decide)]
  simp [pack, Nat.mod_eq_of_lt h]

end Sys2Proof

namespace Sys2Proof.Machine
open Sys2Proof Laws.Encoding

/-! ## Products and quotients (R116) -/

theorem word_mul_eq (x y : Word) : x * y = BitVec.ofInt 64 (x.toInt * y.toInt) := by
  rw [BitVec.ofInt_mul, BitVec.ofInt_toInt, BitVec.ofInt_toInt]

theorem word_mul_eq_ofNat (x y : Word) : x * y = BitVec.ofNat 64 (x.toNat * y.toNat) := by simp [BitVec.ofNat_mul]

theorem aluMulhu_eq (x y : Word) : aluMulhu x y = BitVec.ofInt 64 (x.toNat * y.toNat / 2 ^ 64) := by
  rw [aluMulhu, ← BitVec.ofInt_natCast]; norm_cast

theorem aluDivu_eq (x y : Word) : aluDivu x y = if y = 0 then 0xFFFFFFFFFFFFFFFF else BitVec.ofInt 64 (x.toNat / y.toNat) := by
  rw [aluDivu, ← BitVec.ofInt_natCast]; norm_cast

theorem aluRem_eq (x y : Word) : aluRem x y = if y = 0 then x else BitVec.ofInt 64 (x.toInt - y.toInt * x.toInt.tdiv y.toInt) := by
  rw [aluRem, wordOfInt, Int.tmod_def]

theorem aluRemu_eq (x y : Word) :
    aluRemu x y = if y = 0 then x else BitVec.ofInt 64 (x.toNat - y.toNat * (x.toNat / y.toNat)) := by
  rw [aluRemu, ← BitVec.ofInt_natCast, Int.natCast_mod, Int.emod_def]

/-- −2^63 divided by −1, and its remainder. -/
theorem least_div_neg_one {x y : Word} (hx : x = 0x8000000000000000) (hy : y = 0xFFFFFFFFFFFFFFFF) :
    BitVec.ofInt 64 (x.toInt.tdiv y.toInt) = 0x8000000000000000 ∧
    BitVec.ofInt 64 (x.toInt - y.toInt * x.toInt.tdiv y.toInt) = 0 := by subst hx hy; decide

/-- An instruction of the group has the word with its function, and writes the value of its operation. -/
theorem mulDiv_writes {s : State} {d a b : Reg} {ta tb : Bool} {fn : Nat} {i : Instr} {f : Word → Word → Word} {v : Word}
    (hfn : fn < 256) (hw : i.wellFormed = true) (hi : i.encoded = true) (hb : i.bits = 32)
    (he : encode i = pack [(1, 1), (6, 10), (5, d.val), (5, a.val), (5, b.val), (1, ta.toNat), (1, tb.toNat), (8, fn)])
    (hx : exec i s = aluR f d a b ta tb s) (hv : f (s.val a) (s.val b) = v) :
    decodeWord (1 + 0x0A * 2 ^ 1 + d.val * 2 ^ 7 + a.val * 2 ^ 12 + b.val * 2 ^ 17 + ta.toNat * 2 ^ 22 + tb.toNat * 2 ^ 23 +
        fn * 2 ^ 24) = .ok i ∧
      (s.writable [d] → s.readable [a, b] → exec i s = .next (s.wrote d v [a, b] 4)) :=
  ⟨decodeWord_of_encode hi hw hb (he.trans (pack_mulDiv d a b ta tb hfn)), fun hd hs => hx.trans (aluR_writes hd hs hv)⟩

/-- The group's words, values and borderline cases. -/
theorem multiplyDivideResults : Claims.MultiplyDivideResults := by
  intro s d a b ta tb word x y low is
  refine ⟨mulDiv_writes (by decide) rfl rfl rfl rfl (exec_mul ..) (word_mul_eq x y), (word_mul_eq_ofNat x y).symm.trans (word_mul_eq x y),
    mulDiv_writes (by decide) rfl rfl rfl rfl (exec_mulh ..) rfl, mulDiv_writes (by decide) rfl rfl rfl rfl (exec_mulhu ..) (aluMulhu_eq x y),
    mulDiv_writes (by decide) rfl rfl rfl rfl (exec_div ..) rfl, mulDiv_writes (by decide) rfl rfl rfl rfl (exec_divu ..) (aluDivu_eq x y),
    mulDiv_writes (by decide) rfl rfl rfl rfl (exec_rem ..) (aluRem_eq x y), mulDiv_writes (by decide) rfl rfl rfl rfl (exec_remu ..) (aluRemu_eq x y),
    least_div_neg_one, fun fn listed hfn => ?_⟩
  rw [show word fn = _ from (pack_mulDiv d a b ta tb hfn).symm, major_decodeMulDiv]
  refine decodeMulDiv_reserved ?_
  simpa [bitsAt_head, bitsAt_tail, Nat.mod_eq_of_lt hfn] using listed

end Sys2Proof.Machine

namespace Sys2Proof

/-- Settles O2: each function of the group decodes to its instruction, whose value is the product, quotient or remainder of R116. -/
theorem multiplyDivide : Obligations.MultiplyDivide := Machine.multiplyDivideResults

end Sys2Proof

/-! # Packed operations (O3) -/

namespace Sys2Proof.Machine
open Sys2Proof Claims Laws.Encoding

/-! ## Lanes (R117) -/

theorem testBit_foldr_or (g : Nat → Nat) (j : Nat) :
    ∀ l : List Nat, (l.foldr (fun i acc => acc ||| g i) 0).testBit j = l.any fun i => (g i).testBit j
  | [] => by simp
  | i :: l => by rw [List.foldr_cons, Nat.testBit_or, testBit_foldr_or g j l, List.any_cons, Bool.or_comm]

/-- A bit of lane i lies in no lane but lane i. -/
theorem testBit_lane_shiftLeft (w v : Nat) {i j k : Nat} (hj : j < w) :
    ((v % 2 ^ w) <<< (w * k)).testBit (w * i + j) = (decide (k = i) && v.testBit j) := by
  rw [Nat.testBit_shiftLeft, Nat.testBit_mod_two_pow]
  obtain h | rfl | h := lt_trichotomy k i
  · have : w * k + w ≤ w * i := Nat.mul_succ w k ▸ Nat.mul_le_mul_left w h
    simp [h.ne, show ¬ w * i + j - w * k < w by omega]
  · simp [hj]
  · have : w * i + w ≤ w * k := Nat.mul_succ w i ▸ Nat.mul_le_mul_left w h
    simp [h.ne', show ¬ w * k ≤ w * i + j by omega]

theorem laneOf_lanesWord {w n i : Nat} (f : Nat → Nat) (fits : w * n ≤ 64) (hi : i < n) : laneOf w (lanesWord w n f) i = f i % 2 ^ w := by
  refine Nat.eq_of_testBit_eq fun j => (testBit_fieldOf _ (w * i) w j).trans ?_
  by_cases hj : j < w
  · have inside : w * i + j < 64 := by
      have : w * i + w ≤ w * n := Nat.mul_succ w i ▸ Nat.mul_le_mul_left w hi
      omega
    rw [lanesWord, BitVec.getLsbD_ofNat, testBit_foldr_or]
    rw [Bool.eq_iff_iff]
    simp [inside, testBit_lane_shiftLeft w _ hj, hi, hj]
  · simp [hj]

theorem ulane_eq (w : Nat) (x : Word) (i : Nat) : ulane w x i = (laneOf w x i : Nat) := rfl

theorem slane_eq {w : Nat} (h : 0 < w) (x : Word) (i : Nat) : slane w x i = signedNat w (laneOf w x i) := (signedNat_eq_bmod h _).symm

theorem wrapInt_cast (w : Nat) (v : Int) : (wrapInt w v : Int) = v % 2 ^ w := Int.toNat_of_nonneg (Int.emod_nonneg _ (by positivity))

/-- A word built from lanes has them. -/
theorem hasLanes_lanesWord {w n : Nat} {f : Nat → Nat} {g : Nat → Int} (hn : n = 64 / w)
    (h : ∀ i, i < n → (f i : Int) % 2 ^ w = g i % 2 ^ w) : hasLanes w (lanesWord w n f) g := fun i hi => by
  rw [ulane_eq, laneOf_lanesWord f (hn ▸ Nat.mul_div_le 64 w) (hn ▸ hi)]
  push_cast
  exact h i (hn ▸ hi)

theorem hasLanes_wrapInt {w n : Nat} {g : Nat → Int} (hn : n = 64 / w) : hasLanes w (lanesWord w n fun i => wrapInt w (g i)) g :=
  hasLanes_lanesWord hn fun i _ => by rw [wrapInt_cast, Int.emod_emod]

theorem hasLanes_congr {w : Nat} {v : Word} {f g : Nat → Int} (h : hasLanes w v f) (e : ∀ i, f i = g i) : hasLanes w v g :=
  funext e ▸ h

/-! ## The shapes of the packed operations, lane by lane (R118) -/

section Packed
variable (w : PWidth) (x y : Word)

theorem pbits_pos : 0 < pbits w := by cases w <;> decide

theorem packedU_lanes (f : Int → Int → Int) :
    hasLanes (pbits w) (packedU w f x y) fun i => f (ulane (pbits w) x i) (ulane (pbits w) y i) := hasLanes_wrapInt rfl

theorem packedS_lanes (f : Int → Int → Int) :
    hasLanes (pbits w) (packedS w f x y) fun i => f (slane (pbits w) x i) (slane (pbits w) y i) := by
  simp only [slane_eq (pbits_pos w)]
  exact hasLanes_wrapInt rfl

theorem packedShift_lanes (f : Nat → Nat → Nat) :
    hasLanes (pbits w) (packedShift w f x y) fun i => (f (laneOf (pbits w) x i) (y.toNat % pbits w) : Nat) :=
  hasLanes_lanesWord rfl fun _ _ => rfl

theorem packedCmp_lanes {p : Nat → Nat → Bool} {P : Nat → Prop} [DecidablePred P]
    (h : ∀ i, p (laneOf (pbits w) x i) (laneOf (pbits w) y i) = true ↔ P i) :
    hasLanes (pbits w) (packedCmp w p x y) fun i => if P i then 2 ^ pbits w - 1 else 0 := by
  refine hasLanes_lanesWord rfl fun i _ => congrArg (· % _) ?_
  simp only [h i]
  split
  · exact Nat.cast_pred (Nat.two_pow_pos _) |>.trans (by push_cast; rfl)
  · rfl

/-- The arithmetic shift of a lane (R118). -/
theorem packedSra_lanes :
    hasLanes (pbits w) (packedShift w (fun u k => wrapInt (pbits w) (signedNat (pbits w) u / 2 ^ k)) x y)
      fun i => slane (pbits w) x i / 2 ^ (y.toNat % pbits w) := by
  simp only [slane_eq (pbits_pos w)]
  exact hasLanes_wrapInt rfl

/-- The signed comparison of lanes (R118). -/
theorem packedLt_lanes :
    hasLanes (pbits w) (packedCmp w (fun u v => signedNat (pbits w) u < signedNat (pbits w) v) x y)
      fun i => if slane (pbits w) x i < slane (pbits w) y i then 2 ^ pbits w - 1 else 0 :=
  packedCmp_lanes w x y fun i => by rw [decide_eq_true_iff, slane_eq (pbits_pos w), slane_eq (pbits_pos w)]

end Packed

/-! ## The instructions (R117, R118) -/

/-- The word of the packed group with an op and a width (R117). -/
theorem pack_psimd (d a b : Reg) (w : PWidth) (ta tb : Bool) {op : Nat} (h : op < 64) :
    pack [(1, 1), (6, 11), (5, d.val), (5, a.val), (5, b.val), (1, ta.toNat), (1, tb.toNat), (2, w.code), (6, op)] =
      1 + 0x0B * 2 ^ 1 + d.val * 2 ^ 7 + a.val * 2 ^ 12 + b.val * 2 ^ 17 + ta.toNat * 2 ^ 22 + tb.toNat * 2 ^ 23 +
        w.code * 2 ^ 24 + op * 2 ^ 26 := by
  rw [pack_rFormat (by decide)]
  simp only [pack, Nat.reducePow, pwidth_mod, Nat.mod_eq_of_lt h]
  omega

/-- An instruction of two sources writes a word with the lanes of its operation. -/
theorem aluR_lanes {s : State} {d a b : Reg} {ta tb : Bool} {n : Nat} {i : Instr} {f : Word → Word → Word} {g : Nat → Int}
    (hx : exec i s = aluR f d a b ta tb s) (hd : s.writable [d]) (hs : s.readable [a, b])
    (hl : hasLanes n (f (s.val a) (s.val b)) g) : ∃ r, exec i s = .next (s.wrote d r [a, b] 4) ∧ hasLanes n r g :=
  ⟨_, hx.trans (aluR_writes hd hs rfl), hl⟩

/-- An instruction of the group has the word with its op, and writes a word with the lanes of its operation. -/
theorem packed_writes {s : State} {d a b : Reg} {w : PWidth} {ta tb : Bool} {op : Nat} {i : Instr} {f : Word → Word → Word}
    {g : Nat → Int} (hop : op < 64) (hw : i.wellFormed = true) (hi : i.encoded = true) (hb : i.bits = 32)
    (he : encode i = pack [(1, 1), (6, 11), (5, d.val), (5, a.val), (5, b.val), (1, ta.toNat), (1, tb.toNat), (2, w.code), (6, op)])
    (hx : exec i s = aluR f d a b ta tb s) (hl : hasLanes (pbits w) (f (s.val a) (s.val b)) g) :
    decodeWord (1 + 0x0B * 2 ^ 1 + d.val * 2 ^ 7 + a.val * 2 ^ 12 + b.val * 2 ^ 17 + ta.toNat * 2 ^ 22 + tb.toNat * 2 ^ 23 +
        w.code * 2 ^ 24 + op * 2 ^ 26) = .ok i ∧
      (s.writable [d] → s.readable [a, b] → ∃ r, exec i s = .next (s.wrote d r [a, b] 4) ∧ hasLanes (pbits w) r g) :=
  ⟨decodeWord_of_encode hi hw hb (he.trans (pack_psimd d a b w ta tb hop)), fun hd hs => aluR_lanes hx hd hs hl⟩

/-- The table of R118, row by row. -/
theorem packedResults : Claims.PackedResults := by
  intro s d a b w ta tb word n u v x y k ones out
  have unsigned (f) := packedU_lanes w (s.val a) (s.val b) f
  have signed (f) := packedS_lanes w (s.val a) (s.val b) f
  have shift (f) := packedShift_lanes w (s.val a) (s.val b) f
  exact ⟨packed_writes (by decide) rfl rfl rfl rfl (exec_padd ..) (unsigned _),
    packed_writes (by decide) rfl rfl rfl rfl (exec_paddSs ..) (signed _),
    packed_writes (by decide) rfl rfl rfl rfl (exec_paddUs ..) (unsigned _),
    packed_writes (by decide) rfl rfl rfl rfl (exec_psub ..) (unsigned _),
    packed_writes (by decide) rfl rfl rfl rfl (exec_psubSs ..) (signed _),
    packed_writes (by decide) rfl rfl rfl rfl (exec_psubUs ..) (unsigned _),
    packed_writes (by decide) rfl rfl rfl rfl (exec_pmul ..) (unsigned _),
    packed_writes (by decide) rfl rfl rfl rfl (exec_pmulSs ..) (signed _),
    packed_writes (by decide) rfl rfl rfl rfl (exec_pmin ..) (signed _),
    packed_writes (by decide) rfl rfl rfl rfl (exec_pminU ..) (unsigned _),
    packed_writes (by decide) rfl rfl rfl rfl (exec_pmax ..) (signed _),
    packed_writes (by decide) rfl rfl rfl rfl (exec_pmaxU ..) (unsigned _),
    packed_writes (by decide) rfl rfl rfl rfl (exec_pshLl ..) (hasLanes_congr (shift _) fun i => by push_cast; rfl),
    packed_writes (by decide) rfl rfl rfl rfl (exec_pshRl ..) (hasLanes_congr (shift _) fun i => by push_cast; rfl),
    packed_writes (by decide) rfl rfl rfl rfl (exec_pshRa ..) (packedSra_lanes w _ _),
    packed_writes (by decide) rfl rfl rfl rfl (exec_pcmpEq ..)
      (packedCmp_lanes w _ _ fun i => by simp only [beq_iff_eq, u, v, ulane_eq, Nat.cast_inj, n]),
    packed_writes (by decide) rfl rfl rfl rfl (exec_pcmpLt ..) (packedLt_lanes w _ _),
    packed_writes (by decide) rfl rfl rfl rfl (exec_pcmpLtu ..)
      (packedCmp_lanes w _ _ fun i => by simp only [decide_eq_true_iff, u, v, ulane_eq, Nat.cast_lt, n]),
    packed_writes (by decide) rfl rfl rfl rfl (exec_pabsd ..) (hasLanes_congr (signed _) fun i => Int.natCast_natAbs _)⟩

end Sys2Proof.Machine

namespace Sys2Proof

/-- Settles O3: the packed shapes give each lane by the operation on the operands' lanes, and the words decode by the encoding. -/
theorem packedLanes : Obligations.PackedLanes := Machine.packedResults

end Sys2Proof

/-! # Packing, complex, bit-field and compact results (O4) -/

namespace Sys2Proof.Machine
open Sys2Proof Claims

/-! ## Packing (R119) -/

theorem packLanes_lanes {w : PWidth} (h : w ≠ .b8) (x y : Word) (narrow : Nat → Int) :
    hasLanes (pbits w / 2) (packLanes w narrow x y) fun i =>
      if i < 64 / pbits w then narrow (laneOf (pbits w) x i) else narrow (laneOf (pbits w) y (i - 64 / pbits w)) := by
  refine hasLanes_wrapInt ?_
  cases w
  case b8 => exact absurd rfl h
  case h16 | w32 => rfl

/-- The narrowed lanes, by the operation that narrows each signed lane. -/
theorem packLanes_signed {w : PWidth} (h : w ≠ .b8) (x y : Word) (f : Int → Int) :
    hasLanes (pbits w / 2) (packLanes w (fun u => f (signedNat (pbits w) u)) x y) fun i =>
      f (if i < 64 / pbits w then slane (pbits w) x i else slane (pbits w) y (i - 64 / pbits w)) := by
  simp only [slane_eq (pbits_pos w), apply_ite f]
  exact packLanes_lanes h x y _

theorem packResults : Claims.PackResults := by
  intro s d a b w ta tb hw hd hs n lanes out
  exact ⟨aluR_lanes (exec_ppack ..) hd hs (packLanes_lanes hw _ _ _), aluR_lanes (exec_ppackSs ..) hd hs (packLanes_signed hw _ _ (clampS (n / 2))),
    aluR_lanes (exec_ppackUs ..) hd hs (packLanes_signed hw _ _ (clampU (n / 2)))⟩

/-! ## Complex operations (R120 to R122) -/

/-- The parts of CI16 element k are lanes 2k and 2k + 1 (R120). -/
theorem ciRe_eq (x : Word) (k : Nat) : ciRe x k = slane 16 x (2 * k) := (slane_eq (by decide) x _).symm

theorem ciIm_eq (x : Word) (k : Nat) : ciIm x k = slane 16 x (2 * k + 1) := (slane_eq (by decide) x _).symm

/-- A complex dot product writes the pair from d on, on top of what the pair held where it accumulates (R121). -/
theorem cplx_writes {s : State} {i : Instr} {d a b : Reg} {acc conj ta tb : Bool} {len : Nat} {p : Int × Int}
    (hx : exec i s = cplx acc conj d a b ta tb len s) (hd : s.writable [d, nextReg d])
    (hs : s.readable ([a, b] ++ if acc then [d, nextReg d] else [])) (hp : cdot conj (s.val a) (s.val b) = p) :
    exec i s = .next (wrote2 s d (nextReg d) ((if acc then s.val d else 0) + BitVec.ofInt 64 p.1)
      ((if acc then s.val (nextReg d) else 0) + BitVec.ofInt 64 p.2) ([a, b] ++ if acc then [d, nextReg d] else []) len) := by
  unfold cplx at hx
  rw [hx]
  refine (State.issue_scalar s [d, nextReg d] ([(a, ta), (b, tb)] ++ if acc then [d, nextReg d].map fun r => (r, false) else []) _ hd
    (by cases acc <;> exact hs)).trans ?_
  simp [wrote2, State.retire, State.write, State.resultLabel_eq, wordOfInt, hp]

theorem complexResults : Claims.ComplexResults := by
  intro s d a b ta tb e dot out
  have plain (x y) : cdot false x y = dot 1 x y := by
    simp only [cdot, dot, ciRe_eq, ciIm_eq, one_mul, Bool.false_eq_true, if_false, Nat.reduceMul, Nat.reduceAdd]
  have conjugate (x y) : cdot true x y = dot (-1) x y := by
    simp only [cdot, dot, ciRe_eq, ciIm_eq, neg_one_mul, mul_neg, if_true, Nat.reduceMul, Nat.reduceAdd]
  have pair {rs : List Reg} (h : s.readable (rs ++ [d, e])) : s.writable [d, e] := fun r hr => (h r (List.mem_append_right _ hr)).1
  refine ⟨fun _ hd hs => ?_, fun _ hs => ⟨?_, ?_⟩, fun _ _ hs => ?_, fun hd hs => ⟨_, (exec_cabs2 ..).trans (alu1_writes hd hs rfl), ?_⟩,
    fun hd hs => aluR_lanes (exec_mulq ..) hd hs ?_⟩
  · exact cplx_writes (exec_cmul ..) hd hs (plain _ _)
  · exact cplx_writes (exec_cmac ..) (pair (rs := [a, b]) hs) hs (plain _ _)
  · exact cplx_writes (exec_cmacj ..) (pair (rs := [a, b]) hs) hs (conjugate _ _)
  · exact cplx_writes (exec_cCmac ..) (pair (rs := [a, nextReg a]) hs) hs (plain _ _)
  · refine hasLanes_lanesWord rfl fun k _ => ?_
    rw [Int.toNat_of_nonneg (Int.add_nonneg (mul_self_nonneg _) (mul_self_nonneg _)), ciRe_eq, ciIm_eq, sq, sq]
  · simp only [slane_eq (w := 16) (by decide)]
    exact hasLanes_wrapInt rfl

/-! ## Saturation, counts, byte order and bit fields (R123 to R125) -/

/-- The leading zeros of a number other than 0 place its highest one bit (R124). -/
theorem leadingZeros_bounds {x : Nat} (h : x ≠ 0) (hx : x < 2 ^ 64) :
    leadingZeros x < 64 ∧ 2 ^ (63 - leadingZeros x) ≤ x ∧ x < 2 ^ (64 - leadingZeros x) := by
  have top : x.log2 < 64 := (Nat.log2_lt h).2 hx
  rw [leadingZeros, if_neg h, show 63 - (63 - x.log2) = x.log2 by omega, show 64 - (63 - x.log2) = x.log2 + 1 by omega]
  exact ⟨by omega, Nat.log2_self_le h, Nat.lt_log2_self⟩

/-- The zeros below the lowest one bit of a number of n bits other than 0 (R124). -/
theorem zerosBelow_spec : ∀ (n : Nat) {x : Nat}, x ≠ 0 → x < 2 ^ n →
    zerosBelow n x < n ∧ x % 2 ^ zerosBelow n x = 0 ∧ x / 2 ^ zerosBelow n x % 2 = 1
  | 0, x, h, hx => by omega
  | n + 1, x, h, hx => by
    by_cases odd : x % 2 = 1
    · simp [zerosBelow, odd, Nat.mod_one]
    · obtain ⟨hz, low, one⟩ := zerosBelow_spec n (x := x / 2) (by omega) (by omega)
      rw [zerosBelow, if_neg odd, Nat.add_comm 1, Nat.pow_succ', ← Nat.div_div_eq_div_mul, Nat.mod_mul, low]
      exact ⟨by omega, by omega, one⟩

theorem zerosBelow_zero : ∀ n : Nat, zerosBelow n 0 = n
  | 0 => rfl
  | n + 1 => by simp [zerosBelow, zerosBelow_zero n, Nat.add_comm]

/-- The one bits below n are those of the places below n that hold one (R124). -/
theorem onesBelow_eq : ∀ n x : Nat, onesBelow n x = ((List.range n).filter fun i => x.testBit i).length
  | 0, _ => rfl
  | n + 1, x => by
    rw [onesBelow, onesBelow_eq n, List.range_succ_eq_map, List.filter_cons, List.filter_map, Nat.testBit_zero]
    obtain h | h := Nat.mod_two_eq_zero_or_one x <;>
      simp [h, Function.comp_def, Nat.testBit_succ, Nat.add_comm]

theorem toNat_count {n : Nat} (h : n ≤ 64) : (BitVec.ofNat 64 n : Word).toNat = n :=
  BitVec.toNat_ofNat .. |>.trans (Nat.mod_eq_of_lt (Nat.lt_of_le_of_lt h (by decide)))

theorem clz_spec (x : Word) : let v : Word := BitVec.ofNat 64 (leadingZeros x.toNat)
    if x = 0 then v = 64 else v.toNat < 64 ∧ 2 ^ (63 - v.toNat) ≤ x.toNat ∧ x.toNat < 2 ^ (64 - v.toNat) := by
  intro v
  split
  case isTrue hx => simp [v, hx, leadingZeros]
  case isFalse hx =>
    have spec := leadingZeros_bounds (fun h => hx (BitVec.eq_of_toNat_eq h)) x.isLt
    have hv : v.toNat = _ := toNat_count spec.1.le
    rwa [hv]

theorem ctz_spec (x : Word) : let v : Word := BitVec.ofNat 64 (zerosBelow 64 x.toNat)
    if x = 0 then v = 64 else v.toNat < 64 ∧ x.toNat % 2 ^ v.toNat = 0 ∧ x.toNat / 2 ^ v.toNat % 2 = 1 := by
  intro v
  split
  case isTrue hx => simp [v, hx, zerosBelow_zero]
  case isFalse hx =>
    have spec := zerosBelow_spec 64 (fun h => hx (BitVec.eq_of_toNat_eq h)) x.isLt
    have hv : v.toNat = _ := toNat_count spec.1.le
    rwa [hv]

theorem popc_spec (x : Word) : (BitVec.ofNat 64 (onesBelow 64 x.toNat) : Word).toNat =
    ((List.range 64).filter fun i => x.getLsbD i).length := by
  have few : onesBelow 64 x.toNat ≤ 64 := onesBelow_eq 64 _ ▸ (List.length_filter_le ..).trans_eq List.length_range
  exact (toNat_count few).trans (onesBelow_eq 64 _)

/-- The position of the field of `bext`, `bextu` and `bins`, and its length, cut at the top of the word (R125). -/
theorem bitField_eq (y : Word) : bitField y = (y.toNat % 64, min (y.toNat / 2 ^ 8 % 64 + 1) (64 - y.toNat % 64)) := by
  simp [bitField, fieldOf, bitsAt]

theorem aluBext_eq (x y : Word) : aluBext x y = BitVec.ofInt 64
    (Int.bmod (x.toNat / 2 ^ (bitField y).1 % 2 ^ (bitField y).2 : Nat) (2 ^ (bitField y).2)) := by
  rw [aluBext, signedNat_eq_bmod (by rw [bitField_eq]; omega)]; rfl

theorem bitFieldResults : Claims.BitFieldResults := by
  intro s d a b n ta tb hd ha x y p len one
  have reads (hb : s.readable [b]) : s.readable [a, b] := List.forall_mem_cons.2 ⟨ha a (by simp), hb⟩
  refine ⟨(exec_sat ..).trans (alu1_writes hd ha rfl), (exec_satu ..).trans (alu1_writes hd ha rfl),
    ⟨_, (exec_clz ..).trans (alu1_writes hd ha rfl), ?_⟩, ⟨_, (exec_ctz ..).trans (alu1_writes hd ha rfl), ?_⟩,
    ⟨_, (exec_popc ..).trans (alu1_writes hd ha rfl), ?_⟩, ⟨_, (exec_bswap ..).trans (alu1_writes hd ha rfl), ?_⟩,
    fun hb => ⟨(exec_bextu ..).trans (aluR_writes hd (reads hb) ?_), (exec_bext ..).trans (aluR_writes hd (reads hb) ?_)⟩,
    fun hbd => ⟨_, (exec_bins ..).trans (aluRd_writes ?_ rfl), fun j hj => ?_⟩⟩
  · exact clz_spec x
  · exact ctz_spec x
  · exact popc_spec x
  · exact hasLanes_lanesWord rfl fun _ _ => rfl
  · rw [aluBextu, bitField_eq]; rfl
  · rw [aluBext_eq, bitField_eq]
  · exact List.forall_mem_cons.2 ⟨ha a (by simp), hbd⟩
  · rw [aluBins, getLsbD_putField _ _ _ _ hj, bitField_eq]; rfl

/-! ## Compact forms (R126) -/

theorem aluC_writes {s : State} {d r : Reg} {f : Word → Word → Word} {v : Word} (hs : s.readable [d, r]) (h : f (s.val d) (s.val r) = v) :
    aluC f d r s = .next (s.wrote d v [d, r] 2) := h ▸ aluC_next f d r s hs

theorem exec_mv_writes {s : State} {d r : Reg} (hd : s.writable [d]) (hs : s.readable [r]) :
    exec (.mv d r) s = .next (s.wrote d (s.val r) [r] 2) := by
  rw [exec_mv, execMv]
  exact (State.issue_scalar s [d] [(r, false)] _ hd hs).trans (by simp [State.wrote, State.put, State.retire, State.write, State.resultLabel_eq])

theorem exec_cAddi_writes {s : State} {d : Reg} (imm : BitVec 5) (hs : s.readable [d]) :
    exec (.cAddi d imm) s = .next (s.wrote d (BitVec.ofInt 64 ((s.val d).toInt + imm.toInt)) [d] 2) := by
  rw [exec_cAddi, execCAddi, ← word_add_signExtend]
  exact (State.issue_scalar s [d] [(d, false)] _ (fun r hr => (hs r hr).1) hs).trans
    (by simp [State.wrote, State.put, State.retire, State.write, State.resultLabel_eq])

/-- The compact forms write the values of their full forms (R126). -/
theorem compactResults : Claims.CompactResults := by
  intro s d r imm hs x y k out
  have hr : s.readable [r] := fun q hq => hs q (by simp_all)
  have hd : s.readable [d] := fun q hq => hs q (by simp_all)
  exact ⟨aluC_writes hs (word_add_eq x y), aluC_writes hs (word_sub_eq x y), aluC_writes hs rfl, aluC_writes hs rfl, aluC_writes hs rfl,
    aluC_writes hs (shiftLeft_eq_ofNat x k), aluC_writes hs (ushiftRight_eq_ofNat x k), aluC_writes hs (sshiftRight_eq_ofInt x k),
    aluC_writes hs (word_mul_eq_ofNat x y), aluC_writes hs (aluMin_eq x y), aluC_writes hs (aluMax_eq x y),
    exec_mv_writes (fun q hq => (hd q hq).1) hr, exec_cAddi_writes imm hd⟩

end Sys2Proof.Machine

namespace Sys2Proof

/-- Settles O4: the packing and complex results lane by lane, the counts and fields bit by bit, and the compact forms by the values of the
full ones. -/
theorem narrowComplexAndBits : Obligations.NarrowComplexAndBits :=
  ⟨Machine.packResults, Machine.complexResults, Machine.bitFieldResults, Machine.compactResults⟩

end Sys2Proof

/-! # Words written out (O54) -/

namespace Sys2Proof
open Laws.Encoding

/-- The bytes of the word of an encoded instruction of 32 bits decode to it (R89). -/
theorem decodeTableWord_of_encode {i : Instr} {w : Nat} (he : i.encoded = true) (hw : i.wellFormed = true) (hb : i.bits = 32)
    (h : encode i = w) : decodeTableWord 32 w = some i := by
  subst h
  obtain ⟨lt, odd, hd⟩ := encode_word he hw hb
  have bytes : decodeBytes (natBytes 4 (encode i)) = .ok (i, []) := by
    rw [← List.append_nil (natBytes 4 _), decodeBytes_word _ [] lt odd, hd]; rfl
  rw [decodeTableWord, Nat.mod_eq_of_lt lt, bytes]

/-- Settles O54: each word is what its instruction encodes to. -/
theorem decodeWords : Obligations.DecodeWords :=
  ⟨decodeTableWord_of_encode rfl rfl rfl rfl, decodeTableWord_of_encode rfl rfl rfl rfl, decodeTableWord_of_encode rfl rfl rfl rfl,
    decodeTableWord_of_encode rfl rfl rfl rfl, decodeTableWord_of_encode rfl rfl rfl rfl, decodeTableWord_of_encode rfl rfl rfl rfl,
    decodeTableWord_of_encode rfl rfl rfl rfl, decodeTableWord_of_encode rfl rfl rfl rfl, decodeTableWord_of_encode rfl rfl rfl rfl,
    decodeTableWord_of_encode rfl rfl rfl rfl, decodeTableWord_of_encode rfl rfl rfl rfl, decodeTableWord_of_encode rfl rfl rfl rfl,
    decodeTableWord_of_encode rfl rfl rfl rfl⟩

end Sys2Proof

/-! # Branches and jumps (O7) -/

namespace Sys2Proof.Machine

/-- A PC-relative target lies twice the immediate away. -/
theorem word_add_two_mul {n : Nat} (pc : Word) (imm : BitVec n) :
    pc + imm.signExtend 64 * 2 = BitVec.ofInt 64 (pc.toInt + 2 * imm.toInt) := by
  rw [BitVec.ofInt_add, BitVec.ofInt_toInt, Int.mul_comm, BitVec.ofInt_mul]
  rfl

/-- A branch whose registers are free joins both labels and goes where its condition says (R128). -/
theorem branch_went {s : State} {a b : Reg} {taken : Word → Word → Bool} {P : Prop} [Decidable P] (imm : BitVec 12)
    (hs : s.readable [a, b]) (h : taken (s.val a) (s.val b) = decide P) :
    branch taken a b imm s = .next (s.went (s.t.joinClabel (s.lbl a ||| s.lbl b))
      (if P then BitVec.ofInt 64 (s.t.pc.toInt + 2 * imm.toInt) else s.t.pc + 4)) := by
  refine (State.issue_scalar s [] [(a, false), (b, false)] _ (by simp [State.writable]) hs).trans ?_
  simp only [h, word_add_two_mul, decide_eq_true_eq]
  split <;> rfl

theorem branchResults : Claims.BranchResults := by
  intro s a b imm hs
  have notLess (p q : Prop) [Decidable p] [Decidable q] (h : ¬ p ↔ q) : (!decide p) = decide q := by simp [← h]
  exact ⟨branch_went imm hs (beq_eq_decide ..), branch_went imm hs (by simp [bne, beq_eq_decide]), branch_went imm hs rfl,
    branch_went (taken := fun x y => !x.slt y) imm hs (notLess _ _ not_lt), branch_went imm hs rfl,
    branch_went (taken := fun x y => !x.ult y) imm hs (notLess _ _ not_lt)⟩

theorem label_or_zero (l : Label) : l ||| 0 = l := BitVec.or_zero

/-- The check of `jalr` on its target is on bit 0 (R129). -/
theorem fieldOf_zero_one (x : Word) : fieldOf x 0 1 = x.toNat % 2 := by simp [fieldOf, bitsAt]

section Jalr
variable {s : State} {d a : Reg} {off : BitVec 14} {ta : Bool} (hd : s.writable [d]) (ha : s.readable [a])
include hd ha

theorem execJalr_even (even : (s.val a + off.signExtend 64).toNat % 2 = 0) :
    execJalr d a off ta s = .next (s.went
      ((s.t.joinClabel (s.lbl a)).write d (s.t.pc + 4) ((s.t.joinClabel (s.lbl a)).ctl.clabel ||| s.t.patched))
      (s.val a + off.signExtend 64)) := by
  rw [execJalr, State.issue_scalar s [d] [(a, ta)] _ hd ha]
  have label : (s.joinClabel (s.lbl a)).resultLabel [] = (s.t.joinClabel (s.lbl a)).ctl.clabel ||| s.t.patched :=
    label_or_zero _
  simp only [fieldOf_zero_one, even, Nat.zero_ne_one, ↓reduceIte, label]
  rfl

theorem execJalr_odd (traps : s.traps) (odd : (s.val a + off.signExtend 64).toNat % 2 = 1) :
    execJalr d a off ta s = .next (s.trapped 0x05 s.t.pc (s.val a + off.signExtend 64) 0 (s.lbl a ||| s.t.patched)) := by
  rw [execJalr, State.issue_scalar s [d] [(a, ta)] _ hd ha]
  simp only [fieldOf_zero_one, odd, ↓reduceIte, State.fail_traps _ _ _ _ _ _ traps, State.labelsOf_one, label_or_zero]
  rfl

end Jalr

theorem execJal_went {s : State} {d : Reg} (hd : s.writable [d]) (imm : BitVec 20) :
    execJal d imm s = .next (s.went (s.t.write d (s.t.pc + 4) (s.joined [])) (BitVec.ofInt 64 (s.t.pc.toInt + 2 * imm.toInt))) := by
  refine (State.issue_scalar s [d] [] _ hd (by simp [State.readable])).trans ?_
  simp only [word_add_two_mul]
  rfl

theorem jumpResults : Claims.JumpResults := by
  intro s d a imm off ta hd
  exact ⟨execJal_went hd imm, fun ha even => execJalr_even hd ha even, fun ha traps odd => execJalr_odd hd ha traps odd⟩

end Sys2Proof.Machine

namespace Sys2Proof

/-- Settles O7: a branch goes by its condition with both labels joined, and a jump links, unless its target is odd. -/
theorem controlFlow : Obligations.ControlFlow := ⟨Machine.branchResults, Machine.jumpResults⟩

end Sys2Proof

/-! # Requests of a thread to its own Pan, and the answers to them (for O19 and O22)

What the statements about nests and about tasks share: where an access to the own Pan goes, what a request at a bank leaves, what a
bank does that has one request, and how an answer reaches its thread. -/

namespace Sys2Proof.Machine

open Claims (ownPan queued alone)

/-! ## The route (R204, R207, R244) -/

section Own
variable {s : State} {va : Word} {n pa : Nat} {l : Label} {r w : Bool} (own : ownPan s va n pa l r w)
include own

theorem State.deviceAccess_own : s.deviceAccess va = false := by
  obtain ⟨-, -, off, named, -⟩ := own
  simp [State.deviceAccess, named]

theorem State.route_own : s.route va r w = (.ok (.here ⟨.pan n pa, l, l, false⟩), s) := by
  obtain ⟨compute, here, off, named, allowed⟩ := own
  simp [State.route, named, allowed, compute, here]

/-- A returning access to the own Pan is made from where the thread is. -/
theorem State.returning_own (dests reads : List Reg) (join : Label) (k : State → Target → Way → Result) :
    s.returning va r w dests reads join k = k s ⟨.pan n pa, l, l, false⟩ .direct := by
  simp [State.returning, State.deviceAccess_own own, State.route_own own]

end Own

/-! ## Requests at banks (R208, R213) -/

/-- From one state another comes by requests to banks of Pan stores: those that stood there stay, and what changed besides are the
banks, the calendar and the numbers of the model. -/
structure State.Sends (s s' : State) : Prop where
  thread : s'.t = s.t
  others : s'.others = s.others
  mem : s'.mem = s.mem
  cycle : s'.time.cycle = s.time.cycle
  fills : s'.fab.fills = s.fab.fills
  next : s.time.next ≤ s'.time.next
  calendar : s.time.calendar ⊆ s'.time.calendar
  accs : ∀ a ∈ s.fab.accs, a.id < s.time.next → a ∈ s'.fab.accs

theorem State.Sends.refl (s : State) : s.Sends s :=
  ⟨rfl, rfl, rfl, rfl, rfl, Nat.le_refl _, List.Subset.refl _, fun _ h _ => h⟩

theorem State.Sends.trans {s s1 s2 : State} (h1 : s.Sends s1) (h2 : s1.Sends s2) : s.Sends s2 :=
  ⟨h2.thread.trans h1.thread, h2.others.trans h1.others, h2.mem.trans h1.mem, h2.cycle.trans h1.cycle, h2.fills.trans h1.fills,
    h1.next.trans h2.next, List.Subset.trans h1.calendar h2.calendar,
    fun a ha old => h2.accs a (h1.accs a ha old) (old.trans_le h1.next)⟩

/-- A request of the thread at its turn in s stands in s' at the bank of a place, and its number is taken, so that no later request
is mistaken for it. -/
def AtBank (s s' : State) (op : MemOp) (n pa : Nat) (label : Label) : Prop :=
  ∃ a ∈ s'.fab.accs, a.id < s'.time.next ∧ a.uid = s.t.ident.uid ∧ a.part = s.t.ident.part ∧ a.op = op ∧ a.loc = .pan n pa ∧
    a.label = label ∧ a.state = .queued ∧ a.posted = false ∧ s.time.cycle < a.due ∧
    (a.due, Instr.bankArbitration n (bankOf pa)) ∈ s'.time.calendar

theorem AtBank.queued {s s' : State} {op : MemOp} {n pa : Nat} {label : Label} (h : AtBank s s' op n pa label) :
    queued s s' op n pa label := by
  obtain ⟨a, ha, -, rest⟩ := h
  exact ⟨a, ha, rest⟩

/-- A request that stands is still there after others have been sent. -/
theorem AtBank.sends {s s1 s2 : State} {op : MemOp} {n pa : Nat} {label : Label} (h : AtBank s s1 op n pa label)
    (more : s1.Sends s2) : AtBank s s2 op n pa label := by
  obtain ⟨a, ha, old, uid, part, is, place, labelled, waits, unposted, due, listed⟩ := h
  exact ⟨a, more.accs a ha old, old.trans_le more.next, uid, part, is, place, labelled, waits, unposted, due, more.calendar listed⟩

/-- Whose request it is and from which cycle it is due is told against any state with the same thread and cycle. -/
theorem AtBank.base {s s1 s' : State} {op : MemOp} {n pa : Nat} {label : Label} (h : AtBank s1 s' op n pa label)
    (ident : s1.t.ident = s.t.ident) (cycle : s1.time.cycle = s.time.cycle) : AtBank s s' op n pa label := by
  unfold AtBank at h ⊢
  rwa [ident, cycle] at h

theorem State.enqueue_pan {s : State} {a : Acc} {n pa : Nat} (place : a.loc = .pan n pa) :
    s.enqueue a = ((s.modAcc a.id fun x => { x with state := .queued, due := a.due, came := a.due }).setBank
      { s.bank n (bankOf pa) with queue := (s.bank n (bankOf pa)).queue ++ [a.id] }).scheduleOnce a.due
      (.bankArbitration n (bankOf pa)) := by
  simp only [State.enqueue, place]

/-- A request of the own thread with a new number enters the queue of its bank. -/
theorem State.enqueue_new {s : State} {a : Acc} {n pa : Nat} (place : a.loc = .pan n pa) (number : a.id = s.time.next)
    (uid : a.uid = s.t.ident.uid) (part : a.part = s.t.ident.part) (unposted : a.posted = false) {due : Nat} (later : s.time.cycle < due) :
    let s' := ({ s.fresh.2 with fab := { s.fab with accs := s.fab.accs ++ [a] } } : State).enqueue { a with due := due }
    s.Sends s' ∧ AtBank s s' a.op n pa a.label := by
  intro s'
  obtain ⟨q, hq, eq⟩ : ∃ q : State, q = _ ∧ s' = q.scheduleOnce due (.bankArbitration n (bankOf pa)) :=
    ⟨_, rfl, State.enqueue_pan (a := { a with due := due }) place⟩
  have keep {α : Type} {π : State → α}
      (hπ : ∀ s calendar, π { s with time := { s.time with calendar := calendar } } = π s) : π s' = π q :=
    eq ▸ State.scheduleOnce_keep hπ q _ _
  have accs : s'.fab.accs = q.fab.accs := keep (π := fun s => s.fab.accs) fun _ _ => rfl
  have next : s'.time.next = q.time.next := keep (π := fun s => s.time.next) fun _ _ => rfl
  have listed : (due, Instr.bankArbitration n (bankOf pa)) ∈ s'.time.calendar := eq ▸ State.mem_scheduleOnce ..
  have calendar : q.time.calendar ⊆ s'.time.calendar := eq ▸ State.scheduleOnce_subset ..
  have new : { a with due := due, state := .queued, came := due } ∈ s'.fab.accs := by
    rw [accs, hq]
    exact List.mem_map.mpr ⟨a, by simp, if_pos rfl⟩
  have old : ∀ b ∈ s.fab.accs, b.id < s.time.next → b ∈ s'.fab.accs := fun b hb old => by
    rw [accs, hq]
    exact List.mem_map.mpr ⟨b, List.mem_append_left _ hb, if_neg (number ▸ old.ne)⟩
  have number' : s'.time.next = a.id + 1 := by
    rw [next, hq, number]
    rfl
  subst hq
  refine ⟨⟨keep (π := State.t) fun _ _ => rfl, keep (π := State.others) fun _ _ => rfl, keep (π := State.mem) fun _ _ => rfl,
    keep (π := fun s => s.time.cycle) fun _ _ => rfl, keep (π := fun s => s.fab.fills) fun _ _ => rfl, by omega, calendar,
    old⟩, _, new, by simp only [number']; omega, uid, part, rfl, place, rfl, rfl, unposted, later, listed⟩

/-- A request to a cellar of the own Pan is a cycle or more on its way (R213). -/
theorem panClass_waits (core unit pa : Nat) : 0 < (panClass core unit pa).2.2 := by
  unfold panClass
  dsimp only
  (repeat' split) <;> exact Nat.succ_pos _

/-- The access that a thread sends to a bank from where it is. -/
def State.directAcc (s : State) (later source : Nat) (op : MemOp) (x : Target) (pa : Nat) (va : Word) (label : Label) (ordered : Bool)
    (fill : Option Nat) : Acc :=
  { id := s.time.next, uid := s.t.ident.uid, part := s.t.ident.part, op := op, loc := x.loc, va := va, pc := s.t.pc, label := label
    plabel := x.label, posted := false, ordered := ordered, clock := s.t.ctl.vclock, srcDie := coreDie s.t.core, num := 0, pair := 0
    cross := false, input := (panClass s.t.core source pa).2.1, trellis := coreTrellis s.t.core, source := source
    klass := (panClass s.t.core source pa).1, legs := 0, asked := s.time.cycle
    due := s.time.cycle + (panClass s.t.core source pa).2.2 + later, fill := fill, noalloc := x.noalloc, kept := false, came := 0
    port := none, state := .sent }

section Send
variable {s : State} {x : Target} {n pa : Nat} (place : x.loc = .pan n pa) (op : MemOp) (va : Word) (label : Label) (ordered : Bool)
  (fill : Option Nat) (bytes : Nat)
include place

theorem State.sendAfter_eq (later source : Nat) :
    (s.sendAfter later source op x va label .direct ordered fill bytes).2 =
      ({ s.fresh.2 with
          fab := { s.fab with accs := s.fab.accs ++ [s.directAcc later source op x pa va label ordered fill] } } : State).enqueue
        { s.directAcc later source op x pa va label ordered fill with
          due := max (s.directAcc later source op x pa va label ordered fill).due s.time.cycle } := by
  obtain ⟨_, _, _, _⟩ := x
  subst place
  rfl

/-- An access made from where the thread is stands at its bank. -/
theorem State.sendAfter_direct (later source : Nat) :
    let s' := (s.sendAfter later source op x va label .direct ordered fill bytes).2
    s.Sends s' ∧ AtBank s s' op n pa label := by
  have waits := panClass_waits s.t.core source pa
  rw [State.sendAfter_eq place]
  refine State.enqueue_new place rfl rfl rfl rfl (Nat.lt_of_lt_of_le ?_ (Nat.le_max_left _ _))
  dsimp only [State.directAcc]
  omega

theorem State.send_direct :
    let s' := (s.send op x va label .direct ordered fill bytes).2
    s.Sends s' ∧ AtBank s s' op n pa label :=
  State.sendAfter_direct place op va label ordered fill bytes 0 _

omit place in
/-- A reply that does not travel needs no legs. -/
theorem State.proxyLegs_direct (s : State) (fid acc : Nat) : s.proxyLegs .direct fid acc = s := by
  unfold State.proxyLegs
  split
  · contradiction
  · rfl

/-- The words of a burst stand each at its own bank (R215). -/
theorem State.sendWords_direct (ea : Word) (fid : Nat) (ops : Nat → MemOp) (m k : Nat) :
    let s' := s.sendWords x ea label .direct fid ops m k
    s.Sends s' ∧ ∀ j, j < k → AtBank s s' (ops j) n (pa + 8 * j) label := by
  induction k with
  | zero => exact ⟨.refl s, fun j hj => absurd hj (Nat.not_lt_zero j)⟩
  | succ k ih =>
    obtain ⟨before, words⟩ := ih
    have plus : ({ x with loc := x.loc.plus (8 * k) } : Target).loc = .pan n (pa + 8 * k) := by rw [place]; rfl
    obtain ⟨last, word⟩ := State.sendAfter_direct (s := s.sendWords x ea label .direct fid ops m k) plus (ops k)
      (ea + BitVec.ofNat 64 (8 * k)) label false (some fid) 8 (rowWrap x.loc (8 * k))
      ((s.sendWords x ea label .direct fid ops m k).t.core % 8)
    dsimp only [State.sendWords]
    rw [State.proxyLegs_direct]
    refine ⟨before.trans last, fun j hj => ?_⟩
    rcases Nat.lt_succ_iff_lt_or_eq.mp hj with lt | rfl
    · exact (words j lt).sends last
    · exact word.base (congrArg Thread.ident before.thread) before.cycle

end Send

end Sys2Proof.Machine

/-! # nest and next (O19) -/

namespace Sys2Proof.Machine

open Claims (ownPan queued awaited pendingOnly alone onlyWrote)

/-! ## Registers that become empty, and results that are outstanding (R73) -/

theorem Thread.markEmpty_only (t : Thread) (r : Reg) : ∃ rs, t.markEmpty r = { t with regs := rs } := by
  unfold Thread.markEmpty Thread.setReg
  split
  · exact ⟨t.regs, rfl⟩
  · exact ⟨_, rfl⟩

/-- Of a thread whose registers become empty nothing else changes. -/
theorem Thread.foldl_markEmpty_only (regs : List Reg) (t : Thread) : ∃ rs, regs.foldl Thread.markEmpty t = { t with regs := rs } := by
  induction regs generalizing t with
  | nil => exact ⟨t.regs, rfl⟩
  | cons r regs ih =>
    obtain ⟨one, first⟩ := t.markEmpty_only r
    obtain ⟨all, rest⟩ := ih (t.markEmpty r)
    exact ⟨all, by rw [List.foldl_cons, rest, first]⟩

/-- A register that becomes empty loses its poison and keeps its value and label. -/
def GReg.emptied (g : GReg) : GReg := { g with full := false, poison := false }

theorem Thread.reg_markEmpty (t : Thread) (d r : Reg) :
    (t.markEmpty d).reg r = if r = d ∧ r ≠ 0 then (t.reg r).emptied else t.reg r := by
  by_cases h : r = d ∧ r ≠ 0
  · obtain ⟨rfl, nonzero⟩ := h
    rw [if_pos ⟨rfl, nonzero⟩, Thread.reg_markEmpty_same _ _ nonzero]
    rfl
  · rw [if_neg h, reg_markEmpty_unless t h]

theorem Thread.reg_foldl_markEmpty (regs : List Reg) (t : Thread) (r : Reg) :
    (regs.foldl Thread.markEmpty t).reg r = if r ∈ regs ∧ r ≠ 0 then (t.reg r).emptied else t.reg r := by
  induction regs generalizing t with
  | nil => simp
  | cons d regs ih =>
    rw [List.foldl_cons, ih, Thread.reg_markEmpty]
    by_cases zero : r = 0
    · simp [zero]
    · by_cases here : r = d
      · subst here
        simp [zero, GReg.emptied]
      · simp [here]

/-- The outstanding result that an instruction makes. -/
def State.fillFor (s : State) (regs : List Reg) (parts : Nat) (label join : Label) (kind : FillKind) (resume advance : Bool) : Fill :=
  { id := s.time.next, uid := s.t.ident.uid, regs := regs, vals := List.replicate (max parts regs.length) 0, parts := parts
    label := label, join := join, kind := kind, resume := resume, advance := advance, err := none, discard := false
    legs := 0, velems := [] }

/-- A result becomes outstanding: its registers are empty, and it takes a number. -/
theorem State.newFill_eq (s : State) (regs : List Reg) (parts : Nat) (label join : Label) (kind : FillKind) (resume advance : Bool) :
    s.newFill regs parts label join kind resume advance =
      (s.time.next, { s with
        t := regs.foldl Thread.markEmpty s.t, time := { s.time with next := s.time.next + 1 }
        fab := { s.fab with fills := s.fillFor regs parts label join kind resume advance :: s.fab.fills } }) := by
  obtain ⟨rs, only⟩ := Thread.foldl_markEmpty_only regs s.t
  simp only [State.newFill, State.newHeldFill, State.fillFor, State.fresh, only]

/-! ## What an instruction leaves whose requests have been sent (R73, R103) -/

section Outstanding
variable {s s' : State} {regs : List Reg} {parts : Nat} {label join : Label} {kind : FillKind} {resume advance : Bool}

section
variable (sent : (s.newFill regs parts label join kind resume advance).2.Sends s')
include sent

/-- What an instruction leaves that has emptied its registers and sent its requests. -/
theorem pendingOnly_goOn (hold : Bool) : pendingOnly s (s'.goOn hold 4) regs (s.t.pc + 4) (if hold then .reply else s.t.run) := by
  obtain ⟨rs, only⟩ := Thread.foldl_markEmpty_only regs s.t
  rw [State.newFill_eq] at sent
  have thread := sent.thread
  have emptied (r : Reg) := Thread.reg_foldl_markEmpty regs s.t r
  simp only [only] at thread emptied
  have others := sent.others
  have mem := sent.mem
  cases hold <;> simp only [pendingOnly, State.goOn, State.retire, thread, others, mem] <;>
    exact ⟨rfl, rfl, rfl, rfl, rfl, rfl, rfl, rfl, rfl, rfl, emptied⟩

theorem mem_fills_goOn (hold : Bool) : s.fillFor regs parts label join kind resume advance ∈ (s'.goOn hold 4).fab.fills := by
  have fills := sent.fills
  rw [State.newFill_eq] at fills
  have made : s.fillFor regs parts label join kind resume advance ∈ s'.fab.fills := fills ▸ List.mem_cons_self
  cases hold <;> exact made

end

theorem AtBank.goOn {op : MemOp} {n pa : Nat} {l : Label} (h : AtBank (s.newFill regs parts label join kind resume advance).2 s' op n pa l)
    (hold : Bool) : Claims.queued s (s'.goOn hold 4) op n pa l := by
  have ident : (s.newFill regs parts label join kind resume advance).2.t.ident = s.t.ident := by
    obtain ⟨rs, only⟩ := Thread.foldl_markEmpty_only regs s.t
    rw [State.newFill_eq, only]
  have stands := (h.base ident rfl).queued
  cases hold <;> exact stands

end Outstanding

/-! ## nest (R133) -/

section Nest
variable {s : State} {d a : Reg} (ta tb : Bool) (hd : s.writable [d]) (ha : s.readable [a]) (free : s.acquireHeld = false)
  (unclaimed : s.t.claiming = false)
include hd ha free unclaimed

theorem execNest_align (traps : s.traps) (h : (s.val a).toNat % 32 ≠ 0) :
    execNest d a ta tb s = .next (s.trapped 0x05 s.t.pc (s.val a) 0 (s.lbl a ||| s.t.patched)) := by
  rw [execNest, State.issue_reading s [d] [(a, ta)] _ hd ha free]
  have low : fieldOf (s.val a) 0 5 ≠ 0 := by simpa [fieldOf, bitsAt] using h
  simp only [unclaimed, low, Bool.false_eq_true, ↓reduceIte, ne_eq, not_false_eq_true, State.fail_traps _ _ _ _ _ _ traps,
    State.labelsOf_one, label_or_zero]
  rfl

/-- The four words of a descriptor in the gang's Pan are asked for. -/
theorem execNest_asks {n pa : Nat} {l : Label} (home : n = s.t.ident.pan) (aligned : (s.val a).toNat % 32 = 0)
    (own : ownPan s (s.val a) n pa l true true) : ∃ off s',
    let made := s.newFill [d] 4 (s.joined [a] ||| l) (s.lbl a ||| l) (.nest (namedVa n off) (s.lbl a)) false false
    execNest d a ta tb s = .next (s'.goOn false 4) ∧ made.2.Sends s' ∧
      ∀ k, k < 4 → AtBank made.2 s' (.loadWord k) n (pa + 8 * k) 0 := by
  obtain ⟨-, -, off, named, -⟩ := id own
  refine ⟨off, _, ?_, State.sendWords_direct (x := ⟨.pan n pa, l, l, false⟩) rfl 0 (s.val a) s.time.next MemOp.loadWord 4 4⟩
  rw [execNest, State.issue_reading s [d] [(a, ta)] _ hd ha free]
  have low : fieldOf (s.val a) 0 5 = 0 := by simpa [fieldOf, bitsAt] using aligned
  simp only [unclaimed, low, named, Thread.gangPan, home, State.returning_own own, Bool.false_eq_true, ↓reduceIte, ne_eq,
    not_true_eq_false]
  rfl

end Nest

/-! ## Fields of NESTSTATE (R131) -/

theorem fieldOf_eq_mod_div (x : Word) {a b : Nat} (h : a ≤ b) : x.toNat % 2 ^ b / 2 ^ a = fieldOf x a (b - a) := by
  rw [fieldOf, bitsAt, ← Nat.mod_mul_right_div_self, ← Nat.pow_add, Nat.add_sub_cancel' h]

theorem fieldOf_putField_same (x : Word) {lo n : Nat} (v : Nat) (h : lo + n ≤ 64) : fieldOf (putField x lo n v) lo n = v % 2 ^ n := by
  refine Nat.eq_of_testBit_eq fun i => ?_
  rw [testBit_fieldOf, Nat.testBit_mod_two_pow]
  by_cases hi : i < n
  · rw [getLsbD_putField _ _ _ _ (by omega), if_pos (by omega), Nat.add_sub_cancel_left]
  · simp [hi]

/-- A field that ends before the one that is replaced, or begins after it, stays. -/
theorem fieldOf_putField_apart (x : Word) {lo n lo' n' : Nat} (v : Nat) (apart : lo' + n' ≤ lo ∨ lo + n ≤ lo') (h : lo' + n' ≤ 64) :
    fieldOf (putField x lo n v) lo' n' = fieldOf x lo' n' := by
  refine Nat.eq_of_testBit_eq fun i => ?_
  rw [testBit_fieldOf, testBit_fieldOf]
  by_cases hi : i < n'
  · rw [getLsbD_putField _ _ _ _ (by omega), if_neg (by omega)]
  · simp [hi]

theorem twoPow_eq_pow (k : Nat) : BitVec.twoPow 64 k = (2 ^ k : Word) := by
  refine BitVec.eq_of_toNat_eq ?_
  rw [BitVec.toNat_twoPow, BitVec.toNat_pow]
  rfl

/-- A bit is set. -/
theorem putField_one (x : Word) {lo : Nat} (h : lo < 64) : putField x lo 1 1 = x ||| 2 ^ lo := by
  rw [← twoPow_eq_pow]
  refine BitVec.eq_of_getLsbD_eq fun i hi => ?_
  rw [getLsbD_putField _ _ _ _ hi, BitVec.getLsbD_or, BitVec.getLsbD_twoPow]
  by_cases here : i = lo
  · simp [here, h]
  · rw [if_neg (by omega)]
    simp [Ne.symm here]

theorem Thread.nestWord_setNest (t : Thread) {k : Nat} (j : Nat) (v : Word) (h : k < t.ctl.nest.length) :
    (t.setNest k v).nestWord j = if j = k then v else t.nestWord j := by
  by_cases here : j = k
  · subst here
    simp [Thread.setNest, Thread.nestWord, List.getD_eq_getElem?_getD, h]
  · simp [Thread.setNest, Thread.nestWord, List.getD_eq_getElem?_getD, here, List.getElem?_set_ne (Ne.symm here)]

/-! ## The indices of an iteration (R134) -/

theorem Thread.reg_write (t : Thread) (r q : Reg) (v : Word) (l : Label) :
    (t.write r v l).reg q = if q = r ∧ r ≠ 0 then ⟨v, true, false, l⟩ else t.reg q := by
  by_cases zero : r = 0
  · simp [zero]
  · by_cases here : q = r
    · rw [here, Thread.reg_write_same _ _ _ _ zero, if_pos ⟨rfl, zero⟩]
    · rw [Thread.reg_write_other _ _ _ _ _ here, if_neg fun h => here h.1]

theorem Thread.write_only (t : Thread) (r : Reg) (v : Word) (l : Label) : ∃ rs, t.write r v l = { t with regs := rs } := by
  unfold Thread.write Thread.setReg
  split
  · exact ⟨t.regs, rfl⟩
  · exact ⟨_, rfl⟩

/-- Of a thread that is given an iteration only registers change. -/
theorem Thread.unpackNest_only (t : Thread) (d : Reg) (i : Nat) (l : Label) : ∃ rs, t.unpackNest d i l = { t with regs := rs } := by
  have more {u : Thread} (h : ∃ rs, u = { t with regs := rs }) (r : Reg) (v : Word) : ∃ rs, u.write r v l = { t with regs := rs } := by
    obtain ⟨rs, rfl⟩ := h
    obtain ⟨rs', h'⟩ := Thread.write_only { t with regs := rs } r v l
    exact ⟨rs', h'⟩
  exact more (more (more (more (more ⟨t.regs, rfl⟩ _ _) _ _) _ _) _ _) _ _

/-- Where the iteration number of a nest with some extents, and d, find their places. -/
structure Thread.Unpacked (t u : Thread) (d : Reg) (i : Nat) (l : Label) : Prop where
  given : d ≠ 0 → u.reg d = ⟨1, true, false, l⟩
  first : u.reg 28 = ⟨BitVec.ofNat 64 (i % t.extent 0), true, false, l⟩
  second : u.reg 29 = ⟨BitVec.ofNat 64 (i / t.extent 0 % t.extent 1), true, false, l⟩
  third : u.reg 30 = ⟨BitVec.ofNat 64 (i / (t.extent 0 * t.extent 1) % t.extent 2), true, false, l⟩
  fourth : u.reg 31 = ⟨BitVec.ofNat 64 (i / (t.extent 0 * t.extent 1 * t.extent 2)), true, false, l⟩
  others : ∀ r, r ∉ [d, 28, 29, 30, 31] → u.reg r = t.reg r

theorem Thread.unpackNest_spec (t : Thread) {d : Reg} (low : d.val < 28) (i : Nat) (l : Label) :
    t.Unpacked (t.unpackNest d i l) d i l := by
  have apart (k : Reg) (h : 28 ≤ k.val) : k ≠ d := fun e => by subst e; omega
  have d28 := apart 28 (by decide)
  have d29 := apart 29 (by decide)
  have d30 := apart 30 (by decide)
  have d31 := apart 31 (by decide)
  have at_ (r : Reg) : (t.unpackNest d i l).reg r = if r = d ∧ d ≠ 0 then ⟨1, true, false, l⟩ else
      if r = 31 then ⟨BitVec.ofNat 64 (i / (t.extent 0 * t.extent 1 * t.extent 2)), true, false, l⟩ else
      if r = 30 then ⟨BitVec.ofNat 64 (i / (t.extent 0 * t.extent 1) % t.extent 2), true, false, l⟩ else
      if r = 29 then ⟨BitVec.ofNat 64 (i / t.extent 0 % t.extent 1), true, false, l⟩ else
      if r = 28 then ⟨BitVec.ofNat 64 (i % t.extent 0), true, false, l⟩ else t.reg r := by
    simp only [Thread.unpackNest, Thread.reg_write]
    simp
  constructor
  · intro nonzero
    rw [at_, if_pos ⟨rfl, nonzero⟩]
  · rw [at_, if_neg fun h => d28 h.1]; rfl
  · rw [at_, if_neg fun h => d29 h.1]; rfl
  · rw [at_, if_neg fun h => d30 h.1]; rfl
  · rw [at_, if_neg fun h => d31 h.1]; rfl
  · intro r hr
    simp only [List.mem_cons, List.not_mem_nil, or_false, not_or] at hr
    obtain ⟨h0, h1, h2, h3, h4⟩ := hr
    simp [at_, h0, h1, h2, h3, h4]

/-! ## next (R134) -/

theorem fieldOf_low (x : Word) {n : Nat} : fieldOf x 0 n = x.toNat % 2 ^ n := by
  rw [fieldOf, bitsAt, Nat.pow_zero, Nat.div_one]

/-- The registers that `next` writes. -/
def nextDests (d : Reg) : List Reg := [d, 28, 29, 30, 31]

/-- The thread that `next` leaves within its chunk. -/
def State.nextTaken (s : State) (d : Reg) (cur : Nat) : Thread :=
  ((s.t.setNest 2 (putField (s.t.nestWord 2) 0 48 (cur + 1))).unpackNest d cur (s.joined [] ||| s.nestPageLabel)).joinClabel s.nestPageLabel

theorem Thread.extent_setNest (t : Thread) (v : Word) (k : Nat) : (t.setNest 2 v).extent k = t.extent k := by
  simp [Thread.extent, Thread.nestWord, Thread.setNest, List.getD_eq_getElem?_getD]

/-- The thread has the indices of the iteration in its registers, and CUR rises by 1. -/
theorem State.nextTaken_spec (s : State) {d : Reg} (low : d.val < 28) (cur : Nat) :
    s.t.Unpacked (s.nextTaken d cur) d cur (s.joined [] ||| s.nestPageLabel) := by
  have unpacked := Thread.unpackNest_spec (s.t.setNest 2 (putField (s.t.nestWord 2) 0 48 (cur + 1))) low cur
    (s.joined [] ||| s.nestPageLabel)
  obtain ⟨given, first, second, third, fourth, others⟩ := unpacked
  simp only [Thread.extent_setNest] at first second third fourth
  exact ⟨given, first, second, third, fourth, others⟩

/-- Besides registers only NESTSTATE2 and CLABEL change. -/
theorem State.nextTaken_only (s : State) (d : Reg) (cur : Nat) : ∃ rs,
    s.nextTaken d cur =
      ({ s.t with regs := rs }.setNest 2 (putField (s.t.nestWord 2) 0 48 (cur + 1)) : Thread).joinClabel s.nestPageLabel := by
  obtain ⟨rs, only⟩ := Thread.unpackNest_only (s.t.setNest 2 (putField (s.t.nestWord 2) 0 48 (cur + 1))) d cur
    (s.joined [] ||| s.nestPageLabel)
  exact ⟨rs, by rw [State.nextTaken, only]; rfl⟩

section Next
variable {s : State} {d : Reg} (ta tb : Bool) (hd : s.writable (nextDests d))
include hd

theorem State.issue_next {k : State → Result} : s.issue { Uses.none with dests := nextDests d } k = k s :=
  State.issue_scalar s (nextDests d) [] k hd (by simp [State.readable])

theorem execNext_without_nest (invalid : s.t.nestValid = false) : execNext d ta tb s = .next (s.wrote d 0 [] 4) := by
  rw [execNext, ← nextDests, State.issue_next hd]
  simp only [invalid, Bool.not_false, ↓reduceIte, State.write_retire]

theorem execNext_within (valid : s.t.nestValid = true) (more : fieldOf (s.t.nestWord 2) 0 48 < fieldOf (s.t.nestWord 3) 0 48) :
    execNext d ta tb s = .next ({ s with t := s.nextTaken d (fieldOf (s.t.nestWord 2) 0 48) }.retire 4) := by
  rw [execNext, ← nextDests, State.issue_next hd]
  simp only [valid, Bool.not_true, Bool.false_eq_true, ↓reduceIte, more]
  rfl

/-- The request of a claim: the number of iterations, the divisor of the remainder, and the least chunk. -/
def Thread.claimOp (t : Thread) : MemOp :=
  .claimNest t.nestTotal ((fieldOf (t.nestWord 3) 56 4 + 1) * (fieldOf (t.nestWord 2) 48 14 + 1)) (max 1 (fieldOf (t.nestWord 3) 48 8))

/-- The state from which a claim is sent: its result is outstanding, and CLAIMING set. -/
def State.claimMade (s : State) (d : Reg) (l : Label) : State :=
  let made := (s.newFill (nextDests d) 2 (s.joined [] ||| l) l .claim true false).2
  { made with t := made.t.setNest 2 (putField (made.t.nestWord 2) 62 1 1) }

theorem execNext_claims {n pa : Nat} {l : Label} (free : s.acquireHeld = false) (valid : s.t.nestValid = true)
    (none_left : fieldOf (s.t.nestWord 3) 0 48 ≤ fieldOf (s.t.nestWord 2) 0 48)
    (own : ownPan s (BitVec.ofNat 64 (fieldOf (s.t.nestWord 0) 0 56)) n pa l true true) (allowed : labelLe (s.joined []) l = true) :
    execNext d ta tb s = .next (((s.claimMade d l).send s.t.claimOp ⟨.pan n pa, l, l, false⟩
      (BitVec.ofNat 64 (fieldOf (s.t.nestWord 0) 0 56)) ((s.claimMade d l).joined []) .direct false (some s.time.next) 8).2.goOn true 4) := by
  rw [execNext, ← nextDests, State.issue_next hd]
  simp only [valid, Bool.not_true, Bool.false_eq_true, ↓reduceIte, Nat.not_lt.mpr none_left, free, State.returning_own own,
    State.resultLabel_eq, allowed, State.proxyLegs_direct]
  rfl

end Next

/-- Of the thread only registers and NESTSTATE2 change by a claim. -/
theorem State.claimMade_t (s : State) (d : Reg) (l : Label) : ∃ rs,
    (s.claimMade d l).t = ({ s.t with regs := rs }.setNest 2 (putField (s.t.nestWord 2) 62 1 1) : Thread) ∧
      ∀ r : Reg, (s.claimMade d l).t.reg r = if r ∈ nextDests d ∧ r ≠ 0 then (s.t.reg r).emptied else s.t.reg r := by
  obtain ⟨rs, only⟩ := Thread.foldl_markEmpty_only (nextDests d) s.t
  refine ⟨rs, ?_, fun r => ?_⟩
  · simp only [State.claimMade, State.newFill_eq, only]
    rfl
  · simp only [State.claimMade, State.newFill_eq]
    exact Thread.reg_foldl_markEmpty (nextDests d) s.t r

theorem nestResults : Claims.NestResults := by
  intro s d a ta tb n pa l t cur e label
  refine ⟨fun hd ha free ready unclaimed home aligned own => ?_, fun hd ha free unclaimed misaligned traps =>
    execNest_align ta tb hd ha free unclaimed traps misaligned, fun hd invalid => execNext_without_nest ta tb hd invalid,
    fun hd low valid more four => ?_⟩
  · obtain ⟨off, s', asks, sent, words⟩ := execNest_asks ta tb hd ha free unclaimed home aligned own
    refine ⟨_, asks, ?_, ?_, fun k hk => (words k hk).goOn false⟩
    · have leaves := pendingOnly_goOn sent false
      rwa [if_neg Bool.false_ne_true, ready] at leaves
    · exact ⟨_, mem_fills_goOn sent false, rfl, rfl, rfl, rfl, rfl, rfl⟩
  · have now : cur = fieldOf (t.nestWord 2) 0 48 := (fieldOf_low _).symm
    have last : (t.nestWord 3).toNat % 2 ^ 48 = fieldOf (t.nestWord 3) 0 48 := (fieldOf_low _).symm
    rw [now, last] at more
    have within := execNext_within ta tb hd valid more
    rw [← now] at within
    obtain ⟨given, first, second, third, fourth, others⟩ := s.nextTaken_spec low cur
    obtain ⟨rs, only⟩ := s.nextTaken_only d cur
    have word : (s.nextTaken d cur).nestWord 2 = putField (t.nestWord 2) 0 48 (cur + 1) := by
      rw [only]
      exact (Thread.nestWord_setNest { t with regs := rs } 2 _ (by rw [four]; decide)).trans (if_pos rfl)
    have counted : fieldOf (putField (t.nestWord 2) 0 48 (cur + 1)) 0 48 = cur + 1 := by
      have bound : fieldOf (t.nestWord 3) 0 48 < 2 ^ 48 := Nat.mod_lt _ (by decide)
      rw [fieldOf_putField_same _ _ (by decide), Nat.mod_eq_of_lt (by omega)]
    refine ⟨_, within, ?_, rfl, rfl, given, first, second, third, fourth, fun r notd high => others r ?_, ?_⟩
    · simp only [State.retire, only]
      rfl
    · have apart (k : Reg) (h : 28 ≤ k.val) : r ≠ k := Fin.ne_of_lt (high.trans_le h)
      simp only [List.mem_cons, List.not_mem_nil, or_false, not_or]
      exact ⟨notd, apart 28 (by decide), apart 29 (by decide), apart 30 (by decide), apart 31 (by decide)⟩
    · rw [← fieldOf_low, ← counted, ← word]
      rfl

/-! ## The request of a claim (R134) -/

section Claim
variable {s : State} (d : Reg) (l : Label)

theorem State.claimMade_joined : (s.claimMade d l).joined [] = s.joined [] := by
  obtain ⟨rs, thread, -⟩ := s.claimMade_t d l
  simp only [State.joined, thread]
  rfl

/-- What a claim leaves whose request has been sent. -/
theorem claimSent {s' : State} (four : s.t.ctl.nest.length = 4) (sent : (s.claimMade d l).Sends s') :
    let r := s'.goOn true 4
    r.mem = s.mem ∧ r.t.pc = s.t.pc + 4 ∧ r.t.run = .reply ∧ r.t.ctl.clabel = s.t.ctl.clabel ∧
      (∀ k, r.t.nestWord k = if k = 2 then s.t.nestWord 2 ||| 2 ^ 62 else s.t.nestWord k) ∧
      (∀ q : Reg, r.t.reg q = if q ∈ nextDests d ∧ q ≠ 0 then (s.t.reg q).emptied else s.t.reg q) ∧
      s.fillFor (nextDests d) 2 (s.joined [] ||| l) l .claim true false ∈ r.fab.fills := by
  obtain ⟨rs, thread, emptied⟩ := s.claimMade_t d l
  have whole := sent.thread.trans thread
  rw [← sent.thread] at emptied
  refine ⟨sent.mem, ?_, rfl, ?_, fun k => ?_, emptied, ?_⟩
  · simp only [State.goOn, State.retire, whole, ↓reduceIte]
    rfl
  · simp only [State.goOn, State.retire, whole, ↓reduceIte]
    rfl
  · have word := Thread.nestWord_setNest { s.t with regs := rs } k (putField (s.t.nestWord 2) 62 1 1) (k := 2) (by rw [four]; decide)
    rw [← whole, putField_one _ (by decide)] at word
    exact word
  · have made : s.fillFor (nextDests d) 2 (s.joined [] ||| l) l .claim true false ∈ (s.claimMade d l).fab.fills := by
      simp only [State.claimMade, State.newFill_eq]
      exact List.mem_cons_self
    exact sent.fills ▸ made

theorem nextClaims {ta tb : Bool} {n pa : Nat} (hd : s.writable (nextDests d)) (free : s.acquireHeld = false)
    (valid : s.t.nestValid = true) (none_left : fieldOf (s.t.nestWord 3) 0 48 ≤ fieldOf (s.t.nestWord 2) 0 48)
    (four : s.t.ctl.nest.length = 4) (own : ownPan s (BitVec.ofNat 64 (fieldOf (s.t.nestWord 0) 0 56)) n pa l true true)
    (allowed : labelLe (s.joined []) l = true) :
    ∃ s', exec (.next d ta tb) s = .next s' ∧ s'.mem = s.mem ∧ s'.t.pc = s.t.pc + 4 ∧ s'.t.run = .reply ∧
      s'.t.ctl.clabel = s.t.ctl.clabel ∧ (∀ k, s'.t.nestWord k = if k = 2 then s.t.nestWord 2 ||| 2 ^ 62 else s.t.nestWord k) ∧
      (∀ q : Reg, s'.t.reg q = if q ∈ nextDests d ∧ q ≠ 0 then (s.t.reg q).emptied else s.t.reg q) ∧
      queued s s' s.t.claimOp n pa (s.joined []) ∧
      s.fillFor (nextDests d) 2 (s.joined [] ||| l) l .claim true false ∈ s'.fab.fills := by
  obtain ⟨sent, asked⟩ := State.send_direct (s := s.claimMade d l) (x := ⟨.pan n pa, l, l, false⟩) rfl s.t.claimOp
    (BitVec.ofNat 64 (fieldOf (s.t.nestWord 0) 0 56)) ((s.claimMade d l).joined []) false (some s.time.next) 8
  obtain ⟨rs, thread, -⟩ := s.claimMade_t d l
  have asks := execNext_claims ta tb hd free valid none_left own allowed
  rw [State.claimMade_joined] at asks sent asked
  obtain ⟨mem, pc, run, clabel, words, regs, made⟩ := claimSent d l four sent
  have cycle : (s.claimMade d l).time.cycle = s.time.cycle := by
    simp only [State.claimMade, State.newFill_eq]
  exact ⟨_, asks, mem, pc, run, clabel, words, regs,
    (asked.base (thread ▸ rfl) cycle).queued, made⟩

end Claim

/-! ## What a bank does besides the access itself (R208, R213, R217, R254, R343) -/

/-- The outstanding results, the waiters and all of memory but its correctable errors stay. -/
structure State.Keeps (s s' : State) : Prop where
  mem : ∃ soft, s'.mem = { s.mem with softWords := soft }
  fills : s'.fab.fills = s.fab.fills
  waiters : s'.fab.waiters = s.fab.waiters

namespace State.Keeps

theorem of_eq {s s' : State} (mem : s'.mem = s.mem) (fills : s'.fab.fills = s.fab.fills) (waiters : s'.fab.waiters = s.fab.waiters) :
    s.Keeps s' :=
  ⟨⟨s.mem.softWords, mem⟩, fills, waiters⟩

theorem refl (s : State) : s.Keeps s := of_eq rfl rfl rfl

theorem trans {s s1 s2 : State} (h1 : s.Keeps s1) (h2 : s1.Keeps s2) : s.Keeps s2 := by
  obtain ⟨soft, mem⟩ := h2.mem
  obtain ⟨soft1, mem1⟩ := h1.mem
  exact ⟨⟨soft, by rw [mem, mem1]⟩, h2.fills.trans h1.fills, h2.waiters.trans h1.waiters⟩

protected theorem foldl {α : Type} {f : State → α → State} (hf : ∀ (s : State) x, s.Keeps (f s x)) (l : List α) (s : State) :
    s.Keeps (l.foldl f s) := by
  induction l generalizing s with
  | nil => exact refl s
  | cons x l ih => exact (hf s x).trans (ih (f s x))

theorem scheduleOnce (s : State) (c : Nat) (i : Instr) : s.Keeps (s.scheduleOnce c i) :=
  of_eq (State.scheduleOnce_keep (π := State.mem) (fun _ _ => rfl) s c i)
    (State.scheduleOnce_keep (π := fun s => s.fab.fills) (fun _ _ => rfl) s c i)
    (State.scheduleOnce_keep (π := fun s => s.fab.waiters) (fun _ _ => rfl) s c i)

theorem modThread (s : State) (uid : Nat) (f : Thread → Thread) : s.Keeps (s.modThread uid f) :=
  of_eq (State.modThread_keep (π := State.mem) (fun _ _ _ => rfl) s uid f)
    (State.modThread_keep (π := fun s => s.fab.fills) (fun _ _ _ => rfl) s uid f)
    (State.modThread_keep (π := fun s => s.fab.waiters) (fun _ _ _ => rfl) s uid f)

theorem readJoins (s : State) (a : Acc) : s.Keeps (s.readJoins a) := modThread s _ _

theorem unhold (s : State) (a : Acc) : s.Keeps (s.unhold a) := by
  unfold State.unhold
  dsimp only
  split
  · refine trans ?_ (scheduleOnce ..)
    exact of_eq rfl rfl rfl
  · exact of_eq rfl rfl rfl

theorem releaseHeld (s : State) : s.Keeps s.releaseHeld :=
  Keeps.foldl (fun s a => by split <;> [exact refl s; exact unhold s a]) _ s

theorem applied (s : State) (x z num : Nat) : s.Keeps (s.applied x z num) := by
  unfold State.applied
  refine trans (trans ?_ (Keeps.foldl (fun s y => ?_) _ _)) (releaseHeld _) <;> exact of_eq rfl rfl rfl

theorem markApplied (s : State) (a : Acc) : s.Keeps (s.markApplied a) := by
  unfold State.markApplied
  dsimp only
  split
  · exact refl s
  · exact applied s ..

theorem markNow (s : State) (a : Acc) : s.Keeps (s.markNow a) := by
  unfold State.markNow
  split
  · exact refl s
  · exact markApplied s a

theorem finishAcc (s : State) (a : Acc) : s.Keeps (s.finishAcc a) := by
  have released (s : State) : s.Keeps (if s.fab.accs.any fun b => b.state == .held then s.releaseHeld else s) := by
    split <;> [exact releaseHeld s; exact refl s]
  unfold State.finishAcc
  dsimp only
  refine trans ?_ (released _)
  refine trans ?_ (markApplied _ a)
  refine trans (modThread s a.uid fun t => { t with lastPerf := s.time.cycle }) ?_
  split
  · exact of_eq rfl rfl rfl
  · split
    · refine trans ?_ (modThread ..)
      exact of_eq rfl rfl rfl
    · exact of_eq rfl rfl rfl

theorem correctWord (s : State) (part gang : Nat) (reads : Bool) (l : Loc) : s.Keeps (s.correctWord part gang reads l) := by
  unfold State.correctWord
  split
  · exact refl s
  · dsimp only
    split
    · exact refl s
    · split <;> exact ⟨⟨_, rfl⟩, rfl, rfl⟩

theorem correct (s : State) (a : Acc) : s.Keeps (s.correct a) := by
  unfold State.correct
  dsimp only
  split
  · exact refl s
  · exact Keeps.foldl (fun s l => correctWord s ..) _ s

end State.Keeps

theorem State.countMerge_pan {s : State} {a : Acc} {n pa : Nat} (place : a.loc = .pan n pa) : s.countMerge a = s := by
  simp only [State.countMerge, place]

/-! ## A bank that has one request (R208 to R211) -/

/-- A round-robin reaches the only member that asks. -/
theorem roundRobin_only {n i : Nat} (pointer : Nat) {p : Nat → Bool} (lt : i < n) (asks : p i = true)
    (only : ∀ j, p j = true → j = i) : roundRobin n pointer p = some i := by
  have reached : (pointer + (i + n - pointer % n) % n) % n = i := by
    have whole := Nat.div_add_mod pointer n
    have small := Nat.mod_lt pointer (Nat.zero_lt_of_lt lt)
    calc (pointer + (i + n - pointer % n) % n) % n
        = (pointer + (i + n - pointer % n)) % n := Nat.add_mod_mod ..
      _ = (i + n * (pointer / n + 1)) % n := by rw [Nat.mul_succ]; congr 1; omega
      _ = i := by rw [Nat.add_mul_mod_self_left, Nat.mod_eq_of_lt lt]
  cases found : roundRobin n pointer p with
  | none =>
    have none_asks := List.find?_eq_none.mp found i
      (List.mem_map.mpr ⟨_, List.mem_range.mpr (Nat.mod_lt _ (Nat.zero_lt_of_lt lt)), reached⟩)
    exact absurd asks none_asks
  | some j => rw [only j (List.find?_some found)]

theorem presented_single (b : Bank) {a : Acc} (trellis : a.trellis < 128) (source : a.source < 16) (i : Nat) :
    presented b [a] i = if a.input = i then some a else none := by
  by_cases here : a.input = i
  · have lane := roundRobin_only (rrGet b.lanes i) (p := fun t => [a].any fun a => a.trellis = t) trellis (by simp) (by simp)
    have uplink := roundRobin_only (rrGet b.uplinks a.trellis) (p := fun k => [a].any fun x => x.trellis = a.trellis && x.source = k)
      source (by simp) (by simp)
    have mine : [a].filter (fun a => a.input = i) = [a] := by simp [here]
    simp only [presented, mine, lane, uplink, if_pos here]
    simp
  · have mine : [a].filter (fun a => a.input = i) = [] := by simp [here]
    simp only [presented, mine, if_neg here]
    split
    · rfl
    · have none_asks : roundRobin 128 (rrGet b.lanes i) (fun t => [].any fun (a : Acc) => a.trellis = t) = none :=
        List.find?_eq_none.mpr (by simp)
      rw [none_asks]

/-- The request is granted: it is performed at once, and what it waited is counted. -/
theorem State.arbitrate_alone {s : State} {a : Acc} {n pa : Nat} (h : alone s a n pa) (writes : s.plainRead a = false)
    (single : a.op.isPair = false) :
    ∃ b, s.arbitrate n (bankOf pa) = ((s.setBank b).countWait a).perform a (fillDelay a.klass) := by
  obtain ⟨place, queue, found, due, idle, unpaired, upper, input, trellis, source, free, -, -⟩ := h
  have here : (s.bank n (bankOf pa)).queue.filterMap s.acc? = [a] := by simp [queue, found]
  have alone_before : a.dequeBefore a = false ∧ a.heldBefore a = false := by simp [Acc.dequeBefore, Acc.heldBefore]
  have first (p : Nat) (b : Bank) : (roundRobin 40 p fun i => (presented b [a] i).isSome).bind (presented b [a]) = some a := by
    rw [roundRobin_only (i := a.input) p input (by simp [presented_single b trellis source])
      fun j asks => by_contra fun other => by simp [presented_single b trellis source, Ne.symm other] at asks]
    simp [presented_single b trellis source]
  have granted (b : Bank) : (s.setBank b).grant a.id = ((s.setBank b).countWait a).perform a (fillDelay a.klass) := by
    have still : (s.setBank b).acc? a.id = some a := found
    simp only [State.grant, still]
  rw [State.arbitrate]
  simp only [unpaired, Nat.not_lt.mpr idle, upper, here, free, due, decide_true, decide_false, Bool.and_false, Bool.or_false,
    Bool.false_eq_true, ↓reduceIte, List.filter_cons, List.filter_nil, List.foldl_nil, List.any_nil, List.any_cons, Bool.not_false,
    Bool.and_true, alone_before, first, writes, single, List.foldl_cons, ne_eq, not_true_eq_false, List.isEmpty_nil, granted]
  exact ⟨_, rfl⟩

/-! ## The bytes of a number (R4, R203) -/

theorem length_natBytes (n v : Nat) : (natBytes n v).length = n := by
  induction n generalizing v with
  | zero => rfl
  | succ n ih => rw [natBytes, List.length_cons, ih]

theorem natBytes_getElem {n j : Nat} (v : Nat) (h : j < (natBytes n v).length) : (natBytes n v)[j] = BitVec.ofNat 8 (v / 2 ^ (8 * j)) := by
  induction n generalizing v j with
  | zero => exact absurd h (Nat.not_lt_zero j)
  | succ n ih =>
    cases j with
    | zero => simp [natBytes]
    | succ j =>
      simp only [natBytes, List.getElem_cons_succ, ih]
      rw [Nat.div_div_eq_div_mul, Nat.mul_succ, Nat.pow_add, Nat.mul_comm (2 ^ (8 * j))]

/-- A number that is read has the bytes that stand there. -/
theorem byte_cellsRead (m : List Host.Cell) (a : Nat) {n j : Nat} (h : j < n) :
    BitVec.ofNat 8 (cellsRead m a n / 2 ^ (8 * j)) = cellGet m (a + j) := by
  induction n generalizing a j with
  | zero => exact absurd h (Nat.not_lt_zero j)
  | succ n ih =>
    have byte := (cellGet m a).isLt
    cases j with
    | zero =>
      refine BitVec.eq_of_toNat_eq ?_
      simp only [cellsRead, Nat.mul_zero, Nat.pow_zero, Nat.div_one, BitVec.toNat_ofNat, Nat.add_zero]
      omega
    | succ j =>
      rw [Nat.mul_succ, Nat.add_comm (8 * j), Nat.pow_add, ← Nat.div_div_eq_div_mul,
        show cellsRead m a (n + 1) / 2 ^ 8 = cellsRead m (a + 1) n by rw [cellsRead]; omega, ih (a + 1) (Nat.lt_of_succ_lt_succ h),
        Nat.add_right_comm, Nat.add_assoc]

/-- A Pan store whose bytes are written from a key up, in place of those of another state. -/
theorem onlyWrote_of_pan {s s' : State} {key n v : Nat} (hbm : s'.mem.hbm = s.mem.hbm) (lines : s'.mem.lines = s.mem.lines)
    (canonical : s.canonical) (pan : s'.mem.pan = cellsWrite s.mem.pan key (natBytes n v)) : onlyWrote s s' key n v := by
  have wf := ((Memory.wf_iff s.mem).mp canonical).2
  refine ⟨hbm, lines, fun k => ?_⟩
  rw [pan]
  split
  · next within =>
    obtain ⟨j, rfl⟩ := Nat.exists_eq_add_of_le within.1
    rw [cellGet_write wf _ (by rw [length_natBytes]; omega), natBytes_getElem, Nat.add_sub_cancel_left]
  · next outside => exact cellGet_write_other _ _ _ _ wf (by rw [length_natBytes]; omega)

/-- A Pan store as it was holds the numbers that it held. -/
theorem onlyWrote_of_same {s s' : State} (key n : Nat) (hbm : s'.mem.hbm = s.mem.hbm) (lines : s'.mem.lines = s.mem.lines)
    (pan : s'.mem.pan = s.mem.pan) : onlyWrote s s' key n (cellsRead s.mem.pan key n) := by
  refine ⟨hbm, lines, fun k => ?_⟩
  rw [pan]
  split
  · next within =>
    obtain ⟨j, rfl⟩ := Nat.exists_eq_add_of_le within.1
    rw [Nat.add_sub_cancel_left, byte_cellsRead _ _ (by omega)]
  · rfl

/-! ## The parts of a result (R73) -/

/-- A result one of whose parts has been performed. -/
def Fill.withPart (f : Fill) (i : Nat) (v : Word) : Fill := { f with vals := f.vals.set i v, parts := f.parts - 1 }

theorem State.deliver_part {s : State} {fid : Nat} {f : Fill} (hf : s.fill? fid = some f) (i : Nat) (v : Word) (delay : Nat) :
    let s' := s.deliver fid i v none delay
    s'.fill? fid = some (f.withPart i v) ∧ ∀ g ∈ s'.fab.fills, g.id = fid → g = f.withPart i v := by
  intro s'
  have err : (if f.err.isSome then f.err else none) = f.err := by cases f.err <;> rfl
  have number : f.id = fid := by simpa using List.find?_some hf
  have fills : s'.fab.fills = s.fab.fills.map fun x => if x.id = fid then f.withPart i v else x := by
    simp only [s', State.deliver, hf, Option.map_none, err]
    split <;> rfl
  have only : ∀ g ∈ s'.fab.fills, g.id = fid → g = f.withPart i v := fun g hg hid => by
    obtain ⟨x, -, rfl⟩ := List.mem_map.mp (fills ▸ hg)
    split
    · rfl
    · next other => exact absurd (by rwa [if_neg other] at hid) other
  refine ⟨?_, only⟩
  have there : f.withPart i v ∈ s'.fab.fills := fills ▸ List.mem_map.mpr ⟨f, List.mem_of_find?_eq_some hf, if_pos number⟩
  cases found : s'.fill? fid with
  | none => exact absurd (show (f.withPart i v).id = fid from number) (by simpa using List.find?_eq_none.mp found _ there)
  | some g => rw [only g (List.mem_of_find?_eq_some found) (by simpa using List.find?_some found)]

/-! ## The claim at the bank (R134) -/

theorem State.store_pan {s : State} (quiet : s.fab.waiters = []) (n pa v : Nat) :
    s.store (.pan n pa) 8 v = { s with mem := (s.mem.writeAt (.pan n pa) 8 v).healWord (.pan n pa) } := by
  simp [State.store, State.erasedAt, State.wake, quiet]

/-- The iterations that a claim takes of those that are left. -/
def chunkOf (total div least cur : Nat) : Nat :=
  if total ≤ cur then 0 else min (max least ((total - cur + div - 1) / div)) (total - cur)

/-- NEXT advances by the chunk, if there is one. -/
def State.advanced (s : State) (l : Loc) (c : Nat) : State := if c = 0 then s else s.store l 8 (s.mem.readAt l 8 + c)

section Perform
variable {s : State} {a : Acc} {n pa total div least fid : Nat} (place : a.loc = .pan n pa) (op : a.op = .claimNest total div least)
  (unposted : a.posted = false) (sound : s.mem.bad a.loc = false) (fill : a.fill = some fid)
include place op unposted sound fill

theorem State.perform_claimNest (d : Nat) : ∃ s1 delay a', s.Keeps s1 ∧
    s.perform a d =
      let cur := s1.mem.readAt a.loc 8
      let c := chunkOf total div least cur
      (((s1.advanced a.loc c).deliver fid 0 (BitVec.ofNat 64 cur) none delay).deliver fid 1 (BitVec.ofNat 64 c) none delay).finishAcc a' := by
  obtain ⟨s0, hs0⟩ : ∃ s0, s0 = (s.correct a).markNow a := ⟨_, rfl⟩
  have before : s.Keeps s0 := hs0 ▸ (State.Keeps.correct s a).trans (State.Keeps.markNow _ a)
  have reads (a : Acc) : (s0.readJoins a).mem = s0.mem := State.modThread_keep (π := State.mem) (fun _ _ _ => rfl) ..
  have good : s0.mem.bad a.loc = false := by
    obtain ⟨soft, mem⟩ := before.mem
    rw [mem, place]
    rwa [place] at sound
  have performed : ∃ a' delay, s.perform a d =
      let cur := (s0.readJoins a').mem.readAt a.loc 8
      let c := chunkOf total div least cur
      ((((s0.readJoins a').advanced a.loc c).deliver fid 0 (BitVec.ofNat 64 cur) none delay).deliver fid 1 (BitVec.ofNat 64 c) none
        delay).finishAcc a' := by
    simp only [State.perform, State.countMerge_pan place, ← hs0, unposted, good, op, fill, Bool.false_and, Bool.false_eq_true, ↓reduceIte,
      Bool.or_false, reads, State.advanced, chunkOf, decide_eq_true_eq]
    exact ⟨_, _, rfl⟩
  obtain ⟨a', delay, whole⟩ := performed
  exact ⟨_, delay, a', before.trans (State.Keeps.readJoins s0 a'), whole⟩

end Perform

theorem chunkOf_eq (total div least cur : Nat) :
    chunkOf total div least cur = min (total - cur) (max least ((total - cur + div - 1) / div)) := by
  unfold chunkOf
  split
  · next spent => rw [Nat.sub_eq_zero_of_le spent, Nat.zero_min]
  · exact Nat.min_comm ..

theorem State.advanced_fills {s : State} (quiet : s.fab.waiters = []) (n pa c : Nat) :
    (s.advanced (.pan n pa) c).fab.fills = s.fab.fills := by
  unfold State.advanced
  split
  · rfl
  · rw [State.store_pan quiet]

/-- NEXT holds where it stood and the chunk, and nothing else is written. -/
theorem State.advanced_wrote {s : State} (quiet : s.fab.waiters = []) (canonical : s.canonical) (n pa c : Nat) :
    onlyWrote s (s.advanced (.pan n pa) c) (panKey n pa) 8 (cellsRead s.mem.pan (panKey n pa) 8 + c) := by
  unfold State.advanced
  split
  · next none_taken =>
    rw [none_taken, Nat.add_zero]
    exact onlyWrote_of_same (panKey n pa) 8 rfl rfl rfl
  · have stands : s.mem.readAt (.pan n pa) 8 = cellsRead s.mem.pan (panKey n pa) 8 := rfl
    rw [State.store_pan quiet, stands]
    exact onlyWrote_of_pan rfl rfl canonical rfl

/-- The bank of a descriptor advances NEXT by the chunk, and answers where it stood and how much was taken. -/
theorem bankClaims {s : State} {a : Acc} {f : Fill} {n pa total div least : Nat} (canonical : s.canonical) (quiet : s.fab.waiters = [])
    (h : alone s a n pa) (op : a.op = .claimNest total div least) (fill : a.fill = some f.id)
    (hf : s.fill? f.id = some f) (two : f.parts = 2) (both : f.vals.length = 2) :
    let next := cellsRead s.mem.pan (panKey n pa) 8
    let c := min (total - next) (max least ((total - next + div - 1) / div))
    ∃ s', exec (.bankArbitration n (bankOf pa)) s = .next s' ∧ onlyWrote s s' (panKey n pa) 8 (next + c) ∧
      ∀ g ∈ s'.fab.fills, g.id = f.id → g.vals = [BitVec.ofNat 64 next, BitVec.ofNat 64 c] ∧ g.parts = 0 := by
  intro next c
  have place : a.loc = .pan n pa := h.1
  obtain ⟨b, granted⟩ := State.arbitrate_alone h (by simp [State.plainRead, op, MemOp.readsOnly]) (by simp [op, MemOp.isPair])
  obtain ⟨-, -, -, -, -, -, -, -, -, -, -, unposted, sound⟩ := h
  have waited : s.Keeps ((s.setBank b).countWait a) := State.Keeps.of_eq rfl rfl rfl
  obtain ⟨s1, delay, a', kept, performed⟩ := State.perform_claimNest (s := (s.setBank b).countWait a) place op unposted sound fill
    (fillDelay a.klass)
  obtain ⟨⟨soft, mem⟩, fills, waiters⟩ := waited.trans kept
  have there : s1.mem.readAt (.pan n pa) 8 = next := by rw [mem]; rfl
  have taken : chunkOf total div least next = c := chunkOf_eq total div least next
  simp only [place, there, taken] at performed
  have same : (s1.advanced (.pan n pa) c).fill? f.id = some f := by
    rw [State.fill?, State.advanced_fills (waiters.trans quiet), fills]
    exact hf
  obtain ⟨first, -⟩ := State.deliver_part same 0 (BitVec.ofNat 64 next) delay
  obtain ⟨-, answered⟩ := State.deliver_part first 1 (BitVec.ofNat 64 c) delay
  refine ⟨_, congrArg Host.Outcome.next (granted.trans performed), ?_, fun g hg number => ?_⟩
  · obtain ⟨soft2, mem2⟩ := (State.Keeps.finishAcc (((s1.advanced (.pan n pa) c).deliver f.id 0 (BitVec.ofNat 64 next) none delay).deliver
      f.id 1 (BitVec.ofNat 64 c) none delay) a').mem
    have wrote := State.advanced_wrote (waiters.trans quiet) (show s1.mem.wf = true by rw [mem]; exact canonical) n pa c
    simp only [onlyWrote, mem2, State.deliver_mem]
    simp only [onlyWrote, mem] at wrote
    exact wrote
  · rw [(State.Keeps.finishAcc _ a').fills] at hg
    rw [answered g hg number]
    obtain ⟨x, y, vals⟩ := List.length_eq_two.mp both
    exact ⟨by simp [Fill.withPart, vals], by simp [Fill.withPart, two]⟩

/-! ## The answer to a claim, and to nest (R73, R133, R134) -/

theorem Thread.reg_foldl_write (regs : List Reg) (t : Thread) (v : Word) (l : Label) (q : Reg) :
    (regs.foldl (fun (t : Thread) r => t.write r v l) t).reg q = if q ∈ regs ∧ q ≠ 0 then ⟨v, true, false, l⟩ else t.reg q := by
  induction regs generalizing t with
  | nil => simp
  | cons r regs ih =>
    rw [List.foldl_cons, ih, Thread.reg_write]
    by_cases zero : q = 0
    · simp [zero, eq_comm]
    · by_cases here : q = r
      · simp [here, here ▸ zero]
      · simp [here, zero]

theorem Thread.foldl_write_only (regs : List Reg) (t : Thread) (v : Word) (l : Label) :
    ∃ rs, regs.foldl (fun (t : Thread) r => t.write r v l) t = { t with regs := rs } := by
  induction regs generalizing t with
  | nil => exact ⟨t.regs, rfl⟩
  | cons r regs ih =>
    obtain ⟨one, first⟩ := t.write_only r v l
    obtain ⟨all, rest⟩ := ih (t.write r v l)
    exact ⟨all, by rw [List.foldl_cons, rest, first]⟩

@[simp] theorem Thread.length_setNest (t : Thread) (k : Nat) (v : Word) : (t.setNest k v).ctl.nest.length = t.ctl.nest.length := by
  simp [Thread.setNest]

section Answer
variable {s : State} {f : Fill} (found : s.fill? f.id = some f) (own : f.uid = s.t.ident.uid) (sound : f.err = none)
  (wanted : f.discard = false) (resumes : f.resume = true) (stays : f.advance = false) (waits : s.t.run = .reply)

/-- A thread that waited for its result takes it, and is in rotation again. -/
def Thread.back (t : Thread) : Thread := { t with run := .ready, transit := none }

include sound resumes stays in
theorem Thread.filled_claim (t : Thread) (kind : f.kind = .claim) (run : (t.takeChunk f).run = .reply) :
    t.filled f = (t.takeChunk f).back := by
  rw [Thread.filled, kind]
  dsimp only
  rw [sound, stays, resumes]
  simp only [Bool.false_and, Bool.false_eq_true, ↓reduceIte, run]
  rfl

include sound resumes stays in
theorem Thread.filled_nest (t : Thread) {desc : Word} {joins : Label} (kind : f.kind = .nest desc joins)
    (run : (t.openNest f desc).run = .reply) : t.filled f = (t.openNest f desc).back := by
  rw [Thread.filled, kind]
  dsimp only
  rw [sound, stays, resumes]
  simp only [Bool.false_and, Bool.false_eq_true, ↓reduceIte, run]
  rfl

/-- No result of a census ends the wait of a thread that is in rotation. -/
theorem State.cwaitDone_ready {s : State} {uid : Nat} (own : uid = s.t.ident.uid) (ready : s.t.run = .ready) : s.cwaitDone uid = s := by
  unfold State.cwaitDone
  dsimp only
  split
  · rfl
  · rw [State.modThread, if_pos own.symm, Thread.endCwait, ready]

include found own wanted waits in
/-- The result of a nest reaches its thread and leaves the fabric. -/
theorem execResultFill_nest (kind : f.kind = .claim ∨ ∃ desc joins, f.kind = .nest desc joins) {u : Thread}
    (filled : s.t.filled f = u.back) (ident : u.ident = s.t.ident) : execResultFill f.id s = .next { s.dropFill f.id with t := u.back } := by
  have thread : s.thread f.uid = some s.t := if_pos own.symm
  have dropped : (s.dropFill f.id).thread f.uid = some s.t := thread
  obtain ⟨r, hr⟩ : ∃ r : State, r = { s.dropFill f.id with t := u.back } := ⟨_, rfl⟩
  have gone : (s.dropFill f.id).modThread f.uid (fun t => t.filled f) = r := by
    rw [State.modThread, if_pos (show (s.dropFill f.id).t.ident.uid = f.uid from own.symm), hr]
    exact congrArg (fun t => { s.dropFill f.id with t := t }) filled
  have done : r.cwaitDone f.uid = r := by
    rw [hr]
    exact State.cwaitDone_ready (own.trans (congrArg Ident.uid ident).symm) rfl
  rw [← hr]
  rcases kind with kind | ⟨desc, joins, kind⟩ <;>
    simp [execResultFill, found, thread, dropped, waits, kind, FillKind.atUnit, FillKind.isTask, wanted, gone, done]

end Answer

/-! ## The answer to a claim (R134) -/

/-- A thread whose claim has been answered. -/
def Thread.unclaimed (t : Thread) (join : Label) : Thread := (t.joinClabel join).setNest 2 (putField (t.nestWord 2) 62 1 0)

/-- A thread whose nest has no iteration left. -/
def Thread.nestEnded (t : Thread) (join : Label) : Thread :=
  (t.unclaimed join).setNest 0 (putField ((t.unclaimed join).nestWord 0) 63 1 0)

/-- A thread that has a chunk of n iterations from i on, of which it takes the first. -/
def Thread.chunked (t : Thread) (join : Label) (i n : Nat) : Thread :=
  let u := (t.unclaimed join).setNest 2 (putField ((t.unclaimed join).nestWord 2) 0 48 (i + 1))
  u.setNest 3 (putField (u.nestWord 3) 0 48 (i + n))

section Chunk
variable {t : Thread} {f : Fill} {d : Reg} (sound : f.err = none) (regs : f.regs = nextDests d) (four : t.ctl.nest.length = 4)

include sound regs in
theorem Thread.takeChunk_none (empty : (f.vals.getD 1 0).toNat = 0) :
    t.takeChunk f = (nextDests d).foldl (fun (u : Thread) r => u.write r 0 (f.label ||| (t.ctl.clabel ||| f.join)))
      (t.nestEnded f.join) := by
  simp only [Thread.takeChunk, sound, regs, empty, Option.isSome_none, Bool.false_eq_true, ↓reduceIte]
  rfl

include sound regs in
theorem Thread.takeChunk_some (some_ : (f.vals.getD 1 0).toNat ≠ 0) :
    t.takeChunk f = (t.chunked f.join (f.vals.getD 0 0).toNat (f.vals.getD 1 0).toNat).unpackNest d (f.vals.getD 0 0).toNat
      (f.label ||| (t.ctl.clabel ||| f.join)) := by
  simp only [Thread.takeChunk, sound, regs, some_, Option.isSome_none, Bool.false_eq_true, ↓reduceIte]
  rfl

include four

theorem Thread.nestWord_unclaimed (join : Label) (k : Nat) :
    (t.unclaimed join).nestWord k = if k = 2 then putField (t.nestWord 2) 62 1 0 else t.nestWord k :=
  Thread.nestWord_setNest (t.joinClabel join) k _ (show 2 < t.ctl.nest.length by omega)

theorem Thread.nestWord_nestEnded (join : Label) (k : Nat) :
    (t.nestEnded join).nestWord k = if k = 0 then putField (t.nestWord 0) 63 1 0 else if k = 2 then putField (t.nestWord 2) 62 1 0
      else t.nestWord k := by
  rw [Thread.nestEnded, Thread.nestWord_setNest _ _ _ (by rw [Thread.unclaimed, Thread.length_setNest]; exact four ▸ by decide),
    Thread.nestWord_unclaimed four, Thread.nestWord_unclaimed four]
  rfl

theorem Thread.nestWord_chunked (join : Label) (i n k : Nat) :
    (t.chunked join i n).nestWord k = if k = 3 then putField (t.nestWord 3) 0 48 (i + n) else
      if k = 2 then putField (putField (t.nestWord 2) 62 1 0) 0 48 (i + 1) else t.nestWord k := by
  have length : (t.unclaimed join).ctl.nest.length = 4 := (Thread.length_setNest ..).trans four
  rw [Thread.chunked, Thread.nestWord_setNest _ _ _ (by rw [Thread.length_setNest, length]; decide),
    Thread.nestWord_setNest _ _ _ (by rw [length]; decide), Thread.nestWord_setNest _ _ _ (by rw [length]; decide),
    Thread.nestWord_unclaimed four, Thread.nestWord_unclaimed four, Thread.nestWord_unclaimed four]
  split
  · rfl
  · split <;> rfl

end Chunk

/-! ## The answer to nest (R133) -/

/-- A doubleword of a descriptor that has been read. -/
def Fill.word (f : Fill) (k : Nat) : Word := f.vals.getD k 0

/-- The number of iterations that a descriptor gives. -/
def Fill.total (f : Fill) : Nat :=
  fieldOf (f.word 1) 0 16 * fieldOf (f.word 1) 16 16 * fieldOf (f.word 1) 32 16 * fieldOf (f.word 1) 48 16

/-- What has been read is a nest descriptor (R131). -/
def Fill.describes (f : Fill) : Prop :=
  fieldOf (f.word 2) 14 2 = 0 ∧ fieldOf (f.word 2) 28 36 = 0 ∧ f.word 3 = 0 ∧ f.total < 2 ^ 48

/-- NESTSTATE of the nest that a descriptor opens. -/
def Fill.opened (f : Fill) (desc : Word) : List Word :=
  [desc ||| 2 ^ 63, f.word 1, BitVec.ofNat 64 (fieldOf (f.word 2) 0 14 * 2 ^ 48),
    BitVec.ofNat 64 (fieldOf (f.word 2) 16 8 * 2 ^ 48 + fieldOf (f.word 2) 24 4 * 2 ^ 56)]

/-- A thread that has joined a label and holds other words of NESTSTATE. -/
def Thread.withNest (t : Thread) (join : Label) (words : List Word) : Thread :=
  { t with ctl := { t.ctl with clabel := t.ctl.clabel ||| join, nest := words } }

section Open
variable {t : Thread} {f : Fill} {d : Reg} (regs : f.regs = [d]) (desc : Word)
include regs

theorem Thread.openNest_descriptor (four : t.ctl.nest.length = 4) (good : f.describes) :
    t.openNest f desc = (t.withNest f.join (f.opened desc)).write d
      (BitVec.ofNat 64 f.total) (f.label ||| (t.ctl.clabel ||| f.join)) := by
  obtain ⟨low, high, last, few⟩ := good
  have pass : ¬ (fieldOf (f.word 2) 14 2 ≠ 0 ∨ fieldOf (f.word 2) 28 36 ≠ 0 ∨ f.word 3 ≠ 0 ∨ 2 ^ 48 ≤ f.total) := by
    simp only [low, high, last, ne_eq, not_true_eq_false, false_or, Nat.not_le.mpr few, not_false_eq_true]
  obtain ⟨w0, w1, w2, w3, nest⟩ := List.length_eq_four.mp four
  rw [Thread.openNest, regs]
  refine (if_neg pass).trans ?_
  rw [putField_one _ (by decide)]
  simp only [Thread.setNest, Thread.joinClabel, nest, List.set]
  rfl

theorem Thread.openNest_other (bad : ¬ f.describes) :
    t.openNest f desc = (t.withNest f.join (t.ctl.nest.set 0 (putField (t.nestWord 0) 63 1 0))).write d (-1)
      (f.label ||| (t.ctl.clabel ||| f.join)) := by
  have fails : fieldOf (f.word 2) 14 2 ≠ 0 ∨ fieldOf (f.word 2) 28 36 ≠ 0 ∨ f.word 3 ≠ 0 ∨ 2 ^ 48 ≤ f.total := by
    by_contra h
    simp only [not_or, ne_eq, not_not, Nat.not_le] at h
    exact bad h
  rw [Thread.openNest, regs]
  exact if_pos fails

end Open

section Answered
variable {s : State} {f : Fill} (found : s.fill? f.id = some f) (own : f.uid = s.t.ident.uid) (sound : f.err = none)
  (wanted : f.discard = false) (resumes : f.resume = true) (stays : f.advance = false) (waits : s.t.run = .reply)
include found own sound wanted resumes stays waits

section
variable {d : Reg} (kind : f.kind = .claim) (regs : f.regs = nextDests d) (four : s.t.ctl.nest.length = 4)
include kind regs four

/-- A claim that finds no iteration left ends the nest and gives 0 everywhere. -/
theorem claimEnds (empty : (f.vals.getD 1 0).toNat = 0) :
    ∃ s', exec (.resultFill f.id) s = .next s' ∧ s'.mem = s.mem ∧ s'.t.run = .ready ∧ s'.t.pc = s.t.pc ∧
      s'.t.ctl.clabel = s.t.ctl.clabel ||| f.join ∧
      (∀ k, s'.t.nestWord k = if k = 0 then putField (s.t.nestWord 0) 63 1 0 else if k = 2 then putField (s.t.nestWord 2) 62 1 0
        else s.t.nestWord k) ∧
      ∀ q, s'.t.reg q =
        if q ∈ nextDests d ∧ q ≠ 0 then ⟨0, true, false, f.label ||| (s.t.ctl.clabel ||| f.join)⟩ else s.t.reg q := by
  have taken := Thread.takeChunk_none (t := s.t) sound regs empty
  obtain ⟨rs, only⟩ := Thread.foldl_write_only (nextDests d) (s.t.nestEnded f.join) 0 (f.label ||| (s.t.ctl.clabel ||| f.join))
  have gives (q : Reg) := Thread.reg_foldl_write (nextDests d) (s.t.nestEnded f.join) 0 (f.label ||| (s.t.ctl.clabel ||| f.join)) q
  rw [only] at taken gives
  have filled := Thread.filled_claim sound resumes stays s.t kind (by rw [taken]; exact waits)
  rw [taken] at filled
  exact ⟨_, execResultFill_nest found own wanted waits (.inl kind) filled rfl, rfl, rfl, rfl, rfl,
    Thread.nestWord_nestEnded four f.join, gives⟩

/-- A claim that finds iterations gives the first of its chunk. -/
theorem claimGives (low : d.val < 28) (some_ : (f.vals.getD 1 0).toNat ≠ 0) :
    ∃ s', exec (.resultFill f.id) s = .next s' ∧ s'.mem = s.mem ∧ s'.t.run = .ready ∧ s'.t.pc = s.t.pc ∧
      s'.t.ctl.clabel = s.t.ctl.clabel ||| f.join ∧
      (∀ k, s'.t.nestWord k = if k = 3 then putField (s.t.nestWord 3) 0 48 ((f.vals.getD 0 0).toNat + (f.vals.getD 1 0).toNat) else
        if k = 2 then putField (putField (s.t.nestWord 2) 62 1 0) 0 48 ((f.vals.getD 0 0).toNat + 1) else s.t.nestWord k) ∧
      s.t.Unpacked s'.t d (f.vals.getD 0 0).toNat (f.label ||| (s.t.ctl.clabel ||| f.join)) := by
  have taken := Thread.takeChunk_some (t := s.t) sound regs some_
  have words := Thread.nestWord_chunked four f.join (f.vals.getD 0 0).toNat (f.vals.getD 1 0).toNat
  have unpacked := Thread.unpackNest_spec (s.t.chunked f.join (f.vals.getD 0 0).toNat (f.vals.getD 1 0).toNat) low (f.vals.getD 0 0).toNat
    (f.label ||| (s.t.ctl.clabel ||| f.join))
  obtain ⟨rs, only⟩ := Thread.unpackNest_only (s.t.chunked f.join (f.vals.getD 0 0).toNat (f.vals.getD 1 0).toNat) d
    (f.vals.getD 0 0).toNat (f.label ||| (s.t.ctl.clabel ||| f.join))
  rw [only] at taken unpacked
  have filled := Thread.filled_claim sound resumes stays s.t kind (by rw [taken]; exact waits)
  rw [taken] at filled
  have extents (k : Nat) : (s.t.chunked f.join (f.vals.getD 0 0).toNat (f.vals.getD 1 0).toNat).extent k = s.t.extent k := by
    rw [Thread.extent, words]
    rfl
  obtain ⟨given, first, second, third, fourth, others⟩ := unpacked
  simp only [extents] at first second third fourth
  exact ⟨_, execResultFill_nest found own wanted waits (.inl kind) filled rfl, rfl, rfl, rfl, rfl, words,
    given, first, second, third, fourth, others⟩

end

section
variable {d : Reg} {desc : Word} {joins : Label} (kind : f.kind = .nest desc joins)
include kind

/-- The answer to `nest` sets NESTSTATE and d. -/
theorem nestAnswers {v : Word} {words : List Word}
    (opened : s.t.openNest f desc = (s.t.withNest f.join words).write d v (f.label ||| (s.t.ctl.clabel ||| f.join))) :
    ∃ s', exec (.resultFill f.id) s = .next s' ∧ s'.mem = s.mem ∧ s'.t.run = .ready ∧ s'.t.pc = s.t.pc ∧
      s'.t.ctl.clabel = s.t.ctl.clabel ||| f.join ∧ s'.t.ctl.nest = words ∧
      ∀ q, s'.t.reg q = if q = d ∧ d ≠ 0 then ⟨v, true, false, f.label ||| (s.t.ctl.clabel ||| f.join)⟩ else s.t.reg q := by
  have gives (q : Reg) := Thread.reg_write (s.t.withNest f.join words) d q v (f.label ||| (s.t.ctl.clabel ||| f.join))
  obtain ⟨rs, only⟩ := (s.t.withNest f.join words).write_only d v (f.label ||| (s.t.ctl.clabel ||| f.join))
  rw [only] at opened gives
  have filled := Thread.filled_nest sound resumes stays s.t kind (by rw [opened]; exact waits)
  rw [opened] at filled
  exact ⟨_, execResultFill_nest found own wanted waits (.inr ⟨desc, joins, kind⟩) filled rfl, rfl, rfl, rfl, rfl, rfl, gives⟩

end

end Answered

theorem nestClaims : Claims.NestClaims := by
  intro s d ta tb n pa l t lo e dests
  have lo_eq (w : Word) (a k : Nat) : lo w a (a + k) = fieldOf w a k :=
    (fieldOf_eq_mod_div w (Nat.le_add_right a k)).trans (by rw [Nat.add_sub_cancel_left])
  have e_eq (w : Word) (k : Nat) : e w k = fieldOf w (16 * k) 16 := lo_eq w (16 * k) 16
  refine ⟨fun hd free _ valid none_left four own allowed => ?_,
    fun a f total div least canonical quiet h op _ _ _ fill hf two both _ => bankClaims canonical quiet h op fill hf two both, fun f found owns sound wanted resumes stays waits _ _ four nonzero => ?_⟩
  · rw [show lo (t.nestWord 3) 0 48 = fieldOf (t.nestWord 3) 0 48 from lo_eq _ 0 48,
      show lo (t.nestWord 2) 0 48 = fieldOf (t.nestWord 2) 0 48 from lo_eq _ 0 48] at none_left
    rw [show lo (t.nestWord 0) 0 56 = fieldOf (t.nestWord 0) 0 56 from lo_eq _ 0 56] at own
    obtain ⟨s', asks, mem, pc, run, clabel, words, regs, stands, made⟩ :=
      nextClaims d l (ta := ta) (tb := tb) hd free valid none_left four own allowed
    refine ⟨s', asks, mem, pc, run, clabel, words 2, words 0, words 1, words 3, regs, ?_, _, made, rfl, rfl, rfl, rfl, rfl, rfl⟩
    have op : s.t.claimOp = .claimNest (e (t.nestWord 1) 0 * e (t.nestWord 1) 1 * e (t.nestWord 1) 2 * e (t.nestWord 1) 3)
        ((lo (t.nestWord 3) 56 60 + 1) * (lo (t.nestWord 2) 48 62 + 1)) (max 1 (lo (t.nestWord 3) 48 56)) := by
      simp only [e_eq, lo_eq _ 56 4, lo_eq _ 48 14, lo_eq _ 48 8]
      rfl
    exact op ▸ stands
  · intro label full w i c
    have joined : label = f.label ||| (t.ctl.clabel ||| f.join) := BitVec.or_assoc ..
    have cleared (x : Word) {k : Nat} (hk : k < 64) : fieldOf (putField x k 1 0) k 1 = 0 := fieldOf_putField_same x 0 hk
    refine ⟨fun kind regs low fits => ?_, fun desc joins kind regs _ => ?_⟩
    · by_cases empty : c = 0
      · obtain ⟨s', runs, mem, ready, pc, clabel, words, gives⟩ :=
          claimEnds found owns sound wanted resumes stays waits kind regs four empty
        rw [← joined] at gives
        have nonzero_dests : ∀ r ∈ dests, r ≠ 0 := List.forall_mem_cons.mpr ⟨nonzero, by decide⟩
        refine ⟨s', runs, mem, ready, pc, clabel, (lo_eq _ 62 1).trans (words 2 ▸ cleared _ (by decide)),
          fun r other => (gives r).trans (if_neg fun h => other h.1),
          fun _ => ⟨(lo_eq _ 63 1).trans (words 0 ▸ cleared _ (by decide)),
            fun r hr => (gives r).trans (if_pos ⟨hr, nonzero_dests r hr⟩)⟩,
          fun some_ => absurd empty some_⟩
      · obtain ⟨s', runs, mem, ready, pc, clabel, words, given, first, second, third, fourth, others⟩ :=
          claimGives found owns sound wanted resumes stays waits kind regs four low empty
        rw [← joined] at given first second third fourth
        have free : fieldOf (putField (putField (t.nestWord 2) 62 1 0) 0 48 (i + 1)) 62 1 = 0 :=
          (fieldOf_putField_apart _ _ (.inr (by decide)) (by decide)).trans (cleared _ (by decide))
        have low48 (x : Word) {v : Nat} (hv : v < 2 ^ 48) : fieldOf (putField x 0 48 v) 0 48 = v :=
          (fieldOf_putField_same x v (by decide)).trans (Nat.mod_eq_of_lt hv)
        refine ⟨s', runs, mem, ready, pc, clabel, (lo_eq _ 62 1).trans (words 2 ▸ free), others, fun none_ => absurd none_ empty,
          fun _ => ⟨words 0, (lo_eq _ 0 48).trans (words 2 ▸ low48 _ (by omega)), (lo_eq _ 0 48).trans (words 3 ▸ low48 _ fits),
            given nonzero, ?_⟩⟩
        simp only [e_eq]
        exact ⟨first, second, third, fourth⟩
    · intro x total good
      have count : total = f.total := by
        simp only [total, e_eq]
        rfl
      have same : good ↔ f.describes :=
        and_congr (Eq.congr_left (lo_eq _ 14 2)) (and_congr (Eq.congr_left (lo_eq _ 28 36)) (and_congr .rfl (by rw [count])))
      by_cases describes : f.describes
      · obtain ⟨s', runs, mem, ready, pc, clabel, words, gives⟩ := nestAnswers found owns sound wanted resumes stays waits kind
          (Thread.openNest_descriptor regs desc four describes)
        rw [← joined, ← count] at gives
        refine ⟨s', runs, mem, ready, pc, clabel, fun r other => (gives r).trans (if_neg fun h => other h.1),
          fun _ => ⟨(gives d).trans (if_pos ⟨rfl, nonzero⟩), ?_⟩, fun bad => absurd (same.mpr describes) bad⟩
        rw [words, show lo (x 2) 0 14 = fieldOf (x 2) 0 14 from lo_eq _ 0 14, show lo (x 2) 16 24 = fieldOf (x 2) 16 8 from lo_eq _ 16 8,
          show lo (x 2) 24 28 = fieldOf (x 2) 24 4 from lo_eq _ 24 4]
        rfl
      · obtain ⟨s', runs, mem, ready, pc, clabel, words, gives⟩ := nestAnswers found owns sound wanted resumes stays waits kind
          (Thread.openNest_other regs desc describes)
        rw [← joined] at gives
        refine ⟨s', runs, mem, ready, pc, clabel, fun r other => (gives r).trans (if_neg fun h => other h.1),
          fun good => absurd (same.mp good) describes,
          fun _ => ⟨(lo_eq _ 63 1).trans ?_, (gives d).trans (if_pos ⟨rfl, nonzero⟩)⟩⟩
        have word : s'.t.nestWord 0 = putField (t.nestWord 0) 63 1 0 := by
          rw [Thread.nestWord, words]
          exact (Thread.nestWord_setNest t 0 _ (by omega)).trans (if_pos rfl)
        exact word ▸ cleared _ (by decide)

end Sys2Proof.Machine

namespace Sys2Proof

/-- Settles O19: `nest` and a claim leave the state in which their requests were sent, a bank with one request performs it in the step of its
grant, and the answers of both reach the thread as the descriptor's words and the chunk say. -/
theorem nestResults : Obligations.NestResults := ⟨Machine.nestResults, Machine.nestClaims⟩

end Sys2Proof

/-! # fork, join, jdone and spawn (O22) -/

namespace Sys2Proof.Machine

open Claims (ownPan taskPlaces answers taskAsks onlyWrote queued)

/-! ## A request of fork or join, and its answer (R138, R139) -/

/-- A request of `fork` or `join` has been sent: it stands at its bank, and its answer is awaited. -/
structure State.Asked (s s' : State) (op : MemOp) (n pa : Nat) (kind : FillKind) : Prop where
  thread : s'.t = s.t
  mem : s'.mem = s.mem
  stands : AtBank s s' op n pa (s.joined [])
  awaits : ∃ h ∈ s'.fab.fills, h.uid = s.t.ident.uid ∧ h.kind = kind ∧ h.parts = 1

/-- The thread of a request waits for its reply with the PC at the instruction. -/
theorem State.Asked.taskAsks {s s' : State} {op : MemOp} {n pa : Nat} {kind : FillKind} (h : s.Asked s' op n pa kind)
    (waits : s.t.run = .reply) : taskAsks s s' op n pa kind := by
  obtain ⟨thread, mem, stands, awaits⟩ := h
  refine ⟨mem, congrArg Thread.regs thread, congrArg Thread.pc thread, (congrArg Thread.run thread).trans waits, ?_, awaits⟩
  simp only [State.joined, thread]
  exact stands.queued

theorem State.taskSend_asked (s : State) (op : MemOp) (va : Word) {x : Loc × Label} {n pa : Nat} (place : x.1 = .pan n pa)
    (kind : FillKind) (got join : Label) : s.Asked (s.taskSend op va x kind got join) op n pa kind := by
  obtain ⟨sent, stands⟩ := State.send_direct (s := (s.newFill [] 1 got join kind false false).2) (x := ⟨x.1, x.2, x.2, false⟩) place op va
    ((s.newFill [] 1 got join kind false false).2.resultLabel []) false (some s.time.next) 16
  obtain ⟨thread, -, mem, -, fills, -⟩ := sent
  have made : s.fillFor [] 1 got join kind false false ∈ (s.newFill [] 1 got join kind false false).2.fab.fills := List.mem_cons_self
  exact ⟨thread, mem, stands, _, fills ▸ made, rfl, rfl, rfl⟩

/-- The state in which the answer to a request is looked at: it has left the fabric, and its label is in CLABEL. -/
def State.told (s : State) (g : Fill) : State := { s.dropFill g.id with t := s.t.joinClabel g.join }

theorem State.focus_own {s : State} {uid : Nat} (h : s.t.ident.uid = uid) : s.focus uid = s := if_pos h

theorem FillKind.task_cases {k : FillKind} (h : k.isTask = true) :
    (∃ pushed d a b, k = .fork pushed d a b) ∨ ∃ step d a b, k = .join step d a b := by
  cases k with
  | fork pushed d a b => exact .inl ⟨pushed, d, a, b, rfl⟩
  | join step d a b => exact .inr ⟨step, d, a, b, rfl⟩
  | _ => contradiction

/-- The answer brings its label and nothing else. -/
theorem Thread.filled_task {g : Fill} (task : g.kind.isTask = true) (sound : g.err = none) (resumes : g.resume = false)
    (stays : g.advance = false) (t : Thread) : t.filled g = t.joinClabel g.join := by
  rcases FillKind.task_cases task with ⟨_, _, _, _, is⟩ | ⟨_, _, _, _, is⟩ <;> simp [Thread.filled, is, sound, resumes, stays]

/-- The answer to a request reaches its thread, which stays the one at its turn. -/
theorem execResultFill_task {s r : State} {g : Fill} {kind : FillKind} (h : answers s g kind) (task : kind.isTask = true)
    (gives : (s.told g).taskAnswer g = r) (same : r.t.ident = s.t.ident) : exec (.resultFill g.id) s = .next r := by
  subst gives
  obtain ⟨found, own, rfl, -, sound, resumes, stays, waits⟩ := h
  have thread : s.thread g.uid = some s.t := if_pos own.symm
  have gone : (s.dropFill g.id).modThread g.uid (fun t => t.filled g) = s.told g := by
    rw [State.modThread, if_pos (show (s.dropFill g.id).t.ident.uid = g.uid from own.symm)]
    exact congrArg (fun t => { s.dropFill g.id with t := t }) (Thread.filled_task task sound resumes stays s.t)
  have told : (s.told g).thread g.uid = some (s.told g).t := if_pos own.symm
  have run : (s.told g).t.run = .reply := waits
  have back : (s.told g).taskFill g = (s.told g).taskAnswer g := by
    simp only [State.taskFill, told, run, State.focus_own (s := s.told g) own.symm]
    exact State.focus_own (congrArg Ident.uid same)
  rw [exec_resultFill, ← back, ← gone]
  rcases FillKind.task_cases task with ⟨_, _, _, _, is⟩ | ⟨_, _, _, _, is⟩ <;>
    · simp only [execResultFill, found, thread, waits, is, FillKind.atUnit, FillKind.isTask]
      rfl

/-! ## The checks of fork and join (R136, R138, R139) -/

/-- An address lies outside the Pan of the gang of the thread at its turn. -/
def State.offPan (s : State) (va : Word) : Bool :=
  match s.vaClass va with
  | .pan n _ => n ≠ s.t.ident.pan
  | .global | .device | .none => true

section Checks
variable {s : State} {dests : List Reg} {srcs : List (Reg × Bool)} {deque frame : Reg} {odd : State → Bool}
  {k : State → Loc × Label → Loc × Label → Result} (compute : isCompute s.t.core = true) (here : corePan s.t.core = s.t.ident.pan)
  (hd : s.writable dests) (hs : s.readable (srcs.map Prod.fst)) (free : s.acquireHeld = false)
include compute here hd hs free

/-- The checks in their order, once the registers are free. -/
theorem taskIssue_eq : taskIssue dests srcs deque frame odd s k =
    let reads := srcs.map Prod.fst
    if (s.val deque).toNat % 1024 ≠ 0 then .next (s.fail .align (s.val deque) 0 reads 0)
    else if (s.val frame).toNat % 8 ≠ 0 then .next (s.fail .align (s.val frame) 0 reads 0)
    else if odd s then .next (s.fail .align (reads.getLast?.elim 0 s.val) 0 reads 0)
    else if s.offPan (s.val deque) then .next (s.fail .prot (s.val deque) 0 reads 0)
    else if s.offPan (s.val frame) then .next (s.fail .prot (s.val frame) 0 reads 0)
    else
      match s.taskSpot (s.val frame), s.taskSpot (s.ownDeque (s.val deque)) with
      | .error (c, info), _ => .next (s.fail c (s.val frame) info reads 0)
      | .ok _, .error (c, info) => .next (s.fail c (s.ownDeque (s.val deque)) info reads 0)
      | .ok f, .ok q => k s f q := by
  have home : (!(isCompute s.t.core && decide (corePan s.t.core = s.t.ident.pan))) = false := by simp [compute, here]
  have go := s.check_go { Uses.none with away := !(isCompute s.t.core && corePan s.t.core = s.t.ident.pan), dests := dests, srcs := srcs
                                         mem := true }
    (by simp [Uses.none]) home (by simp [Uses.none]) hd (by simp [Uses.none]) hs (by simp [Uses.none]) fun _ => free
  exact State.issue_go _ _ _ go

end Checks

theorem State.offPan_own {s : State} {va : Word} {o : Nat} (h : s.vaClass va = .pan s.t.ident.pan o) : s.offPan va = false := by
  rw [State.offPan, h]
  exact decide_eq_false fun other => other rfl

/-- A place in the gang's Pan is not outside it. -/
theorem State.offPan_of_taskSpot {s : State} {va : Word} {x : Loc × Label} (h : s.taskSpot va = .ok x) : s.offPan va = false := by
  rw [State.taskSpot] at h
  cases is : s.vaClass va with
  | pan n o =>
    have same : n = s.t.ident.pan := by
      by_contra other
      simp [is, other] at h
    exact State.offPan_own (same ▸ is)
  | global | device | none => simp [is] at h

/-- With both places in the gang's Pan the instruction goes on. -/
theorem taskIssue_passes {s : State} {dests : List Reg} {srcs : List (Reg × Bool)} {deque frame : Reg} {odd : State → Bool}
    {k : State → Loc × Label → Loc × Label → Result} {f q : Loc × Label} {n pf pq : Nat}
    (h : taskPlaces s (s.val deque) (s.val frame) f q n pf pq) (hd : s.writable dests) (hs : s.readable (srcs.map Prod.fst))
    (free : s.acquireHeld = false) (even : odd s = false) : taskIssue dests srcs deque frame odd s k = k s f q := by
  obtain ⟨compute, here, whole, aligned, ⟨o, own⟩, spot, spotq, -, -⟩ := h
  have spotq' : s.taskSpot (s.ownDeque (s.val deque)) = .ok q := spotq
  rw [taskIssue_eq compute here hd hs free]
  simp only [whole, aligned, even, State.offPan_own own, State.offPan_of_taskSpot spot, spot, spotq', ne_eq, not_true_eq_false,
    Bool.false_eq_true, ↓reduceIte]

/-! ## fork (R138) -/

/-- A thread that has sent its request leaves rotation until the answer. -/
theorem State.Asked.waitHere {s r : State} {op : MemOp} {n pa : Nat} {kind : FillKind} (h : s.Asked r op n pa kind) :
    Claims.taskAsks s r.waitHere op n pa kind := by
  obtain ⟨thread, mem, stands, awaits⟩ := h
  have joined : r.waitHere.joined [] = s.joined [] := by
    simp only [State.joined, ← thread]
    rfl
  exact ⟨mem, (congrArg Thread.regs thread :), (congrArg Thread.pc thread :), rfl, joined ▸ stands.queued, awaits⟩

section Fork
variable {s : State} {d a b : Reg} (ta tb : Bool) {f q : Loc × Label} {n pf pq : Nat}

theorem execFork_counts (h : taskPlaces s (s.val a) (s.val b) f q n pf pq) (hs : s.readable [a, b, d]) (free : s.acquireHeld = false)
    (drained : s.drained = true) (even : (s.val d).toNat % 2 = 0) (allowed : labelLe (s.joined [d, b]) q.2 = true) :
    execFork d a b ta tb s = .next (s.taskSend (.amo .add true 1) (s.val b) f (.fork false d a b) 0 0).waitHere := by
  have hd : s.writable [d] := fun r hr => (hs r (by simp [List.mem_singleton.mp hr])).1
  rw [execFork, taskIssue_passes (srcs := [(a, ta), (b, tb), (d, false)]) h hd hs free (by simp [even])]
  simp only [State.resultLabel_eq, allowed, State.releaseWait, drained, Bool.not_true, Bool.and_false, Bool.false_eq_true, ↓reduceIte]

/-- What a task instruction knows of its places is so too when the answer has come. -/
theorem taskPlaces_told {deque frame : Word} (h : taskPlaces s deque frame f q n pf pq) (g : Fill) :
    taskPlaces (s.told g) deque frame f q n pf pq := h

/-- The answer to the count sends the push. -/
theorem taskAnswer_counted (h : taskPlaces s (s.val a) (s.val b) f q n pf pq) {g : Fill} (kind : g.kind = .fork false d a b) :
    (s.told g).Asked ((s.told g).taskAnswer g) (.push (s.val d) (s.val b)) n pq (.fork true d a b) := by
  obtain ⟨-, -, -, -, -, -, spotq, -, place⟩ := taskPlaces_told h g
  have spot : (s.told g).taskSpot ((s.told g).ownDeque ((s.told g).val a)) = .ok q := spotq
  simp only [State.taskAnswer, kind, State.forkPush, spot]
  exact State.taskSend_asked _ _ _ place _ _ _

/-- The answer to the push ends `fork`. -/
theorem taskAnswer_pushed {g : Fill} (kind : g.kind = .fork true d a b) :
    (s.told g).taskAnswer g = (s.told g).forkEnd d (g.vals.getD 0 0 ≠ 0) := by
  simp only [State.taskAnswer, kind]

end Fork

/-- The end of a deque instruction concerns the thread alone. -/
theorem State.taskEnd_of_reply {s : State} (waits : s.t.run = .reply) (pc : Word) :
    s.taskEnd pc = { s with t := { s.t with pc := pc, prog := .fresh, proxy := false, transit := none, run := .ready } } := by
  simp [State.taskEnd, waits, Run.stopped]

/-- With the deque full `fork` runs its arm inline, with the link in d. -/
theorem State.forkEnd_full {s : State} (waits : s.t.run = .reply) (d : Reg) : ∃ rs,
    s.forkEnd d false =
      { s with t := { s.t with regs := rs, pc := s.val d, prog := .fresh, proxy := false, transit := none, run := .ready } } ∧
      ∀ r, ({ s.t with regs := rs } : Thread).reg r = if r = d ∧ d ≠ 0 then ⟨s.t.pc + 4, true, false, s.joined []⟩ else s.t.reg r := by
  obtain ⟨rs, only⟩ := s.t.write_only d (s.t.pc + 4) (s.joined [])
  have linked : s.write d (s.t.pc + 4) (s.joined []) = { s with t := { s.t with regs := rs } } :=
    congrArg (fun t => { s with t := t }) only
  refine ⟨rs, ?_, fun r => ?_⟩
  · simp only [State.forkEnd, State.resultLabel_eq, linked, Bool.false_eq_true, ↓reduceIte]
    exact State.taskEnd_of_reply (s := { s with t := { s.t with regs := rs } }) waits _
  · rw [← only, Thread.reg_write]

theorem forkResults : Claims.ForkResults := by
  intro s d a b ta tb f q n pf pq h
  refine ⟨fun hs free drained even allowed => ?_, fun g hg => ?_, fun g hg => ?_⟩
  · obtain ⟨-, -, -, -, -, -, -, place, -⟩ := id h
    have asked := State.taskSend_asked s (.amo .add true 1) (s.val b) place (.fork false d a b) 0 0
    exact ⟨_, execFork_counts ta tb h hs free drained even allowed, (congrArg (fun t : Thread => t.ctl.clabel) asked.thread :),
      asked.waitHere⟩
  · obtain ⟨-, -, kind, -, -, -, -, waits⟩ := id hg
    have asked := taskAnswer_counted h kind
    exact ⟨_, execResultFill_task hg rfl rfl (congrArg Thread.ident asked.thread :), (congrArg (fun t : Thread => t.ctl.clabel) asked.thread :),
      asked.taskAsks waits⟩
  · obtain ⟨-, -, kind, -, -, -, -, waits⟩ := id hg
    by_cases room : g.vals.getD 0 0 ≠ 0
    · have ends : (s.told g).taskAnswer g = _ := (taskAnswer_pushed kind).trans
        ((congrArg ((s.told g).forkEnd d) (decide_eq_true room)).trans (State.taskEnd_of_reply (s := s.told g) waits (s.t.pc + 4)))
      exact ⟨_, execResultFill_task hg rfl ends rfl, rfl, rfl, rfl,
        fun _ => ⟨rfl, rfl⟩, fun full => absurd full room⟩
    · obtain ⟨rs, linked, gives⟩ := State.forkEnd_full (s := s.told g) waits d
      have ends : (s.told g).taskAnswer g = _ := (taskAnswer_pushed kind).trans
        ((congrArg ((s.told g).forkEnd d) (decide_eq_false room)).trans linked)
      refine ⟨_, execResultFill_task hg rfl ends rfl, rfl, rfl, rfl,
        fun some_ => absurd some_ room, fun _ => ⟨rfl, fun r other => (gives r).trans (if_neg fun h => other h.1), fun nonzero => ?_⟩⟩
      have label : (s.told g).joined [] = s.t.ctl.clabel ||| g.join ||| s.t.patched := label_or_zero _
      exact label ▸ (gives d).trans (if_pos ⟨rfl, nonzero⟩)

/-! ## The traps of fork and join (R136, R138, R139) -/

section Traps
variable {s : State} {dests : List Reg} {srcs : List (Reg × Bool)} {deque frame : Reg} {odd : State → Bool}
  {k : State → Loc × Label → Loc × Label → Result} (traps : s.traps) (compute : isCompute s.t.core = true)
  (here : corePan s.t.core = s.t.ident.pan) (hd : s.writable dests) (hs : s.readable (srcs.map Prod.fst)) (free : s.acquireHeld = false)
include traps compute here hd hs free

/-- The first check that fails takes its trap. -/
theorem taskIssue_traps {reads : Label} {arm : Word} (labels : labelsOf s.t (srcs.map Prod.fst) = reads)
    (isOdd : odd s = decide (arm.toNat % 2 = 1)) (last : odd s = true → (srcs.map Prod.fst).getLast?.elim 0 s.val = arm) :
    let trap (code : Nat) (va info : Word) : Prop :=
      taskIssue dests srcs deque frame odd s k = .next (s.trapped code s.t.pc va info (reads ||| s.t.patched))
    ((s.val deque).toNat % 1024 ≠ 0 → trap 0x05 (s.val deque) 0) ∧
    ((s.val deque).toNat % 1024 = 0 → (s.val frame).toNat % 8 ≠ 0 → trap 0x05 (s.val frame) 0) ∧
    ((s.val deque).toNat % 1024 = 0 → (s.val frame).toNat % 8 = 0 →
      (arm.toNat % 2 = 1 → trap 0x05 arm 0) ∧
      (arm.toNat % 2 = 0 →
        (s.offPan (s.val deque) = true → trap 0x07 (s.val deque) 0) ∧
        (s.offPan (s.val deque) = false → s.offPan (s.val frame) = true → trap 0x07 (s.val frame) 0) ∧
        (s.offPan (s.val deque) = false → s.offPan (s.val frame) = false →
          (∀ c info, s.taskSpot (s.val frame) = .error (c, info) → trap (trapNumber c) (s.val frame) info) ∧
          (∀ f c info, s.taskSpot (s.val frame) = .ok f → s.taskSpot (s.ownDeque (s.val deque)) = .error (c, info) →
            trap (trapNumber c) (s.ownDeque (s.val deque)) info)))) := by
  intro trap
  have fails (c : TrapCode) (va info : Word) :
      s.fail c va info (srcs.map Prod.fst) 0 = s.trapped (trapNumber c) s.t.pc va info (reads ||| s.t.patched) := by
    rw [State.fail_traps _ _ _ _ _ _ traps, labels, label_or_zero]
  simp only [trap, taskIssue_eq compute here hd hs free, fails]
  refine ⟨fun h => ?_, fun whole h => ?_, fun whole aligned => ⟨fun h => ?_, fun even => ?_⟩⟩
  · simp only [h, ne_eq, not_false_eq_true, ↓reduceIte]
    rfl
  · simp only [whole, h, ne_eq, not_false_eq_true, not_true_eq_false, ↓reduceIte]
    rfl
  · have odds : odd s = true := isOdd.trans (decide_eq_true h)
    simp only [whole, aligned, odds, last odds, ne_eq, not_true_eq_false, ↓reduceIte]
    rfl
  · have evens : odd s = false := isOdd.trans (decide_eq_false (by omega))
    simp only [whole, aligned, evens, ne_eq, not_true_eq_false, Bool.false_eq_true, ↓reduceIte]
    refine ⟨fun h => ?_, fun inside h => ?_, fun inside inside' => ⟨fun c info h => ?_, fun f c info ok h => ?_⟩⟩
    · rw [if_pos h]
      rfl
    · rw [if_neg (by simp [inside]), if_pos h]
      rfl
    · simp only [inside, inside', h, Bool.false_eq_true, ↓reduceIte]
    · simp only [inside, inside', ok, h, Bool.false_eq_true, ↓reduceIte]

end Traps

theorem labelsOf_two (s : State) (a b : Reg) : labelsOf s.t [a, b] = s.lbl a ||| s.lbl b := by
  simp [labelsOf, State.lbl]

theorem labelsOf_three (s : State) (a b d : Reg) : labelsOf s.t [a, b, d] = s.lbl a ||| s.lbl b ||| s.lbl d := by
  simp [labelsOf, State.lbl, BitVec.or_assoc]

theorem taskTraps : Claims.TaskTraps := by
  intro s d a b ta tb traps compute here free outside own checks
  have off (va : Word) : outside va = s.offPan va := by
    simp only [outside, State.offPan]
    cases s.vaClass va with
    | pan m o => exact Bool.eq_iff_iff.mpr (bne_iff_ne.trans decide_eq_true_iff.symm)
    | global | device | none => rfl
  simp only [off, checks, exec_fork, exec_join, execFork, execJoin]
  refine ⟨fun hs hd => ⟨?_, fun f q n pf pq places even denied => ?_⟩, fun hs hd => ?_⟩
  · exact taskIssue_traps (deque := a) (frame := b) (srcs := [(a, ta), (b, tb), (d, false)]) (odd := fun s => (s.val d).toNat % 2 = 1)
      (arm := s.val d) traps compute here hd hs free (labelsOf_three s a b d) rfl fun _ => rfl
  · rw [taskIssue_passes (srcs := [(a, ta), (b, tb), (d, false)]) places hd hs free (by simp [even])]
    simp only [State.resultLabel_eq, denied, State.fail_traps _ _ _ _ _ _ traps, labelsOf_three, Bool.not_false, ↓reduceIte]
    rfl
  · exact taskIssue_traps (deque := b) (frame := a) (srcs := [(a, ta), (b, tb)]) (odd := fun _ => false) (arm := 0) traps compute
      here hd hs free (labelsOf_two s a b) rfl fun h => absurd h (by decide)

/-! ## What a store of a thread's own leaves, whose watches end (R326, R343) -/

/-- From one state another comes by a store to a Pan and the ends of watches: of the thread at its turn only VCLOCK and what is pending may
have changed, and of the rest what a place in the own Pan depends on stays. -/
structure State.Notifies (s s' : State) : Prop where
  thread : ∃ past pending second, s'.t = { s.t with ctl := { s.t.ctl with vclock := past }, pending := pending, second := second }
  cycle : s'.time.cycle = s.time.cycle
  parts : s'.parts = s.parts
  maps : s'.mem.maps = s.mem.maps

namespace State.Notifies

theorem of_eq {s s' : State} (thread : s'.t = s.t) (cycle : s'.time.cycle = s.time.cycle) (parts : s'.parts = s.parts)
    (maps : s'.mem.maps = s.mem.maps) : s.Notifies s' :=
  ⟨⟨_, _, _, thread⟩, cycle, parts, maps⟩

theorem refl (s : State) : s.Notifies s := of_eq rfl rfl rfl rfl

theorem trans {s s1 s2 : State} (h1 : s.Notifies s1) (h2 : s1.Notifies s2) : s.Notifies s2 := by
  obtain ⟨p1, q1, r1, t1⟩ := h1.thread
  obtain ⟨p2, q2, r2, t2⟩ := h2.thread
  exact ⟨⟨p2, q2, r2, by rw [t2, t1]⟩, h2.cycle.trans h1.cycle, h2.parts.trans h1.parts, h2.maps.trans h1.maps⟩

protected theorem foldl {α : Type} {f : State → α → State} (hf : ∀ (s : State) x, s.Notifies (f s x)) (l : List α) (s : State) :
    s.Notifies (l.foldl f s) := by
  induction l generalizing s with
  | nil => exact refl s
  | cons x l ih => exact (hf s x).trans (ih (f s x))

theorem addPending (s : State) (x : AsyncTrap) : s.Notifies { s with t := s.t.addPending x } := by
  unfold Thread.addPending
  split <;> exact ⟨⟨_, _, _, rfl⟩, rfl, rfl, rfl⟩

theorem readJoins (s : State) (a : Acc) : s.Notifies (s.readJoins a) := by
  unfold State.readJoins State.modThread
  dsimp only
  split <;> exact ⟨⟨_, _, _, rfl⟩, rfl, rfl, rfl⟩

theorem deliver (s : State) (fid i : Nat) (v : Word) (err : Option (Word × Bool)) (delay : Nat) :
    s.Notifies (s.deliver fid i v err delay) := by
  unfold State.deliver
  split
  · exact refl s
  · dsimp only
    split <;> exact of_eq rfl rfl rfl rfl

theorem endWatch (s : State) (acc : Nat) (status : Word) : s.Notifies (s.endWatch acc status) := by
  have dropped (s : State) : s.Notifies (s.dropWaiter acc) := of_eq rfl rfl rfl rfl
  unfold State.endWatch
  split
  · exact dropped s
  · next a _ =>
    have left : s.Notifies ((s.dropWaiter acc).dropAcc acc) := of_eq rfl rfl rfl rfl
    have joined := left.trans (readJoins _ a)
    split
    · exact joined.trans (deliver ..)
    · exact joined

/-- A store of a doubleword in a Pan. -/
theorem store (s : State) (n pa v : Nat) : s.Notifies (s.store (.pan n pa) 8 v) := by
  have written : s.Notifies { s with mem := (s.mem.writeAt (.pan n pa) 8 v).healWord (.pan n pa) } := of_eq rfl rfl rfl rfl
  have woken := written.trans (Notifies.foldl (fun s w => endWatch s w.acc stOk)
    (s.fab.waiters.filter fun w => w.watch && w.word == (Loc.pan n pa).word) _)
  simpa only [State.store, State.erasedAt, Bool.false_eq_true, ↓reduceIte, State.wake] using woken

section
variable {s s' : State} (h : s.Notifies s')
include h

theorem ident : s'.t.ident = s.t.ident := by
  obtain ⟨_, _, _, thread⟩ := h.thread
  rw [thread]

/-- Registers, PC and the place in rotation stay. -/
theorem stays : s'.t.regs = s.t.regs ∧ s'.t.pc = s.t.pc ∧ s'.t.run = s.t.run := by
  obtain ⟨_, _, _, thread⟩ := h.thread
  rw [thread]
  exact ⟨rfl, rfl, rfl⟩

theorem val (r : Reg) : s'.val r = s.val r := by
  simp only [State.val, Thread.reg, h.stays.1]

theorem vaClass (va : Word) : s'.vaClass va = s.vaClass va := by
  obtain ⟨_, _, _, thread⟩ := h.thread
  simp only [State.vaClass, Thread.localPan, thread]

theorem window (p n off : Nat) (r w : Bool) : s'.window p n off r w = s.window p n off r w := by
  obtain ⟨-, -, parts, maps⟩ := h
  have owns : s'.ownsPan p n = s.ownsPan p n := by simp only [State.ownsPan, State.part?, parts]
  have entry : s'.mapEntry p n (off / 8192) = s.mapEntry p n (off / 8192) := by simp only [State.mapEntry, maps]
  simp only [State.window, owns, entry]

theorem taskSpot (va : Word) : s'.taskSpot va = s.taskSpot va := by
  simp only [State.taskSpot, h.vaClass, h.window, h.ident]

/-- The places of a task instruction stay. -/
theorem places {deque frame : Word} {f q : Loc × Label} {n pf pq : Nat} (p : taskPlaces s deque frame f q n pf pq) :
    taskPlaces s' deque frame f q n pf pq := by
  obtain ⟨_, _, _, thread⟩ := h.thread
  have core : s'.t.core = s.t.core := by rw [thread]
  simpa only [taskPlaces, core, h.ident, h.vaClass, h.taskSpot] using p

end

end State.Notifies

/-! ## join (R139) -/

section Steal
variable {s : State} {a b : Reg} {f q : Loc × Label} {n pf pq : Nat} (places : taskPlaces s (s.val b) (s.val a) f q n pf pq)
include places

/-- The generator of the own deque is kept. -/
theorem State.keepSteal_eq (x : Word) : s.keepSteal (s.val b) x = s.store (.pan n (pq + 8)) 8 x.toNat := by
  obtain ⟨-, -, -, -, -, -, spotq, -, place⟩ := places
  have spot : s.taskSpot (s.ownDeque (s.val b)) = .ok q := spotq
  simp only [State.keepSteal, spot, place]
  rfl

theorem State.keepSteal_notifies (x : Word) : s.Notifies (s.keepSteal (s.val b) x) := by
  rw [State.keepSteal_eq places]
  exact State.Notifies.store s n (pq + 8) x.toNat

/-- With no task left the thread parks on its counter. -/
theorem State.joinPark_asks (waits : s.t.run = .reply) (c : Word) :
    let s' := s.joinPark a c
    s'.t = s.t ∧ s'.mem = s.mem ∧ AtBank s s' (.park c 1024) n pf (s.joined []) := by
  obtain ⟨-, -, -, -, -, spot, -, place, -⟩ := places
  obtain ⟨sent, stands⟩ := State.send_direct (s := (s.newFill [] 1 0 0 .reply true false).2) (x := ⟨f.1, f.2, f.2, false⟩) place
    (.park c 1024) (s.val a) ((s.newFill [] 1 0 0 .reply true false).2.resultLabel []) false (some s.time.next) 16
  simp only [State.joinPark, spot, waits, Run.stopped, Bool.false_eq_true, ↓reduceIte]
  exact ⟨sent.thread, sent.mem, stands⟩

end Steal

/-- In a gang of one thread no deque is asked. -/
theorem State.stealNext_alone (s : State) (d a b : Reg) (c : Word) (k : Nat) (x : Word) :
    ∃ y, s.stealNext d a b c 1 k x = (s.keepSteal (s.val b) y).joinPark a c := by
  induction k generalizing x with
  | zero => exact ⟨x, rfl⟩
  | succ k ih => exact ih (xorshift x)

/-- A round asks the deque that its generator chooses. -/
theorem State.stealNext_asks {s : State} {b : Reg} {c x : Word} {h k n pv : Nat} {lv : Label} (more : 1 < h) (d a : Reg)
    (spot : s.taskSpot (dequeVa (s.val b) ((s.t.ident.lthread + 1 + (xorshift x).toNat % (h - 1)) % h)) = .ok (.pan n pv, lv)) :
    s.Asked (s.stealNext d a b c h (k + 1) x) .steal n pv (.join (.steal c h k (xorshift x)) d a b) := by
  simp only [State.stealNext, more, ↓reduceIte, spot]
  exact State.taskSend_asked _ _ _ rfl _ _ _

/-- H of a round depends on the gang's thread numbers alone. -/
theorem State.stealSpan_congr {s s' : State} (others : s'.others = s.others) (ident : s'.t.ident = s.t.ident) (run : s'.t.run = s.t.run) :
    s'.stealSpan = s.stealSpan := by
  simp only [State.stealSpan, State.gangThreads, State.threads, others, ident, run, List.filter_cons]
  split <;> simp only [List.foldl_cons, ident]

/-- What a round's generator starts from: its word at the own deque, or the seed of the deque where that holds 0 or cannot be read (R139,
assumption 101). -/
def State.generator (s : State) (l : Loc) : Word :=
  let old : Word := if s.mem.bad l then 0 else BitVec.ofNat 64 (s.mem.readAt l 8)
  if old = 0 then stealSeed s.t.ident.gangid s.t.ident.lthread else old

/-- A task begins at its arm, with the link in d and the frame in d + 1. -/
theorem State.joinTake_begins {s : State} (waits : s.t.run = .reply) {d : Reg} (nonzero : d.val ≠ 0) (pair : d.val ≠ 31) (a b : Reg)
    {pc : Word} (even : pc.toNat % 2 = 0) (frame : Word) (l : Label) :
    let s' := s.joinTake d a b pc frame l
    let label := s.t.ctl.clabel ||| l ||| s.t.patched
    s'.t.ident = s.t.ident ∧ s'.mem = s.mem ∧ s'.t.pc = pc ∧ s'.t.run = .ready ∧ s'.t.reg d = ⟨s.t.pc, true, false, label⟩ ∧
      s'.t.reg (nextReg d) = ⟨frame, true, false, label⟩ ∧ ∀ r, r ≠ d → r ≠ nextReg d → s'.t.reg r = s.t.reg r := by
  intro s' label
  have result : (s.joinClabel l).resultLabel [] = label := label_or_zero _
  have value : (nextReg d).val = d.val + 1 := Nat.mod_eq_of_lt (by omega)
  have d0 : d ≠ 0 := fun h => nonzero (congrArg Fin.val h)
  have next0 : nextReg d ≠ 0 := fun h => by simp [h] at value
  have apart : d ≠ nextReg d := fun h => by rw [← h] at value; omega
  obtain ⟨u, hu⟩ : ∃ u, u = ((s.t.joinClabel l).write d s.t.pc label).write (nextReg d) frame label := ⟨_, rfl⟩
  have gives (r : Reg) : u.reg r =
      if r = nextReg d then ⟨frame, true, false, label⟩ else if r = d then ⟨s.t.pc, true, false, label⟩ else s.t.reg r := by
    simp only [hu, Thread.reg_write, next0, d0, ne_eq, not_false_eq_true, and_true]
    rfl
  obtain ⟨rs, only⟩ : ∃ rs, u = { s.t.joinClabel l with regs := rs } := by
    obtain ⟨_, first⟩ := (s.t.joinClabel l).write_only d s.t.pc label
    obtain ⟨rs, second⟩ := ((s.t.joinClabel l).write d s.t.pc label).write_only (nextReg d) frame label
    exact ⟨rs, by rw [hu, second, first]⟩
  have run : u.run = .reply := only ▸ waits
  have taken : s' = { s with t := { u with pc := pc, prog := .fresh, proxy := false, transit := none, run := .ready } } := by
    have linked : ((s.joinClabel l).write d s.t.pc label).write (nextReg d) frame label = { s with t := u } :=
      congrArg (fun t => { s with t := t }) hu.symm
    rw [← State.taskEnd_of_reply (s := { s with t := u }) run pc, ← linked]
    simp only [s', State.joinTake, even, ↓reduceIte, result]
    rfl
  rw [taken]
  exact ⟨only ▸ rfl, rfl, rfl, rfl, (gives d).trans ((if_neg apart).trans (if_pos rfl)), (gives (nextReg d)).trans (if_pos rfl),
    fun r notd notnext => (gives r).trans ((if_neg notnext).trans (if_neg notd))⟩

section Join
variable {s : State} {d a b : Reg} (ta tb : Bool) {f q : Loc × Label} {n pf pq : Nat}
  (places : taskPlaces s (s.val b) (s.val a) f q n pf pq)
include places

theorem execJoin_counts (hd : s.writable [d, nextReg d]) (hs : s.readable [a, b]) (free : s.acquireHeld = false) :
    execJoin d a b ta tb s = .next (s.taskSend (.load 8 false) (s.val a) f (.join .count d a b) 0 f.2).waitHere := by
  rw [execJoin, taskIssue_passes (srcs := [(a, ta), (b, tb)]) places hd hs free rfl]

/-- The own deque as the answer finds it. -/
theorem taskSpot_told (g : Fill) : (s.told g).taskSpot ((s.told g).ownDeque ((s.told g).val b)) = .ok q := by
  obtain ⟨-, -, -, -, -, -, spotq, -, -⟩ := places
  exact spotq

/-- With arms left the newest entry of the own deque is asked for. -/
theorem taskAnswer_arms {g : Fill} (kind : g.kind = .join .count d a b) (left : g.vals.getD 0 0 ≠ 0) :
    (s.told g).Asked ((s.told g).taskAnswer g) .pop n pq (.join (.pop (g.vals.getD 0 0)) d a b) := by
  have spot := taskSpot_told places g
  obtain ⟨-, -, -, -, -, -, -, -, place⟩ := places
  simp only [State.taskAnswer, kind, left, ↓reduceIte, spot]
  exact State.taskSend_asked _ _ _ place _ _ _

/-- An empty own deque begins a round of the others, which its generator chooses. -/
theorem taskAnswer_round {g : Fill} {c : Word} (kind : g.kind = .join (.pop c) d a b) (empty : g.vals.getD 0 0 = 0) : ∃ s1,
    (s.told g).Notifies s1 ∧ (s.told g).taskAnswer g = s1.stealNext d a b c s.stealSpan 8 (s.generator (.pan n (pq + 8))) ∧
      (s.mem.bad (.pan n (pq + 8)) = false → s1 = s.told g) := by
  have spot := taskSpot_told places g
  obtain ⟨-, -, -, -, -, -, -, -, place⟩ := places
  have second : q.1.plus 8 = .pan n (pq + 8) := place ▸ rfl
  have state : (s.told g).stealState ((s.told g).val b) = some (s.generator (.pan n (pq + 8)), s.mem.bad (.pan n (pq + 8))) := by
    simp only [State.stealState, spot, second]
    rfl
  obtain ⟨s1, hs1⟩ : ∃ s1 : State, s1 = if s.mem.bad (.pan n (pq + 8)) then
      { s.told g with t := (s.told g).t.addPending ⟨.dataerr, (s.told g).ownDeque ((s.told g).val b) + 8, 32, g.label⟩ }
    else s.told g := ⟨_, rfl⟩
  have notifies : (s.told g).Notifies s1 := by
    rw [hs1]
    split
    · exact State.Notifies.addPending ..
    · exact State.Notifies.refl _
  have span : s1.stealSpan = s.stealSpan :=
    State.stealSpan_congr (s := s) (by rw [hs1]; split <;> rfl) notifies.ident notifies.stays.2.2
  refine ⟨s1, notifies, ?_, fun sound => ?_⟩
  · simp only [State.taskAnswer, kind, empty, ne_eq, not_true_eq_false, ↓reduceIte, state, ← hs1, span]
  · rw [hs1, if_neg (by simp [sound])]

/-- A deque that gave a task has `join` take it. -/
theorem taskAnswer_task {g : Fill} {step : JoinStep} (kind : g.kind = .join step d a b) (asked : step ≠ .count)
    (some_ : g.vals.getD 0 0 ≠ 0) : ∃ s1, (s.told g).Notifies s1 ∧
      (s.told g).taskAnswer g = s1.joinTake d a b (g.vals.getD 1 0) (g.vals.getD 2 0) g.label ∧
      ∀ c, step = .pop c → s1.mem = s.mem := by
  cases step with
  | count => exact absurd rfl asked
  | pop c =>
    refine ⟨s.told g, .refl _, ?_, fun _ _ => rfl⟩
    simp only [State.taskAnswer, kind, some_, ne_eq, not_false_eq_true, ↓reduceIte]
  | steal c h k x =>
    refine ⟨(s.told g).keepSteal ((s.told g).val b) x, State.keepSteal_notifies (s := s.told g) (a := a) places x, ?_,
      fun _ other => JoinStep.noConfusion other⟩
    simp only [State.taskAnswer, kind, some_, ne_eq, not_false_eq_true, ↓reduceIte]

end Join

/-! ## jdone (R140) -/

/-- A reduction to the own Pan is routed as a read and a write there. -/
theorem State.storeRoute_own {s : State} {va : Word} {n pa : Nat} {l : Label} (own : ownPan s va n pa l true true) (red : Bool) :
    s.storeRoute va true red = (.ok (.here ⟨.pan n pa, l, l, false⟩), s) := by
  obtain ⟨-, -, off, named, -⟩ := id own
  have local_ : (s.vaClass va == .global) = false := by rw [named]; rfl
  simp only [State.storeRoute, local_, Bool.and_false, Bool.not_false, Bool.and_true, State.route_own own, ite_self]

section Jdone
variable {s : State} {a b : Reg} (ta tb : Bool) {n pf : Nat} {l : Label} (own : ownPan s (s.val a) n pf l true true)
  (allowed : labelLe (s.joined [a, b]) l = true) (drained : s.drained = true) (room : s.t.ctl.pendred ≠ 16)
include own allowed drained room

/-- The reduction of a counter is sent, and one more is pending. -/
theorem State.storing_red : ∃ r, s.Sends r ∧ AtBank s r (.red .add true (-1)) n pf (s.joined [a, b]) ∧
    s.storing (s.val a) true [a, b] (.red .add true (-1)) .release false true 8 4 =
      .next (({ r with t := { r.t with ctl := { r.t.ctl with pendred := r.t.ctl.pendred + 1 } } } : State).retire 4) := by
  obtain ⟨sent, stands⟩ := State.send_direct (s := s) (x := ⟨.pan n pf, l, l, false⟩) rfl (.red .add true (-1)) (s.val a)
    (s.joined [a, b]) false none 8
  refine ⟨_, sent, stands, ?_⟩
  have red : (MemOp.red AmoFn.add true (-1)).isRed = true := rfl
  simp only [State.storing, State.deviceAccess_own own, State.storeRoute_own own, State.resultLabel_eq, allowed, red, room, Bool.not_true,
    Bool.false_and, Bool.and_false, Bool.false_eq_true, ↓reduceIte, State.releaseWait, drained, decide_false]
  rfl

theorem execJdone_counts (hs : s.readable [a, b]) (free : s.acquireHeld = false) (ready : s.t.run = .ready)
    (aligned : (s.val a).toNat % 8 = 0) (even : (s.val b).toNat % 2 = 0) : ∃ r, s.Sends r ∧
      AtBank s r (.red .add true (-1)) n pf (s.joined [a, b]) ∧
      execJdone a b ta tb s = .next (State.jump (State.joinClabel (State.retire { r with t :=
        { r.t with ctl := { r.t.ctl with pendred := r.t.ctl.pendred + 1 } } } 4) (s.lbl b)) (s.val b)) := by
  obtain ⟨r, sent, stands, stored⟩ := State.storing_red own allowed drained room
  obtain ⟨compute, -⟩ := own
  have go := s.check_go { Uses.none with away := !isCompute s.t.core, srcs := [(a, ta), (b, tb)], mem := true }
    (by simp [Uses.none]) (by simp [compute]) (by simp [Uses.none]) (by simp [Uses.none, State.writable]) (by simp [Uses.none]) hs
    (by simp [Uses.none]) fun _ => free
  refine ⟨r, sent, stands, (State.issue_go _ _ _ go).trans ?_⟩
  have odd : ¬ (s.val b).toNat % 2 = 1 := by omega
  have run : r.t.run = .ready := (congrArg Thread.run sent.thread).trans ready
  simp only [aligned, odd, ne_eq, not_true_eq_false, ↓reduceIte, stored]
  simp only [State.retire, run]
  rfl

end Jdone

/-! ## The answers of join (R139) -/

/-- The thread has sent its steal and waits. -/
theorem roundAsks {s : State} {d a b : Reg} {n : Nat} {g : Fill} {step : JoinStep} (hg : answers s g (.join step d a b)) {c x : Word}
    {h k pv : Nat} {lv : Label} (more : 1 < h)
    (spot : s.taskSpot (dequeVa (s.val b) ((s.t.ident.lthread + 1 + (xorshift x).toNat % (h - 1)) % h)) = .ok (.pan n pv, lv))
    (steals : (s.told g).taskAnswer g = (s.told g).stealNext d a b c h (k + 1) x) :
    ∃ s', exec (.resultFill g.id) s = .next s' ∧ taskAsks s s' .steal n pv (.join (.steal c h k (xorshift x)) d a b) := by
  obtain ⟨-, -, -, -, -, -, -, waits⟩ := id hg
  have asked := State.stealNext_asks (s := s.told g) (c := c) (k := k) more d a spot
  rw [← steals] at asked
  exact ⟨_, execResultFill_task hg rfl rfl (congrArg Thread.ident asked.thread :), asked.taskAsks waits⟩

/-- The generator begins as R139 says where its word can be read. -/
theorem State.generator_sound {s : State} {l : Loc} (sound : s.mem.bad l = false) :
    let old := BitVec.ofNat 64 (s.mem.readAt l 8)
    let seed := s.t.ident.gangid ^^^ BitVec.ofNat 64 (s.t.ident.lthread * 0x9E3779B97F4A7C15)
    s.generator l = if old ≠ 0 then old else if seed ≠ 0 then seed else 1 := by
  intro old seed
  have mul : BitVec.ofNat 64 s.t.ident.lthread * goldenMul = BitVec.ofNat 64 (s.t.ident.lthread * 0x9E3779B97F4A7C15) :=
    (BitVec.ofNat_mul ..).symm
  simp only [State.generator, sound, Bool.false_eq_true, ↓reduceIte, stealSeed, seedOf, mul, ite_not, ne_eq]
  rfl

section Join
variable {s : State} {d a b : Reg} {f q : Loc × Label} {n pf pq : Nat} (places : taskPlaces s (s.val b) (s.val a) f q n pf pq)
include places

/-- The thread has kept the generator and parks on its counter. -/
theorem parkAsks {g : Fill} {step : JoinStep} (hg : answers s g (.join step d a b)) {c x : Word} {s1 : State}
    (notifies : (s.told g).Notifies s1) (parks : (s.told g).taskAnswer g = (s1.keepSteal (s1.val b) x).joinPark a c) :
    ∃ s', exec (.resultFill g.id) s = .next s' ∧ s'.t.pc = s.t.pc ∧ s'.t.run = .reply ∧ s'.t.regs = s.t.regs ∧
      queued s s' (.park c 1024) n pf (s'.joined []) ∧ s'.mem = (s1.keepSteal (s1.val b) x).mem := by
  obtain ⟨-, -, -, -, -, -, -, waits⟩ := id hg
  have places1 : taskPlaces s1 (s1.val b) (s1.val a) f q n pf pq := by
    rw [notifies.val, notifies.val]
    exact notifies.places (taskPlaces_told places g)
  have kept := State.keepSteal_notifies places1 x
  have both := notifies.trans kept
  obtain ⟨regs, pc, run⟩ := both.stays
  have places2 : taskPlaces (s1.keepSteal (s1.val b) x) ((s1.keepSteal (s1.val b) x).val b) ((s1.keepSteal (s1.val b) x).val a) f q n pf
      pq := by
    rw [kept.val, kept.val]
    exact kept.places places1
  obtain ⟨thread, mem, stands⟩ := State.joinPark_asks places2 (run.trans waits) c
  have joined : ((s1.keepSteal (s1.val b) x).joinPark a c).joined [] = (s1.keepSteal (s1.val b) x).joined [] := by
    simp only [State.joined, thread]
  rw [← joined] at stands
  have here := (stands.base (s := s) both.ident both.cycle).queued
  rw [← parks] at thread mem here
  exact ⟨_, execResultFill_task hg rfl rfl (thread ▸ both.ident), thread ▸ pc, thread ▸ run.trans waits, thread ▸ regs, here, mem⟩

/-- At 0 the counter lets `join` pass, and else the own deque is asked. -/
theorem joinCounted {g : Fill} (hg : answers s g (.join .count d a b)) :
    ∃ s', exec (.resultFill g.id) s = .next s' ∧ s'.mem = s.mem ∧ s'.t.regs = s.t.regs ∧ s'.t.ctl.clabel = s.t.ctl.clabel ||| g.join ∧
      (g.vals.getD 0 0 = 0 → s'.t.pc = s.t.pc + 4 ∧ s'.t.run = .ready) ∧
      (g.vals.getD 0 0 ≠ 0 → taskAsks s s' .pop n pq (.join (.pop (g.vals.getD 0 0)) d a b)) := by
  obtain ⟨-, -, kind, -, -, -, -, waits⟩ := id hg
  by_cases done : g.vals.getD 0 0 = 0
  · have ends : (s.told g).taskAnswer g = (s.told g).taskEnd (s.t.pc + 4) := by
      simp only [State.taskAnswer, kind, done, ↓reduceIte]
      rfl
    rw [State.taskEnd_of_reply (s := s.told g) waits] at ends
    exact ⟨_, execResultFill_task hg rfl ends rfl, rfl, rfl, rfl, fun _ => ⟨rfl, rfl⟩, fun left => absurd done left⟩
  · have asked := taskAnswer_arms places kind done
    exact ⟨_, execResultFill_task hg rfl rfl (congrArg Thread.ident asked.thread :), asked.mem, (congrArg Thread.regs asked.thread :),
      (congrArg (fun t : Thread => t.ctl.clabel) asked.thread :), fun zero => absurd zero done, fun _ => asked.taskAsks waits⟩

/-- A task that has been taken begins at its arm. -/
theorem joinTakes {g : Fill} {step : JoinStep} (hg : answers s g (.join step d a b)) (asked : step ≠ .count) (some_ : g.vals.getD 0 0 ≠ 0)
    (even : (g.vals.getD 1 0).toNat % 2 = 0) (nonzero : d.val ≠ 0) (pair : d.val ≠ 31) :
    let label := s.t.ctl.clabel ||| g.join ||| g.label ||| s.t.patched
    ∃ s', exec (.resultFill g.id) s = .next s' ∧ s'.t.pc = g.vals.getD 1 0 ∧ s'.t.run = .ready ∧
      s'.t.reg d = ⟨s.t.pc, true, false, label⟩ ∧ s'.t.reg (nextReg d) = ⟨g.vals.getD 2 0, true, false, label⟩ ∧
      (∀ r, r ≠ d → r ≠ nextReg d → s'.t.reg r = s.t.reg r) ∧ ∀ c, step = .pop c → s'.mem = s.mem := by
  obtain ⟨-, -, kind, -, -, -, -, waits⟩ := id hg
  obtain ⟨s1, notifies, takes, popped⟩ := taskAnswer_task places kind asked some_
  obtain ⟨regs, pc, run⟩ := notifies.stays
  obtain ⟨ident, mem, arm, ready, link, frame, others⟩ :=
    State.joinTake_begins (run.trans waits) nonzero pair a b even (g.vals.getD 2 0) g.label
  rw [← takes] at ident mem arm ready link frame others
  have label : s1.t.ctl.clabel ||| g.label ||| s1.t.patched = s.t.ctl.clabel ||| g.join ||| g.label ||| s.t.patched := by
    obtain ⟨_, _, _, thread⟩ := notifies.thread
    rw [thread]
    rfl
  have same (r : Reg) : s1.t.reg r = s.t.reg r := by rw [Thread.reg, regs]; rfl
  rw [label] at link frame
  exact ⟨_, execResultFill_task hg rfl rfl (ident.trans notifies.ident), arm, ready, pc ▸ link, frame,
    fun r notd notnext => (others r notd notnext).trans (same r), fun c h => mem.trans (popped c h)⟩

end Join

theorem joinResults : Claims.JoinResults := by
  intro s d a b ta tb f q n pf pq l
  refine ⟨fun places => ⟨fun hs free hd => ?_, fun g hg => joinCounted places hg, fun g c hg empty one => ?_,
    ⟨fun g c hg empty sound => ?_, fun g c h left x hg empty => ?_, fun g c h x hg empty canonical quiet _ => ?_⟩,
    fun g step hg asked some_ even nonzero pair => joinTakes places hg asked some_ even nonzero pair⟩,
    fun hs free drained ready room aligned even own allowed => ?_⟩
  · obtain ⟨-, -, -, -, -, -, -, place, -⟩ := id places
    have asked := State.taskSend_asked s (.load 8 false) (s.val a) place (.join .count d a b) 0 f.2
    exact ⟨_, execJoin_counts ta tb places hd hs free, (congrArg (fun t : Thread => t.ctl.clabel) asked.thread :), asked.waitHere⟩
  · obtain ⟨-, -, kind, -⟩ := id hg
    obtain ⟨s1, notifies, round, -⟩ := taskAnswer_round places kind empty
    obtain ⟨y, parks⟩ := State.stealNext_alone s1 d a b c 8 (s.generator (.pan n (pq + 8)))
    rw [one] at round
    obtain ⟨s', runs, pc, run, regs, asks, -⟩ := parkAsks places hg notifies (round.trans parks)
    exact ⟨s', runs, pc, run, regs, asks⟩
  · obtain ⟨-, -, kind, -⟩ := id hg
    obtain ⟨s1, -, round, same⟩ := taskAnswer_round places kind empty
    rw [same sound, State.generator_sound sound] at round
    intro old seed y v more lv pv spot
    exact roundAsks hg more spot round
  · obtain ⟨-, -, kind, -⟩ := id hg
    intro y v more lv pv spot
    refine roundAsks hg more spot ?_
    simp only [State.taskAnswer, kind, empty, ne_eq, not_true_eq_false, ↓reduceIte]
  · obtain ⟨-, -, kind, -⟩ := id hg
    have parks : (s.told g).taskAnswer g = ((s.told g).keepSteal ((s.told g).val b) x).joinPark a c := by
      simp only [State.taskAnswer, kind, empty, ne_eq, not_true_eq_false, ↓reduceIte]
      rfl
    obtain ⟨s', runs, pc, run, regs, asks, mem⟩ := parkAsks places hg (.refl _) parks
    rw [State.keepSteal_eq (s := s.told g) (a := a) places, State.store_pan (s := s.told g) quiet] at mem
    exact ⟨s', runs, pc, run, regs, onlyWrote_of_pan (mem ▸ rfl) (mem ▸ rfl) canonical (mem ▸ rfl), asks⟩
  · obtain ⟨r, sent, stands, counts⟩ := execJdone_counts ta tb own allowed drained room hs free ready aligned even
    have thread := sent.thread
    refine ⟨_, counts, rfl, (congrArg Thread.regs thread :), sent.mem, ?_, ?_, stands.queued⟩
    · exact (congrArg (fun t : Thread => t.ctl.clabel ||| s.lbl b) thread :)
    · exact (congrArg (fun t : Thread => t.ctl.pendred + 1) thread :)

/-! ## spawn (R63, R142) -/

/-- The global range ends at 2^55 (R204). -/
theorem classify_global (pan : Nat) {va : Nat} : classify pan va = .global ↔ va < 2 ^ 55 := by
  unfold classify
  split
  · next low => exact iff_of_true rfl low
  · next high =>
    refine iff_of_false ?_ high
    (repeat' split) <;> exact VaClass.noConfusion

/-- The registers of a thread that `spawn` starts: its argument with the label of what was read, and its number. -/
def State.spawnRegs (s : State) (b : Reg) (n : Nat) : Vector GReg 32 :=
  let regs := startRegs [s.val b, BitVec.ofNat 64 n] (partLabel s.t.ident.part)
  Vector.ofFn fun (r : Fin 32) => if r.val = 1 then { regs[r] with label := s.joined [b] } else regs[r]

/-- What `spawn` gives its thread. -/
def State.spawnBegin (s : State) (a b : Reg) (g : Gang) (n : Nat) (seed : Word) : Beginning :=
  ⟨s.val a, s.spawnRegs b n, s.joined [a, b], g.livemask, s.gangVec g, seed, partLabel s.t.ident.part⟩

/-- Who the new thread is. -/
def State.spawnIdent (s : State) (g : Gang) (n : Nat) : Ident :=
  ⟨0, s.t.ident.part, g.gid, s.t.ident.gangid, n, 0, 0, 0, 0, s.t.ident.js, 0, 0, false⟩

/-- A thread of the gang has been started with the next number, after the draws that its seed took. -/
def State.spawned (s : State) (a b : Reg) (g : Gang) (core slot draws : Nat) (seed : Word) : State :=
  let n := s.nextLthread g.gid
  let s1 : State := { s with time := { s.time with draws := draws } }
  let s2 := s1.startThread (s.spawnBegin a b g n seed) (s.spawnIdent g n) core slot
  let s3 := s2.modGang g.gid fun g => { g with bars := g.bars.map fun (x : Barrier) => { x with parts := x.parts + 1 } }
  { s3 with t := { s3.t with ident := { s3.t.ident with spawns := s3.t.ident.spawns + 1 } } }

theorem State.slot_spawned (s : State) (a b : Reg) (g : Gang) (core slot draws : Nat) (seed : Word) :
    ((s.spawned a b g core slot draws seed).slot core slot).state = .occupied :=
  congrArg Slot.state (State.slot_startThread_same { s with time := { s.time with draws := draws } }
    (s.spawnBegin a b g (s.nextLthread g.gid) seed) (s.spawnIdent g (s.nextLthread g.gid)) core slot)

theorem Thread.spawnSeed_ne_zero {t : Thread} {responders : Bool} {n : Nat} {x : Word}
    (h : t.spawnSeed responders n = some x) : x ≠ 0 := by
  unfold Thread.spawnSeed at h
  split at h
  · exact Option.some.inj h ▸ seedOf_ne_zero _ _
  · split at h
    · contradiction
    · exact Option.some.inj h ▸ seedOf_ne_zero _ _

section Spawn
variable {s : State} {d a b : Reg} (ta tb : Bool) {g : Gang} (hd : s.writable [d]) (hs : s.readable [a, b])
include hd hs

theorem execSpawn_align (odd : (s.val a).toNat % 2 = 1) : execSpawn d a b ta tb s = .next (s.fail .align (s.val a) 0 [a, b] 0) := by
  rw [execSpawn, State.issue_scalar s [d] [(a, ta), (b, tb)] _ hd hs]
  simp only [odd, ↓reduceIte]

theorem execSpawn_prot (even : (s.val a).toNat % 2 = 0) (high : 2 ^ 55 ≤ (s.val a).toNat) :
    execSpawn d a b ta tb s = .next (s.fail .prot (s.val a) 0 [a, b] 0) := by
  have off : s.vaClass (s.val a) ≠ .global := fun h => Nat.not_lt.mpr high ((classify_global _).mp h)
  rw [execSpawn, State.issue_scalar s [d] [(a, ta), (b, tb)] _ hd hs]
  simp only [even, off, Nat.zero_ne_one, ne_eq, not_false_eq_true, ↓reduceIte]

variable (even : (s.val a).toNat % 2 = 0) (low : (s.val a).toNat < 2 ^ 55) (hg : s.gang? s.t.ident.gang = some g)
include even low hg

/-- Without a slot, or with 16,384 threads, d is 1. -/
theorem execSpawn_full (full : s.freeAmong s.t.ident.part s.t.spawnCores = none ∨ 16384 ≤ s.gangSize g.gid) :
    execSpawn d a b ta tb s = .next (s.wrote d 1 [] 4) := by
  have global : s.vaClass (s.val a) = .global := (classify_global _).mpr low
  rw [execSpawn, State.issue_scalar s [d] [(a, ta), (b, tb)] _ hd hs, ← State.write_retire]
  simp only [even, global, Nat.zero_ne_one, ne_eq, not_true_eq_false, ↓reduceIte, hg]
  cases found : s.freeAmong s.t.ident.part s.t.spawnCores with
  | none => rfl
  | some place =>
    have many : 16384 ≤ s.gangSize g.gid := full.resolve_left (by simp [found])
    simp only [many, ↓reduceIte]

theorem execSpawn_starts {core slot : Nat} (found : s.freeAmong s.t.ident.part s.t.spawnCores = some (core, slot))
    (few : s.gangSize g.gid < 16384) : ∃ draws seed, seed ≠ 0 ∧ execSpawn d a b ta tb s =
      .next (((s.spawned a b g core slot draws seed).write d (BitVec.ofNat 64 (s.nextLthread g.gid * 2 ^ 16)) (s.joined [])).retire 4) := by
  have global : s.vaClass (s.val a) = .global := (classify_global _).mpr low
  rw [execSpawn, State.issue_scalar s [d] [(a, ta), (b, tb)] _ hd hs]
  simp only [even, global, Nat.zero_ne_one, ne_eq, not_true_eq_false, ↓reduceIte, hg, found, Nat.not_le.mpr few]
  cases seeded : s.t.spawnSeed g.responder (s.nextLthread g.gid) with
  | some x => exact ⟨s.time.draws, x, Thread.spawnSeed_ne_zero seeded, rfl⟩
  | none =>
    refine ⟨s.time.draws + 1, if Config.freeValue s.time.draws = 0 then 1 else Config.freeValue s.time.draws, ?_, rfl⟩
    split
    · decide
    · assumption

end Spawn

/-- What a new thread finds in its registers. -/
theorem spawnBegin_regs (s : State) (a b : Reg) (g : Gang) (n : Nat) (seed : Word) (i : Ident) (uid core slot : Nat) :
    let u := Thread.begun (s.spawnBegin a b g n seed) i uid core slot
    u.reg 1 = ⟨s.val b, true, false, s.joined [b]⟩ ∧ (u.reg 2).val = BitVec.ofNat 64 n := by
  constructor <;> simp [Thread.begun, Thread.reg, State.spawnBegin, State.spawnRegs, startRegs, GReg.start]

theorem spawnResults : Claims.SpawnResults := by
  intro s d a b ta tb g hd hs hg gid pc found n
  refine ⟨fun even low few core slot is => ?_, fun even low full => execSpawn_full ta tb hd hs even low hg full, fun even high traps => ?_,
    fun odd traps => ?_⟩
  · obtain ⟨draws, seed, nonzero, starts⟩ := execSpawn_starts ta tb hd hs even low hg is few
    obtain ⟨rs, only⟩ := (s.spawned a b g core slot draws seed).t.write_only d (BitVec.ofNat 64 (n * 2 ^ 16)) (s.joined [])
    have gives (r : Reg) := (s.spawned a b g core slot draws seed).t.reg_write d r (BitVec.ofNat 64 (n * 2 ^ 16)) (s.joined [])
    obtain ⟨argument, number⟩ := spawnBegin_regs s a b g n seed (s.spawnIdent g n) s.time.next core slot
    have task : fieldOf (0 : Word) 0 2 = 0 := by decide
    have outside : (fieldOf (0 : Word) 17 1 = 1 : Bool) = false := by decide
    refine ⟨_, Thread.begun (s.spawnBegin a b g n seed) (s.spawnIdent g n) s.time.next core slot, starts, rfl, ?_, rfl,
      fun nonzero => (gives d).trans (if_pos ⟨rfl, nonzero⟩),
      fun r other => (gives r).trans (if_neg fun h => other h.1), rfl, rfl, rfl, rfl, task, outside, rfl, rfl, rfl, rfl, rfl,
      (congrArg GReg.val argument :), number, nonzero, (congrArg GReg.label argument :), rfl, ?_⟩
    · exact (congrArg (fun t : Thread => t.pc + 4) only :)
    · exact State.slot_spawned s a b g core slot draws seed
  · refine (execSpawn_prot ta tb hd hs even high).trans ?_
    rw [State.fail_traps _ _ _ _ _ _ traps, labelsOf_two, label_or_zero]
    rfl
  · refine (execSpawn_align ta tb hd hs odd).trans ?_
    rw [State.fail_traps _ _ _ _ _ _ traps, labelsOf_two, label_or_zero]
    rfl

end Sys2Proof.Machine

namespace Sys2Proof

/-- Settles O22: each request of `fork`, `join` and `jdone` stands at its bank, each answer is looked at in the state that has taken in its label, and
`spawn` leaves the gang with one thread more. -/
theorem tasks : Obligations.Tasks := ⟨Machine.forkResults, Machine.joinResults, Machine.taskTraps, Machine.spawnResults⟩

end Sys2Proof

/-! # Scalar floating-point results (O5) -/

namespace Sys2Proof.Machine
open Sys2Proof Claims

/-- The completion of a scalar floating-point instruction, or its FPEXC, as the statements write it (R162, R164). -/
theorem State.finishFp_outcome {s : State} (traps : s.traps) (d : Reg) (v : Word) (fl : FFlags) (rm : Rm) (draws : Nat) (srcs : List Reg)
    (n : Nat) : .next (s.finishFp d v fl draws (s.resultLabel srcs ||| s.t.seedLabelFor rm) srcs n) =
      fpOutcome s d (v, fl) rm draws srcs n := by
  unfold State.finishFp fpOutcome
  split
  case isTrue =>
    rw [State.fail_traps { s with t := s.t.raise fl } _ _ _ _ _ traps, BitVec.ofNat_toNat]
    rfl
  case isFalse => simp [State.retire, State.write, State.went, Thread.raise, Thread.draw, State.resultLabel_eq, Thread.seedLabelFor]

section Outcome
variable {s : State} {d : Reg} {srcs : List (Reg × Bool)} (traps : s.traps) (hd : s.writable [d]) (hs : s.readable (srcs.map Prod.fst))
include traps hd hs

/-- An operation that rounds by STATUS.RM (R167). -/
theorem fpArith_outcome {i : Instr} {f : Rm → Word → State → Nat × FFlags} {r : Nat × FFlags} {n : Nat}
    (hx : exec i s = fpArith f [d] srcs d n s) (hr : f s.t.rm (xorshift s.t.ctl.seed) s = r) :
    exec i s = fpOutcome s d (BitVec.ofNat 64 r.1, r.2) s.t.rm (if s.t.rm = .sr then 1 else 0) (srcs.map Prod.fst) n := by
  rw [hx, ← hr, ← State.finishFp_outcome traps]
  exact State.issue_scalar s [d] srcs _ hd hs

/-- An operation that does not round (R168). -/
theorem fpPlain_outcome (f : State → Word × FFlags) : fpPlain f srcs d s = fpOutcome s d (f s) .rne 0 (srcs.map Prod.fst) 4 := by
  rw [← State.finishFp_outcome traps, show s.t.seedLabelFor .rne = 0 from rfl, label_or_zero]
  exact State.issue_scalar s [d] srcs _ hd hs

end Outcome

theorem execRnd_outcome {s : State} (traps : s.traps) {d a : Reg} (hd : s.writable [d]) (ha : s.readable [a]) (f : FpFmt) (m : Rm)
    (ta tb : Bool) : let r := fRnd (floatOf f) m (xorshift s.t.ctl.seed) (s.val a).toNat
    execRnd d a f m ta tb s = fpOutcome s d (BitVec.ofNat 64 r.1, r.2) m (if m = .sr then 1 else 0) [a] 4 :=
  (State.issue_scalar s [d] [(a, ta)] _ hd ha).trans (State.finishFp_outcome traps _ _ _ m _ _ _)

theorem execCvt_outcome {s : State} (traps : s.traps) {d a : Reg} (hd : s.writable [d]) (ha : s.readable [a]) (q : CvtRound)
    (dst src : Fmt) (ta tb : Bool) : let rm := cvtMode q s.t
    let z := xorshift s.t.ctl.seed
    execCvt d a q dst src ta tb s = fpOutcome s d (cvtValue src dst rm z (xorshift z) (s.val a).toNat) rm
      (if rm = .sr then cvtDraws src else 0) [a] 4 :=
  (State.issue_scalar s [d] [(a, ta)] _ hd ha).trans (State.finishFp_outcome traps _ _ _ (cvtMode q s.t) _ _ _)

/-- The arithmetic of the FP group, `rnd`, `cvt` and the compact forms. -/
theorem floatArithmetic : Claims.FloatArithmetic := by
  intro s d a b f m q dst src ta tb traps hd ha z rm g x y n w cm
  have mode : cm = cvtMode q s.t := by cases q <;> rfl
  have and_a {rs : List Reg} (hs : s.readable rs) : s.readable (a :: rs) := List.forall_mem_cons.2 ⟨ha a (by simp), hs⟩
  refine ⟨fpArith_outcome (srcs := [(a, ta)]) traps hd ha (exec_fsqrt ..) rfl, execRnd_outcome traps hd ha f m ta tb,
    mode ▸ execCvt_outcome traps hd ha q dst src ta tb, fun hb => ?_, fun hbd => ?_, fun hd' => ?_⟩
  · have two {op v r} := fpArith_outcome (i := op) (f := v) (r := r) (n := 4) (srcs := [(a, ta), (b, tb)]) traps hd (and_a hb)
    exact ⟨two (exec_fadd ..) rfl, two (exec_fsub ..) rfl, two (exec_fmul ..) rfl, two (exec_fdiv ..) rfl⟩
  · exact fpArith_outcome (srcs := [(a, ta), (b, tb), (d, false)]) traps hd (and_a hbd) (exec_fma ..) rfl
  · have both : s.readable [d, a] := List.forall_mem_cons.2 ⟨hd' d (by simp), ha⟩
    have compact {op v r} := fpArith_outcome (i := op) (f := v) (r := r) (n := 2) (srcs := [(d, false), (a, false)]) traps hd both
    exact ⟨compact (exec_cFadd ..) rfl, compact (exec_cFmul ..) rfl⟩

section Plain
variable {s : State} {d a b : Reg} (traps : s.traps) (hd : s.writable [d]) (hs : s.readable [a, b])
include traps hd hs

theorem fpCompare_outcome (c : FCmp) (f : FpFmt) (ta tb : Bool) :
    let r := fCompare c (floatOf f) (s.val a).toNat (s.val b).toNat
    fpCompare c f d a b ta tb s = fpOutcome s d (if r.1 then 1 else 0, r.2) .rne 0 [a, b] 4 :=
  fpPlain_outcome (srcs := [(a, ta), (b, tb)]) traps hd hs _

theorem fpMinMax_outcome (least : Bool) (f : FpFmt) (ta tb : Bool) :
    let r := fMinMax least (floatOf f) (s.val a).toNat (s.val b).toNat
    fpMinMax least f d a b ta tb s = fpOutcome s d (BitVec.ofNat 64 r.1, r.2) .rne 0 [a, b] 4 :=
  fpPlain_outcome (srcs := [(a, ta), (b, tb)]) traps hd hs _

end Plain

/-- The operations of the FP group that do not round. -/
theorem floatCompare : Claims.FloatCompare := by
  intro s d a b f ta tb traps hd hs g x y out one num
  have ha : s.readable [a] := fun r hr => hs r (List.mem_cons.2 (.inl (List.mem_singleton.1 hr)))
  have compare (c : FCmp) := fpCompare_outcome traps hd hs c f ta tb
  have minMax (least : Bool) := fpMinMax_outcome traps hd hs least f ta tb
  exact ⟨(exec_fcmpEq ..).trans (compare .eq), (exec_fcmpLt ..).trans (compare .lt), (exec_fcmpLe ..).trans (compare .le),
    (exec_fmin ..).trans (minMax true), (exec_fmax ..).trans (minMax false),
    (exec_fclass ..).trans (fpPlain_outcome (srcs := [(a, ta)]) traps hd ha _)⟩

end Sys2Proof.Machine

namespace Sys2Proof

/-- Settles O5: each instruction passes the checks of R101, and its completion is that of R164 with its own value, mode and draws. -/
theorem floatResults : Obligations.FloatResults := ⟨Machine.floatArithmetic, Machine.floatCompare⟩

end Sys2Proof

/-! # Exact rounding (O6) -/

namespace Sys2Proof.Machine
open Sys2Proof

/-! ## The values of encodings (R150, R151) -/

theorem bitLen_le {m n : Nat} : bitLen m ≤ n ↔ m < 2 ^ n := by
  unfold bitLen
  split
  case isTrue h => simp [h]
  case isFalse h => exact Nat.log2_lt h

/-- The exponent and the fraction of an encoding, read as one number. -/
def magnitude (f : FloatFmt) (c : Nat) : Nat := bitsAt c 0 (f.mbits + f.ebits)

theorem magnitude_eq (f : FloatFmt) (c : Nat) : magnitude f c = bitsAt c 0 f.mbits + 2 ^ f.mbits * bitsAt c f.mbits f.ebits := by
  rw [magnitude, bitsAt_add, Nat.zero_add]

/-- An encoding is its sign on its magnitude (R150). -/
theorem signCode_magnitude {f : FloatFmt} {c : Nat} (h : c < 2 ^ fwidth f) :
    signCode f (bitAt c (f.mbits + f.ebits)) (magnitude f c) = c := by
  have parts : c = magnitude f c + 2 ^ (f.mbits + f.ebits) * bitsAt c (f.mbits + f.ebits) 1 := by
    have all : c = bitsAt c 0 (f.mbits + f.ebits + 1) := by
      rw [bitsAt, Nat.pow_zero, Nat.div_one, Nat.mod_eq_of_lt]
      rwa [fwidth, show 1 + f.ebits + f.mbits = f.mbits + f.ebits + 1 by omega] at h
    rwa [bitsAt_add, Nat.zero_add] at all
  have bit := bitsAt_lt c (f.mbits + f.ebits) 1
  rw [signCode, bitAt, Nat.add_comm f.ebits]
  conv_rhs => rw [parts]
  obtain zero | one : bitsAt c (f.mbits + f.ebits) 1 = 0 ∨ bitsAt c (f.mbits + f.ebits) 1 = 1 := by omega
  · simp [zero]
  · simp [one]

/-- With infinities, every exponent but the one of all ones is that of a finite value (R151). -/
theorem magnitude_le_ieee {f : FloatFmt} {c : Nat} (hf : f.nans = .ieee) (h : bitsAt c f.mbits f.ebits ≠ 2 ^ f.ebits - 1) :
    magnitude f c ≤ maxCode f := by
  have fraction := bitsAt_lt c 0 f.mbits
  have exponent := bitsAt_lt c f.mbits f.ebits
  have below : 2 ^ f.mbits * (bitsAt c f.mbits f.ebits + 1) ≤ 2 ^ f.mbits * (2 ^ f.ebits - 1) := Nat.mul_le_mul_left _ (by omega)
  simp only [magnitude_eq, maxCode, hf, Nat.mul_comm (2 ^ f.ebits - 1)]
  rw [Nat.mul_add_one] at below
  omega

/-- Without infinities and with one NaN, every magnitude but the one of all ones is that of a finite value (R151). -/
theorem magnitude_le_topOnly {f : FloatFmt} {c : Nat} (hf : f.nans = .topOnly)
    (h : ¬ (bitsAt c f.mbits f.ebits = 2 ^ f.ebits - 1 ∧ bitsAt c 0 f.mbits = 2 ^ f.mbits - 1)) : magnitude f c ≤ maxCode f := by
  have fraction := bitsAt_lt c 0 f.mbits
  have exponent := bitsAt_lt c f.mbits f.ebits
  have whole : 2 ^ (f.ebits + f.mbits) = 2 ^ f.mbits * (2 ^ f.ebits - 1) + 2 ^ f.mbits := by
    rw [← Nat.mul_add_one, Nat.sub_add_cancel Nat.one_le_two_pow, Nat.add_comm, Nat.pow_add]
  simp only [magnitude_eq, maxCode, hf, whole]
  by_cases top : bitsAt c f.mbits f.ebits = 2 ^ f.ebits - 1
  · rw [top]; omega
  · have below : 2 ^ f.mbits * (bitsAt c f.mbits f.ebits + 1) ≤ 2 ^ f.mbits * (2 ^ f.ebits - 1) := Nat.mul_le_mul_left _ (by omega)
    rw [Nat.mul_add_one] at below
    omega

theorem magnitude_le_absent {f : FloatFmt} (c : Nat) (hf : f.nans = .absent) : magnitude f c ≤ maxCode f := by
  have := bitsAt_lt c 0 (f.mbits + f.ebits)
  simp only [magnitude, maxCode, hf, Nat.add_comm f.ebits]
  omega

/-- The value of an encoding that is neither an infinity nor a NaN (R151). -/
def finiteF (f : FloatFmt) (c : Nat) : FVal :=
  if bitsAt c f.mbits f.ebits = 0 then .fin (bitAt c (f.mbits + f.ebits)) (bitsAt c 0 f.mbits) (1 - f.bias - f.mbits)
  else .fin (bitAt c (f.mbits + f.ebits)) (2 ^ f.mbits + bitsAt c 0 f.mbits) (bitsAt c f.mbits f.ebits - f.bias - f.mbits)

/-- What a finite value of a format is, and that it is within the format's range. -/
theorem decodeF_fin {f : FloatFmt} {c : Nat} {neg : Bool} {m : Nat} {e : Int} (h : decodeF f c = .fin neg m e) :
    finiteF f c = .fin neg m e ∧ magnitude f c ≤ maxCode f := by
  simp only [decodeF] at h
  cases hf : f.nans with
  | ieee =>
    simp only [hf] at h
    split at h
    · split at h <;> cases h
    · next exponent => exact ⟨h, magnitude_le_ieee hf exponent⟩
  | topOnly =>
    simp only [hf] at h
    split at h
    · cases h
    · next top => exact ⟨h, magnitude_le_topOnly hf top⟩
  | absent =>
    simp only [hf] at h
    exact ⟨h, magnitude_le_absent c hf⟩

/-! ## Rounding at the last place (R156 to R158) -/

/-- What has no bit below the retained position is cut nowhere and never raised, whatever the mode and the draw. -/
theorem roundAt_exact {rm : Rm} {z : Word} {neg : Bool} {m : Nat} {e : Int} :
    roundAt rm z neg m e e false = (m, false, false) := by simp [roundAt]

/-- A subnormal value keeps its fraction. -/
theorem roundF_subnormal {f : FloatFmt} {rm : Rm} {z : Word} {neg : Bool} {m : Nat} (hm : m ≠ 0) (fraction : m < 2 ^ f.mbits)
    (fits : m ≤ maxCode f) : roundF f rm z neg m (1 - f.bias - f.mbits) false = (signCode f neg m, 0) := by
  have len := bitLen_le.2 fraction
  have tiny : 1 - f.bias - f.mbits + bitLen m - 1 < 1 - f.bias := by omega
  have place : max (1 - f.bias - f.mbits + bitLen m - 1) (1 - f.bias) - f.mbits = 1 - f.bias - f.mbits := by omega
  simp [roundF, hm, place, tiny, roundAt_exact, Nat.not_lt.2 fits]

/-- A normal value keeps its exponent and its fraction. -/
theorem roundF_normal {f : FloatFmt} {rm : Rm} {z : Word} {neg : Bool} {m E : Nat} (hE : E ≠ 0) (fraction : m < 2 ^ f.mbits)
    (fits : m + 2 ^ f.mbits * E ≤ maxCode f) :
    roundF f rm z neg (2 ^ f.mbits + m) (E - f.bias - f.mbits) false = (signCode f neg (m + 2 ^ f.mbits * E), 0) := by
  have len : bitLen (2 ^ f.mbits + m) = f.mbits + 1 :=
    le_antisymm (bitLen_le.2 (by omega)) (Nat.lt_of_not_le fun h => by have := bitLen_le.1 h; omega)
  have top : (E : Int) - f.bias - f.mbits + bitLen (2 ^ f.mbits + m) - 1 = E - f.bias := by omega
  have normal : ¬ (E : Int) - f.bias < 1 - f.bias := by omega
  have place : max (E - f.bias) (1 - f.bias) - f.mbits = E - f.bias - f.mbits := by omega
  have code : (E - 1) * 2 ^ f.mbits + (2 ^ f.mbits + m) = m + 2 ^ f.mbits * E := by
    rw [← Nat.add_assoc, ← Nat.succ_mul, Nat.succ_eq_add_one, Nat.sub_add_cancel (Nat.pos_of_ne_zero hE), Nat.mul_comm, Nat.add_comm]
  simp [roundF, top, normal, place, roundAt_exact, code, Nat.not_lt.2 fits]

/-- A finite value of any format is rounded to its own encoding and raises no flag. -/
theorem roundF_decodeF {f : FloatFmt} {c : Nat} {neg : Bool} {m : Nat} {e : Int} (rm : Rm) (z : Word) (hc : c < 2 ^ fwidth f)
    (h : decodeF f c = .fin neg m e) (hm : m ≠ 0) : roundF f rm z neg m e false = (c, 0) := by
  obtain ⟨value, fits⟩ := decodeF_fin h
  have fraction := bitsAt_lt c 0 f.mbits
  have whole := signCode_magnitude hc
  rw [magnitude_eq] at fits whole
  unfold finiteF at value
  split at value
  case isTrue subnormal =>
    obtain ⟨rfl, rfl, rfl⟩ := FVal.fin.inj value
    rw [subnormal, Nat.mul_zero, Nat.add_zero] at fits whole
    rw [roundF_subnormal hm fraction fits, whole]
  case isFalse normal =>
    obtain ⟨rfl, rfl, rfl⟩ := FVal.fin.inj value
    rw [roundF_normal normal fraction fits, whole]

theorem roundingIsExact : Claims.RoundingIsExact := by
  intro f rm z c hc
  split
  next h => exact roundF_decodeF rm z hc h
  next => trivial

end Sys2Proof.Machine

namespace Sys2Proof

/-- Settles O6: a finite value has no bit below the place at which its format retains it, so nothing is cut, and it is in the format's range. -/
theorem roundingIsExact : Obligations.RoundingIsExact := Machine.roundingIsExact

end Sys2Proof

/-! # Vector instructions: their checks, masks, flags and draws (for O23 to O27) -/

namespace Sys2Proof.Machine
open Sys2Proof Claims

/-! ## The checks and the result (R101, R175, R176, R184) -/

theorem vready_mono {s : State} {vs us : List VReg} (ready : vready s vs) (h : us ⊆ vs) : vready s us := by
  obtain ⟨origin, claimed, full⟩ := ready
  exact ⟨origin, claimed, fun v hv => full v (h hv)⟩

theorem vready_claimed {s : State} {vs : List VReg} (ready : vready s vs) : s.t.claim.lanes ≠ 0 := by
  obtain ⟨_, claimed, _⟩ := ready
  exact claimed

/-- A vector instruction whose registers are full has its own effect. -/
theorem vissue_ready {s : State} {vdests vsrcs : List VReg} {mem : Bool} {dests : List Reg} {srcs : List (Reg × Bool)}
    {k : State → Result} (ready : vready s (vdests ++ vsrcs)) (hd : s.writable dests) (hs : s.readable (srcs.map Prod.fst))
    (free : mem = true → s.acquireHeld = false) : vissue vdests vsrcs mem dests srcs s k = k s := by
  obtain ⟨origin, claimed, full⟩ := ready
  exact s.issue_go _ k (s.check_go _ (by simp [Uses.none]) (by simp [origin]) (fun _ => claimed) hd
    (fun v hv => full v (List.mem_append_left _ hv)) hs (fun v hv => full v (List.mem_append_right _ hv)) free)

theorem State.readable_nil (s : State) : s.readable [] := fun _ h => absurd h List.not_mem_nil

theorem State.writable_nil (s : State) : s.writable [] := fun _ h => absurd h List.not_mem_nil

/-- A register is written and the instruction has issued. -/
theorem State.retire_write (s : State) (d : Reg) (v : Word) (l : Label) (n : Nat) : (s.write d v l).retire n = s.put d v l n := by
  simp [State.put, State.retire, State.write]

/-- The flags that no operation raises leave STATUS as it is (R164). -/
theorem Thread.raise_zero (t : Thread) : t.raise 0 = t := by
  have same : putField t.ctl.status 5 5 (t.flags ||| 0).toNat = t.ctl.status := by
    refine BitVec.eq_of_getLsbD_eq fun i hi => ?_
    rw [getLsbD_putField _ _ _ _ hi]
    split
    case isTrue inside =>
      rw [show t.flags ||| 0 = t.flags from BitVec.or_zero, Thread.flags, BitVec.toNat_ofNat, Nat.testBit_mod_two_pow, testBit_fieldOf]
      simp [show i - 5 < 5 by omega, show 5 + (i - 5) = i by omega]
    case isFalse => rfl
  simp only [Thread.raise, Thread.setStatus, same]

/-! ## Masks and the labels of what is read (R185, R186) -/

section Mask
variable (s : State) (d : VReg) (k : MReg) (e z : Bool)

theorem Thread.active_eq (t : Thread) (i : Nat) : t.active ⟨k, e, z⟩ i = !(e && !t.mbit k i) := by simp [Thread.active]

theorem Thread.active_false (t : Thread) (i : Nat) : t.active ⟨k, e, z⟩ i = false ↔ e = true ∧ t.mbit k i = false := by
  simp [Thread.active]

theorem Thread.actives_eq (t : Thread) :
    t.actives ⟨k, e, z⟩ = (List.range (16 * t.claim.lanes)).filter fun i => !(e && !t.mbit k i) :=
  List.filter_congr fun i _ => t.active_eq k e z i

/-- The elements of a destination, where those of its active elements are known. -/
theorem blend_eq {f g : Nat → BitVec 32} (h : ∀ i, i < 16 * s.t.claim.lanes → s.t.active ⟨k, e, z⟩ i = true → f i = g i) :
    s.t.blend ⟨k, e, z⟩ d f = velems s d k e z g := by
  refine List.map_congr_left fun i hi => ?_
  have inside : i < 16 * s.t.claim.lanes := List.mem_range.1 hi
  by_cases off : e = true ∧ s.t.mbit k i = false
  · rw [if_neg (Bool.eq_false_iff.1 ((s.t.active_false k e z i).2 off)), if_pos off]
  · have on : s.t.active ⟨k, e, z⟩ i = true := Bool.eq_true_of_not_eq_false (mt (s.t.active_false k e z i).1 off)
    rw [if_pos on, if_neg off, h i inside on]

/-- A merged destination is read with the sources. -/
theorem merged_reads (vs : List VReg) :
    (vs ++ if Masking.merges ⟨k, e, z⟩ then [d] else []) = if e = true ∧ z = false then vs ++ [d] else vs := by
  cases e <;> cases z <;> simp [Masking.merges]

end Mask

/-- No element is inactive without a mask. -/
theorem velems_unmasked (s : State) (d : VReg) (z : Bool) (k : MReg) (f : Nat → BitVec 32) :
    velems s d k false z f = (List.range (16 * s.t.claim.lanes)).map f := by simp [velems]

/-! ## The shape of the rotation class (R184, R187) -/

/-- The label of what a vector instruction computes (R162, R186). -/
def vlabel (s : State) (rs : List Reg) (vs : List VReg) (ms : List MReg) (rounds : Bool) : Label :=
  s.joined rs ||| s.t.vlabels vs ms ||| if rounds then s.t.seedLabelFor s.t.rm else 0

theorem vlabel_plain (s : State) (rs : List Reg) (vs : List VReg) (ms : List MReg) :
    vlabel s rs vs ms false = s.joined rs ||| s.t.vlabels vs ms := label_or_zero _

section Rotation
variable {s : State} {d : VReg} {us : List VReg} (ready : vready s us) (hd : d ∈ us)
include ready hd

/-- The destination and what is read, a merged destination among it, are full. -/
theorem vready_reads {srcs : List VReg} (hv : srcs ⊆ us) (merges : Bool) :
    vready s ([d] ++ (srcs ++ if merges then [d] else [])) := vready_mono ready <| by
  cases merges <;> simp [hd, hv]

/-- A rotation-class instruction writes its destination, its flags and its draws, unless a flag traps. -/
theorem vrotate_ready {srcs : List VReg} {masks : List MReg} {merges : Bool} {rs : List Reg} {rounds : Bool} {n : Nat}
    {f : Thread → VecOut} {x : List (BitVec 32)} {fl : FFlags} {draws : Nat} (hv : srcs ⊆ us) (hr : s.readable rs)
    (hf : f s.t = ⟨x, fl, draws⟩) :
    vrotate d srcs masks merges rs rounds n f s =
      let l := vlabel s rs (srcs ++ if merges then [d] else []) masks rounds
      if fl &&& s.t.fpen ≠ 0 then .next (s.vecTrap fl l) else .next (vwrote s ((s.t.raise fl).draw draws) d x l n) := by
  refine (vissue_ready (vready_reads ready hd hv merges) s.writable_nil (by simpa [Function.comp_def] using hr) (by simp)).trans ?_
  simp only [hf]
  rfl

end Rotation

end Sys2Proof.Machine

/-! # Elementwise integer results (O23) -/

namespace Sys2Proof.Machine
open Sys2Proof Claims

/-! ## The values of the lane operations, by arithmetic on numbers and integers (R193) -/

section Values
variable {w : Nat} (x y : BitVec w)

theorem bitVec_add_eq : x + y = BitVec.ofNat w (x.toNat + y.toNat) := by simp [BitVec.ofNat_add]

theorem bitVec_sub_eq : x - y = BitVec.ofInt w (x.toInt - y.toInt) := by
  rw [BitVec.sub_eq_add_neg, Int.sub_eq_add_neg, BitVec.ofInt_add, BitVec.ofInt_neg, BitVec.ofInt_toInt, BitVec.ofInt_toInt]

theorem bitVec_mul_eq : x * y = BitVec.ofNat w (x.toNat * y.toNat) := by simp [BitVec.ofNat_mul]

theorem bitVec_shiftLeft_eq (k : Nat) : x <<< k = BitVec.ofNat w (x.toNat * 2 ^ k) :=
  BitVec.eq_of_toNat_eq (by simp [Nat.shiftLeft_eq])

theorem bitVec_ushiftRight_eq (k : Nat) : x >>> k = BitVec.ofNat w (x.toNat / 2 ^ k) :=
  BitVec.eq_of_toNat_eq (by
    simp [Nat.shiftRight_eq_div_pow, Nat.mod_eq_of_lt (Nat.lt_of_le_of_lt (Nat.div_le_self _ _) x.isLt)])

theorem bitVec_sshiftRight_eq (k : Nat) : x.sshiftRight k = BitVec.ofInt w (x.toInt / 2 ^ k) := by
  rw [← BitVec.ofInt_toInt (x := x.sshiftRight k), BitVec.toInt_sshiftRight, Int.shiftRight_eq_div_pow]
  norm_cast

theorem bitVec_min_eq : (if x.slt y then x else y) = if x.toInt ≤ y.toInt then x else y := by
  simp only [BitVec.slt_iff_toInt_lt, ite_lt_eq_ite_le (f := BitVec.toInt) fun _ _ => BitVec.eq_of_toInt_eq]

theorem bitVec_max_eq : (if x.slt y then y else x) = if x.toInt ≤ y.toInt then y else x := by
  simp only [BitVec.slt_iff_toInt_lt]
  obtain h | h | h := lt_trichotomy x.toInt y.toInt
  · simp [h, h.le]
  · simp [BitVec.eq_of_toInt_eq h]
  · simp [h.not_gt, h.not_ge]

theorem bitVec_mac_eq (a : BitVec w) : a + x * y = BitVec.ofNat w (a.toNat + x.toNat * y.toNat) := by
  simp [BitVec.ofNat_add, BitVec.ofNat_mul]

theorem bitVec_add_signExtend {n : Nat} (i : BitVec n) : x + i.signExtend w = BitVec.ofInt w (x.toInt + i.toInt) := by
  rw [BitVec.ofInt_add, BitVec.ofInt_toInt, BitVec.signExtend]

end Values

/-! ## The shapes of the lane operations (R185, R186) -/

section Lanes
variable {s : State} {d : VReg} {us : List VReg} (ready : vready s us) (hd : d ∈ us)
include ready hd

/-- A rotation-class instruction that raises no flag and draws nothing. -/
theorem vrotate_quiet {srcs : List VReg} {masks : List MReg} {merges : Bool} {rs : List Reg} {n : Nat} {f : Thread → VecOut}
    {x : List (BitVec 32)} (hv : srcs ⊆ us) (hr : s.readable rs) (hf : f s.t = ⟨x, 0, 0⟩) :
    vrotate d srcs masks merges rs false n f s =
      .next (vwrote s s.t d x (s.joined rs ||| s.t.vlabels (srcs ++ if merges then [d] else []) masks) n) := by
  refine (vrotate_ready ready hd hv hr hf).trans ?_
  rw [Thread.raise_zero, vlabel_plain, if_neg (by simp)]
  rfl

section Masked
variable {srcs : List VReg} (hv : srcs ⊆ us) {k : MReg} {e z : Bool} {n : Nat} {f : Thread → Nat → BitVec 32} {g : Nat → BitVec 32}
  (h : ∀ i, f s.t i = g i)
include hv h

/-- An elementwise operation on its sources. -/
theorem velementwise_writes :
    velementwise d srcs ⟨k, e, z⟩ false n f s = .next (vwrote s s.t d (velems s d k e z g) (vjoined s [] srcs d k e z) n) := by
  refine (vrotate_quiet ready hd hv s.readable_nil (congrArg (VecOut.mk · 0 0) (blend_eq s d k e z fun i _ _ => h i))).trans ?_
  rw [Bool.false_or, merged_reads]
  rfl

/-- An elementwise operation that reads its destination. -/
theorem velementwise_accumulates :
    velementwise d srcs ⟨k, e, z⟩ true n f s = .next (vwrote s s.t d (velems s d k e z g)
      (s.joined [] ||| s.t.vlabels (srcs ++ [d]) (if e = true then [k] else [])) n) :=
  vrotate_quiet ready hd hv s.readable_nil (congrArg (VecOut.mk · 0 0) (blend_eq s d k e z fun i _ _ => h i))

end Masked

/-- An operation of two sources on each element. -/
theorem vbinary_writes {a b : VReg} (hv : [a, b] ⊆ us) {k : MReg} {e z : Bool} {n : Nat} {f : BitVec 32 → BitVec 32 → BitVec 32}
    {g : Nat → BitVec 32} (h : ∀ i, f (s.t.velem a i) (s.t.velem b i) = g i) :
    vbinary f d a b ⟨k, e, z⟩ n s = .next (vwrote s s.t d (velems s d k e z g) (vjoined s [] [a, b] d k e z) n) :=
  velementwise_writes ready hd hv h

end Lanes

theorem vectorIntegerResults : Claims.VectorIntegerResults := by
  intro s d a b k e z ready x y sh out
  have hd : d ∈ [d, a, b] := by simp
  have hv : [a, b] ⊆ [d, a, b] := List.subset_cons_self ..
  have two {i : Instr} {f : BitVec 32 → BitVec 32 → BitVec 32} {g : Nat → BitVec 32}
      (hx : exec i s = vbinary f d a b ⟨k, e, z⟩ 4 s) (h : ∀ i, f (x i) (y i) = g i) : out i [a, b] g :=
    hx.trans (vbinary_writes ready hd hv h)
  refine ⟨two (exec_vadd ..) fun i => bitVec_add_eq _ _, two (exec_vsub ..) fun i => bitVec_sub_eq _ _,
    two (exec_vmul ..) fun i => bitVec_mul_eq _ _, two (exec_vmin ..) fun i => bitVec_min_eq _ _,
    two (exec_vmax ..) fun i => bitVec_max_eq _ _, two (exec_vand ..) fun i => rfl, two (exec_vor ..) fun i => rfl,
    two (exec_vxor ..) fun i => rfl, two (exec_vshLl ..) fun i => bitVec_shiftLeft_eq _ _,
    two (exec_vshRl ..) fun i => bitVec_ushiftRight_eq _ _, two (exec_vshRa ..) fun i => bitVec_sshiftRight_eq _ _,
    (exec_vmv ..).trans (velementwise_writes ready hd (by simp) fun i => rfl),
    (exec_vmac ..).trans (velementwise_accumulates ready hd hv fun i => bitVec_mac_eq _ _ _), ?_⟩
  rw [velems_unmasked]
  exact (exec_vsel ..).trans (vrotate_quiet ready hd hv s.readable_nil rfl)

theorem vectorMoves : Claims.VectorMoves := by
  intro s d a g k e z r
  refine ⟨fun ready ha => ?_, fun ready hg => ?_⟩
  · rw [exec_vmvBc, execVmvBc, vrotate_quiet ready (by simp) (List.nil_subset _) ha
      (congrArg (VecOut.mk · 0 0) (blend_eq s d k e z fun i _ _ => rfl)),
      show (e && !z) = Masking.merges ⟨k, e, z⟩ from rfl, merged_reads]
    rfl
  · refine (exec_vmvX ..).trans
      ((vissue_ready (vdests := []) (vsrcs := [d]) (mem := false) (srcs := []) ready hg s.readable_nil nofun).trans ?_)
    rw [State.retire_write, BitVec.signExtend]
    rfl

/-! ## Masks (R193, R201) -/

/-- A comparison into a mask register. -/
theorem vcompare_writes {s : State} {a b : VReg} (ready : vready s [a, b]) (m k : MReg) (e z : Bool)
    {p : BitVec 32 → BitVec 32 → Bool} {f : Nat → Bool} (h : ∀ i, p (s.t.velem a i) (s.t.velem b i) = f i) :
    vcompare p m a b ⟨k, e, z⟩ s = .next (s.went (s.t.setMreg m
      ⟨(List.range (16 * s.t.claim.lanes)).map fun i => if e = true ∧ s.t.mbit k i = false then !z && s.t.mbit m i else f i,
        s.joined [] ||| s.t.vlabels [a, b] (if e = true then (if z = true then [k] else [k, m]) else [])⟩) (s.t.pc + 4)) := by
  refine (vissue_ready (vdests := []) (vsrcs := [a, b]) (mem := false) (srcs := []) ready s.writable_nil s.readable_nil nofun).trans ?_
  have bits (i : Nat) : (if s.t.active ⟨k, e, z⟩ i = true then p (s.t.velem a i) (s.t.velem b i) else if z = true then false
      else s.t.mbit m i) = if e = true ∧ s.t.mbit k i = false then !z && s.t.mbit m i else f i := by
    rw [Thread.active_eq, h]
    cases e <;> cases s.t.mbit k i <;> cases z <;> rfl
  have masks : (Masking.masks ⟨k, e, z⟩ ++ if Masking.merges ⟨k, e, z⟩ then [m] else []) =
      if e = true then (if z = true then [k] else [k, m]) else [] := by cases e <;> cases z <;> rfl
  simp only [bits, masks]
  rfl

theorem vectorMasks : Claims.VectorMasks := by
  intro s m p q a b k e z ta tb ready x y bits wrote masks cmp
  have own {f : State → Result} : vissue [] [] false [] [] s f = f s :=
    vissue_ready (vready_mono ready (List.nil_subset _)) s.writable_nil s.readable_nil nofun
  exact ⟨(exec_vcmpEq ..).trans (vcompare_writes ready m k e z fun i => beq_eq_decide ..),
    (exec_vcmpLt ..).trans (vcompare_writes ready m k e z fun i => rfl),
    (exec_vcmpLtu ..).trans (vcompare_writes ready m k e z fun i => rfl), (exec_mand ..).trans own,
    (exec_mor ..).trans own, (exec_mnot ..).trans own⟩

/-! ## Complex elements (R194) -/

theorem partRe_eq (x : BitVec 32) : partRe x = cre x := by
  rw [partRe, signedNat_eq_bmod (by decide), cre, BitVec.toInt_eq_toNat_bmod, BitVec.extractLsb'_toNat, Nat.shiftRight_zero, Int.natCast_mod,
    Int.emod_bmod]

theorem partIm_eq (x : BitVec 32) : partIm x = cim x := by
  rw [partIm, signedNat_eq_bmod (by decide), cim, BitVec.toInt_eq_toNat_bmod, BitVec.extractLsb'_toNat, Nat.shiftRight_eq_div_pow,
    Int.natCast_mod, Int.emod_bmod]

/-- An element is its parts, each saturated. -/
theorem ofParts_eq (re im : Int) : ofParts re im = ci16 re im := by
  have part (v : Int) : wrapInt 16 v = (BitVec.ofInt 16 v).toNat := (BitVec.toNat_ofInt ..).symm
  refine BitVec.eq_of_toNat_eq ?_
  rw [ofParts, part, part, ci16, BitVec.toNat_append, ← Nat.shiftLeft_add_eq_or_of_lt (BitVec.isLt _), Nat.shiftLeft_eq, Nat.add_comm,
    BitVec.toNat_ofNat, Nat.mod_eq_of_lt]
  · rfl
  · have low := (BitVec.ofInt 16 (satS re 16)).isLt
    have high := (BitVec.ofInt 16 (satS im 16)).isLt
    omega

/-- The rounded product in Q15, added to an accumulator, has the parts of R194. -/
theorem cmulQ_eq (x y c : BitVec 32) : cmulQ x y c = (q15re x y c, q15im x y c) := by
  simp only [cmulQ, partRe_eq, partIm_eq]
  rfl

theorem cmulElem_eq (x y c : BitVec 32) : cmulElem x y c = ci16 (q15re x y c) (q15im x y c) := by
  rw [cmulElem, cmulQ_eq, ofParts_eq]

theorem vectorComplexAndCompact : Claims.VectorComplexAndCompact := by
  intro s d a b k e z imm ready w x y sh mul cv
  have hd : d ∈ [d, a, b] := by simp
  have hv : [a, b] ⊆ [d, a, b] := List.subset_cons_self ..
  have hva : [d, a] ⊆ [d, a, b] := by simp
  have two {i : Instr} {f : BitVec 32 → BitVec 32 → BitVec 32} {g : Nat → BitVec 32}
      (hx : exec i s = vbinary f d d a unmasked 2 s) (h : ∀ i, f (w i) (x i) = g i) : cv i [d, a] g :=
    hx.trans (vbinary_writes ready hd hva h)
  refine ⟨(exec_vcmul ..).trans (vbinary_writes ready hd hv fun i => cmulElem_eq _ _ _),
    (exec_vcmac ..).trans (velementwise_accumulates ready hd hv fun i => cmulElem_eq _ _ _),
    two (exec_cvAdd ..) fun i => bitVec_add_eq _ _, two (exec_cvSub ..) fun i => bitVec_sub_eq _ _,
    two (exec_cvAnd ..) fun i => rfl, two (exec_cvOr ..) fun i => rfl, two (exec_cvXor ..) fun i => rfl,
    two (exec_cvSll ..) fun i => bitVec_shiftLeft_eq _ _, two (exec_cvSrl ..) fun i => bitVec_ushiftRight_eq _ _,
    two (exec_cvSra ..) fun i => bitVec_sshiftRight_eq _ _, two (exec_cvMul ..) fun i => bitVec_mul_eq _ _,
    two (exec_cvMin ..) fun i => bitVec_min_eq _ _, two (exec_cvMax ..) fun i => bitVec_max_eq _ _,
    (exec_cvMv ..).trans (velementwise_writes ready hd (by simp) fun i => rfl),
    (exec_cvAddi ..).trans (velementwise_writes ready hd (by simp) fun i => bitVec_add_signExtend _ _), fun next => ?_⟩
  obtain rfl : b = ⟨(a.val + 1) % 16, Nat.mod_lt _ (by decide)⟩ := Fin.ext next
  exact (exec_cvCmac ..).trans (velementwise_accumulates ready hd hv fun i => cmulElem_eq _ _ _)

end Sys2Proof.Machine

namespace Sys2Proof

/-- Settles O23: each lane operation is one of the shapes of the rotation class, and the value of each element is the rule's. -/
theorem vectorElements : Obligations.VectorElements :=
  ⟨Machine.vectorIntegerResults, Machine.vectorMoves, Machine.vectorMasks, Machine.vectorComplexAndCompact⟩

end Sys2Proof

/-! # Elementwise floating-point results (O24) -/

namespace Sys2Proof.Machine
open Sys2Proof Claims

/-! ## Draws in ascending order (R159, R161, R187) -/

theorem xorshiftN_add (m n : Nat) (z : Word) : xorshiftN (m + n) z = xorshiftN n (xorshiftN m z) := by
  induction m generalizing z with
  | zero => rw [Nat.zero_add]; rfl
  | succ m ih => rw [Nat.succ_add]; exact ih _

theorem xorshift_xorshiftN (n : Nat) (z : Word) : xorshift (xorshiftN n z) = xorshiftN (n + 1) z := (xorshiftN_add n 1 z).symm

/-- The elements in their order, each with its position. -/
def positions (l : List Nat) : List (Nat × Nat) := List.zip (List.range l.length) l

theorem positions_cons (i : Nat) (l : List Nat) : positions (i :: l) = (0, i) :: (positions l).map (Prod.map Nat.succ id) := by
  rw [positions, List.length_cons, List.range_succ_eq_map, List.zip_cons_cons, List.zip_map_left]
  rfl

theorem map_snd_positions (l : List Nat) : (positions l).map Prod.snd = l := List.map_snd_zip (by simp)

/-- The element at position j is computed with the word that follows j of the elements' draws. -/
theorem vfoldDraws_eq (n : Nat) (f : Word → Nat → BitVec 32 × FFlags) (l : List Nat) (seed : Word) :
    let g (x : Nat × Nat) := f (xorshift (xorshiftN (n * x.1) seed)) x.2
    vfoldDraws n f l seed = ((positions l).map fun x => (x.2, (g x).1), (positions l).foldr (fun x fl => (g x).2 ||| fl) 0) := by
  induction l generalizing seed with
  | nil => rfl
  | cons i l ih =>
    have next (j : Nat) : xorshiftN (n * j.succ) seed = xorshiftN (n * j) (xorshiftN n seed) := by
      rw [Nat.mul_succ, Nat.add_comm, xorshiftN_add]
    simp only [vfoldDraws, ih, positions_cons, List.map_cons, List.foldr_cons, List.map_map, List.foldr_map, Function.comp_def,
      Prod.map, next, id]
    rfl

/-- The position of a number among those below N that pass a test is the count of those below it. -/
theorem position_eq {N : Nat} {p : Nat → Bool} {x : Nat × Nat} (h : x ∈ positions ((List.range N).filter p)) :
    x.1 = ((List.range x.2).filter p).length := by
  obtain ⟨j, hj, rfl⟩ := List.mem_iff_getElem.1 h
  have inside : j < ((List.range N).filter p).length := by simpa [positions] using hj
  simp only [positions, List.getElem_zip, List.getElem_range]
  generalize hv : ((List.range N).filter p)[j] = v
  obtain ⟨below, pass⟩ : v ∈ List.range N ∧ p v = true := List.mem_filter.1 (hv ▸ List.getElem_mem inside)
  obtain ⟨rest, split⟩ : ∃ rest, (List.range N).filter p = (List.range v).filter p ++ v :: rest := by
    obtain ⟨m, rfl⟩ := Nat.exists_eq_add_of_lt (List.mem_range.1 below)
    refine ⟨((List.range m).map (v + 1 + ·)).filter p, ?_⟩
    rw [show v + m + 1 = v + 1 + m by omega, List.range_add, List.range_succ, List.filter_append, List.filter_append,
      List.filter_cons_of_pos pass, List.append_assoc]
    rfl
  have place : ((List.range v).filter p).length < ((List.range N).filter p).length := by simp [split]
  have there : ((List.range N).filter p)[((List.range v).filter p).length] = v := by simp [split]
  exact (List.nodup_range.filter p).getElem_inj_iff.1 (hv.trans there.symm)

theorem lookup_map (g : Nat → BitVec 32) {l : List Nat} {i : Nat} (h : i ∈ l) :
    (((l.map fun j => (j, g j)).find? fun x => x.1 = i).map Prod.snd).getD 0 = g i := by
  induction l with
  | nil => cases h
  | cons j l ih =>
    by_cases here : j = i
    · simp [here]
    · simpa [here] using ih ((List.mem_cons.1 h).resolve_left (Ne.symm here))

/-- Where each element's word is known by its number, so is what the elements in their order give. -/
theorem vfoldDraws_words {n : Nat} {f : Word → Nat → BitVec 32 × FFlags} {l : List Nat} {seed : Word} {w : Nat → Word}
    (h : ∀ x ∈ positions l, xorshift (xorshiftN (n * x.1) seed) = w x.2) :
    vfoldDraws n f l seed = (l.map fun i => (i, (f (w i) i).1), l.foldr (fun i fl => (f (w i) i).2 ||| fl) 0) := by
  have elems : (positions l).map (fun x => (x.2, (f (xorshift (xorshiftN (n * x.1) seed)) x.2).1)) =
      l.map fun i => (i, (f (w i) i).1) := by
    conv_rhs => rw [← map_snd_positions l, List.map_map]
    exact List.map_congr_left fun x hx => by rw [h x hx]; rfl
  have flags : (positions l).foldr (fun x fl => (f (xorshift (xorshiftN (n * x.1) seed)) x.2).2 ||| fl) 0 =
      l.foldr (fun i fl => (f (w i) i).2 ||| fl) 0 := by
    conv_rhs => rw [← map_snd_positions l, List.foldr_map]
    exact List.foldr_ext _ _ _ fun x hx fl => by rw [h x hx]
  exact (vfoldDraws_eq n f l seed).trans (congrArg₂ Prod.mk elems flags)

/-! ## FPEXC (R187) -/

theorem State.vecTrap_fresh {s : State} (first : s.t.prog = .fresh) (fl : FFlags) (l : Label) :
    s.vecTrap fl l = s.leave .ready (.stage 1 0 0) := by simp only [State.vecTrap, first]

theorem State.vecTrap_stage {s : State} (traps : s.traps) {n : Nat} {v w : Word} (again : s.t.prog = .stage n v w) (fl : FFlags) (l : Label) :
    s.vecTrap fl l = State.trapped { s with t := s.t.raise fl } 0x0B s.t.pc 0 (fl.setWidth 64) (s.t.patched ||| l) := by
  have join : labelsOf s.t [] ||| s.t.patched = s.t.patched := BitVec.zero_or
  simp only [State.vecTrap, again]
  rw [State.fail_traps { s with t := s.t.raise fl } _ _ _ _ _ traps, BitVec.ofNat_toNat, ← join]
  rfl

/-! ## The shape of the floating lane operations (R187, R197) -/

/-- An operation that rounds has the outcome of its elements' values and flags, each of the words drawn before it. -/
theorem vrounding_outcome {s : State} {i : Instr} {d : VReg} {us srcs : List VReg} {k : MReg} {e z readsD rounds : Bool} {vs : List VReg}
    {n : Nat} {f : Thread → Word → Nat → BitVec 32 × FFlags} {g : Word → Nat → BitVec 32 × FFlags} (ready : vready s us) (hd : d ∈ us)
    (hv : srcs ⊆ us) (reads : (srcs ++ if readsD || Masking.merges ⟨k, e, z⟩ then [d] else []) = vs)
    (hx : exec i s = vrounding d srcs ⟨k, e, z⟩ readsD rounds n f s) (hg : f s.t = g) :
    vfpOutcome s i d k e z rounds vs n g := by
  unfold vfpOutcome
  intro act acts drawing w v fl draws l raised
  have acts_eq : s.t.actives ⟨k, e, z⟩ = acts := Thread.actives_eq k e z s.t
  have one : (if rounds = true then drawsOf s.t.rm else 0) = if drawing = true then 1 else 0 := by
    cases rounds <;> simp [drawing, drawsOf]
  have words : ∀ x ∈ positions acts, xorshift (xorshiftN ((if drawing = true then 1 else 0) * x.1) s.t.ctl.seed) = w x.2 := by
    intro x hx
    rw [xorshift_xorshiftN, position_eq hx]
    by_cases h : drawing = true <;> simp [w, h]
  have label : vlabel s [] vs (Masking.masks ⟨k, e, z⟩) rounds = l := by
    simp only [vlabel, l, drawing]
    cases rounds <;> simp [Thread.seedLabelFor, Masking.masks]
  have run : exec i s = if fl &&& s.t.fpen ≠ 0 then .next (s.vecTrap fl l) else
      .next (vwrote s ((s.t.raise fl).draw draws) d (velems s d k e z fun j => (v j).1) l n) := by
    rw [hx, vrounding, vrotate_ready ready hd hv s.readable_nil (fl := fl) (draws := draws) (x := velems s d k e z fun j => (v j).1), reads, label]
    simp only [hg, acts_eq, one, vfoldDraws_words words]
    refine congrArg₂ (fun x n => VecOut.mk x fl n) (blend_eq s d k e z fun j hj on => lookup_map _ ?_) ?_
    · exact List.mem_filter.2 ⟨List.mem_range.2 hj, (Thread.active_eq k e z s.t j).symm.trans on⟩
    · by_cases h : drawing = true <;> simp [draws, h]
  refine ⟨fun quiet => ?_, fun loud traps => ⟨fun first => ?_, fun again => ?_⟩⟩
  · rw [run, if_neg (not_not.2 quiet)]
    rfl
  · rw [run, if_pos loud, State.vecTrap_fresh first]
  · rw [run, if_pos loud, State.vecTrap_stage traps again]
    rfl

theorem vectorFloat : Claims.VectorFloat := by
  intro s d a b k e z f c ready g val el m rm
  have hd : d ∈ [d, a, b] := by simp
  have hv : [a, b] ⊆ [d, a, b] := List.subset_cons_self ..
  have hva : [d, a] ⊆ [d, a, b] := by simp
  have merged (vs : List VReg) : (vs ++ if false || Masking.merges ⟨k, e, z⟩ then [d] else []) = m vs := merged_reads d k e z vs
  exact ⟨vrounding_outcome ready hd hv (merged _) (exec_vfadd ..) rfl, vrounding_outcome ready hd hv (merged _) (exec_vfmul ..) rfl,
    vrounding_outcome ready hd hv rfl (exec_vfma ..) rfl, vrounding_outcome ready hd hv (merged _) (exec_vfmin ..) rfl,
    vrounding_outcome ready hd hv (merged _) (exec_vfmax ..) rfl,
    vrounding_outcome ready hd (by simp) (merged _) (exec_vcvt ..) rfl,
    vrounding_outcome ready hd hva rfl (exec_cvFadd ..) rfl, vrounding_outcome ready hd hva rfl (exec_cvFmul ..) rfl⟩

end Sys2Proof.Machine

namespace Sys2Proof

/-- Settles O24: the active elements are computed in ascending order, each with the word that the draws of those before it leave. -/
theorem vectorFloat : Obligations.VectorFloat := Machine.vectorFloat

end Sys2Proof

/-! # Whole-register results (O25) -/

namespace Sys2Proof.Machine
open Sys2Proof Claims

/-! ## The shape of the whole-register instructions (R184, R187) -/

/-- The outstanding result of a vector instruction (R184). -/
def State.vecFill (s : State) (d : VReg) (m : Masking) (parts : Nat) (label : Label) (resume : Bool) (elems : List (BitVec 32)) : Fill :=
  { id := s.time.next, uid := s.t.ident.uid, regs := [], vals := [], parts := parts, label := label, join := 0
    kind := .vector d m.z [], resume := resume, advance := false, err := none, discard := false, legs := 0, velems := elems }

theorem State.newVecFill_eq (s : State) (d : VReg) (m : Masking) (parts : Nat) (label : Label) (resume : Bool)
    (elems : List (BitVec 32)) : s.newVecFill d m parts label resume elems =
      (s.time.next, { s with
        t := s.t.setVreg d { s.t.vreg d with full := false }, time := { s.time with next := s.time.next + 1 }
        fab := { s.fab with fills := s.vecFill d m parts label resume elems :: s.fab.fills } }) := rfl

section Whole
variable {s : State} {i : Instr} {d : VReg} {us srcs vs : List VReg} {m : Masking} {merges raises rounds : Bool} {f : Thread → VecOut}
  {x : List (BitVec 32)} {fl : FFlags} {draws : Nat} (ready : vready s us) (hd : d ∈ us) (hv : srcs ⊆ us)
  (reads : (srcs ++ if merges then [d] else []) = vs) (hf : f s.t = ⟨x, fl, draws⟩)
include ready hd hv reads hf

/-- Where no flag traps, the destination is pending for 31 cycles. -/
theorem vwhole_pending (hx : exec i s = vwhole d srcs m merges raises rounds f s) (quiet : fl &&& s.t.fpen = 0) :
    vpending s i ((s.t.raise fl).draw draws) d x (vlabel s [] vs m.masks rounds) (raises && decide (s.t.fpen ≠ 0)) := by
  rw [vwhole, vissue_ready (srcs := []) (vready_reads ready hd hv merges) s.writable_nil s.readable_nil (by simp)] at hx
  simp only [hf, reads, if_neg (not_not.2 quiet), State.newVecFill_eq] at hx
  generalize (raises && decide (s.t.fpen ≠ 0)) = hold at hx ⊢
  refine ⟨_, State.vecFill { s with t := (s.t.raise fl).draw draws } d m 0 (vlabel s [] vs m.masks rounds) hold x, hx, ?_⟩
  cases hold <;>
    exact ⟨List.mem_cons_self, rfl, ⟨_, _, rfl⟩, rfl, rfl, rfl, rfl, rfl, rfl, rfl, List.mem_append_right _ List.mem_cons_self, rfl, rfl⟩

/-- A flag that traps returns the thread to rotation when the instruction would complete. -/
theorem vwhole_first (hx : exec i s = vwhole d srcs m merges raises rounds f s) (loud : fl &&& s.t.fpen ≠ 0) (first : s.t.prog = .fresh) :
    exec i s = .next ((s.replyAt s.t.ident.uid (s.time.cycle + 31)).leave .reply (.stage 1 0 0)) := by
  rw [vwhole, vissue_ready (srcs := []) (vready_reads ready hd hv merges) s.writable_nil s.readable_nil (by simp)] at hx
  simpa only [hf, reads, if_pos loud, first] using hx

/-- A flag that traps does so at the turn at which the instruction would complete. -/
theorem vwhole_again (hx : exec i s = vwhole d srcs m merges raises rounds f s) (loud : fl &&& s.t.fpen ≠ 0) {n : Nat} {v w : Word}
    (again : s.t.prog = .stage n v w) : exec i s = .next (s.vecTrap fl (vlabel s [] vs m.masks rounds)) := by
  rw [vwhole, vissue_ready (srcs := []) (vready_reads ready hd hv merges) s.writable_nil s.readable_nil (by simp)] at hx
  simp only [hf, reads, if_pos loud, again] at hx
  exact hx

end Whole

section Outcome
variable {s : State} {i : Instr} {d : VReg} {us srcs vs : List VReg} {m : Masking} {merges rounds : Bool} {f : Thread → VecOut}
  {x : List (BitVec 32)} (ready : vready s us) (hd : d ∈ us) (hv : srcs ⊆ us) (reads : (srcs ++ if merges then [d] else []) = vs)
include ready hd hv reads

/-- An instruction that raises no flag and draws nothing. -/
theorem vwhole_quiet (hx : exec i s = vwhole d srcs m merges false false f s) (hf : f s.t = ⟨x, 0, 0⟩) :
    vpending s i s.t d x (s.joined [] ||| s.t.vlabels vs m.masks) false := by
  have pending := vwhole_pending ready hd hv reads hf hx BitVec.zero_and
  rwa [Thread.raise_zero, vlabel_plain] at pending

/-- An instruction that can raise flags and draws nothing. -/
theorem vwhole_outcome {fl : FFlags} (hx : exec i s = vwhole d srcs m merges true rounds f s) (hf : f s.t = ⟨x, fl, 0⟩) :
    vwholeOutcome s i d x fl (vlabel s [] vs m.masks rounds) := by
  refine ⟨vwhole_pending ready hd hv reads hf hx, fun loud traps => ⟨fun first => ?_, fun again => ?_⟩⟩
  · exact ⟨_, vwhole_first ready hd hv reads hf hx loud first, rfl, rfl⟩
  · rw [vwhole_again ready hd hv reads hf hx loud again, State.vecTrap_stage traps again]
    rfl

end Outcome

/-! ## Reductions on integers (R195) -/

/-- The leaves of a reduction (R195). -/
def vleaves (t : Thread) (a : VReg) (m : Masking) : List (Option (BitVec 32)) :=
  (List.range t.vl).map fun i => if t.active m i then some (t.velem a i) else none

/-- What a reduction computes: its result in element 0, with 0 elsewhere (R195). -/
def vreduced (f : Thread → List (Option (BitVec 32)) → BitVec 32 × FFlags × Nat) (a : VReg) (m : Masking) (t : Thread) : VecOut :=
  let r := f t (vleaves t a m)
  ⟨(List.range t.vl).map fun i => if i = 0 then r.1 else 0, r.2.1, r.2.2⟩

theorem vreduce_eq (d a : VReg) (m : Masking) (raises : Bool) (f : Thread → List (Option (BitVec 32)) → BitVec 32 × FFlags × Nat)
    (s : State) : vreduce d a m raises f s = vwhole d [a] m false raises raises (vreduced f a m) s := rfl

theorem vreduced_eq {f : Thread → List (Option (BitVec 32)) → BitVec 32 × FFlags × Nat} {a : VReg} {m : Masking} {t : Thread}
    {v : BitVec 32} {fl : FFlags} {draws : Nat} (h : f t (vleaves t a m) = (v, fl, draws)) :
    vreduced f a m t = ⟨(List.range (16 * t.claim.lanes)).map fun i => if i = 0 then v else 0, fl, draws⟩ := by
  simp only [vreduced, h, Thread.vl]

theorem present_vleaves (t : Thread) (a : VReg) (m : Masking) : present (vleaves t a m) = (t.actives m).map (t.velem a) := by
  rw [present, vleaves, List.filterMap_map, Thread.actives]
  induction List.range t.vl with
  | nil => rfl
  | cons i l ih => by_cases on : t.active m i = true <;> simpa [on] using ih

theorem foldl_add_eq (l : List (BitVec 32)) : l.foldl (· + ·) 0 = BitVec.ofInt 32 ((l.map BitVec.toInt).foldr (· + ·) 0) := by
  rw [← List.foldl_eq_foldr, List.foldl_map]
  exact List.foldl_hom (g₁ := fun v x => v + BitVec.toInt x) (init := 0) (BitVec.ofInt 32) fun v x => by rw [BitVec.ofInt_add, BitVec.ofInt_toInt]

/-- What folds by an operation that the signed values follow. -/
theorem foldl_toInt_eq {g : BitVec 32 → BitVec 32 → BitVec 32} {op : Int → Int → Int} [Std.Commutative op] [Std.Associative op]
    (h : ∀ x y, (g x y).toInt = op x.toInt y.toInt) (l : List (BitVec 32)) (v : BitVec 32) :
    l.foldl g v = BitVec.ofInt 32 ((l.map BitVec.toInt).foldr op v.toInt) := by
  rw [← List.foldl_eq_foldr, List.foldl_map, List.foldl_hom BitVec.toInt fun x y => (h x y).symm, BitVec.ofInt_toInt]

theorem toInt_min (x y : BitVec 32) : (if y.slt x then y else x).toInt = min x.toInt y.toInt := by
  simp only [BitVec.slt_iff_toInt_lt, apply_ite BitVec.toInt]
  omega

theorem toInt_max (x y : BitVec 32) : (if x.slt y then y else x).toInt = max x.toInt y.toInt := by
  simp only [BitVec.slt_iff_toInt_lt, apply_ite BitVec.toInt]
  omega

section Reduce
variable {s : State} {i : Instr} {d a : VReg} {us : List VReg} {k : MReg} {e : Bool} (ready : vready s us) (hd : d ∈ us) (ha : a ∈ us)
include ready hd ha

/-- An integer reduction of the active elements. -/
theorem vreduce_quiet {v : Int} {g : List (Option (BitVec 32)) → BitVec 32}
    (hx : exec i s = vreduce d a ⟨k, e, false⟩ false (fun _ l => (g l, 0, 0)) s)
    (hg : g (vleaves s.t a ⟨k, e, false⟩) = BitVec.ofInt 32 v) :
    vpending s i s.t d ((List.range (16 * s.t.claim.lanes)).map fun i => if i = 0 then BitVec.ofInt 32 v else 0)
      (s.joined [] ||| s.t.vlabels [a] (if e = true then [k] else [])) false := by
  rw [vreduce_eq] at hx
  exact vwhole_quiet (m := ⟨k, e, false⟩) ready hd (List.cons_subset.2 ⟨ha, List.nil_subset _⟩) rfl hx
    (vreduced_eq (congrArg (·, 0, 0) hg))

section Rounds
variable {f : Thread → List (Option (BitVec 32)) → BitVec 32 × FFlags × Nat} {v : BitVec 32} {fl : FFlags}
  (hx : exec i s = vreduce d a ⟨k, e, false⟩ true f s)
include hx

/-- A reduction that rounds, where no flag traps. -/
theorem vreduce_pending {draws : Nat} (hf : f s.t (vleaves s.t a ⟨k, e, false⟩) = (v, fl, draws)) (quiet : fl &&& s.t.fpen = 0) :
    vpending s i ((s.t.raise fl).draw draws) d ((List.range (16 * s.t.claim.lanes)).map fun i => if i = 0 then v else 0)
      (vlabel s [] [a] (if e = true then [k] else []) true) (true && decide (s.t.fpen ≠ 0)) := by
  rw [vreduce_eq] at hx
  exact vwhole_pending (m := ⟨k, e, false⟩) ready hd (List.cons_subset.2 ⟨ha, List.nil_subset _⟩) rfl (vreduced_eq hf) hx quiet

/-- A reduction that rounds and draws nothing. -/
theorem vreduce_outcome (hf : f s.t (vleaves s.t a ⟨k, e, false⟩) = (v, fl, 0)) :
    vwholeOutcome s i d ((List.range (16 * s.t.claim.lanes)).map fun i => if i = 0 then v else 0) fl
      (vlabel s [] [a] (if e = true then [k] else []) true) := by
  rw [vreduce_eq] at hx
  have outcome := vwhole_outcome (m := ⟨k, e, false⟩) ready hd (List.cons_subset.2 ⟨ha, List.nil_subset _⟩) rfl hx (vreduced_eq hf)
  exact outcome

end Rounds

end Reduce

/-! ## Butterflies (R200) -/

theorem partsOf_eq (x : BitVec 32) : partsOf x = (cre x, cim x) := by rw [partsOf, partRe_eq, partIm_eq]

theorem flyOut_eq (scl : Bool) (r : Int) (x : Int × Int) :
    flyOut scl r x = ci16 (if scl = true then (x.1 + r / 2) / r else x.1) (if scl = true then (x.2 + r / 2) / r else x.2) :=
  ofParts_eq _ _

theorem vectorWholeResults : Claims.VectorWholeResults := by
  intro s d a b k e z scl ready n x y act first lr mul scale two
  have hd : d ∈ [d, a, b] := by simp
  have ha : a ∈ [d, a, b] := by simp
  have hv : [a, b] ⊆ [d, a, b] := List.subset_cons_self ..
  have values : present (vleaves s.t a ⟨k, e, false⟩) = act.map x := by rw [present_vleaves, Thread.actives_eq]
  have signed : (act.map x).map BitVec.toInt = act.map fun i => (x i).toInt := List.map_map
  refine ⟨vreduce_quiet ready hd ha (exec_vredAdd ..) ?_, vreduce_quiet ready hd ha (exec_vredMin ..) ?_,
    vreduce_quiet ready hd ha (exec_vredMax ..) ?_, ?_, ?_⟩
  · rw [values, foldl_add_eq, signed]
  · rw [values, foldl_toInt_eq toInt_min, signed]
    rfl
  · rw [values, foldl_toInt_eq toInt_max, signed]
    rfl
  · have some_lanes : max s.t.vl 1 = n := Nat.max_eq_left (Nat.mul_pos (by decide) (Nat.pos_of_ne_zero (vready_claimed ready)))
    refine vwhole_quiet (m := ⟨k, e, z⟩) ready hd hv (merged_reads d k e z [a, b]) (exec_vperm ..) ?_
    rw [blend_eq s d k e z fun i _ _ => rfl, some_lanes]
  · refine vwhole_quiet (m := unmasked) ready hd hv rfl (exec_vbflyR2 ..) (congrArg (VecOut.mk · 0 0) (List.map_congr_left fun i _ => ?_))
    simp only [fly2, flyOut_eq, partsOf_eq, cmulQ_eq, Nat.mul_comm 2]
    by_cases even : i % 2 = 0
    · simp [two, even, cAddI, scale, mul, x, y]
    · simp [two, even, cAddI, cNegI, scale, mul, x, y]

/-! ## The tree of `vred.fadd` (R195) -/

/-- What a node has from its children: their sum where both are present, else the one that is. -/
def treeJoin (rm : Rm) (w : Word) : Option (BitVec 32) → Option (BitVec 32) → Option (BitVec 32) × FFlags
  | some x, some y =>
    let v := fAdd fmtFp32 rm w (decodeF fmtFp32 x.toNat) (decodeF fmtFp32 y.toNat)
    (some (BitVec.ofNat 32 v.1), v.2)
  | some x, none => (some x, 0)
  | none, y => (y, 0)

/-- The flags of so many nodes of a level, from one on. -/
def nodeFlags (f : Nat → FFlags) (a : Nat) : Nat → FFlags
  | 0 => 0
  | n + 1 => f a ||| nodeFlags f (a + 1) n

theorem nodeFlags_add (f : Nat → FFlags) (a m n : Nat) : nodeFlags f a (m + n) = nodeFlags f a m ||| nodeFlags f (a + m) n := by
  induction m generalizing a with
  | zero => simp [nodeFlags]
  | succ m ih => rw [Nat.add_right_comm, nodeFlags, nodeFlags, ih, BitVec.or_assoc, show a + 1 + m = a + (m + 1) by omega]

theorem nodeFlags_succ (f : Nat → FFlags) (a n : Nat) : nodeFlags f (a + 1) n = nodeFlags (fun j => f (j + 1)) a n := by
  induction n generalizing a with
  | zero => rfl
  | succ n ih => rw [nodeFlags, nodeFlags, ih]

/-- Nodes that raise no flag. -/
theorem nodeFlags_none {f : Nat → FFlags} (h : ∀ j, f j = 0) (a n : Nat) : nodeFlags f a n = 0 := by
  induction n generalizing a with
  | zero => rfl
  | succ n ih => rw [nodeFlags, ih, h]; rfl

section Tree
variable (rm : Rm) (w : Word)

theorem treeNode_zero (leaf : Nat → Option (BitVec 32)) (j : Nat) : treeNode rm w leaf 0 j = (leaf j, 0) := rfl

theorem treeNode_succ (leaf : Nat → Option (BitVec 32)) (m j : Nat) :
    let l := treeNode rm w leaf m (2 * j)
    let r := treeNode rm w leaf m (2 * j + 1)
    treeNode rm w leaf (m + 1) j = ((treeJoin rm w l.1 r.1).1, (treeJoin rm w l.1 r.1).2 ||| l.2 ||| r.2) := by
  simp only [treeNode]
  generalize treeNode rm w leaf m (2 * j) = l
  generalize treeNode rm w leaf m (2 * j + 1) = r
  obtain ⟨_ | x, fl⟩ := l
  · simp [treeJoin]
  · obtain ⟨_ | y, fr⟩ := r <;> simp [treeJoin]

/-- A tree is the tree above its lowest level, which adds the flags of the nodes below it. -/
theorem treeNode_level (leaf : Nat → Option (BitVec 32)) (m j : Nat) :
    let up (i : Nat) := treeJoin rm w (leaf (2 * i)) (leaf (2 * i + 1))
    let above := treeNode rm w (fun i => (up i).1) m j
    treeNode rm w leaf (m + 1) j = (above.1, above.2 ||| nodeFlags (fun i => (up i).2) (2 ^ m * j) (2 ^ m)) := by
  intro up above
  induction m generalizing j with
  | zero =>
    rw [treeNode_succ]
    simp [treeNode_zero, above, up, nodeFlags]
  | succ m ih =>
    have split : 2 ^ (m + 1) * j = 2 ^ m * (2 * j) := by rw [Nat.pow_succ, Nat.mul_assoc]
    rw [treeNode_succ, ih, ih, split, Nat.pow_succ, Nat.mul_two, nodeFlags_add,
      show 2 ^ m * (2 * j) + 2 ^ m = 2 ^ m * (2 * j + 1) from (Nat.mul_succ ..).symm]
    simp only [above, treeNode_succ rm w _ m j]
    ac_rfl

/-- No node is above two absent ones, and one passes beside an absent one. -/
theorem treeJoin_none (x : Option (BitVec 32)) : treeJoin rm w x none = (x, 0) := by cases x <;> rfl

/-- The element of a list of leaves at a position, absent past its end. -/
def leafAt (l : List (Option (BitVec 32))) (j : Nat) : Option (BitVec 32) := l[j]?.join

variable {rm} (still : rm ≠ .sr) (seed : Word)
include still

theorem treeLevel_cons (x y : Option (BitVec 32)) (l : List (Option (BitVec 32))) :
    let p := treeJoin rm (xorshift seed) x y
    let r := treeLevel rm l seed
    treeLevel rm (x :: y :: l) seed = (p.1 :: r.1, p.2 ||| r.2.1, r.2.2) := by
  have none : drawsOf rm = 0 := if_neg still
  rcases x with _ | x <;> rcases y with _ | y <;> simp [treeLevel, treeJoin, none, xorshiftN]

/-- A level of the tree has the nodes above its leaves, and draws nothing. -/
theorem treeLevel_nodes (l : List (Option (BitVec 32))) (n : Nat) (few : l.length ≤ 2 * n) :
    let up (i : Nat) := treeJoin rm (xorshift seed) (leafAt l (2 * i)) (leafAt l (2 * i + 1))
    let r := treeLevel rm l seed
    leafAt r.1 = (fun i => (up i).1) ∧ r.1.length ≤ n ∧ r.2 = (nodeFlags (fun i => (up i).2) 0 n, 0) := by
  match l, few with
  | [], _ =>
    intro up r
    have absent (i : Nat) : up i = (none, 0) := treeJoin_none ..
    exact ⟨funext fun i => by rw [absent]; rfl, Nat.zero_le n, by rw [nodeFlags_none fun i => by rw [absent]]; rfl⟩
  | [x], few =>
    intro up r
    have alone (i : Nat) : up i = (leafAt [x] i, 0) := by
      cases i with
      | zero => exact treeJoin_none ..
      | succ i => exact treeJoin_none ..
    exact ⟨funext fun i => by rw [alone]; rfl, by simp only [r, treeLevel, List.length_cons, List.length_nil] at few ⊢; omega,
      by rw [nodeFlags_none fun i => by rw [alone]]; rfl⟩
  | x :: y :: l, few =>
    intro up r
    obtain ⟨n, rfl⟩ : ∃ k, n = k + 1 := Nat.exists_eq_add_one.2 (by simp only [List.length_cons] at few; omega)
    obtain ⟨nodes, fewer, rest⟩ := treeLevel_nodes l n (by simp only [List.length_cons] at few; omega)
    have level : r = _ := treeLevel_cons still seed x y l
    rw [level, rest, nodeFlags, nodeFlags_succ]
    refine ⟨funext fun i => ?_, Nat.succ_le_succ fewer, rfl⟩
    cases i with
    | zero => rfl
    | succ i => exact congrFun nodes i

/-- The levels from the leaves give the root of the tree. -/
theorem treeSum_root (m : Nat) (l : List (Option (BitVec 32))) (few : l.length ≤ 2 ^ m) :
    let root := treeNode rm (xorshift seed) (leafAt l) m 0
    treeSum rm m l seed = (root.1.getD 0, root.2, 0) := by
  induction m generalizing l with
  | zero => simp [treeSum, treeNode, leafAt, List.head?_eq_getElem?]
  | succ m ih =>
    obtain ⟨nodes, fewer, rest⟩ := treeLevel_nodes still seed l (2 ^ m) (by omega)
    have flags := congrArg Prod.fst rest
    have draws := congrArg Prod.snd rest
    simp only [treeSum, draws, flags, xorshiftN, ih _ fewer, nodes, treeNode_level, Nat.mul_zero, BitVec.or_comm]

end Tree

theorem present_some (x : BitVec 32) (l : List (Option (BitVec 32))) : present (some x :: l) = x :: present l := rfl

theorem present_none (l : List (Option (BitVec 32))) : present (none :: l) = present l := rfl

/-- A level of the tree draws for each value that it adds to another, and leaves one where there was one (R195). -/
theorem treeLevel_draws (rm : Rm) : ∀ {l l' : List (Option (BitVec 32))} {seed : Word} {fl : FFlags} {k : Nat},
    treeLevel rm l seed = (l', fl, k) → k + drawsOf rm * (present l').length = drawsOf rm * (present l).length ∧
      ((present l').length = 0 → (present l).length = 0) ∧ 2 * l'.length ≤ l.length + 1
  | [], _, _, _, _, h | [_], _, _, _, _, h => by
    cases h
    simp
  | some x :: some y :: l, _, seed, _, _, h => by
    obtain ⟨count, -, half⟩ := treeLevel_draws rm (l := l) (seed := xorshiftN (drawsOf rm) seed) rfl
    cases h
    simp only [present_some, List.length_cons, Nat.mul_succ]
    omega
  | some x :: none :: l, _, seed, _, _, h | none :: some x :: l, _, seed, _, _, h => by
    obtain ⟨count, -, half⟩ := treeLevel_draws rm (l := l) (seed := seed) rfl
    cases h
    simp only [present_some, present_none, List.length_cons, Nat.mul_succ]
    omega
  | none :: none :: l, _, seed, _, _, h => by
    obtain ⟨count, kept, half⟩ := treeLevel_draws rm (l := l) (seed := seed) rfl
    cases h
    simp only [present_none, List.length_cons]
    omega

/-- The tree draws once for each value but one. -/
theorem treeSum_draws (rm : Rm) (m : Nat) (l : List (Option (BitVec 32))) (seed : Word) (few : l.length ≤ 2 ^ m) :
    (treeSum rm m l seed).2.2 = drawsOf rm * ((present l).length - 1) := by
  induction m generalizing l seed with
  | zero =>
    have : (present l).length ≤ l.length := List.length_filterMap_le ..
    rw [show (present l).length - 1 = 0 by omega]
    rfl
  | succ m ih =>
    rcases level : treeLevel rm l seed with ⟨l', fl, k⟩
    obtain ⟨count, kept, half⟩ := treeLevel_draws rm level
    simp only [treeSum, level, ih l' (xorshiftN k seed) (by omega)]
    obtain sr | still : drawsOf rm = 1 ∨ drawsOf rm = 0 := by unfold drawsOf; split <;> simp
    · rw [sr] at count ⊢
      omega
    · rw [still] at count ⊢
      omega

theorem leafAt_vleaves (t : Thread) (a : VReg) (m : Masking) :
    leafAt (vleaves t a m) = fun i => if i < t.vl ∧ t.active m i = true then some (t.velem a i) else none := by
  funext i
  by_cases inside : i < t.vl <;> simp [leafAt, vleaves, inside]

/-! ## Special functions (R199) -/

theorem foldl_or_eq (g : Nat → FFlags) (l : List Nat) :
    l.foldl (fun (fl : FFlags) i => fl ||| g i) 0 = l.foldr (fun i (fl : FFlags) => g i ||| fl) 0 := by
  rw [← List.foldl_map (f := g) (g := (· ||| ·)), List.foldl_eq_foldr, List.foldr_map]

theorem vsfu_outcome {s : State} {i : Instr} {d a : VReg} {us : List VReg} {k : MReg} {e z : Bool} {fn : SfuFn} (ready : vready s us)
    (hd : d ∈ us) (ha : a ∈ us) (hx : exec i s = vsfu fn d a ⟨k, e, z⟩ s) :
    vwholeOutcome s i d (velems s d k e z fun i => BitVec.ofNat 32 (sfuValue fn (s.t.velem a i)).1)
      (((List.range (16 * s.t.claim.lanes)).filter fun i => !(e && !s.t.mbit k i)).foldr
        (fun i (m : FFlags) => (sfuValue fn (s.t.velem a i)).2 ||| m) 0) (vjoined s [] [a] d k e z) := by
  unfold vsfu at hx
  have outcome := vwhole_outcome (m := ⟨k, e, z⟩) ready hd (List.cons_subset.2 ⟨ha, List.nil_subset _⟩) (merged_reads d k e z [a]) hx rfl
  rwa [vlabel_plain, blend_eq s d k e z fun i _ _ => rfl, foldl_or_eq, Thread.actives_eq] at outcome

/-! ## `vred.fadd` and the radix-4 butterfly (R195, R200) -/

theorem vectorWholeFloat : Claims.VectorWholeFloat := by
  intro s d a b k e z scl ready few n x y on act leaf root lr sfu q scale four
  have hd : d ∈ [d, a, b] := by simp
  have ha : a ∈ [d, a, b] := by simp
  have hv : [a, b] ⊆ [d, a, b] := List.subset_cons_self ..
  have fits : (vleaves s.t a ⟨k, e, false⟩).length ≤ 2 ^ 10 := by
    simp only [vleaves, List.length_map, List.length_range, Thread.vl]
    omega
  have leaf_eq : leafAt (vleaves s.t a ⟨k, e, false⟩) = leaf := by
    rw [leafAt_vleaves]
    simp only [Thread.active_eq]
    rfl
  have count : (present (vleaves s.t a ⟨k, e, false⟩)).length = act.length := by rw [present_vleaves, List.length_map, Thread.actives_eq]
  have each {i : Instr} {fn : SfuFn} (hx : exec i s = vsfu fn d a ⟨k, e, z⟩ s) : sfu i fn := vsfu_outcome ready hd ha hx
  refine ⟨fun still => ?_, fun quiet => ?_, each (exec_vsfuExp2 ..), each (exec_vsfuLog2 ..), each (exec_vsfuRcp ..),
    each (exec_vsfuRsqrt ..), each (exec_vsfuSin ..), each (exec_vsfuCos ..), each (exec_vsfuTanh ..), each (exec_vsfuSigmoid ..), ?_⟩
  · have sum : treeSum s.t.rm 10 (vleaves s.t a ⟨k, e, false⟩) s.t.ctl.seed = (root.1.getD 0, root.2, 0) := by
      rw [treeSum_root still _ _ _ fits, leaf_eq]
    have label : vlabel s [] [a] (if e = true then [k] else []) true = lr := by simp [vlabel, Thread.seedLabelFor, still, lr]
    rw [← label]
    exact vreduce_outcome ready hd ha (exec_vredFadd ..) sum
  · rcases sum : treeSum s.t.rm 10 (vleaves s.t a ⟨k, e, false⟩) s.t.ctl.seed with ⟨v, fl, draws⟩
    have drawn : draws = if s.t.rm = .sr then act.length - 1 else 0 := by
      have draws := treeSum_draws s.t.rm 10 _ s.t.ctl.seed fits
      rw [sum, count] at draws
      simpa [drawsOf] using draws
    refine ⟨v, (s.t.raise fl).draw draws, ?_, by rw [← drawn]; rfl⟩
    have pending := vreduce_pending ready hd ha (exec_vredFadd d a k e s) sum (by rw [quiet]; exact BitVec.and_zero)
    rwa [show (true && decide (s.t.fpen ≠ 0)) = false by simp [quiet]] at pending
  · refine vwhole_quiet (m := unmasked) ready hd hv rfl (exec_vbflyR4 ..) (congrArg (VecOut.mk · 0 0) (List.map_congr_left fun i _ => ?_))
    have small : i % 4 < 4 := Nat.mod_lt i (by decide)
    simp only [fly4, flyOut_eq, partsOf_eq, cmulQ_eq, four]
    generalize i % 4 = j at small
    match j, small with
    | 0, _ | 1, _ | 2, _ | 3, _ =>
      simp [cAddI, cNegI, cMulJ, scale, sub_eq_add_neg, add_assoc, x, y, q]

/-- The special values, each by the function's own case. -/
theorem specialFunctionValues : Claims.SpecialFunctionValues := by
  unfold SpecialFunctionValues
  intro pInf nInf nan pOne
  refine ⟨?_, ?_, ?_, ?_, ?_, ?_, ?_, ?_, ?_, ?_, ?_, ?_, ?_, ?_, ?_, ?_, ?_, ?_, ?_, ?_, ?_, ?_, ?_, ?_, fun fn => ⟨rfl, rfl⟩⟩ <;> decide

end Sys2Proof.Machine

namespace Sys2Proof

/-- Settles O25: a whole-register instruction leaves its destination pending with the elements of its rule, and the levels of the tree of
`vred.fadd`, taken from its leaves, have the nodes of the tree taken from its root. -/
theorem vectorWhole : Obligations.VectorWhole := ⟨Machine.vectorWholeResults, Machine.vectorWholeFloat, Machine.specialFunctionValues⟩

end Sys2Proof

/-! # Claims of vector lanes (O26) -/

namespace Sys2Proof.Machine
open Sys2Proof Claims

/-! ## The lanes that are granted (R178, R179) -/

section Grant
variable {s : State} {x y : Word}

theorem State.claimFault_image (none : s.imageLanes = 0) : s.claimFault x y = some 2 := if_pos none

theorem State.claimFault_operands (image : s.imageLanes ≠ 0) (bad : x.toNat = 0 ∨ 64 < x.toNat ∨ x.toNat < y.toNat) :
    s.claimFault x y = some 3 := by
  have zero : x.toNat = 0 ↔ x = 0 := ⟨fun h => BitVec.eq_of_toNat_eq h, fun h => h ▸ rfl⟩
  exact (if_neg image).trans (if_pos (bad.imp_left zero.1))

theorem State.claimFault_none (image : s.imageLanes ≠ 0) (some : x ≠ 0) (few : x.toNat ≤ 64) (least : y.toNat ≤ x.toNat) :
    s.claimFault x y = none :=
  (if_neg image).trans (if_neg (not_or.2 ⟨some, not_or.2 ⟨few.not_gt, least.not_gt⟩⟩))

/-- The lanes that a claim gets, with those of its own that count as free (R178, R179). -/
def State.grantable (s : State) (x : Word) (own : Nat) : Nat :=
  min (min x.toNat s.imageLanes)
    (s.vlaneq s.t.ident.part - (s.lanesHeld s.t.ident.part s.t.ident.pan s.t.ident.trellis - own))

section
variable {own g : Nat} (grant : s.grantable x own = g)
include grant

theorem State.claimGrant_none (short : g < max y.toNat 1) : s.claimGrant x y own = none := by
  subst grant
  exact if_pos short

theorem State.claimGrant_some (enough : max y.toNat 1 ≤ g) : s.claimGrant x y own = some g := by
  subst grant
  exact if_neg enough.not_gt

end

end Grant

/-! ## What a thread has after a register is written (R73) -/

section Put
variable (s : State) (d : Reg) (v : Word) (l : Label) (n : Nat)

theorem State.put_claim : (s.put d v l n).t.claim = s.t.claim := Thread.write_claim ..

theorem State.put_ctl : (s.put d v l n).t.ctl = s.t.ctl := Thread.write_ctl ..

/-- The thread after a field of STATUS is replaced, by what is read of it. -/
theorem Thread.setStatus_reads (t : Thread) (lo n v : Nat) :
    ∃ w, t.setStatus lo n v = w ∧ w.regs = t.regs ∧ w.pc = t.pc ∧ w.ctl.status = putField t.ctl.status lo n v :=
  ⟨_, rfl, rfl, rfl, rfl⟩

theorem Thread.reg_eq_of_regs {t u : Thread} (h : t.regs = u.regs) (r : Reg) : t.reg r = u.reg r := by simp only [Thread.reg, h]

theorem State.put_pc : (s.put d v l n).t.pc = s.t.pc + BitVec.ofNat 64 n := rfl

theorem State.put_reg_same (h : d ≠ 0) : (s.put d v l n).t.reg d = ⟨v, true, false, l⟩ := s.t.reg_write_same d v l h

theorem State.put_reg_other {r : Reg} (h : r ≠ d) : (s.put d v l n).t.reg r = s.t.reg r := s.t.reg_write_other d r v l h

end Put

/-! ## The registers of a claim (R178, R179) -/

theorem Claim.fresh_reg (g n : Nat) (l : Label) (v : VReg) :
    (Claim.fresh g n l).regs.getD v.val ⟨[], true, 0⟩ = ⟨List.replicate (16 * g) 0, true, l⟩ :=
  List.getD_replicate _ v.isLt

theorem Claim.fresh_mask (g n : Nat) (l : Label) (k : MReg) :
    (Claim.fresh g n l).masks.getD k.val ⟨[], 0⟩ = ⟨List.replicate (16 * g) true, l⟩ :=
  List.getD_replicate _ k.isLt

/-- A claim that is resized keeps its elements up to its new length, with 0 beyond the old one. -/
theorem Thread.velem_sized {t : Thread} {g n i : Nat} {v : VReg} (inside : i < 16 * g)
    (old : (t.vreg v).elems.length = 16 * t.claim.lanes) (held : v.val < t.claim.regs.length) :
    ({ t with claim := t.claim.sized g n } : Thread).velem v i = if i < 16 * t.claim.lanes then t.velem v i else 0 := by
  have sized : ({ t with claim := t.claim.sized g n } : Thread).vreg v =
      { t.vreg v with elems := ((t.vreg v).elems ++ List.replicate (16 * g) 0).take (16 * g) } := by
    simp [Thread.vreg, Claim.sized, held]
  rw [Thread.velem, sized, Thread.velem, List.getD_eq_getElem?_getD, List.getElem?_take_of_lt inside, List.getElem?_append, old]
  split
  case isTrue => rw [List.getD_eq_getElem?_getD]
  case isFalse out => rw [List.getElem?_replicate_of_lt (by omega)]; rfl

/-! ## The instructions (R175, R178 to R180) -/

section Claim
variable {s : State} {d a b : Reg} {ta tb : Bool} (origin : s.t.atOrigin = true) (hd : s.writable [d]) (hs : s.readable [a, b])
include origin hd hs

/-- `vclaim` in the origin trellis with its registers free. -/
theorem vclaim_issue (k : State → Result) :
    s.issue { Uses.none with away := !s.t.atOrigin, dests := [d], srcs := [(a, ta), (b, tb)] } k = k s :=
  s.issue_go _ k (s.check_go _ nofun (by simp [origin]) nofun hd nofun hs nofun nofun)

theorem vclaim_held (held : s.t.claim.lanes ≠ 0) : exec (.vclaim d a b ta tb) s = .next (s.fail .vclaim 0 1 [a, b] 0) :=
  (exec_vclaim ..).trans ((vclaim_issue origin hd hs _).trans (if_pos (decide_eq_true held)))

section Unclaimed
variable (unclaimed : s.t.claim.lanes = 0)
include unclaimed

theorem vclaim_fault {info : Word} (fault : s.claimFault (s.val a) (s.val b) = some info) :
    exec (.vclaim d a b ta tb) s = .next (s.fail .vclaim 0 info [a, b] 0) := by
  refine (exec_vclaim ..).trans ((vclaim_issue origin hd hs _).trans ((if_neg (by simp [Thread.vclaimed, unclaimed])).trans ?_))
  rw [fault]

variable (fine : s.claimFault (s.val a) (s.val b) = none)
include fine

theorem vclaim_none (none : s.claimGrant (s.val a) (s.val b) 0 = none) :
    exec (.vclaim d a b ta tb) s = .next (s.wrote d 0 [a, b] 4) := by
  refine (exec_vclaim ..).trans ((vclaim_issue origin hd hs _).trans ((if_neg (by simp [Thread.vclaimed, unclaimed])).trans ?_))
  rw [fine, none]
  exact congrArg Host.Outcome.next (State.retire_write ..)

/-- A claim that is granted lanes. -/
theorem vclaim_some {g : Nat} (some : s.claimGrant (s.val a) (s.val b) 0 = some g) {w : Thread} (set : s.t.setStatus 16 1 1 = w) :
    ∃ u : State, exec (.vclaim d a b ta tb) s = .next (u.put d (BitVec.ofNat 64 g) (s.joined [a, b]) 4) ∧
      u.t = { w with claim := Claim.fresh g s.time.next s.t.ctl.clabel } ∧ u.mem = s.mem ∧ u.others = s.others := by
  have run := (exec_vclaim d a b ta tb s).trans ((vclaim_issue origin hd hs _).trans (if_neg (by simp [Thread.vclaimed, unclaimed])))
  rw [fine, some] at run
  subst set
  exact ⟨_, run.trans (congrArg Host.Outcome.next (State.retire_write ..)), State.modPart_t .., State.modPart_mem ..,
    State.modPart_others ..⟩

end Unclaimed

end Claim

theorem vectorClaim : Claims.VectorClaim := by
  intro s d a b ta tb origin hd hs x y want free g label refuse
  have trapped {info : Word} (h : exec (.vclaim d a b ta tb) s = .next (s.fail .vclaim 0 info [a, b] 0)) : refuse info :=
    fun traps => h.trans (congrArg Host.Outcome.next ((s.fail_traps .vclaim 0 info [a, b] 0 traps).trans
      (congrArg (s.trapped 0x14 s.t.pc 0 info) (label_or_zero _))))
  have grant : s.grantable (s.val a) 0 = g := by rw [State.grantable, Nat.sub_zero]
  clear_value g
  refine ⟨fun held => trapped (vclaim_held origin hd hs held),
    fun unclaimed none => trapped (vclaim_fault origin hd hs unclaimed (State.claimFault_image none)),
    fun unclaimed image bad => trapped (vclaim_fault origin hd hs unclaimed (State.claimFault_operands image bad)),
    fun unclaimed image one few least short => ?_, fun unclaimed image one few least enough => ?_⟩
  · have fine := State.claimFault_none image (fun h => by simp [x, h] at one) few least
    exact vclaim_none origin hd hs unclaimed fine (State.claimGrant_none grant short)
  · have fine := State.claimFault_none image (fun h => by simp [x, h] at one) few least
    obtain ⟨w, set, regs, pc, status⟩ := s.t.setStatus_reads 16 1 1
    obtain ⟨u, run, thread, mem, others⟩ := vclaim_some (ta := ta) (tb := tb) origin hd hs unclaimed fine
      (State.claimGrant_some grant enough) set
    have claim : u.t.claim = Claim.fresh g s.time.next s.t.ctl.clabel := congrArg Thread.claim thread
    have kept : (u.put d (BitVec.ofNat 64 g) (s.joined [a, b]) 4).t.claim = _ := (State.put_claim ..).trans claim
    refine ⟨_, run, mem, others, congrArg (· + 4) ((congrArg Thread.pc thread).trans pc), State.put_reg_same _ _ _ _ _,
      fun r hr => (State.put_reg_other _ _ _ _ _ hr).trans (Thread.reg_eq_of_regs ((congrArg Thread.regs thread).trans regs) r),
      congrArg Claim.lanes kept, ?_, fun v => ?_, fun k => ?_⟩
    · rw [State.put_ctl, thread, status]
      exact fieldOf_putField_same _ _ (by decide)
    · rw [Thread.vreg, kept]
      exact Claim.fresh_reg _ _ _ v
    · rw [Thread.mreg, kept]
      exact Claim.fresh_mask _ _ _ k

section Sync
variable {s : State} {d a b : Reg} {ta tb : Bool} (ready : vready s []) (hd : s.writable [d]) (hs : s.readable [a, b])
include ready hd hs

theorem vsync_issue (k : State → Result) : vissue [] [] false [d] [(a, ta), (b, tb)] s k = k s := vissue_ready ready hd hs nofun

theorem vsync_busy (busy : s.vecDrained = false) : exec (.vsync d a b ta tb) s = .next (s.hold .waits) :=
  (exec_vsync ..).trans ((vsync_issue ready hd hs _).trans (if_pos (by rw [busy]; rfl)))

section Drained
variable (done : s.vecDrained = true)
include done

theorem vsync_count (zero : s.val a = 0) :
    exec (.vsync d a b ta tb) s = .next (s.wrote d (BitVec.ofNat 64 s.t.claim.lanes) [a, b] 4) :=
  (exec_vsync ..).trans ((vsync_issue ready hd hs _).trans ((if_neg (by simp [done])).trans ((if_pos zero).trans
    (congrArg Host.Outcome.next (State.retire_write ..)))))

variable (count : s.val a ≠ 0) (fine : s.claimFault (s.val a) (s.val b) = none)
include count fine

theorem vsync_none (none : s.claimGrant (s.val a) (s.val b) s.t.claim.lanes = none) :
    exec (.vsync d a b ta tb) s = .next (s.wrote d 0 [a, b] 4) := by
  have run := (exec_vsync d a b ta tb s).trans
    ((vsync_issue ready hd hs _).trans ((if_neg (by simp [done])).trans (if_neg count)))
  rw [fine, none] at run
  exact run.trans (congrArg Host.Outcome.next (State.retire_write ..))

/-- A claim that is resized. -/
theorem vsync_some {g : Nat} (some : s.claimGrant (s.val a) (s.val b) s.t.claim.lanes = some g) :
    exec (.vsync d a b ta tb) s = .next (({ s.fresh.2 with t := { s.t with claim := s.t.claim.sized g s.time.next } } : State).put d
      (BitVec.ofNat 64 g) (s.joined [a, b]) 4) := by
  have run := (exec_vsync d a b ta tb s).trans
    ((vsync_issue ready hd hs _).trans ((if_neg (by simp [done])).trans (if_neg count)))
  rw [fine, some] at run
  exact run.trans (congrArg Host.Outcome.next (State.retire_write ..))

end Drained

end Sync

theorem vectorSyncAndRelease : Claims.VectorSyncAndRelease := by
  intro s d a b ta tb origin claimed
  have ready : vready s [] := ⟨origin, claimed, fun v hv => absurd hv List.not_mem_nil⟩
  have own (k : State → Result) : vissue [] [] false [] [] s k = k s := vissue_ready ready s.writable_nil s.readable_nil nofun
  refine ⟨fun busy => ?_, fun done => ?_, fun hd hs => ?_⟩
  · rw [exec_vrel, execVrel, own, busy]
    rfl
  · obtain ⟨w, set, regs, pc, status⟩ := s.t.setStatus_reads 16 1 0
    have run : exec (.vrel ta tb) s = .next (({ s with t := { w with claim := Claim.none } } : State).retire 4) := by
      rw [exec_vrel, execVrel, own, done, Thread.dropClaim, set]
      rfl
    refine ⟨_, run, rfl, rfl, rfl, ?_, congrArg (· + 4) pc, Thread.reg_eq_of_regs regs⟩
    exact (congrArg (fieldOf · 16 1) status).trans (fieldOf_putField_same _ _ (by decide))
  · refine ⟨vsync_busy ready hd hs, vsync_count ready hd hs, fun done count => ?_⟩
    intro x y free g image few least
    have fine := State.claimFault_none image count few least
    have grant : s.grantable (s.val a) s.t.claim.lanes = g := rfl
    clear_value g
    refine ⟨fun short => vsync_none ready hd hs done count fine (State.claimGrant_none grant short), fun enough =>
      ⟨_, vsync_some ready hd hs done count fine (State.claimGrant_some grant enough), congrArg Claim.lanes (State.put_claim ..),
        rfl, rfl, fun h => congrArg GReg.val (State.put_reg_same _ _ _ _ _ h), fun v i inside old held => ?_⟩⟩
    rw [Thread.velem, Thread.vreg, State.put_claim]
    exact Thread.velem_sized inside old held

end Sys2Proof.Machine

namespace Sys2Proof

/-- Settles O26: a claim goes by its checks and by the lanes that can be granted, and neither `vrel` nor `vsync` goes on before the thread's
vector work is complete. -/
theorem vectorClaims : Obligations.VectorClaims := ⟨Machine.vectorClaim, Machine.vectorSyncAndRelease⟩

end Sys2Proof

/-! # Vector loads and stores (O27) -/

namespace Sys2Proof.Machine
open Sys2Proof Claims

/-! ## Requests in a row (R208, R213) -/

section Row
variable {α : Type} {s : State} {step : State → α → State} {stands : α → State → Prop}

/-- Requests that are sent one after the other all stand, and nothing else has changed. -/
theorem State.Sends.foldl (each : ∀ u x, s.Sends u → u.Sends (step u x) ∧ stands x (step u x))
    (kept : ∀ x u v, stands x u → u.Sends v → stands x v) (l : List α) {u : State} (before : s.Sends u) :
    u.Sends (l.foldl step u) ∧ ∀ x ∈ l, stands x (l.foldl step u) := by
  induction l generalizing u with
  | nil => exact ⟨.refl u, fun x hx => absurd hx List.not_mem_nil⟩
  | cons x l ih =>
    obtain ⟨sent, here⟩ := each u x before
    obtain ⟨rest, others⟩ := ih (before.trans sent)
    refine ⟨sent.trans rest, fun y hy => ?_⟩
    obtain rfl | later := List.mem_cons.1 hy
    · exact kept _ _ _ here rest
    · exact others y later

/-- A request of the vector pool to a place in the own Pan stands at its bank. -/
theorem State.Sends.send {u : State} (before : s.Sends u) (source : Nat) (op : MemOp) (pa : Nat) (va : Word) (label : Label) (fill : Option Nat) :
    let v := (u.sendFrom source op ⟨.pan u.t.ident.pan pa, 0, 0, false⟩ va label .direct false fill 4).2
    u.Sends v ∧ AtBank s v op s.t.ident.pan pa label := by
  have ident : u.t.ident = s.t.ident := congrArg Thread.ident before.thread
  obtain ⟨sent, here⟩ := State.sendAfter_direct (s := u) (x := ⟨.pan u.t.ident.pan pa, 0, 0, false⟩)
    (congrArg (fun i => Loc.pan i.pan pa) ident) op va label false fill 4 0 source
  exact ⟨sent, here.base ident before.cycle⟩

end Row

/-! ## Loads (R188, R189, R191) -/

/-- The state in which a vector result has become outstanding, by what is read of it. -/
theorem State.newVecFill_reads (s : State) (d : VReg) (m : Masking) (parts : Nat) (label : Label) (resume : Bool) (elems : List (BitVec 32)) :
    ∃ u, (s.newVecFill d m parts label resume elems).2 = u ∧ u.mem = s.mem ∧ u.others = s.others ∧
      s.vecFill d m parts label resume elems ∈ u.fab.fills ∧ u.t = s.t.setVreg d { s.t.vreg d with full := false } ∧
      u.t.ident = s.t.ident ∧ u.time.cycle = s.time.cycle :=
  ⟨_, rfl, rfl, rfl, List.mem_cons_self, rfl, rfl, rfl⟩

/-- The place of an element's first byte. -/
def VecElem.place (y : VecElem) : Nat := ((y.places.head?).map Prod.snd).getD 0

/-- An element's read stands at the bank of its first byte. -/
def readStands (s : State) (f : Fmt) (y : VecElem) (u : State) : Prop :=
  AtBank s u (.vload y.i f y.bit y.places) s.t.ident.pan y.place 0

/-- The reads of a load, one after the other. -/
def State.sendReads (s : State) (f : Fmt) (els : List VecElem) (fill : Nat) : State :=
  els.foldl (fun (u : State) y => (u.sendFrom (8 + y.i % 4) (.vload y.i f y.bit y.places) ⟨.pan u.t.ident.pan y.place, 0, 0, false⟩
    y.va 0 .direct false (some fill) 4).2) s

theorem State.sendReads_stand (s : State) (f : Fmt) (els : List VecElem) (fill : Nat) :
    s.Sends (s.sendReads f els fill) ∧ ∀ y ∈ els, readStands s f y (s.sendReads f els fill) :=
  State.Sends.foldl (stands := readStands s f) (fun _ _ before => before.send _ _ _ _ _ _)
    (fun _ _ _ here more => AtBank.sends here more) els (.refl s)

section Load
variable {s : State} {form : VecForm} {d : VReg} {a : Reg} {bs : List (Reg × Bool)} {us vs : List VReg} {m : Masking} {ta : Bool}
  (ready : vready s us) (hd : d ∈ us) (hv : vs ⊆ us) (hr : s.readable (a :: bs.map Prod.fst)) (free : s.acquireHeld = false)
include ready hd hv hr free

theorem vload_issue (k : State → Result) :
    vissue [d] (vs ++ if m.merges then [d] else []) true [] ((a, ta) :: bs) s k = k s :=
  vissue_ready (vready_reads ready hd hv m.merges) s.writable_nil hr fun _ => free

/-- A load whose check fails. -/
theorem vload_fault {c : TrapCode} {va : Word} (check : s.vecCheck form (s.val a) (s.t.actives m) false = .error (c, va)) :
    vload form d a bs vs m ta s = .next (s.fail c va 0 (a :: bs.map Prod.fst)
      (s.t.vlabels (vs ++ if m.merges then [d] else []) m.masks)) := by
  refine (vload_issue ready hd hv hr free _).trans ?_
  rw [check]
  rfl

section Passed
variable {f : Fmt} {els : List VecElem} (check : s.vecCheck form (s.val a) (s.t.actives m) false = .ok (f, els)) {l : Label}
  (label : s.joined (a :: bs.map Prod.fst) ||| s.t.vlabels (vs ++ if m.merges then [d] else []) m.masks |||
    unionOf (els.flatMap VecElem.labels) = l)
include check label

/-- A load without an active element. -/
theorem vload_none (none : els = []) : vload form d a bs vs m ta s = .next (vwrote s s.t d (s.t.blend m d fun _ => 0) l 4) := by
  subst none label
  refine (vload_issue ready hd hv hr free _).trans ?_
  rw [check]
  rfl

/-- A load with active elements. -/
theorem vload_some (some : els ≠ []) {start : List (BitVec 32)} (begins : (s.t.blend m d fun _ => 0) = start) :
    vload form d a bs vs m ta s =
      .next (((s.newVecFill d m els.length l false start).2.sendReads f els s.time.next).retire 4) := by
  subst begins label
  refine (vload_issue ready hd hv hr free _).trans ?_
  rw [check]
  exact if_neg (by simpa using some)

end Passed

end Load

theorem vectorLoads : Claims.VectorLoads := by
  intro s d x a b k e z ta tb ready hr free _ _ _ acts m old start out
  have hd : d ∈ [d, x] := by simp
  have ha : s.readable [a] := fun r hr' => hr r (by simp_all)
  have outcome {i : Instr} {form : VecForm} {bs : List (Reg × Bool)} {vs : List VReg} (hr : s.readable (a :: bs.map Prod.fst))
      (hv : vs ⊆ [d, x]) (hx : exec i s = vload form d a bs vs ⟨k, e, z⟩ ta s) : out i form (a :: bs.map Prod.fst) vs := by
    unfold out
    intro lv
    have acts_eq : s.t.actives ⟨k, e, z⟩ = acts := Thread.actives_eq k e z s.t
    have begins : (s.t.blend ⟨k, e, z⟩ d fun _ => 0) = start := blend_eq s d k e z fun _ _ _ => rfl
    have reads : s.t.vlabels (vs ++ if Masking.merges ⟨k, e, z⟩ then [d] else []) (Masking.masks ⟨k, e, z⟩) = lv := by
      cases e <;> cases z <;> rfl
    refine ⟨fun c va check traps => ?_, fun f els check => ⟨fun none => ?_, fun some => ?_⟩⟩
    · rw [hx, vload_fault ready hd hv hr free (acts_eq ▸ check), State.fail_traps _ _ _ _ _ _ traps, reads]
    · rw [hx, vload_none ready hd hv hr free (acts_eq ▸ check) rfl none, begins, reads]
    · have run := vload_some (ta := ta) ready hd hv hr free (acts_eq ▸ check) rfl some begins
      rw [reads, ← hx] at run
      generalize s.joined (a :: bs.map Prod.fst) ||| lv ||| unionOf (els.flatMap VecElem.labels) = l at run ⊢
      obtain ⟨u, made, mem, others, fill, thread, ident, cycle⟩ := s.newVecFill_reads d ⟨k, e, z⟩ els.length l false start
      obtain ⟨sent, stand⟩ := u.sendReads_stand f els s.time.next
      rw [made] at run
      generalize u.sendReads f els s.time.next = v at run sent stand
      refine ⟨_, s.vecFill d ⟨k, e, z⟩ els.length l false start, run, sent.mem.trans mem, sent.others.trans others, ?_, rfl,
        ⟨_, rfl⟩, rfl, rfl, rfl, ?_, ?_⟩
      · exact sent.fills ▸ fill
      · exact congrArg (fun t : Thread => { t with pc := t.pc + 4, prog := .fresh, proxy := false }) (sent.thread.trans thread)
      · intro y hy p hp
        have here := ((stand y hy).base ident cycle).queued
        rw [VecElem.place, Option.mem_def.1 hp, ident] at here
        exact here
  exact ⟨outcome (bs := []) ha (List.nil_subset _) (exec_vld ..), outcome (bs := [(b, tb)]) hr (List.nil_subset _) (exec_vlds ..),
    outcome (bs := []) ha (by simp) (exec_vldx ..)⟩

/-! ## Stores (R190, R191) -/

/-- A piece of an element stands at the bank of its first byte. -/
def pieceStands (s : State) (l : Label) (p : VecPiece) (u : State) : Prop :=
  AtBank s u (.vstore p.width p.bit p.code) s.t.ident.pan p.pa l

/-- The pieces of an element, one after the other. -/
def State.sendPieces (s : State) (l : Label) (i : Nat) (ps : List VecPiece) : State :=
  ps.foldl (fun (u : State) p => (u.sendFrom (8 + i % 4) (.vstore p.width p.bit p.code) ⟨.pan u.t.ident.pan p.pa, 0, 0, false⟩
    p.va l .direct false none 4).2) s

theorem State.Sends.sendPieces {s u : State} (before : s.Sends u) (l : Label) (i : Nat) (ps : List VecPiece) :
    u.Sends (u.sendPieces l i ps) ∧ ∀ p ∈ ps, pieceStands s l p (u.sendPieces l i ps) :=
  State.Sends.foldl (stands := pieceStands s l) (fun _ _ before => before.send _ _ _ _ _ _)
    (fun _ _ _ here more => AtBank.sends here more) ps before

/-- An element with its number and its code. -/
abbrev Coded := VecElem × Nat × BitVec 32

/-- The pieces of an element that has its code. -/
def codedPieces (f : Fmt) (x : Coded) : List VecPiece := x.1.pieces (fmtBits f) x.2.2.toNat

/-- The pieces of an element that has its code stand at their banks. -/
def codeStands (s : State) (f : Fmt) (l : Label) (x : Coded) (u : State) : Prop :=
  ∀ p ∈ codedPieces f x, pieceStands s l p u

/-- The writes of a store, one after the other. -/
def State.sendWrites (s : State) (f : Fmt) (l : Label) (xs : List Coded) : State :=
  xs.foldl (fun u x => u.sendPieces l x.1.i (codedPieces f x)) s

theorem State.sendWrites_stand (s : State) (f : Fmt) (l : Label) (xs : List Coded) :
    s.Sends (s.sendWrites f l xs) ∧ ∀ x ∈ xs, codeStands s f l x (s.sendWrites f l xs) :=
  State.Sends.foldl (stands := codeStands s f l) (fun _ x before => before.sendPieces l x.1.i _)
    (fun _ _ _ here more p hp => AtBank.sends (here p hp) more) xs (.refl s)

/-- The state after a store's flags and draws, by what is read of it. -/
theorem State.raise_draw_reads (s : State) (fl : FFlags) (n : Nat) :
    ∃ u : State, { s with t := (s.t.raise fl).draw n } = u ∧ u.mem = s.mem ∧ u.others = s.others ∧ u.t.ident = s.t.ident ∧
      u.time.cycle = s.time.cycle ∧ u.t.pc = s.t.pc ∧ u.t.claim = s.t.claim ∧ u.t.regs = s.t.regs ∧
      u.t.ctl.seed = xorshiftN n s.t.ctl.seed ∧ u.t.ctl.status = (s.t.raise fl).ctl.status :=
  ⟨_, rfl, rfl, rfl, rfl, rfl, rfl, rfl, rfl, rfl, rfl⟩

/-- Only SR draws for a store, so its label is SEED's label where it draws (R161, R373). -/
theorem vecDraws_label (f : Fmt) (t : Thread) :
    (if vecDraws f t.rm = 0 then (0 : Label) else t.seedLabelFor t.rm) = if vecDraws f t.rm = 0 then 0 else t.ctl.seedLabel := by
  by_cases sr : t.rm = .sr
  · rw [Thread.seedLabelFor, if_pos sr]
  · have none : vecDraws f t.rm = 0 := by simp [vecDraws, drawsOf, sr]
    rw [if_pos none, if_pos none]

/-- The element at a place among those of a store has the code of that place. -/
theorem coded_mem {els : List VecElem} {acts : List Nat} (numbers : els.map VecElem.i = acts) {code : Nat × Nat → BitVec 32} {n : Nat}
    {y : VecElem} (hy : els[n]? = some y) : (y, y.i, code (n, y.i)) ∈ List.zip els ((positions acts).map fun x => (x.2, code x)) := by
  subst numbers
  obtain ⟨inside, rfl⟩ := List.getElem?_eq_some_iff.1 hy
  have position : (positions (els.map VecElem.i))[n]? = some (n, els[n].i) := by simp [positions, inside]
  refine List.mem_of_getElem? (i := n) (List.getElem?_zip_eq_some.2 ⟨hy, ?_⟩)
  rw [List.getElem?_map, position]
  rfl

section Store
variable {s : State} {form : VecForm} {d : VReg} {a : Reg} {us vs : List VReg} {m : Masking} {ta : Bool}
  (ready : vready s us) (hv : d :: vs ⊆ us) (hr : s.readable [a]) (free : s.acquireHeld = false)
include ready hv hr free

theorem vstore_issue (k : State → Result) : vissue [] (d :: vs) true [] [(a, ta)] s k = k s :=
  vissue_ready (vready_mono ready hv) s.writable_nil hr fun _ => free

/-- A store whose check fails. -/
theorem vstore_fault {c : TrapCode} {va : Word} (check : s.vecCheck form (s.val a) (s.t.actives m) true = .error (c, va)) :
    vstoreTo form d a vs m ta s = .next (s.fail c va 0 [a] (s.t.vlabels (d :: vs) m.masks)) := by
  refine (vstore_issue ready hv hr free _).trans ?_
  dsimp only
  rw [check]

section Passed
variable {f : Fmt} {els : List VecElem} {acts : List Nat} (active : s.t.actives m = acts)
  (check : s.vecCheck form (s.val a) acts true = .ok (f, els)) {l : Label}
  (label : s.joined [a] ||| s.t.vlabels (d :: vs) m.masks ||| (if vecDraws f s.t.rm = 0 then 0 else s.t.ctl.seedLabel) = l)
  (allowed : ∀ y ∈ els, ∀ g ∈ y.labels, labelLe l g = true) {codes : List (Nat × BitVec 32)} {fl : FFlags}
  (encoded : vfoldDraws (vecDraws f s.t.rm) (fun w i => vecEncode f s.t.rm w (s.t.velem d i)) acts s.t.ctl.seed = (codes, fl))
include active check label allowed encoded

/-- A store that its labels allow: FPEXC, or its writes. -/
theorem vstore_passed : vstoreTo form d a vs m ta s =
    if fl &&& s.t.fpen ≠ 0 then .next (s.vecTrap fl l)
    else .next ((State.sendWrites { s with t := (s.t.raise fl).draw (vecDraws f s.t.rm * acts.length) } f l
      (List.zip els codes)).retire 4) := by
  have none : (els.find? fun x => x.labels.any fun g => !labelLe l g) = none := by
    refine List.find?_eq_none.2 fun y hy => ?_
    simpa using allowed y hy
  refine (vstore_issue ready hv hr free _).trans ?_
  dsimp only
  rw [active, check]
  dsimp only
  rw [vecDraws_label, State.resultLabel_eq, label, none, encoded]
  rfl

end Passed

end Store

theorem vectorStores : Claims.VectorStores := by
  intro s d x a k e ta tb ready hr free _ _ _ acts m out
  have outcome {i : Instr} {form : VecForm} {vs : List VReg} (hv : d :: vs ⊆ [d, x])
      (hx : exec i s = vstoreTo form d a vs ⟨k, e, false⟩ ta s) : out i form vs := by
    unfold out
    intro lv
    have acts_eq : s.t.actives ⟨k, e, false⟩ = acts := Thread.actives_eq k e false s.t
    refine ⟨fun c va check traps => ?_, fun f els check numbers => ?_⟩
    · rw [hx, vstore_fault ready hv hr free (acts_eq ▸ check), State.fail_traps _ _ _ _ _ _ traps]
      rfl
    · intro c l code flags allowed
      have label : s.joined [a] ||| s.t.vlabels (d :: vs) (Masking.masks ⟨k, e, false⟩) ||| (if c = 0 then 0 else s.t.ctl.seedLabel) = l := rfl
      have encoded : vfoldDraws c (fun w i => vecEncode f s.t.rm w (s.t.velem d i)) acts s.t.ctl.seed =
          ((positions acts).map fun x => (x.2, (code x.1 x.2).1), flags) :=
        vfoldDraws_eq c (fun w i => vecEncode f s.t.rm w (s.t.velem d i)) acts s.t.ctl.seed
      have run := hx.trans (vstore_passed (ta := ta) ready hv hr free acts_eq check label allowed encoded)
      clear label encoded
      clear_value flags l
      refine ⟨fun loud => run.trans (if_pos loud), fun quiet => ?_⟩
      replace run := run.trans (if_neg (not_not.2 quiet))
      obtain ⟨u, made, mem, others, ident, cycle, pc, claim, regs, seed, status⟩ := s.raise_draw_reads flags (c * acts.length)
      rw [made] at run
      obtain ⟨sent, stand⟩ := u.sendWrites_stand f l (List.zip els ((positions acts).map fun x => (x.2, (code x.1 x.2).1)))
      generalize u.sendWrites f l _ = v at run sent stand
      have thread : v.t = u.t := sent.thread
      refine ⟨_, run, sent.mem.trans mem, sent.others.trans others, ?_, ?_, ?_, ?_, fun r => ?_, fun n y hy p hp => ?_⟩
      · rw [← pc, ← thread]; rfl
      · rw [← claim, ← thread]; rfl
      · rw [← seed, ← thread]; rfl
      · rw [← status, ← thread]; rfl
      · exact Thread.reg_eq_of_regs (regs ▸ thread ▸ rfl) r
      · have here := stand _ (coded_mem (code := fun x => (code x.1 x.2).1) numbers hy) p hp
        have queued := (AtBank.base here ident cycle).queued
        rw [ident] at queued
        exact queued
  exact ⟨outcome (by simp) (exec_vst ..), outcome (List.Subset.refl _) (exec_vstx ..)⟩

end Sys2Proof.Machine

namespace Sys2Proof

/-- Settles O27: the shared outcomes of the loads, and of the stores, in each addressing form; requests sent in a row all stand at their banks. -/
theorem vectorMemory : Obligations.VectorMemory := ⟨Machine.vectorLoads, Machine.vectorStores⟩

end Sys2Proof
